-- ==== Sys2Proof/Word.lean ====
section
/-! DEFINITION. The word types of the Chacel: bytes, 32-bit lane words, 64-bit scalars, lane masks,
operand codes. -/

namespace Sys2Proof

/-- One byte of memory or scratchpad. -/
abbrev Byte := BitVec 8
/-- One lane of a vector register (R39). -/
abbrev Word := BitVec 32
/-- A scalar register, a special register or an address (R39, R253). -/
abbrev DWord := BitVec 64
/-- A set of lanes: bit i stands for lane i (R217). -/
abbrev Mask := BitVec 64
/-- A vector operand code (R37). -/
abbrev Code := BitVec 7
/-- The number of a scalar register S0 to S31 (R106). -/
abbrev SReg := BitVec 5

/-- The sixteen format tags less the reserved one (R55). -/
inductive Tag where
  | und | uw | sw | f32 | bf2 | hf2 | e43 | e52 | e21 | e80 | sb4 | ub4 | sh2 | alo | ahi
  deriving DecidableEq, Repr, Inhabited

end Sys2Proof
end

