-- ==== Sys2Proof/Config.lean ====
section
/-! DEFINITION. What the manual leaves open (free values: constants without a body) and what it fixes
for the part (figures of R2 and R228). -/

namespace Sys2Proof.Config

/-- A free choice among several outcomes that the manual allows, indexed by the state's counter fv.
Log entry 4. -/
opaque freeNat : Nat → Nat
/-- A free word, for values the manual leaves open. Log entry 4. -/
opaque freeWord : Nat → BitVec 32
/-- FRCP, FRSQ, FEX2, FLG2, FSIN, FCOS are fixed functions of the input bits and MODE.FTZ (R184) that
the manual only bounds (R182). Log entry 5. -/
opaque frcp : Bool → BitVec 32 → BitVec 32
opaque frsq : Bool → BitVec 32 → BitVec 32
opaque fex2 : Bool → BitVec 32 → BitVec 32
opaque flg2 : Bool → BitVec 32 → BitVec 32
opaque fsin : Bool → BitVec 32 → BitVec 32
opaque fcos : Bool → BitVec 32 → BitVec 32
/-- Which line a full die cache replaces, by the lines that it holds: it affects timing only (R454). Log entry 100. -/
opaque dieVictim : List (Nat × Bool) → Nat
/-- What the sensors of a unit read at a moment: quantities that the manual names and gives no values for (R498). Log
entry 101. -/
opaque sensed : Nat → Nat → Nat → Nat
/-- The OP byte of a fabric update by FMAXN, which R515 gives no code (R302). Log entry 102. -/
opaque fabMaxOp : BitVec 8
/-- The slice of its home's die cache, modulo 32, that holds a line (R494; log entry 77). -/
opaque sliceOf : Nat → Nat
/-- HBMILV of the package with an index in the domain (R458, R511): the register of another package. Log entry 13. -/
opaque hbmilvOf : Nat → Nat
/-- SHA-384 of a byte string (R490, R491). Log entry 14. -/
opaque sha384 : List (BitVec 8) → List (BitVec 8)
/-- Whether an ECDSA P-384 signature over bytes 0 to 63 of a header verifies (R491). Log entry 14. -/
opaque ecdsaOk : List (BitVec 8) → Bool
/-- Whether an HSS signature over bytes 0 to 63 of a header verifies (R491). Log entry 14. -/
opaque hssOk : List (BitVec 8) → Bool
/-- The ECDSA signature of an SPDM response over a transcript hash (R493). Log entry 14. -/
opaque spdmSign : List (BitVec 8) → List (BitVec 8)
/-- The HSS signature with an index over a transcript hash (R493). Log entry 14. -/
opaque hssSign : Nat → List (BitVec 8) → List (BitVec 8)
/-- What a response to the request of a number holds that the manual does not give, over a transcript (R493). Log
entry 15. -/
opaque spdmBody : Nat → List (BitVec 8) → List (BitVec 8)
/-- The bytes of the ECDSA certificate chain in slot 0 (R493). Log entry 15. -/
opaque certChain : List (BitVec 8)
/-- The bytes of the HSS certificate (R493). Log entry 15. -/
opaque hssCert : List (BitVec 8)

/-- The number of lanes W of a core kind (R228). -/
def lanes (tower : Bool) : Nat := if tower then 64 else 32
/-- Whether a compute die is a Tower die (R2, spec 00). -/
def isTower (die : Nat) : Bool := 2 ≤ die
/-- Cores of a compute die (R2). -/
def cores (die : Nat) : Nat := if isTower die then 144 else 96
/-- Physical vector registers of a core (R49, R228). -/
def pool (tower : Bool) : Nat := if tower then 1024 else 3072
/-- Owner-bit slots of a core's SRAM (R228). -/
def slots (tower : Bool) : Nat := if tower then 256 else 128
/-- Bytes of one owner-bit slot (R228). -/
def slotBytes (tower : Bool) : Nat := if tower then 16384 else 4096
/-- SRAM ways of a core (R228). -/
def ways (tower : Bool) : Nat := if tower then 64 else 32
/-- Resident courses of a core, shadows included (R228). -/
def residents (tower : Bool) : Nat := if tower then 16 else 48
/-- Courses of a block, shadows excluded (R228). -/
def blockCourses (tower : Bool) : Nat := if tower then 8 else 16
/-- Lines of 64 bytes that the die cache of a die holds (R454). -/
def dieLines (tower : Bool) : Nat := if tower then 2 ^ 20 else 3 * 2 ^ 19
/-- L1 sets of a core (R228, R240). -/
def l1Sets (tower : Bool) : Nat := if tower then 1024 else 256

end Sys2Proof.Config
end

