-- ==== Sys2Proof/Machine/Fp.lean ====
section
/-! DEFINITION. The arithmetic of the number formats (R67 to R92): exact values, one rounding, flags. A
finite value is a sign, a mantissa and a power of two; nothing here rounds but `roundTo`. -/

namespace Sys2Proof.Machine

/-! ## Flags (R46) -/

def fNV : DWord := 0x1
def fDZ : DWord := 0x2
def fOF : DWord := 0x4
def fUF : DWord := 0x8
def fNX : DWord := 0x10
def fRRD : DWord := 0x20
def fFMTC : DWord := 0x40
def fSAT : DWord := 0x80
def fRSVN : DWord := 0x100

def flagIf (c : Bool) (f : DWord) : DWord := if c then f else 0

/-- A result with the flags that it raises. -/
abbrev FR := Nat × DWord

/-! ## Formats (R67) -/

inductive NanKind where
  /-- infinity and NaN in the top exponent; a NaN with the top fraction bit 0 signals (R70) -/
  | ieee
  /-- as ieee, every NaN quiet: E5M2 -/
  | quiet
  /-- one NaN pattern and no infinity: E4M3 -/
  | e4m3
  /-- every pattern finite: E2M1 -/
  | none
  deriving DecidableEq, Repr

structure Fmt where
  eb : Nat
  mb : Nat
  bias : Nat
  kind : NanKind
  deriving DecidableEq, Repr

def f32 : Fmt := ⟨8, 23, 127, .ieee⟩
def fHF : Fmt := ⟨5, 10, 15, .ieee⟩
def fBF : Fmt := ⟨8, 7, 127, .ieee⟩
def fE43 : Fmt := ⟨4, 3, 7, .e4m3⟩
def fE52 : Fmt := ⟨5, 2, 15, .quiet⟩
def fE21 : Fmt := ⟨2, 1, 1, .none⟩

/-- The canonical NaN of a format; E2M1 has none and takes +0 (R70, R76). -/
def Fmt.nan (f : Fmt) : Nat :=
  match f.kind with
  | .ieee | .quiet => (2 ^ f.eb - 1) * 2 ^ f.mb + 2 ^ (f.mb - 1)
  | .e4m3 => 0x7F
  | .none => 0

/-- The pattern of the largest finite magnitude (R67). -/
def Fmt.maxFin (f : Fmt) : Nat :=
  match f.kind with
  | .ieee | .quiet => (2 ^ f.eb - 1) * 2 ^ f.mb - 1
  | .e4m3 => 0x7E
  | .none => 0x7

/-- The pattern of infinity; formats without one have none and the callers treat them apart. -/
def Fmt.inf (f : Fmt) : Nat := (2 ^ f.eb - 1) * 2 ^ f.mb

def Fmt.sign (f : Fmt) (neg : Bool) : Nat := if neg then 2 ^ (f.eb + f.mb) else 0

/-- The exponent of the last place of a subnormal. -/
def Fmt.emin (f : Fmt) : Int := 1 - (f.bias : Int) - (f.mb : Int)

/-- The value of a pattern: NaN, infinity, or (-1)^neg * m * 2^e (R68). -/
inductive FVal where
  | nan (sig : Bool)
  | inf (neg : Bool)
  | fin (neg : Bool) (m : Nat) (e : Int)
  deriving DecidableEq, Repr

def Fmt.val (f : Fmt) (x : Nat) : FVal :=
  let fr := x % 2 ^ f.mb
  let ex := x / 2 ^ f.mb % 2 ^ f.eb
  let neg := x / 2 ^ (f.mb + f.eb) % 2 == 1
  let special : Bool := match f.kind with
    | .ieee | .quiet => ex == 2 ^ f.eb - 1
    | .e4m3 => ex == 15 && fr == 7
    | .none => false
  if special then
    match f.kind with
    | .ieee => if fr == 0 then .inf neg else .nan (decide (fr < 2 ^ (f.mb - 1)))
    | .quiet => if fr == 0 then .inf neg else .nan false
    | _ => .nan false
  else if ex == 0 then .fin neg fr f.emin
  else .fin neg (2 ^ f.mb + fr) (f.emin + ((ex : Int) - 1))

def FVal.isNan : FVal → Bool
  | .nan _ => true
  | _ => false

def FVal.isSig : FVal → Bool
  | .nan s => s
  | _ => false

def FVal.isNeg : FVal → Bool
  | .nan _ => false
  | .inf n => n
  | .fin n _ _ => n

def FVal.isZero : FVal → Bool
  | .fin _ m _ => m == 0
  | _ => false

/-! ## Rounding (R72, R73) -/

/-- Rounding modes with the codes of MODE.RM (R45). -/
inductive RM where
  | rne | rz | rd | ru
  deriving DecidableEq, Repr

def RM.decode (n : Nat) : RM :=
  match n % 4 with
  | 0 => .rne
  | 1 => .rz
  | 2 => .rd
  | _ => .ru

/-- m * 2^e in units of 2^q, rounded, and whether that was inexact. -/
def roundTo (mode : RM) (neg : Bool) (m : Nat) (e q : Int) : Nat × Bool :=
  if q ≤ e then (m * 2 ^ (e - q).toNat, false)
  else
    let s := (q - e).toNat
    let hi := m / 2 ^ s
    let rem := m % 2 ^ s
    let up : Bool := match mode with
      | .rne => decide (2 ^ s < 2 * rem) || (decide (2 ^ s = 2 * rem) && hi % 2 == 1)
      | .rz => false
      | .rd => neg && rem != 0
      | .ru => !neg && rem != 0
    (if up then hi + 1 else hi, rem != 0)

/-- Number of bits of a mantissa. -/
def bitLen (m : Nat) : Nat := if m = 0 then 0 else Nat.log2 m + 1

/-- The exponent of the last place of a rounded m * 2^e, subnormal spacing below the smallest normal. -/
def Fmt.lsb (f : Fmt) (m : Nat) (e : Int) : Int :=
  max (e + (bitLen m : Int) - ((f.mb : Int) + 1)) f.emin

/-- The magnitude pattern of mm units of 2^q, as if exponents were unbounded above. -/
def Fmt.mag (f : Fmt) (mm : Nat) (q : Int) : Nat :=
  if mm < 2 ^ f.mb then mm else ((q - f.emin).toNat + 1) * 2 ^ f.mb + (mm - 2 ^ f.mb)

/-- Whether the value is tiny after rounding with unbounded exponents (R74). -/
def Fmt.tiny (f : Fmt) (mode : RM) (neg : Bool) (m : Nat) (e : Int) : Bool :=
  let q := e + (bitLen m : Int) - ((f.mb : Int) + 1)
  let mm := (roundTo mode neg m e q).1
  decide (q + (bitLen mm : Int) - 1 < 1 - (f.bias : Int))

/-- The overflow result of IEEE 754-2019 (R73). -/
def Fmt.over (f : Fmt) (mode : RM) (neg : Bool) : Nat :=
  let toInf : Bool := match mode with
    | .rne => true
    | .rz => false
    | .rd => neg
    | .ru => !neg
  f.sign neg + (if toInf then f.inf else f.maxFin)

/-- A finite exact value rounded to an arithmetic format with its flags (R73 to R75). -/
def Fmt.rnd (f : Fmt) (mode : RM) (ftz : Bool) (neg : Bool) (m : Nat) (e : Int) : FR :=
  if m = 0 then (f.sign neg, 0)
  else
    let q := f.lsb m e
    let r := roundTo mode neg m e q
    let b := f.mag r.1 q
    if f.maxFin < b then (f.over mode neg, fOF ||| fNX)
    else if ftz && b != 0 && b / 2 ^ f.mb == 0 then (f.sign neg, fUF ||| fNX)
    else (f.sign neg + b, flagIf r.2 fNX ||| flagIf (r.2 && f.tiny mode neg m e) fUF)

/-- An F32 subnormal operand is read as zero under FTZ (R75). -/
def daz (ftz : Bool) (v : FVal) : FVal :=
  match v with
  | .fin n m e => if ftz && decide (m < 2 ^ 23) then .fin n 0 e else v
  | _ => v

/-- Reading an operand of a format; FTZ is passed only for F32. -/
def Fmt.rd (f : Fmt) (ftz : Bool) (x : Nat) : FVal := daz ftz (f.val x)

/-! ## Exact sums and products -/

/-- A signed term m * 2^e. -/
structure Term where
  neg : Bool
  m : Nat
  e : Int
  deriving DecidableEq, Repr

def Term.add (a b : Term) : Term :=
  let e := min a.e b.e
  let x := a.m * 2 ^ (a.e - e).toNat
  let y := b.m * 2 ^ (b.e - e).toNat
  if a.neg == b.neg then ⟨a.neg, x + y, e⟩
  else if y ≤ x then ⟨a.neg, x - y, e⟩ else ⟨b.neg, y - x, e⟩

def Term.mul (a b : Term) : Term := ⟨a.neg != b.neg, a.m * b.m, a.e + b.e⟩

/-- Order of two exact values. -/
def Term.lt (a b : Term) : Bool :=
  let d := Term.add a ⟨!b.neg, b.m, b.e⟩
  d.neg && d.m != 0

def Term.le (a b : Term) : Bool := !(Term.lt b a)

/-- The sign of an exact zero sum (R177): both signs when they agree, else +0, or -0 under RD. -/
def zeroSign (mode : RM) (a b : Bool) : Bool := if a == b then a else mode == .rd

/-- An exact sum rounded; p and r are the two terms and their own signs. -/
def Fmt.sum (f : Fmt) (mode : RM) (ftz : Bool) (a b : Term) : FR :=
  let s := Term.add a b
  if s.m = 0 then (f.sign (if a.m = 0 && b.m = 0 then zeroSign mode a.neg b.neg else mode == .rd), 0)
  else f.rnd mode ftz s.neg s.m s.e

/-- The invalid result. -/
def Fmt.invalid (f : Fmt) : FR := (f.nan, fNV)

/-- Any NaN operand gives the canonical NaN, with NV for a signalling one (R74). -/
def Fmt.nanOf (f : Fmt) (sig : Bool) : FR := (f.nan, flagIf sig fNV)

def Fmt.addV (f : Fmt) (mode : RM) (ftz : Bool) (a b : FVal) : FR :=
  match a, b with
  | .fin na ma ea, .fin nb mb eb => f.sum mode ftz ⟨na, ma, ea⟩ ⟨nb, mb, eb⟩
  | .inf na, .inf nb => if na == nb then (f.sign na + f.inf, 0) else f.invalid
  | .inf na, .fin .. => (f.sign na + f.inf, 0)
  | .fin .., .inf nb => (f.sign nb + f.inf, 0)
  | a, b => f.nanOf (a.isSig || b.isSig)

def FVal.negate : FVal → FVal
  | .nan s => .nan s
  | .inf n => .inf (!n)
  | .fin n m e => .fin (!n) m e

def Fmt.mulV (f : Fmt) (mode : RM) (ftz : Bool) (a b : FVal) : FR :=
  match a, b with
  | .fin na ma ea, .fin nb mb eb => f.rnd mode ftz (na != nb) (ma * mb) (ea + eb)
  | .inf na, .inf nb => (f.sign (na != nb) + f.inf, 0)
  | .inf na, .fin nb mb _ => if mb = 0 then f.invalid else (f.sign (na != nb) + f.inf, 0)
  | .fin na ma _, .inf nb => if ma = 0 then f.invalid else (f.sign (na != nb) + f.inf, 0)
  | a, b => f.nanOf (a.isSig || b.isSig)

/-- a * b + c with one rounding; infinity times zero is invalid even when c is NaN (R177). -/
def Fmt.fmaV (f : Fmt) (mode : RM) (ftz : Bool) (a b c : FVal) : FR :=
  let prodInf (n : Bool) : FR :=
    match c with
    | .nan s => f.nanOf s
    | .inf nc => if nc == n then (f.sign n + f.inf, 0) else f.invalid
    | .fin .. => (f.sign n + f.inf, 0)
  match a, b with
  | .inf na, .inf nb => prodInf (na != nb)
  | .inf na, .fin nb mb _ => if mb = 0 then f.invalid else prodInf (na != nb)
  | .fin na ma _, .inf nb => if ma = 0 then f.invalid else prodInf (na != nb)
  | .fin na ma ea, .fin nb mb eb =>
    match c with
    | .fin nc mc ec => f.sum mode ftz ⟨na != nb, ma * mb, ea + eb⟩ ⟨nc, mc, ec⟩
    | .inf nc => (f.sign nc + f.inf, 0)
    | .nan s => f.nanOf s
  | a, b => f.nanOf (a.isSig || b.isSig || c.isSig)

/-- Quotient with enough bits and a sticky bit, so that one rounding of it is the rounding of the exact
quotient. -/
def quot (ma : Nat) (ea : Int) (mb : Nat) (eb : Int) : Nat × Int :=
  let k := 64 + bitLen mb
  let n := ma * 2 ^ k
  (2 * (n / mb) + (if n % mb = 0 then 0 else 1), ea - eb - (k : Int) - 1)

def Fmt.divV (f : Fmt) (mode : RM) (ftz : Bool) (a b : FVal) : FR :=
  match a, b with
  | .fin na ma ea, .fin nb mb eb =>
    if mb = 0 then (if ma = 0 then f.invalid else (f.sign (na != nb) + f.inf, fDZ))
    else if ma = 0 then (f.sign (na != nb), 0)
    else f.rnd mode ftz (na != nb) (quot ma ea mb eb).1 (quot ma ea mb eb).2
  | .inf na, .fin nb _ _ => (f.sign (na != nb) + f.inf, 0)
  | .fin na _ _, .inf nb => (f.sign (na != nb), 0)
  | .inf _, .inf _ => f.invalid
  | a, b => f.nanOf (a.isSig || b.isSig)

/-- The integer square root, one result bit at a time from bit k down. -/
def isqrtFrom (n : Nat) : Nat → Nat → Nat
  | 0, r => r
  | k + 1, r => isqrtFrom n k (if (r + 2 ^ k) * (r + 2 ^ k) ≤ n then r + 2 ^ k else r)

def isqrt (n : Nat) : Nat := isqrtFrom n (bitLen n / 2 + 1) 0

/-- The square root of m * 2^e with a sticky bit. -/
def sqrtOf (m : Nat) (e : Int) : Nat × Int :=
  let odd := e % 2 != 0
  let m1 := (if odd then 2 * m else m) * 2 ^ 128
  let e1 := (if odd then e - 1 else e) - 128
  let r := isqrt m1
  (2 * r + (if r * r = m1 then 0 else 1), e1 / 2 - 1)

def Fmt.sqrtV (f : Fmt) (mode : RM) (ftz : Bool) (a : FVal) : FR :=
  match a with
  | .nan s => f.nanOf s
  | .inf n => if n then f.invalid else (f.inf, 0)
  | .fin n m e =>
    if m = 0 then (f.sign n, 0)
    else if n then f.invalid
    else f.rnd mode ftz false (sqrtOf m e).1 (sqrtOf m e).2

/-! ## F32 instructions (R177 to R181) -/

def fadd (mode : RM) (ftz : Bool) (a b : Nat) : FR := f32.addV mode ftz (f32.rd ftz a) (f32.rd ftz b)
def fsub (mode : RM) (ftz : Bool) (a b : Nat) : FR :=
  f32.addV mode ftz (f32.rd ftz a) (f32.rd ftz b).negate
def fmul (mode : RM) (ftz : Bool) (a b : Nat) : FR := f32.mulV mode ftz (f32.rd ftz a) (f32.rd ftz b)
def ffma (mode : RM) (ftz : Bool) (a b c : Nat) : FR :=
  f32.fmaV mode ftz (f32.rd ftz a) (f32.rd ftz b) (f32.rd ftz c)

/-- Order of two numbers that are not NaN, with -0 below +0 when z is set (R178). -/
def FVal.lt (z : Bool) (a b : FVal) : Bool :=
  match a, b with
  | .inf na, .inf nb => na && !nb
  | .inf na, .fin .. => na
  | .fin .., .inf nb => !nb
  | .fin na ma ea, .fin nb mb eb =>
    if ma = 0 && mb = 0 then z && na && !nb else Term.lt ⟨na, ma, ea⟩ ⟨nb, mb, eb⟩
  | _, _ => false

/-- The bits of an operand as an operation returns it: a NaN canonical, a subnormal flushed under FTZ. -/
def f32Bits (ftz : Bool) (x : Nat) : Nat :=
  match f32.rd ftz x with
  | .nan _ => f32.nan
  | .fin n 0 _ => f32.sign n
  | _ => x

/-- FMIN and FMAX (num false), FMINN and FMAXN (num true) of R178; the flush of a subnormal result
under FTZ cannot arise, since operands are flushed first. -/
def fminmax (max num ftz : Bool) (a b : Nat) : FR :=
  let va := f32.rd ftz a
  let vb := f32.rd ftz b
  let fl := flagIf (va.isSig || vb.isSig) fNV
  if va.isNan && vb.isNan then (f32.nan, fl)
  else if va.isNan then (if num then f32Bits ftz b else f32.nan, fl)
  else if vb.isNan then (if num then f32Bits ftz a else f32.nan, fl)
  else if (if max then FVal.lt true va vb else FVal.lt true vb va) then (f32Bits ftz b, fl)
  else (f32Bits ftz a, fl)

/-- FCLMP: FMINN(FMAXN(a, b), c) (R180). -/
def fclmp (ftz : Bool) (a b c : Nat) : FR :=
  let r := fminmax true true ftz a b
  let q := fminmax false true ftz r.1 c
  (q.1, r.2 ||| q.2)

def fabs (ftz : Bool) (a : Nat) : Nat :=
  match f32.rd ftz a with
  | .nan _ => f32.nan
  | _ => f32Bits ftz a % 2 ^ 31

def fneg (ftz : Bool) (a : Nat) : Nat :=
  match f32.rd ftz a with
  | .nan _ => f32.nan
  | _ => (f32Bits ftz a + 2 ^ 31) % 2 ^ 32

/-- FCMP conditions 0 to 7 of R110 with the flags of R179. -/
def fcmp (cc : Nat) (ftz : Bool) (a b : Nat) : Bool × DWord :=
  let va := f32.rd ftz a
  let vb := f32.rd ftz b
  let un := va.isNan || vb.isNan
  let lt := !un && FVal.lt false va vb
  let gt := !un && FVal.lt false vb va
  let eq := !un && !lt && !gt
  let sig := va.isSig || vb.isSig
  let quietCc := cc == 0 || cc == 1 || 6 ≤ cc
  let r := match cc with
    | 0 => eq
    | 1 => !eq
    | 2 => lt
    | 3 => lt || eq
    | 4 => gt
    | 5 => gt || eq
    | 6 => un
    | _ => !un
  (r, flagIf (if quietCc then sig else un) fNV)

/-- FRND (R181): an integral value, NV on a signalling NaN, never NX. -/
def frnd (mode : RM) (ftz : Bool) (a : Nat) : FR :=
  match f32.rd ftz a with
  | .nan s => f32.nanOf s
  | .inf n => (f32.sign n + f32.inf, 0)
  | .fin n m e =>
    let r := (roundTo mode n m e 0).1
    if 0 ≤ e then (f32Bits ftz a, 0) else ((f32.rnd .rne false n r 0).1, 0)

/-- FFRAC (R181): a - floor(a). -/
def ffrac (mode : RM) (ftz : Bool) (a : Nat) : FR :=
  match f32.rd ftz a with
  | .nan s => f32.nanOf s
  | .inf _ => f32.invalid
  | .fin n m e =>
    if 0 ≤ e then (0, 0)
    else
      let u := 2 ^ (-e).toNat
      let fr := if n then (u - m % u) % u else m % u
      if fr = 0 then (0, 0)
      else
        let r := f32.rnd mode ftz false fr e
        if 0x3F800000 ≤ r.1 then (0x3F7FFFFF, r.2) else r

/-! ## Special functions (R182 to R184) -/

/-- Fixed point with 128 fraction bits. -/
def fx : Nat := 2 ^ 128

/-- The sum of y^k / k! for the given k onwards, n terms, alternating when alt is set: signs are kept by
splitting even and odd callers. -/
def taylor (y : Nat) (step : Nat) : Nat → Nat → Nat → List Nat
  | 0, _, _ => []
  | n + 1, k, t =>
    let t' := if step = 1 then t * y / fx / (k + 1) else t * y / fx * y / fx / ((k + 1) * (k + 2))
    t :: taylor y step n (k + step) t'

def sumAll (l : List Nat) : Nat := l.foldl (· + ·) 0

/-- Sum of even positions less sum of odd positions. -/
def altSum : List Nat → Nat → Nat → Nat
  | [], p, n => p - n
  | [a], p, n => (p + a) - n
  | a :: b :: l, p, n => altSum l (p + a) (n + b)

/-- ln 2 and pi with 128 fraction bits. -/
def fxLn2 : Nat := 0xB17217F7D1CF79ABC9E3B39803F2F6AF
def fxPi : Nat := 0x3243F6A8885A308D313198A2E03707344

/-- 2^f for f in [0, 1) of fx: within 2^-100. -/
def exp2Fx (f : Nat) : Nat := sumAll (taylor (f * fxLn2 / fx) 1 40 0 fx)

/-- sin and cos of pi * t for t in [0, 1/2] of fx. -/
def sinFx (t : Nat) : Nat := altSum (taylor (t * fxPi / fx) 2 24 1 (t * fxPi / fx)) 0 0
def cosFx (t : Nat) : Nat := altSum (taylor (t * fxPi / fx) 2 24 0 fx) 0 0

/-- The fraction bits of log2 x for x in [1, 2) of fx, by repeated squaring. -/
def log2Bits : Nat → Nat → Nat → Nat
  | 0, _, acc => acc
  | n + 1, x, acc =>
    let y := x * x / fx
    if 2 * fx ≤ y then log2Bits n (y / 2) (2 * acc + 1) else log2Bits n y (2 * acc)

/-- The exact function values: as an exact or near-exact magnitude m * 2^e. -/
def log2Fx (m : Nat) (e : Int) : Bool × Nat × Int :=
  let l := bitLen m
  let k : Int := e + (l : Int) - 1
  let x := m * fx / 2 ^ (l - 1)
  let fr := log2Bits 80 x 0
  let v : Int := k * (2 ^ 80 : Nat) + (fr : Int)
  (decide (v < 0), v.natAbs, -80)

/-- The absolute distance of a finite F32 pattern from a value is at most 2^t. -/
def near (x : FVal) (neg : Bool) (m : Nat) (e t : Int) : Bool :=
  match x with
  | .fin n mm ee =>
    let d := Term.add ⟨n, mm, ee⟩ ⟨!neg, m, e⟩
    Term.le ⟨false, d.m, d.e⟩ ⟨false, 1, t⟩
  | _ => false

/-- The exponent of an ulp of R182 at m * 2^e. -/
def ulpExp (m : Nat) (e : Int) : Int := f32.lsb m e

/-- Flags of an inexact result (R184): a result that is not zero and below 2^-126 sets UF, and FTZ
flushes it; an infinity sets OF. -/
def specialFlags (ftz : Bool) (r : Nat) : FR :=
  if r % 2 ^ 31 != 0 && r % 2 ^ 31 < 2 ^ 23 then (if ftz then r / 2 ^ 31 * 2 ^ 31 else r, fUF ||| fNX)
  else if 0x7F800000 ≤ r % 2 ^ 31 then (r, fOF ||| fNX)
  else (r, fNX)

/-- The candidate when it lies within the bound of R182, else the value rounded to nearest. -/
def bounded (ftz : Bool) (cand : BitVec 32) (ok : FVal → Bool) (neg : Bool) (m : Nat) (e : Int) : FR :=
  specialFlags ftz (if ok (f32.val cand.toNat) then cand.toNat else (f32.rnd .rne false neg m e).1)

/-- Whether m is a power of two. -/
def isPow2 (m : Nat) : Bool := m != 0 && m == 2 ^ (bitLen m - 1)

/-- FRCP (R182 to R184): an overflow gives +infinity, whatever the sign (log entry 21), and the reciprocal of a negative
power of two is exact as that of a positive one, with no flag: the model's choice (log entry 108). -/
def frcp (ftz : Bool) (a : Nat) : FR :=
  match f32.rd ftz a with
  | .nan s => f32.nanOf s
  | .inf n => (f32.sign n, 0)
  | .fin n m e =>
    if m = 0 then (f32.sign n + f32.inf, fDZ)
    else
      let q := quot 1 0 m e
      let r := f32.rnd .rne false n q.1 q.2
      if 0x7F800000 ≤ r.1 % 2 ^ 31 then (f32.inf, fOF ||| fNX)
      else if isPow2 m && 2 ^ 23 ≤ r.1 % 2 ^ 31 then (r.1, 0)
      else bounded ftz (Config.frcp ftz (.ofNat 32 a)) (fun c => near c n q.1 q.2 (ulpExp q.1 q.2)) n q.1 q.2

/-- FRSQ (R182, R183). -/
def frsq (ftz : Bool) (a : Nat) : FR :=
  match f32.rd ftz a with
  | .nan s => f32.nanOf s
  | .inf n => if n then f32.invalid else (0, 0)
  | .fin n m e =>
    if m = 0 then (f32.sign n + f32.inf, fDZ)
    else if n then f32.invalid
    else
      let q := quot 1 0 m e
      let r := sqrtOf q.1 q.2
      let exact := isPow2 m && (e + (bitLen m : Int) - 1) % 2 == 0
      if exact then ((f32.rnd .rne false false 1 (-(e + (bitLen m : Int) - 1) / 2)).1, 0)
      else bounded ftz (Config.frsq ftz (.ofNat 32 a)) (fun c => near c false r.1 r.2 (ulpExp r.1 r.2))
        false r.1 r.2

/-- FSQRT is correctly rounded under MODE.RM (R182). -/
def fsqrt (mode : RM) (ftz : Bool) (a : Nat) : FR := f32.sqrtV mode ftz (f32.rd ftz a)

/-- A value whose magnitude is above 0 and so small that its exact place below a bound of R182 does not matter. -/
def speck : Nat × Int := (1, -300)

/-- FEX2 (R182, R183). Its results below 2^-126 are flushed with FTZ = 1, those of integers too: the model's choice between
R75 and R183 (log entry 121). Near 0 and near 1 the bound is taken on the right side of a value that no F32 holds. -/
def fex2 (ftz : Bool) (a : Nat) : FR :=
  match f32.rd ftz a with
  | .nan s => f32.nanOf s
  | .inf n => if n then (0, 0) else (f32.inf, 0)
  | .fin n m e =>
    if m = 0 then (0x3F800000, 0)
    else if Term.le ⟨false, 128, 0⟩ ⟨n, m, e⟩ then (f32.inf, fOF ||| fNX)
    else if Term.lt ⟨n, m, e⟩ ⟨true, 200, 0⟩ then
      bounded ftz (Config.fex2 ftz (.ofNat 32 a)) (fun c => near c false speck.1 speck.2 (-148)) false speck.1 speck.2
    else if Term.lt ⟨false, m, e⟩ ⟨false, 1, -100⟩ then
      let y := if n then 2 ^ 200 - 1 else 2 ^ 200 + 1
      bounded ftz (Config.fex2 ftz (.ofNat 32 a)) (fun c => near c false y (-200) (ulpExp y (-200) + 1)) false y (-200)
    else
      let u := 2 ^ (-e).toNat
      let k : Int := if 0 ≤ e then (if n then -((m * 2 ^ e.toNat : Nat) : Int) else (m * 2 ^ e.toNat : Nat))
        else if n then -(((m + u - 1) / u : Nat) : Int) else (m / u : Nat)
      let fr := if 0 ≤ e then 0 else if n then (u - m % u) % u else m % u
      if fr = 0 && -149 ≤ k then
        (let r := f32.rnd .rne ftz false 1 k
         if ftz then r else (r.1, 0))
      else
        let y := exp2Fx (fr * fx / u)
        bounded ftz (Config.fex2 ftz (.ofNat 32 a))
          (fun c => near c false y (k - 128) (ulpExp y (k - 128) + 1)) false y (k - 128)

/-- FLG2 (R182, R183). -/
def flg2 (ftz : Bool) (a : Nat) : FR :=
  match f32.rd ftz a with
  | .nan s => f32.nanOf s
  | .inf n => if n then f32.invalid else (f32.inf, 0)
  | .fin n m e =>
    if m = 0 then (f32.sign true + f32.inf, fDZ)
    else if n then f32.invalid
    else if isPow2 m then
      (let k : Int := e + (bitLen m : Int) - 1
       ((f32.rnd .rne false (decide (k < 0)) k.natAbs 0).1, 0))
    else
      let v := log2Fx m e
      let t : Int := if Term.le ⟨false, 1, -1⟩ ⟨false, m, e⟩ && Term.le ⟨false, m, e⟩ ⟨false, 2, 0⟩
        then -22 else ulpExp v.2.1 v.2.2 + 1
      bounded ftz (Config.flg2 ftz (.ofNat 32 a)) (fun c => near c v.1 v.2.1 v.2.2 t) v.1 v.2.1 v.2.2

/-- The fraction of |a| in half-turns: whether the whole part is odd, and the rest of fx. -/
def halfTurns (m : Nat) (e : Int) : Bool × Nat :=
  if 0 ≤ e then ((m * 2 ^ e.toNat) % 2 == 1, 0)
  else (m / 2 ^ (-e).toNat % 2 == 1, m % 2 ^ (-e).toNat * fx / 2 ^ (-e).toNat)

/-- A magnitude of FSIN or FCOS: within 2^-22 and never above 1.0. -/
def trigBounded (ftz : Bool) (cand : BitVec 32) (neg : Bool) (v : Nat) : FR :=
  let ok (c : FVal) : Bool := near c neg v (-128) (-22) &&
    (match c with | .fin _ mm ee => Term.le ⟨false, mm, ee⟩ ⟨false, 1, 0⟩ | _ => false)
  specialFlags ftz
    (if ok (f32.val cand.toNat) then cand.toNat else (f32.rnd .rz false neg v (-128)).1)

/-- FSIN and FCOS (R182, R183), in half-turns. -/
def ftrig (cos ftz : Bool) (a : Nat) : FR :=
  match f32.rd ftz a with
  | .nan s => f32.nanOf s
  | .inf _ => f32.invalid
  | .fin n m e =>
    if m = 0 then (if cos then 0x3F800000 else f32.sign n, 0)
    else
      let h := halfTurns m e
      let odd := h.1
      let fr := h.2
      let exactFr := decide (0 ≤ e) || m % 2 ^ (-e).toNat == 0
      let half := fr == fx / 2 && decide (e < 0) && (m % 2 ^ (-e).toNat) * 2 == 2 ^ (-e).toNat
      if cos then
        (if exactFr then (if odd then 0xBF800000 else 0x3F800000, 0)
         else if half then (0, 0)
         else
           let neg := odd != decide (fx / 2 < fr)
           let v := if fx / 2 < fr then cosFx (fx - fr) else cosFx fr
           trigBounded ftz (Config.fcos ftz (.ofNat 32 a)) neg v)
      else
        (if exactFr then (f32.sign n, 0)
         else if half then (if odd != n then 0xBF800000 else 0x3F800000, 0)
         else
           let neg := odd != n
           let v := max 1 (if fx / 2 < fr then sinFx (fx - fr) else sinFx fr)
           trigBounded ftz (Config.fsin ftz (.ofNat 32 a)) neg v)

end Sys2Proof.Machine
end

