-- ==== Sys2Proof/Machine/Conv.lean ====
section
/-! DEFINITION. Packed elements and conversions between formats (R69, R71, R76 to R83), and reservoir
arithmetic (R93 to R97). -/

namespace Sys2Proof.Machine

/-! ## Elements of a lane (R71) -/

/-- Elements of a tag and their width. -/
def Tag.count : Tag → Nat
  | .und | .uw | .sw | .f32 | .alo | .ahi => 1
  | .bf2 | .hf2 | .sh2 => 2
  | .e43 | .e52 | .e80 | .sb4 | .ub4 => 4
  | .e21 => 8

def Tag.width (t : Tag) : Nat := 32 / Tag.count t

/-- The code of a tag (R55). -/
def Tag.code : Tag → Nat
  | .und => 0 | .uw => 1 | .sw => 2 | .f32 => 3 | .bf2 => 4 | .hf2 => 5 | .e43 => 6 | .e52 => 7
  | .e21 => 8 | .e80 => 9 | .sb4 => 10 | .ub4 => 11 | .sh2 => 12 | .alo => 13 | .ahi => 14

/-- The tag with a code; the reserved code 15 gives UND (R153). -/
def tagOf (n : Nat) : Tag :=
  match n % 16 with
  | 1 => .uw | 2 => .sw | 3 => .f32 | 4 => .bf2 | 5 => .hf2 | 6 => .e43 | 7 => .e52 | 8 => .e21
  | 9 => .e80 | 10 => .sb4 | 11 => .ub4 | 12 => .sh2 | 13 => .alo | 14 => .ahi | _ => .und

/-- Element j of a lane. -/
def elem (t : Tag) (w : Nat) (j : Nat) : Nat := w / 2 ^ (j * Tag.width t) % 2 ^ Tag.width t

/-- The lane with the given elements, element 0 lowest. -/
def ofElems (t : Tag) : List Nat → Nat
  | [] => 0
  | x :: l => x % 2 ^ Tag.width t + 2 ^ Tag.width t * ofElems t l

/-- What an element is: a float of a format, E8M0, or an integer. -/
inductive Kind where
  | flt (f : Fmt)
  | e8
  | int (width : Nat) (signed : Bool)
  deriving DecidableEq, Repr

def Tag.kind : Tag → Kind
  | .f32 => .flt Sys2Proof.Machine.f32
  | .bf2 => .flt fBF
  | .hf2 => .flt fHF
  | .e43 => .flt fE43
  | .e52 => .flt fE52
  | .e21 => .flt fE21
  | .e80 => .e8
  | .sw => .int 32 true
  | .sb4 => .int 8 true
  | .ub4 => .int 8 false
  | .sh2 => .int 16 true
  | .und | .uw | .alo | .ahi => .int 32 false

/-- The value of an E8M0 code (R69). -/
def e8val (c : Nat) : FVal := if c = 255 then .nan false else .fin false 1 ((c : Int) - 127)

/-- Two's complement reading of n bits. -/
def sextI (n x : Nat) : Int := if x < 2 ^ (n - 1) then (x : Int) else (x : Int) - (2 ^ n : Nat)

/-- An integer as n bits. -/
def toBits (n : Nat) (x : Int) : Nat := (x % (2 ^ n : Nat)).toNat

def intVal (x : Int) : FVal := .fin (decide (x < 0)) x.natAbs 0

/-! ## To a narrow float (R76, R78, R81) -/

/-- The table of R76 for a rounded magnitude pattern b, inexact or not. -/
def narrowPat (f : Fmt) (nsat neg : Bool) (b : Nat) (inexact : Bool) : FR :=
  if f.maxFin < b then
    (if !nsat then (f.sign neg + f.maxFin, fSAT ||| fNX)
     else
       (match f.kind with
        | .ieee | .quiet => f.sign neg + f.inf
        | .e4m3 => f.nan
        | .none => f.sign neg + f.maxFin, fOF ||| fNX))
  else (f.sign neg + b, flagIf inexact fNX ||| flagIf (inexact && b == 0) fUF)

def narrow (f : Fmt) (mode : RM) (nsat : Bool) (v : FVal) : FR :=
  match v with
  | .nan s => (f.nan, flagIf (s || f.kind == .none) fNV)
  | .inf n =>
    if !nsat then (f.sign n + f.maxFin, fSAT)
    else
      match f.kind with
      | .ieee | .quiet => (f.sign n + f.inf, 0)
      | .e4m3 => (f.nan, fNV)
      | .none => (f.sign n + f.maxFin, fOF)
  | .fin n m e =>
    if m = 0 then (f.sign n, 0)
    else
      let q := f.lsb m e
      let r := roundTo mode n m e q
      narrowPat f nsat n (f.mag r.1 q) r.2

/-- One step of the stochastic-rounding generator (R81). -/
def srsNext (x : Word) : Word :=
  let x := x ^^^ (x <<< 13)
  let x := x ^^^ (x >>> 17)
  x ^^^ (x <<< 5)

/-- Stochastic rounding of R81 with the state already advanced. -/
def narrowSr (f : Fmt) (nsat : Bool) (srs : Word) (v : FVal) : FR :=
  match v with
  | .fin n m e =>
    if m = 0 then (f.sign n, 0)
    else
      let q := f.lsb m e
      let a := roundTo .rz n m e q
      let fr := if q ≤ e then 0 else m % 2 ^ (q - e).toNat * 2 ^ 24 / 2 ^ (q - e).toNat
      let mm := if srs.toNat / 256 < fr then a.1 + 1 else a.1
      narrowPat f nsat n (f.mag mm q) a.2
  | v => narrow f .rne nsat v

/-- A conversion to F32: exact from every other format, rounded from integers (R76, R78, R185). -/
def toF32 (mode : RM) (ftz : Bool) (v : FVal) : FR :=
  match v with
  | .nan s => f32.nanOf s
  | .inf n => (f32.sign n + f32.inf, 0)
  | .fin n m e => f32.rnd mode ftz n m e

/-- A conversion to E8M0 (R79). -/
def toE8 (v : FVal) : FR :=
  match v with
  | .nan s => (0xFF, flagIf s fNV)
  | .inf _ => (0xFF, 0)
  | .fin _ m e =>
    if m = 0 then (0, fNX)
    else
      let k : Int := e + (bitLen m : Int) - 1 + 127
      let c := if k < 0 then 0 else if 254 < k then 254 else k.toNat
      (c, flagIf (!(isPow2 m && decide (k = (c : Int)))) fNX ||| flagIf (decide (k ≠ (c : Int))) fSAT)

/-- The range of an integer element. -/
def intMin (w : Nat) (s : Bool) : Int := if s then -((2 ^ (w - 1) : Nat) : Int) else 0
def intMax (w : Nat) (s : Bool) : Int := if s then (2 ^ (w - 1) : Nat) - 1 else (2 ^ w : Nat) - 1

/-- A conversion of a float to an integer element (R77). -/
def toInt (w : Nat) (s : Bool) (mode : RM) (v : FVal) : FR :=
  match v with
  | .nan _ => (0, fNV)
  | .inf n => (toBits w (if n then intMin w s else intMax w s), fNV)
  | .fin n m e =>
    let r := roundTo mode n m e 0
    let x : Int := if n then -(r.1 : Int) else r.1
    if x < intMin w s then (toBits w (intMin w s), fNV)
    else if intMax w s < x then (toBits w (intMax w s), fNV)
    else (toBits w x, flagIf r.2 fNX)

/-- An integer to an integer element, clamped (R78). -/
def intToInt (w : Nat) (s : Bool) (x : Int) : FR :=
  if x < intMin w s then (toBits w (intMin w s), fSAT)
  else if intMax w s < x then (toBits w (intMax w s), fSAT)
  else (toBits w x, 0)

/-- The integer that an element pattern reads as. -/
def intOf (w : Nat) (s : Bool) (x : Nat) : Int := if s then sextI w x else x

/-- One element by the table of R83. -/
def convElem (src dst : Kind) (x : Nat) : FR :=
  match src, dst with
  | .int 32 _, .int 32 _ => (x, 0)
  | .int w s, .int w' s' => intToInt w' s' (intOf w s x)
  | .int w s, .flt f =>
    if f.mb = 23 then toF32 .rne false (intVal (intOf w s x)) else narrow f .rne false (intVal (intOf w s x))
  | .int w s, .e8 => let r := toF32 .rne false (intVal (intOf w s x))
    let q := toE8 (f32.val r.1)
    (q.1, r.2 ||| q.2)
  | .flt f, .int w s => toInt w s .rz (f.val x)
  | .flt f, .flt g => if g.mb = 23 then toF32 .rne false (f.val x) else narrow g .rne false (f.val x)
  | .flt f, .e8 => toE8 (f.val x)
  | .e8, .int w s => toInt w s .rz (e8val x)
  | .e8, .flt g => if g.mb = 23 then toF32 .rne false (e8val x) else narrow g .rne false (e8val x)
  | .e8, .e8 => (x, 0)

/-- Results of the elements of a list with the union of their flags. -/
def gather (l : List FR) : List Nat × DWord :=
  (l.map (·.1), l.foldl (fun a r => a ||| r.2) 0)

/-- Conversion on tag mismatch, element by element (R82); an F32 subnormal operand is read as zero under
FTZ (R75). -/
def convTag (ftz : Bool) (src dst : Tag) (w0 : Word) : Word × DWord :=
  let w : Word := if src == .f32 && ftz && w0.toNat % 2 ^ 31 < 2 ^ 23 then w0 &&& 0x80000000 else w0
  let r := gather ((List.range (Tag.count dst)).map fun j =>
    if j < Tag.count src then convElem (Tag.kind src) (Tag.kind dst) (elem src w.toNat j) else (0, 0))
  (.ofNat 32 (ofElems dst r.1), r.2 ||| fFMTC)

/-! ## FCVT, ICVTF, FCVTI, PACK, UNPK (R185 to R188, R191, R192) -/

def srcVal (t : Tag) (x : Nat) : FVal :=
  match Tag.kind t with
  | .flt f => f.val x
  | .e8 => e8val x
  | .int w s => intVal (intOf w s x)

/-- FCVT of one lane from tag src: elements, the state SRS after it, and flags. FTZ applies to F32
elements read and written (R75). -/
def fcvtLane (src dst : Tag) (mode : RM) (sr nsat ftz : Bool) (srs : Word) (w : Nat) : Word × Word × DWord :=
  let step (acc : List Nat × Word × DWord) (j : Nat) : List Nat × Word × DWord :=
    if Tag.count src ≤ j then (acc.1 ++ [0], acc.2.1, acc.2.2)
    else
      let v0 := srcVal src (elem src w j)
      let v := if src == .f32 then daz ftz v0 else v0
      let s' := if sr then srsNext acc.2.1 else acc.2.1
      let r : FR := match Tag.kind dst with
        | .flt f => if f.mb = 23 then toF32 mode ftz v else if sr then narrowSr f nsat s' v else narrow f mode nsat v
        | _ => toE8 v
      (acc.1 ++ [r.1], s', acc.2.2 ||| r.2)
  let r := (List.range (Tag.count dst)).foldl step ([], srs, 0)
  (.ofNat 32 (ofElems dst r.1), r.2.1, r.2.2)

/-- ICVTF of one lane (R187). -/
def icvtfLane (src dst : Tag) (mode : RM) (ftz : Bool) (w : Nat) : Word × DWord :=
  let r := gather ((List.range (Tag.count dst)).map fun j =>
    if Tag.count src ≤ j then (0, 0)
    else match Tag.kind dst with
      | .flt f => if f.mb = 23 then toF32 mode ftz (srcVal src (elem src w j))
        else narrow f mode false (srcVal src (elem src w j))
      | _ => (0, 0))
  (.ofNat 32 (ofElems dst r.1), r.2)

/-- FCVTI of one lane (R188). -/
def fcvtiLane (src dst : Tag) (mode : RM) (ftz : Bool) (w : Nat) : Word × DWord :=
  let r := gather ((List.range (Tag.count dst)).map fun j =>
    if Tag.count src ≤ j then (0, 0)
    else match Tag.kind dst with
      | .int wd s => toInt wd s mode
          (let v := srcVal src (elem src w j); if src == .f32 then daz ftz v else v)
      | _ => (0, 0))
  (.ofNat 32 (ofElems dst r.1), r.2)

/-- PACK of two lanes of tag t (R191). -/
def packLane (t : Tag) (hi : Bool) (a b : Nat) : Word :=
  let n := Tag.count t
  if n = 1 then .ofNat 32 a
  else
    let h := if hi then n / 2 else 0
    .ofNat 32 (ofElems t ((List.range n).map fun j => elem t (if j % 2 = 0 then a else b) (h + j / 2)))

/-- The result tag of UNPK (R192). -/
def unpkTag (t : Tag) : Tag :=
  match t with
  | .bf2 | .hf2 | .e43 | .e52 | .e21 | .e80 => .f32
  | .sb4 | .sh2 => .sw
  | .ub4 => .uw
  | .und => .uw
  | t => t

/-- UNPK of one lane (R192): no flag, no FTZ. -/
def unpkLane (t : Tag) (k : Nat) (a : Nat) : Word :=
  if Tag.count t ≤ k then 0
  else
    match t with
    | .bf2 | .hf2 | .e43 | .e52 | .e21 | .e80 => .ofNat 32 (toF32 .rne false (srcVal t (elem t a k))).1
    | .sb4 | .sh2 => .ofInt 32 (sextI (Tag.width t) (elem t a k))
    | .ub4 => .ofNat 32 (elem t a k)
    | _ => .ofNat 32 a

/-! ## Packed halves and dot products (R189, R190) -/

def half2 (t : Tag) (f : Nat → Nat → Nat → FR) (a b c : Nat) : Word × DWord :=
  let r := gather ((List.range 2).map fun j => f (elem t a j) (elem t b j) (elem t c j))
  (.ofNat 32 (ofElems t r.1), r.2)

def halfFmt (t : Tag) : Fmt := if t == .bf2 then fBF else fHF

/-- A sum of exact terms with infinities and NaN taken apart (R85, R190). -/
structure Acc where
  nan : Bool
  inv : Bool
  pinf : Bool
  ninf : Bool
  sum : Term
  negZero : Bool
  deriving DecidableEq, Repr

def Acc.zero : Acc := ⟨false, false, false, false, ⟨false, 0, 0⟩, true⟩

def Acc.addV (a : Acc) (v : FVal) : Acc :=
  match v with
  | .nan _ => { a with nan := true }
  | .inf n => if n then { a with ninf := true } else { a with pinf := true }
  | .fin n m e => { a with sum := Term.add a.sum ⟨n, m, e⟩, negZero := a.negZero && n }

/-- A product as a value; infinity times zero is invalid. -/
def mulExact (a b : FVal) : FVal × Bool :=
  match a, b with
  | .fin na ma ea, .fin nb mb eb => (.fin (na != nb) (ma * mb) (ea + eb), false)
  | .inf na, .inf nb => (.inf (na != nb), false)
  | .inf na, .fin nb mb _ => if mb = 0 then (.nan false, true) else (.inf (na != nb), false)
  | .fin na ma _, .inf nb => if ma = 0 then (.nan false, true) else (.inf (na != nb), false)
  | _, _ => (.nan false, false)

def Acc.mulAdd (a : Acc) (x y : FVal) : Acc :=
  let p := mulExact x y
  let a' := a.addV p.1
  { a' with inv := a'.inv || p.2 }

/-- The accumulated value; an exact zero sum takes the sign of R177. -/
def Acc.val (a : Acc) (mode : RM) : FVal × Bool :=
  if a.nan then (.nan false, a.inv || (a.pinf && a.ninf))
  else if a.pinf && a.ninf then (.nan false, true)
  else if a.pinf then (.inf false, a.inv)
  else if a.ninf then (.inf true, a.inv)
  else if a.sum.m = 0 then (.fin (a.negZero || mode == .rd) 0 0, a.inv)
  else (.fin a.sum.neg a.sum.m a.sum.e, a.inv)

/-- FDOT4 and FDOT8 of one lane (R190). An all-zero sum is -0 only when every term is, or under RD. -/
def fdot (ta tb : Tag) (n : Nat) (mode : RM) (ftz : Bool) (a b c : Nat) : FR :=
  let vc := f32.rd ftz c
  let acc := (List.range n).foldl (fun s j => Acc.mulAdd s (srcVal ta (elem ta a j)) (srcVal tb (elem tb b j)))
    (Acc.addV Acc.zero vc)
  let v := acc.val mode
  let r : FR := match v.1 with
    | .nan _ => (f32.nan, 0)
    | .inf m => (f32.sign m + f32.inf, 0)
    | .fin m x e => f32.rnd mode ftz m x e
  (r.1, r.2 ||| flagIf (v.2 || vc.isSig) fNV)

/-! ## Reservoirs (R93 to R97) -/

/-- A record as its four words. -/
structure Rsv where
  wsum : Nat
  wt : Nat
  y : Nat
  m : Nat
  cap : Nat
  deriving DecidableEq, Repr

def Rsv.ofWords (a b c d : Word) : Rsv := ⟨a.toNat, b.toNat, c.toNat, d.toNat % 65536, d.toNat / 65536⟩
def Rsv.word (r : Rsv) (j : Nat) : Word :=
  match j with
  | 0 => .ofNat 32 r.wsum
  | 1 => .ofNat 32 r.wt
  | 2 => .ofNat 32 r.y
  | _ => .ofNat 32 (r.m + r.cap * 65536)

/-- A weight or sum: negative or NaN reads as +0 and sets RSVN, -0 reads as +0 (R94). -/
def rsvRead (x : Nat) : Nat × DWord :=
  match f32.val x with
  | .nan _ => (0, fRSVN)
  | .inf n => if n then (0, fRSVN) else (x, 0)
  | .fin n m _ => if m = 0 then (0, 0) else if n then (0, fRSVN) else (x, 0)

def rAdd (a b : Nat) : Nat := (fadd .rne false a b).1
def rMul (a b : Nat) : Nat := (fmul .rne false a b).1
def rDiv (a b : Nat) : Nat := (f32.divV .rne false (f32.val a) (f32.val b)).1
def rLt (a b : Nat) : Bool := (fcmp 2 false a b).1
/-- An integer as F32. -/
def rInt (n : Nat) : Nat := (f32.rnd .rne false false n 0).1

/-- RSVUP (R95). -/
def rsvUp (r : Rsv) (x w u : Nat) : Rsv × DWord :=
  let rw := rsvRead w
  let rs := rsvRead r.wsum
  let s := if r.cap != 0 && r.m == r.cap then
    rMul rs.1 (f32.rnd .rne false false (quot r.cap 0 (r.cap + 1) 0).1 (quot r.cap 0 (r.cap + 1) 0).2).1 else rs.1
  let s' := rAdd s rw.1
  let m' := min (r.m + 1) (if r.cap != 0 then r.cap else 65535)
  let take := rLt 0 rw.1 && rLt (rMul u s') rw.1
  ({ r with wsum := s', m := m', y := if take then x else r.y, wt := if take then rw.1 else r.wt },
   rw.2 ||| rs.2)

/-- RSVMRG (R96). -/
def rsvMrg (r q : Rsv) (u : Nat) : Rsv × DWord :=
  let a := rsvRead r.wsum
  let b := rsvRead q.wsum
  let s := rAdd a.1 b.1
  let take := rLt 0 b.1 && rLt (rMul u s) b.1
  let n := r.m + q.m
  let cut := r.cap != 0 && decide (r.cap < n)
  let s' := if cut then rMul s (f32.rnd .rne false false (quot r.cap 0 n 0).1 (quot r.cap 0 n 0).2).1 else s
  let n' := if cut then r.cap else n
  ({ r with wsum := s', m := min n' 65535, y := if take then q.y else r.y, wt := if take then q.wt else r.wt },
   a.2 ||| b.2)

/-- RSVFIN (R97): an infinite WSUM with finite t gives +infinity also where the product overflows, as the sentence has it and
the division does not (log entry 120). -/
def rsvFin (r : Rsv) (t : Nat) : FR :=
  let rt := rsvRead t
  let rs := rsvRead r.wsum
  if r.m = 0 || rs.1 = 0 || rt.1 = 0 then (0, rt.2 ||| rs.2)
  else if rs.1 = f32.inf && rt.1 != f32.inf then (f32.inf, rt.2 ||| rs.2)
  else (rDiv rs.1 (rMul (rInt r.m) rt.1), rt.2 ||| rs.2)

end Sys2Proof.Machine
end

