-- ==== Sys2Proof/Syntax.lean ====
section
/-! DEFINITION. The instruction syntax: one constructor for each row of the table of operations and
events. The first 206 are slot words of a bundle, with the fields of their layout (R106) and, where the
row takes a lend, the fields the lend carries (R105). The other 97 are the part's steps that have no
encoding; their arguments name the agent that acts and what reaches the part from outside. -/

namespace Sys2Proof

/-- Registers that REGISTER_WRITE writes (R8): those whose write has no other effect. The Nat is the
die, the context, the index or the level the register belongs to. -/
inductive RegName where
  | wdt (die : Nat) | qnt (die level : Nat) | ctxsel (die : Nat)
  | capbase (ctx : Nat) | capsize (ctx : Nat)
  | rpbase (ctx : Nat) | rpsize (ctx : Nat)
  | errbase (ctx : Nat) | errsize (ctx : Nat) | errhead (ctx : Nat)
  | ctxpt (ctx : Nat) | frbase (ctx : Nat) | frsize (ctx : Nat) | frhead (ctx : Nat)
  | mbxf (i : Nat) | mbhld (i : Nat) | mbstl (i : Nat)
  | lreq (d : Nat) | rreq (d : Nat) | hrd (s : Nat) | hwr (s : Nat)
  | govtail (ctx : Nat) | dcap (d : Nat) | pcap
  | fabid | bar2 | bar2size | flashIlv | floorStep (d : Nat)
  deriving DecidableEq, Repr

/-- Where a corrected soft error arose (R250, R455, R498). -/
inductive SoftSrc where
  | sram | dieCache | hbm
  deriving DecidableEq, Repr

/-- Where an uncorrectable error arose: the subcode of HWE (R220). -/
inductive HweSrc where
  | memoryLine | scratchpad | registerPool | intersection | engine
  deriving DecidableEq, Repr

/-- The header and payload of a scale-up flit above the link layer (R514, R515). -/
structure Flit where
  kind : BitVec 3
  rsp : Bool
  vc : BitVec 2
  len : BitVec 8
  dst : BitVec 10
  src : BitVec 10
  tag : BitVec 16
  addr : BitVec 40
  op : BitVec 8
  payload : List Byte
  deriving DecidableEq, Repr

/-- The instructions of the four slots, and the events of the part. The order of the constructors has no meaning:
instructions with operands, the events that the part itself brings about, the events that reach it from outside, and
the rows without operands. -/
inductive Instr where
  /-- BRA (R131). Every executing lane branches to LPC + 16 × disp21. -/
  | bra (disp : BitVec 21)
  /-- BRP (R131). Lanes whose predicate Pp is 1 branch; the other lanes continue at LPC + 16. -/
  | brp (p : BitVec 3) (disp : BitVec 21)
  /-- BRS (R131). The executing lanes branch when the named scalar register is non-zero. -/
  | brs (s : BitVec 5) (i : BitVec 19)
  /-- BRX (R131). Each lane branches to the 32-bit target offset it holds in operand a. -/
  | brx (a : BitVec 7) (ua : Bool)
  /-- CALL (R132). The executing lanes branch and write the return link to V63. -/
  | call (disp : BitVec 21)
  /-- CALLX (R132). Each lane calls its own target offset and writes the return link to V63. -/
  | callx (a : BitVec 7) (ua : Bool)
  /-- LOOPI (R137). Loads LC.CNT and sets up the stage predicates P4 to P7. -/
  | loopi (n : BitVec 19)
  /-- LOOP (R138). Decrements LC, rotates the stage predicates and branches back while iterations remain. -/
  | loop (disp : BitVec 21)
  /-- JARM (R24). Enrols the executing lanes in rejoin mask Jj. -/
  | jarm (j : BitVec 3)
  /-- JWAIT (R25). Enrolled lanes wait at the join, and the mask is released when all have arrived. -/
  | jwait (j : BitVec 3)
  /-- TRAP (R143). Commits the bundle and then takes a software trap SWT carrying the given code. -/
  | trap (c : BitVec 19)
  /-- WAITC (R147). The lanes wait until counter Nn is at or below the threshold. -/
  | waitc (n : BitVec 2) (t : BitVec 7)
  /-- MFS (R148). Reads a special register into a scalar register. -/
  | mfs (d : BitVec 5) (i : BitVec 9)
  /-- MTS (R149). Writes a scalar register to a special register. -/
  | mts (a : BitVec 5) (i : BitVec 9)
  /-- SAVE (R152). Stores the named vector registers, with their masks and tags, to a save area; counted on N1. -/
  | save (a : BitVec 5) (b : BitVec 5)
  /-- REST (R153). Restores the named vector registers from a save area; counted on N0. -/
  | rest (a : BitVec 5) (b : BitVec 5)
  /-- GOVQ (R155). Returns the remaining frame budget of the context in µs. -/
  | govq (d : BitVec 5)
  /-- SADD (R156). Scalar add. -/
  | sadd (d : BitVec 5) (a : BitVec 5) (b : BitVec 5)
  /-- SSUB (R156). Scalar subtract. -/
  | ssub (d : BitVec 5) (a : BitVec 5) (b : BitVec 5)
  /-- SMUL (R156). Scalar multiply, low 64 bits of the product. -/
  | smul (d : BitVec 5) (a : BitVec 5) (b : BitVec 5)
  /-- SMULH (R156). Scalar multiply, high 64 bits of the product, signed or unsigned. -/
  | smulh (d : BitVec 5) (a : BitVec 5) (b : BitVec 5) (u : Bool)
  /-- SAND (R156). Scalar bitwise AND. -/
  | sand (d : BitVec 5) (a : BitVec 5) (b : BitVec 5)
  /-- SOR (R156). Scalar bitwise OR. -/
  | sor (d : BitVec 5) (a : BitVec 5) (b : BitVec 5)
  /-- SXOR (R156). Scalar bitwise XOR. -/
  | sxor (d : BitVec 5) (a : BitVec 5) (b : BitVec 5)
  /-- SSHL (R156). Scalar shift left by an amount held in a register. -/
  | sshl (d : BitVec 5) (a : BitVec 5) (b : BitVec 5)
  /-- SSHL_IMM (R156). Scalar shift left by an immediate amount. -/
  | sshlImm (d : BitVec 5) (a : BitVec 5) (k : BitVec 6)
  /-- SSHR (R156). Scalar logical shift right by an amount held in a register. -/
  | sshr (d : BitVec 5) (a : BitVec 5) (b : BitVec 5)
  /-- SSHR_IMM (R156). Scalar logical shift right by an immediate amount. -/
  | sshrImm (d : BitVec 5) (a : BitVec 5) (k : BitVec 6)
  /-- SSRA (R156). Scalar arithmetic shift right by an amount held in a register. -/
  | ssra (d : BitVec 5) (a : BitVec 5) (b : BitVec 5)
  /-- SSRA_IMM (R156). Scalar arithmetic shift right by an immediate amount. -/
  | ssraImm (d : BitVec 5) (a : BitVec 5) (k : BitVec 6)
  /-- SMIN (R156). Scalar minimum, signed or unsigned. -/
  | smin (d : BitVec 5) (a : BitVec 5) (b : BitVec 5) (u : Bool)
  /-- SMAX (R156). Scalar maximum, signed or unsigned. -/
  | smax (d : BitVec 5) (a : BitVec 5) (b : BitVec 5) (u : Bool)
  /-- SCMP (R156). Scalar compare; writes 1 if the condition holds, else 0. -/
  | scmp (d : BitVec 5) (a : BitVec 5) (b : BitVec 5) (c : BitVec 4)
  /-- SADDI (R156). Scalar add of a signed 9-bit immediate. -/
  | saddi (d : BitVec 5) (a : BitVec 5) (i : BitVec 9)
  /-- SLI (R156). Loads a sign-extended 19-bit immediate into a scalar register. -/
  | sli (d : BitVec 5) (i : BitVec 19)
  /-- SLIH (R156). Shifts the scalar register left by 19 bits and ORs in an immediate. -/
  | slih (d : BitVec 5) (i : BitVec 19)
  /-- SSEL (R156). Scalar select on the value of a condition register. -/
  | ssel (d : BitVec 5) (a : BitVec 5) (b : BitVec 5) (c : BitVec 5)
  /-- SLD (R158). Uncounted 8-byte scalar load from memory. -/
  | sld (d : BitVec 5) (a : BitVec 5) (i : BitVec 9)
  /-- SST (R158). Uncounted 8-byte scalar store to memory. -/
  | sst (a : BitVec 5) (b : BitVec 5) (i : BitVec 9)
  /-- VTOS (R159). Copies one named lane of a vector operand into a scalar register. -/
  | vtos (d : BitVec 5) (a : BitVec 7) (ua : Bool) (lane : BitVec 6)
  /-- VTOS_F (R159). Copies the lowest executing lane of a vector operand into a scalar register. -/
  | vtosF (d : BitVec 5) (a : BitVec 7) (ua : Bool)
  /-- SCLZ (R156). Counts the leading zero bits of a scalar. -/
  | sclz (d : BitVec 5) (a : BitVec 5)
  /-- SPOPC (R156). Counts the 1 bits of a scalar. -/
  | spopc (d : BitVec 5) (a : BitVec 5)
  /-- IADD (R167). Vector integer add, optionally saturating. -/
  | iadd (d : BitVec 7) (a : BitVec 7) (b : BitVec 7) (ua : Bool) (ub : Bool) (x : Bool)
  /-- ISUB (R167). Vector integer subtract, optionally saturating. -/
  | isub (d : BitVec 7) (a : BitVec 7) (b : BitVec 7) (ua : Bool) (ub : Bool) (x : Bool)
  /-- IADDC (R167). Vector add with carry-in; returns the sum or the carry-out. -/
  | iaddc (d : BitVec 7) (a : BitVec 7) (b : BitVec 7) (ua : Bool) (ub : Bool) (x : Bool) (c : BitVec 6) (uc : Bool)
  /-- IMUL (R167). Vector integer multiply, low 32 bits. -/
  | imul (d : BitVec 7) (a : BitVec 7) (b : BitVec 7) (ua : Bool) (ub : Bool)
  /-- IMULH (R167). Vector signed multiply, high 32 bits. -/
  | imulh (d : BitVec 7) (a : BitVec 7) (b : BitVec 7) (ua : Bool) (ub : Bool)
  /-- IMULHU (R167). Vector unsigned multiply, high 32 bits. -/
  | imulhu (d : BitVec 7) (a : BitVec 7) (b : BitVec 7) (ua : Bool) (ub : Bool)
  /-- IMAD (R167). Vector integer multiply-add. -/
  | imad (d : BitVec 7) (a : BitVec 7) (b : BitVec 7) (ua : Bool) (ub : Bool) (c : BitVec 6) (uc : Bool)
  /-- IMIN (R167). Vector signed minimum. -/
  | imin (d : BitVec 7) (a : BitVec 7) (b : BitVec 7) (ua : Bool) (ub : Bool)
  /-- IMAX (R167). Vector signed maximum. -/
  | imax (d : BitVec 7) (a : BitVec 7) (b : BitVec 7) (ua : Bool) (ub : Bool)
  /-- IMINU (R167). Vector unsigned minimum. -/
  | iminu (d : BitVec 7) (a : BitVec 7) (b : BitVec 7) (ua : Bool) (ub : Bool)
  /-- IMAXU (R167). Vector unsigned maximum. -/
  | imaxu (d : BitVec 7) (a : BitVec 7) (b : BitVec 7) (ua : Bool) (ub : Bool)
  /-- IABS (R167). Vector integer absolute value. -/
  | iabs (d : BitVec 7) (a : BitVec 7) (ua : Bool)
  /-- AND (R169). Vector bitwise AND. -/
  | and (d : BitVec 7) (a : BitVec 7) (b : BitVec 7) (ua : Bool) (ub : Bool)
  /-- OR (R169). Vector bitwise OR. -/
  | or (d : BitVec 7) (a : BitVec 7) (b : BitVec 7) (ua : Bool) (ub : Bool)
  /-- XOR (R169). Vector bitwise XOR. -/
  | xor (d : BitVec 7) (a : BitVec 7) (b : BitVec 7) (ua : Bool) (ub : Bool)
  /-- ANDN (R169). Vector a AND NOT b. -/
  | andn (d : BitVec 7) (a : BitVec 7) (b : BitVec 7) (ua : Bool) (ub : Bool)
  /-- SHL (R169). Vector shift left by a per-lane amount. -/
  | shl (d : BitVec 7) (a : BitVec 7) (b : BitVec 7) (ua : Bool) (ub : Bool)
  /-- SHL_IMM (R169). Vector shift left by an immediate amount. -/
  | shlImm (d : BitVec 7) (a : BitVec 7) (n : BitVec 5) (ua : Bool)
  /-- SHR (R169). Vector logical shift right by a per-lane amount. -/
  | shr (d : BitVec 7) (a : BitVec 7) (b : BitVec 7) (ua : Bool) (ub : Bool)
  /-- SHR_IMM (R169). Vector logical shift right by an immediate amount. -/
  | shrImm (d : BitVec 7) (a : BitVec 7) (n : BitVec 5) (ua : Bool)
  /-- SRA (R169). Vector arithmetic shift right by a per-lane amount. -/
  | sra (d : BitVec 7) (a : BitVec 7) (b : BitVec 7) (ua : Bool) (ub : Bool)
  /-- SRA_IMM (R169). Vector arithmetic shift right by an immediate amount. -/
  | sraImm (d : BitVec 7) (a : BitVec 7) (n : BitVec 5) (ua : Bool)
  /-- ROL (R169). Vector rotate left by a per-lane amount. -/
  | rol (d : BitVec 7) (a : BitVec 7) (b : BitVec 7) (ua : Bool) (ub : Bool)
  /-- ROL_IMM (R169). Vector rotate left by an immediate amount. -/
  | rolImm (d : BitVec 7) (a : BitVec 7) (n : BitVec 5) (ua : Bool)
  /-- BFX (R171). Vector bit-field extract, zero- or sign-extended. -/
  | bfx (d : BitVec 7) (a : BitVec 7) (b : BitVec 7) (ua : Bool) (ub : Bool) (x : Bool)
  /-- BFI (R171). Vector bit-field insert. -/
  | bfi (d : BitVec 7) (a : BitVec 7) (b : BitVec 7) (ua : Bool) (ub : Bool) (c : BitVec 6) (uc : Bool)
  /-- POPC (R170). Vector population count. -/
  | popc (d : BitVec 7) (a : BitVec 7) (ua : Bool)
  /-- CLZ (R170). Vector count of leading zero bits. -/
  | clz (d : BitVec 7) (a : BitVec 7) (ua : Bool)
  /-- BREV (R169). Vector bit reversal. -/
  | brev (d : BitVec 7) (a : BitVec 7) (ua : Bool)
  /-- ICMP (R172). Vector integer compare into a predicate, optionally ANDed into it. -/
  | icmp (c : BitVec 4) (p : BitVec 3) (a : BitVec 7) (b : BitVec 7) (ua : Bool) (ub : Bool) (x : Bool)
  /-- SEL (R173). Per-lane select between a and b by a predicate. -/
  | sel (d : BitVec 7) (a : BitVec 7) (b : BitVec 7) (ua : Bool) (ub : Bool) (p : BitVec 3)
  /-- MOV (R173). Vector move. -/
  | mov (d : BitVec 7) (a : BitVec 7) (ua : Bool)
  /-- LI (R174). Loads a sign-extended 17-bit immediate into a vector register. -/
  | li (d : BitVec 7) (k : BitVec 17)
  /-- LIH (R174). Sets the high bits of a vector register, keeping its low 17 bits. -/
  | lih (d : BitVec 7) (k : BitVec 15)
  /-- IADDI (R174). Vector add of a 16-bit immediate. -/
  | iaddi (d : BitVec 7) (a : BitVec 7) (ua : Bool) (imm : BitVec 16)
  /-- TAG (R173). Relabels the format tag of a value without changing its bits. -/
  | tag (d : BitVec 7) (a : BitVec 7) (t : BitVec 4) (ua : Bool)
  /-- PSET (R175). Sets a predicate from the non-zero lanes of a vector. -/
  | pset (p : BitVec 3) (a : BitVec 7) (ua : Bool)
  /-- PGET (R175). Writes each lane's predicate window to a vector register. -/
  | pget (d : BitVec 7)
  /-- VFREE (R176). Releases a vector register in the executing lanes without reading it. -/
  | vfree (a : BitVec 7)
  /-- FADD (R177). F32 add. -/
  | fadd (d : BitVec 7) (a : BitVec 7) (b : BitVec 7) (ua : Bool) (ub : Bool)
  /-- FSUB (R177). F32 subtract. -/
  | fsub (d : BitVec 7) (a : BitVec 7) (b : BitVec 7) (ua : Bool) (ub : Bool)
  /-- FMUL (R177). F32 multiply. -/
  | fmul (d : BitVec 7) (a : BitVec 7) (b : BitVec 7) (ua : Bool) (ub : Bool)
  /-- FFMA (R177). F32 fused multiply-add. -/
  | ffma (d : BitVec 7) (a : BitVec 7) (b : BitVec 7) (ua : Bool) (ub : Bool) (c : BitVec 6) (uc : Bool)
  /-- FMIN (R178). IEEE 754 minimum. -/
  | fmin (d : BitVec 7) (a : BitVec 7) (b : BitVec 7) (ua : Bool) (ub : Bool)
  /-- FMAX (R178). IEEE 754 maximum. -/
  | fmax (d : BitVec 7) (a : BitVec 7) (b : BitVec 7) (ua : Bool) (ub : Bool)
  /-- FMINN (R178). IEEE 754 minimumNumber. -/
  | fminn (d : BitVec 7) (a : BitVec 7) (b : BitVec 7) (ua : Bool) (ub : Bool)
  /-- FMAXN (R178). IEEE 754 maximumNumber. -/
  | fmaxn (d : BitVec 7) (a : BitVec 7) (b : BitVec 7) (ua : Bool) (ub : Bool)
  /-- FABS (R177). F32 absolute value. -/
  | fabs (d : BitVec 7) (a : BitVec 7) (ua : Bool)
  /-- FNEG (R177). F32 negation. -/
  | fneg (d : BitVec 7) (a : BitVec 7) (ua : Bool)
  /-- FCMP (R179). F32 compare into a predicate. -/
  | fcmp (c : BitVec 4) (p : BitVec 3) (a : BitVec 7) (b : BitVec 7) (ua : Bool) (ub : Bool) (x : Bool)
  /-- FCLMP (R180). F32 clamp of a between b and c. -/
  | fclmp (d : BitVec 7) (a : BitVec 7) (b : BitVec 7) (ua : Bool) (ub : Bool) (c : BitVec 6) (uc : Bool)
  /-- FRND (R181). Rounds to an integral F32 value. -/
  | frnd (d : BitVec 7) (a : BitVec 7) (r : BitVec 3) (ua : Bool)
  /-- FFRAC (R181). F32 fractional part. -/
  | ffrac (d : BitVec 7) (a : BitVec 7) (ua : Bool)
  /-- FRCP (R182). Reciprocal. -/
  | frcp (d : BitVec 7) (a : BitVec 7) (ua : Bool)
  /-- FRSQ (R182). Reciprocal square root. -/
  | frsq (d : BitVec 7) (a : BitVec 7) (ua : Bool)
  /-- FSQRT (R182). Square root. -/
  | fsqrt (d : BitVec 7) (a : BitVec 7) (ua : Bool)
  /-- FEX2 (R182). Base-2 exponential. -/
  | fex2 (d : BitVec 7) (a : BitVec 7) (ua : Bool)
  /-- FLG2 (R182). Base-2 logarithm. -/
  | flg2 (d : BitVec 7) (a : BitVec 7) (ua : Bool)
  /-- FSIN (R182). Sine of π × a. -/
  | fsin (d : BitVec 7) (a : BitVec 7) (ua : Bool)
  /-- FCOS (R182). Cosine of π × a. -/
  | fcos (d : BitVec 7) (a : BitVec 7) (ua : Bool)
  /-- FCVT (R186). Converts between floating formats. -/
  | fcvt (d : BitVec 7) (a : BitVec 7) (n : Bool) (r : BitVec 3) (t : BitVec 4) (ua : Bool)
  /-- ICVTF (R187). Converts integers to floats. -/
  | icvtf (d : BitVec 7) (a : BitVec 7) (r : BitVec 3) (t : BitVec 4) (ua : Bool)
  /-- FCVTI (R188). Converts floats to integers. -/
  | fcvti (d : BitVec 7) (a : BitVec 7) (r : BitVec 3) (t : BitVec 4) (ua : Bool)
  /-- HADD2 (R189). Packed 16-bit float add. -/
  | hadd2 (d : BitVec 7) (a : BitVec 7) (b : BitVec 7) (ua : Bool) (ub : Bool)
  /-- HMUL2 (R189). Packed 16-bit float multiply. -/
  | hmul2 (d : BitVec 7) (a : BitVec 7) (b : BitVec 7) (ua : Bool) (ub : Bool)
  /-- HFMA2 (R189). Packed 16-bit float fused multiply-add. -/
  | hfma2 (d : BitVec 7) (a : BitVec 7) (b : BitVec 7) (ua : Bool) (ub : Bool) (c : BitVec 6) (uc : Bool)
  /-- FDOT4 (R190). Four-element FP8 dot product with an F32 addend. -/
  | fdot4 (d : BitVec 7) (a : BitVec 7) (b : BitVec 7) (ua : Bool) (ub : Bool) (c : BitVec 6) (uc : Bool)
  /-- FDOT8 (R190). Eight-element E2M1 dot product with an F32 addend. -/
  | fdot8 (d : BitVec 7) (a : BitVec 7) (b : BitVec 7) (ua : Bool) (ub : Bool) (c : BitVec 6) (uc : Bool)
  /-- PACK (R191). Interleaves the elements of two registers. -/
  | pack (d : BitVec 7) (a : BitVec 7) (b : BitVec 7) (ua : Bool) (ub : Bool) (x : Bool)
  /-- UNPK (R192). Widens element k of a exactly. -/
  | unpk (d : BitVec 7) (a : BitVec 7) (k : BitVec 3) (ua : Bool)
  /-- XSHF (R198). Cross-lane shuffle by a per-lane index. -/
  | xshf (d : BitVec 7) (a : BitVec 7) (b : BitVec 7) (ua : Bool) (ub : Bool) (m : Bool)
  /-- XROT (R198). Cross-lane rotate. -/
  | xrot (d : BitVec 7) (a : BitVec 7) (b : BitVec 7) (ua : Bool) (ub : Bool) (m : Bool)
  /-- XBC (R198). Cross-lane broadcast of one lane. -/
  | xbc (d : BitVec 7) (a : BitVec 7) (b : BitVec 7) (ua : Bool) (ub : Bool) (m : Bool)
  /-- XSTEP (R198). Cross-lane step by a signed offset. -/
  | xstep (d : BitVec 7) (a : BitVec 7) (b : BitVec 7) (ua : Bool) (ub : Bool) (m : Bool)
  /-- XRED (R200). Cross-lane reduction by the fixed tree. -/
  | xred (d : BitVec 7) (a : BitVec 7) (o : BitVec 4) (ua : Bool) (m : Bool)
  /-- XSCN (R200). Cross-lane inclusive or exclusive scan. -/
  | xscn (d : BitVec 7) (a : BitVec 7) (e : Bool) (o : BitVec 4) (ua : Bool) (m : Bool)
  /-- XBAL (R203). Cross-lane ballot of the non-zero lanes. -/
  | xbal (d : BitVec 7) (a : BitVec 7) (h : Bool) (ua : Bool) (m : Bool)
  /-- XCNT (R203). Counts the non-zero active lanes. -/
  | xcnt (d : BitVec 7) (a : BitVec 7) (ua : Bool) (m : Bool)
  /-- XFST (R203). Finds the first non-zero active lane. -/
  | xfst (d : BitVec 7) (a : BitVec 7) (ua : Bool) (m : Bool)
  /-- RSVUP (R95). Updates a reservoir record with a candidate. -/
  | rsvup (d : BitVec 7) (a : BitVec 7) (b : BitVec 7) (ua : Bool) (ub : Bool) (c : BitVec 6) (uc : Bool)
  /-- RSVMRG (R96). Merges two reservoir records. -/
  | rsvmrg (d : BitVec 7) (a : BitVec 7) (b : BitVec 7) (ua : Bool) (ub : Bool)
  /-- RSVFIN (R97). Returns the contribution weight of a reservoir record. -/
  | rsvfin (d : BitVec 7) (a : BitVec 7) (b : BitVec 7) (ua : Bool) (ub : Bool)
  /-- AADD (R260). Address-ALU add. -/
  | aadd (d : BitVec 7) (a : BitVec 7) (b : BitVec 7) (ua : Bool) (ub : Bool)
  /-- ASHL (R260). Address-ALU shift left by a per-lane amount. -/
  | ashl (d : BitVec 7) (a : BitVec 7) (b : BitVec 7) (ua : Bool) (ub : Bool)
  /-- ASHL_IMM (R260). Address-ALU shift left by an immediate amount. -/
  | ashlImm (d : BitVec 7) (a : BitVec 7) (n : BitVec 5) (ua : Bool)
  /-- AAND (R260). Address-ALU AND. -/
  | aand (d : BitVec 7) (a : BitVec 7) (b : BitVec 7) (ua : Bool) (ub : Bool)
  /-- AMOV (R260). Address-ALU move. -/
  | amov (d : BitVec 7) (a : BitVec 7) (ua : Bool)
  /-- ALI (R260). Address-ALU load of a 17-bit immediate. -/
  | ali (d : BitVec 7) (k : BitVec 17)
  /-- AFORM (R260). Forms the low half, or the carry into the high half, of a 64-bit address. -/
  | aform (d : BitVec 7) (a : BitVec 7) (b : BitVec 7) (ua : Bool) (ub : Bool) (x : Bool)
  /-- LD_B (R261). Per-lane byte load from memory, zero-extended. -/
  | ldB (t : BitVec 7) (s : BitVec 5) (o : BitVec 7) (ac : BitVec 2) (uo : Bool) (nt : Bool) (off : BitVec 7)
  /-- LD_BS (R261). Per-lane byte load from memory, sign-extended. -/
  | ldBs (t : BitVec 7) (s : BitVec 5) (o : BitVec 7) (ac : BitVec 2) (uo : Bool) (nt : Bool) (off : BitVec 7)
  /-- LD_H (R261). Per-lane halfword load from memory, zero-extended. -/
  | ldH (t : BitVec 7) (s : BitVec 5) (o : BitVec 7) (ac : BitVec 2) (uo : Bool) (nt : Bool) (off : BitVec 7)
  /-- LD_HS (R261). Per-lane halfword load from memory, sign-extended. -/
  | ldHs (t : BitVec 7) (s : BitVec 5) (o : BitVec 7) (ac : BitVec 2) (uo : Bool) (nt : Bool) (off : BitVec 7)
  /-- LD_W (R261). Per-lane word load from memory. -/
  | ldW (t : BitVec 7) (s : BitVec 5) (o : BitVec 7) (ac : BitVec 2) (uo : Bool) (nt : Bool) (off : BitVec 7)
  /-- LDD (R261). Per-lane doubleword load into two registers. -/
  | ldd (t : BitVec 7) (s : BitVec 5) (o : BitVec 7) (ac : BitVec 2) (uo : Bool) (nt : Bool) (off : BitVec 7)
  /-- LDQ (R261). Per-lane quadword load into four registers. -/
  | ldq (t : BitVec 7) (s : BitVec 5) (o : BitVec 7) (ac : BitVec 2) (uo : Bool) (nt : Bool) (off : BitVec 7)
  /-- LDC (R261). Contiguous word load from memory. -/
  | ldc (t : BitVec 7) (s : BitVec 5) (ac : BitVec 2) (nt : Bool) (off : BitVec 7)
  /-- LDU (R261). Uniform word load from memory. -/
  | ldu (t : BitVec 7) (s : BitVec 5) (ac : BitVec 2) (nt : Bool) (off : BitVec 7)
  /-- LDS_B (R261). Scratchpad byte load, zero-extended. -/
  | ldsB (t : BitVec 7) (s : BitVec 5) (o : BitVec 7) (ac : BitVec 2) (uo : Bool) (off : BitVec 7)
  /-- LDS_BS (R261). Scratchpad byte load, sign-extended. -/
  | ldsBs (t : BitVec 7) (s : BitVec 5) (o : BitVec 7) (ac : BitVec 2) (uo : Bool) (off : BitVec 7)
  /-- LDS_H (R261). Scratchpad halfword load, zero-extended. -/
  | ldsH (t : BitVec 7) (s : BitVec 5) (o : BitVec 7) (ac : BitVec 2) (uo : Bool) (off : BitVec 7)
  /-- LDS_HS (R261). Scratchpad halfword load, sign-extended. -/
  | ldsHs (t : BitVec 7) (s : BitVec 5) (o : BitVec 7) (ac : BitVec 2) (uo : Bool) (off : BitVec 7)
  /-- LDS_W (R261). Scratchpad word load. -/
  | ldsW (t : BitVec 7) (s : BitVec 5) (o : BitVec 7) (ac : BitVec 2) (uo : Bool) (off : BitVec 7)
  /-- LDSC (R261). Contiguous scratchpad word load. -/
  | ldsc (t : BitVec 7) (s : BitVec 5) (ac : BitVec 2) (off : BitVec 7)
  /-- ST_B (R263). Per-lane byte store to memory. -/
  | stB (t : BitVec 7) (s : BitVec 5) (o : BitVec 7) (ac : BitVec 2) (ut : Bool) (uo : Bool) (nt : Bool) (off : BitVec 7)
  /-- ST_H (R263). Per-lane halfword store to memory. -/
  | stH (t : BitVec 7) (s : BitVec 5) (o : BitVec 7) (ac : BitVec 2) (ut : Bool) (uo : Bool) (nt : Bool) (off : BitVec 7)
  /-- ST_W (R263). Per-lane word store to memory. -/
  | stW (t : BitVec 7) (s : BitVec 5) (o : BitVec 7) (ac : BitVec 2) (ut : Bool) (uo : Bool) (nt : Bool) (off : BitVec 7)
  /-- STD (R263). Per-lane doubleword store from two registers. -/
  | std (t : BitVec 7) (s : BitVec 5) (o : BitVec 7) (ac : BitVec 2) (ut : Bool) (uo : Bool) (nt : Bool) (off : BitVec 7)
  /-- STQ (R263). Per-lane quadword store from four registers. -/
  | stq (t : BitVec 7) (s : BitVec 5) (o : BitVec 7) (ac : BitVec 2) (ut : Bool) (uo : Bool) (nt : Bool) (off : BitVec 7)
  /-- STC (R263). Contiguous word store to memory. -/
  | stc (t : BitVec 7) (s : BitVec 5) (ac : BitVec 2) (ut : Bool) (nt : Bool) (off : BitVec 7)
  /-- STS_B (R263). Scratchpad byte store. -/
  | stsB (t : BitVec 7) (s : BitVec 5) (o : BitVec 7) (ac : BitVec 2) (ut : Bool) (uo : Bool) (off : BitVec 7)
  /-- STS_H (R263). Scratchpad halfword store. -/
  | stsH (t : BitVec 7) (s : BitVec 5) (o : BitVec 7) (ac : BitVec 2) (ut : Bool) (uo : Bool) (off : BitVec 7)
  /-- STS_W (R263). Scratchpad word store. -/
  | stsW (t : BitVec 7) (s : BitVec 5) (o : BitVec 7) (ac : BitVec 2) (ut : Bool) (uo : Bool) (off : BitVec 7)
  /-- STSC (R263). Contiguous scratchpad word store. -/
  | stsc (t : BitVec 7) (s : BitVec 5) (ac : BitVec 2) (ut : Bool) (off : BitVec 7)
  /-- AMO (R266). Per-lane atomic read-modify-write of a memory word. -/
  | amo (t : BitVec 7) (s : BitVec 5) (o : BitVec 7) (ac : BitVec 2) (ut : Bool) (uo : Bool) (rv : Bool) (op : BitVec 4)
  /-- CAS (R267). Per-lane compare-and-swap of a memory word. -/
  | cas (t : BitVec 7) (s : BitVec 5) (o : BitVec 7) (ac : BitVec 2) (ut : Bool) (uo : Bool) (rv : Bool) (c : BitVec 6) (uc : Bool)
  /-- AMOS (R266). Per-lane atomic read-modify-write of a scratchpad word. -/
  | amos (t : BitVec 7) (s : BitVec 5) (o : BitVec 7) (ac : BitVec 2) (ut : Bool) (uo : Bool) (rv : Bool) (op : BitVec 4)
  /-- CASS (R267). Per-lane compare-and-swap of a scratchpad word. -/
  | cass (t : BitVec 7) (s : BitVec 5) (o : BitVec 7) (ac : BitVec 2) (ut : Bool) (uo : Bool) (rv : Bool) (c : BitVec 6) (uc : Bool)
  /-- WAITA (R270). Each lane sleeps until its word meets the condition or its timeout passes. -/
  | waita (t : BitVec 7) (s : BitVec 5) (o : BitVec 7) (ac : BitVec 2) (ut : Bool) (uo : Bool) (to_ : Bool) (cond : BitVec 2) (acq : Bool) (scope : BitVec 3) (ext : Bool)
  /-- SIG (R274). Updates a signal word, optionally with release. -/
  | sig (t : BitVec 7) (s : BitVec 5) (o : BitVec 7) (ac : BitVec 2) (ut : Bool) (uo : Bool) (op : BitVec 2) (rel : Bool) (scope : BitVec 3) (ext : Bool)
  /-- FENCE (R277). Release and/or acquire for the whole course at a scope. -/
  | fence (kind : BitVec 2) (scope : BitVec 3) (ext : Bool)
  /-- LDA (R278). Word load with acquire. -/
  | lda (t : BitVec 7) (s : BitVec 5) (o : BitVec 7) (ac : BitVec 2) (uo : Bool) (scope : BitVec 3) (ext : Bool)
  /-- STL (R278). Word store with release. -/
  | stl (t : BitVec 7) (s : BitVec 5) (o : BitVec 7) (ac : BitVec 2) (ut : Bool) (uo : Bool) (scope : BitVec 3) (ext : Bool)
  /-- PREF (R280). Prefetches lines into the L1 or the die cache. -/
  | pref (dc : Bool) (s : BitVec 5) (o : BitVec 7) (ac : BitVec 2) (uo : Bool) (off : BitVec 7)
  /-- WBR (R281). Writes back the L1 lines of a byte range. -/
  | wbr (s : BitVec 5) (n : BitVec 7)
  /-- INVR (R281). Writes back and invalidates the L1 lines of a byte range. -/
  | invr (s : BitVec 5) (n : BitVec 7)
  /-- TRACE (R348). Sends one ray query per lane to the intersection unit. -/
  | trace (t : BitVec 7) (s : BitVec 5) (o : BitVec 7) (flags : BitVec 3)
  /-- TRACEC (R349). Sends a ray query and calls the hit routine in each lane. -/
  | tracec (t : BitVec 7) (s : BitVec 5) (o : BitVec 7) (flags : BitVec 3) (h : BitVec 4)
  /-- VISQ (R341). Resolves the visibility of an 8 × 8 block of a tile. -/
  | visq (t : BitVec 7) (s : BitVec 5) (o : BitVec 7) (uo : Bool) (n : BitVec 5)
  /-- TSAMP (R355). Samples a texture. -/
  | tsamp (t : BitVec 7) (s : BitVec 5) (o : BitVec 7) (flt : BitVec 2) (adr : BitVec 2) (lod : Bool)
  /-- TSIZE (R356). Returns the size of a texture level. -/
  | tsize (t : BitVec 7) (s : BitVec 5) (l : BitVec 4)
  /-- MZERO (R296). Zeroes accumulator tile k. -/
  | mzero (m : Bool) (k : BitVec 2)
  /-- MCHB (R292). Opens a chain on tile k. -/
  | mchb (m : Bool) (ord : Bool) (k : BitVec 2)
  /-- MCHE (R296). Closes the chain on tile k. -/
  | mche (m : Bool) (k : BitVec 2)
  /-- MMA (R297). Matrix multiply-accumulate into tile k. -/
  | mma (m : Bool) (a : BitVec 5) (b : BitVec 5) (c : BitVec 5) (fmt : BitVec 4) (k : BitVec 2)
  /-- MACL (R298). Copies four rows of tile k into four vector registers. -/
  | macl (m : Bool) (d : BitVec 7) (g : BitVec 4) (k : BitVec 2)
  /-- MDST (R300). Stores tile k to scratchpad or memory, plainly or by accumulation. -/
  | mdst (m : Bool) (a : BitVec 5) (b : BitVec 5) (mem : Bool) (cvt : BitVec 2) (op : BitVec 2) (k : BitVec 2)
  /-- MSTG (R303). Records an MMA in the course's staging register. -/
  | mstg (m : Bool) (a : BitVec 5) (b : BitVec 5) (c : BitVec 5) (fmt : BitVec 4) (k : BitVec 2)
  /-- SHP (R309). Copies eight scalars into descriptor set Dn. -/
  | shp (m : Bool) (a : BitVec 5) (n : BitVec 3)
  /-- CPY (R317). Issues a copy described by descriptor set Dn; counted on N2. -/
  | cpy (m : Bool) (n : BitVec 3)
  /-- CPYM (R321). Issues a copy that also carries the staged MMA. -/
  | cpym (m : Bool) (n : BitVec 3)
  /-- OWNG (R314). Hands a scratchpad slot to the engines. -/
  | owng (m : Bool) (a : BitVec 5)
  /-- OWNT (R314). Hands a scratchpad slot back to threads once no command holds it. -/
  | ownt (m : Bool) (a : BitVec 5)
  /-- QCFG (R324). Creates or deletes named queue q. -/
  | qcfg (m : Bool) (a : BitVec 5) (b : BitVec 5) (q : BitVec 4)
  /-- QPUSH (R325). Appends a value to queue q, waiting for room or allowance. -/
  | qpush (m : Bool) (a : BitVec 5) (q : BitVec 4)
  /-- QPOP (R326). Takes the oldest entry of queue q, waiting while it is empty. -/
  | qpop (m : Bool) (d : BitVec 7) (q : BitVec 4)
  /-- QTRY (R326). Takes the oldest entry of queue q, or returns all ones at once. -/
  | qtry (m : Bool) (d : BitVec 7) (q : BitVec 4)
  /-- TSUB (R418). Submits a task record. -/
  | tsub (m : Bool) (a : BitVec 5)
  /-- TDEP (R419). Decrements the dependence counter of a task. -/
  | tdep (m : Bool) (a : BitVec 5)
  /-- EMIT (R420). Emits a payload that readies one block of a node's output. -/
  | emit (m : Bool) (a : BitVec 5) (i : BitVec 4)
  /-- CONT (R421). Suspends the course into a continuation until a wake event. -/
  | cont (m : Bool) (a : BitVec 5) (b : BitVec 5) (k : BitVec 2)
  /-- KEYREL (R422). Releases a key held by the block's task. -/
  | keyrel (m : Bool) (a : BitVec 5)
  /-- QSUB (R423). Submits a packet to a hardware queue from device code. -/
  | qsub (m : Bool) (d : BitVec 7) (a : BitVec 5) (b : BitVec 5)
  /-- CRED (R523). All-reduce collective. -/
  | cred (m : Bool) (a : BitVec 5) (b : BitVec 5) (c : BitVec 5) (o : BitVec 3) (n : BitVec 3)
  /-- CBC (R523). Broadcast collective from the root. -/
  | cbc (m : Bool) (a : BitVec 5) (b : BitVec 5) (c : BitVec 5) (n : BitVec 3)
  /-- CAG (R523). All-gather collective. -/
  | cag (m : Bool) (a : BitVec 5) (b : BitVec 5) (c : BitVec 5) (n : BitVec 3)
  /-- CRS (R523). Reduce-scatter collective. -/
  | crs (m : Bool) (a : BitVec 5) (b : BitVec 5) (c : BitVec 5) (o : BitVec 3) (n : BitVec 3)
  /-- CORE_ISSUE_CYCLE (R539). Each ac, the core's issue pipes choose round-robin among the resident courses that can issue. -/
  | coreIssueCycle (die : Nat) (core : Nat)
  /-- SPILL_COMPLETE (R60). A spill has written the register to the backing area and frees it. -/
  | spillComplete (course : Nat) (v : Nat)
  /-- FILL_COMPLETE (R62). A fill lands, restores the map entry and lets the waiting lanes re-issue. -/
  | fillComplete (course : Nat) (v : Nat)
  /-- LOAD_PERFORMED (R262). A load, atomic return or LDA writes its destination and decrements N0. -/
  | loadPerformed (course : Nat) (op : Nat)
  /-- STORE_PERFORMED (R258). A store, SIG, STL, WBR, INVR or SAVE is performed and decrements N1. -/
  | storePerformed (course : Nat) (op : Nat)
  /-- ATOMIC_PERFORMED (R268). A tile update unit applies the atomics of one instruction to a location in lane order. -/
  | atomicPerformed (course : Nat) (op : Nat)
  /-- FAULT_RECORD_WRITE (R466). The fault record is written to the context's fault ring once it has space. -/
  | faultRecordWrite (ctx : Nat) (fid : Nat)
  /-- WAITA_WAKE (R271). A write at the home wakes a registered lane, which re-evaluates its condition. -/
  | waitaWake (course : Nat) (lane : Nat)
  /-- WAITA_POLL (R271). An unregistered waiting lane polls its word every 1 µs. -/
  | waitaPoll (course : Nat) (lane : Nat)
  /-- WAITA_TIMEOUT (R272). The deadline of a WAITA with .to passes and the lane passes without the condition. -/
  | waitaTimeout (course : Nat) (lane : Nat)
  /-- PREEMPT_DEADLINE_EXPIRY (R225). The handler deadline PDL passes without PDONE and a forced save is required. -/
  | preemptDeadlineExpiry (course : Nat)
  /-- FORCED_SAVE (R226). The hardware saves the whole course once N0–N3 reach 0, and the course leaves its core. -/
  | forcedSave (course : Nat)
  /-- COURSE_RESUME (R224). A pre-empted course is reloaded on its core and enters its handler with RESUME or FORCED. -/
  | courseResume (course : Nat)
  /-- BLOCK_BIND (R384). A block is bound to a core's bound list once the list has room. -/
  | blockBind (die : Nat) (block : Nat)
  /-- BLOCK_ADMISSION (R252). The head of a core's bound list is admitted once every admission condition holds. -/
  | blockAdmission (die : Nat) (core : Nat)
  /-- MMA_COMPLETE (R297). All k-blocks of an MMA have been applied, or it has failed, and N3 decrements. -/
  | mmaComplete (die : Nat) (core : Nat) (k : Nat)
  /-- MZERO_COMPLETE (R296). The tile is zeroed and N3 decrements. -/
  | mzeroComplete (die : Nat) (core : Nat) (k : Nat)
  /-- MCHE_COMPLETE (R296). Every MMA of the chain has been applied or has failed, and N3 decrements. -/
  | mcheComplete (die : Nat) (core : Nat) (k : Nat)
  /-- MDST_COMPLETE (R301). The tile store is written, its slots are flipped and N3 decrements. -/
  | mdstComplete (die : Nat) (core : Nat) (k : Nat)
  /-- MACL_LANDING (R299). The MACL rows land once the earlier commands on the tile are complete. -/
  | maclLanding (die : Nat) (core : Nat) (k : Nat)
  /-- COPY_START (R317). The copy engine starts a copy and checks its descriptor, ranges and slots. -/
  | copyStart (die : Nat) (core : Nat) (k : Nat)
  /-- COPY_COMPLETE (R320). A copy finishes a target: payload written, slots flipped, signal written and N2 decremented. -/
  | copyComplete (die : Nat) (core : Nat) (k : Nat) (target : Nat)
  /-- STAGING_UNIT_ARRIVAL (R507). Copy bytes arrive at a Mortar staging unit at the receiving die. -/
  | stagingUnitArrival (die : Nat) (core : Nat) (k : Nat)
  /-- STAGING_UNIT_DRAIN (R476). A staging unit drains into its target slots once they are engine-owned. -/
  | stagingUnitDrain (dir : Nat) (u : Nat) (target : Nat)
  /-- COLLECTIVE_START (R522). A collective proceeds once every member has issued its matching call. -/
  | collectiveStart (k : Nat)
  /-- COLLECTIVE_COMPLETE (R527). A collective writes its destinations, signals and decrements N2. -/
  | collectiveComplete (k : Nat)
  /-- TASK_GRANT (R404). A waiting task whose keys are all available is granted them and bound to a core. -/
  | taskGrant (task : Nat)
  /-- TDEP_DECREMENT (R400). The dependence decrement reaches the task after TDEP's release has completed. -/
  | tdepDecrement (die : Nat)
  /-- KEYREL_EFFECT (R422). A key release takes effect once the block's earlier writes are performed. -/
  | keyrelEffect (die : Nat) (k : Nat)
  /-- CONTINUATION_WAKE (R415). A continuation's wake condition holds, or its object is lost, and the course resumes. -/
  | continuationWake (course : Nat)
  /-- GRAPH_BLOCK_BIND (R411). A graph block reserves its node's pages and is bound, deepest first. -/
  | graphBlockBind (die : Nat) (block : Nat)
  /-- SPIRE_WINDOW (R372). The Spire's 96-cycle window for one slot applies bind records and decodes at most one packet. -/
  | spireWindow (die : Nat)
  /-- WAIT_PACKET_COMPLETE (R382). The WAIT's word meets its condition; the acquire is performed and the packet completes. -/
  | waitPacketComplete (pkt : Nat)
  /-- STREAM_START (R360). A row stream starts once its row is free, after its preload. -/
  | streamStart (pkt : Nat) (row : Nat)
  /-- QUANTUM_EXPIRY (R386). A resident block's quantum timer expires and PRE may be raised. -/
  | quantumExpiry (block : Nat)
  /-- AGEING_STEP (R386). A waiting block's effective level rises after 64 quanta. -/
  | ageingStep (block : Nat)
  /-- WATCHDOG_FIRE (R391). A context's deadlock watchdog reaches WDT and ends its blocks on the die. -/
  | watchdogFire (die : Nat) (ctx : Nat)
  /-- FIXED_FUNCTION_REQUEST_PERFORMED (R335). A VISQ, TRACE, TRACEC, TSAMP or TSIZE request finishes at the cluster unit, writes its result registers and decrements N0. -/
  | fixedFunctionRequestPerformed (course : Nat) (op : Nat)
  /-- SCALAR_ACCESS_PERFORMED (R158). An uncounted SLD returns its data and lands its interlocked scalar destination, or an SST is performed in memory. -/
  | scalarAccessPerformed (course : Nat) (op : Nat)
  /-- DISPATCHER_RESULT_WRITTEN (R417). The dispatcher finishes a TSUB, EMIT or QSUB, writes HANDLE and REASON, the emission or the status, and releases the issuing course's interlock. -/
  | dispatcherResultWritten (course : Nat)
  /-- ROW_SEQUENCER_ISSUE (R364). Each ac, a row sequencer issues the next stream bundle, executes slot 0 and hands slots 1 to 3 to the cores of its row. -/
  | rowSequencerIssue (die : Nat) (row : Nat)
  /-- FAIRNESS_EXPIRY (R19). The turn count reaches LIM and the turn passes to the next group above. -/
  | fairnessExpiry (course : Nat)
  /-- RESULT_LANDING (R50). A fixed-latency result lands, merges its lanes, switches the map and frees the old register. -/
  | resultLanding (course : Nat) (k : Nat)
  /-- ASYNC_TRAP_DELIVERY (R209). Pending asynchronous events are taken at the next bundle boundary. -/
  | asyncTrapDelivery (course : Nat)
  /-- PORTAL_WRITE (R374). A 64-byte DMWr to a portal line submits one packet or completes with retry. -/
  | portalWrite (ctx : Nat) (off : Nat) (bytes : List Byte)
  /-- QUEUE_CREATE (R392). Management creates a queue. -/
  | queueCreate (ctx : Nat) (q : Nat) (k : Nat) (ring : DWord)
  /-- QUEUE_DESTROY (R392). Management destroys a queue, which drains and abandons its unbound blocks. -/
  | queueDestroy (ctx : Nat) (q : Nat)
  /-- BIND_RECORD_WRITE (R376). Management writes a slot-table entry as a pending bind record. -/
  | bindRecordWrite (die : Nat) (slot : Nat) (w0 : DWord) (w1 : DWord)
  /-- CTXPDL_WRITE (R388). Sets the pre-emption deadline of the context that CTXSEL names. -/
  | ctxpdlWrite (die : Nat) (v : DWord)
  /-- KTREP_WRITE (R409). Repairs a BROKEN key entry, optionally writing back its release record first. -/
  | ktrepWrite (die : Nat) (v : DWord)
  /-- TLBINVN_WRITE (R465). Sets the page count for invalidation; held while DONE is 0. -/
  | tlbinvnWrite (v : DWord)
  /-- TLBINV_WRITE (R465). Starts a package-wide translation invalidation. -/
  | tlbinvWrite (v : DWord)
  /-- FLTRESP_RETRY (R467). Fault answer code 0: the faulting accesses walk again. -/
  | fltrespRetry (ctx : Nat) (fid : BitVec 16)
  /-- FLTRESP_FAIL_UNMAPPED (R467). Fault answer code 1: the accesses fail with ACC subcode 0. -/
  | fltrespFailUnmapped (ctx : Nat) (fid : BitVec 16)
  /-- FLTRESP_FAIL_PERMISSION (R467). Fault answer code 2: the accesses fail with ACC subcode 1. -/
  | fltrespFailPermission (ctx : Nat) (fid : BitVec 16)
  /-- GOVSTEP_WRITE (R481). An 8-byte SST to GOVSTEP records a step duration in the governor history. -/
  | govstepWrite (ctx : Nat) (v : DWord)
  /-- GOVD_WRITE (R480). Management sets the frame deadline and resets GOVMARK and GOVNSTP. -/
  | govdWrite (ctx : Nat) (v : DWord)
  /-- REGISTER_WRITE (R8). A write to a register with no behaviour of its own stores its RW fields. -/
  | registerWrite (reg : RegName) (v : DWord)
  /-- DIE_CACHE_WRITEBACK (R455). The die cache writes back or refills a line with no visible effect. -/
  | dieCacheWriteback (pa : Nat) (wr : Bool)
  /-- HOST_BAR_ACCESS (R486). A host or peer read or write through BAR2 is performed at the line's home die cache; one
  through BAR0, by offsets from 2^63 on, meets the registers of the part (R485). -/
  | hostBarAccess (wr : Bool) (off : Nat) (n : Nat) (bytes : List Byte)
  /-- PCIE_COMPLETION (R487). A PCI Express completion for a region-0x3 read or AtomicOp arrives. -/
  | pcieCompletion (req : Nat) (ok : Bool) (status : BitVec 8) (data : List Byte)
  /-- PCIE_REQUEST_TIMEOUT (R487). A region-0x3 read or AtomicOp gets no completion within 50 ms and its lane fails. -/
  | pcieRequestTimeout (req : Nat)
  /-- SOFT_ERROR_CORRECTED (R250). A single-bit error is corrected and counted. -/
  | softErrorCorrected (die : Nat) (src : SoftSrc)
  /-- UNCORRECTABLE_ERROR (R220). An uncorrectable error in data read raises HWE or re-dispatches the block. -/
  | uncorrectableError (course : Nat) (src : HweSrc) (addr : DWord)
  /-- CORE_LOSS (R496). A core is lost: it is fenced, and its blocks are re-dispatched or end with FAULT. -/
  | coreLoss (die : Nat) (core : Nat)
  /-- MORTAR_LANE_FAIL (R494). A failed Mortar lane is spared, or the link narrows. -/
  | mortarLaneFail (link : Nat)
  /-- THERMAL_STEP_UP (R500). A sensor has read above 1,000 W/cm² for 100 µs and the throttle step rises. -/
  | thermalStepUp (die : Nat) (sensor : Nat) (reading : BitVec 16)
  /-- THERMAL_STEP_DOWN (R500). Every sensor has read below 900 W/cm² for 10 ms and the step falls. -/
  | thermalStepDown (die : Nat) (reading : BitVec 16)
  /-- THERMAL_STOP (R500). A sensor above 1,150 W/cm² for 1 ms at step 8 stops issue on the die and writes THERM. -/
  | thermalStop (die : Nat) (sensor : Nat) (reading : BitVec 16)
  /-- THERMAL_RESUME (R500). Every sensor reads below 900 W/cm² and issue resumes. -/
  | thermalResume (die : Nat) (reading : BitVec 16)
  /-- POWER_ON (R490). The boot ROM verifies and starts the firmware images from bank A or bank B. -/
  | powerOn (a : List (List Byte)) (b : List (List Byte)) (ilv : Option Nat)
  /-- NEGOTIATE_ALGORITHMS (R493). SPDM NEGOTIATE_ALGORITHMS request. -/
  | negotiateAlgorithms (offered : List Byte)
  /-- GET_CERTIFICATE (R493). SPDM GET_CERTIFICATE request. -/
  | getCertificate (slot : Nat) (off : Nat) (n : Nat)
  /-- CHALLENGE (R493). SPDM CHALLENGE request, with ECDSA and HSS signatures. -/
  | challenge (slot : Nat) (nonce : List Byte)
  /-- GET_MEASUREMENTS (R493). SPDM GET_MEASUREMENTS request. -/
  | getMeasurements (idx : Nat) (nonce : List Byte) (sign : Bool)
  /-- CONTEXT_CREATE (R499). Management creates a context with its default PDL and ERRDROP at 0. -/
  | contextCreate (ctx : Nat) (cbase : DWord)
  /-- CONTEXT_RESET (R538). Management resets a context, which ends its blocks by a fault. -/
  | contextReset (ctx : Nat)
  /-- FLIT_READ (R515). A read request flit is performed at the target and answered. -/
  | flitRead (f : Flit)
  /-- FLIT_WRITE (R512). A write flit is performed at the target's home die cache and acknowledged. -/
  | flitWrite (f : Flit)
  /-- FLIT_ATOMIC (R512). An atomic or SIG flit is performed at the target's tile update unit. -/
  | flitAtomic (f : Flit)
  /-- FLIT_REDUCE (R515). A collective reduce flit is combined at the receiving collective engine. -/
  | flitReduce (f : Flit)
  /-- FLIT_MESSAGE (R515). A message flit is delivered. -/
  | flitMessage (f : Flit)
  /-- FLIT_RESPONSE (R513). A response flit completes a lane's fabric request. -/
  | flitResponse (f : Flit)
  /-- FLIT_RECEIVE (R517). The link layer accepts an in-order flit with a good CRC, or discards it and sends NAK. -/
  | flitReceive (port : Nat) (bytes : List Byte)
  /-- FLIT_REPLAY_TIMEOUT (R517). After 2 µs without ACK progress the sender replays, and retrains after 16 replays. -/
  | flitReplayTimeout (port : Nat)
  /-- LINK_TRAIN_TIMEOUT (R517). A link that has not trained within 10 ms is fenced and traffic is rerouted. -/
  | linkTrainTimeout (port : Nat)
  /-- FABRIC_REQUEST_TIMEOUT (R513). A fabric request with no response within 200 µs fails its lane. -/
  | fabricRequestTimeout (tag : BitVec 16)
  /-- RESPONSE_RETENTION_EXPIRY (R513). A kept response is dropped 1 ms after its request was performed. -/
  | responseRetentionExpiry (src : BitVec 10) (tag : BitVec 16)
  /-- LINK_TRAINED (R517). A scale-up link finishes training or retraining and comes up again. -/
  | linkTrained (port : Nat) (lanes : BitVec 8)
  /-- UNIT_FAILURE (R494). An intersection unit, die-cache slice, HBM pseudo-channel or Spire fails and is fenced. -/
  | unitFailure (kind : Nat) (die : Nat) (u : Nat)
  /-- TRANSPORT_UNREACHABLE_TIMEOUT (R532). A collective member that the scale-out transport cannot reach within 200 µs fails the call with LINK at every reachable member. -/
  | transportUnreachableTimeout (k : Nat) (member : Nat)
  /-- NOP (R99). An all-zero slot word does nothing in any slot. -/
  | nop
  /-- RET (R131). Each lane returns to the offset held in V63 and may pop its ray-return stack. -/
  | ret
  /-- YLD (R22). Ends the current fairness turn through the expiry step. -/
  | yld
  /-- EXIT (R141). Retires the executing lanes; this may end the course and its block. -/
  | exit
  /-- ERET (R144). Leaves the trap handler and restores the recorded frame, TLANES and TLPC. -/
  | eret
  /-- PDONE (R154). Stores the course record, frees the course's registers and makes the course leave its core. -/
  | pdone
  /-- TLBINV_DONE (R465). Every covered copy is discarded and every old access performed; DONE reads 1. -/
  | tlbinvDone
  /-- SVN_FUSE_RAISE (R492). On a host request, management raises the fused security version. -/
  | svnFuseRaise
  /-- GET_VERSION (R493). SPDM GET_VERSION request. -/
  | getVersion
  /-- GET_CAPABILITIES (R493). SPDM GET_CAPABILITIES request. -/
  | getCapabilities
  /-- GET_DIGESTS (R493). SPDM GET_DIGESTS request. -/
  | getDigests
  /-- POWER_LOSS (R493). The package loses power; volatile state is lost, while the reserved HSS signature indices stay consumed. -/
  | powerLoss
  deriving DecidableEq, Repr

end Sys2Proof
end

