-- ==== Sys2Proof/Machine/Profile.lean ====
section
/-! DEFINITION. What each instruction reads and writes (its operand profile) and which field values its
row allows (R37, R38, R105 to R116). The bundle rules R101, the touch count R63 and the operand checks
R51 to R55 are all stated over the profile. -/

namespace Sys2Proof.Machine

/-- Codes R37 allows as a source. -/
def srcOk (c : Code) : Bool := c.toNat ≤ 78 || (80 ≤ c.toNat && c.toNat ≤ 111)
/-- Codes R37 allows as a destination. -/
def dstOk (c : Code) : Bool := c.toNat ≤ 71 || c.toNat == 78
def isV (c : Code) : Bool := c.toNat < 64
def isO (c : Code) : Bool := 64 ≤ c.toNat && c.toNat ≤ 71
def isQW (c : Code) : Bool := c.toNat == 78
/-- A last-use bit may be set on V0 to V63 only (R38). -/
def lastOk (c : Code) (u : Bool) : Bool := !u || isV c
/-- A group of n registers must lie in V0 to V63 (R107). -/
def grpOk (c : Code) (n : Nat) : Bool := c.toNat + n ≤ 64

/-- The tags an entry expects of a source (R55, R162, R186 to R191). `half` is BF2 when source a is
BF2 and HF2 otherwise; `likeA` is the tag of source a (PACK). -/
inductive Expect where
  | bits | int | f32 | flt | icvt | half | likeA | e43e52 | e21
  deriving DecidableEq, Repr

/-- A vector source: code, last-use bit, registers in the group, expected tag, and whether a lane
that is not live counts as a released read (false only for the record d of R357). -/
structure Src where
  code : Code
  last : Bool
  n : Nat
  expect : Expect
  rrd : Bool
  deriving DecidableEq, Repr

/-- A vector destination: code and registers in the group. -/
structure Dst where
  code : Code
  n : Nat
  deriving DecidableEq, Repr

/-- The tag an entry gives its result: fixed, by a tag code, or from source a (R162, R169, R189, R192,
R260). -/
inductive RTag where
  | fix (t : Tag) | code (t : BitVec 4) | intA | bitA | addrA | halfA | unpkA
  deriving DecidableEq, Repr

structure Profile where
  slot : Nat := 0
  srcs : List Src := []
  dsts : List Dst := []
  /-- predicates the instruction writes (R101) -/
  preds : BitVec 8 := 0
  /-- a cross-lane or slot-3 instruction: the bundle converges (R27) -/
  conv : Bool := false
  /-- selects the explicit member mask (R27) -/
  m : Bool := false
  /-- the destination must be a V or O register, never QW (R261, R266, R307, R416) -/
  rw : Bool := false
  /-- registers VFREE names (R63, R176) -/
  frees : List Code := []
  /-- tags of the registers written, in order (R55) -/
  tags : List RTag := []
  /-- landing bound in ac (R64); that of XRED and XSCN at W = 32 -/
  bound : Nat := 2
  /-- scalar registers read and written by their fields (R112 to R115) -/
  sr : List SReg := []
  sw : List SReg := []
  deriving DecidableEq, Repr

def vec2 (d a : Code) (ua : Bool) (e : Expect) : Profile :=
  { slot := 1, srcs := [⟨a, ua, 1, e, true⟩], dsts := [⟨d, 1⟩] }

def vec3 (d a b : Code) (ua ub : Bool) (ea eb : Expect) : Profile :=
  { slot := 1, srcs := [⟨a, ua, 1, ea, true⟩, ⟨b, ub, 1, eb, true⟩], dsts := [⟨d, 1⟩] }

/-- The third source of a lend in role src (R105). -/
def Profile.third (p : Profile) (c : BitVec 6) (uc : Bool) (e : Expect) : Profile :=
  { p with srcs := p.srcs ++ [⟨c.setWidth 7, uc, 1, e, true⟩] }

def Profile.cross (p : Profile) (m : Bool) : Profile := { p with conv := true, m := m }

/-- The predicate named by a 3-bit field, as a mask; P0 is never written (R43). -/
def predBit (p : BitVec 3) : BitVec 8 := (1#8 <<< p.toNat) &&& 0xFE#8

/-- The expected tag of a reduction operation (R201). -/
def redExpect (o : BitVec 4) : Expect :=
  if o.toNat ≤ 2 then .f32 else if 4 ≤ o.toNat && o.toNat ≤ 6 then .bits else .int

/-- The result tag of a reduction operation (R201). -/
def redTag (o : BitVec 4) : RTag :=
  match o.toNat with
  | 0 | 1 | 2 => .fix .f32
  | 3 => .intA
  | 4 | 5 | 6 => .bitA
  | 7 | 8 => .fix .sw
  | _ => .fix .uw

/-- The 8 scalars of SHP from S[a] on (R309). -/
def shpRegs (a : SReg) : List SReg := (List.range 8).map fun i => a + .ofNat 5 i

/-- Special registers MTS may write (R44). -/
def mtsWritable (i : Nat) : Bool :=
  [0x02, 0x03, 0x04, 0x05, 0x06, 0x07, 0x08, 0x09, 0x0A, 0x0B, 0x0C, 0x0D, 0x18].contains i

/-- RMO codes of FRND (R110, R181). -/
def frndMode (r : BitVec 3) : Bool := r == 0 || 4 ≤ r.toNat
/-- RMO codes of the conversions; SR only for FCVT (R110). -/
def cvtMode (sr : Bool) (r : BitVec 3) : Bool := r == 0 || 4 ≤ r.toNat || (sr && r == 1)
/-- A scope is 0 to 5, and 0 without acquire or release (R111). -/
def scopeOk (used : Bool) (scope : BitVec 3) : Bool := scope.toNat ≤ 5 && (used || scope == 0)

/-- S31, which holds the explicit member mask (R27). -/
def mreg (m : Bool) : List SReg := if m then [31] else []

/-- The operand profile of every instruction. Events have none. TSAMP without `.lod` names two coordinate registers and with
it three, also for the touch count (R63, R114, R355): the model's choice (log entry 105). -/
def profile : Instr → Profile
  | .nop => {}
  | .bra _ => {}
  | .brp _ _ => {}
  | .brs s _ => { sr := [s] }
  | .brx a ua => { srcs := [⟨a, ua, 1, .bits, true⟩] }
  | .call _ => { dsts := [⟨63, 1⟩], tags := [.fix .uw] }
  | .callx a ua => { srcs := [⟨a, ua, 1, .bits, true⟩], dsts := [⟨63, 1⟩], tags := [.fix .uw] }
  | .ret => { srcs := [⟨63, false, 1, .bits, true⟩] }
  | .loopi _ => { preds := 0xF0 }
  | .loop _ => { preds := 0xF0 }
  | .jarm _ => {}
  | .jwait _ => {}
  | .yld => {}
  | .exit => {}
  | .trap _ => {}
  | .eret => {}
  | .waitc _ _ => {}
  | .mfs d _ => { sw := [d] }
  | .mts a _ => { sr := [a] }
  | .save a b => { sr := [a, b] }
  | .rest a b => { sr := [a, b] }
  | .pdone => {}
  | .govq d => { sw := [d] }
  | .sadd d a b => { sr := [a, b], sw := [d] }
  | .ssub d a b => { sr := [a, b], sw := [d] }
  | .smul d a b => { sr := [a, b], sw := [d] }
  | .smulh d a b _ => { sr := [a, b], sw := [d] }
  | .sand d a b => { sr := [a, b], sw := [d] }
  | .sor d a b => { sr := [a, b], sw := [d] }
  | .sxor d a b => { sr := [a, b], sw := [d] }
  | .sshl d a b => { sr := [a, b], sw := [d] }
  | .sshlImm d a _ => { sr := [a], sw := [d] }
  | .sshr d a b => { sr := [a, b], sw := [d] }
  | .sshrImm d a _ => { sr := [a], sw := [d] }
  | .ssra d a b => { sr := [a, b], sw := [d] }
  | .ssraImm d a _ => { sr := [a], sw := [d] }
  | .smin d a b _ => { sr := [a, b], sw := [d] }
  | .smax d a b _ => { sr := [a, b], sw := [d] }
  | .scmp d a b _ => { sr := [a, b], sw := [d] }
  | .saddi d a _ => { sr := [a], sw := [d] }
  | .sli d _ => { sw := [d] }
  | .slih d _ => { sr := [d], sw := [d] }
  | .ssel d a b c => { sr := [a, b, c], sw := [d] }
  | .sld d a _ => { sr := [a], sw := [d] }
  | .sst a b _ => { sr := [a, b] }
  | .vtos d a ua _ => { srcs := [⟨a, ua, 1, .bits, true⟩], sw := [d] }
  | .vtosF d a ua => { srcs := [⟨a, ua, 1, .bits, true⟩], sw := [d] }
  | .sclz d a => { sr := [a], sw := [d] }
  | .spopc d a => { sr := [a], sw := [d] }
  | .iadd d a b ua ub _ => { vec3 d a b ua ub .int .int with tags := [.intA] }
  | .isub d a b ua ub _ => { vec3 d a b ua ub .int .int with tags := [.intA] }
  | .iaddc d a b ua ub x c uc => { (vec3 d a b ua ub .int .int).third c uc .int with tags := [if x then .fix .uw else .intA] }
  | .imul d a b ua ub => { vec3 d a b ua ub .int .int with tags := [.intA], bound := 4 }
  | .imulh d a b ua ub => { vec3 d a b ua ub .int .int with tags := [.fix .sw], bound := 4 }
  | .imulhu d a b ua ub => { vec3 d a b ua ub .int .int with tags := [.fix .uw], bound := 4 }
  | .imad d a b ua ub c uc => { (vec3 d a b ua ub .int .int).third c uc .int with tags := [.intA], bound := 4 }
  | .imin d a b ua ub => { vec3 d a b ua ub .int .int with tags := [.fix .sw] }
  | .imax d a b ua ub => { vec3 d a b ua ub .int .int with tags := [.fix .sw] }
  | .iminu d a b ua ub => { vec3 d a b ua ub .int .int with tags := [.fix .uw] }
  | .imaxu d a b ua ub => { vec3 d a b ua ub .int .int with tags := [.fix .uw] }
  | .iabs d a ua => { vec2 d a ua .int with tags := [.fix .uw] }
  | .and d a b ua ub => { vec3 d a b ua ub .bits .bits with tags := [.bitA] }
  | .or d a b ua ub => { vec3 d a b ua ub .bits .bits with tags := [.bitA] }
  | .xor d a b ua ub => { vec3 d a b ua ub .bits .bits with tags := [.bitA] }
  | .andn d a b ua ub => { vec3 d a b ua ub .bits .bits with tags := [.bitA] }
  | .shl d a b ua ub => { vec3 d a b ua ub .bits .bits with tags := [.bitA] }
  | .shlImm d a _ ua => { vec2 d a ua .bits with tags := [.bitA] }
  | .shr d a b ua ub => { vec3 d a b ua ub .bits .bits with tags := [.bitA] }
  | .shrImm d a _ ua => { vec2 d a ua .bits with tags := [.bitA] }
  | .sra d a b ua ub => { vec3 d a b ua ub .bits .bits with tags := [.bitA] }
  | .sraImm d a _ ua => { vec2 d a ua .bits with tags := [.bitA] }
  | .rol d a b ua ub => { vec3 d a b ua ub .bits .bits with tags := [.bitA] }
  | .rolImm d a _ ua => { vec2 d a ua .bits with tags := [.bitA] }
  | .bfx d a b ua ub x => { vec3 d a b ua ub .bits .bits with tags := [.fix (if x then .sw else .uw)] }
  | .bfi d a b ua ub c uc => { (vec3 d a b ua ub .bits .bits).third c uc .bits with tags := [.bitA] }
  | .popc d a ua => { vec2 d a ua .bits with tags := [.fix .uw] }
  | .clz d a ua => { vec2 d a ua .bits with tags := [.fix .uw] }
  | .brev d a ua => { vec2 d a ua .bits with tags := [.bitA] }
  | .icmp _ p a b ua ub _ => { slot := 1, srcs := [⟨a, ua, 1, .int, true⟩, ⟨b, ub, 1, .int, true⟩], preds := predBit p }
  | .sel d a b ua ub _ => { vec3 d a b ua ub .bits .bits with tags := [.bitA] }
  | .mov d a ua => { vec2 d a ua .bits with tags := [.bitA] }
  | .li d _ => { slot := 1, dsts := [⟨d, 1⟩], tags := [.fix .sw] }
  | .lih d _ => { slot := 1, srcs := [⟨d, false, 1, .bits, true⟩], dsts := [⟨d, 1⟩], tags := [.fix .sw] }
  | .iaddi d a ua _ => { vec2 d a ua .int with tags := [.intA] }
  | .tag d a t ua => { vec2 d a ua .bits with tags := [.code t] }
  | .pset p a ua => { slot := 1, srcs := [⟨a, ua, 1, .bits, true⟩], preds := predBit p }
  | .pget d => { slot := 1, dsts := [⟨d, 1⟩], tags := [.fix .uw] }
  | .vfree a => { slot := 1, frees := [a] }
  | .fadd d a b ua ub => { vec3 d a b ua ub .f32 .f32 with tags := [.fix .f32], bound := 4 }
  | .fsub d a b ua ub => { vec3 d a b ua ub .f32 .f32 with tags := [.fix .f32], bound := 4 }
  | .fmul d a b ua ub => { vec3 d a b ua ub .f32 .f32 with tags := [.fix .f32], bound := 4 }
  | .ffma d a b ua ub c uc => { (vec3 d a b ua ub .f32 .f32).third c uc .f32 with tags := [.fix .f32], bound := 4 }
  | .fmin d a b ua ub => { vec3 d a b ua ub .f32 .f32 with tags := [.fix .f32], bound := 4 }
  | .fmax d a b ua ub => { vec3 d a b ua ub .f32 .f32 with tags := [.fix .f32], bound := 4 }
  | .fminn d a b ua ub => { vec3 d a b ua ub .f32 .f32 with tags := [.fix .f32], bound := 4 }
  | .fmaxn d a b ua ub => { vec3 d a b ua ub .f32 .f32 with tags := [.fix .f32], bound := 4 }
  | .fabs d a ua => { vec2 d a ua .f32 with tags := [.fix .f32], bound := 4 }
  | .fneg d a ua => { vec2 d a ua .f32 with tags := [.fix .f32], bound := 4 }
  | .fcmp _ p a b ua ub _ => { slot := 1, srcs := [⟨a, ua, 1, .f32, true⟩, ⟨b, ub, 1, .f32, true⟩], preds := predBit p, bound := 4 }
  | .fclmp d a b ua ub c uc => { (vec3 d a b ua ub .f32 .f32).third c uc .f32 with tags := [.fix .f32], bound := 4 }
  | .frnd d a _ ua => { vec2 d a ua .f32 with tags := [.fix .f32], bound := 4 }
  | .ffrac d a ua => { vec2 d a ua .f32 with tags := [.fix .f32], bound := 4 }
  | .frcp d a ua => { vec2 d a ua .f32 with tags := [.fix .f32], bound := 12 }
  | .frsq d a ua => { vec2 d a ua .f32 with tags := [.fix .f32], bound := 12 }
  | .fsqrt d a ua => { vec2 d a ua .f32 with tags := [.fix .f32], bound := 12 }
  | .fex2 d a ua => { vec2 d a ua .f32 with tags := [.fix .f32], bound := 12 }
  | .flg2 d a ua => { vec2 d a ua .f32 with tags := [.fix .f32], bound := 12 }
  | .fsin d a ua => { vec2 d a ua .f32 with tags := [.fix .f32], bound := 12 }
  | .fcos d a ua => { vec2 d a ua .f32 with tags := [.fix .f32], bound := 12 }
  | .fcvt d a _ _ t ua => { vec2 d a ua .flt with tags := [.code t], bound := 4 }
  | .icvtf d a _ t ua => { vec2 d a ua .icvt with tags := [.code t], bound := 4 }
  | .fcvti d a _ t ua => { vec2 d a ua .flt with tags := [.code t], bound := 4 }
  | .hadd2 d a b ua ub => { vec3 d a b ua ub .half .half with tags := [.halfA], bound := 4 }
  | .hmul2 d a b ua ub => { vec3 d a b ua ub .half .half with tags := [.halfA], bound := 4 }
  | .hfma2 d a b ua ub c uc => { (vec3 d a b ua ub .half .half).third c uc .half with tags := [.halfA], bound := 4 }
  | .fdot4 d a b ua ub c uc => { (vec3 d a b ua ub .e43e52 .e43e52).third c uc .f32 with tags := [.fix .f32], bound := 4 }
  | .fdot8 d a b ua ub c uc => { (vec3 d a b ua ub .e21 .e21).third c uc .f32 with tags := [.fix .f32], bound := 4 }
  | .pack d a b ua ub _ => { vec3 d a b ua ub .bits .likeA with tags := [.bitA], bound := 4 }
  | .unpk d a _ ua => { vec2 d a ua .bits with tags := [.unpkA], bound := 4 }
  | .xshf d a b ua ub m => { (vec3 d a b ua ub .bits .bits).cross m with tags := [.bitA], bound := 6, sr := mreg m }
  | .xrot d a b ua ub m => { (vec3 d a b ua ub .bits .bits).cross m with tags := [.bitA], bound := 6, sr := mreg m }
  | .xbc d a b ua ub m => { (vec3 d a b ua ub .bits .bits).cross m with tags := [.bitA], bound := 6, sr := mreg m }
  | .xstep d a b ua ub m => { (vec3 d a b ua ub .bits .bits).cross m with tags := [.bitA], bound := 6, sr := mreg m }
  | .xred d a o ua m => { (vec2 d a ua (redExpect o)).cross m with tags := [redTag o], bound := 14, sr := mreg m }
  | .xscn d a _ o ua m => { (vec2 d a ua (redExpect o)).cross m with tags := [redTag o], bound := 14, sr := mreg m }
  | .xbal d a _ ua m => { (vec2 d a ua .bits).cross m with tags := [.fix .uw], bound := 4, sr := mreg m }
  | .xcnt d a ua m => { (vec2 d a ua .bits).cross m with tags := [.fix .uw], bound := 4, sr := mreg m }
  | .xfst d a ua m => { (vec2 d a ua .bits).cross m with tags := [.fix .uw], bound := 4, sr := mreg m }
  | .rsvup d a b ua ub c uc => { slot := 1, srcs := [⟨a, ua, 1, .bits, true⟩, ⟨b, ub, 1, .f32, true⟩, ⟨c.setWidth 7, uc, 1, .f32, true⟩, ⟨d, false, 4, .bits, false⟩], dsts := [⟨d, 4⟩], tags := [.fix .f32, .fix .f32, .fix .uw, .fix .uw], bound := 8 }
  | .rsvmrg d a b ua ub => { slot := 1, srcs := [⟨a, ua, 4, .bits, true⟩, ⟨b, ub, 1, .f32, true⟩, ⟨d, false, 4, .bits, false⟩], dsts := [⟨d, 4⟩], tags := [.fix .f32, .fix .f32, .fix .uw, .fix .uw], bound := 8 }
  | .rsvfin d a b ua ub => { slot := 1, srcs := [⟨a, ua, 4, .bits, true⟩, ⟨b, ub, 1, .f32, true⟩], dsts := [⟨d, 1⟩], tags := [.fix .f32], bound := 8 }
  | .aadd d a b ua ub => { vec3 d a b ua ub .bits .bits with slot := 2, tags := [.addrA] }
  | .ashl d a b ua ub => { vec3 d a b ua ub .bits .bits with slot := 2, tags := [.addrA] }
  | .ashlImm d a _ ua => { vec2 d a ua .bits with slot := 2, tags := [.addrA] }
  | .aand d a b ua ub => { vec3 d a b ua ub .bits .bits with slot := 2, tags := [.addrA] }
  | .amov d a ua => { vec2 d a ua .bits with slot := 2, tags := [.addrA] }
  | .ali d _ => { slot := 2, dsts := [⟨d, 1⟩], tags := [.fix .sw] }
  | .aform d a b ua ub x => { vec3 d a b ua ub .bits .bits with slot := 2, tags := [.fix (if x then .ahi else .alo)] }
  | .ldB t s o _ uo _ _ => { slot := 2, srcs := [⟨o, uo, 1, .bits, true⟩], dsts := [⟨t, 1⟩], rw := true, tags := [.fix .uw], sr := [s] }
  | .ldBs t s o _ uo _ _ => { slot := 2, srcs := [⟨o, uo, 1, .bits, true⟩], dsts := [⟨t, 1⟩], rw := true, tags := [.fix .sw], sr := [s] }
  | .ldH t s o _ uo _ _ => { slot := 2, srcs := [⟨o, uo, 1, .bits, true⟩], dsts := [⟨t, 1⟩], rw := true, tags := [.fix .uw], sr := [s] }
  | .ldHs t s o _ uo _ _ => { slot := 2, srcs := [⟨o, uo, 1, .bits, true⟩], dsts := [⟨t, 1⟩], rw := true, tags := [.fix .sw], sr := [s] }
  | .ldW t s o _ uo _ _ => { slot := 2, srcs := [⟨o, uo, 1, .bits, true⟩], dsts := [⟨t, 1⟩], rw := true, tags := [.fix .und], sr := [s] }
  | .ldd t s o _ uo _ _ => { slot := 2, srcs := [⟨o, uo, 1, .bits, true⟩], dsts := [⟨t, 2⟩], rw := true, tags := [.fix .und, .fix .und], sr := [s] }
  | .ldq t s o _ uo _ _ => { slot := 2, srcs := [⟨o, uo, 1, .bits, true⟩], dsts := [⟨t, 4⟩], rw := true, tags := [.fix .und, .fix .und, .fix .und, .fix .und], sr := [s] }
  | .ldc t s _ _ _ => { slot := 2, srcs := [], dsts := [⟨t, 1⟩], rw := true, tags := [.fix .und], sr := [s] }
  | .ldu t s _ _ _ => { slot := 2, srcs := [], dsts := [⟨t, 1⟩], rw := true, tags := [.fix .und], sr := [s] }
  | .ldsB t s o _ uo _ => { slot := 2, srcs := [⟨o, uo, 1, .bits, true⟩], dsts := [⟨t, 1⟩], rw := true, tags := [.fix .uw], sr := [s] }
  | .ldsBs t s o _ uo _ => { slot := 2, srcs := [⟨o, uo, 1, .bits, true⟩], dsts := [⟨t, 1⟩], rw := true, tags := [.fix .sw], sr := [s] }
  | .ldsH t s o _ uo _ => { slot := 2, srcs := [⟨o, uo, 1, .bits, true⟩], dsts := [⟨t, 1⟩], rw := true, tags := [.fix .uw], sr := [s] }
  | .ldsHs t s o _ uo _ => { slot := 2, srcs := [⟨o, uo, 1, .bits, true⟩], dsts := [⟨t, 1⟩], rw := true, tags := [.fix .sw], sr := [s] }
  | .ldsW t s o _ uo _ => { slot := 2, srcs := [⟨o, uo, 1, .bits, true⟩], dsts := [⟨t, 1⟩], rw := true, tags := [.fix .und], sr := [s] }
  | .ldsc t s _ _ => { slot := 2, srcs := [], dsts := [⟨t, 1⟩], rw := true, tags := [.fix .und], sr := [s] }
  | .stB t s o _ ut uo _ _ => { slot := 2, srcs := [⟨t, ut, 1, .bits, true⟩, ⟨o, uo, 1, .bits, true⟩], sr := [s] }
  | .stH t s o _ ut uo _ _ => { slot := 2, srcs := [⟨t, ut, 1, .bits, true⟩, ⟨o, uo, 1, .bits, true⟩], sr := [s] }
  | .stW t s o _ ut uo _ _ => { slot := 2, srcs := [⟨t, ut, 1, .bits, true⟩, ⟨o, uo, 1, .bits, true⟩], sr := [s] }
  | .std t s o _ ut uo _ _ => { slot := 2, srcs := [⟨t, ut, 2, .bits, true⟩, ⟨o, uo, 1, .bits, true⟩], sr := [s] }
  | .stq t s o _ ut uo _ _ => { slot := 2, srcs := [⟨t, ut, 4, .bits, true⟩, ⟨o, uo, 1, .bits, true⟩], sr := [s] }
  | .stc t s _ ut _ _ => { slot := 2, srcs := [⟨t, ut, 1, .bits, true⟩], sr := [s] }
  | .stsB t s o _ ut uo _ => { slot := 2, srcs := [⟨t, ut, 1, .bits, true⟩, ⟨o, uo, 1, .bits, true⟩], sr := [s] }
  | .stsH t s o _ ut uo _ => { slot := 2, srcs := [⟨t, ut, 1, .bits, true⟩, ⟨o, uo, 1, .bits, true⟩], sr := [s] }
  | .stsW t s o _ ut uo _ => { slot := 2, srcs := [⟨t, ut, 1, .bits, true⟩, ⟨o, uo, 1, .bits, true⟩], sr := [s] }
  | .stsc t s _ ut _ => { slot := 2, srcs := [⟨t, ut, 1, .bits, true⟩], sr := [s] }
  | .amo t s o _ ut uo rv _ => { slot := 2, srcs := [⟨t, ut, 1, .bits, true⟩, ⟨o, uo, 1, .bits, true⟩], dsts := if rv then [⟨t, 1⟩] else [], rw := rv, tags := if rv then [.fix .und] else [], sr := [s] }
  | .cas t s o _ ut uo rv c uc => { slot := 2, srcs := [⟨t, ut, 1, .bits, true⟩, ⟨o, uo, 1, .bits, true⟩, ⟨c.setWidth 7, uc, 1, .bits, true⟩], dsts := if rv then [⟨t, 1⟩] else [], rw := rv, tags := if rv then [.fix .und] else [], sr := [s] }
  | .amos t s o _ ut uo rv _ => { slot := 2, srcs := [⟨t, ut, 1, .bits, true⟩, ⟨o, uo, 1, .bits, true⟩], dsts := if rv then [⟨t, 1⟩] else [], rw := rv, tags := if rv then [.fix .und] else [], sr := [s] }
  | .cass t s o _ ut uo rv c uc => { slot := 2, srcs := [⟨t, ut, 1, .bits, true⟩, ⟨o, uo, 1, .bits, true⟩, ⟨c.setWidth 7, uc, 1, .bits, true⟩], dsts := if rv then [⟨t, 1⟩] else [], rw := rv, tags := if rv then [.fix .und] else [], sr := [s] }
  | .waita t s o _ ut uo to_ _ _ _ _ => { slot := 2, srcs := [⟨t, ut, 1, .bits, true⟩, ⟨o, uo, 1, .bits, true⟩], sr := if to_ then [s, 30] else [s] }
  | .sig t s o _ ut uo _ _ _ _ => { slot := 2, srcs := [⟨t, ut, 1, .bits, true⟩, ⟨o, uo, 1, .bits, true⟩], sr := [s] }
  | .fence _ _ _ => { slot := 2 }
  | .lda t s o _ uo _ _ => { slot := 2, srcs := [⟨o, uo, 1, .bits, true⟩], dsts := [⟨t, 1⟩], rw := true, tags := [.fix .und], sr := [s] }
  | .stl t s o _ ut uo _ _ => { slot := 2, srcs := [⟨t, ut, 1, .bits, true⟩, ⟨o, uo, 1, .bits, true⟩], sr := [s] }
  | .pref _ s o _ uo _ => { slot := 2, srcs := [⟨o, uo, 1, .bits, true⟩], sr := [s] }
  | .wbr s n => { slot := 2, sr := [s, (n - 80).setWidth 5] }
  | .invr s n => { slot := 2, sr := [s, (n - 80).setWidth 5] }
  | .trace t s o _ => { slot := 2, srcs := [⟨o, false, 8, .f32, true⟩], dsts := [⟨t, 4⟩], tags := [.fix .f32, .fix .uw, .fix .hf2, .fix .uw], sr := [s] }
  | .tracec t s o _ h => { slot := 2, srcs := [⟨o, false, 8, .f32, true⟩], dsts := [⟨t, 4⟩, ⟨63, 1⟩], tags := [.fix .f32, .fix .uw, .fix .hf2, .fix .uw, .fix .uw], sr := [s, 16 + h.setWidth 5] }
  | .visq t s o uo _ => { slot := 2, srcs := [⟨o, uo, 1, .bits, true⟩], dsts := [⟨t, 4⟩], tags := [.fix .f32, .fix .f32, .fix .uw, .fix .uw], sr := [s] }
  | .tsamp t s o _ _ lod => { slot := 2, srcs := [⟨o, false, if lod then 3 else 2, .f32, true⟩], dsts := [⟨t, 4⟩], tags := [.fix .f32, .fix .f32, .fix .f32, .fix .f32], sr := [s] }
  | .tsize t s _ => { slot := 2, dsts := [⟨t, 2⟩], tags := [.fix .uw, .fix .uw], sr := [s] }
  | .mzero m _ => { slot := 3, conv := true, m := m, sr := mreg m }
  | .mchb m _ _ => { slot := 3, conv := true, m := m, sr := mreg m }
  | .mche m _ => { slot := 3, conv := true, m := m, sr := mreg m }
  | .mma m a b c _ _ => { slot := 3, conv := true, m := m, sr := mreg m ++ [a, b, c] }
  | .macl m d _ _ => { slot := 3, conv := true, m := m, dsts := [⟨d, 4⟩], tags := [.fix .f32, .fix .f32, .fix .f32, .fix .f32], bound := 8, sr := mreg m }
  | .mdst m a b _ _ _ _ => { slot := 3, conv := true, m := m, sr := mreg m ++ [a, b] }
  | .mstg m a b c _ _ => { slot := 3, conv := true, m := m, sr := mreg m ++ [a, b, c] }
  | .shp m a _ => { slot := 3, conv := true, m := m, sr := mreg m ++ shpRegs a }
  | .cpy m _ => { slot := 3, conv := true, m := m, sr := mreg m }
  | .cpym m _ => { slot := 3, conv := true, m := m, sr := mreg m }
  | .owng m a => { slot := 3, conv := true, m := m, sr := mreg m ++ [a] }
  | .ownt m a => { slot := 3, conv := true, m := m, sr := mreg m ++ [a] }
  | .qcfg m a b _ => { slot := 3, conv := true, m := m, sr := mreg m ++ [a, b] }
  | .qpush m a _ => { slot := 3, conv := true, m := m, sr := mreg m ++ [a] }
  | .qpop m d _ => { slot := 3, conv := true, m := m, dsts := [⟨d, 1⟩], rw := true, tags := [.fix .uw], sr := mreg m }
  | .qtry m d _ => { slot := 3, conv := true, m := m, dsts := [⟨d, 1⟩], rw := true, tags := [.fix .uw], sr := mreg m }
  | .tsub m a => { slot := 3, conv := true, m := m, sr := mreg m ++ [a] }
  | .tdep m a => { slot := 3, conv := true, m := m, sr := mreg m ++ [a] }
  | .emit m a _ => { slot := 3, conv := true, m := m, sr := mreg m ++ [a] }
  | .cont m a b _ => { slot := 3, conv := true, m := m, sr := mreg m ++ [a, b] }
  | .keyrel m a => { slot := 3, conv := true, m := m, sr := mreg m ++ [a] }
  | .qsub m d a b => { slot := 3, conv := true, m := m, dsts := [⟨d, 1⟩], rw := true, tags := [.fix .uw], sr := mreg m ++ [a, b] }
  | .cred m a b c _ _ => { slot := 3, conv := true, m := m, sr := mreg m ++ [a, b, c] }
  | .cbc m a b c _ => { slot := 3, conv := true, m := m, sr := mreg m ++ [a, b, c] }
  | .cag m a b c _ => { slot := 3, conv := true, m := m, sr := mreg m ++ [a, b, c] }
  | .crs m a b c _ _ => { slot := 3, conv := true, m := m, sr := mreg m ++ [a, b, c] }
  | .coreIssueCycle .. => {}
  | .fairnessExpiry .. => {}
  | .resultLanding .. => {}
  | .spillComplete .. => {}
  | .fillComplete .. => {}
  | .loadPerformed .. => {}
  | .storePerformed .. => {}
  | .atomicPerformed .. => {}
  | .faultRecordWrite .. => {}
  | .waitaWake .. => {}
  | .waitaPoll .. => {}
  | .waitaTimeout .. => {}
  | .asyncTrapDelivery .. => {}
  | .preemptDeadlineExpiry .. => {}
  | .forcedSave .. => {}
  | .courseResume .. => {}
  | .blockBind .. => {}
  | .blockAdmission .. => {}
  | .mmaComplete .. => {}
  | .mzeroComplete .. => {}
  | .mcheComplete .. => {}
  | .mdstComplete .. => {}
  | .maclLanding .. => {}
  | .copyStart .. => {}
  | .copyComplete .. => {}
  | .stagingUnitArrival .. => {}
  | .stagingUnitDrain .. => {}
  | .collectiveStart .. => {}
  | .collectiveComplete .. => {}
  | .taskGrant .. => {}
  | .tdepDecrement .. => {}
  | .keyrelEffect .. => {}
  | .continuationWake .. => {}
  | .graphBlockBind .. => {}
  | .spireWindow .. => {}
  | .waitPacketComplete .. => {}
  | .streamStart .. => {}
  | .portalWrite .. => {}
  | .quantumExpiry .. => {}
  | .ageingStep .. => {}
  | .watchdogFire .. => {}
  | .queueCreate .. => {}
  | .queueDestroy .. => {}
  | .bindRecordWrite .. => {}
  | .ctxpdlWrite .. => {}
  | .ktrepWrite .. => {}
  | .tlbinvnWrite .. => {}
  | .tlbinvWrite .. => {}
  | .tlbinvDone => {}
  | .fltrespRetry .. => {}
  | .fltrespFailUnmapped .. => {}
  | .fltrespFailPermission .. => {}
  | .govstepWrite .. => {}
  | .govdWrite .. => {}
  | .registerWrite .. => {}
  | .dieCacheWriteback .. => {}
  | .hostBarAccess .. => {}
  | .pcieCompletion .. => {}
  | .pcieRequestTimeout .. => {}
  | .softErrorCorrected .. => {}
  | .uncorrectableError .. => {}
  | .coreLoss .. => {}
  | .mortarLaneFail .. => {}
  | .thermalStepUp .. => {}
  | .thermalStepDown .. => {}
  | .thermalStop .. => {}
  | .thermalResume .. => {}
  | .powerOn .. => {}
  | .svnFuseRaise => {}
  | .getVersion => {}
  | .getCapabilities => {}
  | .negotiateAlgorithms .. => {}
  | .getDigests => {}
  | .getCertificate .. => {}
  | .challenge .. => {}
  | .getMeasurements .. => {}
  | .contextCreate .. => {}
  | .contextReset .. => {}
  | .flitRead .. => {}
  | .flitWrite .. => {}
  | .flitAtomic .. => {}
  | .flitReduce .. => {}
  | .flitMessage .. => {}
  | .flitResponse .. => {}
  | .flitReceive .. => {}
  | .flitReplayTimeout .. => {}
  | .linkTrainTimeout .. => {}
  | .fabricRequestTimeout .. => {}
  | .responseRetentionExpiry .. => {}
  | .fixedFunctionRequestPerformed .. => {}
  | .scalarAccessPerformed .. => {}
  | .dispatcherResultWritten .. => {}
  | .rowSequencerIssue .. => {}
  | .linkTrained .. => {}
  | .unitFailure .. => {}
  | .transportUnreachableTimeout .. => {}
  | .powerLoss => {}

/-- Field values the row of an instruction restricts beyond its operands (R107, R110, R111). -/
def fieldsOk : Instr → Bool
  | .nop => true
  | .bra _ => true
  | .brp p _ => p != 0
  | .brs _ _ => true
  | .brx _ _ => true
  | .call _ => true
  | .callx _ _ => true
  | .ret => true
  | .loopi _ => true
  | .loop _ => true
  | .jarm _ => true
  | .jwait _ => true
  | .yld => true
  | .exit => true
  | .trap _ => true
  | .eret => true
  | .waitc _ _ => true
  | .mfs _ i => i.toNat ≤ 0x1B
  | .mts _ i => mtsWritable i.toNat
  | .save _ _ => true
  | .rest _ _ => true
  | .pdone => true
  | .govq _ => true
  | .sadd _ _ _ => true
  | .ssub _ _ _ => true
  | .smul _ _ _ => true
  | .smulh _ _ _ _ => true
  | .sand _ _ _ => true
  | .sor _ _ _ => true
  | .sxor _ _ _ => true
  | .sshl _ _ _ => true
  | .sshlImm _ _ _ => true
  | .sshr _ _ _ => true
  | .sshrImm _ _ _ => true
  | .ssra _ _ _ => true
  | .ssraImm _ _ _ => true
  | .smin _ _ _ _ => true
  | .smax _ _ _ _ => true
  | .scmp _ _ _ c => c.toNat ≤ 9
  | .saddi _ _ _ => true
  | .sli _ _ => true
  | .slih _ _ => true
  | .ssel _ _ _ _ => true
  | .sld _ _ _ => true
  | .sst _ _ _ => true
  | .vtos _ _ _ _ => true
  | .vtosF _ _ _ => true
  | .sclz _ _ => true
  | .spopc _ _ => true
  | .iadd _ _ _ _ _ _ => true
  | .isub _ _ _ _ _ _ => true
  | .iaddc _ _ _ _ _ _ _ _ => true
  | .imul _ _ _ _ _ => true
  | .imulh _ _ _ _ _ => true
  | .imulhu _ _ _ _ _ => true
  | .imad _ _ _ _ _ _ _ => true
  | .imin _ _ _ _ _ => true
  | .imax _ _ _ _ _ => true
  | .iminu _ _ _ _ _ => true
  | .imaxu _ _ _ _ _ => true
  | .iabs _ _ _ => true
  | .and _ _ _ _ _ => true
  | .or _ _ _ _ _ => true
  | .xor _ _ _ _ _ => true
  | .andn _ _ _ _ _ => true
  | .shl _ _ _ _ _ => true
  | .shlImm _ _ _ _ => true
  | .shr _ _ _ _ _ => true
  | .shrImm _ _ _ _ => true
  | .sra _ _ _ _ _ => true
  | .sraImm _ _ _ _ => true
  | .rol _ _ _ _ _ => true
  | .rolImm _ _ _ _ => true
  | .bfx _ _ _ _ _ _ => true
  | .bfi _ _ _ _ _ _ _ => true
  | .popc _ _ _ => true
  | .clz _ _ _ => true
  | .brev _ _ _ => true
  | .icmp c _ _ _ _ _ _ => c.toNat ≤ 9
  | .sel _ _ _ _ _ _ => true
  | .mov _ _ _ => true
  | .li _ _ => true
  | .lih _ _ => true
  | .iaddi _ _ _ _ => true
  | .tag _ _ t _ => t != 15
  | .pset _ _ _ => true
  | .pget _ => true
  | .vfree a => isV a
  | .fadd _ _ _ _ _ => true
  | .fsub _ _ _ _ _ => true
  | .fmul _ _ _ _ _ => true
  | .ffma _ _ _ _ _ _ _ => true
  | .fmin _ _ _ _ _ => true
  | .fmax _ _ _ _ _ => true
  | .fminn _ _ _ _ _ => true
  | .fmaxn _ _ _ _ _ => true
  | .fabs _ _ _ => true
  | .fneg _ _ _ => true
  | .fcmp c _ _ _ _ _ _ => c.toNat ≤ 7
  | .fclmp _ _ _ _ _ _ _ => true
  | .frnd _ _ r _ => frndMode r
  | .ffrac _ _ _ => true
  | .frcp _ _ _ => true
  | .frsq _ _ _ => true
  | .fsqrt _ _ _ => true
  | .fex2 _ _ _ => true
  | .flg2 _ _ _ => true
  | .fsin _ _ _ => true
  | .fcos _ _ _ => true
  | .fcvt _ _ n r t _ => [3, 4, 5, 6, 7, 8, 9].contains t.toNat && cvtMode true r && !((t.toNat == 3 || t.toNat == 9) && (r == 1 || n))
  | .icvtf _ _ r t _ => [3, 4, 5].contains t.toNat && cvtMode false r
  | .fcvti _ _ r t _ => [1, 2, 10, 11, 12].contains t.toNat && cvtMode false r
  | .hadd2 _ _ _ _ _ => true
  | .hmul2 _ _ _ _ _ => true
  | .hfma2 _ _ _ _ _ _ _ => true
  | .fdot4 _ _ _ _ _ _ _ => true
  | .fdot8 _ _ _ _ _ _ _ => true
  | .pack _ _ _ _ _ _ => true
  | .unpk _ _ _ _ => true
  | .xshf _ _ _ _ _ _ => true
  | .xrot _ _ _ _ _ _ => true
  | .xbc _ _ _ _ _ _ => true
  | .xstep _ _ _ _ _ _ => true
  | .xred _ _ o _ _ => o.toNat ≤ 10
  | .xscn _ _ _ o _ _ => o.toNat ≤ 10
  | .xbal _ _ _ _ _ => true
  | .xcnt _ _ _ _ => true
  | .xfst _ _ _ _ => true
  | .rsvup d _ _ _ _ _ _ => grpOk d 4
  | .rsvmrg d _ _ _ _ => grpOk d 4
  | .rsvfin _ a _ _ _ => grpOk a 4
  | .aadd _ _ _ _ _ => true
  | .ashl _ _ _ _ _ => true
  | .ashlImm _ _ _ _ => true
  | .aand _ _ _ _ _ => true
  | .amov _ _ _ => true
  | .ali _ _ => true
  | .aform _ _ _ _ _ _ => true
  | .ldB _ _ _ _ _ _ _ => true
  | .ldBs _ _ _ _ _ _ _ => true
  | .ldH _ _ _ _ _ _ _ => true
  | .ldHs _ _ _ _ _ _ _ => true
  | .ldW _ _ _ _ _ _ _ => true
  | .ldd _ _ _ _ _ _ _ => true
  | .ldq _ _ _ _ _ _ _ => true
  | .ldc _ _ _ _ _ => true
  | .ldu _ _ _ _ _ => true
  | .ldsB _ _ _ _ _ _ => true
  | .ldsBs _ _ _ _ _ _ => true
  | .ldsH _ _ _ _ _ _ => true
  | .ldsHs _ _ _ _ _ _ => true
  | .ldsW _ _ _ _ _ _ => true
  | .ldsc _ _ _ _ => true
  | .stB _ _ _ _ _ _ _ _ => true
  | .stH _ _ _ _ _ _ _ _ => true
  | .stW _ _ _ _ _ _ _ _ => true
  | .std _ _ _ _ _ _ _ _ => true
  | .stq _ _ _ _ _ _ _ _ => true
  | .stc _ _ _ _ _ _ => true
  | .stsB _ _ _ _ _ _ _ => true
  | .stsH _ _ _ _ _ _ _ => true
  | .stsW _ _ _ _ _ _ _ => true
  | .stsc _ _ _ _ _ => true
  | .amo _ _ _ _ _ _ _ op => op.toNat ≤ 9
  | .cas _ _ _ _ _ _ _ _ _ => true
  | .amos _ _ _ _ _ _ _ op => op.toNat ≤ 9
  | .cass _ _ _ _ _ _ _ _ _ => true
  | .waita _ _ _ _ _ _ _ _ acq scope _ => scopeOk acq scope
  | .sig _ _ _ _ _ _ op rel scope _ => op != 3 && scopeOk rel scope
  | .fence kind scope _ => kind != 0 && scope.toNat ≤ 5
  | .lda _ _ _ _ _ scope _ => scope.toNat ≤ 5
  | .stl _ _ _ _ _ _ scope _ => scope.toNat ≤ 5
  | .pref _ _ _ _ _ _ => true
  | .wbr _ n => 80 ≤ n.toNat && n.toNat ≤ 111
  | .invr _ n => 80 ≤ n.toNat && n.toNat ≤ 111
  | .trace _ _ _ _ => true
  | .tracec _ _ _ _ _ => true
  | .visq _ _ _ _ _ => true
  | .tsamp _ _ o flt adr _ => flt != 3 && adr != 3 && grpOk o 3
  | .tsize _ _ _ => true
  | .mzero _ _ => true
  | .mchb _ _ _ => true
  | .mche _ _ => true
  | .mma _ _ _ _ fmt _ => fmt.toNat ≤ 8
  | .macl _ _ _ _ => true
  | .mdst _ _ _ _ cvt op _ => op != 3 && cvt != 3 && (op == 0 || cvt == 0)
  | .mstg _ _ _ _ fmt _ => fmt.toNat ≤ 8
  | .shp _ a _ => a.toNat ≤ 24
  | .cpy _ _ => true
  | .cpym _ _ => true
  | .owng _ _ => true
  | .ownt _ _ => true
  | .qcfg _ _ _ _ => true
  | .qpush _ _ _ => true
  | .qpop _ _ _ => true
  | .qtry _ _ _ => true
  | .tsub _ _ => true
  | .tdep _ _ => true
  | .emit _ _ _ => true
  | .cont _ _ _ k => k != 3
  | .keyrel _ _ => true
  | .qsub _ _ _ _ => true
  | .cred _ _ _ _ o _ => o.toNat ≤ 2
  | .cbc _ _ _ _ _ => true
  | .cag _ _ _ _ _ => true
  | .crs _ _ _ _ o _ => o.toNat ≤ 2
  | .coreIssueCycle .. => true
  | .fairnessExpiry .. => true
  | .resultLanding .. => true
  | .spillComplete .. => true
  | .fillComplete .. => true
  | .loadPerformed .. => true
  | .storePerformed .. => true
  | .atomicPerformed .. => true
  | .faultRecordWrite .. => true
  | .waitaWake .. => true
  | .waitaPoll .. => true
  | .waitaTimeout .. => true
  | .asyncTrapDelivery .. => true
  | .preemptDeadlineExpiry .. => true
  | .forcedSave .. => true
  | .courseResume .. => true
  | .blockBind .. => true
  | .blockAdmission .. => true
  | .mmaComplete .. => true
  | .mzeroComplete .. => true
  | .mcheComplete .. => true
  | .mdstComplete .. => true
  | .maclLanding .. => true
  | .copyStart .. => true
  | .copyComplete .. => true
  | .stagingUnitArrival .. => true
  | .stagingUnitDrain .. => true
  | .collectiveStart .. => true
  | .collectiveComplete .. => true
  | .taskGrant .. => true
  | .tdepDecrement .. => true
  | .keyrelEffect .. => true
  | .continuationWake .. => true
  | .graphBlockBind .. => true
  | .spireWindow .. => true
  | .waitPacketComplete .. => true
  | .streamStart .. => true
  | .portalWrite .. => true
  | .quantumExpiry .. => true
  | .ageingStep .. => true
  | .watchdogFire .. => true
  | .queueCreate .. => true
  | .queueDestroy .. => true
  | .bindRecordWrite .. => true
  | .ctxpdlWrite .. => true
  | .ktrepWrite .. => true
  | .tlbinvnWrite .. => true
  | .tlbinvWrite .. => true
  | .tlbinvDone => true
  | .fltrespRetry .. => true
  | .fltrespFailUnmapped .. => true
  | .fltrespFailPermission .. => true
  | .govstepWrite .. => true
  | .govdWrite .. => true
  | .registerWrite .. => true
  | .dieCacheWriteback .. => true
  | .hostBarAccess .. => true
  | .pcieCompletion .. => true
  | .pcieRequestTimeout .. => true
  | .softErrorCorrected .. => true
  | .uncorrectableError .. => true
  | .coreLoss .. => true
  | .mortarLaneFail .. => true
  | .thermalStepUp .. => true
  | .thermalStepDown .. => true
  | .thermalStop .. => true
  | .thermalResume .. => true
  | .powerOn .. => true
  | .svnFuseRaise => true
  | .getVersion => true
  | .getCapabilities => true
  | .negotiateAlgorithms .. => true
  | .getDigests => true
  | .getCertificate .. => true
  | .challenge .. => true
  | .getMeasurements .. => true
  | .contextCreate .. => true
  | .contextReset .. => true
  | .flitRead .. => true
  | .flitWrite .. => true
  | .flitAtomic .. => true
  | .flitReduce .. => true
  | .flitMessage .. => true
  | .flitResponse .. => true
  | .flitReceive .. => true
  | .flitReplayTimeout .. => true
  | .linkTrainTimeout .. => true
  | .fabricRequestTimeout .. => true
  | .responseRetentionExpiry .. => true
  | .fixedFunctionRequestPerformed .. => true
  | .scalarAccessPerformed .. => true
  | .dispatcherResultWritten .. => true
  | .rowSequencerIssue .. => true
  | .linkTrained .. => true
  | .unitFailure .. => true
  | .transportUnreachableTimeout .. => true
  | .powerLoss => true

def Profile.ok (p : Profile) : Bool :=
  p.srcs.all (fun s => srcOk s.code && lastOk s.code s.last && (s.n == 1 || grpOk s.code s.n)) &&
  p.dsts.all (fun d => if d.n == 1 then dstOk d.code && !(p.rw && isQW d.code) else grpOk d.code d.n)

/-- An instruction whose every field value its row allows; any other raises ILL (R116). The rules
that depend on the course, its core or the rest of the bundle are in Machine/Gate.lean. -/
def legal (i : Instr) : Bool := (profile i).ok && fieldsOk i

end Sys2Proof.Machine
end

