-- ==== Sys2Proof/WellFormed.lean ====
section
/-! DEFINITION. Well-formed instructions: those whose fields their row allows (R107, R116). The check
itself is `Machine.legal`, beside the operand profiles. -/

namespace Sys2Proof

/-- The instruction has only field values that its row allows. -/
def Instr.WellFormed (i : Instr) : Prop := Machine.legal i = true

end Sys2Proof
end

