-- ==== Sys2Proof/Decode.lean ====
section
/-! DEFINITION. Decoding slot words, headers and bundles (R98 to R117), total on any bytes and rejecting
by name, and after it the encoder of every instruction, written from the same layouts (R106). -/

namespace Sys2Proof

/-- Bits lo to lo + n - 1 of a number (R3). -/
def bf (w lo n : Nat) : Nat := w / 2 ^ lo % 2 ^ n

/-- Why a slot word is not an instruction (R116). -/
inductive DecodeError where
  /-- the slot's map does not allocate the opcode (R112 to R115) -/
  | opcode
  /-- a field the row requires to be 0 is not (R107) -/
  | field
  /-- the lend does not suit the row (R105) -/
  | lend
  /-- a field value or operand code the row does not allow (R37, R107, R110, R111) -/
  | value
  /-- fewer bytes than one bundle -/
  | short
  deriving DecidableEq, Repr

abbrev DecodeResult := Except DecodeError Instr

/-- Slot 0 (R112): fields of word w, whose opcode is op, with the lend x. -/
def fieldsOfSlot0 (op w x : Nat) : DecodeResult :=
  match op with
  | 0x00 => if bf w 0 24 = 0 then
      if x = 0 then .ok (.nop) else .error .lend
    else .error .field
  | 0x01 => if bf w 21 3 = 0 then
      if x = 0 then .ok (.bra (.ofNat 21 (bf w 0 21))) else .error .lend
    else .error .field
  | 0x02 => 
      if x = 0 then .ok (.brp (.ofNat 3 (bf w 21 3)) (.ofNat 21 (bf w 0 21))) else .error .lend
  | 0x03 => 
      if x = 0 then .ok (.brs (.ofNat 5 (bf w 19 5)) (.ofNat 19 (bf w 0 19))) else .error .lend
  | 0x04 => if bf w 0 11 = 0 ∧ bf w 19 5 = 0 then
      if x = 0 then .ok (.brx (.ofNat 7 (bf w 12 7)) (bf w 11 1 == 1)) else .error .lend
    else .error .field
  | 0x05 => if bf w 21 3 = 0 then
      if x = 0 then .ok (.call (.ofNat 21 (bf w 0 21))) else .error .lend
    else .error .field
  | 0x06 => if bf w 0 11 = 0 ∧ bf w 19 5 = 0 then
      if x = 0 then .ok (.callx (.ofNat 7 (bf w 12 7)) (bf w 11 1 == 1)) else .error .lend
    else .error .field
  | 0x07 => if bf w 0 24 = 0 then
      if x = 0 then .ok (.ret) else .error .lend
    else .error .field
  | 0x08 => if bf w 19 5 = 0 then
      if x = 0 then .ok (.loopi (.ofNat 19 (bf w 0 19))) else .error .lend
    else .error .field
  | 0x09 => if bf w 21 3 = 0 then
      if x = 0 then .ok (.loop (.ofNat 21 (bf w 0 21))) else .error .lend
    else .error .field
  | 0x0A => if bf w 3 21 = 0 then
      if x = 0 then .ok (.jarm (.ofNat 3 (bf w 0 3))) else .error .lend
    else .error .field
  | 0x0B => if bf w 3 21 = 0 then
      if x = 0 then .ok (.jwait (.ofNat 3 (bf w 0 3))) else .error .lend
    else .error .field
  | 0x0C => if bf w 0 24 = 0 then
      if x = 0 then .ok (.yld) else .error .lend
    else .error .field
  | 0x0D => if bf w 0 24 = 0 then
      if x = 0 then .ok (.exit) else .error .lend
    else .error .field
  | 0x0E => if bf w 19 5 = 0 then
      if x = 0 then .ok (.trap (.ofNat 19 (bf w 0 19))) else .error .lend
    else .error .field
  | 0x0F => if bf w 0 24 = 0 then
      if x = 0 then .ok (.eret) else .error .lend
    else .error .field
  | 0x10 => if bf w 9 15 = 0 then
      if x = 0 then .ok (.waitc (.ofNat 2 (bf w 7 2)) (.ofNat 7 (bf w 0 7))) else .error .lend
    else .error .field
  | 0x11 => if bf w 9 10 = 0 then
      if x = 0 then .ok (.mfs (.ofNat 5 (bf w 19 5)) (.ofNat 9 (bf w 0 9))) else .error .lend
    else .error .field
  | 0x12 => if bf w 9 5 = 0 ∧ bf w 19 5 = 0 then
      if x = 0 then .ok (.mts (.ofNat 5 (bf w 14 5)) (.ofNat 9 (bf w 0 9))) else .error .lend
    else .error .field
  | 0x13 => if bf w 0 9 = 0 ∧ bf w 19 5 = 0 then
      if x = 0 then .ok (.save (.ofNat 5 (bf w 14 5)) (.ofNat 5 (bf w 9 5))) else .error .lend
    else .error .field
  | 0x14 => if bf w 0 9 = 0 ∧ bf w 19 5 = 0 then
      if x = 0 then .ok (.rest (.ofNat 5 (bf w 14 5)) (.ofNat 5 (bf w 9 5))) else .error .lend
    else .error .field
  | 0x15 => if bf w 0 24 = 0 then
      if x = 0 then .ok (.pdone) else .error .lend
    else .error .field
  | 0x16 => if bf w 0 19 = 0 then
      if x = 0 then .ok (.govq (.ofNat 5 (bf w 19 5))) else .error .lend
    else .error .field
  | 0x20 => if bf w 0 9 = 0 then
      if x = 0 then .ok (.sadd (.ofNat 5 (bf w 19 5)) (.ofNat 5 (bf w 14 5)) (.ofNat 5 (bf w 9 5))) else .error .lend
    else .error .field
  | 0x21 => if bf w 0 9 = 0 then
      if x = 0 then .ok (.ssub (.ofNat 5 (bf w 19 5)) (.ofNat 5 (bf w 14 5)) (.ofNat 5 (bf w 9 5))) else .error .lend
    else .error .field
  | 0x22 => if bf w 0 9 = 0 then
      if x = 0 then .ok (.smul (.ofNat 5 (bf w 19 5)) (.ofNat 5 (bf w 14 5)) (.ofNat 5 (bf w 9 5))) else .error .lend
    else .error .field
  | 0x23 => if bf w 1 8 = 0 then
      if x = 0 then .ok (.smulh (.ofNat 5 (bf w 19 5)) (.ofNat 5 (bf w 14 5)) (.ofNat 5 (bf w 9 5)) (bf w 0 1 == 1)) else .error .lend
    else .error .field
  | 0x24 => if bf w 0 9 = 0 then
      if x = 0 then .ok (.sand (.ofNat 5 (bf w 19 5)) (.ofNat 5 (bf w 14 5)) (.ofNat 5 (bf w 9 5))) else .error .lend
    else .error .field
  | 0x25 => if bf w 0 9 = 0 then
      if x = 0 then .ok (.sor (.ofNat 5 (bf w 19 5)) (.ofNat 5 (bf w 14 5)) (.ofNat 5 (bf w 9 5))) else .error .lend
    else .error .field
  | 0x26 => if bf w 0 9 = 0 then
      if x = 0 then .ok (.sxor (.ofNat 5 (bf w 19 5)) (.ofNat 5 (bf w 14 5)) (.ofNat 5 (bf w 9 5))) else .error .lend
    else .error .field
  | 0x27 =>
    if bf w 8 1 = 1 then
      (if bf w 6 2 = 0 ∧ bf w 9 5 = 0 then if x = 0 then .ok (.sshlImm (.ofNat 5 (bf w 19 5)) (.ofNat 5 (bf w 14 5)) (.ofNat 6 (bf w 0 6))) else .error .lend else .error .field)
    else if bf w 0 9 = 0 then if x = 0 then .ok (.sshl (.ofNat 5 (bf w 19 5)) (.ofNat 5 (bf w 14 5)) (.ofNat 5 (bf w 9 5))) else .error .lend else .error .field
  | 0x28 =>
    if bf w 8 1 = 1 then
      (if bf w 6 2 = 0 ∧ bf w 9 5 = 0 then if x = 0 then .ok (.sshrImm (.ofNat 5 (bf w 19 5)) (.ofNat 5 (bf w 14 5)) (.ofNat 6 (bf w 0 6))) else .error .lend else .error .field)
    else if bf w 0 9 = 0 then if x = 0 then .ok (.sshr (.ofNat 5 (bf w 19 5)) (.ofNat 5 (bf w 14 5)) (.ofNat 5 (bf w 9 5))) else .error .lend else .error .field
  | 0x29 =>
    if bf w 8 1 = 1 then
      (if bf w 6 2 = 0 ∧ bf w 9 5 = 0 then if x = 0 then .ok (.ssraImm (.ofNat 5 (bf w 19 5)) (.ofNat 5 (bf w 14 5)) (.ofNat 6 (bf w 0 6))) else .error .lend else .error .field)
    else if bf w 0 9 = 0 then if x = 0 then .ok (.ssra (.ofNat 5 (bf w 19 5)) (.ofNat 5 (bf w 14 5)) (.ofNat 5 (bf w 9 5))) else .error .lend else .error .field
  | 0x2A => if bf w 1 8 = 0 then
      if x = 0 then .ok (.smin (.ofNat 5 (bf w 19 5)) (.ofNat 5 (bf w 14 5)) (.ofNat 5 (bf w 9 5)) (bf w 0 1 == 1)) else .error .lend
    else .error .field
  | 0x2B => if bf w 1 8 = 0 then
      if x = 0 then .ok (.smax (.ofNat 5 (bf w 19 5)) (.ofNat 5 (bf w 14 5)) (.ofNat 5 (bf w 9 5)) (bf w 0 1 == 1)) else .error .lend
    else .error .field
  | 0x2C => if bf w 4 5 = 0 then
      if x = 0 then .ok (.scmp (.ofNat 5 (bf w 19 5)) (.ofNat 5 (bf w 14 5)) (.ofNat 5 (bf w 9 5)) (.ofNat 4 (bf w 0 4))) else .error .lend
    else .error .field
  | 0x2D => if bf w 9 5 = 0 then
      if x = 0 then .ok (.saddi (.ofNat 5 (bf w 19 5)) (.ofNat 5 (bf w 14 5)) (.ofNat 9 (bf w 0 9))) else .error .lend
    else .error .field
  | 0x2E => 
      if x = 0 then .ok (.sli (.ofNat 5 (bf w 19 5)) (.ofNat 19 (bf w 0 19))) else .error .lend
  | 0x2F => 
      if x = 0 then .ok (.slih (.ofNat 5 (bf w 19 5)) (.ofNat 19 (bf w 0 19))) else .error .lend
  | 0x30 => if bf w 5 4 = 0 then
      if x = 0 then .ok (.ssel (.ofNat 5 (bf w 19 5)) (.ofNat 5 (bf w 14 5)) (.ofNat 5 (bf w 9 5)) (.ofNat 5 (bf w 0 5))) else .error .lend
    else .error .field
  | 0x31 => if bf w 9 5 = 0 then
      if x = 0 then .ok (.sld (.ofNat 5 (bf w 19 5)) (.ofNat 5 (bf w 14 5)) (.ofNat 9 (bf w 0 9))) else .error .lend
    else .error .field
  | 0x32 => if bf w 19 5 = 0 then
      if x = 0 then .ok (.sst (.ofNat 5 (bf w 14 5)) (.ofNat 5 (bf w 9 5)) (.ofNat 9 (bf w 0 9))) else .error .lend
    else .error .field
  | 0x33 =>
    if bf w 4 1 = 1 then
      (if bf w 0 4 = 0 ∧ bf w 5 6 = 0 then if x = 0 then .ok (.vtosF (.ofNat 5 (bf w 19 5)) (.ofNat 7 (bf w 12 7)) (bf w 11 1 == 1)) else .error .lend else .error .field)
    else if bf w 0 5 = 0 then if x = 0 then .ok (.vtos (.ofNat 5 (bf w 19 5)) (.ofNat 7 (bf w 12 7)) (bf w 11 1 == 1) (.ofNat 6 (bf w 5 6))) else .error .lend else .error .field
  | 0x34 => if bf w 0 14 = 0 then
      if x = 0 then .ok (.sclz (.ofNat 5 (bf w 19 5)) (.ofNat 5 (bf w 14 5))) else .error .lend
    else .error .field
  | 0x35 => if bf w 0 14 = 0 then
      if x = 0 then .ok (.spopc (.ofNat 5 (bf w 19 5)) (.ofNat 5 (bf w 14 5))) else .error .lend
    else .error .field
  | _ => .error .opcode

/-- Slot 1 (R113): fields of word w, whose opcode is op, with the lend x. -/
def fieldsOfSlot1 (op w x : Nat) : DecodeResult :=
  match op with
  | 0x00 => if bf w 0 24 = 0 then (if x = 0 then .ok .nop else .error .lend) else .error .field
  | 0x01 => 
      if x = 0 then .ok (.iadd (.ofNat 7 (bf w 17 7)) (.ofNat 7 (bf w 10 7)) (.ofNat 7 (bf w 3 7)) (bf w 2 1 == 1) (bf w 1 1 == 1) (bf w 0 1 == 1)) else .error .lend
  | 0x02 => 
      if x = 0 then .ok (.isub (.ofNat 7 (bf w 17 7)) (.ofNat 7 (bf w 10 7)) (.ofNat 7 (bf w 3 7)) (bf w 2 1 == 1) (bf w 1 1 == 1) (bf w 0 1 == 1)) else .error .lend
  | 0x03 => 
      .ok (.iaddc (.ofNat 7 (bf w 17 7)) (.ofNat 7 (bf w 10 7)) (.ofNat 7 (bf w 3 7)) (bf w 2 1 == 1) (bf w 1 1 == 1) (bf w 0 1 == 1) (.ofNat 6 (bf x 1 6)) (bf x 0 1 == 1))
  | 0x04 => if bf w 0 1 = 0 then
      if x = 0 then .ok (.imul (.ofNat 7 (bf w 17 7)) (.ofNat 7 (bf w 10 7)) (.ofNat 7 (bf w 3 7)) (bf w 2 1 == 1) (bf w 1 1 == 1)) else .error .lend
    else .error .field
  | 0x05 => if bf w 0 1 = 0 then
      if x = 0 then .ok (.imulh (.ofNat 7 (bf w 17 7)) (.ofNat 7 (bf w 10 7)) (.ofNat 7 (bf w 3 7)) (bf w 2 1 == 1) (bf w 1 1 == 1)) else .error .lend
    else .error .field
  | 0x06 => if bf w 0 1 = 0 then
      if x = 0 then .ok (.imulhu (.ofNat 7 (bf w 17 7)) (.ofNat 7 (bf w 10 7)) (.ofNat 7 (bf w 3 7)) (bf w 2 1 == 1) (bf w 1 1 == 1)) else .error .lend
    else .error .field
  | 0x07 => if bf w 0 1 = 0 then
      .ok (.imad (.ofNat 7 (bf w 17 7)) (.ofNat 7 (bf w 10 7)) (.ofNat 7 (bf w 3 7)) (bf w 2 1 == 1) (bf w 1 1 == 1) (.ofNat 6 (bf x 1 6)) (bf x 0 1 == 1))
    else .error .field
  | 0x08 => if bf w 0 1 = 0 then
      if x = 0 then .ok (.imin (.ofNat 7 (bf w 17 7)) (.ofNat 7 (bf w 10 7)) (.ofNat 7 (bf w 3 7)) (bf w 2 1 == 1) (bf w 1 1 == 1)) else .error .lend
    else .error .field
  | 0x09 => if bf w 0 1 = 0 then
      if x = 0 then .ok (.imax (.ofNat 7 (bf w 17 7)) (.ofNat 7 (bf w 10 7)) (.ofNat 7 (bf w 3 7)) (bf w 2 1 == 1) (bf w 1 1 == 1)) else .error .lend
    else .error .field
  | 0x0A => if bf w 0 1 = 0 then
      if x = 0 then .ok (.iminu (.ofNat 7 (bf w 17 7)) (.ofNat 7 (bf w 10 7)) (.ofNat 7 (bf w 3 7)) (bf w 2 1 == 1) (bf w 1 1 == 1)) else .error .lend
    else .error .field
  | 0x0B => if bf w 0 1 = 0 then
      if x = 0 then .ok (.imaxu (.ofNat 7 (bf w 17 7)) (.ofNat 7 (bf w 10 7)) (.ofNat 7 (bf w 3 7)) (bf w 2 1 == 1) (bf w 1 1 == 1)) else .error .lend
    else .error .field
  | 0x0C => if bf w 0 1 = 0 ∧ bf w 2 8 = 0 then
      if x = 0 then .ok (.iabs (.ofNat 7 (bf w 17 7)) (.ofNat 7 (bf w 10 7)) (bf w 1 1 == 1)) else .error .lend
    else .error .field
  | 0x0D => if bf w 0 1 = 0 then
      if x = 0 then .ok (.and (.ofNat 7 (bf w 17 7)) (.ofNat 7 (bf w 10 7)) (.ofNat 7 (bf w 3 7)) (bf w 2 1 == 1) (bf w 1 1 == 1)) else .error .lend
    else .error .field
  | 0x0E => if bf w 0 1 = 0 then
      if x = 0 then .ok (.or (.ofNat 7 (bf w 17 7)) (.ofNat 7 (bf w 10 7)) (.ofNat 7 (bf w 3 7)) (bf w 2 1 == 1) (bf w 1 1 == 1)) else .error .lend
    else .error .field
  | 0x0F => if bf w 0 1 = 0 then
      if x = 0 then .ok (.xor (.ofNat 7 (bf w 17 7)) (.ofNat 7 (bf w 10 7)) (.ofNat 7 (bf w 3 7)) (bf w 2 1 == 1) (bf w 1 1 == 1)) else .error .lend
    else .error .field
  | 0x10 => if bf w 0 1 = 0 then
      if x = 0 then .ok (.andn (.ofNat 7 (bf w 17 7)) (.ofNat 7 (bf w 10 7)) (.ofNat 7 (bf w 3 7)) (bf w 2 1 == 1) (bf w 1 1 == 1)) else .error .lend
    else .error .field
  | 0x11 =>
    if bf w 0 1 = 1 then
      (if bf w 1 1 = 0 ∧ bf w 8 2 = 0 then if x = 0 then .ok (.shlImm (.ofNat 7 (bf w 17 7)) (.ofNat 7 (bf w 10 7)) (.ofNat 5 (bf w 3 5)) (bf w 2 1 == 1)) else .error .lend else .error .field)
    else if x = 0 then .ok (.shl (.ofNat 7 (bf w 17 7)) (.ofNat 7 (bf w 10 7)) (.ofNat 7 (bf w 3 7)) (bf w 2 1 == 1) (bf w 1 1 == 1)) else .error .lend
  | 0x12 =>
    if bf w 0 1 = 1 then
      (if bf w 1 1 = 0 ∧ bf w 8 2 = 0 then if x = 0 then .ok (.shrImm (.ofNat 7 (bf w 17 7)) (.ofNat 7 (bf w 10 7)) (.ofNat 5 (bf w 3 5)) (bf w 2 1 == 1)) else .error .lend else .error .field)
    else if x = 0 then .ok (.shr (.ofNat 7 (bf w 17 7)) (.ofNat 7 (bf w 10 7)) (.ofNat 7 (bf w 3 7)) (bf w 2 1 == 1) (bf w 1 1 == 1)) else .error .lend
  | 0x13 =>
    if bf w 0 1 = 1 then
      (if bf w 1 1 = 0 ∧ bf w 8 2 = 0 then if x = 0 then .ok (.sraImm (.ofNat 7 (bf w 17 7)) (.ofNat 7 (bf w 10 7)) (.ofNat 5 (bf w 3 5)) (bf w 2 1 == 1)) else .error .lend else .error .field)
    else if x = 0 then .ok (.sra (.ofNat 7 (bf w 17 7)) (.ofNat 7 (bf w 10 7)) (.ofNat 7 (bf w 3 7)) (bf w 2 1 == 1) (bf w 1 1 == 1)) else .error .lend
  | 0x14 =>
    if bf w 0 1 = 1 then
      (if bf w 1 1 = 0 ∧ bf w 8 2 = 0 then if x = 0 then .ok (.rolImm (.ofNat 7 (bf w 17 7)) (.ofNat 7 (bf w 10 7)) (.ofNat 5 (bf w 3 5)) (bf w 2 1 == 1)) else .error .lend else .error .field)
    else if x = 0 then .ok (.rol (.ofNat 7 (bf w 17 7)) (.ofNat 7 (bf w 10 7)) (.ofNat 7 (bf w 3 7)) (bf w 2 1 == 1) (bf w 1 1 == 1)) else .error .lend
  | 0x15 => 
      if x = 0 then .ok (.bfx (.ofNat 7 (bf w 17 7)) (.ofNat 7 (bf w 10 7)) (.ofNat 7 (bf w 3 7)) (bf w 2 1 == 1) (bf w 1 1 == 1) (bf w 0 1 == 1)) else .error .lend
  | 0x16 => if bf w 0 1 = 0 then
      .ok (.bfi (.ofNat 7 (bf w 17 7)) (.ofNat 7 (bf w 10 7)) (.ofNat 7 (bf w 3 7)) (bf w 2 1 == 1) (bf w 1 1 == 1) (.ofNat 6 (bf x 1 6)) (bf x 0 1 == 1))
    else .error .field
  | 0x17 => if bf w 0 1 = 0 ∧ bf w 2 8 = 0 then
      if x = 0 then .ok (.popc (.ofNat 7 (bf w 17 7)) (.ofNat 7 (bf w 10 7)) (bf w 1 1 == 1)) else .error .lend
    else .error .field
  | 0x18 => if bf w 0 1 = 0 ∧ bf w 2 8 = 0 then
      if x = 0 then .ok (.clz (.ofNat 7 (bf w 17 7)) (.ofNat 7 (bf w 10 7)) (bf w 1 1 == 1)) else .error .lend
    else .error .field
  | 0x19 => if bf w 0 1 = 0 ∧ bf w 2 8 = 0 then
      if x = 0 then .ok (.brev (.ofNat 7 (bf w 17 7)) (.ofNat 7 (bf w 10 7)) (bf w 1 1 == 1)) else .error .lend
    else .error .field
  | 0x1A => 
      if x = 0 then .ok (.icmp (.ofNat 4 (bf w 20 4)) (.ofNat 3 (bf w 17 3)) (.ofNat 7 (bf w 10 7)) (.ofNat 7 (bf w 3 7)) (bf w 2 1 == 1) (bf w 1 1 == 1) (bf w 0 1 == 1)) else .error .lend
  | 0x1B => if bf w 0 1 = 0 then
      if bf x 3 4 = 0 then .ok (.sel (.ofNat 7 (bf w 17 7)) (.ofNat 7 (bf w 10 7)) (.ofNat 7 (bf w 3 7)) (bf w 2 1 == 1) (bf w 1 1 == 1) (.ofNat 3 (bf x 0 3))) else .error .lend
    else .error .field
  | 0x1C => if bf w 0 1 = 0 ∧ bf w 2 8 = 0 then
      if x = 0 then .ok (.mov (.ofNat 7 (bf w 17 7)) (.ofNat 7 (bf w 10 7)) (bf w 1 1 == 1)) else .error .lend
    else .error .field
  | 0x1D => 
      if x = 0 then .ok (.li (.ofNat 7 (bf w 17 7)) (.ofNat 17 (bf w 0 17))) else .error .lend
  | 0x1E => if bf w 15 2 = 0 then
      if x = 0 then .ok (.lih (.ofNat 7 (bf w 17 7)) (.ofNat 15 (bf w 0 15))) else .error .lend
    else .error .field
  | 0x1F => 
      .ok (.iaddi (.ofNat 7 (bf w 17 7)) (.ofNat 7 (bf w 10 7)) (bf w 0 1 == 1) (.ofNat 16 (x % 128 * 512 + bf w 1 9)))
  | 0x20 => if bf w 0 1 = 0 ∧ bf w 6 4 = 0 then
      if x = 0 then .ok (.tag (.ofNat 7 (bf w 17 7)) (.ofNat 7 (bf w 10 7)) (.ofNat 4 (bf w 2 4)) (bf w 1 1 == 1)) else .error .lend
    else .error .field
  | 0x21 => if bf w 0 1 = 0 ∧ bf w 2 8 = 0 ∧ bf w 20 4 = 0 then
      if x = 0 then .ok (.pset (.ofNat 3 (bf w 17 3)) (.ofNat 7 (bf w 10 7)) (bf w 1 1 == 1)) else .error .lend
    else .error .field
  | 0x22 => if bf w 0 17 = 0 then
      if x = 0 then .ok (.pget (.ofNat 7 (bf w 17 7))) else .error .lend
    else .error .field
  | 0x23 => if bf w 0 10 = 0 ∧ bf w 17 7 = 0 then
      if x = 0 then .ok (.vfree (.ofNat 7 (bf w 10 7))) else .error .lend
    else .error .field
  | 0x40 => if bf w 0 1 = 0 then
      if x = 0 then .ok (.fadd (.ofNat 7 (bf w 17 7)) (.ofNat 7 (bf w 10 7)) (.ofNat 7 (bf w 3 7)) (bf w 2 1 == 1) (bf w 1 1 == 1)) else .error .lend
    else .error .field
  | 0x41 => if bf w 0 1 = 0 then
      if x = 0 then .ok (.fsub (.ofNat 7 (bf w 17 7)) (.ofNat 7 (bf w 10 7)) (.ofNat 7 (bf w 3 7)) (bf w 2 1 == 1) (bf w 1 1 == 1)) else .error .lend
    else .error .field
  | 0x42 => if bf w 0 1 = 0 then
      if x = 0 then .ok (.fmul (.ofNat 7 (bf w 17 7)) (.ofNat 7 (bf w 10 7)) (.ofNat 7 (bf w 3 7)) (bf w 2 1 == 1) (bf w 1 1 == 1)) else .error .lend
    else .error .field
  | 0x43 => if bf w 0 1 = 0 then
      .ok (.ffma (.ofNat 7 (bf w 17 7)) (.ofNat 7 (bf w 10 7)) (.ofNat 7 (bf w 3 7)) (bf w 2 1 == 1) (bf w 1 1 == 1) (.ofNat 6 (bf x 1 6)) (bf x 0 1 == 1))
    else .error .field
  | 0x44 => if bf w 0 1 = 0 then
      if x = 0 then .ok (.fmin (.ofNat 7 (bf w 17 7)) (.ofNat 7 (bf w 10 7)) (.ofNat 7 (bf w 3 7)) (bf w 2 1 == 1) (bf w 1 1 == 1)) else .error .lend
    else .error .field
  | 0x45 => if bf w 0 1 = 0 then
      if x = 0 then .ok (.fmax (.ofNat 7 (bf w 17 7)) (.ofNat 7 (bf w 10 7)) (.ofNat 7 (bf w 3 7)) (bf w 2 1 == 1) (bf w 1 1 == 1)) else .error .lend
    else .error .field
  | 0x46 => if bf w 0 1 = 0 then
      if x = 0 then .ok (.fminn (.ofNat 7 (bf w 17 7)) (.ofNat 7 (bf w 10 7)) (.ofNat 7 (bf w 3 7)) (bf w 2 1 == 1) (bf w 1 1 == 1)) else .error .lend
    else .error .field
  | 0x47 => if bf w 0 1 = 0 then
      if x = 0 then .ok (.fmaxn (.ofNat 7 (bf w 17 7)) (.ofNat 7 (bf w 10 7)) (.ofNat 7 (bf w 3 7)) (bf w 2 1 == 1) (bf w 1 1 == 1)) else .error .lend
    else .error .field
  | 0x48 => if bf w 0 1 = 0 ∧ bf w 2 8 = 0 then
      if x = 0 then .ok (.fabs (.ofNat 7 (bf w 17 7)) (.ofNat 7 (bf w 10 7)) (bf w 1 1 == 1)) else .error .lend
    else .error .field
  | 0x49 => if bf w 0 1 = 0 ∧ bf w 2 8 = 0 then
      if x = 0 then .ok (.fneg (.ofNat 7 (bf w 17 7)) (.ofNat 7 (bf w 10 7)) (bf w 1 1 == 1)) else .error .lend
    else .error .field
  | 0x4A => 
      if x = 0 then .ok (.fcmp (.ofNat 4 (bf w 20 4)) (.ofNat 3 (bf w 17 3)) (.ofNat 7 (bf w 10 7)) (.ofNat 7 (bf w 3 7)) (bf w 2 1 == 1) (bf w 1 1 == 1) (bf w 0 1 == 1)) else .error .lend
  | 0x4B => if bf w 0 1 = 0 then
      .ok (.fclmp (.ofNat 7 (bf w 17 7)) (.ofNat 7 (bf w 10 7)) (.ofNat 7 (bf w 3 7)) (bf w 2 1 == 1) (bf w 1 1 == 1) (.ofNat 6 (bf x 1 6)) (bf x 0 1 == 1))
    else .error .field
  | 0x4C => if bf w 0 1 = 0 ∧ bf w 2 4 = 0 ∧ bf w 9 1 = 0 then
      if x = 0 then .ok (.frnd (.ofNat 7 (bf w 17 7)) (.ofNat 7 (bf w 10 7)) (.ofNat 3 (bf w 6 3)) (bf w 1 1 == 1)) else .error .lend
    else .error .field
  | 0x4D => if bf w 0 1 = 0 ∧ bf w 2 8 = 0 then
      if x = 0 then .ok (.ffrac (.ofNat 7 (bf w 17 7)) (.ofNat 7 (bf w 10 7)) (bf w 1 1 == 1)) else .error .lend
    else .error .field
  | 0x4E => if bf w 0 1 = 0 ∧ bf w 2 8 = 0 then
      if x = 0 then .ok (.frcp (.ofNat 7 (bf w 17 7)) (.ofNat 7 (bf w 10 7)) (bf w 1 1 == 1)) else .error .lend
    else .error .field
  | 0x4F => if bf w 0 1 = 0 ∧ bf w 2 8 = 0 then
      if x = 0 then .ok (.frsq (.ofNat 7 (bf w 17 7)) (.ofNat 7 (bf w 10 7)) (bf w 1 1 == 1)) else .error .lend
    else .error .field
  | 0x50 => if bf w 0 1 = 0 ∧ bf w 2 8 = 0 then
      if x = 0 then .ok (.fsqrt (.ofNat 7 (bf w 17 7)) (.ofNat 7 (bf w 10 7)) (bf w 1 1 == 1)) else .error .lend
    else .error .field
  | 0x51 => if bf w 0 1 = 0 ∧ bf w 2 8 = 0 then
      if x = 0 then .ok (.fex2 (.ofNat 7 (bf w 17 7)) (.ofNat 7 (bf w 10 7)) (bf w 1 1 == 1)) else .error .lend
    else .error .field
  | 0x52 => if bf w 0 1 = 0 ∧ bf w 2 8 = 0 then
      if x = 0 then .ok (.flg2 (.ofNat 7 (bf w 17 7)) (.ofNat 7 (bf w 10 7)) (bf w 1 1 == 1)) else .error .lend
    else .error .field
  | 0x53 => if bf w 0 1 = 0 ∧ bf w 2 8 = 0 then
      if x = 0 then .ok (.fsin (.ofNat 7 (bf w 17 7)) (.ofNat 7 (bf w 10 7)) (bf w 1 1 == 1)) else .error .lend
    else .error .field
  | 0x54 => if bf w 0 1 = 0 ∧ bf w 2 8 = 0 then
      if x = 0 then .ok (.fcos (.ofNat 7 (bf w 17 7)) (.ofNat 7 (bf w 10 7)) (bf w 1 1 == 1)) else .error .lend
    else .error .field
  | 0x55 => if bf w 0 1 = 0 then
      if x = 0 then .ok (.fcvt (.ofNat 7 (bf w 17 7)) (.ofNat 7 (bf w 10 7)) (bf w 9 1 == 1) (.ofNat 3 (bf w 6 3)) (.ofNat 4 (bf w 2 4)) (bf w 1 1 == 1)) else .error .lend
    else .error .field
  | 0x56 => if bf w 0 1 = 0 ∧ bf w 9 1 = 0 then
      if x = 0 then .ok (.icvtf (.ofNat 7 (bf w 17 7)) (.ofNat 7 (bf w 10 7)) (.ofNat 3 (bf w 6 3)) (.ofNat 4 (bf w 2 4)) (bf w 1 1 == 1)) else .error .lend
    else .error .field
  | 0x57 => if bf w 0 1 = 0 ∧ bf w 9 1 = 0 then
      if x = 0 then .ok (.fcvti (.ofNat 7 (bf w 17 7)) (.ofNat 7 (bf w 10 7)) (.ofNat 3 (bf w 6 3)) (.ofNat 4 (bf w 2 4)) (bf w 1 1 == 1)) else .error .lend
    else .error .field
  | 0x58 => if bf w 0 1 = 0 then
      if x = 0 then .ok (.hadd2 (.ofNat 7 (bf w 17 7)) (.ofNat 7 (bf w 10 7)) (.ofNat 7 (bf w 3 7)) (bf w 2 1 == 1) (bf w 1 1 == 1)) else .error .lend
    else .error .field
  | 0x59 => if bf w 0 1 = 0 then
      if x = 0 then .ok (.hmul2 (.ofNat 7 (bf w 17 7)) (.ofNat 7 (bf w 10 7)) (.ofNat 7 (bf w 3 7)) (bf w 2 1 == 1) (bf w 1 1 == 1)) else .error .lend
    else .error .field
  | 0x5A => if bf w 0 1 = 0 then
      .ok (.hfma2 (.ofNat 7 (bf w 17 7)) (.ofNat 7 (bf w 10 7)) (.ofNat 7 (bf w 3 7)) (bf w 2 1 == 1) (bf w 1 1 == 1) (.ofNat 6 (bf x 1 6)) (bf x 0 1 == 1))
    else .error .field
  | 0x5B => if bf w 0 1 = 0 then
      .ok (.fdot4 (.ofNat 7 (bf w 17 7)) (.ofNat 7 (bf w 10 7)) (.ofNat 7 (bf w 3 7)) (bf w 2 1 == 1) (bf w 1 1 == 1) (.ofNat 6 (bf x 1 6)) (bf x 0 1 == 1))
    else .error .field
  | 0x5C => if bf w 0 1 = 0 then
      .ok (.fdot8 (.ofNat 7 (bf w 17 7)) (.ofNat 7 (bf w 10 7)) (.ofNat 7 (bf w 3 7)) (bf w 2 1 == 1) (bf w 1 1 == 1) (.ofNat 6 (bf x 1 6)) (bf x 0 1 == 1))
    else .error .field
  | 0x5D => 
      if x = 0 then .ok (.pack (.ofNat 7 (bf w 17 7)) (.ofNat 7 (bf w 10 7)) (.ofNat 7 (bf w 3 7)) (bf w 2 1 == 1) (bf w 1 1 == 1) (bf w 0 1 == 1)) else .error .lend
  | 0x5E => if bf w 0 1 = 0 ∧ bf w 5 5 = 0 then
      if x = 0 then .ok (.unpk (.ofNat 7 (bf w 17 7)) (.ofNat 7 (bf w 10 7)) (.ofNat 3 (bf w 2 3)) (bf w 1 1 == 1)) else .error .lend
    else .error .field
  | 0x80 => 
      if x = 0 then .ok (.xshf (.ofNat 7 (bf w 17 7)) (.ofNat 7 (bf w 10 7)) (.ofNat 7 (bf w 3 7)) (bf w 2 1 == 1) (bf w 1 1 == 1) (bf w 0 1 == 1)) else .error .lend
  | 0x81 => 
      if x = 0 then .ok (.xrot (.ofNat 7 (bf w 17 7)) (.ofNat 7 (bf w 10 7)) (.ofNat 7 (bf w 3 7)) (bf w 2 1 == 1) (bf w 1 1 == 1) (bf w 0 1 == 1)) else .error .lend
  | 0x82 => 
      if x = 0 then .ok (.xbc (.ofNat 7 (bf w 17 7)) (.ofNat 7 (bf w 10 7)) (.ofNat 7 (bf w 3 7)) (bf w 2 1 == 1) (bf w 1 1 == 1) (bf w 0 1 == 1)) else .error .lend
  | 0x83 => 
      if x = 0 then .ok (.xstep (.ofNat 7 (bf w 17 7)) (.ofNat 7 (bf w 10 7)) (.ofNat 7 (bf w 3 7)) (bf w 2 1 == 1) (bf w 1 1 == 1) (bf w 0 1 == 1)) else .error .lend
  | 0x84 => if bf w 1 1 = 0 ∧ bf w 7 3 = 0 then
      if x = 0 then .ok (.xred (.ofNat 7 (bf w 17 7)) (.ofNat 7 (bf w 10 7)) (.ofNat 4 (bf w 3 4)) (bf w 2 1 == 1) (bf w 0 1 == 1)) else .error .lend
    else .error .field
  | 0x85 => if bf w 1 1 = 0 ∧ bf w 8 2 = 0 then
      if x = 0 then .ok (.xscn (.ofNat 7 (bf w 17 7)) (.ofNat 7 (bf w 10 7)) (bf w 7 1 == 1) (.ofNat 4 (bf w 3 4)) (bf w 2 1 == 1) (bf w 0 1 == 1)) else .error .lend
    else .error .field
  | 0x86 => if bf w 1 1 = 0 ∧ bf w 4 6 = 0 then
      if x = 0 then .ok (.xbal (.ofNat 7 (bf w 17 7)) (.ofNat 7 (bf w 10 7)) (bf w 3 1 == 1) (bf w 2 1 == 1) (bf w 0 1 == 1)) else .error .lend
    else .error .field
  | 0x87 => if bf w 1 1 = 0 ∧ bf w 3 7 = 0 then
      if x = 0 then .ok (.xcnt (.ofNat 7 (bf w 17 7)) (.ofNat 7 (bf w 10 7)) (bf w 2 1 == 1) (bf w 0 1 == 1)) else .error .lend
    else .error .field
  | 0x88 => if bf w 1 1 = 0 ∧ bf w 3 7 = 0 then
      if x = 0 then .ok (.xfst (.ofNat 7 (bf w 17 7)) (.ofNat 7 (bf w 10 7)) (bf w 2 1 == 1) (bf w 0 1 == 1)) else .error .lend
    else .error .field
  | 0xA0 => if bf w 0 1 = 0 then
      .ok (.rsvup (.ofNat 7 (bf w 17 7)) (.ofNat 7 (bf w 10 7)) (.ofNat 7 (bf w 3 7)) (bf w 2 1 == 1) (bf w 1 1 == 1) (.ofNat 6 (bf x 1 6)) (bf x 0 1 == 1))
    else .error .field
  | 0xA1 => if bf w 0 1 = 0 then
      if x = 0 then .ok (.rsvmrg (.ofNat 7 (bf w 17 7)) (.ofNat 7 (bf w 10 7)) (.ofNat 7 (bf w 3 7)) (bf w 2 1 == 1) (bf w 1 1 == 1)) else .error .lend
    else .error .field
  | 0xA2 => if bf w 0 1 = 0 then
      if x = 0 then .ok (.rsvfin (.ofNat 7 (bf w 17 7)) (.ofNat 7 (bf w 10 7)) (.ofNat 7 (bf w 3 7)) (bf w 2 1 == 1) (bf w 1 1 == 1)) else .error .lend
    else .error .field
  | _ => .error .opcode

/-- Slot 2 (R114): fields of word w, whose opcode is op, with the lend x. -/
def fieldsOfSlot2 (op w x : Nat) : DecodeResult :=
  match op with
  | 0x00 => if bf w 0 24 = 0 then (if x = 0 then .ok .nop else .error .lend) else .error .field
  | 0x01 => if bf w 0 1 = 0 then
      if x = 0 then .ok (.aadd (.ofNat 7 (bf w 17 7)) (.ofNat 7 (bf w 10 7)) (.ofNat 7 (bf w 3 7)) (bf w 2 1 == 1) (bf w 1 1 == 1)) else .error .lend
    else .error .field
  | 0x02 =>
    if bf w 0 1 = 1 then
      (if bf w 1 1 = 0 ∧ bf w 8 2 = 0 then if x = 0 then .ok (.ashlImm (.ofNat 7 (bf w 17 7)) (.ofNat 7 (bf w 10 7)) (.ofNat 5 (bf w 3 5)) (bf w 2 1 == 1)) else .error .lend else .error .field)
    else if x = 0 then .ok (.ashl (.ofNat 7 (bf w 17 7)) (.ofNat 7 (bf w 10 7)) (.ofNat 7 (bf w 3 7)) (bf w 2 1 == 1) (bf w 1 1 == 1)) else .error .lend
  | 0x03 => if bf w 0 1 = 0 then
      if x = 0 then .ok (.aand (.ofNat 7 (bf w 17 7)) (.ofNat 7 (bf w 10 7)) (.ofNat 7 (bf w 3 7)) (bf w 2 1 == 1) (bf w 1 1 == 1)) else .error .lend
    else .error .field
  | 0x04 => if bf w 0 1 = 0 ∧ bf w 2 8 = 0 then
      if x = 0 then .ok (.amov (.ofNat 7 (bf w 17 7)) (.ofNat 7 (bf w 10 7)) (bf w 1 1 == 1)) else .error .lend
    else .error .field
  | 0x05 => 
      if x = 0 then .ok (.ali (.ofNat 7 (bf w 17 7)) (.ofNat 17 (bf w 0 17))) else .error .lend
  | 0x06 => 
      if x = 0 then .ok (.aform (.ofNat 7 (bf w 17 7)) (.ofNat 7 (bf w 10 7)) (.ofNat 7 (bf w 3 7)) (bf w 2 1 == 1) (bf w 1 1 == 1) (bf w 0 1 == 1)) else .error .lend
  | 0x10 => if bf w 2 1 = 0 then
      .ok (.ldB (.ofNat 7 (bf w 17 7)) (.ofNat 5 (bf w 12 5)) (.ofNat 7 (bf w 5 7)) (.ofNat 2 (bf w 3 2)) (bf w 1 1 == 1) (bf w 0 1 == 1) (.ofNat 7 (bf x 0 7)))
    else .error .field
  | 0x11 => if bf w 2 1 = 0 then
      .ok (.ldBs (.ofNat 7 (bf w 17 7)) (.ofNat 5 (bf w 12 5)) (.ofNat 7 (bf w 5 7)) (.ofNat 2 (bf w 3 2)) (bf w 1 1 == 1) (bf w 0 1 == 1) (.ofNat 7 (bf x 0 7)))
    else .error .field
  | 0x12 => if bf w 2 1 = 0 then
      .ok (.ldH (.ofNat 7 (bf w 17 7)) (.ofNat 5 (bf w 12 5)) (.ofNat 7 (bf w 5 7)) (.ofNat 2 (bf w 3 2)) (bf w 1 1 == 1) (bf w 0 1 == 1) (.ofNat 7 (bf x 0 7)))
    else .error .field
  | 0x13 => if bf w 2 1 = 0 then
      .ok (.ldHs (.ofNat 7 (bf w 17 7)) (.ofNat 5 (bf w 12 5)) (.ofNat 7 (bf w 5 7)) (.ofNat 2 (bf w 3 2)) (bf w 1 1 == 1) (bf w 0 1 == 1) (.ofNat 7 (bf x 0 7)))
    else .error .field
  | 0x14 => if bf w 2 1 = 0 then
      .ok (.ldW (.ofNat 7 (bf w 17 7)) (.ofNat 5 (bf w 12 5)) (.ofNat 7 (bf w 5 7)) (.ofNat 2 (bf w 3 2)) (bf w 1 1 == 1) (bf w 0 1 == 1) (.ofNat 7 (bf x 0 7)))
    else .error .field
  | 0x15 => if bf w 2 1 = 0 then
      .ok (.ldd (.ofNat 7 (bf w 17 7)) (.ofNat 5 (bf w 12 5)) (.ofNat 7 (bf w 5 7)) (.ofNat 2 (bf w 3 2)) (bf w 1 1 == 1) (bf w 0 1 == 1) (.ofNat 7 (bf x 0 7)))
    else .error .field
  | 0x16 => if bf w 2 1 = 0 then
      .ok (.ldq (.ofNat 7 (bf w 17 7)) (.ofNat 5 (bf w 12 5)) (.ofNat 7 (bf w 5 7)) (.ofNat 2 (bf w 3 2)) (bf w 1 1 == 1) (bf w 0 1 == 1) (.ofNat 7 (bf x 0 7)))
    else .error .field
  | 0x17 => if bf w 1 2 = 0 ∧ bf w 5 7 = 0 then
      .ok (.ldc (.ofNat 7 (bf w 17 7)) (.ofNat 5 (bf w 12 5)) (.ofNat 2 (bf w 3 2)) (bf w 0 1 == 1) (.ofNat 7 (bf x 0 7)))
    else .error .field
  | 0x18 => if bf w 1 2 = 0 ∧ bf w 5 7 = 0 then
      .ok (.ldu (.ofNat 7 (bf w 17 7)) (.ofNat 5 (bf w 12 5)) (.ofNat 2 (bf w 3 2)) (bf w 0 1 == 1) (.ofNat 7 (bf x 0 7)))
    else .error .field
  | 0x19 => if bf w 0 1 = 0 ∧ bf w 2 1 = 0 then
      .ok (.ldsB (.ofNat 7 (bf w 17 7)) (.ofNat 5 (bf w 12 5)) (.ofNat 7 (bf w 5 7)) (.ofNat 2 (bf w 3 2)) (bf w 1 1 == 1) (.ofNat 7 (bf x 0 7)))
    else .error .field
  | 0x1A => if bf w 0 1 = 0 ∧ bf w 2 1 = 0 then
      .ok (.ldsBs (.ofNat 7 (bf w 17 7)) (.ofNat 5 (bf w 12 5)) (.ofNat 7 (bf w 5 7)) (.ofNat 2 (bf w 3 2)) (bf w 1 1 == 1) (.ofNat 7 (bf x 0 7)))
    else .error .field
  | 0x1B => if bf w 0 1 = 0 ∧ bf w 2 1 = 0 then
      .ok (.ldsH (.ofNat 7 (bf w 17 7)) (.ofNat 5 (bf w 12 5)) (.ofNat 7 (bf w 5 7)) (.ofNat 2 (bf w 3 2)) (bf w 1 1 == 1) (.ofNat 7 (bf x 0 7)))
    else .error .field
  | 0x1C => if bf w 0 1 = 0 ∧ bf w 2 1 = 0 then
      .ok (.ldsHs (.ofNat 7 (bf w 17 7)) (.ofNat 5 (bf w 12 5)) (.ofNat 7 (bf w 5 7)) (.ofNat 2 (bf w 3 2)) (bf w 1 1 == 1) (.ofNat 7 (bf x 0 7)))
    else .error .field
  | 0x1D => if bf w 0 1 = 0 ∧ bf w 2 1 = 0 then
      .ok (.ldsW (.ofNat 7 (bf w 17 7)) (.ofNat 5 (bf w 12 5)) (.ofNat 7 (bf w 5 7)) (.ofNat 2 (bf w 3 2)) (bf w 1 1 == 1) (.ofNat 7 (bf x 0 7)))
    else .error .field
  | 0x1E => if bf w 0 3 = 0 ∧ bf w 5 7 = 0 then
      .ok (.ldsc (.ofNat 7 (bf w 17 7)) (.ofNat 5 (bf w 12 5)) (.ofNat 2 (bf w 3 2)) (.ofNat 7 (bf x 0 7)))
    else .error .field
  | 0x20 => 
      .ok (.stB (.ofNat 7 (bf w 17 7)) (.ofNat 5 (bf w 12 5)) (.ofNat 7 (bf w 5 7)) (.ofNat 2 (bf w 3 2)) (bf w 2 1 == 1) (bf w 1 1 == 1) (bf w 0 1 == 1) (.ofNat 7 (bf x 0 7)))
  | 0x21 => 
      .ok (.stH (.ofNat 7 (bf w 17 7)) (.ofNat 5 (bf w 12 5)) (.ofNat 7 (bf w 5 7)) (.ofNat 2 (bf w 3 2)) (bf w 2 1 == 1) (bf w 1 1 == 1) (bf w 0 1 == 1) (.ofNat 7 (bf x 0 7)))
  | 0x22 => 
      .ok (.stW (.ofNat 7 (bf w 17 7)) (.ofNat 5 (bf w 12 5)) (.ofNat 7 (bf w 5 7)) (.ofNat 2 (bf w 3 2)) (bf w 2 1 == 1) (bf w 1 1 == 1) (bf w 0 1 == 1) (.ofNat 7 (bf x 0 7)))
  | 0x23 => 
      .ok (.std (.ofNat 7 (bf w 17 7)) (.ofNat 5 (bf w 12 5)) (.ofNat 7 (bf w 5 7)) (.ofNat 2 (bf w 3 2)) (bf w 2 1 == 1) (bf w 1 1 == 1) (bf w 0 1 == 1) (.ofNat 7 (bf x 0 7)))
  | 0x24 => 
      .ok (.stq (.ofNat 7 (bf w 17 7)) (.ofNat 5 (bf w 12 5)) (.ofNat 7 (bf w 5 7)) (.ofNat 2 (bf w 3 2)) (bf w 2 1 == 1) (bf w 1 1 == 1) (bf w 0 1 == 1) (.ofNat 7 (bf x 0 7)))
  | 0x25 => if bf w 1 1 = 0 ∧ bf w 5 7 = 0 then
      .ok (.stc (.ofNat 7 (bf w 17 7)) (.ofNat 5 (bf w 12 5)) (.ofNat 2 (bf w 3 2)) (bf w 2 1 == 1) (bf w 0 1 == 1) (.ofNat 7 (bf x 0 7)))
    else .error .field
  | 0x26 => if bf w 0 1 = 0 then
      .ok (.stsB (.ofNat 7 (bf w 17 7)) (.ofNat 5 (bf w 12 5)) (.ofNat 7 (bf w 5 7)) (.ofNat 2 (bf w 3 2)) (bf w 2 1 == 1) (bf w 1 1 == 1) (.ofNat 7 (bf x 0 7)))
    else .error .field
  | 0x27 => if bf w 0 1 = 0 then
      .ok (.stsH (.ofNat 7 (bf w 17 7)) (.ofNat 5 (bf w 12 5)) (.ofNat 7 (bf w 5 7)) (.ofNat 2 (bf w 3 2)) (bf w 2 1 == 1) (bf w 1 1 == 1) (.ofNat 7 (bf x 0 7)))
    else .error .field
  | 0x28 => if bf w 0 1 = 0 then
      .ok (.stsW (.ofNat 7 (bf w 17 7)) (.ofNat 5 (bf w 12 5)) (.ofNat 7 (bf w 5 7)) (.ofNat 2 (bf w 3 2)) (bf w 2 1 == 1) (bf w 1 1 == 1) (.ofNat 7 (bf x 0 7)))
    else .error .field
  | 0x29 => if bf w 0 2 = 0 ∧ bf w 5 7 = 0 then
      .ok (.stsc (.ofNat 7 (bf w 17 7)) (.ofNat 5 (bf w 12 5)) (.ofNat 2 (bf w 3 2)) (bf w 2 1 == 1) (.ofNat 7 (bf x 0 7)))
    else .error .field
  | 0x30 => 
      if bf x 4 3 = 0 then .ok (.amo (.ofNat 7 (bf w 17 7)) (.ofNat 5 (bf w 12 5)) (.ofNat 7 (bf w 5 7)) (.ofNat 2 (bf w 3 2)) (bf w 2 1 == 1) (bf w 1 1 == 1) (bf w 0 1 == 1) (.ofNat 4 (bf x 0 4))) else .error .lend
  | 0x31 => 
      .ok (.cas (.ofNat 7 (bf w 17 7)) (.ofNat 5 (bf w 12 5)) (.ofNat 7 (bf w 5 7)) (.ofNat 2 (bf w 3 2)) (bf w 2 1 == 1) (bf w 1 1 == 1) (bf w 0 1 == 1) (.ofNat 6 (bf x 1 6)) (bf x 0 1 == 1))
  | 0x32 => 
      if bf x 4 3 = 0 then .ok (.amos (.ofNat 7 (bf w 17 7)) (.ofNat 5 (bf w 12 5)) (.ofNat 7 (bf w 5 7)) (.ofNat 2 (bf w 3 2)) (bf w 2 1 == 1) (bf w 1 1 == 1) (bf w 0 1 == 1) (.ofNat 4 (bf x 0 4))) else .error .lend
  | 0x33 => 
      .ok (.cass (.ofNat 7 (bf w 17 7)) (.ofNat 5 (bf w 12 5)) (.ofNat 7 (bf w 5 7)) (.ofNat 2 (bf w 3 2)) (bf w 2 1 == 1) (bf w 1 1 == 1) (bf w 0 1 == 1) (.ofNat 6 (bf x 1 6)) (bf x 0 1 == 1))
  | 0x38 => 
      .ok (.waita (.ofNat 7 (bf w 17 7)) (.ofNat 5 (bf w 12 5)) (.ofNat 7 (bf w 5 7)) (.ofNat 2 (bf w 3 2)) (bf w 2 1 == 1) (bf w 1 1 == 1) (bf w 0 1 == 1) (.ofNat 2 (bf x 0 2)) (bf x 2 1 == 1) (.ofNat 3 (bf x 3 3)) (bf x 6 1 == 1))
  | 0x39 => if bf w 0 1 = 0 then
      .ok (.sig (.ofNat 7 (bf w 17 7)) (.ofNat 5 (bf w 12 5)) (.ofNat 7 (bf w 5 7)) (.ofNat 2 (bf w 3 2)) (bf w 2 1 == 1) (bf w 1 1 == 1) (.ofNat 2 (bf x 0 2)) (bf x 2 1 == 1) (.ofNat 3 (bf x 3 3)) (bf x 6 1 == 1))
    else .error .field
  | 0x3A => if bf w 0 24 = 0 then
      if bf x 2 1 = 0 then .ok (.fence (.ofNat 2 (bf x 0 2)) (.ofNat 3 (bf x 3 3)) (bf x 6 1 == 1)) else .error .lend
    else .error .field
  | 0x3B => if bf w 0 1 = 0 ∧ bf w 2 1 = 0 then
      if bf x 0 3 = 0 then .ok (.lda (.ofNat 7 (bf w 17 7)) (.ofNat 5 (bf w 12 5)) (.ofNat 7 (bf w 5 7)) (.ofNat 2 (bf w 3 2)) (bf w 1 1 == 1) (.ofNat 3 (bf x 3 3)) (bf x 6 1 == 1)) else .error .lend
    else .error .field
  | 0x3C => if bf w 0 1 = 0 then
      if bf x 0 3 = 0 then .ok (.stl (.ofNat 7 (bf w 17 7)) (.ofNat 5 (bf w 12 5)) (.ofNat 7 (bf w 5 7)) (.ofNat 2 (bf w 3 2)) (bf w 2 1 == 1) (bf w 1 1 == 1) (.ofNat 3 (bf x 3 3)) (bf x 6 1 == 1)) else .error .lend
    else .error .field
  | 0x3D => if bf w 0 1 = 0 ∧ bf w 2 1 = 0 ∧ bf w 18 6 = 0 then
      .ok (.pref (bf w 17 1 == 1) (.ofNat 5 (bf w 12 5)) (.ofNat 7 (bf w 5 7)) (.ofNat 2 (bf w 3 2)) (bf w 1 1 == 1) (.ofNat 7 (bf x 0 7)))
    else .error .field
  | 0x3E => if bf w 0 5 = 0 ∧ bf w 17 7 = 0 then
      if x = 0 then .ok (.wbr (.ofNat 5 (bf w 12 5)) (.ofNat 7 (bf w 5 7))) else .error .lend
    else .error .field
  | 0x3F => if bf w 0 5 = 0 ∧ bf w 17 7 = 0 then
      if x = 0 then .ok (.invr (.ofNat 5 (bf w 12 5)) (.ofNat 7 (bf w 5 7))) else .error .lend
    else .error .field
  | 0x40 => if bf w 0 5 = 0 then
      if bf x 3 4 = 0 then .ok (.trace (.ofNat 7 (bf w 17 7)) (.ofNat 5 (bf w 12 5)) (.ofNat 7 (bf w 5 7)) (.ofNat 3 (bf x 0 3))) else .error .lend
    else .error .field
  | 0x41 => if bf w 0 5 = 0 then
      .ok (.tracec (.ofNat 7 (bf w 17 7)) (.ofNat 5 (bf w 12 5)) (.ofNat 7 (bf w 5 7)) (.ofNat 3 (bf x 0 3)) (.ofNat 4 (bf x 3 4)))
    else .error .field
  | 0x42 => if bf w 0 1 = 0 ∧ bf w 2 3 = 0 then
      if bf x 5 2 = 0 then .ok (.visq (.ofNat 7 (bf w 17 7)) (.ofNat 5 (bf w 12 5)) (.ofNat 7 (bf w 5 7)) (bf w 1 1 == 1) (.ofNat 5 (bf x 0 5))) else .error .lend
    else .error .field
  | 0x43 => if bf w 0 5 = 0 then
      if bf x 5 2 = 0 then .ok (.tsamp (.ofNat 7 (bf w 17 7)) (.ofNat 5 (bf w 12 5)) (.ofNat 7 (bf w 5 7)) (.ofNat 2 (bf x 0 2)) (.ofNat 2 (bf x 2 2)) (bf x 4 1 == 1)) else .error .lend
    else .error .field
  | 0x44 => if bf w 0 12 = 0 then
      if bf x 4 3 = 0 then .ok (.tsize (.ofNat 7 (bf w 17 7)) (.ofNat 5 (bf w 12 5)) (.ofNat 4 (bf x 0 4))) else .error .lend
    else .error .field
  | _ => .error .opcode

/-- Slot 3 (R115): fields of word w, whose opcode is op, with the lend x. -/
def fieldsOfSlot3 (op w x : Nat) : DecodeResult :=
  match op with
  | 0x00 => if bf w 0 24 = 0 then (if x = 0 then .ok .nop else .error .lend) else .error .field
  | 0x01 => if bf w 2 21 = 0 then
      if x = 0 then .ok (.mzero (bf w 23 1 == 1) (.ofNat 2 (bf w 0 2))) else .error .lend
    else .error .field
  | 0x02 => if bf w 3 20 = 0 then
      if x = 0 then .ok (.mchb (bf w 23 1 == 1) (bf w 2 1 == 1) (.ofNat 2 (bf w 0 2))) else .error .lend
    else .error .field
  | 0x03 => if bf w 2 21 = 0 then
      if x = 0 then .ok (.mche (bf w 23 1 == 1) (.ofNat 2 (bf w 0 2))) else .error .lend
    else .error .field
  | 0x04 => if bf w 6 2 = 0 then
      if x = 0 then .ok (.mma (bf w 23 1 == 1) (.ofNat 5 (bf w 18 5)) (.ofNat 5 (bf w 13 5)) (.ofNat 5 (bf w 8 5)) (.ofNat 4 (bf w 2 4)) (.ofNat 2 (bf w 0 2))) else .error .lend
    else .error .field
  | 0x05 => if bf w 6 10 = 0 then
      if x = 0 then .ok (.macl (bf w 23 1 == 1) (.ofNat 7 (bf w 16 7)) (.ofNat 4 (bf w 2 4)) (.ofNat 2 (bf w 0 2))) else .error .lend
    else .error .field
  | 0x06 => if bf w 7 6 = 0 then
      if x = 0 then .ok (.mdst (bf w 23 1 == 1) (.ofNat 5 (bf w 18 5)) (.ofNat 5 (bf w 13 5)) (bf w 6 1 == 1) (.ofNat 2 (bf w 4 2)) (.ofNat 2 (bf w 2 2)) (.ofNat 2 (bf w 0 2))) else .error .lend
    else .error .field
  | 0x07 => if bf w 6 2 = 0 then
      if x = 0 then .ok (.mstg (bf w 23 1 == 1) (.ofNat 5 (bf w 18 5)) (.ofNat 5 (bf w 13 5)) (.ofNat 5 (bf w 8 5)) (.ofNat 4 (bf w 2 4)) (.ofNat 2 (bf w 0 2))) else .error .lend
    else .error .field
  | 0x10 => if bf w 3 15 = 0 then
      if x = 0 then .ok (.shp (bf w 23 1 == 1) (.ofNat 5 (bf w 18 5)) (.ofNat 3 (bf w 0 3))) else .error .lend
    else .error .field
  | 0x11 => if bf w 3 20 = 0 then
      if x = 0 then .ok (.cpy (bf w 23 1 == 1) (.ofNat 3 (bf w 0 3))) else .error .lend
    else .error .field
  | 0x12 => if bf w 3 20 = 0 then
      if x = 0 then .ok (.cpym (bf w 23 1 == 1) (.ofNat 3 (bf w 0 3))) else .error .lend
    else .error .field
  | 0x13 => if bf w 0 18 = 0 then
      if x = 0 then .ok (.owng (bf w 23 1 == 1) (.ofNat 5 (bf w 18 5))) else .error .lend
    else .error .field
  | 0x14 => if bf w 0 18 = 0 then
      if x = 0 then .ok (.ownt (bf w 23 1 == 1) (.ofNat 5 (bf w 18 5))) else .error .lend
    else .error .field
  | 0x20 => if bf w 4 9 = 0 then
      if x = 0 then .ok (.qcfg (bf w 23 1 == 1) (.ofNat 5 (bf w 18 5)) (.ofNat 5 (bf w 13 5)) (.ofNat 4 (bf w 0 4))) else .error .lend
    else .error .field
  | 0x21 => if bf w 4 14 = 0 then
      if x = 0 then .ok (.qpush (bf w 23 1 == 1) (.ofNat 5 (bf w 18 5)) (.ofNat 4 (bf w 0 4))) else .error .lend
    else .error .field
  | 0x22 => if bf w 4 12 = 0 then
      if x = 0 then .ok (.qpop (bf w 23 1 == 1) (.ofNat 7 (bf w 16 7)) (.ofNat 4 (bf w 0 4))) else .error .lend
    else .error .field
  | 0x23 => if bf w 4 12 = 0 then
      if x = 0 then .ok (.qtry (bf w 23 1 == 1) (.ofNat 7 (bf w 16 7)) (.ofNat 4 (bf w 0 4))) else .error .lend
    else .error .field
  | 0x30 => if bf w 0 18 = 0 then
      if x = 0 then .ok (.tsub (bf w 23 1 == 1) (.ofNat 5 (bf w 18 5))) else .error .lend
    else .error .field
  | 0x31 => if bf w 0 18 = 0 then
      if x = 0 then .ok (.tdep (bf w 23 1 == 1) (.ofNat 5 (bf w 18 5))) else .error .lend
    else .error .field
  | 0x32 => if bf w 4 14 = 0 then
      if x = 0 then .ok (.emit (bf w 23 1 == 1) (.ofNat 5 (bf w 18 5)) (.ofNat 4 (bf w 0 4))) else .error .lend
    else .error .field
  | 0x33 => if bf w 2 11 = 0 then
      if x = 0 then .ok (.cont (bf w 23 1 == 1) (.ofNat 5 (bf w 18 5)) (.ofNat 5 (bf w 13 5)) (.ofNat 2 (bf w 0 2))) else .error .lend
    else .error .field
  | 0x34 => if bf w 0 18 = 0 then
      if x = 0 then .ok (.keyrel (bf w 23 1 == 1) (.ofNat 5 (bf w 18 5))) else .error .lend
    else .error .field
  | 0x35 => if bf w 0 6 = 0 then
      if x = 0 then .ok (.qsub (bf w 23 1 == 1) (.ofNat 7 (bf w 16 7)) (.ofNat 5 (bf w 11 5)) (.ofNat 5 (bf w 6 5))) else .error .lend
    else .error .field
  | 0x40 => if bf w 6 2 = 0 then
      if x = 0 then .ok (.cred (bf w 23 1 == 1) (.ofNat 5 (bf w 18 5)) (.ofNat 5 (bf w 13 5)) (.ofNat 5 (bf w 8 5)) (.ofNat 3 (bf w 3 3)) (.ofNat 3 (bf w 0 3))) else .error .lend
    else .error .field
  | 0x41 => if bf w 3 5 = 0 then
      if x = 0 then .ok (.cbc (bf w 23 1 == 1) (.ofNat 5 (bf w 18 5)) (.ofNat 5 (bf w 13 5)) (.ofNat 5 (bf w 8 5)) (.ofNat 3 (bf w 0 3))) else .error .lend
    else .error .field
  | 0x42 => if bf w 3 5 = 0 then
      if x = 0 then .ok (.cag (bf w 23 1 == 1) (.ofNat 5 (bf w 18 5)) (.ofNat 5 (bf w 13 5)) (.ofNat 5 (bf w 8 5)) (.ofNat 3 (bf w 0 3))) else .error .lend
    else .error .field
  | 0x43 => if bf w 6 2 = 0 then
      if x = 0 then .ok (.crs (bf w 23 1 == 1) (.ofNat 5 (bf w 18 5)) (.ofNat 5 (bf w 13 5)) (.ofNat 5 (bf w 8 5)) (.ofNat 3 (bf w 3 3)) (.ofNat 3 (bf w 0 3))) else .error .lend
    else .error .field
  | _ => .error .opcode

/-- A slot's word with the opcode op in that slot's map, its fields not yet checked against the row. -/
def fieldsBy (slot op w x : Nat) : DecodeResult :=
  match slot with
  | 0 => fieldsOfSlot0 op w x
  | 1 => fieldsOfSlot1 op w x
  | 2 => fieldsOfSlot2 op w x
  | _ => fieldsOfSlot3 op w x

/-- The word of one slot: the opcode is bits 31 to 24 (R106). -/
def fieldsOf (slot w x : Nat) : DecodeResult := fieldsBy slot (w / 2 ^ 24) w x

/-- The instruction of one slot word with its lend, or why there is none (R116). -/
def decodeSlot (slot : Nat) (w : Word) (x : BitVec 7) : DecodeResult :=
  match fieldsOf slot w.toNat x.toNat with
  | .ok i => if Machine.legal i then .ok i else .error .value
  | .error e => .error e

/-- The header fields of a slot-0 word (R102): guards and lends of slots 1 to 3. -/
structure Header where
  g1 : BitVec 3
  g2 : BitVec 3
  g3 : BitVec 3
  x1 : BitVec 7
  x2 : BitVec 7
  x3 : BitVec 7
  deriving DecidableEq, Repr

/-- A bundle without a header behaves as with 0 in every field (R105). -/
def Header.none : Header := ⟨0, 0, 0, 0, 0, 0⟩

def isHeader (w : Word) : Bool := bf w.toNat 30 2 == 3

def decodeHeader (w : Word) : Header :=
  ⟨.ofNat 3 (bf w.toNat 27 3), .ofNat 3 (bf w.toNat 24 3), .ofNat 3 (bf w.toNat 21 3),
   .ofNat 7 (bf w.toNat 14 7), .ofNat 7 (bf w.toNat 7 7), .ofNat 7 (bf w.toNat 0 7)⟩

/-- A decoded bundle: the header in force and the instruction of each slot. -/
structure Bundle where
  hdr : Header
  i0 : Instr
  i1 : Instr
  i2 : Instr
  i3 : Instr
  deriving DecidableEq, Repr

/-- The first slot whose word is not an instruction (R117): slot number and word. -/
structure BadSlot where
  slot : Nat
  word : Word
  why : DecodeError
  deriving DecidableEq, Repr

/-- Four slot words to a bundle, or the lowest slot that is not an instruction (R98, R99, R117). -/
def decodeBundle (w0 w1 w2 w3 : Word) : Except BadSlot Bundle :=
  let h := if isHeader w0 then decodeHeader w0 else Header.none
  match (if isHeader w0 then .ok .nop else decodeSlot 0 w0 0 : DecodeResult) with
  | .error e => .error ⟨0, w0, e⟩
  | .ok i0 =>
    match decodeSlot 1 w1 h.x1 with
    | .error e => .error ⟨1, w1, e⟩
    | .ok i1 =>
      match decodeSlot 2 w2 h.x2 with
      | .error e => .error ⟨2, w2, e⟩
      | .ok i2 =>
        match decodeSlot 3 w3 h.x3 with
        | .error e => .error ⟨3, w3, e⟩
        | .ok i3 => .ok ⟨h, i0, i1, i2, i3⟩

/-- The 32-bit little-endian word at the head of a byte list (R3, R98). -/
def wordOfBytes (l : List Byte) : Word :=
  .ofNat 32 ((l.getD 0 0).toNat + (l.getD 1 0).toNat * 2 ^ 8 + (l.getD 2 0).toNat * 2 ^ 16 +
    (l.getD 3 0).toNat * 2 ^ 24)

/-- Sixteen bytes to a bundle (R98). -/
def decodeBytes (l : List Byte) : Except BadSlot Bundle :=
  if l.length < 16 then .error ⟨0, 0, .short⟩
  else decodeBundle (wordOfBytes l) (wordOfBytes (l.drop 4)) (wordOfBytes (l.drop 8))
    (wordOfBytes (l.drop 12))

/-! ## The encoder -/

/-- The slot an instruction sits in (R99); NOP is legal in every slot and counts as slot 0, and an
event has no slot. -/
def slotOf (i : Instr) : Nat := (Machine.profile i).slot

def b2n (b : Bool) : Nat := if b then 1 else 0

/-- The number with each field of l added to it: a value, its width and its lowest bit (R106). -/
def place (m : Nat) : List (Nat × Nat × Nat) → Nat
  | [] => m
  | (v, n, k) :: l => place (m + v % 2 ^ n * 2 ^ k) l

/-- The slot word of an instruction (R106, R112 to R115). Events have none and give 0. -/
def encodeWord : Instr → Nat
  | .nop => place 0x00000000 []
  | .bra disp => place 0x01000000 [(disp.toNat, 21, 0)]
  | .brp p disp => place 0x02000000 [(p.toNat, 3, 21), (disp.toNat, 21, 0)]
  | .brs s i => place 0x03000000 [(s.toNat, 5, 19), (i.toNat, 19, 0)]
  | .brx a ua => place 0x04000000 [(a.toNat, 7, 12), (b2n ua, 1, 11)]
  | .call disp => place 0x05000000 [(disp.toNat, 21, 0)]
  | .callx a ua => place 0x06000000 [(a.toNat, 7, 12), (b2n ua, 1, 11)]
  | .ret => place 0x07000000 []
  | .loopi n => place 0x08000000 [(n.toNat, 19, 0)]
  | .loop disp => place 0x09000000 [(disp.toNat, 21, 0)]
  | .jarm j => place 0x0A000000 [(j.toNat, 3, 0)]
  | .jwait j => place 0x0B000000 [(j.toNat, 3, 0)]
  | .yld => place 0x0C000000 []
  | .exit => place 0x0D000000 []
  | .trap c => place 0x0E000000 [(c.toNat, 19, 0)]
  | .eret => place 0x0F000000 []
  | .waitc n t => place 0x10000000 [(n.toNat, 2, 7), (t.toNat, 7, 0)]
  | .mfs d i => place 0x11000000 [(d.toNat, 5, 19), (i.toNat, 9, 0)]
  | .mts a i => place 0x12000000 [(a.toNat, 5, 14), (i.toNat, 9, 0)]
  | .save a b => place 0x13000000 [(a.toNat, 5, 14), (b.toNat, 5, 9)]
  | .rest a b => place 0x14000000 [(a.toNat, 5, 14), (b.toNat, 5, 9)]
  | .pdone => place 0x15000000 []
  | .govq d => place 0x16000000 [(d.toNat, 5, 19)]
  | .sadd d a b => place 0x20000000 [(d.toNat, 5, 19), (a.toNat, 5, 14), (b.toNat, 5, 9)]
  | .ssub d a b => place 0x21000000 [(d.toNat, 5, 19), (a.toNat, 5, 14), (b.toNat, 5, 9)]
  | .smul d a b => place 0x22000000 [(d.toNat, 5, 19), (a.toNat, 5, 14), (b.toNat, 5, 9)]
  | .smulh d a b u => place 0x23000000 [(d.toNat, 5, 19), (a.toNat, 5, 14), (b.toNat, 5, 9), (b2n u, 1, 0)]
  | .sand d a b => place 0x24000000 [(d.toNat, 5, 19), (a.toNat, 5, 14), (b.toNat, 5, 9)]
  | .sor d a b => place 0x25000000 [(d.toNat, 5, 19), (a.toNat, 5, 14), (b.toNat, 5, 9)]
  | .sxor d a b => place 0x26000000 [(d.toNat, 5, 19), (a.toNat, 5, 14), (b.toNat, 5, 9)]
  | .sshl d a b => place 0x27000000 [(d.toNat, 5, 19), (a.toNat, 5, 14), (b.toNat, 5, 9)]
  | .sshlImm d a k => place 0x27000000 [(d.toNat, 5, 19), (a.toNat, 5, 14), (1, 1, 8), (k.toNat, 6, 0)]
  | .sshr d a b => place 0x28000000 [(d.toNat, 5, 19), (a.toNat, 5, 14), (b.toNat, 5, 9)]
  | .sshrImm d a k => place 0x28000000 [(d.toNat, 5, 19), (a.toNat, 5, 14), (1, 1, 8), (k.toNat, 6, 0)]
  | .ssra d a b => place 0x29000000 [(d.toNat, 5, 19), (a.toNat, 5, 14), (b.toNat, 5, 9)]
  | .ssraImm d a k => place 0x29000000 [(d.toNat, 5, 19), (a.toNat, 5, 14), (1, 1, 8), (k.toNat, 6, 0)]
  | .smin d a b u => place 0x2A000000 [(d.toNat, 5, 19), (a.toNat, 5, 14), (b.toNat, 5, 9), (b2n u, 1, 0)]
  | .smax d a b u => place 0x2B000000 [(d.toNat, 5, 19), (a.toNat, 5, 14), (b.toNat, 5, 9), (b2n u, 1, 0)]
  | .scmp d a b c => place 0x2C000000 [(d.toNat, 5, 19), (a.toNat, 5, 14), (b.toNat, 5, 9), (c.toNat, 4, 0)]
  | .saddi d a i => place 0x2D000000 [(d.toNat, 5, 19), (a.toNat, 5, 14), (i.toNat, 9, 0)]
  | .sli d i => place 0x2E000000 [(d.toNat, 5, 19), (i.toNat, 19, 0)]
  | .slih d i => place 0x2F000000 [(d.toNat, 5, 19), (i.toNat, 19, 0)]
  | .ssel d a b c => place 0x30000000 [(d.toNat, 5, 19), (a.toNat, 5, 14), (b.toNat, 5, 9), (c.toNat, 5, 0)]
  | .sld d a i => place 0x31000000 [(d.toNat, 5, 19), (a.toNat, 5, 14), (i.toNat, 9, 0)]
  | .sst a b i => place 0x32000000 [(a.toNat, 5, 14), (b.toNat, 5, 9), (i.toNat, 9, 0)]
  | .vtos d a ua lane => place 0x33000000 [(d.toNat, 5, 19), (a.toNat, 7, 12), (b2n ua, 1, 11), (lane.toNat, 6, 5)]
  | .vtosF d a ua => place 0x33000000 [(d.toNat, 5, 19), (a.toNat, 7, 12), (b2n ua, 1, 11), (1, 1, 4)]
  | .sclz d a => place 0x34000000 [(d.toNat, 5, 19), (a.toNat, 5, 14)]
  | .spopc d a => place 0x35000000 [(d.toNat, 5, 19), (a.toNat, 5, 14)]
  | .iadd d a b ua ub x => place 0x01000000 [(d.toNat, 7, 17), (a.toNat, 7, 10), (b.toNat, 7, 3), (b2n ua, 1, 2), (b2n ub, 1, 1), (b2n x, 1, 0)]
  | .isub d a b ua ub x => place 0x02000000 [(d.toNat, 7, 17), (a.toNat, 7, 10), (b.toNat, 7, 3), (b2n ua, 1, 2), (b2n ub, 1, 1), (b2n x, 1, 0)]
  | .iaddc d a b ua ub x _ _ => place 0x03000000 [(d.toNat, 7, 17), (a.toNat, 7, 10), (b.toNat, 7, 3), (b2n ua, 1, 2), (b2n ub, 1, 1), (b2n x, 1, 0)]
  | .imul d a b ua ub => place 0x04000000 [(d.toNat, 7, 17), (a.toNat, 7, 10), (b.toNat, 7, 3), (b2n ua, 1, 2), (b2n ub, 1, 1)]
  | .imulh d a b ua ub => place 0x05000000 [(d.toNat, 7, 17), (a.toNat, 7, 10), (b.toNat, 7, 3), (b2n ua, 1, 2), (b2n ub, 1, 1)]
  | .imulhu d a b ua ub => place 0x06000000 [(d.toNat, 7, 17), (a.toNat, 7, 10), (b.toNat, 7, 3), (b2n ua, 1, 2), (b2n ub, 1, 1)]
  | .imad d a b ua ub _ _ => place 0x07000000 [(d.toNat, 7, 17), (a.toNat, 7, 10), (b.toNat, 7, 3), (b2n ua, 1, 2), (b2n ub, 1, 1)]
  | .imin d a b ua ub => place 0x08000000 [(d.toNat, 7, 17), (a.toNat, 7, 10), (b.toNat, 7, 3), (b2n ua, 1, 2), (b2n ub, 1, 1)]
  | .imax d a b ua ub => place 0x09000000 [(d.toNat, 7, 17), (a.toNat, 7, 10), (b.toNat, 7, 3), (b2n ua, 1, 2), (b2n ub, 1, 1)]
  | .iminu d a b ua ub => place 0x0A000000 [(d.toNat, 7, 17), (a.toNat, 7, 10), (b.toNat, 7, 3), (b2n ua, 1, 2), (b2n ub, 1, 1)]
  | .imaxu d a b ua ub => place 0x0B000000 [(d.toNat, 7, 17), (a.toNat, 7, 10), (b.toNat, 7, 3), (b2n ua, 1, 2), (b2n ub, 1, 1)]
  | .iabs d a ua => place 0x0C000000 [(d.toNat, 7, 17), (a.toNat, 7, 10), (b2n ua, 1, 1)]
  | .and d a b ua ub => place 0x0D000000 [(d.toNat, 7, 17), (a.toNat, 7, 10), (b.toNat, 7, 3), (b2n ua, 1, 2), (b2n ub, 1, 1)]
  | .or d a b ua ub => place 0x0E000000 [(d.toNat, 7, 17), (a.toNat, 7, 10), (b.toNat, 7, 3), (b2n ua, 1, 2), (b2n ub, 1, 1)]
  | .xor d a b ua ub => place 0x0F000000 [(d.toNat, 7, 17), (a.toNat, 7, 10), (b.toNat, 7, 3), (b2n ua, 1, 2), (b2n ub, 1, 1)]
  | .andn d a b ua ub => place 0x10000000 [(d.toNat, 7, 17), (a.toNat, 7, 10), (b.toNat, 7, 3), (b2n ua, 1, 2), (b2n ub, 1, 1)]
  | .shl d a b ua ub => place 0x11000000 [(d.toNat, 7, 17), (a.toNat, 7, 10), (b.toNat, 7, 3), (b2n ua, 1, 2), (b2n ub, 1, 1)]
  | .shlImm d a n ua => place 0x11000000 [(d.toNat, 7, 17), (a.toNat, 7, 10), (n.toNat, 5, 3), (b2n ua, 1, 2), (1, 1, 0)]
  | .shr d a b ua ub => place 0x12000000 [(d.toNat, 7, 17), (a.toNat, 7, 10), (b.toNat, 7, 3), (b2n ua, 1, 2), (b2n ub, 1, 1)]
  | .shrImm d a n ua => place 0x12000000 [(d.toNat, 7, 17), (a.toNat, 7, 10), (n.toNat, 5, 3), (b2n ua, 1, 2), (1, 1, 0)]
  | .sra d a b ua ub => place 0x13000000 [(d.toNat, 7, 17), (a.toNat, 7, 10), (b.toNat, 7, 3), (b2n ua, 1, 2), (b2n ub, 1, 1)]
  | .sraImm d a n ua => place 0x13000000 [(d.toNat, 7, 17), (a.toNat, 7, 10), (n.toNat, 5, 3), (b2n ua, 1, 2), (1, 1, 0)]
  | .rol d a b ua ub => place 0x14000000 [(d.toNat, 7, 17), (a.toNat, 7, 10), (b.toNat, 7, 3), (b2n ua, 1, 2), (b2n ub, 1, 1)]
  | .rolImm d a n ua => place 0x14000000 [(d.toNat, 7, 17), (a.toNat, 7, 10), (n.toNat, 5, 3), (b2n ua, 1, 2), (1, 1, 0)]
  | .bfx d a b ua ub x => place 0x15000000 [(d.toNat, 7, 17), (a.toNat, 7, 10), (b.toNat, 7, 3), (b2n ua, 1, 2), (b2n ub, 1, 1), (b2n x, 1, 0)]
  | .bfi d a b ua ub _ _ => place 0x16000000 [(d.toNat, 7, 17), (a.toNat, 7, 10), (b.toNat, 7, 3), (b2n ua, 1, 2), (b2n ub, 1, 1)]
  | .popc d a ua => place 0x17000000 [(d.toNat, 7, 17), (a.toNat, 7, 10), (b2n ua, 1, 1)]
  | .clz d a ua => place 0x18000000 [(d.toNat, 7, 17), (a.toNat, 7, 10), (b2n ua, 1, 1)]
  | .brev d a ua => place 0x19000000 [(d.toNat, 7, 17), (a.toNat, 7, 10), (b2n ua, 1, 1)]
  | .icmp c p a b ua ub x => place 0x1A000000 [(c.toNat, 4, 20), (p.toNat, 3, 17), (a.toNat, 7, 10), (b.toNat, 7, 3), (b2n ua, 1, 2), (b2n ub, 1, 1), (b2n x, 1, 0)]
  | .sel d a b ua ub _ => place 0x1B000000 [(d.toNat, 7, 17), (a.toNat, 7, 10), (b.toNat, 7, 3), (b2n ua, 1, 2), (b2n ub, 1, 1)]
  | .mov d a ua => place 0x1C000000 [(d.toNat, 7, 17), (a.toNat, 7, 10), (b2n ua, 1, 1)]
  | .li d k => place 0x1D000000 [(d.toNat, 7, 17), (k.toNat, 17, 0)]
  | .lih d k => place 0x1E000000 [(d.toNat, 7, 17), (k.toNat, 15, 0)]
  | .iaddi d a ua imm => place 0x1F000000 [(d.toNat, 7, 17), (a.toNat, 7, 10), (imm.toNat, 9, 1), (b2n ua, 1, 0)]
  | .tag d a t ua => place 0x20000000 [(d.toNat, 7, 17), (a.toNat, 7, 10), (t.toNat, 4, 2), (b2n ua, 1, 1)]
  | .pset p a ua => place 0x21000000 [(p.toNat, 3, 17), (a.toNat, 7, 10), (b2n ua, 1, 1)]
  | .pget d => place 0x22000000 [(d.toNat, 7, 17)]
  | .vfree a => place 0x23000000 [(a.toNat, 7, 10)]
  | .fadd d a b ua ub => place 0x40000000 [(d.toNat, 7, 17), (a.toNat, 7, 10), (b.toNat, 7, 3), (b2n ua, 1, 2), (b2n ub, 1, 1)]
  | .fsub d a b ua ub => place 0x41000000 [(d.toNat, 7, 17), (a.toNat, 7, 10), (b.toNat, 7, 3), (b2n ua, 1, 2), (b2n ub, 1, 1)]
  | .fmul d a b ua ub => place 0x42000000 [(d.toNat, 7, 17), (a.toNat, 7, 10), (b.toNat, 7, 3), (b2n ua, 1, 2), (b2n ub, 1, 1)]
  | .ffma d a b ua ub _ _ => place 0x43000000 [(d.toNat, 7, 17), (a.toNat, 7, 10), (b.toNat, 7, 3), (b2n ua, 1, 2), (b2n ub, 1, 1)]
  | .fmin d a b ua ub => place 0x44000000 [(d.toNat, 7, 17), (a.toNat, 7, 10), (b.toNat, 7, 3), (b2n ua, 1, 2), (b2n ub, 1, 1)]
  | .fmax d a b ua ub => place 0x45000000 [(d.toNat, 7, 17), (a.toNat, 7, 10), (b.toNat, 7, 3), (b2n ua, 1, 2), (b2n ub, 1, 1)]
  | .fminn d a b ua ub => place 0x46000000 [(d.toNat, 7, 17), (a.toNat, 7, 10), (b.toNat, 7, 3), (b2n ua, 1, 2), (b2n ub, 1, 1)]
  | .fmaxn d a b ua ub => place 0x47000000 [(d.toNat, 7, 17), (a.toNat, 7, 10), (b.toNat, 7, 3), (b2n ua, 1, 2), (b2n ub, 1, 1)]
  | .fabs d a ua => place 0x48000000 [(d.toNat, 7, 17), (a.toNat, 7, 10), (b2n ua, 1, 1)]
  | .fneg d a ua => place 0x49000000 [(d.toNat, 7, 17), (a.toNat, 7, 10), (b2n ua, 1, 1)]
  | .fcmp c p a b ua ub x => place 0x4A000000 [(c.toNat, 4, 20), (p.toNat, 3, 17), (a.toNat, 7, 10), (b.toNat, 7, 3), (b2n ua, 1, 2), (b2n ub, 1, 1), (b2n x, 1, 0)]
  | .fclmp d a b ua ub _ _ => place 0x4B000000 [(d.toNat, 7, 17), (a.toNat, 7, 10), (b.toNat, 7, 3), (b2n ua, 1, 2), (b2n ub, 1, 1)]
  | .frnd d a r ua => place 0x4C000000 [(d.toNat, 7, 17), (a.toNat, 7, 10), (r.toNat, 3, 6), (b2n ua, 1, 1)]
  | .ffrac d a ua => place 0x4D000000 [(d.toNat, 7, 17), (a.toNat, 7, 10), (b2n ua, 1, 1)]
  | .frcp d a ua => place 0x4E000000 [(d.toNat, 7, 17), (a.toNat, 7, 10), (b2n ua, 1, 1)]
  | .frsq d a ua => place 0x4F000000 [(d.toNat, 7, 17), (a.toNat, 7, 10), (b2n ua, 1, 1)]
  | .fsqrt d a ua => place 0x50000000 [(d.toNat, 7, 17), (a.toNat, 7, 10), (b2n ua, 1, 1)]
  | .fex2 d a ua => place 0x51000000 [(d.toNat, 7, 17), (a.toNat, 7, 10), (b2n ua, 1, 1)]
  | .flg2 d a ua => place 0x52000000 [(d.toNat, 7, 17), (a.toNat, 7, 10), (b2n ua, 1, 1)]
  | .fsin d a ua => place 0x53000000 [(d.toNat, 7, 17), (a.toNat, 7, 10), (b2n ua, 1, 1)]
  | .fcos d a ua => place 0x54000000 [(d.toNat, 7, 17), (a.toNat, 7, 10), (b2n ua, 1, 1)]
  | .fcvt d a n r t ua => place 0x55000000 [(d.toNat, 7, 17), (a.toNat, 7, 10), (b2n n, 1, 9), (r.toNat, 3, 6), (t.toNat, 4, 2), (b2n ua, 1, 1)]
  | .icvtf d a r t ua => place 0x56000000 [(d.toNat, 7, 17), (a.toNat, 7, 10), (r.toNat, 3, 6), (t.toNat, 4, 2), (b2n ua, 1, 1)]
  | .fcvti d a r t ua => place 0x57000000 [(d.toNat, 7, 17), (a.toNat, 7, 10), (r.toNat, 3, 6), (t.toNat, 4, 2), (b2n ua, 1, 1)]
  | .hadd2 d a b ua ub => place 0x58000000 [(d.toNat, 7, 17), (a.toNat, 7, 10), (b.toNat, 7, 3), (b2n ua, 1, 2), (b2n ub, 1, 1)]
  | .hmul2 d a b ua ub => place 0x59000000 [(d.toNat, 7, 17), (a.toNat, 7, 10), (b.toNat, 7, 3), (b2n ua, 1, 2), (b2n ub, 1, 1)]
  | .hfma2 d a b ua ub _ _ => place 0x5A000000 [(d.toNat, 7, 17), (a.toNat, 7, 10), (b.toNat, 7, 3), (b2n ua, 1, 2), (b2n ub, 1, 1)]
  | .fdot4 d a b ua ub _ _ => place 0x5B000000 [(d.toNat, 7, 17), (a.toNat, 7, 10), (b.toNat, 7, 3), (b2n ua, 1, 2), (b2n ub, 1, 1)]
  | .fdot8 d a b ua ub _ _ => place 0x5C000000 [(d.toNat, 7, 17), (a.toNat, 7, 10), (b.toNat, 7, 3), (b2n ua, 1, 2), (b2n ub, 1, 1)]
  | .pack d a b ua ub x => place 0x5D000000 [(d.toNat, 7, 17), (a.toNat, 7, 10), (b.toNat, 7, 3), (b2n ua, 1, 2), (b2n ub, 1, 1), (b2n x, 1, 0)]
  | .unpk d a k ua => place 0x5E000000 [(d.toNat, 7, 17), (a.toNat, 7, 10), (k.toNat, 3, 2), (b2n ua, 1, 1)]
  | .xshf d a b ua ub m => place 0x80000000 [(d.toNat, 7, 17), (a.toNat, 7, 10), (b.toNat, 7, 3), (b2n ua, 1, 2), (b2n ub, 1, 1), (b2n m, 1, 0)]
  | .xrot d a b ua ub m => place 0x81000000 [(d.toNat, 7, 17), (a.toNat, 7, 10), (b.toNat, 7, 3), (b2n ua, 1, 2), (b2n ub, 1, 1), (b2n m, 1, 0)]
  | .xbc d a b ua ub m => place 0x82000000 [(d.toNat, 7, 17), (a.toNat, 7, 10), (b.toNat, 7, 3), (b2n ua, 1, 2), (b2n ub, 1, 1), (b2n m, 1, 0)]
  | .xstep d a b ua ub m => place 0x83000000 [(d.toNat, 7, 17), (a.toNat, 7, 10), (b.toNat, 7, 3), (b2n ua, 1, 2), (b2n ub, 1, 1), (b2n m, 1, 0)]
  | .xred d a o ua m => place 0x84000000 [(d.toNat, 7, 17), (a.toNat, 7, 10), (o.toNat, 4, 3), (b2n ua, 1, 2), (b2n m, 1, 0)]
  | .xscn d a e o ua m => place 0x85000000 [(d.toNat, 7, 17), (a.toNat, 7, 10), (b2n e, 1, 7), (o.toNat, 4, 3), (b2n ua, 1, 2), (b2n m, 1, 0)]
  | .xbal d a h ua m => place 0x86000000 [(d.toNat, 7, 17), (a.toNat, 7, 10), (b2n h, 1, 3), (b2n ua, 1, 2), (b2n m, 1, 0)]
  | .xcnt d a ua m => place 0x87000000 [(d.toNat, 7, 17), (a.toNat, 7, 10), (b2n ua, 1, 2), (b2n m, 1, 0)]
  | .xfst d a ua m => place 0x88000000 [(d.toNat, 7, 17), (a.toNat, 7, 10), (b2n ua, 1, 2), (b2n m, 1, 0)]
  | .rsvup d a b ua ub _ _ => place 0xA0000000 [(d.toNat, 7, 17), (a.toNat, 7, 10), (b.toNat, 7, 3), (b2n ua, 1, 2), (b2n ub, 1, 1)]
  | .rsvmrg d a b ua ub => place 0xA1000000 [(d.toNat, 7, 17), (a.toNat, 7, 10), (b.toNat, 7, 3), (b2n ua, 1, 2), (b2n ub, 1, 1)]
  | .rsvfin d a b ua ub => place 0xA2000000 [(d.toNat, 7, 17), (a.toNat, 7, 10), (b.toNat, 7, 3), (b2n ua, 1, 2), (b2n ub, 1, 1)]
  | .aadd d a b ua ub => place 0x01000000 [(d.toNat, 7, 17), (a.toNat, 7, 10), (b.toNat, 7, 3), (b2n ua, 1, 2), (b2n ub, 1, 1)]
  | .ashl d a b ua ub => place 0x02000000 [(d.toNat, 7, 17), (a.toNat, 7, 10), (b.toNat, 7, 3), (b2n ua, 1, 2), (b2n ub, 1, 1)]
  | .ashlImm d a n ua => place 0x02000000 [(d.toNat, 7, 17), (a.toNat, 7, 10), (n.toNat, 5, 3), (b2n ua, 1, 2), (1, 1, 0)]
  | .aand d a b ua ub => place 0x03000000 [(d.toNat, 7, 17), (a.toNat, 7, 10), (b.toNat, 7, 3), (b2n ua, 1, 2), (b2n ub, 1, 1)]
  | .amov d a ua => place 0x04000000 [(d.toNat, 7, 17), (a.toNat, 7, 10), (b2n ua, 1, 1)]
  | .ali d k => place 0x05000000 [(d.toNat, 7, 17), (k.toNat, 17, 0)]
  | .aform d a b ua ub x => place 0x06000000 [(d.toNat, 7, 17), (a.toNat, 7, 10), (b.toNat, 7, 3), (b2n ua, 1, 2), (b2n ub, 1, 1), (b2n x, 1, 0)]
  | .ldB t s o ac uo nt _ => place 0x10000000 [(t.toNat, 7, 17), (s.toNat, 5, 12), (o.toNat, 7, 5), (ac.toNat, 2, 3), (b2n uo, 1, 1), (b2n nt, 1, 0)]
  | .ldBs t s o ac uo nt _ => place 0x11000000 [(t.toNat, 7, 17), (s.toNat, 5, 12), (o.toNat, 7, 5), (ac.toNat, 2, 3), (b2n uo, 1, 1), (b2n nt, 1, 0)]
  | .ldH t s o ac uo nt _ => place 0x12000000 [(t.toNat, 7, 17), (s.toNat, 5, 12), (o.toNat, 7, 5), (ac.toNat, 2, 3), (b2n uo, 1, 1), (b2n nt, 1, 0)]
  | .ldHs t s o ac uo nt _ => place 0x13000000 [(t.toNat, 7, 17), (s.toNat, 5, 12), (o.toNat, 7, 5), (ac.toNat, 2, 3), (b2n uo, 1, 1), (b2n nt, 1, 0)]
  | .ldW t s o ac uo nt _ => place 0x14000000 [(t.toNat, 7, 17), (s.toNat, 5, 12), (o.toNat, 7, 5), (ac.toNat, 2, 3), (b2n uo, 1, 1), (b2n nt, 1, 0)]
  | .ldd t s o ac uo nt _ => place 0x15000000 [(t.toNat, 7, 17), (s.toNat, 5, 12), (o.toNat, 7, 5), (ac.toNat, 2, 3), (b2n uo, 1, 1), (b2n nt, 1, 0)]
  | .ldq t s o ac uo nt _ => place 0x16000000 [(t.toNat, 7, 17), (s.toNat, 5, 12), (o.toNat, 7, 5), (ac.toNat, 2, 3), (b2n uo, 1, 1), (b2n nt, 1, 0)]
  | .ldc t s ac nt _ => place 0x17000000 [(t.toNat, 7, 17), (s.toNat, 5, 12), (ac.toNat, 2, 3), (b2n nt, 1, 0)]
  | .ldu t s ac nt _ => place 0x18000000 [(t.toNat, 7, 17), (s.toNat, 5, 12), (ac.toNat, 2, 3), (b2n nt, 1, 0)]
  | .ldsB t s o ac uo _ => place 0x19000000 [(t.toNat, 7, 17), (s.toNat, 5, 12), (o.toNat, 7, 5), (ac.toNat, 2, 3), (b2n uo, 1, 1)]
  | .ldsBs t s o ac uo _ => place 0x1A000000 [(t.toNat, 7, 17), (s.toNat, 5, 12), (o.toNat, 7, 5), (ac.toNat, 2, 3), (b2n uo, 1, 1)]
  | .ldsH t s o ac uo _ => place 0x1B000000 [(t.toNat, 7, 17), (s.toNat, 5, 12), (o.toNat, 7, 5), (ac.toNat, 2, 3), (b2n uo, 1, 1)]
  | .ldsHs t s o ac uo _ => place 0x1C000000 [(t.toNat, 7, 17), (s.toNat, 5, 12), (o.toNat, 7, 5), (ac.toNat, 2, 3), (b2n uo, 1, 1)]
  | .ldsW t s o ac uo _ => place 0x1D000000 [(t.toNat, 7, 17), (s.toNat, 5, 12), (o.toNat, 7, 5), (ac.toNat, 2, 3), (b2n uo, 1, 1)]
  | .ldsc t s ac _ => place 0x1E000000 [(t.toNat, 7, 17), (s.toNat, 5, 12), (ac.toNat, 2, 3)]
  | .stB t s o ac ut uo nt _ => place 0x20000000 [(t.toNat, 7, 17), (s.toNat, 5, 12), (o.toNat, 7, 5), (ac.toNat, 2, 3), (b2n ut, 1, 2), (b2n uo, 1, 1), (b2n nt, 1, 0)]
  | .stH t s o ac ut uo nt _ => place 0x21000000 [(t.toNat, 7, 17), (s.toNat, 5, 12), (o.toNat, 7, 5), (ac.toNat, 2, 3), (b2n ut, 1, 2), (b2n uo, 1, 1), (b2n nt, 1, 0)]
  | .stW t s o ac ut uo nt _ => place 0x22000000 [(t.toNat, 7, 17), (s.toNat, 5, 12), (o.toNat, 7, 5), (ac.toNat, 2, 3), (b2n ut, 1, 2), (b2n uo, 1, 1), (b2n nt, 1, 0)]
  | .std t s o ac ut uo nt _ => place 0x23000000 [(t.toNat, 7, 17), (s.toNat, 5, 12), (o.toNat, 7, 5), (ac.toNat, 2, 3), (b2n ut, 1, 2), (b2n uo, 1, 1), (b2n nt, 1, 0)]
  | .stq t s o ac ut uo nt _ => place 0x24000000 [(t.toNat, 7, 17), (s.toNat, 5, 12), (o.toNat, 7, 5), (ac.toNat, 2, 3), (b2n ut, 1, 2), (b2n uo, 1, 1), (b2n nt, 1, 0)]
  | .stc t s ac ut nt _ => place 0x25000000 [(t.toNat, 7, 17), (s.toNat, 5, 12), (ac.toNat, 2, 3), (b2n ut, 1, 2), (b2n nt, 1, 0)]
  | .stsB t s o ac ut uo _ => place 0x26000000 [(t.toNat, 7, 17), (s.toNat, 5, 12), (o.toNat, 7, 5), (ac.toNat, 2, 3), (b2n ut, 1, 2), (b2n uo, 1, 1)]
  | .stsH t s o ac ut uo _ => place 0x27000000 [(t.toNat, 7, 17), (s.toNat, 5, 12), (o.toNat, 7, 5), (ac.toNat, 2, 3), (b2n ut, 1, 2), (b2n uo, 1, 1)]
  | .stsW t s o ac ut uo _ => place 0x28000000 [(t.toNat, 7, 17), (s.toNat, 5, 12), (o.toNat, 7, 5), (ac.toNat, 2, 3), (b2n ut, 1, 2), (b2n uo, 1, 1)]
  | .stsc t s ac ut _ => place 0x29000000 [(t.toNat, 7, 17), (s.toNat, 5, 12), (ac.toNat, 2, 3), (b2n ut, 1, 2)]
  | .amo t s o ac ut uo rv _ => place 0x30000000 [(t.toNat, 7, 17), (s.toNat, 5, 12), (o.toNat, 7, 5), (ac.toNat, 2, 3), (b2n ut, 1, 2), (b2n uo, 1, 1), (b2n rv, 1, 0)]
  | .cas t s o ac ut uo rv _ _ => place 0x31000000 [(t.toNat, 7, 17), (s.toNat, 5, 12), (o.toNat, 7, 5), (ac.toNat, 2, 3), (b2n ut, 1, 2), (b2n uo, 1, 1), (b2n rv, 1, 0)]
  | .amos t s o ac ut uo rv _ => place 0x32000000 [(t.toNat, 7, 17), (s.toNat, 5, 12), (o.toNat, 7, 5), (ac.toNat, 2, 3), (b2n ut, 1, 2), (b2n uo, 1, 1), (b2n rv, 1, 0)]
  | .cass t s o ac ut uo rv _ _ => place 0x33000000 [(t.toNat, 7, 17), (s.toNat, 5, 12), (o.toNat, 7, 5), (ac.toNat, 2, 3), (b2n ut, 1, 2), (b2n uo, 1, 1), (b2n rv, 1, 0)]
  | .waita t s o ac ut uo to_ _ _ _ _ => place 0x38000000 [(t.toNat, 7, 17), (s.toNat, 5, 12), (o.toNat, 7, 5), (ac.toNat, 2, 3), (b2n ut, 1, 2), (b2n uo, 1, 1), (b2n to_, 1, 0)]
  | .sig t s o ac ut uo _ _ _ _ => place 0x39000000 [(t.toNat, 7, 17), (s.toNat, 5, 12), (o.toNat, 7, 5), (ac.toNat, 2, 3), (b2n ut, 1, 2), (b2n uo, 1, 1)]
  | .fence _ _ _ => place 0x3A000000 []
  | .lda t s o ac uo _ _ => place 0x3B000000 [(t.toNat, 7, 17), (s.toNat, 5, 12), (o.toNat, 7, 5), (ac.toNat, 2, 3), (b2n uo, 1, 1)]
  | .stl t s o ac ut uo _ _ => place 0x3C000000 [(t.toNat, 7, 17), (s.toNat, 5, 12), (o.toNat, 7, 5), (ac.toNat, 2, 3), (b2n ut, 1, 2), (b2n uo, 1, 1)]
  | .pref dc s o ac uo _ => place 0x3D000000 [(b2n dc, 1, 17), (s.toNat, 5, 12), (o.toNat, 7, 5), (ac.toNat, 2, 3), (b2n uo, 1, 1)]
  | .wbr s n => place 0x3E000000 [(s.toNat, 5, 12), (n.toNat, 7, 5)]
  | .invr s n => place 0x3F000000 [(s.toNat, 5, 12), (n.toNat, 7, 5)]
  | .trace t s o _ => place 0x40000000 [(t.toNat, 7, 17), (s.toNat, 5, 12), (o.toNat, 7, 5)]
  | .tracec t s o _ _ => place 0x41000000 [(t.toNat, 7, 17), (s.toNat, 5, 12), (o.toNat, 7, 5)]
  | .visq t s o uo _ => place 0x42000000 [(t.toNat, 7, 17), (s.toNat, 5, 12), (o.toNat, 7, 5), (b2n uo, 1, 1)]
  | .tsamp t s o _ _ _ => place 0x43000000 [(t.toNat, 7, 17), (s.toNat, 5, 12), (o.toNat, 7, 5)]
  | .tsize t s _ => place 0x44000000 [(t.toNat, 7, 17), (s.toNat, 5, 12)]
  | .mzero m k => place 0x01000000 [(b2n m, 1, 23), (k.toNat, 2, 0)]
  | .mchb m ord k => place 0x02000000 [(b2n m, 1, 23), (b2n ord, 1, 2), (k.toNat, 2, 0)]
  | .mche m k => place 0x03000000 [(b2n m, 1, 23), (k.toNat, 2, 0)]
  | .mma m a b c fmt k => place 0x04000000 [(b2n m, 1, 23), (a.toNat, 5, 18), (b.toNat, 5, 13), (c.toNat, 5, 8), (fmt.toNat, 4, 2), (k.toNat, 2, 0)]
  | .macl m d g k => place 0x05000000 [(b2n m, 1, 23), (d.toNat, 7, 16), (g.toNat, 4, 2), (k.toNat, 2, 0)]
  | .mdst m a b mem cvt op k => place 0x06000000 [(b2n m, 1, 23), (a.toNat, 5, 18), (b.toNat, 5, 13), (b2n mem, 1, 6), (cvt.toNat, 2, 4), (op.toNat, 2, 2), (k.toNat, 2, 0)]
  | .mstg m a b c fmt k => place 0x07000000 [(b2n m, 1, 23), (a.toNat, 5, 18), (b.toNat, 5, 13), (c.toNat, 5, 8), (fmt.toNat, 4, 2), (k.toNat, 2, 0)]
  | .shp m a n => place 0x10000000 [(b2n m, 1, 23), (a.toNat, 5, 18), (n.toNat, 3, 0)]
  | .cpy m n => place 0x11000000 [(b2n m, 1, 23), (n.toNat, 3, 0)]
  | .cpym m n => place 0x12000000 [(b2n m, 1, 23), (n.toNat, 3, 0)]
  | .owng m a => place 0x13000000 [(b2n m, 1, 23), (a.toNat, 5, 18)]
  | .ownt m a => place 0x14000000 [(b2n m, 1, 23), (a.toNat, 5, 18)]
  | .qcfg m a b q => place 0x20000000 [(b2n m, 1, 23), (a.toNat, 5, 18), (b.toNat, 5, 13), (q.toNat, 4, 0)]
  | .qpush m a q => place 0x21000000 [(b2n m, 1, 23), (a.toNat, 5, 18), (q.toNat, 4, 0)]
  | .qpop m d q => place 0x22000000 [(b2n m, 1, 23), (d.toNat, 7, 16), (q.toNat, 4, 0)]
  | .qtry m d q => place 0x23000000 [(b2n m, 1, 23), (d.toNat, 7, 16), (q.toNat, 4, 0)]
  | .tsub m a => place 0x30000000 [(b2n m, 1, 23), (a.toNat, 5, 18)]
  | .tdep m a => place 0x31000000 [(b2n m, 1, 23), (a.toNat, 5, 18)]
  | .emit m a i => place 0x32000000 [(b2n m, 1, 23), (a.toNat, 5, 18), (i.toNat, 4, 0)]
  | .cont m a b k => place 0x33000000 [(b2n m, 1, 23), (a.toNat, 5, 18), (b.toNat, 5, 13), (k.toNat, 2, 0)]
  | .keyrel m a => place 0x34000000 [(b2n m, 1, 23), (a.toNat, 5, 18)]
  | .qsub m d a b => place 0x35000000 [(b2n m, 1, 23), (d.toNat, 7, 16), (a.toNat, 5, 11), (b.toNat, 5, 6)]
  | .cred m a b c o n => place 0x40000000 [(b2n m, 1, 23), (a.toNat, 5, 18), (b.toNat, 5, 13), (c.toNat, 5, 8), (o.toNat, 3, 3), (n.toNat, 3, 0)]
  | .cbc m a b c n => place 0x41000000 [(b2n m, 1, 23), (a.toNat, 5, 18), (b.toNat, 5, 13), (c.toNat, 5, 8), (n.toNat, 3, 0)]
  | .cag m a b c n => place 0x42000000 [(b2n m, 1, 23), (a.toNat, 5, 18), (b.toNat, 5, 13), (c.toNat, 5, 8), (n.toNat, 3, 0)]
  | .crs m a b c o n => place 0x43000000 [(b2n m, 1, 23), (a.toNat, 5, 18), (b.toNat, 5, 13), (c.toNat, 5, 8), (o.toNat, 3, 3), (n.toNat, 3, 0)]
  | .coreIssueCycle .. => 0
  | .fairnessExpiry .. => 0
  | .resultLanding .. => 0
  | .spillComplete .. => 0
  | .fillComplete .. => 0
  | .loadPerformed .. => 0
  | .storePerformed .. => 0
  | .atomicPerformed .. => 0
  | .faultRecordWrite .. => 0
  | .waitaWake .. => 0
  | .waitaPoll .. => 0
  | .waitaTimeout .. => 0
  | .asyncTrapDelivery .. => 0
  | .preemptDeadlineExpiry .. => 0
  | .forcedSave .. => 0
  | .courseResume .. => 0
  | .blockBind .. => 0
  | .blockAdmission .. => 0
  | .mmaComplete .. => 0
  | .mzeroComplete .. => 0
  | .mcheComplete .. => 0
  | .mdstComplete .. => 0
  | .maclLanding .. => 0
  | .copyStart .. => 0
  | .copyComplete .. => 0
  | .stagingUnitArrival .. => 0
  | .stagingUnitDrain .. => 0
  | .collectiveStart .. => 0
  | .collectiveComplete .. => 0
  | .taskGrant .. => 0
  | .tdepDecrement .. => 0
  | .keyrelEffect .. => 0
  | .continuationWake .. => 0
  | .graphBlockBind .. => 0
  | .spireWindow .. => 0
  | .waitPacketComplete .. => 0
  | .streamStart .. => 0
  | .portalWrite .. => 0
  | .quantumExpiry .. => 0
  | .ageingStep .. => 0
  | .watchdogFire .. => 0
  | .queueCreate .. => 0
  | .queueDestroy .. => 0
  | .bindRecordWrite .. => 0
  | .ctxpdlWrite .. => 0
  | .ktrepWrite .. => 0
  | .tlbinvnWrite .. => 0
  | .tlbinvWrite .. => 0
  | .tlbinvDone => 0
  | .fltrespRetry .. => 0
  | .fltrespFailUnmapped .. => 0
  | .fltrespFailPermission .. => 0
  | .govstepWrite .. => 0
  | .govdWrite .. => 0
  | .registerWrite .. => 0
  | .dieCacheWriteback .. => 0
  | .hostBarAccess .. => 0
  | .pcieCompletion .. => 0
  | .pcieRequestTimeout .. => 0
  | .softErrorCorrected .. => 0
  | .uncorrectableError .. => 0
  | .coreLoss .. => 0
  | .mortarLaneFail .. => 0
  | .thermalStepUp .. => 0
  | .thermalStepDown .. => 0
  | .thermalStop .. => 0
  | .thermalResume .. => 0
  | .powerOn .. => 0
  | .svnFuseRaise => 0
  | .getVersion => 0
  | .getCapabilities => 0
  | .negotiateAlgorithms .. => 0
  | .getDigests => 0
  | .getCertificate .. => 0
  | .challenge .. => 0
  | .getMeasurements .. => 0
  | .contextCreate .. => 0
  | .contextReset .. => 0
  | .flitRead .. => 0
  | .flitWrite .. => 0
  | .flitAtomic .. => 0
  | .flitReduce .. => 0
  | .flitMessage .. => 0
  | .flitResponse .. => 0
  | .flitReceive .. => 0
  | .flitReplayTimeout .. => 0
  | .linkTrainTimeout .. => 0
  | .fabricRequestTimeout .. => 0
  | .responseRetentionExpiry .. => 0
  | .fixedFunctionRequestPerformed .. => 0
  | .scalarAccessPerformed .. => 0
  | .dispatcherResultWritten .. => 0
  | .rowSequencerIssue .. => 0
  | .linkTrained .. => 0
  | .unitFailure .. => 0
  | .transportUnreachableTimeout .. => 0
  | .powerLoss => 0

/-- The lend of an instruction (R105). -/
def encodeLend : Instr → Nat
  | .nop => 0
  | .bra .. => 0
  | .brp .. => 0
  | .brs .. => 0
  | .brx .. => 0
  | .call .. => 0
  | .callx .. => 0
  | .ret => 0
  | .loopi .. => 0
  | .loop .. => 0
  | .jarm .. => 0
  | .jwait .. => 0
  | .yld => 0
  | .exit => 0
  | .trap .. => 0
  | .eret => 0
  | .waitc .. => 0
  | .mfs .. => 0
  | .mts .. => 0
  | .save .. => 0
  | .rest .. => 0
  | .pdone => 0
  | .govq .. => 0
  | .sadd .. => 0
  | .ssub .. => 0
  | .smul .. => 0
  | .smulh .. => 0
  | .sand .. => 0
  | .sor .. => 0
  | .sxor .. => 0
  | .sshl .. => 0
  | .sshlImm .. => 0
  | .sshr .. => 0
  | .sshrImm .. => 0
  | .ssra .. => 0
  | .ssraImm .. => 0
  | .smin .. => 0
  | .smax .. => 0
  | .scmp .. => 0
  | .saddi .. => 0
  | .sli .. => 0
  | .slih .. => 0
  | .ssel .. => 0
  | .sld .. => 0
  | .sst .. => 0
  | .vtos .. => 0
  | .vtosF .. => 0
  | .sclz .. => 0
  | .spopc .. => 0
  | .iadd .. => 0
  | .isub .. => 0
  | .iaddc _ _ _ _ _ _ c uc => place 0 [(c.toNat, 6, 1), (b2n uc, 1, 0)]
  | .imul .. => 0
  | .imulh .. => 0
  | .imulhu .. => 0
  | .imad _ _ _ _ _ c uc => place 0 [(c.toNat, 6, 1), (b2n uc, 1, 0)]
  | .imin .. => 0
  | .imax .. => 0
  | .iminu .. => 0
  | .imaxu .. => 0
  | .iabs .. => 0
  | .and .. => 0
  | .or .. => 0
  | .xor .. => 0
  | .andn .. => 0
  | .shl .. => 0
  | .shlImm .. => 0
  | .shr .. => 0
  | .shrImm .. => 0
  | .sra .. => 0
  | .sraImm .. => 0
  | .rol .. => 0
  | .rolImm .. => 0
  | .bfx .. => 0
  | .bfi _ _ _ _ _ c uc => place 0 [(c.toNat, 6, 1), (b2n uc, 1, 0)]
  | .popc .. => 0
  | .clz .. => 0
  | .brev .. => 0
  | .icmp .. => 0
  | .sel _ _ _ _ _ p => place 0 [(p.toNat, 3, 0)]
  | .mov .. => 0
  | .li .. => 0
  | .lih .. => 0
  | .iaddi _ _ _ imm => place 0 [(imm.toNat / 512, 7, 0)]
  | .tag .. => 0
  | .pset .. => 0
  | .pget .. => 0
  | .vfree .. => 0
  | .fadd .. => 0
  | .fsub .. => 0
  | .fmul .. => 0
  | .ffma _ _ _ _ _ c uc => place 0 [(c.toNat, 6, 1), (b2n uc, 1, 0)]
  | .fmin .. => 0
  | .fmax .. => 0
  | .fminn .. => 0
  | .fmaxn .. => 0
  | .fabs .. => 0
  | .fneg .. => 0
  | .fcmp .. => 0
  | .fclmp _ _ _ _ _ c uc => place 0 [(c.toNat, 6, 1), (b2n uc, 1, 0)]
  | .frnd .. => 0
  | .ffrac .. => 0
  | .frcp .. => 0
  | .frsq .. => 0
  | .fsqrt .. => 0
  | .fex2 .. => 0
  | .flg2 .. => 0
  | .fsin .. => 0
  | .fcos .. => 0
  | .fcvt .. => 0
  | .icvtf .. => 0
  | .fcvti .. => 0
  | .hadd2 .. => 0
  | .hmul2 .. => 0
  | .hfma2 _ _ _ _ _ c uc => place 0 [(c.toNat, 6, 1), (b2n uc, 1, 0)]
  | .fdot4 _ _ _ _ _ c uc => place 0 [(c.toNat, 6, 1), (b2n uc, 1, 0)]
  | .fdot8 _ _ _ _ _ c uc => place 0 [(c.toNat, 6, 1), (b2n uc, 1, 0)]
  | .pack .. => 0
  | .unpk .. => 0
  | .xshf .. => 0
  | .xrot .. => 0
  | .xbc .. => 0
  | .xstep .. => 0
  | .xred .. => 0
  | .xscn .. => 0
  | .xbal .. => 0
  | .xcnt .. => 0
  | .xfst .. => 0
  | .rsvup _ _ _ _ _ c uc => place 0 [(c.toNat, 6, 1), (b2n uc, 1, 0)]
  | .rsvmrg .. => 0
  | .rsvfin .. => 0
  | .aadd .. => 0
  | .ashl .. => 0
  | .ashlImm .. => 0
  | .aand .. => 0
  | .amov .. => 0
  | .ali .. => 0
  | .aform .. => 0
  | .ldB _ _ _ _ _ _ off => place 0 [(off.toNat, 7, 0)]
  | .ldBs _ _ _ _ _ _ off => place 0 [(off.toNat, 7, 0)]
  | .ldH _ _ _ _ _ _ off => place 0 [(off.toNat, 7, 0)]
  | .ldHs _ _ _ _ _ _ off => place 0 [(off.toNat, 7, 0)]
  | .ldW _ _ _ _ _ _ off => place 0 [(off.toNat, 7, 0)]
  | .ldd _ _ _ _ _ _ off => place 0 [(off.toNat, 7, 0)]
  | .ldq _ _ _ _ _ _ off => place 0 [(off.toNat, 7, 0)]
  | .ldc _ _ _ _ off => place 0 [(off.toNat, 7, 0)]
  | .ldu _ _ _ _ off => place 0 [(off.toNat, 7, 0)]
  | .ldsB _ _ _ _ _ off => place 0 [(off.toNat, 7, 0)]
  | .ldsBs _ _ _ _ _ off => place 0 [(off.toNat, 7, 0)]
  | .ldsH _ _ _ _ _ off => place 0 [(off.toNat, 7, 0)]
  | .ldsHs _ _ _ _ _ off => place 0 [(off.toNat, 7, 0)]
  | .ldsW _ _ _ _ _ off => place 0 [(off.toNat, 7, 0)]
  | .ldsc _ _ _ off => place 0 [(off.toNat, 7, 0)]
  | .stB _ _ _ _ _ _ _ off => place 0 [(off.toNat, 7, 0)]
  | .stH _ _ _ _ _ _ _ off => place 0 [(off.toNat, 7, 0)]
  | .stW _ _ _ _ _ _ _ off => place 0 [(off.toNat, 7, 0)]
  | .std _ _ _ _ _ _ _ off => place 0 [(off.toNat, 7, 0)]
  | .stq _ _ _ _ _ _ _ off => place 0 [(off.toNat, 7, 0)]
  | .stc _ _ _ _ _ off => place 0 [(off.toNat, 7, 0)]
  | .stsB _ _ _ _ _ _ off => place 0 [(off.toNat, 7, 0)]
  | .stsH _ _ _ _ _ _ off => place 0 [(off.toNat, 7, 0)]
  | .stsW _ _ _ _ _ _ off => place 0 [(off.toNat, 7, 0)]
  | .stsc _ _ _ _ off => place 0 [(off.toNat, 7, 0)]
  | .amo _ _ _ _ _ _ _ op => place 0 [(op.toNat, 4, 0)]
  | .cas _ _ _ _ _ _ _ c uc => place 0 [(c.toNat, 6, 1), (b2n uc, 1, 0)]
  | .amos _ _ _ _ _ _ _ op => place 0 [(op.toNat, 4, 0)]
  | .cass _ _ _ _ _ _ _ c uc => place 0 [(c.toNat, 6, 1), (b2n uc, 1, 0)]
  | .waita _ _ _ _ _ _ _ cond acq scope ext => place 0 [(b2n ext, 1, 6), (scope.toNat, 3, 3), (b2n acq, 1, 2), (cond.toNat, 2, 0)]
  | .sig _ _ _ _ _ _ op rel scope ext => place 0 [(b2n ext, 1, 6), (scope.toNat, 3, 3), (b2n rel, 1, 2), (op.toNat, 2, 0)]
  | .fence kind scope ext => place 0 [(b2n ext, 1, 6), (scope.toNat, 3, 3), (kind.toNat, 2, 0)]
  | .lda _ _ _ _ _ scope ext => place 0 [(b2n ext, 1, 6), (scope.toNat, 3, 3)]
  | .stl _ _ _ _ _ _ scope ext => place 0 [(b2n ext, 1, 6), (scope.toNat, 3, 3)]
  | .pref _ _ _ _ _ off => place 0 [(off.toNat, 7, 0)]
  | .wbr .. => 0
  | .invr .. => 0
  | .trace _ _ _ flags => place 0 [(flags.toNat, 3, 0)]
  | .tracec _ _ _ flags h => place 0 [(h.toNat, 4, 3), (flags.toNat, 3, 0)]
  | .visq _ _ _ _ n => place 0 [(n.toNat, 5, 0)]
  | .tsamp _ _ _ flt adr lod => place 0 [(b2n lod, 1, 4), (adr.toNat, 2, 2), (flt.toNat, 2, 0)]
  | .tsize _ _ l => place 0 [(l.toNat, 4, 0)]
  | .mzero .. => 0
  | .mchb .. => 0
  | .mche .. => 0
  | .mma .. => 0
  | .macl .. => 0
  | .mdst .. => 0
  | .mstg .. => 0
  | .shp .. => 0
  | .cpy .. => 0
  | .cpym .. => 0
  | .owng .. => 0
  | .ownt .. => 0
  | .qcfg .. => 0
  | .qpush .. => 0
  | .qpop .. => 0
  | .qtry .. => 0
  | .tsub .. => 0
  | .tdep .. => 0
  | .emit .. => 0
  | .cont .. => 0
  | .keyrel .. => 0
  | .qsub .. => 0
  | .cred .. => 0
  | .cbc .. => 0
  | .cag .. => 0
  | .crs .. => 0
  | .coreIssueCycle .. => 0
  | .fairnessExpiry .. => 0
  | .resultLanding .. => 0
  | .spillComplete .. => 0
  | .fillComplete .. => 0
  | .loadPerformed .. => 0
  | .storePerformed .. => 0
  | .atomicPerformed .. => 0
  | .faultRecordWrite .. => 0
  | .waitaWake .. => 0
  | .waitaPoll .. => 0
  | .waitaTimeout .. => 0
  | .asyncTrapDelivery .. => 0
  | .preemptDeadlineExpiry .. => 0
  | .forcedSave .. => 0
  | .courseResume .. => 0
  | .blockBind .. => 0
  | .blockAdmission .. => 0
  | .mmaComplete .. => 0
  | .mzeroComplete .. => 0
  | .mcheComplete .. => 0
  | .mdstComplete .. => 0
  | .maclLanding .. => 0
  | .copyStart .. => 0
  | .copyComplete .. => 0
  | .stagingUnitArrival .. => 0
  | .stagingUnitDrain .. => 0
  | .collectiveStart .. => 0
  | .collectiveComplete .. => 0
  | .taskGrant .. => 0
  | .tdepDecrement .. => 0
  | .keyrelEffect .. => 0
  | .continuationWake .. => 0
  | .graphBlockBind .. => 0
  | .spireWindow .. => 0
  | .waitPacketComplete .. => 0
  | .streamStart .. => 0
  | .portalWrite .. => 0
  | .quantumExpiry .. => 0
  | .ageingStep .. => 0
  | .watchdogFire .. => 0
  | .queueCreate .. => 0
  | .queueDestroy .. => 0
  | .bindRecordWrite .. => 0
  | .ctxpdlWrite .. => 0
  | .ktrepWrite .. => 0
  | .tlbinvnWrite .. => 0
  | .tlbinvWrite .. => 0
  | .tlbinvDone => 0
  | .fltrespRetry .. => 0
  | .fltrespFailUnmapped .. => 0
  | .fltrespFailPermission .. => 0
  | .govstepWrite .. => 0
  | .govdWrite .. => 0
  | .registerWrite .. => 0
  | .dieCacheWriteback .. => 0
  | .hostBarAccess .. => 0
  | .pcieCompletion .. => 0
  | .pcieRequestTimeout .. => 0
  | .softErrorCorrected .. => 0
  | .uncorrectableError .. => 0
  | .coreLoss .. => 0
  | .mortarLaneFail .. => 0
  | .thermalStepUp .. => 0
  | .thermalStepDown .. => 0
  | .thermalStop .. => 0
  | .thermalResume .. => 0
  | .powerOn .. => 0
  | .svnFuseRaise => 0
  | .getVersion => 0
  | .getCapabilities => 0
  | .negotiateAlgorithms .. => 0
  | .getDigests => 0
  | .getCertificate .. => 0
  | .challenge .. => 0
  | .getMeasurements .. => 0
  | .contextCreate .. => 0
  | .contextReset .. => 0
  | .flitRead .. => 0
  | .flitWrite .. => 0
  | .flitAtomic .. => 0
  | .flitReduce .. => 0
  | .flitMessage .. => 0
  | .flitResponse .. => 0
  | .flitReceive .. => 0
  | .flitReplayTimeout .. => 0
  | .linkTrainTimeout .. => 0
  | .fabricRequestTimeout .. => 0
  | .responseRetentionExpiry .. => 0
  | .fixedFunctionRequestPerformed .. => 0
  | .scalarAccessPerformed .. => 0
  | .dispatcherResultWritten .. => 0
  | .rowSequencerIssue .. => 0
  | .linkTrained .. => 0
  | .unitFailure .. => 0
  | .transportUnreachableTimeout .. => 0
  | .powerLoss => 0

/-- An event of the table has no words: it is no slot instruction. -/
def isEvent : Instr → Bool
  | .nop => false
  | .bra .. => false
  | .brp .. => false
  | .brs .. => false
  | .brx .. => false
  | .call .. => false
  | .callx .. => false
  | .ret => false
  | .loopi .. => false
  | .loop .. => false
  | .jarm .. => false
  | .jwait .. => false
  | .yld => false
  | .exit => false
  | .trap .. => false
  | .eret => false
  | .waitc .. => false
  | .mfs .. => false
  | .mts .. => false
  | .save .. => false
  | .rest .. => false
  | .pdone => false
  | .govq .. => false
  | .sadd .. => false
  | .ssub .. => false
  | .smul .. => false
  | .smulh .. => false
  | .sand .. => false
  | .sor .. => false
  | .sxor .. => false
  | .sshl .. => false
  | .sshlImm .. => false
  | .sshr .. => false
  | .sshrImm .. => false
  | .ssra .. => false
  | .ssraImm .. => false
  | .smin .. => false
  | .smax .. => false
  | .scmp .. => false
  | .saddi .. => false
  | .sli .. => false
  | .slih .. => false
  | .ssel .. => false
  | .sld .. => false
  | .sst .. => false
  | .vtos .. => false
  | .vtosF .. => false
  | .sclz .. => false
  | .spopc .. => false
  | .iadd .. => false
  | .isub .. => false
  | .iaddc .. => false
  | .imul .. => false
  | .imulh .. => false
  | .imulhu .. => false
  | .imad .. => false
  | .imin .. => false
  | .imax .. => false
  | .iminu .. => false
  | .imaxu .. => false
  | .iabs .. => false
  | .and .. => false
  | .or .. => false
  | .xor .. => false
  | .andn .. => false
  | .shl .. => false
  | .shlImm .. => false
  | .shr .. => false
  | .shrImm .. => false
  | .sra .. => false
  | .sraImm .. => false
  | .rol .. => false
  | .rolImm .. => false
  | .bfx .. => false
  | .bfi .. => false
  | .popc .. => false
  | .clz .. => false
  | .brev .. => false
  | .icmp .. => false
  | .sel .. => false
  | .mov .. => false
  | .li .. => false
  | .lih .. => false
  | .iaddi .. => false
  | .tag .. => false
  | .pset .. => false
  | .pget .. => false
  | .vfree .. => false
  | .fadd .. => false
  | .fsub .. => false
  | .fmul .. => false
  | .ffma .. => false
  | .fmin .. => false
  | .fmax .. => false
  | .fminn .. => false
  | .fmaxn .. => false
  | .fabs .. => false
  | .fneg .. => false
  | .fcmp .. => false
  | .fclmp .. => false
  | .frnd .. => false
  | .ffrac .. => false
  | .frcp .. => false
  | .frsq .. => false
  | .fsqrt .. => false
  | .fex2 .. => false
  | .flg2 .. => false
  | .fsin .. => false
  | .fcos .. => false
  | .fcvt .. => false
  | .icvtf .. => false
  | .fcvti .. => false
  | .hadd2 .. => false
  | .hmul2 .. => false
  | .hfma2 .. => false
  | .fdot4 .. => false
  | .fdot8 .. => false
  | .pack .. => false
  | .unpk .. => false
  | .xshf .. => false
  | .xrot .. => false
  | .xbc .. => false
  | .xstep .. => false
  | .xred .. => false
  | .xscn .. => false
  | .xbal .. => false
  | .xcnt .. => false
  | .xfst .. => false
  | .rsvup .. => false
  | .rsvmrg .. => false
  | .rsvfin .. => false
  | .aadd .. => false
  | .ashl .. => false
  | .ashlImm .. => false
  | .aand .. => false
  | .amov .. => false
  | .ali .. => false
  | .aform .. => false
  | .ldB .. => false
  | .ldBs .. => false
  | .ldH .. => false
  | .ldHs .. => false
  | .ldW .. => false
  | .ldd .. => false
  | .ldq .. => false
  | .ldc .. => false
  | .ldu .. => false
  | .ldsB .. => false
  | .ldsBs .. => false
  | .ldsH .. => false
  | .ldsHs .. => false
  | .ldsW .. => false
  | .ldsc .. => false
  | .stB .. => false
  | .stH .. => false
  | .stW .. => false
  | .std .. => false
  | .stq .. => false
  | .stc .. => false
  | .stsB .. => false
  | .stsH .. => false
  | .stsW .. => false
  | .stsc .. => false
  | .amo .. => false
  | .cas .. => false
  | .amos .. => false
  | .cass .. => false
  | .waita .. => false
  | .sig .. => false
  | .fence .. => false
  | .lda .. => false
  | .stl .. => false
  | .pref .. => false
  | .wbr .. => false
  | .invr .. => false
  | .trace .. => false
  | .tracec .. => false
  | .visq .. => false
  | .tsamp .. => false
  | .tsize .. => false
  | .mzero .. => false
  | .mchb .. => false
  | .mche .. => false
  | .mma .. => false
  | .macl .. => false
  | .mdst .. => false
  | .mstg .. => false
  | .shp .. => false
  | .cpy .. => false
  | .cpym .. => false
  | .owng .. => false
  | .ownt .. => false
  | .qcfg .. => false
  | .qpush .. => false
  | .qpop .. => false
  | .qtry .. => false
  | .tsub .. => false
  | .tdep .. => false
  | .emit .. => false
  | .cont .. => false
  | .keyrel .. => false
  | .qsub .. => false
  | .cred .. => false
  | .cbc .. => false
  | .cag .. => false
  | .crs .. => false
  | .coreIssueCycle .. => true
  | .fairnessExpiry .. => true
  | .resultLanding .. => true
  | .spillComplete .. => true
  | .fillComplete .. => true
  | .loadPerformed .. => true
  | .storePerformed .. => true
  | .atomicPerformed .. => true
  | .faultRecordWrite .. => true
  | .waitaWake .. => true
  | .waitaPoll .. => true
  | .waitaTimeout .. => true
  | .asyncTrapDelivery .. => true
  | .preemptDeadlineExpiry .. => true
  | .forcedSave .. => true
  | .courseResume .. => true
  | .blockBind .. => true
  | .blockAdmission .. => true
  | .mmaComplete .. => true
  | .mzeroComplete .. => true
  | .mcheComplete .. => true
  | .mdstComplete .. => true
  | .maclLanding .. => true
  | .copyStart .. => true
  | .copyComplete .. => true
  | .stagingUnitArrival .. => true
  | .stagingUnitDrain .. => true
  | .collectiveStart .. => true
  | .collectiveComplete .. => true
  | .taskGrant .. => true
  | .tdepDecrement .. => true
  | .keyrelEffect .. => true
  | .continuationWake .. => true
  | .graphBlockBind .. => true
  | .spireWindow .. => true
  | .waitPacketComplete .. => true
  | .streamStart .. => true
  | .portalWrite .. => true
  | .quantumExpiry .. => true
  | .ageingStep .. => true
  | .watchdogFire .. => true
  | .queueCreate .. => true
  | .queueDestroy .. => true
  | .bindRecordWrite .. => true
  | .ctxpdlWrite .. => true
  | .ktrepWrite .. => true
  | .tlbinvnWrite .. => true
  | .tlbinvWrite .. => true
  | .tlbinvDone => true
  | .fltrespRetry .. => true
  | .fltrespFailUnmapped .. => true
  | .fltrespFailPermission .. => true
  | .govstepWrite .. => true
  | .govdWrite .. => true
  | .registerWrite .. => true
  | .dieCacheWriteback .. => true
  | .hostBarAccess .. => true
  | .pcieCompletion .. => true
  | .pcieRequestTimeout .. => true
  | .softErrorCorrected .. => true
  | .uncorrectableError .. => true
  | .coreLoss .. => true
  | .mortarLaneFail .. => true
  | .thermalStepUp .. => true
  | .thermalStepDown .. => true
  | .thermalStop .. => true
  | .thermalResume .. => true
  | .powerOn .. => true
  | .svnFuseRaise => true
  | .getVersion => true
  | .getCapabilities => true
  | .negotiateAlgorithms .. => true
  | .getDigests => true
  | .getCertificate .. => true
  | .challenge .. => true
  | .getMeasurements .. => true
  | .contextCreate .. => true
  | .contextReset .. => true
  | .flitRead .. => true
  | .flitWrite .. => true
  | .flitAtomic .. => true
  | .flitReduce .. => true
  | .flitMessage .. => true
  | .flitResponse .. => true
  | .flitReceive .. => true
  | .flitReplayTimeout .. => true
  | .linkTrainTimeout .. => true
  | .fabricRequestTimeout .. => true
  | .responseRetentionExpiry .. => true
  | .fixedFunctionRequestPerformed .. => true
  | .scalarAccessPerformed .. => true
  | .dispatcherResultWritten .. => true
  | .rowSequencerIssue .. => true
  | .linkTrained .. => true
  | .unitFailure .. => true
  | .transportUnreachableTimeout .. => true
  | .powerLoss => true

/-- The encoder: slot word and lend of a slot instruction. -/
def encode (i : Instr) : Word × BitVec 7 := (.ofNat 32 (encodeWord i), .ofNat 7 (encodeLend i))

/-- Four little-endian bytes of a word (R3). -/
def bytesOfWord (w : Word) : List Byte :=
  [.ofNat 8 (w.toNat % 256), .ofNat 8 (w.toNat / 2 ^ 8 % 256), .ofNat 8 (w.toNat / 2 ^ 16 % 256),
   .ofNat 8 (w.toNat / 2 ^ 24 % 256)]

/-- A header word with no guard that lends x to a slot (R102). -/
def headerFor (slot x : Nat) : Nat :=
  if x = 0 then 0
  else 0xC0000000 + (match slot with | 1 => x * 2 ^ 14 | 2 => x * 2 ^ 7 | _ => x)

/-- The 16 bytes of a bundle that holds one instruction and NOPs. -/
def bundleOf (slot : Nat) (w x : Nat) : List Byte :=
  let at_ (k : Nat) : Word := if k = slot then .ofNat 32 w else 0
  bytesOfWord (if slot = 0 then at_ 0 else .ofNat 32 (headerFor slot x)) ++ bytesOfWord (at_ 1) ++
    bytesOfWord (at_ 2) ++ bytesOfWord (at_ 3)

/-- The bundle of one instruction, encoded. -/
def encodeBundle (i : Instr) : List Byte := bundleOf (slotOf i) (encodeWord i) (encodeLend i)

/-! ## Table words

A table word does not say its slot, and one word may be an instruction in several slots. The slot taken
is the first of 3, 0, 2, 1 in which the word is an instruction; the lend is 0, and for FENCE, whose
kind 0 raises ILL, it is the kind release (log entry 7). -/

def tableLend (slot w : Nat) : Nat := if slot = 2 ∧ w = 0x3A000000 then 1 else 0

def tableSlot (w : Nat) : Option Nat :=
  [3, 0, 2, 1].find? fun k => (decodeSlot k (.ofNat 32 w) (.ofNat 7 (tableLend k w))).isOk

def tableBytes (w : Nat) : List Byte :=
  match tableSlot w with
  | some k => bundleOf k w (tableLend k w)
  | none => bundleOf 0 w 0

/-- The instruction of slot k of a bundle. -/
def Bundle.slot (b : Bundle) (k : Nat) : Instr :=
  match k with
  | 0 => b.i0
  | 1 => b.i1
  | 2 => b.i2
  | _ => b.i3

/-- The instruction the decoder reads from a word of the table, laid out as a bundle. -/
def decodeTableWord (nbits w : Nat) : Option Instr :=
  if nbits = 32 then
    match tableSlot w, decodeBytes (tableBytes w) with
    | some k, .ok b => some (b.slot k)
    | _, _ => none
  else none

end Sys2Proof
end

