-- ==== Sys2Proof/Machine/Types.lean ====
section
/-! DEFINITION. The records that the state of the package is made of: courses, blocks, cores, dies,
contexts, packets, tasks and engine commands, as the manual names them. All of it is plain data. -/

namespace Sys2Proof.Machine

/-- A vector of lanes, lane i at position i. -/
abbrev Lanes := List Word

/-! ## Course -/

/-- Lane states with their wait kinds (R11). -/
inductive LSt where
  | ready | join | conv | waita | queue | qwin | fill | waitc | retired
  deriving DecidableEq, Repr

/-- The 4-bit code under which a lane state is reported (R11). -/
def LSt.code : LSt → Nat
  | .ready => 0 | .join => 1 | .conv => 2 | .waita => 3 | .queue => 4 | .qwin => 5 | .fill => 6
  | .waitc => 7 | .retired => 15

/-- What ends the wait of a lane (R12): for a join the rejoin mask it waits on, for a convergence bundle
whether its mask is explicit, and the event that the other kinds wait for. -/
inductive Wake where
  | none
  | join (j : Nat)
  | conv (explicit : Bool)
  | counter (n t : Nat)
  | push (q : Nat) | pop (q : Nat)
  | qwRead | qwWrite
  | fill (vs : Mask)
  deriving DecidableEq, Repr

/-- The wait of a lane in WAITA (R269 to R272). -/
structure WaitA where
  va : DWord
  cond : BitVec 2
  t : Word
  acq : Bool
  scope : BitVec 3
  ext : Bool
  deadline : Option Nat
  registered : Bool
  flt : Option Nat
  /-- the read of the word on its way to the host or the fabric, and the word it brought (R271, R535) -/
  sent : Option Nat
  got : Option Word
  /-- its access has failed and is reported: the lane is released without acquiring (R257) -/
  gaveUp : Bool
  deriving DecidableEq, Repr

/-- The state of one lane (R10, R11, R43, R80, R136, R350). -/
structure Lane where
  lpc : Word
  st : LSt
  pw : BitVec 8
  lc : Word
  srs : Word
  depth : BitVec 4
  rays : List Word
  wake : Wake
  wa : Option WaitA
  deriving DecidableEq, Repr

/-- State of a map entry (R49). -/
inductive VSt where
  | unmapped | mapped | spilled
  deriving DecidableEq, Repr

/-- A spill or a fill of the entry in progress (R59, R62). -/
inductive Xfer where
  | none | spilling | filling
  deriving DecidableEq, Repr

/-- A map entry with the physical register, or the backing copy of a spilled one (R49, R60). -/
structure VEntry where
  st : VSt
  xfer : Xfer
  vals : Lanes
  tag : Tag
  live : Mask
  /-- moment of the last write, for the choice of a spill (R59) -/
  stamp : Nat
  deriving DecidableEq, Repr

/-- An operand-file register, an L register, or an entry of the queue window (R32, R40, R41). -/
structure VReg where
  vals : Lanes
  tag : Tag
  live : Mask
  deriving DecidableEq, Repr

/-- A write that has issued and has not landed, or a release that waits behind one (R50, R51, R64). -/
structure Flight where
  id : Nat
  /-- the V register written or released; none for a result that only raises flags -/
  v : Option Nat
  release : Bool
  mask : Mask
  vals : Lanes
  tag : Tag
  flags : DWord
  /-- the ac by which it lands (R64); none for a counted result -/
  due : Option Nat
  /-- its value is there and it waits only for earlier writes of the register -/
  ready : Bool
  /-- REST: the mask replaces the live mask (R153) -/
  whole : Bool
  /-- the counted operation that it is a result of: its counter goes down once the result is there (R145, R147) -/
  op : Option Nat
  deriving DecidableEq, Repr

/-- An outstanding operation of a counter N0 to N3, in issue order (R145). -/
structure Outst where
  id : Nat
  cnt : Nat
  done : Bool
  deriving DecidableEq, Repr

inductive AccSt where
  | pending
  /-- a request is on PCI Express or on the fabric (R487, R511) -/
  | sent
  | done | failed
  deriving DecidableEq, Repr

/-- One lane's access of a memory operation. -/
structure LaneAcc where
  lane : Nat
  addr : DWord
  data : List Word
  cmp : Word
  st : AccSt
  flt : Option Nat
  deriving DecidableEq, Repr

/-- What an outstanding operation of the memory engine does. -/
inductive OpKind where
  | load (bytes : Nat) (sx : Bool) (words : Nat)
  | store (bytes words : Nat)
  | amo (op : BitVec 4) (rv : Bool)
  | cas (rv : Bool)
  | sig (op : BitVec 2) (rel : Bool)
  | lda | stl
  | sld (d : Nat) | sst
  | save | rest
  | wbr | invr
  | fence (kind : BitVec 2)
  | trace (flags : BitVec 3)
  | visq (n : Nat)
  | tsamp (flt adr : BitVec 2) (lod : Bool)
  | tsize (l : Nat)
  deriving DecidableEq, Repr

/-- An operation that issued and is not performed (R257, R258). -/
structure MemOp where
  id : Nat
  kind : OpKind
  scratch : Bool
  cls : BitVec 2
  cnt : Option Nat
  dst : Option Code
  act : Mask
  lanes : List LaneAcc
  nt : Bool
  scope : BitVec 3
  ext : Bool
  base : DWord
  len : DWord
  pc : Word
  /-- issued while TCAUSE.HND = 1 (R214) -/
  hnd : Bool
  regs : List (Nat × VEntry)
  opnds : List Lanes
  /-- the failure to report: lane, subcode, address (R208, R257); and the hardware error: lane, source, address (R220) -/
  acc : Option (Nat × Nat × DWord)
  hwe : Option (Nat × Nat × DWord)
  deriving DecidableEq, Repr

structure TrapRegs where
  tvec : DWord
  tcause : DWord
  tlpc : DWord
  tlanes : DWord
  twait : DWord
  tsa : DWord
  tsb : DWord
  deriving DecidableEq, Repr

/-- The frame of R210. -/
structure Frame where
  lanes : List (LSt × Word × Wake)
  js : List Mask
  fairt : DWord
  /-- the cause that entered the handler (R154, R226) -/
  cause : Nat
  deriving DecidableEq, Repr

/-- A pending asynchronous error (R215): cause, subcode, arguments. -/
structure PendErr where
  code : Nat
  sub : Nat
  tsa : DWord
  tsb : DWord
  /-- from an access issued in the handler (R214) -/
  hnd : Bool
  /-- a trap of the partner, held back while the course's own handler runs (R33) -/
  shared : Bool
  deriving DecidableEq, Repr

/-- A request of the dispatcher to leave the core (R221). -/
structure PreReq where
  deadline : Nat
  taken : Bool
  /-- PDONE has been selected without a trap (R222) -/
  met : Bool
  /-- a forced save is required (R225) -/
  force : Bool
  /-- PDONE has been executed, and the course waits for its partner to leave with it (R223) -/
  left : Bool
  deriving DecidableEq, Repr

/-- The convergence bundle that lanes wait at, with its member mask (R27, R28). -/
structure Conv where
  pc : Word
  mask : Mask
  explicit : Bool
  deriving DecidableEq, Repr

/-- The request that stalls the course until the dispatcher answers (R417). -/
inductive DReq where
  | tsub (addr : DWord)
  | emit (addr : DWord) (i : Nat)
  | qsub (addr handle : DWord) (d : Code) (mask : Mask)
  deriving DecidableEq, Repr

/-- Where a course stands (R142, R154, R226, R413). -/
inductive Presence where
  | resident | away | forced | parked | ended
  deriving DecidableEq, Repr

/-- An MMA: offsets, K, format and tile (R295). -/
structure MmaArgs where
  tile : Nat
  a : DWord
  b : DWord
  k : DWord
  fmt : Nat
  deriving DecidableEq, Repr

/-- What a course was given when it was made (R34, R379, R380). -/
structure CourseInfo where
  block : Nat
  ctx : Nat
  die : Nat
  core : Nat
  crsid : Nat
  blkid : Word
  lnch : Word
  ctxa : DWord
  cbase : DWord
  floor : Nat
  rdn : Nat
  rdp : Nat
  rds : Nat
  partner : Option Nat
  shadow : Bool
  /-- row of the stream the course belongs to (R36) -/
  row : Option Nat
  rank : DWord
  born : Nat
  deriving DecidableEq, Repr

/-- A course (01, 02, 06, 09). -/
structure Course where
  info : CourseInfo
  lanes : List Lane
  js : List Mask
  fairt : DWord
  mode : DWord
  flags : DWord
  spills : DWord
  trap : TrapRegs
  frame : Option Frame
  pend : List PendErr
  /-- how many of the pending errors the record of a course that is away holds (R222, R224) -/
  recErrs : Nat
  /-- the frame of a handler that was cut short and goes on by itself, TVEC being 0 (R226) -/
  under : Option Frame
  lost : Bool
  pre : Option PreReq
  v : List VEntry
  o : List VReg
  l : List VReg
  sr : List DWord
  ranked : BitVec 32
  outs : List Outst
  d : List (List DWord)
  staging : Option MmaArgs
  /-- queue-window entries to be read, with their position in the window area (R32, R60) -/
  qin : List (Nat × VEntry)
  ops : List MemOp
  flights : List Flight
  convs : List Conv
  /-- with the address of the bundle that made it -/
  req : Option (Word × DReq)
  pres : Presence
  /-- page faults that are still to be answered: of the fetch or of what the dispatcher reads for the course, and of
  the context area or a pool page (R466, R533, R537) -/
  fetch : Option Nat
  area : Option Nat
  /-- the pool page that the dispatcher has chosen for the course, while a page fault of it is served (R402) -/
  page : Option Nat
  /-- an uncorrectable error in the register pool that the course's next read of a register meets (R220) -/
  poolErr : Option DWord
  deriving DecidableEq, Repr

/-! ## The bundle in issue -/

/-- A result of slot 1 or of the address ALU, for L0 and L2 (R41). -/
structure Issue where
  valid : Bool
  /-- the checks of the selection have passed (R207) -/
  pass : Bool
  course : Nat
  pc : Word
  bundle : Bundle
  /-- executing lanes, member lanes of slots 1 and 3, and the guarded masks of slots 1 to 3 -/
  exec : Mask
  g1 : Mask
  g2 : Mask
  g3 : Mask
  /-- slots 1 and 3 execute: false for lanes outside the mask of a convergence bundle (R28) -/
  inner : Bool
  /-- some READY lane lay elsewhere when the bundle issued (R19) -/
  contended : Bool
  /-- the course as the bundle reads it (R100) -/
  src : Course
  /-- registers whose lanes read different tags (R65) -/
  tags : List (Nat × List Tag)
  r1 : VReg
  r2 : VReg
  /-- writes numbered from here on are the bundle's own (R51) -/
  mark : Nat
  /-- the core, the courses it may still choose in this ac, and the pipes still free (R539) -/
  core : Nat × Nat
  more : List Nat
  pipes : Nat
  /-- in a stream: the course of column 0 as the bundle found it (R36) -/
  lead : Option Course
  /-- in a stream: slot 0 alone, ahead of the slots that the core holds back (R365) -/
  lone : Bool
  /-- in a stream: a bundle that the core has held back, with the course as it found it (R365) -/
  late : Option Course
  deriving DecidableEq, Repr

/-! ## Block -/

/-- Launch attributes (R379, R380). -/
structure Attr where
  entry : Word
  ncrs : Nat
  floor : Nat
  regcap : Nat
  spk : Nat
  tvec : Word
  shd : BitVec 16
  strm : Bool
  rdn : Nat
  rdp : Nat
  rds : Nat
  args : List DWord
  deriving DecidableEq, Repr

inductive BState where
  /-- accepted, its core not chosen (R384, R405, R411) -/
  | unbound
  | bound | resident | preempting | away | ended
  deriving DecidableEq, Repr

/-- A named queue (R324 to R326). Entries carry the pushing course; waiters are bundles, by course and address, in
the order in which they met the empty queue. -/
structure NQueue where
  q : Nat
  base : DWord
  cap : Nat
  al : Nat
  entries : List (Word × Nat)
  waiters : List (Nat × Word)
  deriving DecidableEq, Repr

/-- Chain state of a tile (R292). -/
structure Chain where
  isOpen : Bool
  ord : Bool
  deriving DecidableEq, Repr

structure BlockMem where
  /-- slots n of the allocation and physical ways held (R231) -/
  n : Nat
  ways : List Nat
  bytes : List Host.Cell
  /-- bit g * 2^a + k: owner bit of the slot with that index; 1 engine-owned (R234) -/
  owner : List Nat
  /-- engine commands that hold a slot, and the slots to flip with the command that asks for it: (slot, command) (R315) -/
  holds : List (Nat × Nat)
  flips : List (Nat × Nat)
  /-- hand-overs: slot, course, and the number below which the course's accesses come first (R238) -/
  given : List (Nat × Nat × Nat)
  tiles : List (List Word)
  /-- tiles that lie in the tile area (R284, R285) -/
  evicted : List Nat
  chains : List Chain
  queues : List NQueue
  /-- dirty-line tracker: line and mask of key entries (R406) -/
  tracker : List (Nat × BitVec 8)
  deriving DecidableEq, Repr

structure Block where
  ctx : Nat
  die : Nat
  core : Nat
  lnch : Word
  blkid : Word
  attr : Attr
  state : BState
  courses : List Nat
  /-- core set (R405) -/
  cfirst : Nat
  ccnt : Nat
  slot : Option Nat
  base : Nat
  level : Nat
  bindTime : Nat
  /-- the start of the quantum or of the wait that ageing counts, the quantum in ns, and the moment of the admission or
  resume (R386) -/
  timer : Nat
  quant : Nat
  since : Nat
  row : Option Nat
  pkt : Option Nat
  task : Option Nat
  visible : Bool
  faulted : Bool
  born : Nat
  mem : BlockMem
  /-- the course of a continuation that this block resumes, and the block it came from (R415) -/
  cont : Option (Nat × Nat)
  deriving DecidableEq, Repr

/-! ## Core -/

/-- A line of the L1 (R240): address, bytes, dirty bytes, blocks that wrote. -/
structure L1Line where
  line : Nat
  bytes : List Byte
  dirty : Mask
  writers : List Nat
  deriving DecidableEq, Repr

inductive MKind where
  | mzero | mche | mma | mdst | macl
  deriving DecidableEq, Repr

/-- A command of the matrix engine (R287). -/
structure MCmd where
  id : Nat
  /-- the place in the order received; that of a staged MMA is the landing of its payload (R288, R303) -/
  seq : Nat
  kind : MKind
  block : Nat
  course : Nat
  tile : Nat
  args : MmaArgs
  ord : Bool
  /-- k-blocks not yet applied -/
  rest : List Nat
  started : Bool
  /-- waits for the copy that carries it (R303) -/
  staged : Option Nat
  stride : DWord
  op : Nat
  cvt : Nat
  toMem : Bool
  row : Nat
  dst : Code
  mask : Mask
  flight : List Nat
  flt : Option Nat
  deriving DecidableEq, Repr

/-- A target of a copy (R313, R320). -/
structure Target where
  die : Nat
  core : Nat
  block : Nat
  /-- units sent, and slots that have their payload as a bit mask; bit 256: the flips have been asked for -/
  sent : Nat
  got : Nat
  status : Nat
  done : Bool
  deriving DecidableEq, Repr

/-- A CPY or CPYM (R317). -/
structure CopyCmd where
  id : Nat
  course : Nat
  block : Nat
  ctx : Nat
  die : Nat
  core : Nat
  dn : Nat
  w : List DWord
  cpym : Bool
  mma : Option Nat
  started : Bool
  status : Nat
  targets : List Target
  flt : Option Nat
  /-- words of a host or fabric source that have been asked for, and writes that await a response -/
  reads : List LaneAcc
  acks : List Nat
  /-- the source slots, and every slot of the issuing block, have been let go (R315, R316) -/
  drained : Bool
  freed : Bool
  /-- the one signal of the copy has been sent (R320) -/
  signalled : Bool
  /-- the pieces of the source whose line requests are counted (R474): 0 for a whole source, a slot, or a unit -/
  counted : List Nat
  deriving DecidableEq, Repr

structure Core where
  l1 : List L1Line
  /-- ways that a resident block holds -/
  heldWays : List Nat
  draining : List Nat
  rr : Nat
  clk : Nat
  fenced : Bool
  mq : List MCmd
  /-- the block whose tile each physical tile holds (R284) -/
  phys : List (Option Nat)
  copies : List CopyCmd
  deriving DecidableEq, Repr

/-! ## Die -/

/-- A key-table entry (R403, R404, R407). -/
structure Key where
  st : Nat
  rcore : Nat
  nsh : Nat
  holder : BitVec 32
  lines : List Nat
  fifo : List Nat
  deriving DecidableEq, Repr

/-- A row stream (R359 to R362). -/
structure RowStream where
  id : Nat
  row : Nat
  lnch : Word
  pkt : Nat
  ctx : Nat
  attr : Attr
  skew : Nat
  ridx : Nat
  nrow : Nat
  pla : DWord
  pls : Nat
  pln : Nat
  prio : Nat
  /-- course ids by column; empty before the start -/
  courses : List Nat
  started : Bool
  visible : Bool
  slot : Nat
  /-- the page fault that the preload waits for, and the lines of its source that the host or another package has been
  asked for -/
  flt : Option Nat
  reads : List LaneAcc
  deriving DecidableEq, Repr

structure Health where
  age : Nat
  cesr : Nat
  cedc : Nat
  cehb : Nat
  ue : Nat
  margin : Nat
  peol : Nat
  dcap : Nat
  step : Nat
  floor : Nat
  fluxmax : Nat
  hflux : List Nat
  fcore : List Nat
  stopped : Bool
  deriving DecidableEq, Repr

/-- A decrement or a key release on its way (R419, R422). -/
structure OnWay where
  id : Nat
  course : Nat
  block : Nat
  ctx : Nat
  core : Nat × Nat
  lnch : Word
  /-- task handle, or key -/
  arg : DWord
  /-- operations that must be performed first -/
  after : List Nat
  deriving DecidableEq, Repr

structure Die where
  slots : List (DWord × DWord)
  binds : List (Nat × DWord × DWord)
  rot : List Nat
  window : Nat
  /-- the count of the last launch identifier given (R381) -/
  lcount : Nat
  wdt : Nat
  qnt : List Nat
  ctxsel : Nat
  keys : List (Nat × Key)
  tdeps : List OnWay
  keyrels : List OnWay
  timers : List (Nat × Nat)
  rows : List RowStream
  /-- rows whose stream of a launch has been fenced (R322, R370) -/
  rowsFenced : List (Nat × Word)
  failed : List (Nat × Nat)
  health : Health
  deriving DecidableEq, Repr

/-! ## Context -/

inductive QState where
  | created | bound | waitFault | draining | error
  deriving DecidableEq, Repr

/-- A queue of a context (R373, R392). -/
structure Queue where
  k : Nat
  ring : DWord
  wr : Nat
  rd : Nat
  state : QState
  /-- packets decoded and not complete, oldest first -/
  open_ : List Nat
  /-- the page fault that the decoding of its head waits for -/
  flt : Option Nat
  /-- the pool page that has been chosen for the head, and the page fault of it (R402) -/
  page : Option Nat
  pflt : Option Nat
  deriving DecidableEq, Repr

inductive PageSt where
  | free | allocated | reserved
  deriving DecidableEq, Repr

structure Gov where
  govd : DWord
  tail : BitVec 40
  h : List (BitVec 40)
  mark : DWord
  nstp : BitVec 32
  deriving DecidableEq, Repr

structure Ctx where
  cbase : DWord
  ctxpt : DWord
  frbase : DWord
  frsize : Nat
  frtail : Nat
  frhead : Nat
  capbase : DWord
  capsize : Nat
  rpbase : DWord
  rpsize : Nat
  /-- allocated pages and their generations (R395, R398); absent = free, generation 0 -/
  pages : List (Nat × Bool)
  gens : List (Nat × Nat)
  reserved : Nat
  errbase : DWord
  errsize : Nat
  errtail : Nat
  errhead : Nat
  errdrop : Nat
  pdl : Nat
  queues : List (Nat × Queue)
  gov : Gov
  deriving DecidableEq, Repr

/-! ## Package -/

/-- An outstanding page fault (R466): FID is uid mod 2^16. -/
structure FaultRec where
  uid : Nat
  ctx : Nat
  va : DWord
  kind : Nat
  inWalk : Bool
  die : Nat
  lnch : Word
  written : Bool
  deriving DecidableEq, Repr

/-- A cached translation (R464). -/
structure TlbEntry where
  ctx : Nat
  vpn : Nat
  level : Nat
  entry : DWord
  deriving DecidableEq, Repr

/-- A decoded packet that is not complete (R378, R382, R383). -/
structure Packet where
  ctx : Nat
  q : Nat
  die : Nat
  slot : Nat
  kind : Nat
  idx : Nat
  seq : Nat
  lnch : Word
  attr : Attr
  nblk : Nat
  next : Nat
  prio : Nat
  cfirst : Nat
  ccnt : Nat
  rot : Nat
  alive : Nat
  faults : Nat
  status : Nat
  csig : DWord
  cval : Word
  ctrl : Word
  wait : Option WaitA
  graph : Option Nat
  /-- row streams that have not ended, and how many were fenced (R370, R383) -/
  rows : List Nat
  fenced : Nat
  /-- abandoned in the ring, and complete only once every earlier packet of the queue is (R382, R392) -/
  held : Bool
  deriving DecidableEq, Repr

inductive TState where
  | pending | keywait | bound | running
  deriving DecidableEq, Repr

/-- One key entry of a task record (R396). -/
structure KeyEntry where
  key : Nat
  shared : Bool
  len : Nat
  base : DWord
  held : Bool
  deriving DecidableEq, Repr

/-- A task (R396, R399), or a block of a graph node (R410). -/
structure Task where
  handle : BitVec 32
  ctx : Nat
  page : Option Nat
  die : Nat
  state : TState
  dep : Nat
  prio : Nat
  keys : List KeyEntry
  succ : List (BitVec 32)
  csig : DWord
  cval : Word
  ctrl : Word
  attr : Attr
  cfirst : Nat
  ccnt : Nat
  slot : Option Nat
  block : Option Nat
  pkt : Option Nat
  /-- graph and node of a graph block; emissions by output -/
  graph : Option (Nat × Nat)
  emits : List Nat
  /-- pages reserved and not used, and whether they came from the node's share (R411) -/
  resv : Nat
  share : Bool
  /-- the emission page came from a node's share -/
  pageShare : Option (Nat × Nat)
  born : Nat
  lnch : Word
  deriving DecidableEq, Repr

/-- A node of a work graph (R410). -/
structure Node where
  attr : Attr
  depth : Nat
  psz : Nat
  outs : List (Nat × Nat)
  /-- pages of the reserve that the node's share holds, and whether a block holds the share -/
  share : Nat
  shareHeld : Bool
  deriving DecidableEq, Repr

structure Graph where
  ctx : Nat
  die : Nat
  pkt : Nat
  nodes : List Node
  live : Nat
  deriving DecidableEq, Repr

/-- A parked continuation (R413, R414). -/
structure Contn where
  course : Nat
  kind : Nat
  obj : DWord
  desc : Option WaitA
  mask : Mask
  resume : Word
  sreg : Nat
  lost : Bool
  /-- the wake status, once it has woken -/
  woken : Option Nat
  deriving DecidableEq, Repr

/-- A unit of a Mortar staging buffer (R475, R476). -/
structure StagUnit where
  copy : Nat
  core : Nat × Nat
  dir : Nat
  slot : Nat
  data : List (Nat × Word)
  targets : List Nat
  deriving DecidableEq, Repr

/-- A collective (R519 to R523): 0 CRED, 1 CBC, 2 CAG, 3 CRS. -/
structure Coll where
  id : Nat
  op : Nat
  course : Nat
  block : Nat
  ctx : Nat
  die : Nat
  core : Nat
  dn : Nat
  cop : Nat
  src : DWord
  dst : DWord
  n : DWord
  w : List DWord
  /-- every member has issued its matching call -/
  started : Bool
  /-- package IDs by rank, and the rank of this package -/
  members : List Nat
  rank : Nat
  /-- the destination and the residuals are written, and the signal has been sent -/
  written : Bool
  signalled : Bool
  flt : Option Nat
  /-- words of the host or of other packages that have been asked for, and writes that await a response -/
  reads : List LaneAcc
  acks : List Nat
  /-- the parts of what the engine reads whose line requests are counted (R474): 0 the list, 1 the source, 2 the residuals -/
  counted : List Nat
  /-- the words of this package that stood where the engine has written, with their addresses (R528) -/
  old : List (Nat × Word)
  deriving DecidableEq, Repr

/-- What a completion or an engine's signal wrote, for the report of its failure (R383, R487, R535). -/
structure SigInfo where
  ctx : Nat
  die : Nat
  lnch : Word
  csig : DWord
  /-- the status word of a completion, none for an engine's signal -/
  word : Option Word
  deriving DecidableEq, Repr

/-- What crossed to the outside: a posted write, a read or an atomic on PCI Express (R487, R535). -/
structure PcieReq where
  id : Nat
  pa : Nat
  /-- 0 read, 1 posted write, 2 FetchAdd, 3 Swap, 4 CAS -/
  kind : Nat
  n : Nat
  data : List Byte
  course : Nat
  op : Nat
  lane : Nat
  open_ : Bool
  sig : Option SigInfo
  /-- the context, die, core and launch that a report of its failure names (R487) -/
  ctx : Nat
  die : Nat
  core : Nat
  lnch : Word
  deriving DecidableEq, Repr

/-- What the package has answered the host: 0 Successful, 1 Memory Request Retry Status, 2 Completer Abort (R374, R455,
R486). -/
structure HostCpl where
  bar : Nat
  off : Nat
  status : Nat
  data : List Byte
  deriving DecidableEq, Repr

/-- A request on the fabric that waits for its response (R513). -/
structure FabReq where
  tag : BitVec 16
  dst : BitVec 10
  course : Nat
  op : Nat
  lane : Nat
  kind : BitVec 3
  n : Nat
  sig : Option SigInfo
  /-- the context that a report about the link names (R495) -/
  ctx : Nat
  deriving DecidableEq, Repr

/-- A port of the fabric (R508, R516, R517). -/
structure Port where
  st : Nat
  lanes : Nat
  retry : Nat
  crcerr : Nat
  seqTx : Nat
  seqRx : Nat
  unacked : List (List Byte)
  replays : Nat
  nak : Bool
  nakSent : Bool
  deriving DecidableEq, Repr

structure Fabric where
  fabid : DWord
  ports : List Port
  tag : BitVec 16
  reqs : List FabReq
  kept : List (BitVec 10 × BitVec 16 × Flit)
  sent : List Flit
  messages : List Flit
  reduces : List Flit
  /-- flits that go on by a port: those of other packages, and those that a fenced link has turned round (R510, R517) -/
  transit : List (Nat × Flit)
  /-- requests on an old route, which later ones to the same package wait for (R510) -/
  oldWay : List (BitVec 10 × BitVec 16)
  deriving DecidableEq, Repr

structure Regs where
  hbmilv : Nat
  tlbN : BitVec 32
  tlbBusy : Option DWord
  tlbBusyN : BitVec 32
  /-- held writes: true for TLBINVN (R465) -/
  tlbHeld : List (Bool × DWord)
  mbxf : List DWord
  mbhld : List DWord
  mbstl : List DWord
  lreq : List DWord
  rreq : List DWord
  hrd : List DWord
  hwr : List DWord
  hbar2 : DWord
  /-- the size of BAR2, 2^bar2 GiB (R485) -/
  bar2 : Nat
  pcap : Nat
  ppow : Nat
  linkSpares : List Nat
  deriving DecidableEq, Repr

structure Boot where
  stage : Nat
  err : Nat
  bankb : Bool
  fsvn : Nat
  flashIlv : Option Nat
  images : List (List Byte)
  /-- accepted images that are still to be started, in their order (R490) -/
  todo : List (List Byte)
  hssNext : Nat
  hssEnd : Nat
  powered : Bool
  algs : List Byte
  response : List Byte
  transcript : List Byte
  deriving DecidableEq, Repr

end Sys2Proof.Machine
end

