-- ==== Sys2Proof/Machine/State.lean ====
section
/-! DEFINITION. The state of the package, the reasons a step can stop, and the state right after reset. -/

namespace Sys2Proof.Machine

/-- Why the machine stops. -/
inductive Fault where
  /-- UNIT_FAILURE with a kind outside the table of R494: an AER fatal error, after which the package
  needs a reset. Safe: the machine stops where the manual gives nothing more. -/
  | aerFatal
  deriving DecidableEq, Repr

/-- Why an instruction has no meaning. -/
inductive Refusal where
  /-- The dispatch has no meaning for the row of this mnemonic. Safe: the machine stops. -/
  | notModelled (mnemonic : String)
  deriving DecidableEq, Repr

/-- The package. -/
structure State where
  /-- package TIME in ns (R389) -/
  time : Nat
  /-- free values read so far (log entry 4): the model's own -/
  fv : Nat
  /-- identifiers given out so far: the model's own -/
  uid : Nat
  /-- events of other agents still to happen (log entry 1): the model's own -/
  agenda : List Instr
  /-- whose turn the default schedule comes to (log entry 1): the model's own -/
  turn : Nat × Nat
  phase : Bool
  iss : Issue
  /-- bundles that the cores of a row execute in this ac (R364) -/
  rowq : List Issue
  /-- bundles that cores of a row have received and not issued, oldest first (R365) -/
  rowbuf : List Issue
  courses : List (Nat × Course)
  blocks : List (Nat × Block)
  cores : List ((Nat × Nat) × Core)
  dies : List Die
  ctxs : List (Nat × Ctx)
  mem : List Host.Cell
  /-- failed lines, and the lines of failed channels that have been overwritten whole since (R455, R494) -/
  failed : List Nat
  healed : List Nat
  /-- lines that their home die caches hold, true for dirty ones (R454) -/
  dcache : List (Nat × Bool)
  tlb : List TlbEntry
  faults : List FaultRec
  /-- answers of management: fault and code (R467) -/
  answers : List (Nat × Nat)
  pkts : List (Nat × Packet)
  tasks : List (Nat × Task)
  graphs : List (Nat × Graph)
  conts : List (Nat × Contn)
  staging : List (Nat × StagUnit)
  colls : List (Nat × Coll)
  pcie : List PcieReq
  /-- answers to reads and submissions of the host, oldest first (R374, R486) -/
  cpls : List HostCpl
  fab : Fabric
  regs : Regs
  boot : Boot
  deriving DecidableEq, Repr

/-! ## Reset -/

def VReg.zero : VReg := ⟨[], .und, 0⟩
def VEntry.empty : VEntry := ⟨.unmapped, .none, [], .und, 0, 0⟩

/-- Every field 0: the record of no course in particular. -/
def CourseInfo.zero : CourseInfo :=
  { block := 0, ctx := 0, die := 0, core := 0, crsid := 0, blkid := 0, lnch := 0, ctxa := 0, cbase := 0,
    floor := 24, rdn := 0, rdp := 0, rds := 0, partner := none, shadow := false, row := none, rank := 0,
    born := 0 }

/-- A course at its start (R14), before its launch arguments are set. -/
def Course.start (info : CourseInfo) : Course :=
  { info := info, lanes := [], js := List.replicate 8 0, fairt := 64, mode := 0x20, flags := 0, spills := 0,
    trap := ⟨0, 0, 0, 0, 0, 0, 0⟩, frame := none, pend := [], recErrs := 0, under := none, lost := false, pre := none,
    v := List.replicate 64 VEntry.empty, o := List.replicate 8 VReg.zero, l := List.replicate 4 VReg.zero,
    sr := List.replicate 32 0, ranked := 0, outs := [],
    d := List.replicate 8 (List.replicate 8 0), staging := none, qin := [], ops := [], flights := [],
    convs := [], req := none, pres := .resident, fetch := none, area := none, page := none, poolErr := none }

def Bundle.nops : Bundle := ⟨Header.none, .nop, .nop, .nop, .nop⟩

def Issue.idle : Issue :=
  { valid := false, pass := false, course := 0, pc := 0, bundle := Bundle.nops, exec := 0, g1 := 0, g2 := 0,
    g3 := 0, inner := true, contended := false, src := Course.start CourseInfo.zero, tags := [], r1 := VReg.zero,
    r2 := VReg.zero, mark := 0, core := (0, 0), more := [], pipes := 0, lead := Option.none, lone := false, late := Option.none }

/-- A core right after reset (R389, R240): no line, no holder, every way lent. -/
def Core.reset : Core :=
  { l1 := [], heldWays := [], draining := [], rr := 0, clk := 0, fenced := false, mq := [],
    phys := List.replicate 4 none, copies := [] }

/-- Health registers at reset (R498); MARGIN has no reset value in the manual (log entry 2). -/
def Health.reset : Health :=
  { age := 0, cesr := 0, cedc := 0, cehb := 0, ue := 0, margin := 0, peol := 0xFFFFFFFF, dcap := 1100,
    step := 0, floor := 0, fluxmax := 0, hflux := List.replicate 64 0, fcore := [], stopped := false }

/-- Die registers at reset (R376, R388, R403, R498). -/
def Die.reset : Die :=
  { slots := List.replicate 64 (0, 0), binds := [], rot := List.replicate 64 0, window := 0, lcount := 0,
    wdt := 2000, qnt := List.replicate 24 1000, ctxsel := 0, keys := [], tdeps := [], keyrels := [],
    timers := [], rows := [], rowsFenced := [], failed := [], health := Health.reset }

/-- A context as management creates it (R388, R394, R468, R480, R499, R533). -/
def Ctx.start : Ctx :=
  { cbase := 0, ctxpt := 0, frbase := 0, frsize := 0, frtail := 0, frhead := 0, capbase := 0,
    capsize := 0, rpbase := 0, rpsize := 0, pages := [], gens := [], reserved := 0, errbase := 0,
    errsize := 0, errtail := 0, errhead := 0, errdrop := 0, pdl := 20, queues := [],
    gov := ⟨0, 0, [0, 0, 0, 0], 0, 0⟩ }

def Port.reset : Port :=
  { st := 0, lanes := 0, retry := 0, crcerr := 0, seqTx := 0, seqRx := 0, unacked := [], replays := 0,
    nak := false, nakSent := false }

def Fabric.reset : Fabric :=
  { fabid := 0, ports := List.replicate 14 Port.reset, tag := 0, reqs := [], kept := [], sent := [],
    messages := [], reduces := [], transit := [], oldWay := [] }

/-- Package registers at reset (R458, R465, R468, R479, R486, R498). -/
def Regs.reset : Regs :=
  { hbmilv := 0, tlbN := 0, tlbBusy := none, tlbBusyN := 0, tlbHeld := [],
    mbxf := List.replicate 8 0, mbhld := List.replicate 8 0, mbstl := List.replicate 8 0,
    lreq := List.replicate 4 0, rreq := List.replicate 4 0, hrd := List.replicate 8 0,
    hwr := List.replicate 8 0, hbar2 := 0, bar2 := 9, pcap := 3400, ppow := 0, linkSpares := List.replicate 4 0 }

/-- BOOTST at reset is in its ROM stage (R491). -/
def Boot.reset : Boot :=
  { stage := 0, err := 0, bankb := false, fsvn := 0, flashIlv := none, images := [], todo := [], hssNext := 0,
    hssEnd := 0, powered := false, algs := [], response := [], transcript := [] }

/-- The package right after reset. Memory lists nothing: an unlisted byte reads 0 (log entry 3). -/
def State.reset : State :=
  { time := 0, fv := 0, uid := 1, agenda := [], turn := (0, 0), phase := false, iss := Issue.idle, rowq := [], rowbuf := [],
    courses := [], blocks := [], cores := [], dies := List.replicate 5 Die.reset, ctxs := [], mem := [],
    failed := [], healed := [], dcache := [], tlb := [], faults := [], answers := [], pkts := [], tasks := [], graphs := [],
    conts := [], staging := [], colls := [], pcie := [], cpls := [], fab := Fabric.reset, regs := Regs.reset,
    boot := Boot.reset }

end Sys2Proof.Machine
end

