-- ==== Sys2Proof/Machine/Tables.lean ====
section
/-! DEFINITION. Reading and updating the parts of the state: keyed tables, lists by position, masks, and
the accessors of courses, blocks, cores, dies and contexts. -/

namespace Sys2Proof.Machine

/-! ## Keyed tables -/

def tget {κ α : Type} [DecidableEq κ] (k : κ) : List (κ × α) → Option α
  | [] => none
  | (j, x) :: l => if k = j then some x else tget k l

/-- The table with x at k, in place when k is there, at the end when it is not. -/
def tset {κ α : Type} [DecidableEq κ] (k : κ) (x : α) : List (κ × α) → List (κ × α)
  | [] => [(k, x)]
  | (j, y) :: l => if k = j then (k, x) :: l else (j, y) :: tset k x l

def tdel {κ α : Type} [DecidableEq κ] (k : κ) (l : List (κ × α)) : List (κ × α) :=
  l.filter fun p => decide (p.1 ≠ k)

/-- The list with f applied at a position. -/
def modAt {α : Type} (n : Nat) (f : α → α) : List α → List α
  | [] => []
  | x :: l => match n with
    | 0 => f x :: l
    | k + 1 => x :: modAt k f l

def setAt {α : Type} (n : Nat) (x : α) (l : List α) : List α := modAt n (fun _ => x) l

def sumList (l : List Nat) : Nat := l.foldl (· + ·) 0

/-- The smallest element by a measure. -/
def minBy {α : Type} (f : α → Nat) : List α → Option α
  | [] => none
  | x :: l => match minBy f l with
    | none => some x
    | some y => if f y < f x then some y else some x

def insertBy {α : Type} (lt : α → α → Bool) (x : α) : List α → List α
  | [] => [x]
  | y :: l => if lt x y then x :: y :: l else y :: insertBy lt x l

/-- The list in order, equal elements as they stand. -/
def sortBy {α : Type} (lt : α → α → Bool) (l : List α) : List α := l.foldr (insertBy lt) []

/-! ## Masks -/

def Mask.has (m : Mask) (i : Nat) : Bool := m.getLsbD i
def Mask.one (i : Nat) : Mask := (1 : Mask) <<< i
/-- The lanes 0 to w - 1. -/
def Mask.low (w : Nat) : Mask := .ofNat 64 (2 ^ w - 1)
def Mask.ofPred (w : Nat) (p : Nat → Bool) : Mask :=
  .ofNat 64 ((List.range w).foldl (fun a i => if p i then a + 2 ^ i else a) 0)
/-- Lanes of a mask in ascending order. -/
def Mask.toList (m : Mask) : List Nat := (List.range 64).filter fun i => Mask.has m i
/-- The lowest lane of a mask, 0 for none. -/
def Mask.first (m : Mask) : Nat := (Mask.toList m).headD 0
def Mask.count (m : Mask) : Nat := (Mask.toList m).length

/-- Bits [lo + n - 1 : lo] of a register (R3). -/
def fld (x : DWord) (lo n : Nat) : Nat := x.toNat / 2 ^ lo % 2 ^ n
/-- x with bits [lo + n - 1 : lo] replaced. -/
def setFld (x : DWord) (lo n v : Nat) : DWord :=
  .ofNat 64 (x.toNat - fld x lo n * 2 ^ lo + v % 2 ^ n * 2 ^ lo)

/-! ## The parts of the state -/

def State.course? (s : State) (c : Nat) : Option Course := tget c s.courses
def State.course (s : State) (c : Nat) : Course := (tget c s.courses).getD (Course.start CourseInfo.zero)
def State.setCourse (s : State) (c : Nat) (x : Course) : State := { s with courses := tset c x s.courses }
/-- f applied to a course that exists. -/
def State.onCourse (s : State) (c : Nat) (f : Course → Course) : State :=
  match tget c s.courses with
  | some x => s.setCourse c (f x)
  | none => s

def State.block? (s : State) (b : Nat) : Option Block := tget b s.blocks
def State.setBlock (s : State) (b : Nat) (x : Block) : State := { s with blocks := tset b x s.blocks }
def State.onBlock (s : State) (b : Nat) (f : Block → Block) : State :=
  match tget b s.blocks with
  | some x => s.setBlock b (f x)
  | none => s

/-- The memory part of the block, empty when there is none. -/
def BlockMem.empty : BlockMem :=
  { n := 0, ways := [], bytes := [], owner := [], holds := [], flips := [], given := [], tiles := [],
    evicted := [], chains := [], queues := [], tracker := [] }
def State.blockMem (s : State) (b : Nat) : BlockMem :=
  match tget b s.blocks with
  | some x => x.mem
  | none => BlockMem.empty
def State.onBlockMem (s : State) (b : Nat) (f : BlockMem → BlockMem) : State :=
  s.onBlock b fun x => { x with mem := f x.mem }

/-- A core; one that the table does not list is as reset left it. -/
def State.core (s : State) (k : Nat × Nat) : Core := (tget k s.cores).getD Core.reset
def State.setCore (s : State) (k : Nat × Nat) (x : Core) : State := { s with cores := tset k x s.cores }
def State.onCore (s : State) (k : Nat × Nat) (f : Core → Core) : State := s.setCore k (f (s.core k))

def State.die (s : State) (d : Nat) : Die := s.dies.getD d Die.reset
def State.onDie (s : State) (d : Nat) (f : Die → Die) : State := { s with dies := modAt d f s.dies }

def State.ctx? (s : State) (c : Nat) : Option Ctx := tget c s.ctxs
def State.ctx (s : State) (c : Nat) : Ctx := (tget c s.ctxs).getD Ctx.start
def State.onCtx (s : State) (c : Nat) (f : Ctx → Ctx) : State :=
  match tget c s.ctxs with
  | some x => { s with ctxs := tset c (f x) s.ctxs }
  | none => s

def State.onRegs (s : State) (f : Regs → Regs) : State := { s with regs := f s.regs }
def State.onFab (s : State) (f : Fabric → Fabric) : State := { s with fab := f s.fab }
def State.onPkt (s : State) (p : Nat) (f : Packet → Packet) : State :=
  match tget p s.pkts with
  | some x => { s with pkts := tset p (f x) s.pkts }
  | none => s
def State.onTask (s : State) (t : Nat) (f : Task → Task) : State :=
  match tget t s.tasks with
  | some x => { s with tasks := tset t (f x) s.tasks }
  | none => s

/-- A fresh identifier of the model. -/
def State.fresh (s : State) : Nat × State := (s.uid, { s with uid := s.uid + 1 })

/-- A free choice among n outcomes (log entry 4). -/
def State.choose (s : State) (n : Nat) : Nat × State :=
  if n ≤ 1 then (0, s) else (Config.freeNat s.fv % n, { s with fv := s.fv + 1 })

/-! ## Courses -/

def Course.tower (c : Course) : Bool := Config.isTower c.info.die
/-- The number of lanes W (R6). -/
def Course.w (c : Course) : Nat := Config.lanes c.tower
def Course.coreKey (c : Course) : Nat × Nat := (c.info.die, c.info.core)

def Lane.start : Lane :=
  { lpc := 0, st := .ready, pw := 1, lc := 0, srs := 1, depth := 0, rays := [], wake := .none, wa := none }
def Lane.gone : Lane := { Lane.start with st := .retired }

def Course.lane (c : Course) (i : Nat) : Lane := c.lanes.getD i Lane.gone
/-- f applied to the lanes of a mask. -/
def Course.onLanes (c : Course) (m : Mask) (f : Nat → Lane → Lane) : Course :=
  { c with lanes := c.lanes.zipIdx.map fun p => if Mask.has m p.2 then f p.2 p.1 else p.1 }
def Course.maskOf (c : Course) (p : Lane → Bool) : Mask := Mask.ofPred c.w fun i => p (c.lane i)
def Course.live (c : Course) : Mask := c.maskOf fun l => l.st != .retired

/-- TCAUSE.HND (R217). -/
def Course.hnd (c : Course) : Bool := c.trap.tcause.getLsbD 17
/-- Mode bits (R45). -/
def Course.rm (c : Course) : Nat := fld c.mode 0 2
def Course.ftz (c : Course) : Bool := c.mode.getLsbD 2
def Course.ftm (c : Course) : Bool := c.mode.getLsbD 3
def Course.rrt (c : Course) : Bool := c.mode.getLsbD 4
def Course.ppr (c : Course) : Bool := c.mode.getLsbD 5
def Course.sre (c : Course) : Bool := c.mode.getLsbD 6
def Course.det (c : Course) : Bool := c.mode.getLsbD 7

/-- The counters N0 to N3: operations issued and not seen to be completed (R145). -/
def Course.n (c : Course) (k : Nat) : Nat := (c.outs.filter fun o => o.cnt == k).length

/-- Drops the completed operations that no earlier one of their counter waits behind, and none of whose results is still
held behind an earlier write of its register (R145, R147). -/
def settleOuts (held : Nat → Bool) : List Outst → List Nat → List Outst
  | [], _ => []
  | o :: l, blocked =>
    if o.done && !held o.id && !blocked.contains o.cnt then settleOuts held l blocked
    else o :: settleOuts held l (o.cnt :: blocked)

def Course.count (c : Course) (id cnt : Nat) : Course := { c with outs := c.outs ++ [⟨id, cnt, false⟩] }
/-- Whether a result of an operation is still on its way to its register. -/
def Course.holdsResult (c : Course) (id : Nat) : Bool := c.flights.any fun f => f.op == some id
/-- The counters with every decrement that has become visible. -/
def Course.drain (c : Course) : Course := { c with outs := settleOuts c.holdsResult c.outs [] }
def Course.complete (c : Course) (id : Nat) : Course :=
  ({ c with outs := c.outs.map fun o => if o.id = id then { o with done := true } else o } : Course).drain

/-- A scalar register. -/
def Course.s (c : Course) (i : Nat) : DWord := c.sr.getD i 0
def Course.ve (c : Course) (i : Nat) : VEntry := c.v.getD i VEntry.empty

end Sys2Proof.Machine
end

