-- ==== Sys2Proof/Machine/Flags.lean ====
section
/-! DEFINITION. FLAGS and the condition codes: raising sticky flags (R46), integer conditions (R110), and
the flags of saturating arithmetic (R168). -/

namespace Sys2Proof.Machine

/-- Writable bits of FLAGS (R46) and of MODE (R45). -/
def flagsMask : DWord := 0x1FF
def modeMask : DWord := 0xFF

/-- FLAGS with bits set; hardware never clears one (R46). -/
def Course.raise (c : Course) (f : DWord) : Course := { c with flags := c.flags ||| (f &&& flagsMask) }

/-- Integer conditions of R110 on words of any width. -/
def intCond {w : Nat} (cc : Nat) (a b : BitVec w) : Bool :=
  match cc with
  | 0 => a == b
  | 1 => a != b
  | 2 => a.slt b
  | 3 => a.sle b
  | 4 => b.slt a
  | 5 => b.sle a
  | 6 => a.ult b
  | 7 => a.ule b
  | 8 => b.ult a
  | _ => b.ule a

/-- The exact result clamped to the range of a signed or unsigned word, with SAT where the clamp acts
(R168). -/
def saturate (signed : Bool) (x : Int) : Word × DWord :=
  let lo := intMin 32 signed
  let hi := intMax 32 signed
  if x < lo then (.ofInt 32 lo, fSAT) else if hi < x then (.ofInt 32 hi, fSAT) else (.ofInt 32 x, 0)

/-- The flags that any lane of a mask raised. -/
def orFlags (m : Mask) (l : List DWord) : DWord :=
  l.zipIdx.foldl (fun a p => if Mask.has m p.2 then a ||| p.1 else a) 0

end Sys2Proof.Machine
end

