-- ==== Sys2Proof/Machine/Mem.lean ====
section
/-! DEFINITION. Memory by physical address, address translation with its walks and faults, the L1 caches
and the scratchpads (R229 to R243, R253 to R257, R454 to R474). -/

namespace Sys2Proof.Machine

/-! ## Cells

Memory is a list of (address, byte) pairs with addresses strictly rising; no entry holds 0, which is what
an unlisted address reads as (log entry 3). Scratchpads have the same form, and 0 is what R233 gives. -/

def cellGet (a : Nat) : List Host.Cell → Byte
  | [] => 0
  | (b, x) :: l => if b < a then cellGet a l else if b = a then x else 0

def cellPut (a : Nat) (v : Byte) : List Host.Cell → List Host.Cell
  | [] => if v = 0 then [] else [(a, v)]
  | (b, x) :: l =>
    if b < a then (b, x) :: cellPut a v l
    else if b = a then (if v = 0 then l else (a, v) :: l)
    else if v = 0 then (b, x) :: l else (a, v) :: (b, x) :: l

/-- Strictly rising from a lower bound, no zero byte. -/
def cellWfFrom (lo : Nat) : List Host.Cell → Bool
  | [] => true
  | (b, x) :: l => decide (lo ≤ b) && decide (x ≠ 0) && cellWfFrom (b + 1) l

/-- The canonical form of a memory. -/
def Memory.wf (m : List Host.Cell) : Bool := cellWfFrom 0 m

def cellPuts (a : Nat) : List Byte → List Host.Cell → List Host.Cell
  | [], m => m
  | v :: l, m => cellPuts (a + 1) l (cellPut a v m)

def cellGets (m : List Host.Cell) (a n : Nat) : List Byte := (List.range n).map fun i => cellGet (a + i) m

/-- Little-endian bytes to a number and back (R3). -/
def leVal : List Byte → Nat
  | [] => 0
  | b :: l => b.toNat + 256 * leVal l

def leBytes : Nat → Nat → List Byte
  | 0, _ => []
  | n + 1, v => .ofNat 8 (v % 256) :: leBytes n (v / 256)

/-! ## Physical placement (R456 to R458, R473) -/

def region (pa : Nat) : Nat := pa / 2 ^ 52 % 16

/-- XOR of the 2-bit groups of the frame number, PA[13:12] to PA[47:46] (R457). -/
def xorGroups : Nat → Nat → Nat
  | 0, _ => 0
  | n + 1, x => Nat.xor (x % 4) (xorGroups n (x / 4))

/-- The home die of a line of region 0 or 1 (R456, R457). -/
def homeDie (pa : Nat) : Nat :=
  if region pa = 1 then pa / 2 ^ 37 % 4 else xorGroups 18 (pa / 2 ^ 12)

/-- The offset of a line on its home die (R456, R457). -/
def dieOffset (pa : Nat) : Nat :=
  if region pa = 1 then pa % 2 ^ 37 else pa % 2 ^ 39 / 2 ^ 14 * 2 ^ 12 + pa % 2 ^ 12

/-- The HBM stack of a line (R473). -/
def stackOf (pa : Nat) : Nat := 2 * homeDie pa + dieOffset pa / 2 ^ 8 % 2

/-- Bits that a region leaves unused (R456, R511). -/
def unusedBits (pa : Nat) : Bool :=
  match region pa with
  | 0 | 1 => pa % 2 ^ 52 / 2 ^ 39 != 0
  | 2 => pa % 2 ^ 52 / 2 ^ 32 != 0
  | 3 => false
  | 4 => pa / 2 ^ 50 % 4 != 0
  | _ => true

/-- Whether HBMILV gives the address storage (R458). -/
def stored (ilv pa : Nat) : Bool :=
  if region pa = 1 then ilv * 2 ^ 30 ≤ pa % 2 ^ 37
  else pa % 2 ^ 39 < 4 * ilv * 2 ^ 30

/-- The package index of a fabric address, and the address on the package it names (R511). -/
def fabIndex (pa : Nat) : Nat := pa / 2 ^ 40 % 1024
def fabLocal (pa : Nat) : Nat := (if pa / 2 ^ 39 % 2 = 1 then 2 ^ 52 else 0) + pa % 2 ^ 39

/-- The package's own index, and whether an index names a package (R508, R509). -/
def State.ownIdx (s : State) : Nat := fld s.fab.fabid 0 10
def State.idxOk (s : State) (i : Nat) : Bool :=
  i % 16 ≤ fld s.fab.fabid 24 4 && i / 16 % 8 ≤ fld s.fab.fabid 28 3 && i / 128 % 8 ≤ fld s.fab.fabid 31 3

/-- Whether a fabric address names storage: its index names a package, whose HBMILV admits the address (R511). -/
def State.fabOk (s : State) (pa : Nat) : Bool :=
  s.idxOk (fabIndex pa) &&
    stored (if fabIndex pa = s.ownIdx then s.regs.hbmilv else Config.hbmilvOf (fabIndex pa)) (fabLocal pa)

def lineOf (pa : Nat) : Nat := pa / 64 * 64

def State.readPa (s : State) (pa n : Nat) : List Byte := cellGets s.mem pa n

/-- The pseudo-channel of a line: the side of its stack, and bits [13:9] of the die offset (R473). -/
def channelOf (pa : Nat) : Nat := dieOffset pa / 2 ^ 8 % 2 * 32 + dieOffset pa / 2 ^ 9 % 32

/-- Whether the pseudo-channel of a line has failed (R494, kind 3). -/
def State.channelBad (s : State) (pa : Nat) : Bool := (s.die (homeDie pa)).failed.contains (3, channelOf pa)

/-- Whether a line is failed (R455). -/
def State.lineFailed (s : State) (line : Nat) : Bool :=
  s.failed.contains line || (s.channelBad line && !s.healed.contains line)

/-- No line and no channel of the package has failed. -/
def State.sound (s : State) : Bool := s.failed.isEmpty && s.dies.all fun d => d.failed.isEmpty

/-- The lines that n bytes from an address touch, and whether they hold all of a line. -/
def linesAt (pa n : Nat) : List Nat :=
  if n = 0 then [] else (List.range ((pa % 64 + n + 63) / 64)).map fun i => lineOf pa + 64 * i
def wholeLine (pa n line : Nat) : Bool := decide (pa ≤ line) && decide (line + 64 ≤ pa + n)

/-! ## The die caches (R454, R474) -/

/-- A read or a write of one line at a stack (R474). -/
def Regs.hbm (r : Regs) (line : Nat) (wr : Bool) : Regs :=
  if wr then { r with hwr := modAt (stackOf line) (· + 1) r.hwr } else { r with hrd := modAt (stackOf line) (· + 1) r.hrd }

/-- What the die caches hold, with the counters of the stacks behind them. -/
abbrev DieCaches := List (Nat × Bool) × Regs

/-- A full die cache makes room for a line; a dirty one is written back. -/
def dieRoom (die : Nat) (p : DieCaches) : DieCaches :=
  let mine := p.1.filter fun c => homeDie c.1 == die
  if mine.length < Config.dieLines (Config.isTower die) then p
  else match mine[Config.dieVictim mine % mine.length]? with
    | some v => (p.1.filter (· != v), if v.2 then p.2.hbm v.1 true else p.2)
    | none => p

/-- A line is read or written at its home: a line that is not held is refilled from HBM first, but for a write of all of
it. -/
def dieTouch (wr whole : Bool) (line : Nat) (p : DieCaches) : DieCaches :=
  if 1 < region line then p
  else match tget line p.1 with
    | some d => if wr && !d then (tset line true p.1, p.2) else p
    | none =>
      let q := dieRoom (homeDie line) p
      (q.1 ++ [(line, wr)], if wr && whole then q.2 else q.2.hbm line false)

/-- The state with the die caches after accesses to the lines of n bytes. -/
def State.dieUse (s : State) (wr : Bool) (pa n : Nat) : State :=
  let p := (linesAt pa n).foldl (fun p l => dieTouch wr (wholeLine pa n l) l p) (s.dcache, s.regs)
  { s with dcache := p.1, regs := p.2 }

/-- The state with the die caches after one access to a line. -/
def State.dieLine (s : State) (wr whole : Bool) (line : Nat) : State :=
  let p := dieTouch wr whole line (s.dcache, s.regs)
  { s with dcache := p.1, regs := p.2 }

/-- Lines that have been overwritten whole are failed no more (R455, R494). -/
def State.heal (s : State) (l : List Nat) : State :=
  { s with failed := s.failed.filter fun x => !l.contains x,
           healed := s.healed ++ l.filter fun x => s.channelBad x && !s.healed.contains x }

/-- The failed lines that one operation has overwritten whole, by writes of n bytes at some addresses, are failed no
more (R455). -/
def State.overwrote (s : State) (ps : List (Nat × Nat)) : State :=
  let lines := ((ps.map fun p => linesAt p.1 p.2).flatten).eraseDups
  s.heal (lines.filter fun ln => s.lineFailed ln &&
    (List.range 64).all fun i => ps.any fun p => decide (p.1 ≤ ln + i) && decide (ln + i < p.1 + p.2))

/-- Bytes in memory, and nothing else. -/
def State.pokePa (s : State) (pa : Nat) (bs : List Byte) : State := { s with mem := cellPuts pa bs s.mem }

/-- A write at the home of its lines (R454). -/
def State.writePa (s : State) (pa : Nat) (bs : List Byte) : State := (s.pokePa pa bs).dieUse true pa bs.length

/-- Bytes that a store, a copy or MDST writes at the home of their lines: all bytes of a line end its failure (R455). -/
def State.storePa (s : State) (pa : Nat) (bs : List Byte) : State :=
  (s.writePa pa bs).heal ((linesAt pa bs.length).filter (wholeLine pa bs.length))

/-- Bytes read at the home of their lines. -/
def State.homeRead (s : State) (pa n : Nat) : List Byte × State := (s.readPa pa n, s.dieUse false pa n)
def State.readQ (s : State) (pa : Nat) : DWord := .ofNat 64 (leVal (s.readPa pa 8))
def State.writeQ (s : State) (pa : Nat) (v : DWord) : State := s.writePa pa (leBytes 8 v.toNat)

/-- A line request of the cores and engines of a die (R474). -/
def State.lineReq (s : State) (die pa : Nat) : State :=
  s.onRegs fun r =>
    if homeDie pa = die then { r with lreq := modAt die (· + 1) r.lreq }
    else { r with rreq := modAt die (· + 1) r.rreq }

/-- A line request, unless the same instruction has already made one for the line (R474, log entry 24). -/
def State.lineReqOnce (s : State) (die pa : Nat) (again : Bool) : State := if again then s else s.lineReq die pa

/-! ## Translation (R459 to R466) -/

/-- The outcome of a translation: an address, a page fault to serve, or an ACC subcode. -/
inductive Xlat where
  | ok (pa : Nat)
  | fault (kind : Nat) (inWalk : Bool)
  | acc (sub : Nat)
  deriving DecidableEq, Repr

inductive Use where
  | read | write | fetch
  deriving DecidableEq, Repr

/-- Bits [63:57] all equal to bit 56 (R253). -/
def canonical (va : DWord) : Bool := fld va 56 8 == 0 || fld va 56 8 == 255

/-- The frame of an entry, HDIE standing in PA[38:37] when PLC = 01 (R460). -/
def entryFrame (e : DWord) : Nat :=
  let f := e.toNat % 2 ^ 56 / 2 ^ 12 * 2 ^ 12
  if fld e 7 2 = 1 then f + fld e 9 2 * 2 ^ 37 else f

/-- Malformed entries (R461). -/
def malformed (level : Nat) (leaf : Bool) (e : DWord) : Bool :=
  let plc := fld e 7 2
  let reg := fld e 52 4
  let size := 12 + 9 * (level - 1)
  plc == 2 || fld e 3 1 != 0 || fld e 56 8 != 0 ||
  (plc == 0 && reg != 0) || (plc == 1 && (reg != 1 || fld e 37 2 != 0)) ||
  (plc == 3 && (!leaf || reg < 2 || 4 < reg)) ||
  (plc != 1 && fld e 9 2 != 0) ||
  (4 ≤ level && fld e 4 1 != 0) ||
  (leaf && entryFrame e % 2 ^ size != 0) ||
  unusedBits (entryFrame e)

/-- The base of the page of a level that holds an address, as a page number. -/
def vpnAt (level : Nat) (va : DWord) : Nat := va.toNat % 2 ^ 57 / 2 ^ (12 + 9 * (level - 1))

/-- Accessed and dirty bits do not count as a change of an entry (R464). -/
def sameEntry (a b : DWord) : Bool := (a &&& ~~~0x60#64) == (b &&& ~~~0x60#64)

/-- An entry at its home, or a cached copy of an older value (R464). -/
def State.entryAt (s : State) (ctx level pa : Nat) (va : DWord) : DWord × Bool × State :=
  let e := s.readQ pa
  let s := s.dieUse false pa 8
  let olds := s.tlb.filter fun t =>
    t.ctx == ctx && t.level == level && t.vpn == vpnAt level va && !sameEntry t.entry e
  let c := s.choose (olds.length + 1)
  let pick : DWord × Bool :=
    if c.1 = 0 then (e, false) else ((olds.map (·.entry)).getD (c.1 - 1) e, true)
  let s' := c.2
  let known := s'.tlb.any fun t => t.ctx == ctx && t.level == level && t.vpn == vpnAt level va && t.entry == pick.1
  if known || fld pick.1 0 1 = 0 then (pick.1, pick.2, s')
  else (pick.1, pick.2, { s' with tlb := s'.tlb ++ [⟨ctx, vpnAt level va, level, pick.1⟩] })

/-- Whether a 64 KiB group is consistent (R462): 16 entries with identical fields and frames that run on
within one aligned block. -/
def groupOk (es : List DWord) : Bool :=
  match es with
  | [] => true
  | e0 :: _ =>
    entryFrame e0 % 2 ^ 16 == 0 &&
    (es.zipIdx.all fun p => (p.1.toNat % 4096 / 2 ^ 7 == e0.toNat % 4096 / 2 ^ 7) &&
      (p.1.toNat % 32 == e0.toNat % 32) && entryFrame p.1 == entryFrame e0 + p.2 * 4096)

/-- The end of a walk: A and D, the permissions, and the address (R458, R460, R463). pa and home are the place and the
value of the entry that serves, e the translation it gives. None when the bits of a cached copy cannot be set, the entry
having changed since: the walk starts again. -/
def State.leafAt (s : State) (level pa : Nat) (home e : DWord) (stale : Bool) (va : DWord) (use : Use) :
    Option Xlat × State :=
  let size := 12 + 9 * (level - 1)
  let deny : Option Nat :=
    if use == .write && fld e 1 1 = 0 then some 1 else if use == .fetch && fld e 2 1 = 0 then some 2 else none
  let bits : DWord := home ||| (if use == .write && deny.isNone then 0x60 else 0x20)
  if stale && bits != home then (none, s)
  else
    let s1 := if bits == home then s else s.writeQ pa bits
    match deny with
    | some k => (some (.fault k false), s1)
    | none =>
      let addr := entryFrame e + va.toNat % 2 ^ size
      if region addr ≤ 1 && !stored s.regs.hbmilv addr then (some (.acc 2), s1) else (some (.ok addr), s1)

/-- The walk from a table, level by level (R459); cached says that cached copies of entries may serve. -/
def State.walk (s : State) (ctx : Nat) (va : DWord) (use : Use) (cached : Bool) : Nat → Nat → Option Xlat × State
  | 0, _ => (some (.acc 2), s)
  | level + 1, table =>
    let lv := level + 1
    let pa := table + 8 * (vpnAt lv va % 512)
    if !stored s.regs.hbmilv pa then (some (.acc 2), s)
    else
    let r := if cached then s.entryAt ctx lv pa va else (s.readQ pa, false, s.dieUse false pa 8)
    let e := r.1
    let s1 := r.2.2
    if lv = 1 && fld e 11 1 = 1 || lv = 1 && (s1.readQ pa).getLsbD 11 then
      -- a member of a 64 KiB group: any valid entry of an inconsistent group may serve
      let base := table + 8 * (vpnAt 1 va % 512 / 16 * 16)
      let es := (List.range 16).map fun i => s1.readQ (base + 8 * i)
      let all := es.all fun x => fld x 11 1 = 1
      let c := if all && !groupOk es then s1.choose 17 else (0, s1)
      let g := es.getD (c.1 - 1) 0
      if c.1 ≠ 0 && fld g 0 1 = 1 then
        (if malformed 1 true g then (some (.acc 2), c.2)
         else
           let g' : DWord := .ofNat 64 (g.toNat - g.toNat % 2 ^ 16 + g.toNat % 4096 + vpnAt 1 va % 16 * 4096)
           c.2.leafAt 1 (base + 8 * (c.1 - 1)) g g' false va use)
      else if fld e 0 1 = 0 then (some (.fault 0 false), c.2)
      else if malformed 1 true e then (some (.acc 2), c.2)
      else c.2.leafAt 1 pa e e r.2.1 va use
    else if fld e 0 1 = 0 then (some (.fault 0 (decide (1 < lv))), s1)
    else
      let leaf := lv = 1 || (lv ≤ 3 && fld e 4 1 = 1)
      if malformed lv leaf e then (some (.acc 2), s1)
      else if leaf then s1.leafAt lv pa e e r.2.1 va use
      else State.walk s1 ctx va use cached level (entryFrame e)

/-- A walk from the root; one whose bits could not be set walks again, by what the homes hold (R463). -/
def State.walks (s : State) (ctx : Nat) (va : DWord) (use : Use) (root : Nat) : Xlat × State :=
  let r := s.walk ctx va use true 5 root
  match r.1 with
  | some x => (x, r.2)
  | none =>
    let q := r.2.walk ctx va use false 5 root
    (q.1.getD (.acc 2), q.2)

/-- Translation of a virtual address in a context (R459, R468). -/
def State.translate (s : State) (ctx : Nat) (va : DWord) (use : Use) : Xlat × State :=
  if !canonical va then (.acc 0, s)
  else
    let root := (s.ctx ctx).ctxpt.toNat % 2 ^ 56 / 2 ^ 12 * 2 ^ 12
    if 1 < region root || unusedBits root then (.acc 2, s) else s.walks ctx va use root

/-- The outstanding fault of an access, shared by accesses that fault on one page in the same way, or a
new one (R466). -/
def State.pageFault (s : State) (ctx : Nat) (va : DWord) (kind : Nat) (inWalk : Bool) (die : Nat) (lnch : Word) :
    Nat × State :=
  let page : DWord := va &&& ~~~0xFFF#64
  match s.faults.find? fun f => f.ctx == ctx && f.va == page && f.kind == kind && f.inWalk == inWalk with
  | some f => (f.uid, s)
  | none =>
    let u := s.fresh
    (u.1, { u.2 with faults := u.2.faults ++ [⟨u.1, ctx, page, kind, inWalk, die, lnch, false⟩] })

/-- The answer of management to a fault, when there is one (R467). -/
def State.answer (s : State) (uid : Nat) : Option Nat := tget uid s.answers

/-- What an access meets: an address, a fault still to be served, or a failure with a subcode. -/
inductive Reach where
  | pa (pa : Nat)
  | wait (uid : Nat)
  | fail (sub : Nat)
  deriving DecidableEq, Repr

/-- Translation with the fault ring: an access that waits for fault flt goes on only when it has been
answered (R466, R467). -/
def State.reach (s : State) (ctx : Nat) (va : DWord) (use : Use) (die : Nat) (lnch : Word) (flt : Option Nat) :
    Reach × State :=
  let go : Reach × State :=
    let x := s.translate ctx va use
    match x.1 with
    | .ok pa => (.pa pa, x.2)
    | .acc sub => (.fail sub, x.2)
    | .fault k w => let f := x.2.pageFault ctx va k w die lnch; (.wait f.1, f.2)
  match flt with
  | none => go
  | some u =>
    match s.answer u with
    | none => (.wait u, s)
    | some 0 => go
    | some 1 => (.fail 0, s)
    | some _ => (.fail 1, s)

/-! ## The L1 (R240 to R243) -/

/-- Ways lent to the L1 of a core. -/
def State.lent (s : State) (k : Nat × Nat) : Nat :=
  Config.ways (Config.isTower k.1) - ((s.core k).heldWays.length + (s.core k).draining.length)

def State.l1? (s : State) (k : Nat × Nat) (line : Nat) : Option L1Line :=
  (s.core k).l1.find? fun l => l.line == line

/-- The mask of every byte of a line. -/
def L1Line.full : Mask := ~~~0

/-- The bytes of a line with the dirty ones merged over it. -/
def mergeDirty (dirty : Mask) (new old : List Byte) : List Byte :=
  (List.range 64).map fun i => if Mask.has dirty i then new.getD i 0 else old.getD i 0

/-- A line written back: only its dirty bytes reach the home (R240). -/
def State.writeBack (s : State) (k : Nat × Nat) (l : L1Line) : State :=
  if l.dirty = 0 then s
  else
    let s1 := s.lineReq k.1 l.line
    let s2 :=
      if l.dirty = L1Line.full then s1.storePa l.line l.bytes
      else (s1.pokePa l.line (mergeDirty l.dirty l.bytes (s1.readPa l.line 64))).dieUse true l.line 1
    s2.onCore k fun c =>
      { c with l1 := c.l1.map fun x => if x.line = l.line then { x with dirty := 0, writers := [] } else x }

/-- Bytes of one line that the core's own stores have made dirty reach their home before the course reads them there
(R244, R430; log entry 26). -/
def State.expose (s : State) (k : Nat × Nat) (pa n : Nat) : State :=
  match s.l1? k (lineOf pa) with
  | some l => if l.dirty &&& .ofNat 64 ((2 ^ n - 1) * 2 ^ (pa % 64)) = 0 then s else s.writeBack k l
  | none => s

/-- A line written back when dirty, and invalidated. -/
def State.evict (s : State) (k : Nat × Nat) (l : L1Line) : State :=
  (s.writeBack k l).onCore k fun c => { c with l1 := c.l1.filter fun x => x.line != l.line }

def State.evictLine (s : State) (k : Nat × Nat) (line : Nat) : State :=
  match s.l1? k line with
  | some l => s.evict k l
  | none => s

def setOf (k : Nat × Nat) (line : Nat) : Nat := line / 64 % Config.l1Sets (Config.isTower k.1)

/-- Bytes that an engine writes at the homes of their lines, each piece within one line: copies in the core's L1 leave it
first, and each line is one request (R302, R319, R454, R455, R474). -/
def State.engineWrite (s : State) (k : Nat × Nat) (ws : List (Nat × List Byte)) : State :=
  let lines := (ws.map fun p => lineOf p.1).eraseDups
  let whole (ln : Nat) : Bool :=
    (List.range 64).all fun i => ws.any fun p => decide (p.1 ≤ ln + i) && decide (ln + i < p.1 + p.2.length)
  let s1 := lines.foldl (fun s ln => (s.evictLine k ln).lineReq k.1 ln) s
  let s2 := (ws.foldl (fun s p => s.pokePa p.1 p.2) s1).heal (lines.filter whole)
  lines.foldl (fun s ln => s.dieLine true (whole ln) ln) s2

/-- A line brought into the L1, a free choice of victim making room in a full set (R240). -/
def State.allocLine (s : State) (k : Nat × Nat) (line : Nat) : State :=
  let same := (s.core k).l1.filter fun l => setOf k l.line == setOf k line
  let s1 :=
    if same.length < s.lent k then s
    else
      let c := s.choose same.length
      match same[c.1]? with
      | some v => c.2.evict k v
      | none => c.2
  (s1.dieUse false line 64).onCore k fun c => { c with l1 := c.l1 ++ [⟨line, s1.readPa line 64, 0, []⟩] }

/-- A load of n bytes of one line through the L1, or past it with nt (R240, R265). -/
def State.l1Load (s : State) (k : Nat × Nat) (pa n : Nat) (nt again : Bool) : List Byte × State :=
  match s.l1? k (lineOf pa) with
  | some l => ((List.range n).map fun i => l.bytes.getD (pa % 64 + i) 0, s)
  | none =>
    let s1 := s.lineReqOnce k.1 pa again
    (s.readPa pa n, if nt || s.lent k = 0 then s1.dieUse false pa n else s1.allocLine k (lineOf pa))

/-- The bytes of a line with bs at an offset, and the mask of those bytes. -/
def putBytes (l : List Byte) (off : Nat) (bs : List Byte) : List Byte :=
  l.zipIdx.map fun p => if off ≤ p.2 && p.2 < off + bs.length then bs.getD (p.2 - off) 0 else p.1
def byteMask (off n : Nat) : Mask := .ofNat 64 ((2 ^ n - 1) * 2 ^ off)

/-- A line with bytes stored into it by a block. -/
def L1Line.put (l : L1Line) (off : Nat) (bs : List Byte) (blk : Nat) : L1Line :=
  { l with bytes := putBytes l.bytes off bs, dirty := l.dirty ||| byteMask off bs.length,
           writers := if l.writers.contains blk then l.writers else l.writers ++ [blk] }

def State.l1Update (s : State) (k : Nat × Nat) (pa : Nat) (bs : List Byte) (blk : Nat) : State :=
  let f (l : L1Line) : L1Line := if l.line = lineOf pa then l.put (pa % 64) bs blk else l
  s.onCore k fun c => { c with l1 := c.l1.map f }

/-- A store of bytes of one line through the L1, or past it with nt (R240, R265). -/
def State.l1Store (s : State) (k : Nat × Nat) (pa : Nat) (bs : List Byte) (nt again : Bool) (blk : Nat) : State :=
  match s.l1? k (lineOf pa) with
  | some _ => s.l1Update k pa bs blk
  | none =>
    let s1 := s.lineReqOnce k.1 pa again
    if nt || s.lent k = 0 then s1.storePa pa bs
    else (s1.allocLine k (lineOf pa)).l1Update k pa bs blk

/-- The cache action of a release at .clu or wider: every dirty line that the block wrote is written back
and stays valid (R276). -/
def State.releaseL1 (s : State) (k : Nat × Nat) (blk : Nat) : State :=
  (s.core k).l1.foldl (fun s l => if l.writers.contains blk then s.writeBack k l else s) s

/-- A dirty line that an acquire keeps: its clean bytes are read at the home again (R276, R429; log entry 99). -/
def State.freshLine (s : State) (k : Nat × Nat) (l : L1Line) : State :=
  if l.dirty = L1Line.full then s
  else
    let s1 := (s.lineReq k.1 l.line).dieUse false l.line 64
    let new := mergeDirty l.dirty l.bytes (s.readPa l.line 64)
    s1.onCore k fun c => { c with l1 := c.l1.map fun x => if x.line = l.line then { x with bytes := new } else x }

/-- The cache action of an acquire at .clu or wider: clean lines are dropped, and the clean bytes of the others (R276,
R429, R434). -/
def State.acquireL1 (s : State) (k : Nat × Nat) : State :=
  let s1 := s.onCore k fun c => { c with l1 := c.l1.filter fun l => l.dirty != 0 }
  (s1.core k).l1.foldl (fun s l => s.freshLine k l) s1

/-- What other blocks of the core have written passes to a block with its acquire, and goes on with its releases (R432;
log entry 99). -/
def State.inherit (s : State) (k : Nat × Nat) (blk : Nat) : State :=
  let join (l : L1Line) : L1Line :=
    if l.dirty = 0 || l.writers.contains blk then l else { l with writers := l.writers ++ [blk] }
  s.onCore k fun c => { c with l1 := c.l1.map join }

/-- The scope that acts: with `.ext` it is .die at least, whose effect on the caches is that of .pkg (R276, R443, R444). -/
def extScope (ext : Bool) (scope : BitVec 3) : Nat := if ext then max scope.toNat 3 else scope.toNat

/-- The scope of the release that a CTRL word asks for (R378, R383). -/
def ctrlScope (ctrl : Word) : Nat := extScope (ctrl.getLsbD 5) (.ofNat 3 (ctrl.toNat / 4))

/-- Scopes .clu and wider act on the caches (R276). -/
def wideScope (scope : Nat) : Bool := 2 ≤ scope
def State.release (s : State) (k : Nat × Nat) (blk scope : Nat) : State :=
  if wideScope scope then s.releaseL1 k blk else s
def State.acquire (s : State) (k : Nat × Nat) (blk scope : Nat) : State :=
  let s1 := s.inherit k blk
  if wideScope scope then s1.acquireL1 k else s1

/-! ## Scratchpad (R229 to R239, R254) -/

/-- The slot index g * 32 + k or g * 64 + k of an offset (R231). -/
def slotIndex (tower : Bool) (off : Nat) : Nat := if tower then off / 2 ^ 14 % 256 else off / 2 ^ 12 % 128

/-- The block slot number 4k + g of a slot index (R231, R232). -/
def slotNumber (tower : Bool) (idx : Nat) : Nat := if tower then 4 * (idx % 64) + idx / 64 else 4 * (idx % 32) + idx / 32

/-- Whether an offset lies in an allocation of n slots (R229, R232). -/
def inAlloc (tower : Bool) (n off : Nat) : Bool :=
  (if tower then off < 2 ^ 22 else off < 2 ^ 19) && slotNumber tower (slotIndex tower off) < n

/-- The first offset of a slot. -/
def slotBase (tower : Bool) (idx : Nat) : Nat := idx * Config.slotBytes tower

def apertureBase : DWord := 0xFFFFFFFFFF800000#64
/-- The scratchpad aperture of the virtual address space (R254). -/
def inAperture (va : DWord) : Bool := apertureBase ≤ va
def apertureOff (va : DWord) : DWord := va - apertureBase

def BlockMem.read (m : BlockMem) (off n : Nat) : List Byte := cellGets m.bytes off n
def BlockMem.write (m : BlockMem) (off : Nat) (bs : List Byte) : BlockMem :=
  { m with bytes := cellPuts off bs m.bytes }
/-- The owner bit of a slot: true for engine-owned (R234). -/
def BlockMem.engineOwned (m : BlockMem) (idx : Nat) : Bool := m.owner.contains idx
def BlockMem.setOwner (m : BlockMem) (idx : Nat) (engine : Bool) : BlockMem :=
  { m with owner := if engine then (if m.owner.contains idx then m.owner else m.owner ++ [idx])
                    else m.owner.filter (· != idx) }

/-- Bytes of virtual memory written through the home of each line, for hardware areas, rings and signals:
every byte translates or nothing is written. -/
def State.reachAll (s : State) (ctx : Nat) (va : DWord) (n : Nat) (use : Use) (die : Nat) (lnch : Word)
    (flt : Option Nat) : Reach × State :=
  -- one translation for each page touched
  let pages := (va.toNat % 4096 + n + 4095) / 4096
  (List.range pages).foldl (fun (acc : Reach × State) i =>
      match acc.1 with
      | .pa _ =>
        let r := acc.2.reach ctx (if i = 0 then va else .ofNat 64 (va.toNat / 4096 * 4096 + 4096 * i)) use die lnch flt
        (match r.1 with
         | .pa p => (.pa (if i = 0 then p else match acc.1 with | .pa q => q | _ => p), r.2)
         | x => (x, r.2))
      | _ => acc) (.pa 0, s)

/-- One byte read or written by the hardware at its home, when its address translates to memory. -/
def State.hwPa (s : State) (ctx : Nat) (va : DWord) (use : Use) : Option Nat × State :=
  let x := s.translate ctx va use
  match x.1 with
  | .ok pa => (if region pa ≤ 1 then some pa else none, x.2)
  | _ => (none, x.2)

/-- n bytes of one line, read at their home; nothing is read of a line that has failed (R455). -/
def State.hwRead (s : State) (ctx : Nat) (va : DWord) (n : Nat) : Option (List Byte) × State :=
  let r := s.hwPa ctx va .read
  match r.1 with
  | some pa => if r.2.lineFailed (lineOf pa) then (none, r.2) else (some (r.2.readPa pa n), r.2.dieUse false pa n)
  | none => (none, r.2)

def State.hwWrite (s : State) (ctx : Nat) (va : DWord) (bs : List Byte) : Bool × State :=
  let r := s.hwPa ctx va .write
  match r.1 with
  | some pa => (true, r.2.writePa pa bs)
  | none => (false, r.2)

/-- Bytes over several pages, 64 at a time; false when some piece does not translate. -/
def State.hwWrites (s : State) (ctx : Nat) (va : DWord) (pieces : List (Nat × List Byte)) : Bool × State :=
  pieces.foldl (fun (acc : Bool × State) p =>
    if acc.1 then acc.2.hwWrite ctx (va + .ofNat 64 p.1) p.2 else acc) (true, s)

end Sys2Proof.Machine
end

