-- ==== Sys2Proof/Machine/Pool.lean ====
section
/-! DEFINITION. The physical register pool: held counts, floors, caps, the choice of a register to spill,
and the backing areas of spilled registers (R49, R56 to R63, R251, R469, R533). -/

namespace Sys2Proof.Machine

/-! ## Held counts -/

/-- A map entry or window entry that holds a physical register. -/
def VEntry.drawn (e : VEntry) : Bool := e.st == .mapped || e.xfer == .filling

/-- Registers a course holds for V0 to V63: mapped ones and writes in flight (R56); a register that REST
restores counts from the moment its data is there (R153). -/
def Course.regs (x : Course) : Nat :=
  (x.v.filter VEntry.drawn).length +
    (x.flights.filter fun f => f.v.isSome && !f.release && !(f.whole && f.vals.isEmpty)).length

/-- Window entries waiting to be read by the course that hold a register. -/
def Course.window (x : Course) : Nat := (x.qin.filter fun e => e.2.drawn).length

/-- The courses of the unit of a course, the primary course first (R56). -/
def State.unit (s : State) (c : Nat) : List Nat :=
  let x := s.course c
  match x.info.partner with
  | none => [c]
  | some p => if x.info.shadow then [p, c] else [c, p]

def State.unitHeld (s : State) (c : Nat) : Nat :=
  sumList ((s.unit c).map fun j => (s.course j).regs + (s.course j).window)
def State.unitFloor (s : State) (c : Nat) : Nat :=
  sumList ((s.unit c).map fun j => (s.course j).info.floor) + (if (s.unit c).length = 2 then 8 else 0)

/-- Courses that occupy a core. -/
def State.residents (s : State) (k : Nat × Nat) : List (Nat × Course) :=
  s.courses.filter fun c => c.2.coreKey == k && c.2.pres == .resident

/-- Free physical registers of a core (R47): entries of a window stay until the pair is gone. -/
def State.poolFree (s : State) (k : Nat × Nat) : Nat :=
  let pushed (x : Course) : Nat := match x.info.partner with
    | some p => if (s.course p).pres == .ended then (s.course p).window else 0
    | none => 0
  Config.pool (Config.isTower k.1) - sumList ((s.residents k).map fun c => c.2.regs + c.2.window + pushed c.2)

/-- Room under the block's cap, none without one (R58). -/
def State.capRoom (s : State) (c : Nat) : Option Nat :=
  match s.block? (s.course c).info.block with
  | none => none
  | some b =>
    if b.attr.regcap = 0xFFFF then none
    else
      let firsts := b.courses.filter fun j => !(s.course j).info.shadow
      some (sumList (firsts.map s.unitFloor) + b.attr.regcap - sumList (firsts.map s.unitHeld))

/-! ## Registers in the choice of a spill (R59) -/

/-- A register by place: a course, and Vv as v or window position j as 64 + j. -/
abbrev Loc := Nat × Nat

def State.locEntry (s : State) (l : Loc) : VEntry :=
  if l.2 < 64 then (s.course l.1).ve l.2 else (tget (l.2 - 64) (s.course l.1).qin).getD VEntry.empty

def State.onLoc (s : State) (l : Loc) (f : VEntry → VEntry) : State :=
  s.onCourse l.1 fun x =>
    if l.2 < 64 then { x with v := modAt l.2 f x.v }
    else { x with qin := x.qin.map fun e => if e.1 = l.2 - 64 then (e.1, f e.2) else e }

def VEntry.spillable (e : VEntry) : Bool := e.st == .mapped && e.xfer == .none

/-- Eligible registers of a course, those of excl standing in the bundle in issue. -/
def State.eligible (s : State) (c : Nat) (excl : List Loc) : List Loc :=
  let x := s.course c
  let still (v : Nat) : Bool := (x.ve v).spillable && !(x.flights.any fun f => f.v == some v && !f.release)
  let vs : List Loc := ((List.range 64).filter still).map fun v => (c, v)
  let qs : List Loc := (x.qin.filter fun e => e.2.spillable).map fun e => (c, 64 + e.1)
  (vs ++ qs).filter fun l => !excl.contains l

/-- The units on a core by their first courses: one of a pair stays while either course of it runs (R56). -/
def State.unitsOn (s : State) (k : Nat × Nat) : List Nat :=
  ((s.residents k).map fun c => (s.unit c.1).headD c.1).eraseDups

def State.levelOf (s : State) (c : Nat) : Nat :=
  match s.block? (s.course c).info.block with | some b => b.level | none => 0

/-- Units above their floor, in the order of step 2 of R59. -/
def State.overFloor (s : State) (k : Nat × Nat) : List Nat :=
  let excess (c : Nat) : Nat := s.unitHeld c - s.unitFloor c
  let lt (a b : Nat) : Bool :=
    excess b < excess a || (excess a == excess b && (s.levelOf a < s.levelOf b ||
      (s.levelOf a == s.levelOf b && (s.course a).info.born < (s.course b).info.born)))
  sortBy lt ((s.unitsOn k).filter fun c => 0 < excess c)

/-- The units in the order in which R59 looks for a victim of a unit that needs a register: the one that step 1 or step 2
chooses, then the others above their floor, and the requester last. -/
def State.victims (s : State) (c : Nat) (cap : Bool) : List Nat :=
  let own := (s.unit c).headD c
  let above := s.overFloor (s.course c).coreKey
  let rest (l : List Nat) : List Nat := l.filter (· != own) ++ [own]
  if cap then own :: rest above
  else match above with
    | [] => [own]
    | u :: l => u :: rest l

/-- The register to spill for a unit that needs one: of the first unit with an eligible register the one that landed
earliest, in the same ac the lowest v (R469). Of two courses of a pair with the same v the primary comes first, and window
entries, which have no v, come last: the model's choice (log entry 98). -/
def State.victim (s : State) (c : Nat) (cap : Bool) (excl : List Loc) : Option Loc :=
  let regs := (s.victims c cap).map fun u => ((s.unit u).map fun j => s.eligible j excl).flatten
  match regs.find? fun l => !l.isEmpty with
  | none => none
  | some l => minBy (fun p => (s.locEntry p).stamp * 128 + p.2) l

def State.spillOne (s : State) (c : Nat) (cap : Bool) (excl : List Loc) : State :=
  match s.victim c cap excl with
  | none => s
  | some l => s.onLoc l fun e => { e with xfer := .spilling }

/-- Spills in progress among some courses. -/
def State.spilling (s : State) (cs : List Nat) : Nat :=
  sumList (cs.map fun c => ((s.course c).v.filter fun e => e.xfer == .spilling).length +
    ((s.course c).qin.filter fun e => e.2.xfer == .spilling).length)

def State.spillMany (s : State) (c : Nat) (cap : Bool) (excl : List Loc) : Nat → State
  | 0 => s
  | n + 1 => State.spillMany (s.spillOne c cap excl) c cap excl n

/-- Registers for n draws of a course: true when there are enough, else spills have been started. -/
def State.draw (s : State) (c n : Nat) (excl : List Loc) : Bool × State :=
  let k := (s.course c).coreKey
  let capShort := match s.capRoom c with | none => 0 | some r => n - r
  let poolShort := n - s.poolFree k
  if capShort = 0 && poolShort = 0 then (true, s)
  else if capShort ≠ 0 then (false, s.spillMany c true excl (capShort - s.spilling (s.unit c)))
  else (false, s.spillMany c false excl (poolShort - s.spilling ((s.residents k).map (·.1))))

/-- Starts the fill of a spilled register when a physical register can be drawn (R62). -/
def State.startFill (s : State) (l : Loc) (excl : List Loc) : State :=
  let e := s.locEntry l
  if e.st != .spilled || e.xfer != .none then s
  else
    let d := s.draw l.1 1 (l :: excl)
    if d.1 then d.2.onLoc l fun e => { e with xfer := .filling } else d.2

/-! ## Backing areas (R60, R227, R533) -/

/-- Bytes of a backing area. -/
def backingSize (w : Nat) : Nat := 64 * w * 4 + 1024

/-- The addresses of a register's lanes and of its mask and tag. -/
def State.backing (s : State) (l : Loc) : DWord × DWord :=
  let x := s.course l.1
  let w := x.w
  if l.2 < 64 then
    let base := x.info.ctxa + 0x1000
    (base + .ofNat 64 (l.2 * w * 4), base + .ofNat 64 (64 * w * 4 + 16 * l.2))
  else
    let prim := s.course ((s.unit l.1).headD l.1)
    let base := prim.info.ctxa + 0x1000 + .ofNat 64 (backingSize w)
    let pos := (if x.info.shadow then 8 else 0) + (l.2 - 64)
    (base + .ofNat 64 (pos * w * 4), base + .ofNat 64 (16 * w * 4 + 16 * pos))

def laneBytes (w : Nat) (vals : Lanes) : List Byte :=
  ((List.range w).map fun i => leBytes 4 (vals.getD i 0).toNat).flatten

/-- The 16 bytes of a mask and a tag (R60). -/
def maskBytes (live : Mask) (tag : Nat) : List Byte := leBytes 8 live.toNat ++ leBytes 8 tag

/-- An access of the hardware to a context area: true with the translation done, else the fault of the
area is recorded; none when management has failed it (R533). -/
def State.areaReach (s : State) (c : Nat) (va : DWord) (n : Nat) (use : Use) : Option Bool × State :=
  let x := s.course c
  let r := s.reachAll x.info.ctx va n use x.info.die x.info.lnch x.area
  match r.1 with
  | .pa _ => (some true, r.2.onCourse c fun y => { y with area := none })
  | .wait u => (some false, r.2.onCourse c fun y => { y with area := some u })
  | .fail _ => (none, r.2)

/-- Accesses of the hardware to several places of the context areas of courses: each place is a course, an address and a
length; true when all can be made, none when management has failed one (R533). -/
def State.areaReaches (s : State) (l : List (Nat × DWord × Nat)) (use : Use) : Option Bool × State :=
  l.foldl (fun acc p => match acc.1 with
    | some true => acc.2.areaReach p.1 p.2.1 p.2.2 use
    | _ => acc) (some true, s)

/-- The places that the hardware writes when a course leaves its core: its record, the ray-return stacks of a Dome course, and
the window area of a pair (R60, R227, R350). -/
def State.recordPlaces (s : State) (c : Nat) : List (Nat × DWord × Nat) :=
  let x := s.course c
  (c, x.info.ctxa, 4096) :: (if x.tower then [] else [(c, x.info.ctxa + 0x8400, 1024)]) ++
    (x.qin.map fun e =>
      let b := s.backing (c, 64 + e.1)
      [(c, b.1, 4 * x.w), (c, b.2, 16)]).flatten

/-- The lines of places of virtual memory. -/
def vaLines (l : List (DWord × Nat)) : List DWord :=
  ((l.map fun p => (List.range ((p.1.toNat % 64 + p.2 + 63) / 64)).map fun i =>
    (.ofNat 64 (p.1.toNat / 64 * 64 + 64 * i) : DWord)).flatten).eraseDups

/-- A core or an engine of a die asks the homes for the lines of some places, once for each (R474). -/
def State.areaReqs (s : State) (die ctx : Nat) (l : List (DWord × Nat)) : State :=
  (vaLines l).foldl (fun s va => match (s.hwPa ctx va .read).1 with
    | some pa => s.lineReq die pa
    | none => s) s

/-- Whether a place holds a failed line, which no engine can read (R455). -/
def State.areaBad (s : State) (ctx : Nat) (l : List (DWord × Nat)) : Bool :=
  !s.sound && (vaLines l).any fun va => match (s.hwPa ctx va .read).1 with
    | some pa => s.lineFailed (lineOf pa)
    | none => false

/-- Bytes cut into pieces that lie within a page each. -/
def pieces (va : DWord) : Nat → List Byte → List (Nat × List Byte)
  | 0, _ => []
  | n + 1, bs =>
    if bs.isEmpty then []
    else
      let room := 4096 - va.toNat % 4096
      (0, bs.take room) :: (pieces (va + .ofNat 64 room) n (bs.drop room)).map fun p => (p.1 + room, p.2)

def State.putBytes (s : State) (ctx : Nat) (va : DWord) (bs : List Byte) : State :=
  (s.hwWrites ctx va (pieces va (bs.length / 4096 + 2) bs)).2

def State.getBytes (s : State) (ctx : Nat) (va : DWord) (n : Nat) : List Byte :=
  ((List.range n).map fun i =>
    match (s.hwPa ctx (va + .ofNat 64 i) .read).1 with
    | some pa => cellGet pa s.mem
    | none => 0)

/-- The lines of bytes that the hardware reads at their homes have passed through the die caches. -/
def State.useBytes (s : State) (ctx : Nat) (va : DWord) (n : Nat) : State :=
  (List.range ((va.toNat % 64 + n + 63) / 64)).foldl (fun s i =>
    match (s.hwPa ctx (.ofNat 64 (va.toNat / 64 * 64 + 64 * i)) .read).1 with
    | some pa => s.dieUse false pa 64
    | none => s) s

/-- The places of a register's backing copy. -/
def State.backPlaces (s : State) (l : Loc) : List (DWord × Nat) :=
  [((s.backing l).1, 4 * (s.course l.1).w), ((s.backing l).2, 16)]

/-- The core reads a register's backing copy: its lines are asked for, and have passed through the die caches (R454,
R474). -/
def State.useBacking (s : State) (l : Loc) : State :=
  let x := s.course l.1
  let t := s.areaReqs x.info.die x.info.ctx (s.backPlaces l)
  (t.useBytes x.info.ctx (s.backing l).1 (4 * x.w)).useBytes x.info.ctx (s.backing l).2 16

/-- The core writes a register to its backing copy (R60, R474). -/
def State.putBacking (s : State) (l : Loc) (e : VEntry) : State :=
  let x := s.course l.1
  let b := s.backing l
  ((s.areaReqs x.info.die x.info.ctx (s.backPlaces l)).putBytes x.info.ctx b.1 (laneBytes x.w e.vals)).putBytes x.info.ctx
    b.2 (maskBytes e.live (Tag.code e.tag))

/-- A register as its backing copy holds it; lanes released since stay so (R60, R62). -/
def State.backCopy (s : State) (l : Loc) (e : VEntry) : VEntry :=
  let x := s.course l.1
  let b := s.backing l
  let vals : Lanes := (List.range x.w).map fun i =>
    .ofNat 32 (leVal (s.getBytes x.info.ctx (b.1 + .ofNat 64 (4 * i)) 4))
  let live : Mask := .ofNat 64 (leVal (s.getBytes x.info.ctx b.2 8))
  { e with vals := vals, live := live &&& e.live, tag := tagOf (leVal (s.getBytes x.info.ctx (b.2 + 8) 1) % 16) }

end Sys2Proof.Machine
end

