-- ==== Sys2Proof/Machine/Signals.lean ====
section
/-! DEFINITION. Word atomics at their place, signal words, the context error ring, and what counts as
progress (R247 to R249, R266 to R274, R383, R390, R393, R535). -/

namespace Sys2Proof.Machine

/-! ## Word operations -/

/-- The new word of an AMO (R266). -/
def amoWord (op : Nat) (w v : Word) : Word :=
  match op with
  | 0 => w + v
  | 1 => w &&& v
  | 2 => w ||| v
  | 3 => w ^^^ v
  | 4 => if w.slt v then w else v
  | 5 => if w.slt v then v else w
  | 6 => if w.ult v then w else v
  | 7 => if w.ult v then v else w
  | 8 => v
  | _ => .ofNat 32 (fadd .rne false w.toNat v.toNat).1

/-- The new word of a SIG, a completion or a copy signal: add, store, or (R274). -/
def sigWord (op : Nat) (w v : Word) : Word :=
  match op with
  | 0 => w + v
  | 1 => v
  | _ => w ||| v

/-- The condition of WAITA and WAIT: NE, GE, GEU, BIT (R269). -/
def waitCond (cond : BitVec 2) (w t : Word) : Bool :=
  match cond.toNat with
  | 0 => w != t
  | 1 => !(w.slt t)
  | 2 => !(w.ult t)
  | _ => (w &&& t) != 0

def wordOf (bs : List Byte) : Word := .ofNat 32 (leVal bs)

/-- A read-modify-write of a word at its home; the line leaves the issuing core's L1 first (R268). -/
def State.rmwHome (s : State) (k : Nat × Nat) (pa : Nat) (again : Bool) (f : Word → Word) : Word × State :=
  let s1 := (s.evictLine k (lineOf pa)).lineReqOnce k.1 pa again
  let w := wordOf (s1.readPa pa 4)
  (w, (s1.dieUse false pa 4).writePa pa (leBytes 4 (f w).toNat))

/-- A read-modify-write of a scratchpad word at the port (R247). -/
def State.rmwScratch (s : State) (blk off : Nat) (f : Word → Word) : Word × State :=
  let w := wordOf ((s.blockMem blk).read off 4)
  (w, s.onBlockMem blk fun m => m.write off (leBytes 4 (f w).toNat))

/-! ## Requests that leave the package -/

/-- A request on PCI Express, open until its completion, with what a report of its failure names (R487, R535). -/
def State.pcieFor (s : State) (pa kind n : Nat) (data : List Byte) (course op lane : Nat) (isOpen : Bool)
    (ctx die core : Nat) (lnch : Word) : State :=
  let u := s.fresh
  { u.2 with pcie := u.2.pcie ++ [⟨u.1, pa, kind, n, data, course, op, lane, isOpen, none, ctx, die, core, lnch⟩] }

/-- A request of a course on PCI Express. -/
def State.pcieSend (s : State) (pa kind n : Nat) (data : List Byte) (course op lane : Nat) (isOpen : Bool) : State :=
  let i := (s.course course).info
  s.pcieFor pa kind n data course op lane isOpen i.ctx i.die i.core i.lnch

/-- A signal on PCI Express on behalf of no lane (R383, R535). -/
def State.pcieSignal (s : State) (pa kind : Nat) (data : List Byte) (g : SigInfo) : State :=
  let u := s.fresh
  { u.2 with pcie := u.2.pcie ++ [⟨u.1, pa, kind, 4, data, 0, 0, 0, kind != 1, some g, g.ctx, g.die, 0xFFFF, g.lnch⟩] }

/-- A request flit to another package, with a fresh tag (R513 to R515). -/
def State.fabRequest (s : State) (pa : Nat) (kind : BitVec 3) (op : BitVec 8) (n : Nat) (data : List Byte)
    (course mop lane : Nat) (g : Option SigInfo) : State :=
  let tag := s.fab.tag
  let ctx : Nat := match g with
    | some g => g.ctx
    | none => match tget course s.pkts with
      | some p => p.ctx
      | none => (s.course course).info.ctx
  let f : Flit := { kind := kind, rsp := false, vc := 0, len := .ofNat 8 n, dst := .ofNat 10 (fabIndex pa),
                    src := .ofNat 10 s.ownIdx, tag := tag, addr := .ofNat 40 (pa % 2 ^ 40), op := op, payload := data }
  s.onFab fun x => { x with tag := tag + 1, sent := x.sent ++ [f],
                            reqs := x.reqs ++ [⟨tag, .ofNat 10 (fabIndex pa), course, mop, lane, kind, n, g, ctx⟩] }

def State.fabSend (s : State) (pa : Nat) (kind : BitVec 3) (op : BitVec 8) (n : Nat) (data : List Byte)
    (course mop lane : Nat) : State := s.fabRequest pa kind op n data course mop lane none

/-! ## Progress (R390) -/

def State.progress (s : State) (die ctx : Nat) : State :=
  s.onDie die fun d => { d with timers := tset ctx s.time d.timers }

/-- A course whose every non-retired lane waits in a WAITA with `.ext`. -/
def Course.exempt (x : Course) : Bool :=
  x.lanes.all fun l => l.st == .retired || (l.st == .waita && match l.wa with | some w => w.ext | none => false)

def State.resCourses (s : State) (die ctx : Nat) : List (Nat × Course) :=
  s.courses.filter fun c => c.2.info.die == die && c.2.info.ctx == ctx && c.2.pres == .resident

/-- The timer stands at 0 while every resident course is exempt. -/
def State.timerZero (s : State) (die ctx : Nat) : Bool := (s.resCourses die ctx).all fun c => c.2.exempt
/-- The timer does not advance while a fault of the context on the die is outstanding, or the die is stopped (R466,
R500). -/
def State.timerHeld (s : State) (die ctx : Nat) : Bool :=
  (s.faults.any fun f => f.ctx == ctx && f.die == die) || (s.die die).health.stopped

/-- The readings of a die's monitors at a moment (R498; log entry 101). -/
def Health.sensed (h : Health) (die t : Nat) : Health :=
  { h with age := Config.sensed 0 die t % 2 ^ 16, margin := Config.sensed 1 die t % 2 ^ 16,
           peol := Config.sensed 2 die t % 2 ^ 32 }

/-- TIME moves on by n ns; timers that are held do not advance, and the monitors read anew (R390, R498). -/
def State.elapse (s : State) (n : Nat) : State :=
  let timer (d : Nat) (p : Nat × Nat) : Nat × Nat :=
    if s.timerZero d p.1 then (p.1, s.time + n) else if s.timerHeld d p.1 then (p.1, p.2 + n) else p
  let die (d : Die × Nat) : Die :=
    { d.1 with timers := d.1.timers.map (timer d.2),
               health := if n = 0 then d.1.health else d.1.health.sensed d.2 (s.time + n) }
  { s with time := s.time + n, dies := s.dies.zipIdx.map die,
           regs := { s.regs with ppow := if n = 0 then s.regs.ppow else Config.sensed 3 0 (s.time + n) % 2 ^ 12 } }

/-- TIME reaches at least t (log entry 6). -/
def State.reachTime (s : State) (t : Nat) : State := s.elapse (t - s.time)

/-- The first visible write of a block (R496). -/
def State.visible (s : State) (blk : Nat) : State := s.onBlock blk fun b => { b with visible := true }

/-! ## The error ring (R393, R499) -/

def State.errEntry (s : State) (ctx die core : Nat) (lnch : Word) (code : Nat) (a b : DWord) : State :=
  let c := s.ctx ctx
  let size := 2 ^ c.errsize
  let drop (s : State) : State := s.onCtx ctx fun x => { x with errdrop := min (x.errdrop + 1) (2 ^ 32 - 1) }
  if (c.errtail + 1) % size = c.errhead % size then drop s
  else
    let bytes := leBytes 1 code ++ leBytes 1 die ++ leBytes 2 core ++ leBytes 4 lnch.toNat ++
      leBytes 8 a.toNat ++ leBytes 8 b.toNat ++ leBytes 8 s.time
    let w := s.hwWrite ctx (c.errbase + .ofNat 64 (32 * c.errtail)) bytes
    if w.1 then w.2.onCtx ctx fun x => { x with errtail := (x.errtail + 1) % size } else drop w.2

/-! ## Signal words -/

/-- The OP byte of a SIG on the fabric: bit 5, and the AMO that it amounts to (R515). -/
def sigOpByte (op : Nat) : BitVec 8 := .ofNat 8 (0x20 + (if op = 0 then 0 else if op = 1 then 8 else 2))

/-- What became of the signal write of an engine: performed, sent out and to be answered, or not made. -/
inductive Signalled where
  | done
  | sent
  | wait (uid : Nat)
  | fail
  deriving DecidableEq, Repr

/-- The lane number of the signal write of an engine's command, and the place of its answer among those awaited. -/
def signalLane : Nat := 2 ^ 33
def signalAck : Nat := 2 ^ 32

/-- The signal write of the command id of a course to a virtual address, made by an engine for a core (R274, R320, R535). -/
def State.engineSignal (s : State) (course id : Nat) (k : Nat × Nat) (ctx : Nat) (lnch : Word) (va : DWord) (op : Nat)
    (v : Word) (flt : Option Nat) : Signalled × State :=
  let r := s.reach ctx va .write k.1 lnch flt
  match r.1 with
  | .wait u => (.wait u, r.2)
  | .fail _ => (.fail, r.2)
  | .pa pa =>
    let t := r.2.progress k.1 ctx
    match region pa with
    | 0 | 1 => (.done, (t.rmwHome k pa false fun w => sigWord op w v).2)
    | 3 =>
      if op = 0 then (.sent, t.pcieSend pa 2 4 (leBytes 4 v.toNat) course id signalLane true)
      else if op = 1 then (.done, t.pcieSend pa 1 4 (leBytes 4 v.toNat) course id signalLane false)
      else (.fail, r.2)
    | 4 =>
      if !r.2.fabOk pa then (.fail, r.2)
      else if fabIndex pa = r.2.ownIdx then (.done, (t.rmwHome k (fabLocal pa) false fun w => sigWord op w v).2)
      else (.sent, t.fabSend pa 2 (sigOpByte op) 4 (leBytes 4 v.toNat) course id signalLane)
    | _ => (.fail, r.2)

/-! ## Packet completion (R383) -/

/-- The status word of a packet, then its signal; a CSIG that fails writes neither and is logged. -/
def State.completeSignal (s : State) (ctx die : Nat) (lnch : Word) (csig : DWord) (cval ctrl : Word)
    (status count : Nat) : State :=
  if csig = 0 then s.progress die ctx
  else
    let word : Word := .ofNat 32 (status + count % 2 ^ 24 * 256)
    let cop := ctrl.toNat % 4
    let g : SigInfo := ⟨ctx, die, lnch, csig, some word⟩
    let fail (s : State) : State := s.errEntry ctx die 0xFFFF lnch 0x09 csig (word.setWidth 64)
    let local_ (s : State) (pa : Nat) : State :=
      ((s.writePa (pa + 4) (leBytes 4 word.toNat)).rmwHome (die, 0) pa false fun w => sigWord cop w cval).2
    let s := s.progress die ctx
    if inAperture csig then fail s
    else
      let x := s.translate ctx csig .write
      match x.1 with
      | .ok pa =>
        if region pa ≤ 1 then local_ x.2 pa
        else if region pa = 3 && cop < 2 then
          (x.2.pcieSignal (pa + 4) 1 (leBytes 4 word.toNat) g).pcieSignal pa (if cop = 0 then 2 else 1)
            (leBytes 4 cval.toNat) g
        else if region pa = 4 && x.2.fabOk pa then
          (if fabIndex pa = x.2.ownIdx then local_ x.2 (fabLocal pa)
           else
             (x.2.fabRequest (pa + 4) 1 0 4 (leBytes 4 word.toNat) 0 0 0 (some g)).fabRequest pa 2 (sigOpByte cop) 4
               (leBytes 4 cval.toNat) 0 0 0 (some g))
        else fail x.2
      | _ => fail x.2

/-- A packet completes: the signal, and its place in its queue ends; a queue that drains goes with its last packet
(R382, R383, R392). -/
def State.completeOne (s : State) (p status count : Nat) : State :=
  match tget p s.pkts with
  | none => s
  | some x =>
    let s1 := s.completeSignal x.ctx x.die x.lnch x.csig x.cval x.ctrl status count
    let left (q : Nat × Queue) : Nat × Queue := (q.1, { q.2 with open_ := q.2.open_.filter (· != p) })
    let s2 := s1.onCtx x.ctx fun c =>
      { c with queues := (c.queues.map left).filter fun q => !(q.2.state == .draining && q.2.open_.isEmpty) }
    { s2 with pkts := tdel p s2.pkts }

/-- Abandoned packets that waited for the packets before them complete, one after another (R382, R392). -/
def State.completeHeld (s : State) (ctx q : Nat) : Nat → State
  | 0 => s
  | n + 1 =>
    match (tget q (s.ctx ctx).queues).bind fun x => x.open_.head? with
    | none => s
    | some p => match tget p s.pkts with
      | none => s
      | some x => if x.held then State.completeHeld (s.completeOne p 1 x.nblk) ctx q n else s

/-- A packet completes, and with it the abandoned ones that waited for it. -/
def State.completePkt (s : State) (p status count : Nat) : State :=
  match tget p s.pkts with
  | none => s
  | some x => (s.completeOne p status count).completeHeld x.ctx x.q s.pkts.length

/-- Status and count of a packet whose last block has ended: a fault of a block comes before everything (R383, R538). -/
def Packet.outcome (x : Packet) : Nat × Nat :=
  if 0 < x.faults then (2, x.faults)
  else if 0 < x.fenced then (3, x.fenced)
  else if x.status = 1 then (1, x.nblk - x.next)
  else (0, 0)

/-- Completes the packet when nothing of it is left (R382). -/
def State.settlePkt (s : State) (p : Nat) : State :=
  match tget p s.pkts with
  | none => s
  | some x =>
    if x.alive = 0 && (x.nblk ≤ x.next || x.status = 1) && x.rows.isEmpty && x.wait.isNone && !x.held then
      s.completePkt p x.outcome.1 x.outcome.2
    else s

end Sys2Proof.Machine
end

