-- ==== Sys2Proof/Machine/Sched.lean ====
section
/-! DEFINITION. The dispatcher's shared operations: launch identifiers, record pages, the key table, tasks,
graphs, binding, and the end of a block (R233, R381 to R412, R538). -/

namespace Sys2Proof.Machine

/-! ## Launch identifiers (R381) -/

def State.lnchLive (s : State) (l : Word) : Bool :=
  (s.pkts.any fun p => p.2.lnch == l && p.2.kind ≤ 3) || (s.blocks.any fun b => b.2.lnch == l) ||
  (s.tasks.any fun t => t.2.lnch == l && t.2.state != .pending && t.2.state != .keywait)

def nextLnch (s : State) (die : Nat) : Nat → Nat → Option Nat
  | 0, _ => none
  | n + 1, c =>
    if s.lnchLive (.ofNat 32 (die * 2 ^ 29 + c % 2 ^ 29)) then nextLnch s die n (c + 1) else some (c % 2 ^ 29)

/-- A launch identifier of a die, none when every one tried is live: lcount is the count of the last one given, so
that the first has the count 1 (log entry 25). -/
def State.newLnch (s : State) (die : Nat) : Option (Word × State) :=
  match nextLnch s die (s.pkts.length + s.blocks.length + s.tasks.length + 1) ((s.die die).lcount + 1) with
  | none => none
  | some c => some (.ofNat 32 (die * 2 ^ 29 + c), s.onDie die fun d => { d with lcount := c })

/-! ## Record pages (R394, R395) -/

def Ctx.rpfree (c : Ctx) : Nat := c.rpsize - (c.pages.length + c.reserved)
def Ctx.gen (c : Ctx) (j : Nat) : Nat := (tget j c.gens).getD 0

/-- The first page from j on, cyclically, that is not allocated. -/
def freeFrom (c : Ctx) : Nat → Nat → Option Nat
  | 0, _ => none
  | n + 1, j => if (tget (j % c.rpsize) c.pages).isSome then freeFrom c n (j + 1) else some (j % c.rpsize)

/-- The free page that a record takes: any (R395), but the one that was chosen before where a page fault of it has been
served, if it is still free (R402). -/
def State.choosePage (s : State) (ctx : Nat) (kept : Option Nat) : Option Nat × State :=
  let c := s.ctx ctx
  match kept.filter fun j => j < c.rpsize && (tget j c.pages).isNone with
  | some j => (some j, s)
  | none => let r := s.choose c.rpsize; (freeFrom c (c.pages.length + 1) r.1, r.2)

/-- Allocates a page; fromReserve turns a reserved page into the allocated one. -/
def State.allocPage (s : State) (ctx : Nat) (fromReserve : Bool) (kept : Option Nat) : Option (Nat × State) :=
  if !fromReserve && (s.ctx ctx).rpfree = 0 then none
  else
    let r := s.choosePage ctx kept
    r.1.map fun j => (j, r.2.onCtx ctx fun x =>
      { x with pages := tset j true x.pages, reserved := if fromReserve then x.reserved - 1 else x.reserved })

/-- Frees a page; its generation advances modulo 1,023 (R395). -/
def State.freePage (s : State) (ctx j : Nat) : State :=
  s.onCtx ctx fun x => { x with pages := tdel j x.pages, gens := tset j ((x.gen j + 1) % 1023) x.gens }

def pageVa (c : Ctx) (j : Nat) : DWord := c.rpbase + .ofNat 64 (4096 * j)

/-- The handle of a page on a die (R398). -/
def Ctx.handle (c : Ctx) (j die : Nat) : BitVec 32 := .ofNat 32 (j + c.gen j * 2 ^ 20 + die * 2 ^ 30)

/-! ## Blocks -/

/-- Owner-bit slots of a request in KiB (R231, R379). -/
def slotsOf (tower : Bool) (spk : Nat) : Nat :=
  (spk * 1024 + Config.slotBytes tower - 1) / Config.slotBytes tower

/-- The quantum of a level, in ns (R386, R388). -/
def State.quantum (s : State) (die level : Nat) : Nat := (s.die die).qnt.getD level 1000 * 1000

/-- A new block, not yet bound (R384, R405). -/
def State.newBlock (s : State) (ctx die core : Nat) (lnch blkid : Word) (attr : Attr) (cfirst ccnt : Nat)
    (slot : Option Nat) (prio : Nat) (pkt task : Option Nat) : Nat × State :=
  let u := s.fresh
  let b : Block :=
    { ctx := ctx, die := die, core := core, lnch := lnch, blkid := blkid, attr := attr, state := .unbound,
      courses := [], cfirst := cfirst, ccnt := ccnt, slot := slot, base := prio, level := prio,
      bindTime := s.time, timer := s.time, quant := s.quantum die prio, since := s.time, row := none, pkt := pkt,
      task := task,
      visible := false, faulted := false, born := u.1,
      mem := { BlockMem.empty with n := slotsOf (Config.isTower die) attr.spk,
                                   chains := List.replicate 4 ⟨false, false⟩, tiles := List.replicate 4 [] },
      cont := none }
  (u.1, { u.2 with blocks := u.2.blocks ++ [(u.1, b)] })

/-- Blocks on the bound list of a core (R384, R385). -/
def State.boundList (s : State) (die core : Nat) : List (Nat × Block) :=
  s.blocks.filter fun b => b.2.die == die && b.2.core == core && (b.2.state == .bound || b.2.state == .away)

/-- The core of a set at position p, the next one of the set when it is fenced (R384, R494). -/
def pickCore (s : State) (die cfirst ccnt : Nat) : Nat → Nat → Nat
  | 0, p => (cfirst + p % ccnt) % Config.cores die
  | n + 1, p =>
    let c := (cfirst + p % ccnt) % Config.cores die
    if (s.core (die, c)).fenced then pickCore s die cfirst ccnt n (p + 1) else c

def State.rotCore (s : State) (die cfirst ccnt p : Nat) : Nat := pickCore s die cfirst ccnt (ccnt - 1) p

/-! ## Binding (R384) -/

/-- A block that waits to be bound, or the next block of a LAUNCH: its level, its age, and the slot whose order it keeps,
none for a block of a task. -/
structure BindReq where
  id : Nat
  prio : Nat
  age : Nat
  core : Nat
  slot : Option Nat

def State.toBind (s : State) (die : Nat) : List BindReq :=
  ((s.blocks.filter fun b => b.2.die == die && b.2.state == .unbound).map fun b =>
    ⟨b.1, b.2.base, b.2.pkt.getD b.1, b.2.core, if b.2.task.isNone then b.2.slot else none⟩) ++
  ((s.pkts.filter fun p => p.2.die == die && p.2.kind == 1 && p.2.status == 0 && p.2.next < p.2.nblk).map fun p =>
    ⟨p.1, p.2.prio, p.1, s.rotCore die p.2.cfirst p.2.ccnt (p.2.rot + p.2.next), some p.2.slot⟩)

/-- Whether no earlier block of its slot waits. -/
def BindReq.leads (t : BindReq) (l : List BindReq) : Bool :=
  t.slot.isNone || l.all fun u => u.slot != t.slot || t.age ≤ u.age

/-- Whether a block, or the next block of a LAUNCH, is the one its core's list takes next: the list has room, its slot is
not held up, and of those that compete for the list it has the highest PRIO, then the greatest age. -/
def State.mayBind (s : State) (die id : Nat) : Bool :=
  let l := s.toBind die
  match l.find? fun t => t.id == id with
  | none => false
  | some t =>
    (s.boundList die t.core).length < 8 && t.leads l &&
    l.all fun u => u.core != t.core || !u.leads l || u.prio < t.prio || (u.prio == t.prio && t.age ≤ u.age)

/-- Whether a core lies in a set (R376). -/
def inSet (die cfirst ccnt core : Nat) : Bool :=
  (List.range ccnt).any fun i => (cfirst + i) % Config.cores die == core

/-! ## The key table (R402 to R409) -/

def Key.free : Key := ⟨0, 0xFF, 0, 0, [], []⟩
def keyDie (key : Nat) : Nat := key % 4
def keyIdx (key : Nat) : Nat := key / 4
def State.key (s : State) (key : Nat) : Key := (tget (keyIdx key) (s.die (keyDie key)).keys).getD Key.free
def State.onKey (s : State) (key : Nat) (f : Key → Key) : State :=
  s.onDie (keyDie key) fun d => { d with keys := tset (keyIdx key) (f (s.key key)) d.keys }

/-- The two words of a key-table entry, as management reads them (R403). -/
def Key.words (k : Key) : DWord × DWord :=
  (.ofNat 64 (k.st % 4 + k.rcore % 2 ^ 8 * 2 ^ 8 + k.nsh % 2 ^ 16 * 2 ^ 16 + min k.fifo.length 65535 * 2 ^ 32),
   .ofNat 64 (k.holder.toNat + k.lines.length % 2 ^ 11 * 2 ^ 32))

/-- Writes the lines of a key's release record back from a core's L1 (R407). -/
def State.backLines (s : State) (k : Nat × Nat) (lines : List Nat) : State :=
  lines.foldl (fun s ln => match s.l1? k ln with | some l => s.writeBack k l | none => s) s

/-- The distinct union of two lists. -/
def unionLines {α : Type} [BEq α] (a b : List α) : List α := b.foldl (fun l x => if l.contains x then l else l ++ [x]) a

/-- No task holds a key any more. -/
def State.unhold (s : State) (key : Nat) : State :=
  let drop (e : KeyEntry) : KeyEntry := if e.key = key then { e with held := false } else e
  { s with tasks := s.tasks.map fun t => (t.1, { t.2 with keys := t.2.keys.map drop }) }

/-- Releases entry e of a task's keys (R407, R422); blk is the block that held it. A BROKEN key stays so (R409). -/
def State.releaseKey (s : State) (t e : Nat) (blk : Nat) (core : Nat) : State :=
  match tget t s.tasks with
  | none => s
  | some tk =>
    match tk.keys[e]? with
    | none => s
    | some ke =>
      if !ke.held then s
      else
        let s1 := s.onTask t fun x => { x with keys := modAt e (fun y => { y with held := false }) x.keys }
        if ke.shared then
          s1.onKey ke.key fun k => { k with nsh := k.nsh - 1, st := if k.nsh ≤ 1 && k.st != 3 then 0 else k.st }
        else
          let mine := ((s1.blockMem blk).tracker.filter fun p => p.2.getLsbD e).map (·.1)
          let all := unionLines (s1.key ke.key).lines mine
          let s2 := s1.backLines (tk.die, core) (all.drop 1024)
          s2.onKey ke.key fun k => { k with st := 0, rcore := core, holder := tk.handle, lines := all.take 1024 }

/-- A held key becomes BROKEN and is logged (R409). -/
def State.breakKey (s : State) (t e : Nat) : State :=
  match tget t s.tasks with
  | none => s
  | some tk =>
    match tk.keys[e]? with
    | none => s
    | some ke =>
      if !ke.held then s
      else
        let s1 := s.onTask t fun x => { x with keys := modAt e (fun y => { y with held := false }) x.keys }
        let s2 := s1.onKey ke.key fun k => { k with st := 3, nsh := k.nsh - 1 }
        s2.errEntry tk.ctx tk.die 0xFFFF tk.lnch 0x12 (.ofNat 64 ke.key) (tk.handle.setWidth 64)

/-- Whether a waiting task may be granted (R404). -/
def State.grantable (s : State) (t : Nat) (tk : Task) : Bool :=
  tk.state == .keywait && tk.graph.isNone && tk.keys.all fun e =>
    (s.key e.key).fifo.head? == some t && ((s.key e.key).st == 0 || (e.shared && (s.key e.key).st == 2))

/-- INVR of a core over a byte range of a context (R281, R407). -/
def State.invRange (s : State) (k : Nat × Nat) (ctx : Nat) (base : DWord) (len : Nat) : State :=
  (s.core k).l1.foldl (fun s l =>
    let pages := (List.range ((base.toNat % 4096 + len + 4095) / 4096)).any fun i =>
      match (s.translate ctx (.ofNat 64 (base.toNat / 4096 * 4096 + 4096 * i)) .read).1 with
      | .ok pa =>
        let lo := if i = 0 then base.toNat % 4096 else 0
        let hi := base.toNat % 4096 + len - 4096 * i
        decide (pa / 4096 = l.line / 4096) && decide (lo < l.line % 4096 + 64) && decide (l.line % 4096 < hi)
      | _ => false
    if len ≠ 0 && pages then s.evict k l else s) s

/-- The actions on the release records once the new holder's block is bound, by ascending entry (R407). -/
def State.keyActions (s : State) (tk : Task) (core : Nat) : State :=
  tk.keys.foldl (fun s e =>
    let k := s.key e.key
    if !e.held || k.rcore = 0xFF || k.rcore = core then s
    else
      let s1 := s.backLines (tk.die, k.rcore) k.lines
      let s2 := s1.onKey e.key fun k => { k with lines := [] }
      s2.invRange (tk.die, core) tk.ctx e.base e.len) s

/-- A block joins the bound list of its core, where its wait begins (R386); at a grant the release records are acted on
(R407). -/
def State.bindNow (s : State) (b : Nat) : State :=
  match s.block? b with
  | none => s
  | some x =>
    let s1 := s.setBlock b { x with state := .bound, bindTime := s.time, timer := s.time }
    if x.cont.isSome then s1
    else match x.task with
      | none => s1
      | some t => match tget t s1.tasks with
        | some tk => s1.keyActions tk x.core
        | none => s1

/-- Binds a block to its core when its turn has come (R384, R405). -/
def State.tryBind (s : State) (b : Nat) : State :=
  match s.block? b with
  | none => s
  | some x => if s.mayBind x.die b then s.bindNow b else s

/-- The core a granted task's block goes to (R405), and the rotation it used. -/
def State.taskCore (s : State) (tk : Task) : Nat × State :=
  let r0 : Nat := match tk.keys.head? with
    | some e => (s.key e.key).rcore
    | none => 0xFF
  if r0 ≠ 0xFF && inSet tk.die tk.cfirst tk.ccnt r0 && (s.boundList tk.die r0).length < 8 &&
      !(s.core (tk.die, r0)).fenced then (r0, s)
  else
    match tk.slot with
    | some n =>
      let p := (s.die tk.die).rot.getD n 0
      (s.rotCore tk.die tk.cfirst tk.ccnt p,
       s.onDie tk.die fun d => { d with rot := setAt n ((p + 1) % tk.ccnt) d.rot })
    | none =>
      let c := s.choose tk.ccnt
      (s.rotCore tk.die tk.cfirst tk.ccnt c.1, c.2)

/-- Grants a task all its keys at once and binds its block (R404, R405). -/
def State.grant (s : State) (t : Nat) : State :=
  match tget t s.tasks with
  | none => s
  | some tk =>
    if !s.grantable t tk then s
    else
      match s.newLnch tk.die with
      | none => s
      | some (l, s0) =>
        let s1 := tk.keys.foldl (fun s e => s.onKey e.key fun k =>
          if e.shared then { k with fifo := k.fifo.tail, st := 2, nsh := k.nsh + 1 }
          else { k with fifo := k.fifo.tail, st := 1, holder := tk.handle }) s0
        let c := s1.taskCore tk
        let b := c.2.newBlock tk.ctx tk.die c.1 l 0 tk.attr tk.cfirst tk.ccnt tk.slot tk.prio tk.pkt (some t)
        let s2 := b.2.onTask t fun x =>
          { x with state := .bound, lnch := l, block := some b.1,
                   keys := x.keys.map fun e => { e with held := true } }
        s2.tryBind b.1

/-- Grants every task that can be granted, one after another (R404). -/
def State.grantAll (s : State) : Nat → State
  | 0 => s
  | n + 1 =>
    match s.tasks.find? fun t => s.grantable t.1 t.2 with
    | none => s
    | some t => State.grantAll (s.grant t.1) n

def State.grants (s : State) : State := s.grantAll s.tasks.length

/-- A task in KEYWAIT joins the FIFO of each of its keys (R404). -/
def State.joinFifos (s : State) (t : Nat) : State :=
  match tget t s.tasks with
  | none => s
  | some tk => tk.keys.foldl (fun s e => s.onKey e.key fun k => { k with fifo := k.fifo ++ [t] }) s

/-- A task enters KEYWAIT (R404). -/
def State.enterKeywait (s : State) (t : Nat) : State :=
  (s.joinFifos t).onTask t fun x => { x with state := .keywait, dep := 0 }

/-- One decrement of a task's dependence counter (R400), and the task that enters KEYWAIT by it. -/
def State.countDown (s : State) (ctx die : Nat) (lnch : Word) (h : BitVec 32) (stale : Bool) : Option Nat × State :=
  match s.tasks.find? fun t => t.2.ctx == ctx && t.2.handle == h && t.2.page.isSome && t.2.graph.isNone with
  | none => (none, s.errEntry ctx die 0xFFFF lnch 0x11 (h.setWidth 64) 0)
  | some (t, tk) =>
    if stale then (none, s.errEntry ctx die 0xFFFF lnch 0x11 (h.setWidth 64) 0)
    else if tk.state != .pending then (none, s.errEntry ctx tk.die 0xFFFF lnch 0x10 (h.setWidth 64) 0)
    else if tk.dep ≤ 1 then (some t, s.onTask t fun x => { x with state := .keywait, dep := 0 })
    else (none, s.onTask t fun x => { x with dep := x.dep - 1 })

/-- A decrement by itself: a task that enters KEYWAIT joins its FIFOs. -/
def State.decrement (s : State) (ctx die : Nat) (lnch : Word) (h : BitVec 32) (stale : Bool) : State :=
  let r := s.countDown ctx die lnch h stale
  match r.1 with
  | some t => r.2.joinFifos t
  | none => r.2

/-- The decrements of a list of handles in its order; the tasks that enter KEYWAIT by them do so together, and join
their FIFOs in ascending handle order (R401, R404). -/
def State.decrements (s : State) (ctx die : Nat) (lnch : Word) (hs : List (BitVec 32)) : State :=
  let r := hs.foldl (fun (acc : List Nat × State) h =>
    let q := acc.2.countDown ctx die lnch h false
    (acc.1 ++ q.1.toList, q.2)) (([] : List Nat), s)
  let handle (t : Nat) : Nat := match tget t r.2.tasks with | some x => x.handle.toNat | none => 0
  (sortBy (fun a b => decide (handle a < handle b)) r.1).foldl State.joinFifos r.2

/-! ## The end of a block -/

/-- A node of a graph. -/
def State.onNode (s : State) (g n : Nat) (f : Node → Node) : State :=
  match tget g s.graphs with
  | some x => { s with graphs := tset g { x with nodes := modAt n f x.nodes } s.graphs }
  | none => s

/-- The end of a graph block (R411, R412): unused pages return, its emission page is freed, and the graph
completes with its last block. -/
def State.endGraphBlock (s : State) (t : Nat) (tk : Task) (g node : Nat) (fault : Bool) : State :=
  let s1 : State :=
    if tk.share then s.onNode g node fun n => { n with share := n.share + tk.resv, shareHeld := false }
    else s.onCtx tk.ctx fun c => { c with reserved := c.reserved - tk.resv }
  let s2 := match tk.page with
    | none => s1
    | some j =>
      let f := s1.freePage tk.ctx j
      match tk.pageShare with
      | none => f
      | some (g', n') =>
        (f.onCtx tk.ctx fun c => { c with reserved := c.reserved + 1 }).onNode g' n' fun n =>
          { n with share := n.share + 1 }
  let s3 := { s2 with tasks := tdel t s2.tasks }
  match tget g s3.graphs with
  | none => s3
  | some gr =>
    let s4 := s3.onPkt gr.pkt fun p => { p with alive := p.alive - 1, faults := p.faults + (if fault then 1 else 0) }
    if gr.live ≤ 1 then
      let total := sumList (gr.nodes.map (·.share))
      let s5 := s4.onCtx gr.ctx fun c => { c with reserved := c.reserved - total }
      { s5 with graphs := tdel g s5.graphs }.settlePkt gr.pkt
    else { s4 with graphs := tset g { gr with live := gr.live - 1 } s4.graphs }

/-- The end of a task's block (R401, R409). -/
def State.endTask (s : State) (t blk core : Nat) (fault : Bool) : State :=
  match tget t s.tasks with
  | none => s
  | some tk =>
    let s1 := (List.range tk.keys.length).foldl (fun s e => if fault then s.breakKey t e else s.releaseKey t e blk core) s
    let s2 := if !tk.succ.isEmpty then s1.release (tk.die, core) blk 4
      else if tk.csig ≠ 0 then s1.release (tk.die, core) blk (ctrlScope tk.ctrl) else s1
    -- the packet that submitted the task completes with the release of its own CTRL (R383, R436)
    let s2 := match tk.pkt.bind fun p => tget p s2.pkts with
      | some q => s2.release (tk.die, core) blk (ctrlScope q.ctrl)
      | none => s2
    match tk.graph with
    | some (g, n) => (s2.release (tk.die, core) blk 4).endGraphBlock t tk g n fault
    | none =>
      let s3 := s2.decrements tk.ctx tk.die tk.lnch tk.succ
      let s4 := s3.completeSignal tk.ctx tk.die tk.lnch tk.csig tk.cval tk.ctrl (if fault then 2 else 0)
        (if fault then 1 else 0)
      let s5 := match tk.page with
        | some j => s4.freePage tk.ctx j
        | none => s4
      let s6 := { s5 with tasks := tdel t s5.tasks }
      let s7 := match tk.pkt with
        | some p => (s6.onPkt p fun x =>
            { x with alive := x.alive - 1, faults := x.faults + (if fault then 1 else 0) }).settlePkt p
        | none => s6
      s7.grants

/-- The parked courses of a block whose queue goes away with it wake with status 1 (R414). -/
def State.loseQueues (s : State) (blk : Nat) : State :=
  { s with conts := s.conts.map fun c =>
      if c.2.kind = 2 && (match s.course? c.2.course with | some x => x.info.block == blk | none => false)
      then (c.1, { c.2 with lost := true }) else c }

/-- Copies into blocks that go away fail there (R370, R478). -/
def State.failTargets (s : State) (gone : Nat → Bool) (status : Nat) : State :=
  let one (t : Target) : Target := if gone t.block && !t.done then { t with status := status, done := true } else t
  let cmd (c : CopyCmd) : CopyCmd := { c with targets := c.targets.map fun t => if c.started then one t else t }
  { s with cores := s.cores.map fun k => (k.1, { k.2 with copies := k.2.copies.map cmd }) }

/-- What a core holds for a block goes back (R233, R243, R294): its ways return to the L1 lent and empty, its tiles
and its commands are gone; a reclaim is over, and begins again for the head that the core has then (R241). -/
def State.freeCore (s : State) (b : Nat) (x : Block) : State :=
  s.onCore (x.die, x.core) fun c =>
    { c with heldWays := c.heldWays.filter (fun w => !x.mem.ways.contains w), draining := [],
             phys := c.phys.map fun p => if p = some b then none else p,
             mq := c.mq.filter (·.block != b) }

/-- Two dirty-line trackers as one (R406). -/
def joinTrackers (a b : List (Nat × BitVec 8)) : List (Nat × BitVec 8) :=
  b.foldl (fun l p => if l.any (fun q => q.1 == p.1) then l.map fun q => if q.1 = p.1 then (q.1, q.2 ||| p.2) else q
    else l ++ [p]) a

/-- The end of a block (R233, R243, R294, R383, R401): its ways return to the L1 lent and empty, and what started
it is told; a block that resumed a continuation tells the block it came from (R415). -/
def State.endBlock (s : State) (b : Nat) : State :=
  match s.block? b with
  | none => s
  | some x =>
    let k := (x.die, x.core)
    let s0 := s.loseQueues b
    let s1 := match x.cont with
      | some (_, p) =>
        (s0.release k b 4).onBlock p fun y =>
          { y with core := x.core, faulted := y.faulted || x.faulted,
                   mem := { y.mem with tracker := joinTrackers y.mem.tracker (s0.blockMem b).tracker } }
      | none =>
        match x.task, x.pkt with
        | some t, _ => s0.endTask t b x.core x.faulted
        | none, some p =>
          let scope := match tget p s0.pkts with | some q => ctrlScope q.ctrl | none => 0
          ((s0.release k b scope).onPkt p fun q =>
            { q with alive := q.alive - 1, faults := q.faults + (if x.faulted then 1 else 0) }).settlePkt p
        | none, none => s0
    let s2 := s1.freeCore b x
    { s2 with blocks := tdel b s2.blocks }.failTargets (· == b) 7

/-- A course that has ended and whose counters are 0: its resident entry and its context area are free (R142, R533). -/
def Course.gone (c : Course) : Bool := c.pres == .ended && c.outs.isEmpty

/-- A course of which nothing is left to do: it is gone, and the operations that no counter counts are performed (log
entry 30). -/
def Course.over (c : Course) : Bool := c.gone && c.ops.isEmpty

/-- Whether a course keeps its block on the core: it is not over, and does not merely wait as a continuation with
nothing outstanding. -/
def Course.holds (c : Course) (b : Nat) : Bool :=
  c.info.block == b && !c.over && !(c.pres == .parked && c.outs.isEmpty && c.ops.isEmpty)

/-- The continuations of a block that still wait, and the blocks that resume others of it. -/
def State.waiting (s : State) (b : Nat) : Bool :=
  (s.courses.any fun c => c.2.info.block == b && c.2.pres == .parked) ||
  (s.blocks.any fun y => match y.2.cont with | some (_, p) => p == b | none => false)

/-- A block left with continuations only gives up its core, its scratchpad, its queues and its tiles (R286, R414,
R415). -/
def State.dissolve (s : State) (b : Nat) (x : Block) : State :=
  let s1 := (s.loseQueues b).freeCore b x
  (s1.setBlock b { x with state := .ended, mem := { BlockMem.empty with n := x.mem.n } }).failTargets (· == b) 7

/-- The block ends when the last of its courses is gone (R142, R233, R401). -/
def State.settleOne (s : State) (b : Nat) : State :=
  match s.block? b with
  | none => s
  | some x =>
    if x.state == .unbound || x.state == .bound || (s.courses.any fun c => c.2.holds b) then s
    else if s.waiting b then (if x.state == .ended then s else s.dissolve b x)
    else
      let s1 := s.endBlock b
      { s1 with courses := s1.courses.filter fun c => !(c.2.info.block == b && c.2.over) }

def State.settleBlock (s : State) (b : Nat) : State :=
  match s.block? b with
  | none => s
  | some x => match x.cont with
    | some (_, p) => (s.settleOne b).settleOne p
    | none => s.settleOne b

end Sys2Proof.Machine
end

