-- ==== Sys2Proof/Machine/Ops.lean ====
section
/-! DEFINITION. The shared operations on a course: landing of results, releases, retirement, joins, the end
of a course, taking a trap and returning from one, and asynchronous errors (R13, R25, R50 to R54, R142,
R207 to R219, R368 to R370). -/

namespace Sys2Proof.Machine

/-! ## Releases and landing (R50, R51, R54) -/

/-- The entry with lanes of a mask no longer live; an entry with no live lane is unmapped, and a backing
copy discarded (R51, R62). A register that is being spilled keeps its place until the spill completes, with no live lane
(R62). -/
def VEntry.release (e : VEntry) (m : Mask) : VEntry :=
  if e.st == .unmapped then e
  else if e.live &&& ~~~m = 0 then (if e.xfer == .spilling then { e with live := 0 } else VEntry.empty)
  else { e with live := e.live &&& ~~~m }

/-- The tag that a read finds: a register with no live lane reads as unmapped (R52, R62). -/
def VEntry.readTag (e : VEntry) : Tag := if e.st == .unmapped || e.live == 0 then .und else e.tag

/-- The entry once a write has landed, by the merge rule R54; a restored register (R153) replaces it. A write to a
register that is being spilled issues without a fill, and a landing before the spill completes ends the spill with no SPC:
the model's choice (log entry 122). -/
def VEntry.land (e : VEntry) (w : Nat) (f : Flight) (stamp : Nat) : VEntry :=
  let keep : Mask := if f.whole || e.tag != f.tag then 0 else e.live &&& ~~~f.mask
  let vals : Lanes := (List.range w).map fun i =>
    if Mask.has f.mask i then f.vals.getD i 0 else if Mask.has keep i then e.vals.getD i 0 else 0
  if f.mask ||| keep = 0 then VEntry.empty
  else { st := .mapped, xfer := .none, vals := vals, tag := f.tag, live := f.mask ||| keep, stamp := stamp }

/-- The operand code that stands for the queue window. -/
def qwCode : Nat := 78

/-- A free position of the window area (R60). -/
def freePos (q : List (Nat × VEntry)) : Nat :=
  ((List.range 8).find? fun j => !(q.any fun e => e.1 == j)).getD 0

/-- The entry that a write of QW pushes for the partner (R32). -/
def State.pushWindow (s : State) (c : Nat) (f : Flight) : State :=
  match (s.course c).info.partner with
  | none => s
  | some p =>
    let w := (s.course c).w
    let e : VEntry := VEntry.land VEntry.empty w f (s.core (s.course c).coreKey).clk
    s.onCourse p fun y => { y with qin := y.qin ++ [(freePos y.qin, e)] }

/-- Switches the map for the landed writes of one register, in issue order, each with the releases behind
it (R50, R51). -/
def State.switchReg (s : State) (c v : Nat) : Nat → State
  | 0 => s
  | n + 1 =>
    let x := s.course c
    match x.flights.find? fun f => f.v == some v with
    | none => s
    | some f =>
      if !f.ready then s
      else
        let s1 := s.onCourse c fun y => ({ y with flights := y.flights.filter fun g => g.id != f.id } : Course).drain
        let s2 :=
          if v = qwCode then s1.pushWindow c f
          else s1.onCourse c fun y => { y with v := modAt v (fun e =>
            if f.release then e.release f.mask else e.land y.w f (s1.core y.coreKey).clk) y.v }
        State.switchReg s2 c v n

/-- A result lands: its flags are set, and its register switches unless an earlier write of it is still
outstanding (R50, R166). -/
def State.landFlight (s : State) (c id : Nat) : State :=
  match (s.course c).flights.find? fun f => f.id == id with
  | none => s
  | some f =>
    let s1 := s.onCourse c fun y =>
      { y.raise f.flags with flights := y.flights.map fun g => if g.id = id then { g with ready := true } else g }
    match f.v with
    | none => s1.onCourse c fun y => { y with flights := y.flights.filter fun g => g.id != id }
    | some v => s1.switchReg c v s1.uid

/-- A result that never comes: the writes behind it may switch (R220, R341). -/
def State.withdraw (s : State) (c id : Nat) : State :=
  match (s.course c).flights.find? fun f => f.id == id with
  | none => s
  | some f =>
    let s1 := s.onCourse c fun y => ({ y with flights := y.flights.filter fun g => g.id != id } : Course).drain
    match f.v with
    | none => s1
    | some v => s1.switchReg c v s1.uid

def State.landMany (s : State) (c : Nat) (ids : List Nat) : State := ids.foldl (fun s i => s.landFlight c i) s

/-- Results whose bound has come land (R64). -/
def State.landDue (s : State) (c clk : Nat) : State :=
  s.landMany c (((s.course c).flights.filter fun f => !f.ready &&
    (match f.due with | some d => decide (d ≤ clk) | none => false)).map (·.id))

/-- Every fixed-latency result lands (R66, R150). A result of MACL, which may have to wait for other commands of its tile
(R299), is not among them: the model's choice (log entry 111). -/
def State.landAll (s : State) (c : Nat) : State :=
  s.landMany c (((s.course c).flights.filter fun f => !f.ready && f.due.isSome).map (·.id))

/-- A release of lanes of Vv, behind the writes of Vv numbered below a mark and ahead of the others
(R51). -/
def State.releaseAt (s : State) (c v : Nat) (m : Mask) (mark : Nat) : State :=
  let fs := (s.course c).flights
  if m = 0 then s
  else if fs.any fun f => f.v == some v && f.id < mark then
    let u := s.fresh
    let f : Flight := { id := u.1, v := some v, release := true, mask := m, vals := [], tag := .und, flags := 0,
                        due := none, ready := true, whole := false, op := none }
    u.2.onCourse c fun x =>
      { x with flights := (fs.takeWhile fun g => g.id < mark) ++ f :: fs.dropWhile fun g => g.id < mark }
  else s.onCourse c fun x => { x with v := modAt v (fun e => e.release m) x.v }

def State.releaseV (s : State) (c v : Nat) (m : Mask) : State := s.releaseAt c v m s.uid

/-! ## Counted operations (R145, R390) -/

/-- The resident entry of an ended course goes when its counters are 0, and its block ends with its last
course; the courses of a row end together, and their writes are released for the packet (R142, R360, R383). -/
def State.settleRow (s : State) (die row : Nat) : State :=
  match (s.die die).rows.find? fun r => r.started && r.row == row with
  | none => s
  | some r =>
    let gone := r.courses.all fun c => match s.course? c with | some x => x.over | none => true
    if !gone then s
    else
      let scope := match tget r.pkt s.pkts with | some p => ctrlScope p.ctrl | none => 0
      let s1 := r.courses.foldl (fun s c => match s.course? c with
        | some x => (s.release x.coreKey x.info.block scope).endBlock x.info.block
        | none => s) s
      let s2 := { s1 with courses := s1.courses.filter (fun c => !r.courses.contains c.1),
                          rowbuf := s1.rowbuf.filter fun i => !r.courses.contains i.course }
      let s3 := s2.onDie die fun d => { d with rows := d.rows.filter fun q => !(q.started && q.row == row) }
      (s3.onPkt r.pkt fun p => { p with rows := p.rows.filter (· != r.ridx) }).settlePkt r.pkt

def State.settle (s : State) (c : Nat) : State :=
  match s.course? c with
  | none => s
  | some x =>
    if x.pres != .ended && x.pres != .parked then s
    else match x.info.row with
      | some r => s.settleRow x.info.die r
      | none => s.settleBlock x.info.block

/-- An operation of a counter completes: the counter decrements, which is progress (R145, R390). -/
def State.opDone (s : State) (c id : Nat) : State :=
  let x := s.course c
  ((s.onCourse c fun y => y.complete id).progress x.info.die x.info.ctx).settle c

/-! ## Joins and convergence (R25 to R30) -/

/-- The lanes of a mask that wait at a JWAIT j at an address. -/
def Course.joinAt (x : Course) (j : Nat) (a : Word) : Mask :=
  x.maskOf fun l => l.st == .join && l.wake == .join j && l.lpc == a

/-- Releases each rejoin mask all of whose lanes wait at one JWAIT of it (R25). -/
def Course.releaseJoins (x : Course) : Course :=
  (List.range 8).foldl (fun x j =>
    let m := x.js.getD j 0
    let a := (x.lane (Mask.first m)).lpc
    if m ≠ 0 && (m &&& ~~~(x.joinAt j a)) = 0 then
      { x.onLanes m fun _ l => { l with lpc := l.lpc + 16, st := .ready, wake := .none } with js := setAt j 0 x.js }
    else x) x

def Course.convAt (x : Course) (a : Word) : Mask := x.maskOf fun l => l.st == .conv && l.lpc == a

/-- The member mask of a convergence bundle: the explicit one, or the non-retired lanes (R27). -/
def Course.members (x : Course) (k : Conv) : Mask := if k.explicit then k.mask else x.live

/-- A convergence bundle at which every member waits (R28). -/
def Course.convReady (x : Course) : Option Conv :=
  x.convs.find? fun k => x.members k ≠ 0 && (x.members k &&& ~~~(x.convAt k.pc)) = 0

/-- R30: every non-retired lane waits at a join or a convergence bundle, and none of them can release. -/
def Course.cvd (x : Course) : Bool :=
  x.live != 0 && (x.live &&& ~~~(x.maskOf fun l => l.st == .join || l.st == .conv)) == 0 && x.convReady.isNone

/-- An explicit mask that names a lane that has retired while members wait (R29). -/
def Course.xlm (x : Course) : Option Conv :=
  x.convs.find? fun k => k.explicit && (k.mask &&& ~~~x.live) != 0 && x.convAt k.pc != 0

def Course.ready (x : Course) : Mask := x.maskOf fun l => l.st == .ready

/-- The smallest LPC among lanes of a mask. -/
def Course.minLpc (x : Course) (m : Mask) : Word :=
  match minBy BitVec.toNat ((Mask.toList m).map fun i => (x.lane i).lpc) with
  | some a => a
  | none => 0

/-! ## FAIRT (R17, R18) -/

def fairLim (f : DWord) : Nat := fld f 0 16
def fairCnt (f : DWord) : Nat := fld f 16 16
def fairMd (f : DWord) : Bool := f.getLsbD 32
def fairRp (f : DWord) : Word := .ofNat 32 (fld f 36 28 * 16)
def fairOf (lim cnt : Nat) (md : Bool) (rp : Word) : DWord :=
  .ofNat 64 (lim % 2 ^ 16 + cnt % 2 ^ 16 * 2 ^ 16 + (if md then 2 ^ 32 else 0) + rp.toNat / 16 * 2 ^ 36)
/-- The selector back in MIN mode, with LIM kept. -/
def fairReset (f : DWord) : DWord := fairOf (fairLim f) 0 false 0

/-- The course with a turn dropped that no READY lane holds (R19). -/
def Course.fixTurn (x : Course) : Course :=
  if x.ppr && fairMd x.fairt && !(x.ready &&& (x.maskOf fun l => l.lpc == fairRp x.fairt) != 0) then
    { x with fairt := fairReset x.fairt }
  else x

/-- The turn address T (R15 to R17), 0 when no lane is READY. -/
def Course.turn (x : Course) : Word :=
  let y := x.fixTurn
  if y.ready = 0 then 0
  else if y.ppr && fairMd y.fairt then fairRp y.fairt else y.minLpc y.ready

/-! ## Retirement and the end of a course (R13, R142) -/

def asyncCode : Nat := 0x0D

/-- The end of a course: its registers are freed, results addressed to it are discarded, and reports it
has not taken go to the error ring (R142, R219). -/
def State.endCourse (s : State) (c : Nat) : State :=
  match s.course? c with
  | none => s
  | some x =>
    if x.pres == .ended then s
    else
      let s1 := (x.pend.filter fun e => e.code == asyncCode && !e.shared).foldl (fun s e =>
        s.errEntry x.info.ctx x.info.die x.info.core x.info.lnch 0x03
          (.ofNat 64 (e.sub + e.tsa.toNat % 2 ^ 56 * 256)) e.tsb) s
      let s2 := s1.setCourse c
        { x with pres := .ended, v := List.replicate 64 VEntry.empty, flights := [], convs := [],
                 outs := settleOuts (fun _ => false) x.outs [],
                 pend := [], pre := none, frame := none, req := none,
                 lanes := x.lanes.map fun l => { l with st := .retired, wake := .none, wa := none } }
      (s2.onBlockMem x.info.block fun m =>
        { m with queues := m.queues.map fun q => { q with waiters := q.waiters.filter (·.1 != c) } }).settle c

/-- Lanes retire (R13): they leave every live mask and rejoin mask. -/
def State.retire (s : State) (c : Nat) (m : Mask) : State :=
  let s1 := s.onCourse c fun x =>
    { x.onLanes m fun _ l => { l with st := .retired, wake := .none, wa := none } with
      js := x.js.map fun j => j &&& ~~~m }
  let s2 := (List.range 64).foldl (fun s v => s.releaseV c v m) s1
  let x := s2.course c
  let s3 := (s2.onCourse c Course.releaseJoins).progress x.info.die x.info.ctx
  if x.live = 0 then s3.endCourse c else s3

/-- The courses that take a trap with a course: its row, or its shadow pair (R33, R368). -/
def State.together (s : State) (c : Nat) : List Nat :=
  let x := s.course c
  match x.info.row with
  | some r =>
    match (s.die x.info.die).rows.find? fun q => q.started && q.row == r with
    | some q => q.courses
    | none => [c]
  | none => s.unit c

/-- Ends courses at once, their blocks by a fault (R538). -/
def State.endByFault (s : State) (cs : List Nat) : State :=
  cs.foldl (fun s c =>
    let b := (s.course c).info.block
    (s.onBlock b fun x => { x with faulted := true }).endCourse c) s

/-- A fence of a row stream, running or waiting: its packet counts it, copies into its cores fail there (R322, R369,
R370, R383). -/
def State.fenceStream (s : State) (die : Nat) (r : RowStream) (tsb : Nat) : State :=
  let s1 := s.errEntry r.ctx die 0xFFFF r.lnch 0x05 (.ofNat 64 r.row) (.ofNat 64 tsb)
  let s2 := (s1.onPkt r.pkt fun p => { p with fenced := p.fenced + 1 }).onDie die fun d =>
    { d with rowsFenced := d.rowsFenced ++ [(r.row, r.lnch)] }
  if r.started then
    let blks := r.courses.map fun c => (s.course c).info.block
    (s2.failTargets (fun b => blks.contains b) 8).endByFault r.courses
  else
    let s3 := s2.onDie die fun d => { d with rows := d.rows.filter fun q => q.id != r.id }
    (s3.onPkt r.pkt fun p => { p with rows := p.rows.filter (· != r.ridx) }).settlePkt r.pkt

/-- A fence of the stream that runs on a row. -/
def State.fenceRow (s : State) (die row tsb : Nat) : State :=
  match (s.die die).rows.find? fun r => r.started && r.row == row with
  | none => s
  | some r => s.fenceStream die r tsb

/-! ## Traps (R207 to R215) -/

structure Trap where
  code : Nat
  sub : Nat := 0
  tsa : DWord := 0
  tsb : DWord := 0
  tlpc : Word := 0
  tlanes : Mask := 0
  /-- TWAIT: the state code and the time left (R218) -/
  wk : Nat := 0
  dln : Nat := 0
  deriving DecidableEq, Repr

def illCode : Nat := 0x01
def fmtCode : Nat := 0x02
def rrdCode : Nat := 0x03
def mbankCode : Nat := 0x04
def mchCode : Nat := 0x05
def ownCode : Nat := 0x06
def xlmCode : Nat := 0x07
def cvdCode : Nat := 0x08
def qdryCode : Nat := 0x09
def accCode : Nat := 0x0A
def algnCode : Nat := 0x0B
def keyCode : Nat := 0x0C
def hweCode : Nat := 0x0E
def swtCode : Nat := 0x0F
def preCode : Nat := 0x10
def resumeCode : Nat := 0x11
def forcedCode : Nat := 0x12

/-- A lane as the frame records it (R210). -/
def Lane.framed (l : Lane) : LSt × Word × Wake :=
  match l.st with
  | .ready | .retired => (l.st, l.lpc, .none)
  | .join | .conv => (l.st, l.lpc, l.wake)
  | _ => (.ready, l.lpc, .none)

def Course.frameOf (x : Course) (cause : Nat) : Frame := ⟨x.lanes.map Lane.framed, x.js, x.fairt, cause⟩

/-- Every non-retired lane READY at an address, no rejoin mask, selector in MIN mode, L registers empty
(R212). -/
def Course.atHandler (x : Course) (a : Word) : Course :=
  { x with
    lanes := x.lanes.map fun l => if l.st == .retired then l else { l with lpc := a, st := .ready, wake := .none, wa := none }
    js := List.replicate 8 0, fairt := fairReset x.fairt, convs := [], l := List.replicate 4 VReg.zero }

/-- TCAUSE at entry: the cause, its subcode, OVF and HND = 1 (R212, R215, R217). -/
def tcauseOf (code sub : Nat) (ovf : Bool) : DWord :=
  .ofNat 64 (code % 256 + sub % 256 * 256 + (if ovf then 2 ^ 16 else 0) + 2 ^ 17)

/-- The handler offset TVEC.OFS (R216). -/
def Course.handler (x : Course) : Word := .ofNat 32 (fld x.trap.tvec 4 28 * 16)

/-- A course no longer stands in the waiting order of its block's queues (R326). -/
def State.leaveQueues (s : State) (c : Nat) : State :=
  s.onBlockMem (s.course c).info.block fun m =>
    { m with queues := m.queues.map fun q => { q with waiters := q.waiters.filter (·.1 != c) } }

/-- Trap entry of one course with a handler (R210, R212). -/
def State.enterTrap (s : State) (c : Nat) (t : Trap) : State :=
  ((s.landAll c).leaveQueues c).onCourse c fun x =>
    { x.atHandler x.handler with
      frame := some (x.frameOf t.code), lost := false,
      trap := { x.trap with tcause := tcauseOf t.code t.sub x.lost, tlpc := t.tlpc.setWidth 64,
                            tlanes := t.tlanes &&& Mask.low x.w,
                            twait := .ofNat 64 (t.wk + t.dln % 2 ^ 32 * 2 ^ 32), tsa := t.tsa, tsb := t.tsb } }

/-- The trap as the partner of a pair takes it: between its own bundles (R33). -/
def Course.partnerTrap (x : Course) (t : Trap) : Trap := { t with tlpc := x.turn, tlanes := 0, wk := 0 }

/-- Ends a course, or its row, by a trap it cannot take, with an entry in the error ring; the other courses of its
block go on (R214, R215). -/
def State.dieByTrap (s : State) (c entry : Nat) (a b : DWord) : State :=
  let x := s.course c
  let s1 := s.errEntry x.info.ctx x.info.die x.info.core x.info.lnch entry a b
  match x.info.row with
  | some r => s1.fenceRow x.info.die r 3
  | none => s1.endByFault [c]

/-- One course takes a trap: the handler is entered, or the course ends by a double trap (R214) or for want of a handler
(R215). -/
def State.takeOne (s : State) (c : Nat) (t : Trap) (double : Bool) : State :=
  let x := s.course c
  if x.hnd || double then
    s.dieByTrap c 0x01 (.ofNat 64 (fld x.trap.tcause 0 8 + t.code * 256))
      (.ofNat 64 (t.tlpc.toNat + t.tsa.toNat % 2 ^ 32 * 2 ^ 32))
  else if x.handler = 0 then s.dieByTrap c 0x02 (.ofNat 64 t.code) (t.tlpc.setWidth 64)
  else s.enterTrap c t

/-- Whether the partner of a course takes its trap with it (R33): it runs, and no handler of its own does. PRE leaves a
partner without a handler alone (R215, R225). Of a course that ends by a double trap the partner takes the trap all the same:
the model's choice (log entry 112). -/
def Course.joins (x : Course) (t : Trap) : Bool := x.pres == .resident && !x.hnd && !(t.code == preCode && x.handler == 0)

/-- Bundles that the cores of a row hold back stand still while its handler runs (R365, R368; log entry 38). -/
def State.rowPark (s : State) (cs : List Nat) : State :=
  { s with rowbuf := s.rowbuf.map fun i => if cs.contains i.course then { i with valid := false } else i }

/-- They stand again to be issued once the handler has returned; the one that trapped does not when the handler has moved
TLPC (R213). -/
def State.rowUnpark (s : State) (cs : List Nat) (tlpc : Word) : State :=
  let passed (i : Issue) : Bool := cs.contains i.course && !i.valid && i.pass && i.pc != tlpc
  { s with rowbuf := (s.rowbuf.filter fun i => !passed i).map fun i =>
      if cs.contains i.course then { i with valid := true, pass := false } else i }

/-- Every core of a row enters the handler, and RANK.FCOL names the core that raised the trap (R368). -/
def State.rowTakes (s : State) (c : Nat) (t : Trap) : State :=
  let col := fld (s.course c).info.rank 0 4
  let s1 := (s.together c).foldl (fun s d => s.enterTrap d t) (s.rowPark (s.together c))
  (s1.together c).foldl (fun s d => s.onCourse d fun y =>
    { y with info := { y.info with rank := setFld y.info.rank 22 4 col } }) s1

/-- An error becomes pending; a fifth is lost, and one for an ended course goes to the error ring. -/
def State.pendError (s : State) (c : Nat) (e : PendErr) : State :=
  match s.course? c with
  | none => s
  | some x =>
    let entry (code : Nat) (a b : DWord) : State := s.errEntry x.info.ctx x.info.die x.info.core x.info.lnch code a b
    if x.pres == .ended then
      (if e.code = asyncCode && !e.shared then entry 0x03 (.ofNat 64 (e.sub + e.tsa.toNat % 2 ^ 56 * 256)) e.tsb else s)
    else if 4 ≤ x.pend.length then
      (entry 0x04 (.ofNat 64 (e.code + e.sub * 256)) e.tsb).onCourse c fun y => { y with lost := true }
    else s.onCourse c fun y => { y with pend := y.pend ++ [e] }

/-- Whether the partner is to take the trap later: its own handler runs now (R33, R214). PRE it holds for itself (R221). -/
def Course.owes (x : Course) (t : Trap) : Bool := x.pres == .resident && x.hnd && t.code != preCode

/-- The partner of a pair takes a trap of the other course by its own handler; while that runs the trap is pending like an
error (R33; log entry 112). -/
def State.partnerTakes (s : State) (p : Nat) (t : Trap) : State :=
  match s.course? p with
  | none => s
  | some y =>
    if y.joins t then s.takeOne p (y.partnerTrap t) false
    else if y.owes t then s.pendError p ⟨t.code, t.sub, t.tsa, t.tsb, false, true⟩
    else s

/-- A trap of a course: its row takes it as one (R368), and the partner of a pair takes it with the course, each by its
own handler (R33, R215). -/
def State.takeTrap (s : State) (c : Nat) (t : Trap) (double : Bool) : State :=
  let x := s.course c
  match x.info.row with
  | some _ => if x.hnd || double || x.handler == 0 then s.takeOne c t double else s.rowTakes c t
  | none =>
    let s1 := s.takeOne c t double
    match x.info.partner with
    | none => s1
    | some p => s1.partnerTakes p t

/-- The convergence bundles that lanes wait at, each with its mask: an explicit one is S31 as it stands now (R27, R213). -/
def Course.convsNow (x : Course) : List Conv :=
  x.lanes.foldl (fun l y =>
    if y.st == .conv && !(l.any fun k => k.pc == y.lpc) then
      let e := y.wake == .conv true
      l ++ [⟨y.lpc, if e then x.s 31 &&& Mask.low x.w else 0, e⟩]
    else l) []

/-- Return from a trap (R144, R213): lanes of TLANES go to TLPC, the others take their frame back. A lane recorded at a
convergence bundle with an explicit mask waits there under the mask that S31 now gives; one that this mask leaves out
selects the bundle again. -/
def Course.eret (x : Course) : Course :=
  match x.frame with
  | none => x
  | some f =>
    let back (i : Nat) (l : Lane) : Lane :=
      if l.st == .retired then l
      else if Mask.has x.trap.tlanes i then
        { l with lpc := .ofNat 32 (fld x.trap.tlpc 4 28 * 16), st := .ready, wake := .none, wa := none }
      else match f.lanes.getD i (.ready, 0, .none) with
        | (.conv, a, .conv true) =>
          if Mask.has (x.s 31) i then { l with lpc := a, st := .conv, wake := .conv true, wa := none }
          else { l with lpc := a, st := .ready, wake := .none, wa := none }
        | (.retired, _, _) => l
        | (st, a, k) => { l with lpc := a, st := st, wake := k, wa := none }
    let y : Course := { x with lanes := x.lanes.zipIdx.map fun p => back p.2 p.1 }
    let convs := y.convsNow
    { y with js := f.js.map fun j => j &&& y.live, fairt := f.fairt, frame := none, convs := convs,
             l := List.replicate 4 VReg.zero,
             trap := { y.trap with tcause := y.trap.tcause &&& ~~~(0x20000#64) } }.releaseJoins

/-! ## Asynchronous errors (R209, R215, R219) -/

/-- ASYNC of an engine: the descriptor set or tile, and the engine's status (R219). -/
def State.asyncErr (s : State) (c engine : Nat) (arg status : Nat) : State :=
  s.pendError c ⟨asyncCode, engine, .ofNat 64 arg, .ofNat 64 status, false, false⟩

/-- The order HWE, ACC, ASYNC (R209). -/
def errRank (e : PendErr) : Nat := if e.code = hweCode then 0 else if e.code = accCode then 1 else 2

/-- Takes the next asynchronous event of a course at a bundle boundary (R209, R214, R221); none when
nothing can be taken. PRE comes after every pending error that a course of its unit could take (R215). Of a pair with one
handler running the other course takes PRE at once: the model's choice (log entry 112). -/
def State.deliver (s : State) (c : Nat) : Option State :=
  let x := s.course c
  if x.pres != .resident || x.live = 0 then none
  else
    let can := x.pend.filter fun e => !x.hnd || e.hnd
    match minBy errRank can with
    | some e =>
      let s1 := s.onCourse c fun y => { y with pend := y.pend.erase e }
      let t : Trap := { code := e.code, sub := e.sub, tsa := e.tsa, tsb := e.tsb, tlpc := x.turn }
      some (if e.shared then s1.takeOne c t e.hnd else s1.takeTrap c t e.hnd)
    | none =>
      match x.pre with
      | some p =>
        let errs := (s.unit c).any fun d => (s.course d).pres == .resident && !(s.course d).hnd && !(s.course d).pend.isEmpty
        if p.taken || p.force || p.left || x.hnd || x.handler = 0 || errs then none
        else
          -- a partner that runs a handler takes its own PRE later (R214, R221)
          let mark (s : State) (d : Nat) : State := s.onCourse d fun y =>
            if y.hnd then y else { y with pre := y.pre.map fun q => { q with taken := true } }
          let s1 := (s.unit c).foldl mark s
          some (s1.takeTrap c { code := preCode, tlpc := x.turn, dln := p.deadline - s.time } false)
      | none => none

end Sys2Proof.Machine
end

