-- ==== Sys2Proof/Machine/Operands.lean ====
section
/-! DEFINITION. Operand forms: what a slot reads when its bundle issues, the tag checks and conversions of
its operands, and where its results go (R37 to R43, R50 to R55, R100, R161 to R166, R195, R255). -/

namespace Sys2Proof.Machine

/-! ## Reading (R100) -/

/-- The lanes that execute a slot of the bundle in issue. -/
def Issue.mask (i : Issue) (slot : Nat) : Mask :=
  match slot with
  | 0 => i.exec
  | 1 => i.g1
  | 2 => i.g2
  | _ => i.g3

/-- A source as the bundle finds it: lanes, live lanes, one tag or the tags that differ by lane, or no tag
at all (R42). -/
structure Operand where
  vals : Lanes
  live : Mask
  tag : Tag
  lanes : List Tag
  tagless : Bool
  deriving DecidableEq, Repr

def Operand.tagAt (o : Operand) (i : Nat) : Tag := o.lanes.getD i o.tag

def Course.allLanes (c : Course) : Mask := Mask.low c.w

/-- A scalar register as a vector operand: in a stream a ranked one is the core's own RANK (R363). -/
def Course.vecScalar (c : Course) (r : Nat) : Word :=
  if c.info.row.isSome && c.ranked.getLsbD r then c.info.rank.setWidth 32 else (c.s r).setWidth 32

/-- The operand of a code (R37). -/
def Issue.operand (i : Issue) (code : Nat) : Operand :=
  let c := i.src
  let same (w : Word) : Operand := ⟨List.replicate c.w w, c.allLanes, .und, [], true⟩
  if code < 64 then
    let e := c.ve code
    ⟨e.vals, e.live, e.readTag, (tget code i.tags).getD [], false⟩
  else if code < 72 then
    let r := c.o.getD (code - 64) VReg.zero
    ⟨r.vals, c.allLanes, r.tag, [], false⟩
  else if code < 76 then
    let r := c.l.getD (code - 72) VReg.zero
    ⟨r.vals, c.allLanes, r.tag, [], false⟩
  else if code = 76 then same 0
  else if code = 77 then ⟨(List.range c.w).map fun j => .ofNat 32 j, c.allLanes, .und, [], true⟩
  else if code = qwCode then
    match c.qin.head? with
    | some e => ⟨e.2.vals, e.2.live, e.2.tag,
        (List.range c.w).map fun j => if Mask.has e.2.live j then e.2.tag else .und, false⟩
    | none => same 0
  else same (c.vecScalar (code - 80))

/-- The tag an operand of tag t is converted to where an entry expects e; a is the tag of source a
(R55, R162, R186 to R191). -/
def wants (e : Expect) (a : Option Tag) (t : Tag) : Option Tag :=
  if t == .und then none
  else
    match e with
    | .bits => none
    | .int => if t == .uw || t == .sw then none else some .sw
    | .f32 => if t == .f32 then none else some .f32
    | .flt => if [Tag.f32, .bf2, .hf2, .e43, .e52, .e21, .e80].contains t then none else some .f32
    | .icvt => if [Tag.uw, .sw, .alo, .ahi, .sb4, .ub4, .sh2].contains t then none else some .sw
    | .half =>
      let want : Tag := if a = some .bf2 then .bf2 else .hf2
      if t == want then none else some want
    | .likeA =>
      match a with
      | some x => if x == .und || x == t then none else some x
      | none => none
    | .e43e52 => if t == .e43 || t == .e52 then none else some .e43
    | .e21 => if t == .e21 then none else some .e21

/-- What an instruction reads: the lanes of each source register in order, the flags that reading raises,
the tag of source a in its lowest lane, and whether that was converted to an integer. -/
structure Reads where
  vals : List Lanes
  flags : DWord
  aTag : Option Tag
  aConv : Bool
  deriving DecidableEq, Repr

def Reads.v (r : Reads) (k i : Nat) : Word := (r.vals.getD k []).getD i 0

/-- The lane of a that lane i of a shuffle takes (R198); none for its own. -/
def shuffleLane (ins : Instr) (w : Nat) (b0 b : Word) (i : Nat) : Nat :=
  match ins with
  | .xshf .. => b.toNat % w
  | .xrot .. => (i + b.toNat) % w
  | .xbc .. => b0.toNat % w
  | .xstep .. =>
    let t : Int := (i : Int) + b.toInt
    if 0 ≤ t ∧ t < w then t.toNat else i
  | _ => i

/-- The lanes of slot 0's one reader in a stream: lane 0 of the core with column 0 (R130). -/
def Course.rowLane (x : Course) (lane : Nat) : Mask :=
  if x.info.row.isSome && fld x.info.rank 0 4 != 0 then 0 else Mask.one lane

/-- The lanes in which source k of an instruction is read, m being the lanes that execute its slot (R130,
R159, R195, R341). -/
def Issue.readMask (i : Issue) (ins : Instr) (k : Nat) (m : Mask) : Mask :=
  let w := i.src.w
  match ins with
  | .callx .. | .ret => if i.src.info.row.isSome then i.src.rowLane 0 else m
  | .xshf _ _ b _ _ _ | .xrot _ _ b _ _ _ | .xbc _ _ b _ _ _ | .xstep _ _ b _ _ _ =>
    if k = 0 then
      let o := i.operand b.toNat
      let bv (j : Nat) : Word := if Mask.has o.live j then o.vals.getD j 0 else 0
      (Mask.toList m).foldl (fun a j => a ||| Mask.one (shuffleLane ins w (bv (Mask.first m)) (bv j) j)) 0
    else m
  | .vtos _ _ _ lane => i.src.rowLane lane.toNat
  | .vtosF .. => if i.src.info.row.isSome then i.src.rowLane 0 else if m = 0 then 0 else Mask.one (Mask.first m)
  | .visq .. => if m = 0 then 0 else Mask.one (Mask.first m)
  | _ => m

/-- Whether a lane that is not live reads as tag UND: reductions and scans (R197). -/
def deadUnd : Instr → Bool
  | .xred .. | .xscn .. => true
  | _ => false

/-- The lane that gives the tag of source a: the lowest executing lane, and for a copy (R199) the lowest source lane: the
model's choice (log entry 109). -/
def Issue.aLane (i : Issue) (ins : Instr) : Nat := Mask.first (i.readMask ins 0 (i.mask (profile ins).slot))

/-- The tag of source a in that lane, none when it is tagless or there is no source. A queue entry has tag UND there when the
lane is not live in it (R32): the model's choice (log entry 109). -/
def Issue.aTag (i : Issue) (ins : Instr) : Option Tag :=
  match (profile ins).srcs.head? with
  | none => none
  | some s =>
    let o := i.operand s.code.toNat
    if o.tagless then none else some (o.tagAt (i.aLane ins))

/-- The tag in a lane as the check sees it. -/
def Operand.checkTag (o : Operand) (ins : Instr) (j : Nat) : Tag :=
  if deadUnd ins && !Mask.has o.live j then .und else o.tagAt j

/-- Reads one register of a source: a lane that is not live reads 0 and raises RRD, a mismatched one is
converted and raises FMTC (R52, R55). NV and NX of the conversion (R77) are raised by integer instructions too (R83, R168):
the model's choice (log entry 124). -/
def Issue.readReg (i : Issue) (ins : Instr) (m : Mask) (code : Nat) (e : Expect) (rrd : Bool) : Lanes × DWord :=
  let o := i.operand code
  let a := i.aTag ins
  let lane (j : Nat) : Word × DWord :=
    let live := Mask.has o.live j
    let raw : Word := if live then o.vals.getD j 0 else 0
    if !Mask.has m j then (raw, 0)
    else
      let f := flagIf (rrd && !live) fRRD
      if o.tagless then (raw, 0)
      else match wants e a (o.checkTag ins j) with
        | none => (raw, f)
        | some t =>
          let c := convTag i.src.ftz (o.checkTag ins j) t raw
          (c.1, f ||| c.2 ||| fFMTC)
  let l := (List.range i.src.w).map lane
  (l.map (·.1), l.foldl (fun x p => x ||| p.2) 0)

/-- Every source register of an instruction with the lanes it is read in. -/
def Issue.regsRead (i : Issue) (ins : Instr) : List (Nat × Src × Mask) :=
  let p := profile ins
  let m := i.mask p.slot
  (p.srcs.zipIdx.map fun (s : Src × Nat) =>
    (List.range s.1.n).map fun j => (s.1.code.toNat + j, s.1, i.readMask ins s.2 m)).flatten

/-- All the operand reads of an instruction. -/
def Issue.reads (i : Issue) (ins : Instr) : Reads :=
  let l := (i.regsRead ins).map fun r => i.readReg ins r.2.2 r.1 r.2.1.expect r.2.1.rrd
  let conv := match (profile ins).srcs.head? with
    | none => false
    | some s =>
      let o := i.operand s.code.toNat
      !o.tagless && (wants s.expect (i.aTag ins) (o.checkTag ins (i.aLane ins))).isSome
  ⟨l.map (·.1), l.foldl (fun x p => x ||| p.2) 0, i.aTag ins, conv⟩

/-- The tag of a result (R162, R189, R192, R260). -/
def RTag.eval (r : RTag) (a : Option Tag) (conv : Bool) : Tag :=
  match r with
  | .fix t => t
  | .code c => tagOf c.toNat
  | .intA => if conv || a = some .sw then .sw else .uw
  | .bitA => a.getD .uw
  | .addrA => match a with
    | some .sw => .sw
    | some .alo => .alo
    | some .ahi => .ahi
    | _ => .uw
  | .halfA => if a = some .bf2 then .bf2 else .hf2
  | .unpkA => match a with
    | some t => unpkTag t
    | none => .uw

/-- The tags an instruction gives its destinations. -/
def Issue.resultTags (i : Issue) (ins : Instr) : List Tag :=
  let a := i.aTag ins
  let conv := match (profile ins).srcs.head? with
    | none => false
    | some s =>
      let o := i.operand s.code.toNat
      !o.tagless && (wants s.expect a (o.checkTag ins (i.aLane ins))).isSome
  (profile ins).tags.map fun r => r.eval a conv

/-- The registers an instruction writes, in order. -/
def Profile.written (p : Profile) : List Nat := (p.dsts.map fun d => (List.range d.n).map fun j => d.code.toNat + j).flatten

/-! ## Writing -/

/-- The merge of a write into an O or L register, all of whose lanes are live (R40, R54). -/
def VReg.merge (r : VReg) (w : Nat) (m : Mask) (vals : Lanes) (tag : Tag) : VReg :=
  ⟨(List.range w).map fun i => if Mask.has m i then vals.getD i 0 else if r.tag == tag then r.vals.getD i 0 else 0,
   tag, Mask.low w⟩

/-- A new write of a register of the renamed file or the window, of an operation when it is a counted result. -/
def State.addWrite (s : State) (c v : Nat) (m : Mask) (vals : Lanes) (tag : Tag) (flags : DWord)
    (due op : Option Nat) : Nat × State :=
  let u := s.fresh
  let f : Flight := { id := u.1, v := some v, release := false, mask := m, vals := vals, tag := tag,
                      flags := flags, due := due, ready := false, whole := false, op := op }
  (u.1, u.2.onCourse c fun x => { x with flights := x.flights ++ [f] })

/-- A new write of fixed latency, or one that no counter counts. -/
def State.addFlight (s : State) (c v : Nat) (m : Mask) (vals : Lanes) (tag : Tag) (flags : DWord)
    (due : Option Nat) : Nat × State := s.addWrite c v m vals tag flags due none

/-- Flags that land with a result that is no register of the renamed file (R166). -/
def State.addFlags (s : State) (c : Nat) (flags : DWord) (due : Nat) : State :=
  if flags = 0 then s
  else
    let u := s.fresh
    let f : Flight := { id := u.1, v := none, release := false, mask := 0, vals := [], tag := .und,
                        flags := flags, due := some due, ready := false, whole := false, op := none }
    u.2.onCourse c fun x => { x with flights := x.flights ++ [f] }

/-- A result of fixed latency written to one destination code. -/
def State.writeReg (s : State) (c code : Nat) (m : Mask) (vals : Lanes) (tag : Tag) (flags : DWord)
    (due : Nat) : State :=
  if m = 0 then s
  else if code < 64 || code = qwCode then (s.addFlight c code m vals tag flags (some due)).2
  else
    let w := (s.course c).w
    (s.onCourse c fun x => { x with o := modAt (code - 64) (fun r => r.merge w m vals tag) x.o }).addFlags c flags due

/-- The core's ac count. -/
def State.clkOf (s : State) (c : Nat) : Nat := (s.core (s.course c).coreKey).clk

/-- The landing bound of an instruction on a core kind (R64). -/
def boundOf (ins : Instr) (tower : Bool) : Nat :=
  let b := (profile ins).bound
  if b = 14 && tower then 16 else b

/-- The results of an instruction of fixed latency: one list of lanes for each register it writes. -/
def State.writeAll (s : State) (ins : Instr) (vals : List Lanes) (flags : DWord) : State :=
  let c := s.iss.course
  let p := profile ins
  let m := s.iss.mask p.slot
  if m = 0 then s
  else
    let due := s.clkOf c + boundOf ins (s.course c).tower
    let tags := s.iss.resultTags ins
    let dests := p.written
    (List.range dests.length).foldl (fun s k =>
      s.writeReg c (dests.getD k 0) m (vals.getD k []) (tags.getD k .und) (if k = 0 then flags else 0) due) s

/-- The result of slot 1 or of the address ALU, for L0 or L2 (R41). -/
def State.latchL (s : State) (slot : Nat) (m : Mask) (vals : Lanes) (tag : Tag) : State :=
  let r := VReg.merge VReg.zero s.iss.src.w m vals tag
  if m = 0 then s
  else if slot = 1 then { s with iss := { s.iss with r1 := r } } else { s with iss := { s.iss with r2 := r } }

/-- The last-use releases of a slot (R51), and those of VFREE (R53). -/
def State.releases (s : State) (ins : Instr) : State :=
  let p := profile ins
  let m := s.iss.mask p.slot
  let srcs := p.srcs.filter (·.last)
  let regs := (srcs.map fun x => (List.range x.n).map fun j => x.code.toNat + j).flatten ++ p.frees.map BitVec.toNat
  regs.foldl (fun s v => s.releaseAt s.iss.course v m s.iss.mark) s

/-! ## Predicates (R43, R165) -/

/-- Predicate p of a lane; P0 reads 1. -/
def Lane.pred (l : Lane) (p : Nat) : Bool := p = 0 || l.pw.getLsbD p

def Lane.setPred (l : Lane) (p : Nat) (b : Bool) : Lane :=
  if p = 0 then l
  else { l with pw := if b then l.pw ||| (1#8 <<< p) else l.pw &&& ~~~(1#8 <<< p) }

/-- A compare result per lane written to a predicate, or ANDed into it. -/
def State.writePred (s : State) (m : Mask) (p : Nat) (conj : Bool) (b : Nat → Bool) : State :=
  let old (i : Nat) : Bool := (s.iss.src.lane i).pred p
  s.onCourse s.iss.course fun x => x.onLanes m fun i l => l.setPred p (b i && (!conj || old i))

/-! ## Scalars (R129) -/

def State.sIn (s : State) (r : SReg) : DWord := s.iss.src.s r.toNat

/-- A scalar write by slot 0; it clears the ranked mark (R363). -/
def State.writeS (s : State) (r : SReg) (v : DWord) : State :=
  s.onCourse s.iss.course fun x =>
    { x with sr := setAt r.toNat v x.sr, ranked := x.ranked &&& ~~~(1#32 <<< r.toNat) }

end Sys2Proof.Machine
end

