-- ==== Sys2Proof/Machine/Access.lean ====
section
/-! DEFINITION. The accesses of slot 2: the space each row reaches, the addresses it forms and their
alignment, and the order between outstanding operations (R109, R158, R244, R253, R254, R256, R275, R430). -/

namespace Sys2Proof.Machine

inductive AMode where
  | perLane | contiguous | uniform
  deriving DecidableEq, Repr

structure Access where
  scratch : Bool
  mode : AMode
  /-- bytes a lane touches, and the alignment they need -/
  size : Nat
  s : SReg
  /-- the offset operand of a per-lane access -/
  o : Code
  off : Int
  deriving DecidableEq, Repr

/-- sext(lend, 7) times the scale of the row (R105, R114). -/
def offOf (off : BitVec 7) (scale : Nat) : Int := off.toInt * scale

/-- The access of each row of memory; none for the others, and for the rows that act once. -/
def accessOf : Instr → Option Access
  | .ldB _ s o _ _ _ off | .ldBs _ s o _ _ _ off => some ⟨false, .perLane, 1, s, o, offOf off 1⟩
  | .ldH _ s o _ _ _ off | .ldHs _ s o _ _ _ off => some ⟨false, .perLane, 2, s, o, offOf off 2⟩
  | .ldW _ s o _ _ _ off => some ⟨false, .perLane, 4, s, o, offOf off 4⟩
  | .ldd _ s o _ _ _ off => some ⟨false, .perLane, 8, s, o, offOf off 8⟩
  | .ldq _ s o _ _ _ off => some ⟨false, .perLane, 16, s, o, offOf off 16⟩
  | .ldc _ s _ _ off => some ⟨false, .contiguous, 4, s, 76, offOf off 4⟩
  | .ldu _ s _ _ off => some ⟨false, .uniform, 4, s, 76, offOf off 4⟩
  | .ldsB _ s o _ _ off | .ldsBs _ s o _ _ off => some ⟨true, .perLane, 1, s, o, offOf off 1⟩
  | .ldsH _ s o _ _ off | .ldsHs _ s o _ _ off => some ⟨true, .perLane, 2, s, o, offOf off 2⟩
  | .ldsW _ s o _ _ off => some ⟨true, .perLane, 4, s, o, offOf off 4⟩
  | .ldsc _ s _ off => some ⟨true, .contiguous, 4, s, 76, offOf off 4⟩
  | .stB _ s o _ _ _ _ off => some ⟨false, .perLane, 1, s, o, offOf off 1⟩
  | .stH _ s o _ _ _ _ off => some ⟨false, .perLane, 2, s, o, offOf off 2⟩
  | .stW _ s o _ _ _ _ off => some ⟨false, .perLane, 4, s, o, offOf off 4⟩
  | .std _ s o _ _ _ _ off => some ⟨false, .perLane, 8, s, o, offOf off 8⟩
  | .stq _ s o _ _ _ _ off => some ⟨false, .perLane, 16, s, o, offOf off 16⟩
  | .stc _ s _ _ _ off => some ⟨false, .contiguous, 4, s, 76, offOf off 4⟩
  | .stsB _ s o _ _ _ off => some ⟨true, .perLane, 1, s, o, offOf off 1⟩
  | .stsH _ s o _ _ _ off => some ⟨true, .perLane, 2, s, o, offOf off 2⟩
  | .stsW _ s o _ _ _ off => some ⟨true, .perLane, 4, s, o, offOf off 4⟩
  | .stsc _ s _ _ off => some ⟨true, .contiguous, 4, s, 76, offOf off 4⟩
  | .amo _ s o _ _ _ _ _ => some ⟨false, .perLane, 4, s, o, 0⟩
  | .cas _ s o _ _ _ _ _ _ => some ⟨false, .perLane, 4, s, o, 0⟩
  | .amos _ s o _ _ _ _ _ => some ⟨true, .perLane, 4, s, o, 0⟩
  | .cass _ s o _ _ _ _ _ _ => some ⟨true, .perLane, 4, s, o, 0⟩
  | .waita _ s o _ _ _ _ _ _ _ _ => some ⟨false, .perLane, 4, s, o, 0⟩
  | .sig _ s o _ _ _ _ _ _ _ => some ⟨false, .perLane, 4, s, o, 0⟩
  | .lda _ s o _ _ _ _ => some ⟨false, .perLane, 4, s, o, 0⟩
  | .stl _ s o _ _ _ _ _ => some ⟨false, .perLane, 4, s, o, 0⟩
  | _ => none

/-- The value of an offset operand in a lane: 0 where it is not live. -/
def Issue.offset (i : Issue) (o : Code) (lane : Nat) : Word :=
  let p := i.operand o.toNat
  if Mask.has p.live lane then p.vals.getD lane 0 else 0

/-- The address or scratchpad offset of a lane (R109). -/
def Issue.addr (i : Issue) (a : Access) (lane : Nat) : DWord :=
  let base := i.src.s a.s.toNat + .ofInt 64 a.off
  match a.mode with
  | .perLane => base + (i.offset a.o lane).signExtend 64
  | .contiguous => base + .ofNat 64 (4 * lane)
  | .uniform => base

/-- The scratchpad offset an address reaches: its own, or through the aperture (R254). -/
def Access.scratchOff (a : Access) (x : DWord) : Option DWord :=
  if a.scratch then some x else if inAperture x then some (apertureOff x) else none

def misaligned (x : DWord) (n : Nat) : Bool := x.toNat % n != 0

/-! ## Outstanding operations: bytes, kinds and order (R158, R244, R275, R430) -/

/-- Bytes that one lane of an operation touches. -/
def MemOp.size (o : MemOp) (l : LaneAcc) : Nat :=
  match o.kind with
  | .load b _ w => b * w
  | .store b w => b * w
  | .sld _ | .sst => 8
  | .save | .rest => 4 * l.data.length
  | _ => 4

/-- The virtual address that stands for a lane's access, the aperture's for a scratchpad offset. -/
def MemOp.va (o : MemOp) (l : LaneAcc) : DWord := if o.scratch then apertureBase + l.addr else l.addr

/-- The byte ranges of an operation; the range of WBR and INVR is one. -/
def MemOp.ranges (o : MemOp) : List (Nat × Nat) :=
  match o.kind with
  | .wbr | .invr => [(o.base.toNat, o.len.toNat)]
  | _ => o.lanes.map fun l => ((o.va l).toNat, o.size l)

def meets (a b : Nat × Nat) : Bool := a.1 < b.1 + b.2 && b.1 < a.1 + a.2

/-- Whether two operations touch a common byte. -/
def MemOp.overlaps (o p : MemOp) : Bool := o.ranges.any fun a => p.ranges.any (meets a)

def MemOp.isFence (o : MemOp) : Bool :=
  match o.kind with
  | .fence _ => true
  | _ => false

/-- SLD and SST, which stay in order with all of class 0 (R158). -/
def MemOp.scalar (o : MemOp) : Bool :=
  match o.kind with
  | .sld _ | .sst => true
  | _ => false

def MemOp.writes (o : MemOp) : Bool :=
  match o.kind with
  | .store .. | .amo .. | .cas .. | .sig .. | .stl | .sst | .save => true
  | _ => false

def MemOp.reads (o : MemOp) : Bool :=
  match o.kind with
  | .store .. | .stl | .sst | .save | .wbr | .invr | .fence _ => false
  | _ => true

/-- The requests of the cluster units: they follow class 0, and nothing follows them (R333). -/
def MemOp.fixedFn (o : MemOp) : Bool :=
  match o.kind with
  | .trace _ | .visq _ | .tsamp .. | .tsize _ => true
  | _ => false

/-- Operations that are a release (R275). -/
def MemOp.releasing (o : MemOp) : Bool :=
  match o.kind with
  | .sig _ rel => rel
  | .stl => true
  | _ => false

/-- Where a range of virtual bytes within a page lies, when it lies in memory; a fabric address of this package stands for
the byte of its own memory (R511). -/
def State.rangeAt (s : State) (ctx : Nat) (a : Nat × Nat) : Option (Nat × Nat) :=
  if inAperture (.ofNat 64 a.1) then none
  else match (s.translate ctx (.ofNat 64 a.1) .read).1 with
    | .ok pa => some (if 3 < region pa && s.fabOk pa && fabIndex pa == s.ownIdx then fabLocal pa else pa, a.2)
    | _ => none

/-- Whether two ranges of virtual bytes of a context hold a common byte, under one address or under two (R244). -/
def State.sameByte (s : State) (ctx : Nat) (a b : Nat × Nat) : Bool :=
  meets a b || (match s.rangeAt ctx a, s.rangeAt ctx b with
    | some p, some q => meets p q
    | _, _ => false)

/-- Whether two operations of a context reach a common byte under two virtual addresses. -/
def State.aliased (s : State) (ctx : Nat) (o p : MemOp) : Bool :=
  o.ranges.any fun a => p.ranges.any fun b => s.sameByte ctx a b

/-- Whether o has to wait for an earlier operation e of its course (R158, R244, R275, R430). -/
def MemOp.after (o e : MemOp) : Bool :=
  (match e.kind with
   | .fence k => (k.getLsbD 0 && o.writes) || k.getLsbD 1
   | .lda => true
   | _ => false) ||
  o.releasing ||
  (o.cls == e.cls && !e.fixedFn && (o.fixedFn || o.overlaps e || o.scalar || e.scalar))

end Sys2Proof.Machine
end

