-- ==== Sys2Proof/Machine/Gate.lean ====
section
/-! DEFINITION. What stands between the selection of a bundle and its issue: illegal bundles, the class-I
traps of each instruction, the waits that put lanes to sleep, and the interlocks that delay issue without
changing any lane (R27, R33, R36, R39, R52, R55, R62, R63, R101, R116, R117, R145, R150, R166, R206 to
R209, R256, R282, R287, R291 to R293, R306, R314, R325, R326, R332, R367, R418 to R424). -/

namespace Sys2Proof.Machine

/-! ## Illegal bundles (R101, R116, R117) -/

/-- Rows a stream forbids (R36, R367, R368). -/
def streamBad : Instr → Bool
  | .brp .. | .brx .. | .save .. | .rest .. | .pdone | .tsub .. | .tdep .. | .emit .. | .cont .. | .keyrel ..
  | .qsub .. => true
  | i => (profile i).m

/-- Rows of Dome cores only (R332). -/
def domeOnly : Instr → Bool
  | .trace .. | .tracec .. | .visq .. | .tsamp .. | .tsize .. => true
  | _ => false

/-- Slot-0 rows that TRACEC does not allow beside it: 0x01 to 0x16 (R349). -/
def isControl : Instr → Bool
  | .bra .. | .brp .. | .brs .. | .brx .. | .call .. | .callx .. | .ret | .loopi .. | .loop .. | .jarm ..
  | .jwait .. | .yld | .exit | .trap .. | .eret | .waitc .. | .mfs .. | .mts .. | .save .. | .rest .. | .pdone
  | .govq .. => true
  | _ => false

def isTracec : Instr → Bool
  | .tracec .. => true
  | _ => false

def isMtsPw : Instr → Bool
  | .mts _ i => i == 0x02#9
  | _ => false

/-- An instruction that this course may not execute where it stands. -/
def Course.badIns (x : Course) : Instr → Bool
  | .eret => !x.hnd
  | .pdone => x.info.row.isSome || !x.hnd || (match x.frame with | some f => f.cause != preCode | none => true)
  | .macl m _ g _ => (m && x.info.row.isSome) || (!x.tower && 7 < g.toNat)
  | .vtos _ _ _ lane => x.w ≤ lane.toNat
  | .cont .. => x.info.row.isSome || x.info.partner.isSome
  | i => (x.info.row.isSome && streamBad i) || (x.tower && domeOnly i)

/-- The V, O and QW codes that a slot writes. -/
def bWrites (b : Bundle) (k : Nat) : List Nat := (profile (b.slot k)).written

def common (a b : List Nat) : Bool := a.any fun x => b.contains x

/-- A slot that breaks a rule of the bundle (R27, R101, R349), or is illegal on its own. -/
def Course.slotBad (x : Course) (b : Bundle) (k : Nat) : Bool :=
  let i := b.slot k
  x.badIns i ||
  ((List.range 4).any fun j => j != k && common (bWrites b k) (bWrites b j)) ||
  (k == 0 && ((profile i).preds &&& (profile b.i1).preds) != 0) ||
  (k == 0 && isMtsPw i && (profile b.i1).preds != 0) ||
  (k == 0 && isControl i && isTracec b.i2) ||
  (k == 1 && (profile i).conv && (profile b.i3).conv && (profile i).m != (profile b.i3).m)

/-- V registers that the bundle reads or writes. -/
def bTouched (b : Bundle) : List Nat :=
  let one (i : Instr) : List Nat :=
    let p := profile i
    (p.srcs.map fun s => (List.range s.n).map fun j => s.code.toNat + j).flatten ++
      p.frees.map BitVec.toNat ++ p.written
  ((one b.i0 ++ one b.i1 ++ one b.i2 ++ one b.i3).filter (· < 64)).eraseDups

def bWritten (b : Bundle) : List Nat := bWrites b 0 ++ bWrites b 1 ++ bWrites b 2 ++ bWrites b 3

def readsQW (i : Instr) : Bool := (profile i).srcs.any fun s => isQW s.code
def writesQW (i : Instr) : Bool := (profile i).dsts.any fun d => isQW d.code

def bInstrs (b : Bundle) : List Instr := [b.i0, b.i1, b.i2, b.i3]

/-- The registers of a group operand that a slot counts and does not read: TSAMP without .lod has a group of 3 coordinates and
reads two of them (R63, R114, R355). -/
def countedOnly : Instr → List Nat
  | .tsamp _ _ o _ _ lod => if lod then [] else [o.toNat + 2]
  | _ => []

/-- The V registers that count in T (R63). -/
def bCounted (b : Bundle) : List Nat :=
  unionLines (bTouched b) ((countedOnly b.i2).filter (· < 64))

/-- The touch count T (R63). -/
def bTouch (b : Bundle) : Nat :=
  (bCounted b).length + (((bWritten b).filter (· < 64)).eraseDups).length +
    (if (bInstrs b).any readsQW then 1 else 0) + (if (bInstrs b).any writesQW then 1 else 0)

/-- TSA and TSB of ILL, when the bundle is illegal for the course. -/
def Course.ill (x : Course) (words : List Word) (b : Except BadSlot Bundle) : Option (Nat × Nat) :=
  match b with
  | .error e => some (e.slot, e.word.toNat)
  | .ok b =>
    match [0, 1, 2, 3].find? (x.slotBad b) with
    | some k => some (k, (words.getD k 0).toNat)
    | none => if x.info.floor < bTouch b then some (4, bTouch b) else none

/-- A bundle in which member lanes wait (R27), and the mask-select bit it carries. -/
def bConv (b : Bundle) : Bool := (profile b.i1).conv || (profile b.i3).conv
def bExplicit (b : Bundle) : Bool := ((profile b.i1).conv && (profile b.i1).m) || ((profile b.i3).conv && (profile b.i3).m)

/-! ## Class-I traps (R207 to R209) -/

/-- The rank of a class-I cause; the lower is taken. -/
def trapRank (code : Nat) : Nat :=
  ([illCode, xlmCode, cvdCode, qdryCode, rrdCode, fmtCode, algnCode, ownCode, mbankCode, mchCode, keyCode].idxOf? code).getD 99

/-- A class-I trap of the bundle in issue. -/
def Issue.trap (i : Issue) (code : Nat) (tsa tsb : DWord) : Trap :=
  { code := code, tsa := tsa, tsb := tsb, tlpc := i.pc, tlanes := i.exec }

def State.partnerEnded (s : State) (x : Course) : Bool :=
  match x.info.partner with
  | none => true
  | some p => (s.course p).pres == .ended

/-- Entries that wait to be read by the partner, writes on their way included (R32). -/
def State.windowFull (s : State) (c : Nat) (x : Course) : Bool :=
  let have_ := match x.info.partner with
    | none => 8
    | some p => (s.course p).qin.length
  8 ≤ have_ + ((s.course c).flights.filter fun f => f.v == some qwCode).length

/-- Whether a read of the queue window finds nothing, and whether a write finds no room (R33). -/
def State.qwWaits (s : State) (ins : Instr) : Bool × Bool :=
  let i := s.iss
  (readsQW ins && i.src.qin.isEmpty, writesQW ins && s.windowFull i.course i.src)

/-- QDRY (R33). -/
def State.qdry (s : State) (ins : Instr) : List Trap :=
  let w := s.qwWaits ins
  if (w.1 || w.2) && s.partnerEnded s.iss.src then
    [s.iss.trap qdryCode (.ofNat 64 (profile ins).slot) 0]
  else []

/-- RRD, under MODE.RRT (R52). TLANES holds the lanes of the register that are not live, for a cross-lane instruction the
source lanes (R196), executing or not: the model's choice (log entry 110). -/
def Issue.rrdTraps (i : Issue) (ins : Instr) : List Trap :=
  if !i.src.rrt then []
  else
    let bad (r : Nat × Src × Mask) : Mask := if r.2.1.rrd then r.2.2 &&& ~~~(i.operand r.1).live else 0
    match (i.regsRead ins).find? fun r => bad r != 0 with
    | none => []
    | some r =>
      [{ i.trap rrdCode (.ofNat 64 (profile ins).slot) (.ofNat 64 r.1) with tlanes := bad r }]

/-- FMT, under MODE.FTM (R55). -/
def Issue.fmtTraps (i : Issue) (ins : Instr) : List Trap :=
  if !i.src.ftm then []
  else
    let a := i.aTag ins
    let bad (r : Nat × Src × Mask) : Option (Tag × Tag) :=
      let o := i.operand r.1
      if o.tagless then none
      else
        let at_ (j : Nat) : Option (Tag × Tag) :=
          (wants r.2.1.expect a (o.checkTag ins j)).map fun t => (t, o.checkTag ins j)
        (Mask.toList r.2.2).findSome? at_
    match (i.regsRead ins).findSome? bad with
    | none => []
    | some t => [i.trap fmtCode (.ofNat 64 (profile ins).slot) (.ofNat 64 (Tag.code t.1 + Tag.code t.2 * 16))]

/-- ALGN over a list of lane addresses (R256). -/
def Issue.algn (i : Issue) (l : List DWord) (n : Nat) : List Trap :=
  match l.find? fun x => misaligned x n with
  | none => []
  | some x => [i.trap algnCode x 0]

/-- ALGN of a transfer whose target each lane holds (R132). -/
def Issue.targetTraps (i : Issue) (ins : Instr) (code : Nat) : List Trap :=
  let o := i.operand code
  -- in a stream every lane has the target of lane 0 (R130)
  let off (j : Nat) : Word := let k := if i.src.info.row.isSome then 0 else j
    if Mask.has o.live k then o.vals.getD k 0 else 0
  let lanes := if i.src.info.row.isSome && i.readMask ins 0 i.exec = 0 then 0 else i.exec
  let bad := (Mask.toList lanes).filter fun j => misaligned ((off j).setWidth 64) 16
  match bad with
  | [] => []
  | j :: _ =>
    [{ i.trap algnCode ((off j).setWidth 64) 0 with tlanes := bad.foldl (fun m k => m ||| Mask.one k) 0 }]

/-- The addresses of the lanes of ACTIVE of a memory row. -/
def Issue.addrs (i : Issue) (a : Access) : List DWord := (Mask.toList i.g2).map fun j => i.addr a j

/-- The slot index an access touches when it lies in the block's allocation. -/
def State.touchedSlot (s : State) (x : Course) (off : DWord) : Option Nat :=
  let m := s.blockMem x.info.block
  if inAlloc x.tower m.n off.toNat then some (slotIndex x.tower off.toNat) else none

/-- OWN: a lane of ACTIVE touches an engine-owned slot (R236). -/
def State.ownTraps (s : State) (a : Access) : List Trap :=
  let i := s.iss
  let m := s.blockMem i.src.info.block
  let bad (x : DWord) : Option (DWord × Nat) :=
    match a.scratchOff x with
    | none => none
    | some off => match s.touchedSlot i.src off with
      | some k => if m.engineOwned k then some (off, k) else none
      | none => none
  match (i.addrs a).findSome? bad with
  | none => []
  | some p => [i.trap ownCode p.1 (.ofNat 64 p.2)]

/-- The bank group of a scratchpad offset (R229). -/
def bankGroup (tower : Bool) (off : DWord) : Nat := if tower then off.toNat / 2 ^ 20 % 4 else off.toNat / 2 ^ 17 % 4

/-- Operand checks 1 and 2 of MMA and MSTG (R291). -/
def Issue.mmaTraps (i : Issue) (a b : DWord) : List Trap :=
  i.algn [a, b] 32 ++
    (if bankGroup i.src.tower a = bankGroup i.src.tower b then [i.trap mbankCode a b] else [])

def State.chainOpen (s : State) (x : Course) (k : Nat) : Bool :=
  ((s.blockMem x.info.block).chains.getD k ⟨false, false⟩).isOpen

/-- The chain check of R293. -/
def State.chainTraps (s : State) (k : Nat) (want : Bool) (op : Nat) : List Trap :=
  if s.chainOpen s.iss.src k = want then [] else [s.iss.trap mchCode (.ofNat 64 op) (.ofNat 64 k)]

/-- Bytes of an element that MDST stores (R300). -/
def mdstSize (cvt : BitVec 2) : Nat := if cvt = 0 then 4 else if cvt = 1 then 2 else 1

/-- The entry of the issuing block's task that holds a key (R422). -/
def State.keyEntry (s : State) (x : Course) (key : DWord) : Option (Nat × Nat) :=
  match s.block? x.info.block with
  | none => none
  | some b =>
    if (s.die x.info.die).keyrels.any fun w => w.block == x.info.block && w.arg == key then none
    else match b.task with
    | none => none
    | some t => match tget t s.tasks with
      | none => none
      | some tk =>
        match tk.keys.findIdx? fun e => e.held && e.key == key.toNat with
        | some e => some (t, e)
        | none => none

/-- The traps of an instruction beyond those of its operands; slot 3 acts when its guard is 1 in some
member lane (R104). -/
def State.ownerTraps (s : State) (ins : Instr) : List Trap :=
  let i := s.iss
  match ins with
  | .brx a _ | .callx a _ => i.targetTraps ins a.toNat
  | .ret => i.targetTraps ins 63
  | .save a _ | .rest a _ => i.algn [s.sIn a] 64
  | .sld _ a k | .sst a _ k => i.algn [s.sIn a + .ofInt 64 (8 * k.toInt)] 8
  | .trace _ r _ _ | .tracec _ r _ _ _ => i.algn [s.sIn r] 128
  | .visq _ r _ _ _ => i.algn [s.sIn r] 64
  | .tsamp _ r _ _ _ _ | .tsize _ r _ => i.algn [s.sIn r] 32
  | .mzero _ k => s.chainTraps k.toNat false 0x01
  | .mchb _ _ k => s.chainTraps k.toNat false 0x02
  | .mche _ k => s.chainTraps k.toNat true 0x03
  | .mma _ a b _ _ k => i.mmaTraps (s.sIn a) (s.sIn b) ++ s.chainTraps k.toNat true 0x04
  | .macl _ _ _ k => s.chainTraps k.toNat false 0x05
  | .mdst _ a _ _ cvt _ k => i.algn [s.sIn a] (mdstSize cvt) ++ s.chainTraps k.toNat false 0x06
  | .mstg _ a b _ _ _ => i.mmaTraps (s.sIn a) (s.sIn b)
  | .cpym _ _ => match i.src.staging with
    | some m => s.chainTraps m.tile true 0x04
    | none => []
  | .tsub _ a => i.algn [s.sIn a] 64
  | .qsub _ _ a _ => i.algn [s.sIn a] 64
  | .keyrel _ a => if (s.keyEntry i.src (s.sIn a)).isSome then [] else [i.trap keyCode (s.sIn a) 0]
  | _ =>
    match accessOf ins with
    | some a =>
      (if a.mode == .contiguous then (if i.g2 = 0 then [] else i.algn [i.src.s a.s.toNat + .ofInt 64 a.off] a.size)
       else i.algn (i.addrs a) a.size) ++ s.ownTraps a
    | none => []

/-- Every class-I trap an instruction of the bundle raises, ILL, XLM and CVD apart. One that waits for an entry of the
queue window raises none before the entry is there (R33). -/
def State.trapsOf (s : State) (ins : Instr) : List Trap :=
  if s.iss.mask (profile ins).slot = 0 then []
  else if (s.qwWaits ins).1 then s.qdry ins
  else s.qdry ins ++ s.iss.rrdTraps ins ++ s.iss.fmtTraps ins ++ s.ownerTraps ins

/-! ## Waits (R11, R12) -/

/-- The spilled registers that an instruction must have filled: those it reads, and those whose old lanes a
write needs (R62). -/
def State.fillsOf (s : State) (ins : Instr) : List Nat :=
  let i := s.iss
  let x := s.course i.course
  let reads := ((i.regsRead ins).filter fun r => r.2.2 != 0 && r.1 < 64 && (x.ve r.1).st == .spilled).map (·.1)
  let p := profile ins
  let tags := i.resultTags ins
  let writes := (p.written.zipIdx.filter fun d =>
    let e := x.ve d.1
    d.1 < 64 && e.st == .spilled && !(x.flights.any fun f => f.v == some d.1 && !f.release) &&
      tags.getD d.2 .und == e.tag && (e.live &&& ~~~(i.mask p.slot)) != 0).map (·.1)
  reads ++ writes

def fillMask (l : List Nat) : Mask := l.foldl (fun m v => m ||| Mask.one v) 0

/-- A named queue of the issuing block. -/
def State.queue? (s : State) (x : Course) (q : Nat) : Option NQueue :=
  (s.blockMem x.info.block).queues.find? fun k => k.q == q

/-- Whether a push of a course finds room and allowance (R325). -/
def NQueue.canPush (q : NQueue) (c : Nat) : Bool :=
  q.entries.length < q.cap && (q.entries.filter fun e => e.2 == c).length < q.al

/-- Whether the pop of a bundle finds an entry that no earlier waiter is to take (R326). -/
def NQueue.canPop (q : NQueue) (c : Nat) (pc : Word) : Bool :=
  (q.waiters.takeWhile (· != (c, pc))).length < q.entries.length

/-- What an instruction waits for before the bundle commits; none when it need not wait. -/
def State.sleepOf (s : State) (ins : Instr) : Option (LSt × Wake) :=
  let i := s.iss
  let m := i.mask (profile ins).slot
  if m = 0 then none
  else
    let w := s.qwWaits ins
    let fills := s.fillsOf ins
    if w.1 then some (.qwin, .qwRead)
    else if w.2 then some (.qwin, .qwWrite)
    else if !fills.isEmpty then some (.fill, .fill (fillMask fills))
    else match ins with
      | .waitc n t => if i.src.n n.toNat ≤ t.toNat then none else some (.waitc, .counter n.toNat t.toNat)
      | .qpush _ a q =>
        if (s.sIn a).setWidth 32 == 0xFFFFFFFF#32 then none
        else match s.queue? i.src q.toNat with
          | some k => if k.canPush i.course then none else some (.queue, .push q.toNat)
          | none => none
      | .qpop _ _ q =>
        match s.queue? i.src q.toNat with
        | some k => if k.canPop i.course i.pc then none else some (.queue, .pop q.toNat)
        | none => none
      | _ => none

/-! ## Interlocks -/

/-- The counter an instruction counts on (R145). -/
def counterOf : Instr → Option Nat
  | .ldB .. | .ldBs .. | .ldH .. | .ldHs .. | .ldW .. | .ldd .. | .ldq .. | .ldc .. | .ldu .. | .ldsB .. | .ldsBs ..
  | .ldsH .. | .ldsHs .. | .ldsW .. | .ldsc .. | .lda .. | .rest .. | .trace .. | .tracec .. | .visq .. | .tsamp ..
  | .tsize .. => some 0
  | .amo _ _ _ _ _ _ rv _ | .amos _ _ _ _ _ _ rv _ | .cas _ _ _ _ _ _ rv _ _ | .cass _ _ _ _ _ _ rv _ _ =>
    some (if rv then 0 else 1)
  | .stB .. | .stH .. | .stW .. | .std .. | .stq .. | .stc .. | .stsB .. | .stsH .. | .stsW .. | .stsc .. | .stl ..
  | .sig .. | .wbr .. | .invr .. | .save .. => some 1
  | .cpy .. | .cpym .. | .cred .. | .cbc .. | .cag .. | .crs .. => some 2
  | .mzero .. | .mche .. | .mma .. | .mdst .. => some 3
  | _ => none

/-- Instructions that take a place in the matrix engine's queue (R287). -/
def isMatrix : Instr → Bool
  | .mzero .. | .mche .. | .mma .. | .mdst .. | .macl .. => true
  | _ => false

/-- Instructions that take a place in the collective engine (R519). -/
def isCollective : Instr → Bool
  | .cred .. | .cbc .. | .cag .. | .crs .. => true
  | _ => false

/-- O registers that an outstanding load is still to write (R39). -/
def Course.oBusy (x : Course) (code : Nat) : Bool :=
  64 ≤ code && code < 72 && x.ops.any fun o => match o.dst with | some d => d.toNat == code | none => false

/-- Scalars that an outstanding SLD is still to write (R129). -/
def Course.sBusy (x : Course) (r : Nat) : Bool :=
  x.ops.any fun o => match o.kind with | .sld d => d == r | _ => false

/-- Scalar registers that an instruction names, vector operands included. -/
def scalarsOf (ins : Instr) : List Nat :=
  let p := profile ins
  (p.sr ++ p.sw).map BitVec.toNat ++
    ((p.srcs.map fun x => x.code.toNat).filter fun c => 80 ≤ c).map (· - 80)

/-- Query slots that an operation occupies in the intersection unit, one for each lane with a query (R332); a lane of TRACEC
that sent no query carries its status as `cmp`, and entries above the lanes are lines that the query reads. -/
def MemOp.slots (o : MemOp) : Nat :=
  match o.kind with
  | .trace _ => (o.lanes.filter fun l => l.lane < 64 && l.cmp == 0).length
  | .visq _ => 1
  | _ => 0

def State.clusterSlots (s : State) (die core : Nat) : Nat :=
  sumList (s.courses.map fun c =>
    if c.2.info.die = die && c.2.info.core / 4 = core / 4 then sumList (c.2.ops.map MemOp.slots) else 0)

/-- The check of a hit-routine descriptor (R349). -/
def hitOk (x : Course) (d : DWord) : Bool :=
  fld d 0 4 = 0 && fld d 32 4 ≤ 8 && fld d 36 9 ≤ 256 && fld d 45 19 = 0 && fld d 32 4 ≤ x.info.rdp && fld d 36 9 ≤ x.info.rds

/-- The status a lane of TRACEC gets at once, none where it sends its query: 2 DEPTH, 3 PAYLOAD (R344,
R349). -/
def Course.tracecStatus (x : Course) (h : BitVec 4) (lane : Nat) : Option Nat :=
  if x.info.rdn + 1 ≤ (x.lane lane).depth.toNat then some 2
  else if !hitOk x (x.s (16 + h.toNat)) then some 3
  else none

/-- Query slots that an instruction needs (R332). -/
def State.needSlots (s : State) (ins : Instr) : Nat :=
  let i := s.iss
  match ins with
  | .trace .. => Mask.count i.g2
  | .tracec _ _ _ _ h => ((Mask.toList i.g2).filter fun j => (i.src.tracecStatus h j).isNone).length
  | .visq .. => 1
  | _ => 0

/-- Whether an engine command holds a slot (R315). -/
def State.slotHeld (s : State) (x : Course) (k : Nat) : Bool :=
  (s.blockMem x.info.block).holds.any fun h => h.1 == k

/-- Whether an earlier operation must be performed before a WAITA tests its words: an acquire, an SLD or SST when it is
of class 0 (R158), or an access of its class to a byte of one of them (R244, R275). -/
def State.waitBehind (s : State) (ins : Instr) (ac : BitVec 2) : Bool :=
  match accessOf ins with
  | none => false
  | some a => (s.course s.iss.course).ops.any fun e =>
      (match e.kind with
       | .fence k => k.getLsbD 1
       | .lda => true
       | _ => false) ||
      (e.cls == ac && !e.fixedFn && (e.scalar ||
        (s.iss.addrs a).any fun v => e.ranges.any (s.sameByte s.iss.src.info.ctx (v.toNat, 4))))

/-- The counters that an instruction counts on when it executes: CPYM counts its staged MMA too (R145, R303). -/
def Course.countsOn (x : Course) (ins : Instr) (k : Nat) : Bool :=
  counterOf ins == some k || (match ins with | .cpym .. => k == 3 && x.staging.isSome | _ => false)

/-- A counter that the instructions of a bundle would take above 65,535 (R145). -/
def State.countFull (s : State) (l : List Instr) : Bool :=
  let x := s.course s.iss.course
  (List.range 4).any fun k =>
    let n := (l.filter fun i => s.iss.mask (profile i).slot != 0 && s.iss.src.countsOn i k).length
    n != 0 && 65535 < x.n k + n

/-- The register interlock (R39, R129): a scalar that an outstanding SLD, or an O register that an outstanding load, is
still to write. Nothing of the bundle is judged before (R100). -/
def State.regBusy (s : State) (ins : Instr) : Bool :=
  let p := profile ins
  let x := s.course s.iss.course
  s.iss.mask p.slot != 0 &&
    ((p.srcs.any fun c => x.oBusy c.code.toNat) || (p.dsts.any fun d => x.oBusy d.code.toNat) ||
     (scalarsOf ins).any x.sBusy ||
     (match ins with
      | .eret => x.sBusy 31 && (match x.frame with
          | some f => f.lanes.any fun l => l.2.2 == .conv true
          | none => false)
      | _ => false))

/-- A result of MACL, or one that the dispatcher is to write, on its way (R299, R417). -/
def Course.maclOut (x : Course) : Bool :=
  x.flights.any fun f => !f.ready && !f.release && f.due.isNone && f.op.isNone

/-- Whether an outstanding SLD, or an outstanding SST, comes before an access of class 0 (R158). -/
def Course.scalarOut (x : Course) : Bool := x.ops.any MemOp.scalar

/-- Interlocks that hold the bundle back without changing any lane (R129, R145, R154, R158, R287, R299, R314, R332, R421,
R470, R482, R504, R519). PDONE waits for an outstanding SLD too, whose words the record must hold, and for a result of MACL
(R154, R227): the model's choice (log entry 107). -/
def State.stallOf (s : State) (ins : Instr) : Bool :=
  let i := s.iss
  let p := profile ins
  let x := s.course i.course
  if i.mask p.slot = 0 then false
  else
    (isMatrix ins && 32 ≤ ((s.core x.coreKey).mq.filter fun m => m.staged.isNone).length) ||
    (isCollective ins && 64 ≤ s.colls.length) ||
    (s.needSlots ins != 0 && 512 < s.clusterSlots x.info.die x.info.core + s.needSlots ins) ||
    (match ins with
     | .pdone => x.n 0 != 0 || x.n 1 != 0 || x.maclOut ||
         x.ops.any fun o => match o.kind with | .sld _ => true | _ => false
     | .cont .. => x.n 0 != 0 || x.maclOut || x.scalarOut
     | .tsub .. => (s.die x.info.die).tdeps.any fun w => w.course == i.course
     | .govq _ => x.ops.any fun o => o.kind == .sst
     | .qpush .. => !x.ops.isEmpty
     | .ownt _ a => s.slotHeld x (s.sIn a).toNat
     | .waita _ _ _ ac .. => s.waitBehind ins ac
     | .pref _ _ _ ac .. => ac == 0 && x.scalarOut
     | _ => false)

/-! ## The verdict -/

/-- What becomes of an instruction whose bundle is selected. -/
inductive Verdict where
  | go
  | trap (t : Trap)
  | sleep (st : LSt) (k : Wake)
  | stall
  deriving DecidableEq, Repr

/-- The trap that R209 takes first. -/
def firstTrap (l : List Trap) : Option Trap := minBy (fun t => trapRank t.code) l

/-- The verdict over the instructions of a bundle: the registers they name must be there; then traps come before waits,
and waits before the other interlocks. -/
def State.verdict (s : State) (l : List Instr) : Verdict :=
  if l.any s.regBusy then .stall
  else match firstTrap (l.map s.trapsOf).flatten with
  | some t => .trap t
  | none =>
    match l.findSome? s.sleepOf with
    | some (st, k) => .sleep st k
    | none => if l.any s.stallOf || s.countFull l then .stall else .go

/-- Whether a slot of the bundle that executed in some lane reads the queue window (R32). -/
def Issue.pops (i : Issue) : Bool :=
  (List.range 4).any fun k => i.mask k != 0 && readsQW (i.bundle.slot k)

/-- The registers of a bundle in issue, which may not be spilled for it, with the window entry that it reads (R59). -/
def State.inBundle (s : State) : List Loc :=
  ((bTouched s.iss.bundle).map fun v => (s.iss.course, v)) ++
    (match s.iss.src.qin.head? with | some e => if s.iss.pops then [(s.iss.course, 64 + e.1)] else [] | none => [])

/-- Physical registers that instructions draw when their bundle issues (R50, R32); REST draws none. -/
def State.drawsOf (s : State) (l : List Instr) : Nat :=
  sumList (l.map fun ins =>
    if s.iss.mask (profile ins).slot = 0 then 0
    else ((profile ins).written.filter fun c => c < 64 || c = qwCode).length)

/-- The draws of a bundle: true when the pool and the cap have room, else spills have been started. -/
def State.drawFor (s : State) (l : List Instr) : Bool × State :=
  if s.drawsOf l = 0 then (true, s) else s.draw s.iss.course (s.drawsOf l) s.inBundle

/-- Lanes of a mask go to sleep at the bundle they selected (R12). -/
def Course.sleep (x : Course) (m : Mask) (st : LSt) (k : Wake) : Course :=
  x.onLanes m fun _ l => { l with st := st, wake := k }

/-- A bundle joins the waiting order of a queue on whose emptiness it sleeps (R326). -/
def State.joinQueue (s : State) (c : Nat) (pc : Word) (k : Wake) : State :=
  match k with
  | .pop q => s.onBlockMem (s.course c).info.block fun m =>
      { m with queues := m.queues.map fun n =>
          if n.q = q && !n.waiters.contains (c, pc) then { n with waiters := n.waiters ++ [(c, pc)] } else n }
  | _ => s

/-- The executing lanes of the bundle in issue go to sleep; a spilled register starts to fill. -/
def State.sleepLanes (s : State) (st : LSt) (k : Wake) : State :=
  let c := s.iss.course
  let s1 := (s.onCourse c fun x => x.sleep s.iss.exec st k).joinQueue c s.iss.pc k
  match k with
  | .fill vs => (Mask.toList vs).foldl (fun s v => s.startFill (c, v) []) s1
  | _ => s1

/-- The bundle in issue is dropped. -/
def State.drop (s : State) : State := { s with iss := { s.iss with valid := false } }

/-- A verdict other than go takes its effect, and the bundle commits nothing. -/
def State.obey (s : State) (v : Verdict) : State :=
  match v with
  | .go => s
  | .trap t => (s.takeTrap s.iss.course t false).drop
  | .sleep st k => (s.sleepLanes st k).drop
  | .stall => s.drop

/-- An instruction of the bundle in issue: once the bundle has passed its checks it has its effect; before,
its own checks are made, and it has its effect when they let it. -/
def gated (ins : Instr) (s : State) (eff : State → State) : Host.Outcome State Fault Refusal :=
  if !s.iss.valid then .next s
  else if s.iss.pass then .next (eff s)
  else match s.verdict [ins] with
    | .go =>
      let d := s.drawFor [ins]
      if d.1 then .next (eff d.2) else .next d.2.drop
    | v => .next (s.obey v)

end Sys2Proof.Machine
end

