-- ==== Sys2Proof/Machine/Mmio.lean ====
section
/-! DEFINITION. Device MMIO, region 0x2: the registers behind each offset, as a read sees them and as a
write of a course or of the host changes them (R374, R480 to R485, R491, R498, R499, R508). -/

namespace Sys2Proof.Machine

/-! ## Registers as 64-bit words -/

/-- BOOTST (R491). -/
def Boot.word (b : Boot) : DWord :=
  .ofNat 64 (b.stage % 16 + b.err % 16 * 2 ^ 4 + (if b.bankb then 2 ^ 8 else 0) + b.fsvn % 128 * 2 ^ 9)

/-- LNKST (R508). -/
def Port.word (p : Port) : DWord :=
  .ofNat 64 (p.st % 4 + p.lanes % 256 * 2 ^ 8 + min p.retry (2 ^ 16 - 1) * 2 ^ 16 + min p.crcerr (2 ^ 32 - 1) * 2 ^ 32)

/-- A word of FCORE: bit k of word w stands for core 64w + k (R498). -/
def fcoreWord (l : List Nat) (w : Nat) : DWord :=
  (l.filter fun k => k / 64 == w).foldl (fun a k => a ||| Mask.one (k % 64)) 0

/-- The health registers of a die (R498). -/
def Health.word (h : Health) (die off : Nat) : DWord :=
  let n (x : Nat) : DWord := .ofNat 64 x
  if off = 0x00 then n (h.age % 2 ^ 16)
  else if off = 0x08 then n (min h.cesr (2 ^ 32 - 1))
  else if off = 0x10 then n (min h.cedc (2 ^ 32 - 1))
  else if off = 0x18 then n (min h.cehb (2 ^ 32 - 1))
  else if off = 0x20 then n (h.ue % 2 ^ 32)
  else if off = 0x28 then n (h.margin % 2 ^ 16)
  else if off = 0x30 then n (h.peol % 2 ^ 32)
  else if off = 0x68 then n (h.step % 16)
  else if off = 0x70 then n (h.fluxmax % 2 ^ 16)
  else if die = 4 then 0
  else if off = 0x40 then fcoreWord h.fcore 0
  else if off = 0x48 then fcoreWord h.fcore 1
  else if off = 0x50 then fcoreWord h.fcore 2
  else if off = 0x60 then n (h.dcap % 2 ^ 12)
  else if 0x80 ≤ off ∧ off < 0x280 then n (h.hflux.getD ((off - 0x80) / 8) 0 % 2 ^ 16)
  else 0

/-- A package counter (R479). -/
def Regs.counter (r : Regs) (off : Nat) : DWord :=
  let i := off / 64
  if off < 0x200 then
    (if off % 64 = 0 then r.mbxf.getD i 0 else if off % 64 = 8 then r.mbhld.getD i 0
     else if off % 64 = 16 then r.mbstl.getD i 0 else 0)
  else if 0x400 ≤ off ∧ off < 0x500 then
    (if off % 64 = 0 then r.lreq.getD (i - 16) 0 else if off % 64 = 8 then r.rreq.getD (i - 16) 0 else 0)
  else if 0x800 ≤ off ∧ off < 0xA00 then
    (if off % 64 = 0 then r.hrd.getD (i - 32) 0 else if off % 64 = 8 then r.hwr.getD (i - 32) 0 else 0)
  else 0

def Regs.setCounter (r : Regs) (off : Nat) (v : DWord) : Regs :=
  let i := off / 64
  if off < 0x200 then
    (if off % 64 = 0 then { r with mbxf := setAt i v r.mbxf } else if off % 64 = 8 then { r with mbhld := setAt i v r.mbhld }
     else if off % 64 = 16 then { r with mbstl := setAt i v r.mbstl } else r)
  else if 0x400 ≤ off ∧ off < 0x500 then
    (if off % 64 = 0 then { r with lreq := setAt (i - 16) v r.lreq }
     else if off % 64 = 8 then { r with rreq := setAt (i - 16) v r.rreq } else r)
  else if 0x800 ≤ off ∧ off < 0xA00 then
    (if off % 64 = 0 then { r with hrd := setAt (i - 32) v r.hrd }
     else if off % 64 = 8 then { r with hwr := setAt (i - 32) v r.hwr } else r)
  else r

/-- A word of a governor page (R483). -/
def Gov.word (g : Gov) (off : Nat) : DWord :=
  if off = 0x08 then g.govd
  else if off = 0x10 then g.tail.setWidth 64
  else if off = 0x18 then g.nstp.setWidth 64
  else if 0x20 ≤ off ∧ off < 0x40 then (g.h.getD ((off - 0x20) / 8) 0).setWidth 64
  else if off = 0x40 then g.mark
  else 0

/-- The 64-bit register at an MMIO offset that is a multiple of 8 (R485); in recovery BOOTST alone responds (R491). -/
def State.mmioWord (s : State) (off : Nat) : DWord :=
  if s.boot.stage = 15 && off ≠ 0 then 0
  else if off < 0x200000 then
    (if off = 0 then s.boot.word
     else if off = 0x10 then s.regs.hbar2
     else if off = 0x1000 then s.fab.fabid
     else if 0x1008 ≤ off ∧ off < 0x1008 + 8 * 14 then (s.fab.ports.getD ((off - 0x1008) / 8) Port.reset).word
     else 0)
  else if off < 0x201400 then (s.die ((off - 0x200000) / 0x400)).health.word ((off - 0x200000) / 0x400) ((off - 0x200000) % 0x400)
  else if off = 0x201400 then .ofNat 64 (s.regs.pcap % 2 ^ 12)
  else if off = 0x201408 then .ofNat 64 (s.regs.ppow % 2 ^ 12)
  else if 0x300000 ≤ off ∧ off < 0x308000 then .ofNat 64 (s.ctx ((off - 0x300000) / 8)).errdrop
  else if 0x400000 ≤ off ∧ off < 0x401000 then s.regs.counter (off - 0x400000)
  else if 0x1000000 ≤ off ∧ off < 0x2000000 then (s.ctx ((off - 0x1000000) / 4096)).gov.word (off % 4096)
  else 0

/-- n bytes at an MMIO offset, little-endian. -/
def State.mmioRead (s : State) (off n : Nat) : List Byte :=
  (List.range n).map fun i => .ofNat 8 ((s.mmioWord ((off + i) / 8 * 8)).toNat / 2 ^ (8 * ((off + i) % 8)) % 256)

/-! ## Writes -/

/-- A mark of a network step (R481). -/
def Gov.step (g : Gov) (time : Nat) (v : DWord) : Gov :=
  let dur := if v = 0 then time - g.mark.toNat else v.toNat
  { g with h := .ofNat 40 (min dur (2 ^ 40 - 1)) :: g.h.take 3, mark := .ofNat 64 time, nstp := g.nstp + 1 }

/-- A word with some of its bytes replaced. -/
def mergeWord (old : DWord) (off : Nat) (bs : List Byte) : DWord :=
  .ofNat 64 (leVal ((leBytes 8 old.toNat).zipIdx.map fun p =>
    if off ≤ p.2 && p.2 < off + bs.length then bs.getD (p.2 - off) 0 else p.1))

/-- A write by a course or by the host: the counters take it, in each word that it touches, and a word of which it writes
some bytes keeps the others, the model's choice (log entry 116); GOVSTEP takes a single 8-byte write of SST, a portal page
logs it, and every other register discards it (R8, R374, R479, R480, R481, R485). -/
def State.mmioWrite (s : State) (off : Nat) (bs : List Byte) (sst : Bool) : State :=
  if s.boot.stage = 15 then s
  else if 0x400000 ≤ off ∧ off < 0x401000 then
    ((List.range (bs.length / 8 + 2)).foldl (fun s k =>
      let q := off / 8 * 8 + 8 * k
      if q < off + bs.length && q < 0x401000 then
        s.onRegs fun r => r.setCounter (q - 0x400000)
          (mergeWord (r.counter (q - 0x400000)) (off - q) (bs.drop (q - off)))
      else s) s)
  else if 0x1000000 ≤ off ∧ off < 0x2000000 then
    (if sst && off % 4096 = 0 && bs.length = 8 then
      s.onCtx ((off - 0x1000000) / 4096) fun c => { c with gov := c.gov.step s.time (.ofNat 64 (leVal bs)) }
     else s)
  else if 0x2000000 ≤ off ∧ off < 0x3000000 then
    (if (s.ctx? ((off - 0x2000000) / 4096)).isSome then
      s.errEntry ((off - 0x2000000) / 4096) 4 0xFFFF 0 0x08 (.ofNat 64 (off % 4096)) (.ofNat 64 bs.length)
     else s)
  else s

end Sys2Proof.Machine
end

