-- ==== Sys2Proof/Machine/Recover.lean ====
section
/-! DEFINITION. Re-dispatch of a block or a row before its first visible write, and the hardware error of a
course, and the end of a block by a fault (R214, R220, R369, R392, R496, R533, R538). -/

namespace Sys2Proof.Machine

/-- What the engines and the dispatcher hold of a block goes away with it: its decrements and releases that have not
taken effect too, so that none acts twice (R370, R496, R497). -/
def State.dropWork (s : State) (b : Nat) (x : Block) : State :=
  let mine (c : Nat) : Bool := x.courses.contains c
  let lost : List Nat := ((s.core (x.die, x.core)).copies.filter (·.block == b)).map (·.id)
  let s1 := s.onCore (x.die, x.core) fun k =>
    { k with heldWays := k.heldWays.filter (fun w => !x.mem.ways.contains w), draining := [],
             phys := k.phys.map fun p => if p = some b then none else p,
             mq := k.mq.filter (·.block != b), copies := k.copies.filter (·.block != b) }
  { s1 with courses := s1.courses.filter (fun c => c.2.info.block != b),
            staging := s1.staging.filter (fun u => !lost.contains u.2.copy),
            dies := s1.dies.map fun d =>
              { d with tdeps := d.tdeps.filter (·.block != b), keyrels := d.keyrels.filter (·.block != b) },
            colls := s1.colls.filter (fun c => !mine c.2.course),
            conts := s1.conts.filter (fun c => !mine c.2.course),
            iss := if mine s1.iss.course then { s1.iss with valid := false } else s1.iss,
            rowq := s1.rowq.filter (fun i => !mine i.course), rowbuf := s1.rowbuf.filter fun i => !mine i.course }

/-- The place of a core in a core set. -/
def setPos (die cfirst core : Nat) : Nat := (core + Config.cores die - cfirst) % Config.cores die

/-- The block that a block's continuations belong to, and the blocks that resume them. -/
def State.rootOf (s : State) (b : Nat) : Nat :=
  match s.block? b with
  | some x => match x.cont with | some (_, p) => p | none => b
  | none => b

/-- A block with the blocks that resume its continuations: one block of the program, the root first. -/
def State.family (s : State) (b : Nat) : List Nat :=
  let r := s.rootOf b
  r :: ((s.blocks.filter fun y => match y.2.cont with | some (_, p) => p == r | none => false).map (·.1))

/-- Whether a block of the program has made a visible write, in whichever part of it. -/
def State.famSeen (s : State) (b : Nat) : Bool :=
  (s.family b).any fun y => match s.block? y with | some x => x.visible | none => false

/-- A block starts again from its entry on another core of its set, with its arguments and its keys; its continuations, and the
blocks that resume them, go with the attempt (R496). -/
def State.redispatch (s : State) (b : Nat) : State :=
  let r := s.rootOf b
  match s.block? b, s.block? r with
  | some y, some x =>
    let fam := s.family b
    let s1 := fam.foldl (fun s f => match s.block? f with | some z => s.dropWork f z | none => s)
      (s.errEntry x.ctx x.die y.core x.lnch 0x21 (x.blkid.setWidth 64) (.ofNat 64 y.core))
    let s2 : State := { s1 with blocks := s1.blocks.filter fun z => z.1 == r || !fam.contains z.1 }
    let core := s2.rotCore x.die x.cfirst x.ccnt (setPos x.die x.cfirst y.core + 1)
    let mem : BlockMem := { BlockMem.empty with n := x.mem.n, chains := List.replicate 4 ⟨false, false⟩,
                                                tiles := List.replicate 4 [] }
    (s2.setBlock r { x with core := core, state := .unbound, courses := [], faulted := false,
                            mem := mem }).tryBind r
  | _, _ => s

/-- The row that a stream takes: its own, or the next one of the die that has lost no core (R369, R494; log entry 54). -/
def State.wholeRow (s : State) (die row : Nat) : Nat :=
  let whole (r : Nat) : Bool := (List.range 12).all fun c => !(s.core (die, 12 * r + c)).fenced
  (((List.range 12).map fun i => (row + i) % 12).find? whole).getD row

/-- A row starts again as a whole, on a row that has lost no core (R369; log entry 54). -/
def State.redispatchRow (s : State) (die row : Nat) : State :=
  match (s.die die).rows.find? fun r => r.started && r.row == row with
  | none => s
  | some r =>
    let blks := (r.courses.map fun c => (s.course c).info.block).eraseDups
    let s1 := blks.foldl (fun s b => match s.block? b with
      | some x => { s.dropWork b x with blocks := tdel b (s.dropWork b x).blocks }
      | none => s) s
    s1.onDie die fun d =>
      { d with rows := d.rows.map fun q => if q.started && q.row == row then
          { q with started := false, courses := [], row := s.wholeRow die row } else q }

/-- Whether a course's block, or its row, has made a visible write. -/
def State.seen (s : State) (x : Course) : Bool :=
  match x.info.row with
  | some r => match (s.die x.info.die).rows.find? fun q => q.started && q.row == r with
    | some q => q.visible || q.courses.any fun c => match s.block? (s.course c).info.block with
      | some b => b.visible
      | none => false
    | none => true
  | none => (s.block? x.info.block).isNone || s.famSeen x.info.block

/-- An uncorrectable error in data that a course reads: a re-dispatch before the first visible write, else
HWE, which is never a double trap (R214); in a row a fence (R220, R369). -/
def State.hwError (s : State) (c unit : Nat) (tsa : DWord) : State :=
  match s.course? c with
  | none => s
  | some x =>
    match x.info.row with
    | some r => if s.seen x then s.fenceRow x.info.die r 1 else s.redispatchRow x.info.die r
    | none => if s.seen x then s.pendError c ⟨hweCode, unit, tsa, 0, false, false⟩ else s.redispatch x.info.block

/-! ## Faults of a block as a whole (R533, R538) -/

/-- Ends a block by a fault, with every course of it and of the blocks that resume its continuations. -/
def State.faultBlock (s : State) (b : Nat) : State :=
  let fam := s.family b
  let cs := (s.courses.filter fun c => fam.contains c.2.info.block && c.2.pres != .ended).map (·.1)
  let s1 := fam.foldl (fun s b => s.onBlock b fun x => { x with faulted := true }) s
  let s2 := { s1 with conts := s1.conts.filter fun k => !cs.contains k.2.course }
  let s3 := s2.endByFault cs
  -- a block that was never admitted has no course to end with; the block that it resumed may be over with it
  (fam.foldl (fun s b => match s.block? b with
    | some x => if x.state == .unbound || x.state == .bound then s.endBlock b else s
    | none => s) s3).settleOne (s.rootOf b)

/-- The queue that a packet came from enters ERROR, unless it is being destroyed (R392). -/
def State.failPkt (s : State) (p : Nat) : State :=
  match tget p s.pkts with
  | none => s
  | some k => s.onCtx k.ctx fun c => match tget k.q c.queues with
    | some q => { c with queues := tset k.q (if q.state == .draining then q else { q with state := .error }) c.queues }
    | none => c

def State.failQueue (s : State) (b : Nat) : State :=
  match (s.block? b).bind (·.pkt) with
  | some p => s.failPkt p
  | none => s

/-- A fault on a context's own areas that management answers with a fail code ends the course's block, or fences its
row, and puts its queue in ERROR (R392, R533, R538); the manual gives such a fence no TSB. -/
def State.areaFault (s : State) (c : Nat) : State :=
  let x := s.course c
  match x.info.row with
  | some r =>
    let k := s.choose 6
    let s1 := match (s.die x.info.die).rows.find? fun q => q.started && q.row == r with
      | some q => k.2.failPkt q.pkt
      | none => k.2
    s1.fenceRow x.info.die r (1 + k.1)
  | none => (s.failQueue x.info.block).faultBlock x.info.block

end Sys2Proof.Machine
end

