-- ==== Sys2Proof/Machine/Wait.lean ====
section
/-! DEFINITION. WAITA: reading the word at its place, the condition, deadlines, the wait registry, and the
lanes that pass or sleep (R254, R257, R269 to R273, R535). -/

namespace Sys2Proof.Machine

/-- What a wait finds at its address. -/
inductive Peek where
  | word (w : Word)
  /-- on the host or on another package -/
  | remote (pa : Nat)
  | wait (uid : Nat)
  | fail (sub : Nat)
  /-- in a failed line (R220, R455) -/
  | bad
  deriving DecidableEq, Repr

/-- The word of a wait at its home. -/
def State.peekHome (s : State) (die pa : Nat) : Peek × State :=
  if s.lineFailed (lineOf pa) then (.bad, s)
  else (.word (wordOf (s.readPa pa 4)), (s.lineReq die pa).dieUse false pa 4)

/-- The word of a wait, read past the L1 (R270). -/
def State.peek (s : State) (c : Nat) (va : DWord) (flt : Option Nat) : Peek × State :=
  let x := s.course c
  if inAperture va then
    let off := (apertureOff va).toNat
    let m := s.blockMem x.info.block
    if inAlloc x.tower m.n off then (.word (wordOf (m.read off 4)), s) else (.fail 3, s)
  else
    let r := s.reach x.info.ctx va .read x.info.die x.info.lnch flt
    match r.1 with
    | .wait u => (.wait u, r.2)
    | .fail n => (.fail n, r.2)
    | .pa pa =>
      if region pa ≤ 1 then (r.2.expose x.coreKey pa 4).peekHome x.info.die pa
      else if region pa = 2 then (.word (wordOf (r.2.mmioRead (pa % 2 ^ 32) 4)), r.2)
      else if region pa = 3 then (.remote pa, r.2)
      else if !r.2.fabOk pa then (.fail 2, r.2)
      else if fabIndex pa = r.2.ownIdx then (r.2.expose x.coreKey (fabLocal pa) 4).peekHome x.info.die (fabLocal pa)
      else (.remote pa, r.2)

/-- Asks the host or another package for the word of a wait. -/
def State.askWord (s : State) (c i pa : Nat) : Nat × State :=
  let u := s.fresh
  (u.1, if region pa = 3 then u.2.pcieSend pa 0 4 [] c u.1 i true else u.2.fabSend pa 0 0 4 [] c u.1 i)

/-- The line of a virtual address of a context with its home die; none for a word that no home registers. -/
def State.waitLine (s : State) (ctx : Nat) (va : DWord) : Option (Nat × Nat) :=
  if inAperture va then none
  else match (s.translate ctx va .read).1 with
    | .ok pa => if region pa ≤ 1 then some (homeDie pa, lineOf pa) else none
    | _ => none

/-- The registered waits of lanes, of WAIT packets and of continuations, by context and address (R271, R382, R414). -/
def State.registered (s : State) : List (Nat × DWord) :=
  let one (ctx : Nat) (w : WaitA) : Option (Nat × DWord) := if w.registered then some (ctx, w.va) else none
  ((s.courses.map fun c => c.2.lanes.filterMap fun l =>
    if l.st == .waita then l.wa.bind (one c.2.info.ctx) else none).flatten) ++
  (s.pkts.filterMap fun p => p.2.wait.bind (one p.2.ctx)) ++
  (s.conts.filterMap fun k => k.2.desc.bind (one (s.course k.2.course).info.ctx))

/-- The lines that the wait registry of a die holds (R271). -/
def State.registry (s : State) (die : Nat) : List Nat :=
  ((s.registered.filterMap fun w => s.waitLine w.1 w.2).filterMap fun p => if p.1 = die then some p.2 else none).eraseDups

/-- Whether a wait of a context that goes on is registered: scratchpad words wake at the port, and a home registers
4,096 lines. -/
def State.register (s : State) (ctx : Nat) (va : DWord) : Bool :=
  if inAperture va then true
  else match s.waitLine ctx va with
    | none => false
    | some (d, ln) => (s.registry d).contains ln || (s.registry d).length < 4096

/-- Whether the deadline of a wait has passed (R272). -/
def WaitA.expired (w : WaitA) (time : Nat) : Bool :=
  match w.deadline with
  | some d => d ≤ time
  | none => false

/-- The outcome of a test: the lane passes, passes without acquiring because its access failed now or was reported
before, or sleeps with its wait brought up to date. -/
inductive Tested where
  | pass
  | failed (sub : Nat)
  | broken
  | released
  | sleep (w : WaitA)
  deriving DecidableEq, Repr

/-- The test of a wait (R270). -/
def State.testWait (s : State) (c i : Nat) (w : WaitA) : Tested × State :=
  let verdict (v : Word) (s : State) : Tested × State :=
    if waitCond w.cond v w.t || w.expired s.time then (.pass, s)
    else (.sleep { w with flt := none, got := none }, s)
  match w.got with
  | some v => verdict v s
  | none =>
    if w.gaveUp then (.released, s)
    else if w.sent.isSome then (if w.expired s.time then .pass else .sleep w, s)
    else
      let p := s.peek c w.va w.flt
      match p.1 with
      | .word v => verdict v p.2
      | .fail n => (.failed n, p.2)
      | .bad => (.broken, p.2)
      | .wait u => if w.expired s.time then (.pass, p.2) else (.sleep { w with flt := some u }, p.2)
      | .remote pa =>
        if w.expired s.time then (.pass, p.2)
        else
          let a := p.2.askWord c i pa
          (.sleep { w with flt := none, sent := some a.1 }, a.2)

/-- The wait that a lane starts, or goes on with (R270, R272). -/
def State.waitOf (s : State) (lane : Nat) (va : DWord) (t : Word) (cond : BitVec 2) (acq : Bool) (scope : BitVec 3)
    (ext to_ : Bool) : WaitA :=
  match ((s.course s.iss.course).lane lane).wa with
  | some w =>
    -- what another address brought or registered says nothing about this one
    if w.va = va then { w with t := t }
    else { w with va := va, t := t, registered := false, flt := none, sent := none, got := none, gaveUp := false }
  | none =>
    { va := va, cond := cond, t := t, acq := acq, scope := scope, ext := ext,
      deadline := if to_ then some (s.time + (s.iss.src.s 30).toNat) else none, registered := false,
      flt := none, sent := none, got := none, gaveUp := false }

/-- A lane goes to sleep on its word. -/
def State.sleepWait (s : State) (c i : Nat) (w : WaitA) (asleep : Bool) : State :=
  let w' : WaitA := { w with registered := w.registered || s.register (s.course c).info.ctx w.va }
  s.onCourse c fun x => x.onLanes (Mask.one i) fun _ l =>
    if asleep then { l with st := .waita, wa := some w' } else { l with wa := some w' }

/-- An ACC that an access of the bundle at pc met (R208, R257). -/
def State.accError (s : State) (c sub : Nat) (addr : DWord) (pc : Word) (hnd : Bool) : State :=
  s.pendError c ⟨accCode, sub, addr, pc.setWidth 64, hnd, false⟩

/-- What the tests of a WAITA have found: the lanes that sleep, the lowest lane's failure and hardware error, and whether
some lane has passed. -/
structure Tests where
  asleep : Mask
  acc : Option (Nat × DWord)
  hwe : Option DWord
  passed : Bool

/-- The outcome of one more lane. -/
def Tests.add (r : Tests) (i : Nat) (va : DWord) : Tested → Tests
  | .pass => { r with passed := true }
  | .failed n => { r with acc := r.acc.orElse fun _ => some (n, va) }
  | .broken => { r with hwe := r.hwe.orElse fun _ => some va }
  | .released => r
  | .sleep _ => { r with asleep := r.asleep ||| Mask.one i }

/-- Tests the WAITA of slot 2 in every lane of ACTIVE. The answer holds the lanes that sleep; ACC is reported
for the lowest lane that failed, an address of the aperture as a scratchpad offset (log entry 115), HWE for the lowest that met a failed line, and passing lanes acquire (R257, R282). -/
def State.waitaTest (s : State) (asleep : Bool) : Mask × State :=
  match s.iss.bundle.i2 with
  | .waita t _ _ _ _ _ to_ cond acq scope ext =>
    let c := s.iss.course
    match accessOf s.iss.bundle.i2 with
    | none => (0, s)
    | some a =>
      let o := s.iss.operand t.toNat
      let one (acc : Tests × State) (i : Nat) : Tests × State :=
        let va := s.iss.addr a i
        let tv : Word := if Mask.has o.live i then o.vals.getD i 0 else 0
        let r := acc.2.testWait c i (acc.2.waitOf i va tv cond acq scope ext to_)
        (acc.1.add i va r.1, match r.1 with | .sleep w => r.2.sleepWait c i w asleep | _ => r.2)
      let r := (Mask.toList s.iss.g2).foldl one (⟨0, none, none, false⟩, s)
      let s1 := r.2
      let s2 := if acq && r.1.passed then
          s1.acquire (s.course c).coreKey (s.course c).info.block (extScope ext scope) else s1
      let shown (va : DWord) : DWord := match a.scratchOff va with | some off => off | none => va
      let s3 := match r.1.acc with
        | none => s2
        | some (n, va) => s2.accError c n (shown va) s.iss.pc s.iss.src.hnd
      (r.1.asleep, match r.1.hwe with | none => s3 | some va => s3.hwError c 0 (shown va))
  | _ => (0, s)

/-- A sleeping lane is evaluated again: it becomes READY when its test passes or fails for good (R270,
R271). -/
def State.rewait (s : State) (c i : Nat) : State :=
  let l := (s.course c).lane i
  match l.wa with
  | none => s
  | some w =>
    if l.st != .waita then s
    else
      let r := s.testWait c i w
      match r.1 with
      | .sleep w' => r.2.sleepWait c i w' true
      | _ =>
        -- in a stream the row selects its bundle again, and waits again unless every lane of it passes (R36, R270)
        if (s.course c).info.row.isSome then
          (r.2.together c).foldl (fun s d => s.onCourse d fun x =>
            x.onLanes x.live fun _ l => { l with st := .ready, wake := .none }) r.2
        else r.2.onCourse c fun x => x.onLanes (Mask.one i) fun _ l => { l with st := .ready, wake := .none }

/-- The sleeping lanes of a course that a test picks are evaluated again, together (R270, R271). -/
def State.rewaits (s : State) (c : Nat) (p : WaitA → Bool) : State :=
  (List.range (s.course c).w).foldl (fun t i =>
    let l := (s.course c).lane i
    match l.wa with
    | some w => if l.st == .waita && p w then t.rewait c i else t
    | none => t) s

/-- Whether two waits stand on words of one line. -/
def WaitA.sameLine (w v : WaitA) : Bool := w.va.toNat / 64 == v.va.toNat / 64

/-- Whether a wait would pass now, without changing anything (R271): a word at its home or at the port. -/
def State.waitMet (s : State) (c : Nat) (w : WaitA) : Bool :=
  match (s.peek c w.va w.flt).1 with
  | .word v => waitCond w.cond v w.t
  | .fail _ | .bad => true
  | _ => false

end Sys2Proof.Machine
end

