-- ==== Sys2Proof/Machine/Select.lean ====
section
/-! DEFINITION. The choice of the next bundle of a course, its convergence, the values it reads, its issue,
and what follows every bundle: L registers, the fairness selector, XLM and CVD (R12, R15 to R22, R27 to R30,
R32, R41, R63, R65, R100, R116, R117, R331, R539). -/

namespace Sys2Proof.Machine

/-! ## The fairness selector (R19, R331) -/

/-- The expiry step: N is chosen among the offsets that READY lanes held when the bundle issued. -/
def expireFair (f : DWord) (src : Course) (a : Word) : DWord :=
  let lim := max (fairRp f).toNat a.toNat
  let above := src.maskOf fun l => l.st == .ready && lim < l.lpc.toNat
  if above = 0 then fairReset f else fairOf (fairLim f) 0 true (src.minLpc above)

/-- The selector after a bundle at an address that issued in a set of lanes. -/
def Course.fair (x src : Course) (a : Word) (exec : Mask) (yld : Bool) : Course :=
  if !(src.ppr && x.ppr) || x.info.row.isSome then x
  else
    let other := (src.maskOf fun l => l.st == .ready && l.lpc != a) != 0
    if yld && exec != 0 && other then { x with fairt := expireFair x.fairt src a }
    else
      let f := x.fairt
      let cnt := if other then fairCnt f + 1 else 0
      let g := exec &&& x.ready
      let outside := x.maskOf fun l => l.st == .ready
      let merged := (Mask.toList g).any fun i =>
        (outside &&& ~~~g &&& (x.maskOf fun l => l.lpc == (x.lane i).lpc)) != 0
      let f1 := if fairMd f then
          (if g = 0 || merged then fairReset f else fairOf (fairLim f) cnt true (x.minLpc g))
        else fairOf (fairLim f) cnt false (fairRp f)
      { x with fairt := if fairCnt f1 = fairLim f1 then expireFair f1 src a else f1 }

/-! ## What a bundle reads (R65, R100) -/

/-- The lanes of a write on its way whose words are not known yet: the access that brings them has not been performed. -/
def Flight.unknown (f : Flight) : Mask :=
  if f.ready || f.due.isSome || !f.vals.isEmpty then 0 else if f.whole then Mask.low 64 else f.mask

/-- The entries a register would hold after each prefix of its outstanding writes, with the releases behind them, and the
lanes whose words are not known in it (log entry 97). -/
def prefixes (w : Nat) (e : VEntry) (unk : Mask) : List Flight → List (VEntry × Mask)
  | [] => [(e, unk)]
  | f :: l =>
    if f.release then prefixes w (e.release f.mask) (unk &&& ~~~f.mask) l
    else (e, unk) :: prefixes w (e.land w f 0) ((unk &&& ~~~f.mask) ||| f.unknown) l

/-- The value a read of Vv sees, one prefix for each lane, among those whose words are known in the lane. Where the lanes see
different tags the register as a whole, and SAVE with it (R152), has lane 0's: the model's choice (log entry 106). -/
def State.resolve (s : State) (x : Course) (v : Nat) : VEntry × List Tag × State :=
  let ps := prefixes x.w (x.ve v) 0 (x.flights.filter fun f => f.v == some v)
  let pick := (List.range x.w).foldl (fun (acc : List VEntry × State) i =>
    let qs := ps.filter fun p => !Mask.has p.2 i
    let c := acc.2.choose qs.length
    (acc.1 ++ [(qs.getD c.1 (VEntry.empty, 0)).1], c.2)) (([] : List VEntry), s)
  let es := pick.1
  let at_ (i : Nat) : VEntry := es.getD i VEntry.empty
  let vals : Lanes := (List.range x.w).map fun i => (at_ i).vals.getD i 0
  ({ st := .mapped, xfer := .none, vals := vals, tag := (at_ 0).readTag,
     live := Mask.ofPred x.w fun i => Mask.has (at_ i).live i, stamp := 0 },
   es.map VEntry.readTag, pick.2)

/-- The registers of a bundle that have outstanding writes. -/
def Course.unsettled (x : Course) (b : Bundle) : List Nat :=
  let more : List Nat := match b.i0 with
    | .save _ m => (List.range 64).filter fun v => (x.s m.toNat).getLsbD v
    | _ => []
  ((bTouched b ++ more).eraseDups).filter fun v => x.flights.any fun f => f.v == some v

/-- The spilled registers that a SAVE names (R152). -/
def Course.saveSpilled (x : Course) (b : Bundle) : List Nat :=
  match b.i0 with
  | .save _ m => (List.range 64).filter fun v => (x.s m.toNat).getLsbD v && (x.ve v).st == .spilled
  | _ => []

/-- The course as the bundle reads it, with the tags of registers whose lanes differ. -/
def State.snapshot (s : State) (c : Nat) (b : Bundle) : Course × List (Nat × List Tag) × State :=
  let y := s.course c
  -- SAVE takes a spilled register from its backing area (R152)
  let x : Course := (y.saveSpilled b).foldl (fun (x : Course) v => { x with v := modAt v (s.backCopy (c, v)) x.v }) y
  (x.unsettled b).foldl (fun (acc : Course × List (Nat × List Tag) × State) v =>
    let r := acc.2.2.resolve x v
    ({ acc.1 with v := setAt v r.1 acc.1.v }, acc.2.1 ++ [(v, r.2.1)], r.2.2)) (x, [], s)

/-! ## Issue -/

/-- A trap of the selection of a course, or of its state. -/
def State.selTrap (s : State) (c : Nat) (t : Trap) : State := s.takeTrap c t false

/-- CVD (R30, R207, R218). -/
def Course.cvdTrap (x : Course) : Trap :=
  { code := cvdCode, tlpc := x.minLpc x.live, tlanes := x.live, wk := (x.lane (Mask.first x.live)).st.code }

/-- XLM at the boundary after a lane of a held mask has retired (R29). -/
def Course.xlmTrap (x : Course) (k : Conv) : Trap :=
  { code := xlmCode, tsa := k.mask, tlpc := k.pc, tlanes := x.convAt k.pc, wk := LSt.conv.code }

/-- The course state is held against R29 and R30 once a bundle or an arrival is over. -/
def State.checkState (s : State) (c : Nat) : State :=
  let x := s.course c
  if x.pres != .resident || x.live = 0 then s
  else match x.xlm with
    | some k => s.selTrap c (x.xlmTrap k)
    | none => if x.cvd then s.selTrap c x.cvdTrap else s

/-- The lanes of a mask in which a guard lets a slot execute (R103). -/
def Course.guarded (x : Course) (m : Mask) (g : BitVec 3) : Mask :=
  m &&& (x.maskOf fun l => l.pred g.toNat)

/-- Bundles that do not issue until every fixed-latency result of earlier ones has landed (R150, R421). -/
def landsFirst (b : Bundle) : Bool :=
  (match b.i0 with
   | .mfs _ i => i == 0x06#9 || i == 0x17#9
   | .mts _ i => i == 0x06#9
   | _ => false) ||
  (match b.i3 with
   | .cont .. => true
   | _ => false)

/-- The bundle is put in issue, its checks still to come; inner says whether slots 1 and 3 execute (R28). -/
def State.latch (s : State) (c : Nat) (pc : Word) (b : Bundle) (exec : Mask) (inner : Bool) : State :=
  let r := (if landsFirst b then s.landAll c else s).snapshot c b
  let x := r.1
  let other := (x.maskOf fun l => l.st == .ready && l.lpc != pc) != 0
  let m := if inner then exec else 0
  { r.2.2 with iss := { r.2.2.iss with
      valid := true, pass := false, course := c, pc := pc, bundle := b, exec := exec,
      g1 := x.guarded m b.hdr.g1, g2 := x.guarded exec b.hdr.g2, g3 := x.guarded m b.hdr.g3, inner := inner,
      contended := other, src := x, tags := r.2.1, r1 := VReg.zero, r2 := VReg.zero, mark := r.2.2.uid,
      lead := none, lone := false, late := none } }

/-- The lanes that go on with the bundle move to LPC + 16 (R15); a transfer of slot 0 moves them again. A lane that
retires keeps this LPC, the model's choice (log entry 96). When the members issue, the mask of the bundle is no longer held
(R27). -/
def Course.advance (x : Course) (m : Mask) (pc : Word) (inner : Bool) : Course :=
  { x.onLanes m (fun _ l => { l with lpc := pc + 16, st := .ready, wake := .none, wa := none }) with
    convs := if inner then x.convs.filter fun k => k.pc != pc else x.convs }

/-- A selection that put every executing lane to sleep counts as a bundle for the selector (R19). -/
def State.fairSleep (s : State) (c : Nat) (src : Course) (pc : Word) : State :=
  s.onCourse c fun x => x.fair src pc 0 false

/-- The bundle issues in its lanes. -/
def State.goAhead (s : State) : State :=
  { s.onCourse s.iss.course (fun x => x.advance s.iss.exec s.iss.pc s.iss.inner) with iss := { s.iss with pass := true } }

/-- The masks of the bundle in issue without some lanes. -/
def Issue.without (i : Issue) (m : Mask) : Issue :=
  { i with exec := i.exec &&& ~~~m, g1 := i.g1 &&& ~~~m, g2 := i.g2 &&& ~~~m, g3 := i.g3 &&& ~~~m }

/-- WAITA comes last, once nothing else holds the bundle back: lanes whose test fails sleep and the others
issue; a convergence bundle issues with all its members or not at all. -/
def State.admitWait (s : State) : State :=
  let c := s.iss.course
  let t := s.waitaTest true
  -- a hardware error may have sent the block to another core (R220)
  if !t.2.iss.valid then t.2
  else if t.1 = 0 then t.2.goAhead
  else if s.iss.inner && bConv s.iss.bundle || t.1 = s.iss.exec then
    (t.2.fairSleep c s.iss.src s.iss.pc).drop
  else { t.2 with iss := s.iss.without t.1 }.goAhead

/-- Whether the bundle in issue stores a record in the context area: PDONE, and CONT where it acts (R104, R154, R421). -/
def Issue.storesRecord (i : Issue) : Bool :=
  (match i.bundle.i0 with | .pdone => true | _ => false) ||
    (match i.bundle.i3 with | .cont .. => i.g3 != 0 | _ => false)

/-- Whether a partner that is to leave with a course has still to execute its PDONE (R223). -/
def State.partnerStays (s : State) (c : Nat) : Bool :=
  match (s.course c).info.partner with
  | none => false
  | some p => match s.course? p with
    | some y => y.pres == .resident && !(match y.pre with | some q => q.left | none => false)
    | none => false

/-- The courses that leave their core when one executes PDONE: itself, and a partner that has executed it before (R223). -/
def State.leavers (s : State) (c : Nat) : List Nat :=
  (s.unit c).filter fun d => d == c || (match (s.course d).pre with
    | some p => (s.course d).pres == .resident && p.left
    | none => false)

/-- The places that a record and the registers stored with it take (R60, R227, R350, R413, R533). -/
def State.parkPlaces (s : State) (c : Nat) : List (Nat × DWord × Nat) :=
  let x := s.course c
  s.recordPlaces c ++ [(c, x.info.ctxa + 0x1000, backingSize x.w)]

/-- Whether the pages of the context area that the bundle needs are there: the record is written, with the window entries of
a course that leaves and the registers of a continuation, and the backing copies that a SAVE stores are read; a page fault
of them is raised before anything of the bundle commits (R100, R533). -/
def State.areaOpen (s : State) : Bool × State :=
  let i := s.iss
  if i.storesRecord then
    let r := s.areaReaches (match i.bundle.i0 with
      | .pdone => ((s.leavers i.course).map s.recordPlaces).flatten
      | _ => s.parkPlaces i.course) .write
    (r.1 != some false, r.2)
  else if !(i.src.saveSpilled i.bundle).isEmpty then
    let r := s.areaReach i.course (i.src.info.ctxa + 0x1000) (backingSize i.src.w) .read
    (r.1 != some false, r.2)
  else (true, s)

/-- A PDONE that is selected without a trap meets the deadline of its request (R222). -/
def State.meetPre (s : State) : State :=
  match s.iss.bundle.i0 with
  | .pdone => s.onCourse s.iss.course fun x => { x with pre := x.pre.map fun p => { p with met := true } }
  | _ => s

/-- The checks of the bundle in issue (R100, R117, R209): it issues, or nothing of it is committed. -/
def State.judge (s : State) : State :=
  let c := s.iss.course
  match s.verdict (bInstrs s.iss.bundle) with
  | .go =>
    let d := s.meetPre.drawFor (bInstrs s.iss.bundle)
    if d.1 then
      let a := d.2.areaOpen
      if a.1 then a.2.admitWait else a.2.drop
    else d.2.drop
  | .sleep st k => (s.meetPre.obey (.sleep st k)).fairSleep c s.iss.src s.iss.pc
  | .stall => s.meetPre.obey .stall
  | v => s.obey v

/-! ## Fetch (R10, R117) -/

/-- The sixteen bytes of a bundle, none while its page is not there or when the fetch has failed. -/
def State.fetchBytes (s : State) (c : Nat) (pc : Word) : Option (List Byte) × State :=
  let x := s.course c
  let va := x.info.cbase + pc.setWidth 64
  let r := s.reach x.info.ctx va .fetch x.info.die x.info.lnch x.fetch
  let failed (n : Nat) : Option (List Byte) × State :=
    (none, (r.2.onCourse c fun y => { y with fetch := none }).accError c n va pc x.hnd)
  match r.1 with
  | .pa pa =>
    if region pa ≤ 1 && r.2.lineFailed (lineOf pa) then
      (none, (r.2.onCourse c fun y => { y with fetch := none }).hwError c 0 va)
    else if region pa ≤ 1 then
      (some (r.2.readPa pa 16), (r.2.dieUse false pa 16).onCourse c fun y => { y with fetch := none }) else failed 2
  | .wait u => (none, r.2.onCourse c fun y => { y with fetch := some u })
  | .fail n => failed n

def wordsOf (bs : List Byte) : List Word := (List.range 4).map fun k => wordOfBytes (bs.drop (4 * k))

/-! ## Convergence (R27 to R29) -/

/-- The member mask of a bundle that lanes select: a held explicit mask, else S31 or the live lanes. -/
def Course.memberMask (x : Course) (pc : Word) (explicit : Bool) : Mask :=
  if explicit then
    match x.convs.find? fun k => k.pc == pc && k.explicit with
    | some k => k.mask
    | none => x.s 31 &&& Mask.low x.w
  else x.live

/-- XLM when the first member selects the bundle (R29). -/
def Course.xlmNow (x : Course) (pc : Word) (explicit : Bool) (lanes : Mask) : Bool :=
  let m := x.memberMask pc explicit
  explicit && !(x.convs.any fun k => k.pc == pc && k.explicit) &&
    (m = 0 || ((lanes &&& m) != 0 && (m &&& ~~~x.live) != 0))

/-- Member lanes wait at the bundle. -/
def Course.arrive (x : Course) (pc : Word) (m : Mask) (explicit : Bool) : Course :=
  let k : Conv := ⟨pc, if explicit then x.memberMask pc explicit else 0, explicit⟩
  if m = 0 then x
  else { x.onLanes m (fun _ l => { l with st := .conv, wake := .conv explicit }) with
         convs := if x.convs.any fun k => k.pc == pc then x.convs else x.convs ++ [k] }

/-- Whether the explicit mask of a bundle is to be read from an S31 that an SLD is still to write (R27, R129). -/
def Course.maskBusy (x : Course) (pc : Word) (explicit : Bool) : Bool :=
  explicit && !(x.convs.any fun k => k.pc == pc && k.explicit) && x.sBusy 31

/-- Lanes select the convergence bundle at an address: members wait, and the others run slots 0 and 2. Two points are
the model's choice (log entry 93): the selection in which the last member arrives counts for the selector apart from the
issue that follows at once, and where the last member arrives together with lanes that the mask leaves out, these issue
first and the members at the next selection. -/
def State.selectConv (s : State) (c : Nat) (pc : Word) (b : Bundle) (lanes : Mask) : State :=
  let x := s.course c
  let m := lanes &&& x.memberMask pc (bExplicit b)
  if x.maskBusy pc (bExplicit b) then s
  else if x.xlmNow pc (bExplicit b) lanes then
    s.selTrap c { code := xlmCode, tsa := x.memberMask pc true, tlpc := pc, tlanes := lanes }
  else
    let s1 := s.onCourse c fun y => y.arrive pc m (bExplicit b)
    if lanes &&& ~~~m = 0 then
      let s2 := s1.fairSleep c x pc
      match (s2.course c).convReady with
      | some k =>
        if k.pc == pc then (s2.latch c pc b ((s2.course c).members k) true).judge else s2.checkState c
      | none => s2.checkState c
    else (s1.latch c pc b (lanes &&& ~~~m) false).judge

/-! ## Selection -/

/-- The waits of R12 that a course can see to have ended. -/
def State.wakes (s : State) (c i : Nat) : Bool :=
  let x := s.course c
  let l := x.lane i
  l.st != .ready && l.st != .retired && (match l.wake with
  | .counter n t => decide (x.n n ≤ t)
  | .push q => match s.queue? x q with
    | some k => k.canPush c
    | none => true
  | .pop q => match s.queue? x q with
    | some k => k.canPop c l.lpc
    | none => true
  | .qwRead => !x.qin.isEmpty || s.partnerEnded x
  | .qwWrite => !s.windowFull c x || s.partnerEnded x
  | .fill vs => (Mask.toList vs).all fun v => (x.ve v).st != .spilled
  | .none | .join _ | .conv _ => false)

/-- Wakes lanes whose wait is over. -/
def State.wakeLanes (s : State) (c : Nat) : State :=
  s.onCourse c fun y => y.onLanes (Mask.ofPred y.w (s.wakes c)) fun _ l => { l with st := .ready, wake := .none }

/-- The spilled registers that lanes wait for. -/
def Course.wantsFills (x : Course) : Mask :=
  (List.range x.w).foldl (fun a i =>
    match (x.lane i).st, (x.lane i).wake with
    | .fill, .fill v => a ||| v
    | _, _ => a) 0

/-- Starts the fills that lanes wait for and that could not start before (R59, R62). -/
def State.startFills (s : State) (c : Nat) : State :=
  (Mask.toList (s.course c).wantsFills).foldl (fun s v => s.startFill (c, v) []) s

/-- A bundle at an address selected by lanes, all of them READY or all members of a convergence that is
complete. -/
def State.selectAt (s : State) (c : Nat) (pc : Word) (lanes : Mask) (complete : Bool) : State :=
  let f := s.fetchBytes c pc
  match f.1 with
  | none => f.2
  | some bs =>
    let d := decodeBytes bs
    match (f.2.course c).ill (wordsOf bs) d, d with
    | some t, _ =>
      f.2.selTrap c { code := illCode, tsa := .ofNat 64 t.1, tsb := .ofNat 64 t.2, tlpc := pc, tlanes := lanes }
    | none, .ok b =>
      if bConv b && !complete then f.2.selectConv c pc b lanes else (f.2.latch c pc b lanes true).judge
    | none, .error _ => f.2

/-- Whether a course may be selected at all. -/
def Course.selectable (x : Course) : Bool :=
  x.pres == .resident && x.live != 0 && x.req.isNone && x.info.row.isNone &&
    !(match x.pre with | some p => p.force || p.left | none => false)

/-- One selection of a course: pending errors first, then a convergence that is complete, then the turn. -/
def State.selectCourse (s : State) (c : Nat) : State :=
  if !(s.course c).selectable then s
  else
    match s.deliver c with
    | some s' => s'
    | none =>
      let s1 := (s.landDue c (s.clkOf c)).wakeLanes c
      let x := s1.course c
      match x.convReady with
      | some k => s1.selectAt c k.pc (x.members k) true
      | none =>
        let s2 := s1.onCourse c Course.fixTurn
        let y := s2.course c
        if y.ready = 0 then s2
        else s2.selectAt c y.turn (y.ready &&& (y.maskOf fun l => l.lpc == y.turn)) false

/-- Whether a course would make a selection in this ac. -/
def State.canSelect (s : State) (c : Nat) : Bool :=
  let x := s.course c
  x.selectable && (x.ready != 0 || x.convReady.isSome || (Mask.ofPred x.w (s.wakes c)) != 0 || !x.pend.isEmpty ||
    x.pre.isSome)

/-- The courses of a core in the order of R539. -/
def State.rotation (s : State) (k : Nat × Nat) : List Nat :=
  let ids := (s.residents k).map (·.1)
  ids.filter (fun c => (s.core k).rr < c) ++ ids.filter (fun c => c ≤ (s.core k).rr)

/-- The next course of the ac that puts a bundle in issue: only such a course takes a pipe and its place in the rotation
(R539). -/
def State.nextCourseFrom (s : State) : List Nat → State
  | [] => { s with iss := { s.iss with more := [], pipes := 0 } }
  | c :: l =>
    if s.iss.pipes = 0 then { s with iss := { s.iss with more := [] } }
    else if !s.canSelect c then State.nextCourseFrom s l
    else
      let s1 := s.selectCourse c
      if s1.iss.valid then
        { s1.onCore s.iss.core (fun k => { k with rr := c }) with iss := { s1.iss with more := l, pipes := s.iss.pipes - 1 } }
      else State.nextCourseFrom { s1 with iss := { s1.iss with more := l, pipes := s.iss.pipes } } l

/-- The state that the sequencer holds for the row, as a core's course sees it. -/
def Course.share (x lead : Course) : Course :=
  let lane (p : Lane × Nat) : Lane :=
    let l := lead.lane p.2
    { p.1 with lpc := l.lpc, st := l.st, lc := l.lc }
  { x with sr := lead.sr, ranked := lead.ranked, mode := lead.mode, fairt := lead.fairt, js := lead.js,
           trap := lead.trap, lanes := x.lanes.zipIdx.map lane, convs := lead.convs }

/-- Slot-0 rows that write registers which each core of a row holds for itself: PW, FLAGS, SPILLS and V63 (R36). -/
def ownWrites : Instr → Bool
  | .loopi .. | .loop .. | .call .. | .callx .. => true
  | .mts _ i => i == 0x02#9 || i == 0x06#9 || i == 0x18#9
  | _ => false

/-- A bundle that a row sequencer hands to a core. A core that takes the bundle later has the sequencer's state of its issue
while it executes it, and one that runs slot 0 alone keeps its own registers; both take their other part back in the end
(R365; log entry 38). -/
def State.enterRow (s : State) (i : Issue) : State :=
  let now := s.course i.course
  if i.late.isSome then
    { s.onCourse i.course fun x => x.share i.src with iss := { i with late := some now } }
  else { s with iss := { i with late := if i.lone && ownWrites i.bundle.i0 then some now else none } }

/-- The next bundle to execute within a step: one handed on by a row sequencer, else a course's. -/
def State.nextCourse (s : State) : State :=
  match s.rowq with
  | i :: l => { s with rowq := l }.enterRow i
  | [] => s.nextCourseFrom s.iss.more

/-! ## After the bundle -/

/-- The L registers after a bundle (R41). -/
def Course.shiftL (x : Course) (r1 r2 : VReg) : Course :=
  { x with l := [r1, x.l.getD 0 VReg.zero, r2, x.l.getD 2 VReg.zero] }

def isYld : Instr → Bool
  | .yld => true
  | _ => false

/-- What follows every bundle, the state checks apart. -/
def State.finishIssue (s : State) : State :=
  let i := s.iss
  let s1 := s.onCourse i.course fun x =>
    if i.lone then (match i.late with | some own => own.share x | none => x)
    else
      let y := x.shiftL i.r1 i.r2
      let z := if i.pops then { y with qin := y.qin.tail } else y
      let u := if z.pres == .ended then z else z.fair i.src i.pc i.exec (isYld i.bundle.i0)
      match i.late with | some now => u.share now | none => u
  s1.drop

/-- Whether the bundle in issue is that of a column of a row other than column 0. -/
def Issue.follower (i : Issue) : Bool := i.lead.isSome && fld i.src.info.rank 0 4 != 0

/-- What follows every bundle. The lanes of a row are held against R29 and R30 once, for column 0 and the bundle that the
sequencer has issued (R36). -/
def State.finishBundle (s : State) : State :=
  if s.iss.follower || (s.iss.late.isSome && !s.iss.lone) then s.finishIssue else s.finishIssue.checkState s.iss.course

/-- The bundle in issue is over, unless an instruction of it ended it already. -/
def State.close (s : State) : State := if s.iss.valid then s.finishBundle else s

/-- MFS of POOL, whose fields are those before its bundle draws or frees a register (R47, R100). -/
def readsPool : Instr → Bool
  | .mfs _ i => i == 0x17#9
  | _ => false

/-- The order of the slots: slot 0 last, but for a read of POOL, and CONT after all (R47, R100, R421). A register that REST
names and another slot of its bundle writes has REST's write as the later one, therefore: the model's choice (log
entry 113). -/
def slotOrder (b : Bundle) : List Nat :=
  if readsPool b.i0 then [0, 1, 2, 3]
  else match b.i3 with
  | .cont .. => [1, 2, 0, 3]
  | _ => [1, 2, 3, 0]

end Sys2Proof.Machine
end

