-- ==== Sys2Proof/Machine/Row.lean ====
section
/-! DEFINITION. The issue of a bundle to the cores of a Tower row in a stream: one sequencer executes slot 0
and every core executes slots 1 to 3, each when it can (R36, R130, R147, R270, R363 to R368). -/

namespace Sys2Proof.Machine

/-- The column of the row whose pending error R209 takes first, the lowest such column (R368). -/
def State.rowError (s : State) (cs : List Nat) : Option Nat :=
  let withPend := cs.filter fun c => ((s.course c).pend.filter fun e => !(s.course c).hnd || e.hnd) != []
  minBy (fun c => (((s.course c).pend.filter fun e => !(s.course c).hnd || e.hnd).map errRank).foldl min 9) withPend

/-- The bundle as each column would issue it, with its verdict. -/
def State.rowLatch (s : State) (cs : List Nat) (pc : Word) (b : Bundle) : List (Issue × Verdict) × State :=
  cs.foldl (fun (acc : List (Issue × Verdict) × State) c =>
    let x := acc.2.course c
    let s1 := acc.2.latch c pc b x.ready true
    (acc.1 ++ [(s1.iss, s1.verdict (bInstrs b))], s1)) (([] : List (Issue × Verdict)), s)

/-- The trap that the row takes: the first by R209, from the lowest column. -/
def rowTrap (l : List (Issue × Verdict)) : Option (Nat × Trap) :=
  let ts : List (Nat × Trap) := l.filterMap fun p => match p.2 with
    | .trap t => some (p.1.course, t)
    | _ => none
  minBy (fun p => trapRank p.2.code) ts

def Verdict.goes : Verdict → Bool
  | .go => true
  | _ => false

/-- The lanes of the row go to sleep at the bundle, with the kind of the first column that waits; each column keeps what
it waits for itself (R11, R36, R147). -/
def State.rowSleep (s : State) (l : List (Issue × Verdict)) (st : LSt) : State :=
  l.foldl (fun s p =>
    let c := p.1.course
    let k : Wake := match p.2 with | .sleep _ k => k | _ => .none
    let s1 := (s.onCourse c fun x => x.sleep x.live st k).joinQueue c p.1.pc k
    match k with
    | .fill vs => (Mask.toList vs).foldl (fun s v => s.startFill (c, v) []) s1
    | _ => s1) s

/-- Whether no column of a sleeping row waits any longer (R147). -/
def State.rowWakes (s : State) (cs : List Nat) : Bool :=
  cs.all fun c => (List.range (s.course c).w).all fun i =>
    let l := (s.course c).lane i
    l.st == .retired || ((l.st == .waitc || l.st == .queue || l.st == .qwin || l.st == .fill) && (l.wake == .none || s.wakes c i))

/-- The lanes of a row whose wait is over become READY together. -/
def State.rowWake (s : State) (cs : List Nat) : State :=
  if s.rowWakes cs then
    cs.foldl (fun s c => s.onCourse c fun x => x.onLanes x.live fun _ l => { l with st := .ready, wake := .none }) s
  else s

/-- The last checks of a row that issues as one: registers in every core, then the words of a WAITA in every lane. -/
def State.rowAdmit (s : State) (l : List (Issue × Verdict)) : Option Bool × State :=
  let d := l.foldl (fun (acc : Bool × State) p =>
    let r := { acc.2 with iss := p.1 }.drawFor (bInstrs p.1.bundle)
    (acc.1 && r.1, r.2)) (true, s)
  if !d.1 then (none, d.2)
  else
    let w := l.foldl (fun (acc : Bool × State) p =>
      let r := { acc.2 with iss := p.1 }.waitaTest false
      (acc.1 && r.1 == 0, r.2)) (true, d.2)
    (some w.1, w.2)

/-- Slot-0 rows that end or leave the stream's code for every core (R141, R143, R144). -/
def rowLeaves : Instr → Bool
  | .exit | .trap _ | .eret => true
  | _ => false

/-- Slot-0 rows that the sequencer executes with registers of column 0 (R130, R135): it waits until column 0 has come to the
bundle. -/
def ownReads : Instr → Bool
  | .mfs _ i => [0x02, 0x06, 0x17, 0x18, 0x1B].contains i.toNat
  | .vtos .. | .vtosF .. | .ret | .callx .. => true
  | _ => false

/-- Bundles that no core issues before every core can: convergence bundles, WAITC, WAITA (R366), and EXIT, TRAP and ERET,
which every core takes at one place of the stream (log entry 38). -/
def rowSyncs (b : Bundle) : Bool :=
  bConv b || rowLeaves b.i0 || (match b.i0 with | .waitc .. => true | _ => false) ||
    (match b.i2 with | .waita .. => true | _ => false)

/-- The slot-0 part and the rest of a bundle that a core holds back (R365). -/
def bSlot0 (b : Bundle) : Bundle := { b with i1 := .nop, i2 := .nop, i3 := .nop }
def bRest (b : Bundle) : Bundle := { b with i0 := .nop }

/-- Whether an issue adds a collective, and whether one finds room beside those on their way (R519). -/
def Issue.collects (i : Issue) : Bool :=
  i.valid && (bInstrs i.bundle).any fun ins => isCollective ins && i.mask (profile ins).slot != 0
def State.collFull (s : State) (ahead : List Issue) (i : Issue) : Bool :=
  i.collects && decide (64 ≤ s.colls.length + ((s.rowq ++ ahead).filter Issue.collects).length)

/-- Whether a hardware error has taken the row away: it is fenced, or starts again (R220, R369). -/
def State.rowLost (s : State) (l : List (Issue × Verdict)) : Bool :=
  l.any fun p => !((s.course? p.1.course).any fun x => x.pres == .resident)

/-- One bundle of a row that every core issues or none. -/
def State.rowTogether (s : State) (l : List (Issue × Verdict)) (lead : Course) (pc : Word) (lanes : Mask) : State :=
  match l.findSome? fun p => match p.2 with | .sleep st _ => some st | _ => none with
  | some st => (s.rowSleep l st).drop
  | none =>
    if !(l.all fun p => p.2.goes) || s.collFull (l.tail.map (·.1)) ((l.head?.map (·.1)).getD Issue.idle) then s.drop
    else
      let a := s.rowAdmit l
      if a.2.rowLost l then a.2.drop
      else match a.1 with
      | none => a.2.drop
      | some false => (a.2.rowSleep l .waita).drop
      | some true =>
        let go (p : Issue × Verdict) : Issue := { p.1 with pass := true, lead := some lead }
        let s1 := l.foldl (fun s p => s.onCourse p.1.course fun x => x.advance lanes pc true) a.2.drop
        { s1 with rowq := s1.rowq ++ (l.tail.map go) ++ ((l.head?.map go).toList) }

/-- One bundle of a row that each core issues when it can: slot 0 acts now, and a core that cannot issue the other slots,
or that holds earlier bundles, keeps them (R364, R365). -/
def State.rowApart (s : State) (l : List (Issue × Verdict)) (held : List Nat) (lead : Course) (pc : Word) (lanes : Mask) :
    State :=
  let one (acc : List Issue × State) (p : Issue × Verdict) : List Issue × State :=
    let i : Issue := { p.1 with pass := true, lead := some lead }
    let d := if held.contains p.1.course || !p.2.goes || acc.2.collFull acc.1 i then (false, acc.2)
      else { acc.2 with iss := p.1 }.drawFor (bInstrs p.1.bundle)
    -- slot 0 with a write of the core's own registers is kept with the others
    let own := ownWrites i.bundle.i0
    if d.1 then (acc.1 ++ [i], d.2)
    else (acc.1 ++ [{ i with bundle := bSlot0 i.bundle, lone := true }],
          { d.2 with rowbuf := d.2.rowbuf ++ [{ i with
              pass := false, bundle := if own then i.bundle else bRest i.bundle, late := if own then some i.src else none }] })
  let r := l.foldl one ([], s)
  let s1 := l.foldl (fun s p => s.onCourse p.1.course fun x => x.advance lanes pc true) r.2.drop
  { s1 with rowq := s1.rowq ++ r.1.tail ++ r.1.head?.toList }

/-- Slot 0 of the bundle, as column 0 finds it: what the sequencer executes once (R130). -/
def State.rowSlot0 (s : State) (l : List (Issue × Verdict)) (b : Bundle) : List (Issue × Verdict) :=
  match l.head? with
  | some p => [(p.1, { s with iss := p.1 }.verdict [b.i0])]
  | none => []

/-- The registers that slot 0 waits for start to fill. -/
def State.rowFill (s : State) (l : List (Issue × Verdict)) : State :=
  l.foldl (fun s p => match p.2 with
    | .sleep _ (.fill vs) => (Mask.toList vs).foldl (fun s v => s.startFill (p.1.course, v) []) s
    | _ => s) s.drop

/-- One bundle of a row: nothing of it is committed, or it is handed to every core, column 0 last. A trap of slot 0, or of a
core that holds nothing back, is taken once every core has issued the bundles before (R368). -/
def State.rowSelect (s : State) (cs held : List Nat) (c0 : Nat) (pc : Word) (lanes : Mask) : State :=
  let f := s.fetchBytes c0 pc
  match f.1 with
  | none => f.2
  | some bs =>
    let d := decodeBytes bs
    match (f.2.course c0).ill (wordsOf bs) d, d with
    | some t, _ =>
      if !held.isEmpty then f.2
      else f.2.selTrap c0 { code := illCode, tsa := .ofNat 64 t.1, tsb := .ofNat 64 t.2, tlpc := pc, tlanes := lanes }
    | none, .error _ => f.2
    | none, .ok b =>
      let lead := f.2.course c0
      if (rowSyncs b && !held.isEmpty) || (((bInstrs b).map scalarsOf).flatten.any lead.sBusy) then f.2
      else
        let l := f.2.rowLatch cs pc b
        let free := l.1.filter fun p => !held.contains p.1.course
        let first := l.2.rowSlot0 l.1 b
        match rowTrap (first ++ free) with
        | some (c, t) => if held.isEmpty then (l.2.selTrap c t).drop else l.2.drop
        | none =>
          if rowSyncs b then l.2.rowTogether l.1 lead pc lanes
          else if !(first.all fun p => p.2.goes) then l.2.rowFill first
          else if ownReads b.i0 && held.contains c0 then l.2.drop
          else l.2.rowApart l.1 held lead pc lanes

/-- A bundle that a core of a row holds back, with the core's registers as they are now and the sequencer's state as it
issued the bundle (R365). -/
def State.rowAgain (s : State) (i : Issue) : State :=
  let s1 := s.latch i.course i.pc i.bundle i.exec true
  { s1 with iss := { s1.iss with src := s1.iss.src.share i.src, lead := i.lead, late := i.late } }

/-- The oldest bundle that a core of a row holds back. -/
def State.heldBy (s : State) (c : Nat) : Option Issue := s.rowbuf.find? fun i => i.course == c && i.valid

/-- Marks the bundle that has trapped. -/
def State.rowMark (s : State) (c : Nat) : State :=
  match s.heldBy c with
  | some i => { s with rowbuf := s.rowbuf.map fun j => if j == i then { j with pass := true } else j }
  | none => s

/-- Each core of a row tries the oldest bundle that it holds back. The answer holds the traps that they raise. -/
def State.rowDrain (s : State) (cs : List Nat) : List (Issue × Verdict) × State :=
  cs.foldl (fun (acc : List (Issue × Verdict) × State) c =>
    match acc.2.heldBy c with
    | none => acc
    | some i =>
      let s1 := acc.2.rowAgain i
      if s1.collFull [] s1.iss then (acc.1, s1.drop) else
      match s1.verdict (bInstrs i.bundle) with
      | .trap t => (acc.1 ++ [(s1.iss, .trap t)], s1.drop)
      | .sleep _ (.fill vs) => (acc.1, (Mask.toList vs).foldl (fun s v => s.startFill (c, v) []) s1.drop)
      | .go =>
        let d := s1.drawFor (bInstrs i.bundle)
        if d.1 then
          (acc.1, { d.2.drop with rowbuf := d.2.rowbuf.erase i, rowq := d.2.rowq ++ [{ s1.iss with pass := true }] })
        else (acc.1, d.2.drop)
      | _ => (acc.1, s1.drop)) ([], s)

/-- The courses, by column, of the stream that runs on a row. -/
def State.running (s : State) (die row : Nat) : List Nat :=
  match (s.die die).rows.find? fun r => r.started && r.row == row with
  | none => []
  | some r =>
    let lead := s.course (r.courses.headD 0)
    if lead.pres != .resident || lead.live = 0 || (s.die die).health.stopped || !s.rowq.isEmpty then [] else r.courses

/-- The next bundle of a started stream, once its cores have come to the ac (R364, R365). A bundle that a core has held back
traps with an empty TLANES: the frame is the sequencer's, which has gone on (R210, R368; log entry 38). -/
def State.rowIssue (s : State) (die row : Nat) : State :=
  match s.running die row with
  | [] => s
  | c0 :: l =>
    let cs := c0 :: l
    let lead := s.course c0
    let s2 := (cs.foldl (fun s c => s.onCourse c fun x => x.share lead) s).rowWake cs
    match s2.rowError cs with
    | some c => (s2.deliver c).getD s2
    | none =>
      let held := cs.filter fun c => (s2.heldBy c).isSome
      let full := cs.any fun c => 16 ≤ (s2.rowbuf.filter fun i => i.course == c && i.valid).length
      let d := s2.rowDrain cs
      match rowTrap d.1 with
      | some (c, t) => (s2.rowMark c).selTrap c { t with tlanes := 0 }
      | none =>
        let x := d.2.course c0
        if x.ready = 0 || full then d.2 else d.2.rowSelect cs held c0 x.turn x.ready

/-- Slot-0 rows that the sequencer executes once for the row (R130); the others act on each core's own
registers too. -/
def rowOnce : Instr → Bool
  | .sld .. | .sst .. | .exit | .trap .. | .eret | .govq .. | .mfs .. => true
  | _ => false

end Sys2Proof.Machine
end

