-- ==== Sys2Proof/Machine/Control.lean ====
section
/-! DEFINITION. Slot 0: control transfer, loops, joins, traps and special-register moves (R22 to R26, R44 to
R48, R129 to R150, R155). -/

namespace Sys2Proof.Machine

/-! ## Control transfer (R131 to R135) -/

/-- Lanes of a mask branch. -/
def State.jump (s : State) (m : Mask) (target : Nat → Word) : State :=
  s.onCourse s.iss.course fun x => x.onLanes m fun i l => { l with lpc := target i }

/-- LPC + 16 times a displacement (R108). -/
def relTarget (pc : Word) (disp : Int) : Word := pc + .ofInt 32 (16 * disp)

/-- Flags that slot 0 raises as it reads. -/
def State.raiseNow (s : State) (f : DWord) : State := s.onCourse s.iss.course fun x => x.raise f

/-- The target a lane holds, or in a stream the one lane 0 of column 0 holds (R130, R135). -/
def State.laneTarget (s : State) (r : Reads) (i : Nat) : Word := r.v 0 (if s.iss.src.info.row.isSome then 0 else i)

/-- The link of a call in V63 (R132, R134). -/
def State.link (s : State) (ins : Instr) : State :=
  s.writeAll ins [List.replicate s.iss.src.w (s.iss.pc + 16)] 0

def execNop (s : State) : Host.Outcome State Fault Refusal := gated .nop s fun s => s

def execBra (disp : BitVec 21) (s : State) : Host.Outcome State Fault Refusal :=
  gated (.bra disp) s fun s => s.jump s.iss.exec fun _ => relTarget s.iss.pc disp.toInt

def execBrp (p : BitVec 3) (disp : BitVec 21) (s : State) : Host.Outcome State Fault Refusal :=
  gated (.brp p disp) s fun s =>
    s.jump (s.iss.exec &&& s.iss.src.maskOf fun l => l.pred p.toNat) fun _ => relTarget s.iss.pc disp.toInt

def execBrs (r : BitVec 5) (i : BitVec 19) (s : State) : Host.Outcome State Fault Refusal :=
  gated (.brs r i) s fun s =>
    if s.sIn r = 0 then s else s.jump s.iss.exec fun _ => relTarget s.iss.pc i.toInt

def execBrx (a : BitVec 7) (ua : Bool) (s : State) : Host.Outcome State Fault Refusal :=
  gated (.brx a ua) s fun s =>
    let r := s.iss.reads (.brx a ua)
    ((s.raiseNow r.flags).jump s.iss.exec (s.laneTarget r)).releases (.brx a ua)

def execCall (disp : BitVec 21) (s : State) : Host.Outcome State Fault Refusal :=
  gated (.call disp) s fun s =>
    (s.link (.call disp)).jump s.iss.exec fun _ => relTarget s.iss.pc disp.toInt

def execCallx (a : BitVec 7) (ua : Bool) (s : State) : Host.Outcome State Fault Refusal :=
  gated (.callx a ua) s fun s =>
    let r := s.iss.reads (.callx a ua)
    (((s.raiseNow r.flags).link (.callx a ua)).jump s.iss.exec (s.laneTarget r)).releases (.callx a ua)

/-- A lane returns; a target equal to the top of its ray-return stack pops it (R350). -/
def Lane.ret (l : Lane) (t : Word) : Lane :=
  if l.depth != 0 && l.rays.head? == some t then { l with lpc := t, depth := l.depth - 1, rays := l.rays.tail }
  else { l with lpc := t }

def execRet (s : State) : Host.Outcome State Fault Refusal :=
  gated .ret s fun s =>
    let r := s.iss.reads .ret
    (s.raiseNow r.flags).onCourse s.iss.course fun x => x.onLanes s.iss.exec fun i l => l.ret (s.laneTarget r i)

/-! ## Loops (R136 to R139) -/

def lcCnt (lc : Word) : Nat := lc.toNat % 2 ^ 30
def lcEpi (lc : Word) : Nat := lc.toNat / 2 ^ 30
def lcOf (cnt epi : Nat) : Word := .ofNat 32 (cnt % 2 ^ 30 + epi % 4 * 2 ^ 30)

/-- P4 to P7 of a predicate window replaced. -/
def stageWindow (pw : BitVec 8) (p4 p5 p6 p7 : Bool) : BitVec 8 :=
  (pw &&& 0x0F#8) ||| (if p4 then 0x10#8 else 0) ||| (if p5 then 0x20#8 else 0) ||| (if p6 then 0x40#8 else 0) |||
    (if p7 then 0x80#8 else 0)

def execLoopi (n : BitVec 19) (s : State) : Host.Outcome State Fault Refusal :=
  gated (.loopi n) s fun s =>
    s.onCourse s.iss.course fun x => x.onLanes s.iss.exec fun _ l =>
      { l with lc := lcOf n.toNat (lcEpi l.lc), pw := stageWindow l.pw (n != 0) false false false }

/-- LC after a pass: CNT first, then EPI. -/
def loopStep (lc : Word) : Word :=
  if 0 < lcCnt lc then lcOf (lcCnt lc - 1) (lcEpi lc)
  else if 0 < lcEpi lc then lcOf 0 (lcEpi lc - 1)
  else lc

/-- LOOP in one lane (R138). -/
def Lane.loop (l : Lane) (pc target : Word) : Lane :=
  let lc := loopStep l.lc
  { l with lc := lc,
           pw := stageWindow l.pw (decide (0 < lcCnt lc)) (l.pw.getLsbD 4) (l.pw.getLsbD 5) (l.pw.getLsbD 6),
           lpc := if 0 < lcCnt lc || 0 < lcEpi lc then target else pc + 16 }

def execLoop (disp : BitVec 21) (s : State) : Host.Outcome State Fault Refusal :=
  gated (.loop disp) s fun s =>
    s.onCourse s.iss.course fun x => x.onLanes s.iss.exec fun _ l =>
      l.loop s.iss.pc (relTarget s.iss.pc disp.toInt)

/-! ## Joins, yield, exit (R22, R24, R25, R141) -/

def execJarm (j : BitVec 3) (s : State) : Host.Outcome State Fault Refusal :=
  gated (.jarm j) s fun s =>
    s.onCourse s.iss.course fun x =>
      ({ x with js := modAt j.toNat (fun m => m ||| s.iss.exec) x.js } : Course).releaseJoins

def execJwait (j : BitVec 3) (s : State) : Host.Outcome State Fault Refusal :=
  gated (.jwait j) s fun s =>
    s.onCourse s.iss.course fun x =>
      (x.onLanes (s.iss.exec &&& x.js.getD j.toNat 0) fun _ l =>
        { l with lpc := s.iss.pc, st := .join, wake := .join j.toNat }).releaseJoins

/-- YLD acts through the expiry step that follows its bundle. -/
def execYld (s : State) : Host.Outcome State Fault Refusal := gated .yld s fun s => s

def execExit (s : State) : Host.Outcome State Fault Refusal :=
  gated .exit s fun s =>
    if s.iss.src.info.row.isSome then (s.together s.iss.course).foldl (fun s c => s.retire c (s.course c).live) s
    else s.retire s.iss.course s.iss.exec

/-! ## Traps (R143, R144) -/

def execTrap (k : BitVec 19) (s : State) : Host.Outcome State Fault Refusal :=
  gated (.trap k) s fun s =>
    s.finishIssue.takeTrap s.iss.course
      { code := swtCode, tsa := k.setWidth 64, tlpc := s.iss.pc + 16, tlanes := s.iss.exec } false

def execEret (s : State) : Host.Outcome State Fault Refusal :=
  gated .eret s fun s =>
    let cs := if s.iss.src.info.row.isSome then s.together s.iss.course else [s.iss.course]
    let t := s.finishIssue.rowUnpark cs (.ofNat 32 (fld s.iss.src.trap.tlpc 4 28 * 16))
    (cs.foldl (fun s c => s.onCourse c Course.eret) t).checkState s.iss.course

/-! ## WAITC (R147) -/

/-- Once its test has passed WAITC has no further effect. -/
def execWaitc (n : BitVec 2) (t : BitVec 7) (s : State) : Host.Outcome State Fault Refusal :=
  gated (.waitc n t) s fun s => s

/-! ## Special registers (R44 to R48, R146, R148 to R150, R362) -/

/-- POOL (R47), before any slot of its bundle has drawn or freed a register (R100). -/
def State.poolWord (s : State) (c : Nat) : DWord :=
  let x := s.course c
  let pushed := match x.info.partner with | some p => (s.course p).window | none => 0
  .ofNat 64 (s.poolFree x.coreKey % 2 ^ 16 + (x.regs + pushed) % 2 ^ 16 * 2 ^ 16 + x.info.floor % 2 ^ 16 * 2 ^ 32)

/-- NCNT (R146). -/
def Course.ncnt (x : Course) : DWord :=
  .ofNat 64 (x.n 0 % 2 ^ 16 + x.n 1 % 2 ^ 16 * 2 ^ 16 + x.n 2 % 2 ^ 16 * 2 ^ 32 + x.n 3 % 2 ^ 16 * 2 ^ 48)

/-- The special register at an index, as the bundle reads it. -/
def State.special (s : State) (i : Nat) : DWord :=
  let c := s.iss.course
  let x := s.iss.src
  let l := x.lane (if x.info.row.isSome then 0 else Mask.first s.iss.exec)
  match i with
  | 0x00 => .ofNat 64 x.w
  | 0x01 => s.iss.pc.setWidth 64
  | 0x02 => (l.pw ||| 1).setWidth 64
  | 0x03 => l.lc.setWidth 64
  | 0x04 => x.mode
  | 0x05 => x.fairt
  | 0x06 => x.flags
  | 0x07 => x.trap.tvec
  | 0x08 => x.trap.tcause
  | 0x09 => x.trap.tlpc
  | 0x0A => x.trap.tlanes
  | 0x0B => x.trap.twait
  | 0x0C => x.trap.tsa
  | 0x0D => x.trap.tsb
  | 0x0E => x.info.ctxa
  | 0x0F => x.info.cbase
  | 0x10 => x.info.blkid.setWidth 64
  | 0x11 => .ofNat 64 x.info.crsid
  | 0x12 => x.info.lnch.setWidth 64
  | 0x13 => .ofNat 64 x.info.core
  | 0x14 => x.info.rank
  | 0x15 => .ofNat 64 (s.core x.coreKey).clk
  | 0x16 => .ofNat 64 s.time
  | 0x17 => s.poolWord c
  | 0x18 => x.spills
  | 0x19 => l.depth.setWidth 64
  | 0x1A => (s.ctx x.info.ctx).gov.govd
  | _ => x.ncnt

def execMfs (d : BitVec 5) (i : BitVec 9) (s : State) : Host.Outcome State Fault Refusal :=
  gated (.mfs d i) s fun s =>
    let t := s.writeS d (s.special i.toNat)
    if i == 0x14#9 && s.iss.src.info.row.isSome then
      t.onCourse s.iss.course fun x => { x with ranked := x.ranked ||| (1#32 <<< d.toNat) }
    else t

/-- A write of FAIRT stores every field, LIM = 0 as 1 (R18). -/
def fairWrite (v : DWord) : DWord :=
  fairOf (if fairLim v = 0 then 1 else fairLim v) (fairCnt v) (fairMd v) (fairRp v)

/-- A write of MODE; PPR going from 1 to 0 resets the selector (R21, R45). -/
def Course.setMode (x : Course) (v : DWord) : Course :=
  let m := v &&& modeMask
  { x with mode := m, fairt := if x.ppr && !m.getLsbD 5 then fairReset x.fairt else x.fairt }

/-- A write of one of the trap registers, of its RW fields (R149, R216 to R218). -/
def TrapRegs.write (t : TrapRegs) (i w : Nat) (v : DWord) : TrapRegs :=
  match i with
  | 0x07 => { t with tvec := v &&& 0xFFFFFFF0#64 }
  | 0x08 => { t with tcause := (v &&& 0x1FFFF#64) ||| (t.tcause &&& 0x20000#64) }
  | 0x09 => { t with tlpc := v &&& 0xFFFFFFFF#64 }
  | 0x0A => { t with tlanes := v &&& Mask.low w }
  | 0x0B => { t with twait := v &&& 0xFFFFFFFF0000000F#64 }
  | 0x0C => { t with tsa := v }
  | _ => { t with tsb := v }

/-- A write of a special register by the executing lanes. -/
def Course.setSpecial (x : Course) (m : Mask) (i : Nat) (v : DWord) : Course :=
  match i with
  | 0x02 => x.onLanes m fun _ l => { l with pw := (v.setWidth 8 &&& 0xFE#8) ||| 1 }
  | 0x03 => x.onLanes m fun _ l => { l with lc := v.setWidth 32 }
  | 0x04 => x.setMode v
  | 0x05 => { x with fairt := fairWrite v }
  | 0x06 => { x with flags := v &&& flagsMask }
  | 0x18 => { x with spills := v }
  | _ => { x with trap := x.trap.write i x.w v }

def execMts (a : BitVec 5) (i : BitVec 9) (s : State) : Host.Outcome State Fault Refusal :=
  gated (.mts a i) s fun s =>
    s.onCourse s.iss.course fun x => x.setSpecial s.iss.exec i.toNat (s.sIn a)

/-! ## The governor query (R155, R482) -/

def Gov.longest (g : Gov) : Nat := (g.h.map BitVec.toNat).foldl max 0

/-- The remaining budget in µs, rounded down, or the largest number when there is no deadline. -/
def Gov.query (g : Gov) (time : Nat) : DWord :=
  if g.govd = 0 then 0x7FFFFFFFFFFFFFFF#64
  else
    let x : DWord := g.govd - .ofNat 64 time - g.tail.setWidth 64 - .ofNat 64 g.longest
    .ofInt 64 (x.toInt / 1000)

def execGovq (d : BitVec 5) (s : State) : Host.Outcome State Fault Refusal :=
  gated (.govq d) s fun s => s.writeS d ((s.ctx s.iss.src.info.ctx).gov.query s.time)

end Sys2Proof.Machine
end

