-- ==== Sys2Proof/Machine/Scalar.lean ====
section
/-! DEFINITION. The scalar instructions of slot 0 (R156, R157, R159). -/

namespace Sys2Proof.Machine

/-- A scalar result (R129). -/
def scalarOp (ins : Instr) (d : SReg) (f : State → DWord) (s : State) : Host.Outcome State Fault Refusal :=
  gated ins s fun s => s.writeS d (f s)

def execSadd (d a b : BitVec 5) (s : State) : Host.Outcome State Fault Refusal :=
  scalarOp (.sadd d a b) d (fun s => s.sIn a + s.sIn b) s

def execSsub (d a b : BitVec 5) (s : State) : Host.Outcome State Fault Refusal :=
  scalarOp (.ssub d a b) d (fun s => s.sIn a - s.sIn b) s

def execSmul (d a b : BitVec 5) (s : State) : Host.Outcome State Fault Refusal :=
  scalarOp (.smul d a b) d (fun s => s.sIn a * s.sIn b) s

/-- Bits [127:64] of the product. -/
def mulHigh (u : Bool) (a b : DWord) : DWord :=
  if u then .ofNat 64 (a.toNat * b.toNat / 2 ^ 64) else .ofInt 64 (a.toInt * b.toInt / 2 ^ 64)

def execSmulh (d a b : BitVec 5) (u : Bool) (s : State) : Host.Outcome State Fault Refusal :=
  scalarOp (.smulh d a b u) d (fun s => mulHigh u (s.sIn a) (s.sIn b)) s

def execSand (d a b : BitVec 5) (s : State) : Host.Outcome State Fault Refusal :=
  scalarOp (.sand d a b) d (fun s => s.sIn a &&& s.sIn b) s

def execSor (d a b : BitVec 5) (s : State) : Host.Outcome State Fault Refusal :=
  scalarOp (.sor d a b) d (fun s => s.sIn a ||| s.sIn b) s

def execSxor (d a b : BitVec 5) (s : State) : Host.Outcome State Fault Refusal :=
  scalarOp (.sxor d a b) d (fun s => s.sIn a ^^^ s.sIn b) s

/-- The shift amount a register gives: its low six bits. -/
def shiftAmount (v : DWord) : Nat := v.toNat % 64

def execSshl (d a b : BitVec 5) (s : State) : Host.Outcome State Fault Refusal :=
  scalarOp (.sshl d a b) d (fun s => s.sIn a <<< shiftAmount (s.sIn b)) s

def execSshlImm (d a : BitVec 5) (k : BitVec 6) (s : State) : Host.Outcome State Fault Refusal :=
  scalarOp (.sshlImm d a k) d (fun s => s.sIn a <<< k.toNat) s

def execSshr (d a b : BitVec 5) (s : State) : Host.Outcome State Fault Refusal :=
  scalarOp (.sshr d a b) d (fun s => s.sIn a >>> shiftAmount (s.sIn b)) s

def execSshrImm (d a : BitVec 5) (k : BitVec 6) (s : State) : Host.Outcome State Fault Refusal :=
  scalarOp (.sshrImm d a k) d (fun s => s.sIn a >>> k.toNat) s

def execSsra (d a b : BitVec 5) (s : State) : Host.Outcome State Fault Refusal :=
  scalarOp (.ssra d a b) d (fun s => (s.sIn a).sshiftRight (shiftAmount (s.sIn b))) s

def execSsraImm (d a : BitVec 5) (k : BitVec 6) (s : State) : Host.Outcome State Fault Refusal :=
  scalarOp (.ssraImm d a k) d (fun s => (s.sIn a).sshiftRight k.toNat) s

/-- Signed or unsigned order. -/
def scalarLt (u : Bool) (a b : DWord) : Bool := if u then a.ult b else a.slt b

def execSmin (d a b : BitVec 5) (u : Bool) (s : State) : Host.Outcome State Fault Refusal :=
  scalarOp (.smin d a b u) d (fun s => if scalarLt u (s.sIn b) (s.sIn a) then s.sIn b else s.sIn a) s

def execSmax (d a b : BitVec 5) (u : Bool) (s : State) : Host.Outcome State Fault Refusal :=
  scalarOp (.smax d a b u) d (fun s => if scalarLt u (s.sIn a) (s.sIn b) then s.sIn b else s.sIn a) s

def execScmp (d a b : BitVec 5) (c : BitVec 4) (s : State) : Host.Outcome State Fault Refusal :=
  scalarOp (.scmp d a b c) d (fun s => if intCond c.toNat (s.sIn a) (s.sIn b) then 1 else 0) s

def execSaddi (d a : BitVec 5) (i : BitVec 9) (s : State) : Host.Outcome State Fault Refusal :=
  scalarOp (.saddi d a i) d (fun s => s.sIn a + i.signExtend 64) s

def execSli (d : BitVec 5) (i : BitVec 19) (s : State) : Host.Outcome State Fault Refusal :=
  scalarOp (.sli d i) d (fun _ => i.signExtend 64) s

def execSlih (d : BitVec 5) (i : BitVec 19) (s : State) : Host.Outcome State Fault Refusal :=
  scalarOp (.slih d i) d (fun s => (s.sIn d <<< 19) ||| i.setWidth 64) s

def execSsel (d a b c : BitVec 5) (s : State) : Host.Outcome State Fault Refusal :=
  scalarOp (.ssel d a b c) d (fun s => if s.sIn c != 0 then s.sIn a else s.sIn b) s

/-- Leading zero bits among the low n bits of a number. -/
def leadingZeros : Nat → Nat → Nat
  | 0, _ => 0
  | n + 1, v => if v / 2 ^ n % 2 = 1 then 0 else 1 + leadingZeros n v

def onesIn (n v : Nat) : Nat := ((List.range n).filter fun i => v / 2 ^ i % 2 == 1).length

def execSclz (d a : BitVec 5) (s : State) : Host.Outcome State Fault Refusal :=
  scalarOp (.sclz d a) d (fun s => .ofNat 64 (leadingZeros 64 (s.sIn a).toNat)) s

def execSpopc (d a : BitVec 5) (s : State) : Host.Outcome State Fault Refusal :=
  scalarOp (.spopc d a) d (fun s => .ofNat 64 (onesIn 64 (s.sIn a).toNat)) s

/-- One lane of a vector operand to a scalar (R159). -/
def State.vtosLane (s : State) (ins : Instr) (d : SReg) (lane : Nat) : State :=
  let r := s.iss.reads ins
  ((s.raiseNow r.flags).writeS d ((r.v 0 lane).setWidth 64)).releases ins

def execVtos (d : BitVec 5) (a : BitVec 7) (ua : Bool) (lane : BitVec 6) (s : State) :
    Host.Outcome State Fault Refusal :=
  gated (.vtos d a ua lane) s fun s => s.vtosLane (.vtos d a ua lane) d lane.toNat

def execVtosF (d : BitVec 5) (a : BitVec 7) (ua : Bool) (s : State) : Host.Outcome State Fault Refusal :=
  gated (.vtosF d a ua) s fun s =>
    s.vtosLane (.vtosF d a ua) d (if s.iss.src.info.row.isSome then 0 else Mask.first s.iss.exec)

end Sys2Proof.Machine
end

