-- ==== Sys2Proof/Machine/Vector.lean ====
section
/-! DEFINITION. The integer, bitwise, move and predicate instructions of slot 1 (R161 to R176). -/

namespace Sys2Proof.Machine

/-! ## A vector instruction (R161) -/

/-- The result of an instruction of fixed latency with one destination: a word and flags for each lane, the L
register of its slot, and its releases. -/
def State.vector (s : State) (ins : Instr) (f : Reads → Nat → Word × DWord) : State :=
  let p := profile ins
  let m := s.iss.mask p.slot
  let r := s.iss.reads ins
  let l := (List.range s.iss.src.w).map (f r)
  let vals := l.map (·.1)
  ((s.writeAll ins [vals] (r.flags ||| orFlags m (l.map (·.2)))).latchL p.slot m vals
    ((s.iss.resultTags ins).headD .und)).releases ins

/-- An instruction whose result is a function of the words of its sources. -/
def vecWord (ins : Instr) (f : Word → Word → Word → Word) (s : State) : Host.Outcome State Fault Refusal :=
  gated ins s fun s => s.vector ins fun r i => (f (r.v 0 i) (r.v 1 i) (r.v 2 i), 0)

/-- An instruction whose result is a function of the words and the lane as the bundle reads it. -/
def vecLane (ins : Instr) (f : Lane → Word → Word → Word) (s : State) : Host.Outcome State Fault Refusal :=
  gated ins s fun s => s.vector ins fun r i => (f (s.iss.src.lane i) (r.v 0 i) (r.v 1 i), 0)

/-- A compare of two sources into a predicate (R165, R172). -/
def vecPred (ins : Instr) (p : BitVec 3) (conj : Bool) (f : Course → Word → Word → Bool × DWord) (s : State) :
    Host.Outcome State Fault Refusal :=
  gated ins s fun s =>
    let m := s.iss.mask 1
    let r := s.iss.reads ins
    let l := (List.range s.iss.src.w).map fun i => f s.iss.src (r.v 0 i) (r.v 1 i)
    let due := s.clkOf s.iss.course + boundOf ins s.iss.src.tower
    ((s.writePred m p.toNat conj fun i => (l.getD i (false, 0)).1).addFlags s.iss.course
      (if m = 0 then 0 else r.flags ||| orFlags m (l.map (·.2))) due).releases ins

/-! ## Integer arithmetic (R167, R168) -/

/-- Whether the result tag of an integer instruction is SW (R162). -/
def Issue.signedT (i : Issue) (ins : Instr) : Bool := (i.resultTags ins).headD .und == .sw

/-- IADD and ISUB, wrapping or clamped in the signedness of T. -/
def addSub (ins : Instr) (sub sat : Bool) (s : State) : Host.Outcome State Fault Refusal :=
  gated ins s fun s =>
    let sg := s.iss.signedT ins
    let val (w : Word) : Int := if sg then w.toInt else w.toNat
    s.vector ins fun r i =>
      let x := r.v 0 i
      let y := r.v 1 i
      if sat then saturate sg (if sub then val x - val y else val x + val y)
      else (if sub then x - y else x + y, 0)

def execIadd (d a b : BitVec 7) (ua ub x : Bool) (st : State) : Host.Outcome State Fault Refusal :=
  addSub (.iadd d a b ua ub x) false x st

def execIsub (d a b : BitVec 7) (ua ub x : Bool) (st : State) : Host.Outcome State Fault Refusal :=
  addSub (.isub d a b ua ub x) true x st

/-- IADDC: the sum with a carry in, or its carry out. -/
def addCarry (co : Bool) (x y z : Word) : Word :=
  let t := x.toNat + y.toNat + z.toNat % 2
  if co then .ofNat 32 (t / 2 ^ 32) else .ofNat 32 t

def execIaddc (d a b : BitVec 7) (ua ub x : Bool) (c : BitVec 6) (uc : Bool) (st : State) : Host.Outcome State Fault Refusal :=
  vecWord (.iaddc d a b ua ub x c uc) (addCarry x) st

def execImul (d a b : BitVec 7) (ua ub : Bool) (st : State) : Host.Outcome State Fault Refusal :=
  vecWord (.imul d a b ua ub) (fun x y _ => x * y) st

def mulHigh32 (u : Bool) (x y : Word) : Word :=
  if u then .ofNat 32 (x.toNat * y.toNat / 2 ^ 32) else .ofInt 32 (x.toInt * y.toInt / 2 ^ 32)

def execImulh (d a b : BitVec 7) (ua ub : Bool) (st : State) : Host.Outcome State Fault Refusal :=
  vecWord (.imulh d a b ua ub) (fun x y _ => mulHigh32 false x y) st

def execImulhu (d a b : BitVec 7) (ua ub : Bool) (st : State) : Host.Outcome State Fault Refusal :=
  vecWord (.imulhu d a b ua ub) (fun x y _ => mulHigh32 true x y) st

def execImad (d a b : BitVec 7) (ua ub : Bool) (c : BitVec 6) (uc : Bool) (st : State) : Host.Outcome State Fault Refusal :=
  vecWord (.imad d a b ua ub c uc) (fun x y z => x * y + z) st

def execImin (d a b : BitVec 7) (ua ub : Bool) (st : State) : Host.Outcome State Fault Refusal :=
  vecWord (.imin d a b ua ub) (fun x y _ => if y.slt x then y else x) st

def execImax (d a b : BitVec 7) (ua ub : Bool) (st : State) : Host.Outcome State Fault Refusal :=
  vecWord (.imax d a b ua ub) (fun x y _ => if x.slt y then y else x) st

def execIminu (d a b : BitVec 7) (ua ub : Bool) (st : State) : Host.Outcome State Fault Refusal :=
  vecWord (.iminu d a b ua ub) (fun x y _ => if y.ult x then y else x) st

def execImaxu (d a b : BitVec 7) (ua ub : Bool) (st : State) : Host.Outcome State Fault Refusal :=
  vecWord (.imaxu d a b ua ub) (fun x y _ => if x.ult y then y else x) st

def execIabs (d a : BitVec 7) (ua : Bool) (st : State) : Host.Outcome State Fault Refusal :=
  vecWord (.iabs d a ua) (fun x _ _ => if x.toInt < 0 then -x else x) st

/-! ## Bitwise, shifts and counts (R169, R170) -/

def execAnd (d a b : BitVec 7) (ua ub : Bool) (st : State) : Host.Outcome State Fault Refusal :=
  vecWord (.and d a b ua ub) (fun x y _ => x &&& y) st

def execOr (d a b : BitVec 7) (ua ub : Bool) (st : State) : Host.Outcome State Fault Refusal :=
  vecWord (.or d a b ua ub) (fun x y _ => x ||| y) st

def execXor (d a b : BitVec 7) (ua ub : Bool) (st : State) : Host.Outcome State Fault Refusal :=
  vecWord (.xor d a b ua ub) (fun x y _ => x ^^^ y) st

def execAndn (d a b : BitVec 7) (ua ub : Bool) (st : State) : Host.Outcome State Fault Refusal :=
  vecWord (.andn d a b ua ub) (fun x y _ => x &&& ~~~y) st

/-- A shift amount held in a lane: its low five bits. -/
def amount (b : Word) : Nat := b.toNat % 32

def execShl (d a b : BitVec 7) (ua ub : Bool) (st : State) : Host.Outcome State Fault Refusal :=
  vecWord (.shl d a b ua ub) (fun x y _ => x <<< amount y) st

def execShlImm (d a : BitVec 7) (n : BitVec 5) (ua : Bool) (st : State) : Host.Outcome State Fault Refusal :=
  vecWord (.shlImm d a n ua) (fun x _ _ => x <<< n.toNat) st

def execShr (d a b : BitVec 7) (ua ub : Bool) (st : State) : Host.Outcome State Fault Refusal :=
  vecWord (.shr d a b ua ub) (fun x y _ => x >>> amount y) st

def execShrImm (d a : BitVec 7) (n : BitVec 5) (ua : Bool) (st : State) : Host.Outcome State Fault Refusal :=
  vecWord (.shrImm d a n ua) (fun x _ _ => x >>> n.toNat) st

def execSra (d a b : BitVec 7) (ua ub : Bool) (st : State) : Host.Outcome State Fault Refusal :=
  vecWord (.sra d a b ua ub) (fun x y _ => x.sshiftRight (amount y)) st

def execSraImm (d a : BitVec 7) (n : BitVec 5) (ua : Bool) (st : State) : Host.Outcome State Fault Refusal :=
  vecWord (.sraImm d a n ua) (fun x _ _ => x.sshiftRight n.toNat) st

def execRol (d a b : BitVec 7) (ua ub : Bool) (st : State) : Host.Outcome State Fault Refusal :=
  vecWord (.rol d a b ua ub) (fun x y _ => x.rotateLeft (amount y)) st

def execRolImm (d a : BitVec 7) (n : BitVec 5) (ua : Bool) (st : State) : Host.Outcome State Fault Refusal :=
  vecWord (.rolImm d a n ua) (fun x _ _ => x.rotateLeft n.toNat) st

/-- Bit j of the result is bit 31 - j. -/
def reverseBits (x : Word) : Word :=
  .ofNat 32 ((List.range 32).foldl (fun a j => a + (if x.getLsbD (31 - j) then 2 ^ j else 0)) 0)

def execBrev (d a : BitVec 7) (ua : Bool) (st : State) : Host.Outcome State Fault Refusal :=
  vecWord (.brev d a ua) (fun x _ _ => reverseBits x) st

def execPopc (d a : BitVec 7) (ua : Bool) (st : State) : Host.Outcome State Fault Refusal :=
  vecWord (.popc d a ua) (fun x _ _ => .ofNat 32 (onesIn 32 x.toNat)) st

def execClz (d a : BitVec 7) (ua : Bool) (st : State) : Host.Outcome State Fault Refusal :=
  vecWord (.clz d a ua) (fun x _ _ => .ofNat 32 (leadingZeros 32 x.toNat)) st

/-! ## Bit fields (R171) -/

def fieldPos (b : Word) : Nat := b.toNat % 32
def fieldWidth (b : Word) : Nat := min (b.toNat / 2 ^ 8 % 64) 32

/-- BFX: a field of the 64-bit extension of a. -/
def extractField (sg : Bool) (x b : Word) : Word :=
  let w := fieldWidth b
  let v : Int := if sg then x.toInt / 2 ^ fieldPos b else (x.toNat / 2 ^ fieldPos b : Nat)
  if w = 0 then 0
  else
    let f := toBits w v
    .ofInt 32 (if sg then sextI w f else f)

/-- BFI: the low bits of c placed over a field of a, cut at bit 31. -/
def insertField (x b c : Word) : Word :=
  let m : Word := .ofNat 32 ((2 ^ fieldWidth b - 1) * 2 ^ fieldPos b)
  (x &&& ~~~m) ||| ((c <<< fieldPos b) &&& m)

def execBfx (d a b : BitVec 7) (ua ub x : Bool) (st : State) : Host.Outcome State Fault Refusal :=
  vecWord (.bfx d a b ua ub x) (fun y z _ => extractField x y z) st

def execBfi (d a b : BitVec 7) (ua ub : Bool) (c : BitVec 6) (uc : Bool) (st : State) : Host.Outcome State Fault Refusal :=
  vecWord (.bfi d a b ua ub c uc) insertField st

/-! ## Compares, selects, moves and constants (R165, R172 to R176) -/

def execIcmp (c : BitVec 4) (p : BitVec 3) (a b : BitVec 7) (ua ub x : Bool) (st : State) : Host.Outcome State Fault Refusal :=
  vecPred (.icmp c p a b ua ub x) p x (fun _ y z => (intCond c.toNat y z, 0)) st

def execSel (d a b : BitVec 7) (ua ub : Bool) (p : BitVec 3) (st : State) : Host.Outcome State Fault Refusal :=
  vecLane (.sel d a b ua ub p) (fun l x y => if l.pred p.toNat then x else y) st

def execMov (d a : BitVec 7) (ua : Bool) (st : State) : Host.Outcome State Fault Refusal :=
  vecWord (.mov d a ua) (fun x _ _ => x) st

def execLi (d : BitVec 7) (k : BitVec 17) (st : State) : Host.Outcome State Fault Refusal :=
  vecWord (.li d k) (fun _ _ _ => k.signExtend 32) st

def execLih (d : BitVec 7) (k : BitVec 15) (st : State) : Host.Outcome State Fault Refusal :=
  vecWord (.lih d k) (fun x _ _ => (k.setWidth 32 <<< 17) ||| (x &&& 0x1FFFF#32)) st

def execIaddi (d a : BitVec 7) (ua : Bool) (imm : BitVec 16) (st : State) : Host.Outcome State Fault Refusal :=
  vecWord (.iaddi d a ua imm) (fun x _ _ => x + imm.signExtend 32) st

def execTag (d a : BitVec 7) (t : BitVec 4) (ua : Bool) (st : State) : Host.Outcome State Fault Refusal :=
  vecWord (.tag d a t ua) (fun x _ _ => x) st

def execPset (p : BitVec 3) (a : BitVec 7) (ua : Bool) (st : State) : Host.Outcome State Fault Refusal :=
  vecPred (.pset p a ua) p false (fun _ x _ => (x != 0, 0)) st

def execPget (d : BitVec 7) (st : State) : Host.Outcome State Fault Refusal :=
  vecLane (.pget d) (fun l _ _ => (l.pw ||| 1).setWidth 32) st

/-- VFREE releases its register where it executes, without a read (R53, R176). -/
def execVfree (a : BitVec 7) (st : State) : Host.Outcome State Fault Refusal :=
  gated (.vfree a) st (fun s => s.releases (.vfree a))

end Sys2Proof.Machine
end

