-- ==== Sys2Proof/Machine/Float.lean ====
section
/-! DEFINITION. The floating-point, conversion, packed, dot-product and reservoir instructions of slot 1
(R93 to R97, R177 to R192, R357). -/

namespace Sys2Proof.Machine

/-! ## F32 arithmetic (R177 to R181) -/

/-- An instruction whose result is a function of the bits of its sources under the modes in force. -/
def vecFloat (ins : Instr) (f : RM → Bool → Nat → Nat → Nat → FR) (s : State) : Host.Outcome State Fault Refusal :=
  gated ins s fun s => s.vector ins fun r i =>
    let x := s.iss.src
    let q := f (RM.decode x.rm) x.ftz (r.v 0 i).toNat (r.v 1 i).toNat (r.v 2 i).toNat
    (.ofNat 32 q.1, q.2)

def execFadd (d a b : BitVec 7) (ua ub : Bool) (st : State) : Host.Outcome State Fault Refusal :=
  vecFloat (.fadd d a b ua ub) (fun m z x y _ => Sys2Proof.Machine.fadd m z x y) st

def execFsub (d a b : BitVec 7) (ua ub : Bool) (st : State) : Host.Outcome State Fault Refusal :=
  vecFloat (.fsub d a b ua ub) (fun m z x y _ => Sys2Proof.Machine.fsub m z x y) st

def execFmul (d a b : BitVec 7) (ua ub : Bool) (st : State) : Host.Outcome State Fault Refusal :=
  vecFloat (.fmul d a b ua ub) (fun m z x y _ => Sys2Proof.Machine.fmul m z x y) st

def execFfma (d a b : BitVec 7) (ua ub : Bool) (c : BitVec 6) (uc : Bool) (st : State) : Host.Outcome State Fault Refusal :=
  vecFloat (.ffma d a b ua ub c uc) Sys2Proof.Machine.ffma st

def execFmin (d a b : BitVec 7) (ua ub : Bool) (st : State) : Host.Outcome State Fault Refusal :=
  vecFloat (.fmin d a b ua ub) (fun _ z x y _ => fminmax false false z x y) st

def execFmax (d a b : BitVec 7) (ua ub : Bool) (st : State) : Host.Outcome State Fault Refusal :=
  vecFloat (.fmax d a b ua ub) (fun _ z x y _ => fminmax true false z x y) st

def execFminn (d a b : BitVec 7) (ua ub : Bool) (st : State) : Host.Outcome State Fault Refusal :=
  vecFloat (.fminn d a b ua ub) (fun _ z x y _ => fminmax false true z x y) st

def execFmaxn (d a b : BitVec 7) (ua ub : Bool) (st : State) : Host.Outcome State Fault Refusal :=
  vecFloat (.fmaxn d a b ua ub) (fun _ z x y _ => fminmax true true z x y) st

def execFabs (d a : BitVec 7) (ua : Bool) (st : State) : Host.Outcome State Fault Refusal :=
  vecFloat (.fabs d a ua) (fun _ z x _ _ => (Sys2Proof.Machine.fabs z x, 0)) st

def execFneg (d a : BitVec 7) (ua : Bool) (st : State) : Host.Outcome State Fault Refusal :=
  vecFloat (.fneg d a ua) (fun _ z x _ _ => (Sys2Proof.Machine.fneg z x, 0)) st

def execFcmp (c : BitVec 4) (p : BitVec 3) (a b : BitVec 7) (ua ub x : Bool) (st : State) : Host.Outcome State Fault Refusal :=
  vecPred (.fcmp c p a b ua ub x) p x (fun k y z => Sys2Proof.Machine.fcmp c.toNat k.ftz y.toNat z.toNat) st

def execFclmp (d a b : BitVec 7) (ua ub : Bool) (c : BitVec 6) (uc : Bool) (st : State) : Host.Outcome State Fault Refusal :=
  vecFloat (.fclmp d a b ua ub c uc) (fun _ z x y w => Sys2Proof.Machine.fclmp z x y w) st

/-- The rounding of an RMO code: MODE.RM for 0 (R110). -/
def rmoMode (r : BitVec 3) (m : RM) : RM := if r.toNat < 4 then m else RM.decode (r.toNat - 4)

def execFrnd (d a : BitVec 7) (r : BitVec 3) (ua : Bool) (st : State) : Host.Outcome State Fault Refusal :=
  vecFloat (.frnd d a r ua) (fun m z x _ _ => Sys2Proof.Machine.frnd (rmoMode r m) z x) st

def execFfrac (d a : BitVec 7) (ua : Bool) (st : State) : Host.Outcome State Fault Refusal :=
  vecFloat (.ffrac d a ua) (fun m z x _ _ => Sys2Proof.Machine.ffrac m z x) st

/-! ## Special functions (R182 to R184) -/

def execFrcp (d a : BitVec 7) (ua : Bool) (st : State) : Host.Outcome State Fault Refusal :=
  vecFloat (.frcp d a ua) (fun _ z x _ _ => Sys2Proof.Machine.frcp z x) st

def execFrsq (d a : BitVec 7) (ua : Bool) (st : State) : Host.Outcome State Fault Refusal :=
  vecFloat (.frsq d a ua) (fun _ z x _ _ => Sys2Proof.Machine.frsq z x) st

def execFex2 (d a : BitVec 7) (ua : Bool) (st : State) : Host.Outcome State Fault Refusal :=
  vecFloat (.fex2 d a ua) (fun _ z x _ _ => Sys2Proof.Machine.fex2 z x) st

def execFlg2 (d a : BitVec 7) (ua : Bool) (st : State) : Host.Outcome State Fault Refusal :=
  vecFloat (.flg2 d a ua) (fun _ z x _ _ => Sys2Proof.Machine.flg2 z x) st

def execFsqrt (d a : BitVec 7) (ua : Bool) (st : State) : Host.Outcome State Fault Refusal :=
  vecFloat (.fsqrt d a ua) (fun m z x _ _ => Sys2Proof.Machine.fsqrt m z x) st

def execFsin (d a : BitVec 7) (ua : Bool) (st : State) : Host.Outcome State Fault Refusal :=
  vecFloat (.fsin d a ua) (fun _ z x _ _ => ftrig false z x) st

def execFcos (d a : BitVec 7) (ua : Bool) (st : State) : Host.Outcome State Fault Refusal :=
  vecFloat (.fcos d a ua) (fun _ z x _ _ => ftrig true z x) st

/-! ## Conversions (R185 to R188, R191, R192) -/

/-- The tag under which source k is used in a lane, a mismatch converted; none without a tag. -/
def Issue.usedTag (i : Issue) (ins : Instr) (k lane : Nat) : Option Tag :=
  match (profile ins).srcs[k]? with
  | none => none
  | some x =>
    let o := i.operand x.code.toNat
    if o.tagless then none
    else
      let t := o.tagAt lane
      some ((wants x.expect (i.aTag ins) t).getD t)

/-- The source format of FCVT and FCVTI: UND and tagless read as F32 (R186). -/
def floatTag (t : Option Tag) : Tag :=
  match t with
  | none | some .und => .f32
  | some t => t

/-- The source format of ICVTF: UND and tagless read as unsigned words (R187). -/
def intTag (t : Option Tag) : Tag :=
  match t with
  | none | some .und => .uw
  | some t => t

/-- FCVT: every lane of ACTIVE converts; stochastic rounding advances the lane's SRS (R81, R186). -/
def State.fcvtAll (s : State) (ins : Instr) (n : Bool) (r : BitVec 3) (t : BitVec 4) : State :=
  let x := s.iss.src
  let sr := r == 1 && x.sre
  let mode := if r == 1 then RM.rne else rmoMode r (RM.decode x.rm)
  let res (q : Reads) (i : Nat) : Word × Word × DWord :=
    fcvtLane (floatTag (s.iss.usedTag ins 0 i)) (tagOf t.toNat) mode sr n x.ftz (x.lane i).srs (q.v 0 i).toNat
  let q := s.iss.reads ins
  let s1 := s.vector ins fun q i => ((res q i).1, (res q i).2.2)
  if sr then s1.onCourse s.iss.course fun y => y.onLanes s.iss.g1 fun i l => { l with srs := (res q i).2.1 } else s1

def execFcvt (d a : BitVec 7) (n : Bool) (r : BitVec 3) (t : BitVec 4) (ua : Bool) (st : State) : Host.Outcome State Fault Refusal :=
  gated (.fcvt d a n r t ua) st (fun s => s.fcvtAll (.fcvt d a n r t ua) n r t)

/-- A conversion of each lane from its own tag. -/
def vecConv (ins : Instr) (f : RM → Bool → Option Tag → Nat → Word × DWord) (s : State) :
    Host.Outcome State Fault Refusal :=
  gated ins s fun s => s.vector ins fun r i =>
    f (RM.decode s.iss.src.rm) s.iss.src.ftz (s.iss.usedTag ins 0 i) (r.v 0 i).toNat

def execIcvtf (d a : BitVec 7) (r : BitVec 3) (t : BitVec 4) (ua : Bool) (st : State) : Host.Outcome State Fault Refusal :=
  vecConv (.icvtf d a r t ua) (fun m z q x => icvtfLane (intTag q) (tagOf t.toNat) (rmoMode r m) z x) st

def execFcvti (d a : BitVec 7) (r : BitVec 3) (t : BitVec 4) (ua : Bool) (st : State) : Host.Outcome State Fault Refusal :=
  vecConv (.fcvti d a r t ua) (fun m z q x => fcvtiLane (floatTag q) (tagOf t.toNat) (rmoMode r m) z x) st

/-- PACK: b has been converted to the tag of a (R191). -/
def execPack (d a b : BitVec 7) (ua ub x : Bool) (st : State) : Host.Outcome State Fault Refusal :=
  gated (.pack d a b ua ub x)
    st (fun s => s.vector (.pack d a b ua ub x) fun r i =>
      (packLane ((s.iss.usedTag (.pack d a b ua ub x) 0 i).getD .und) x (r.v 0 i).toNat (r.v 1 i).toNat, 0))

def execUnpk (d a : BitVec 7) (k : BitVec 3) (ua : Bool) (st : State) : Host.Outcome State Fault Refusal :=
  vecConv (.unpk d a k ua) (fun _ _ q x => (unpkLane (q.getD .und) k.toNat x, 0)) st

/-! ## Packed halves and dot products (R189, R190) -/

/-- An instruction on two 16-bit elements, in the format of the result tag; subnormals are kept. -/
def vecHalf (ins : Instr) (f : Fmt → RM → Nat → Nat → Nat → FR) (s : State) : Host.Outcome State Fault Refusal :=
  gated ins s fun s => s.vector ins fun r i =>
    let t := (s.iss.resultTags ins).headD .hf2
    half2 t (f (halfFmt t) (RM.decode s.iss.src.rm)) (r.v 0 i).toNat (r.v 1 i).toNat (r.v 2 i).toNat

def execHadd2 (d a b : BitVec 7) (ua ub : Bool) (st : State) : Host.Outcome State Fault Refusal :=
  vecHalf (.hadd2 d a b ua ub) (fun q m x y _ => q.addV m false (q.val x) (q.val y)) st

def execHmul2 (d a b : BitVec 7) (ua ub : Bool) (st : State) : Host.Outcome State Fault Refusal :=
  vecHalf (.hmul2 d a b ua ub) (fun q m x y _ => q.mulV m false (q.val x) (q.val y)) st

def execHfma2 (d a b : BitVec 7) (ua ub : Bool) (c : BitVec 6) (uc : Bool) (st : State) : Host.Outcome State Fault Refusal :=
  vecHalf (.hfma2 d a b ua ub c uc) (fun q m x y z => q.fmaV m false (q.val x) (q.val y) (q.val z)) st

/-- The format of an FP8 source: E43 unless it is E52 (R190). -/
def fp8Tag (t : Option Tag) : Tag := if t = some .e52 then .e52 else .e43

/-- A dot product of n elements with an F32 addend. -/
def vecDot (ins : Instr) (n : Nat) (tags : Option Tag → Tag) (s : State) : Host.Outcome State Fault Refusal :=
  gated ins s fun s => s.vector ins fun r i =>
    let q := fdot (tags (s.iss.usedTag ins 0 i)) (tags (s.iss.usedTag ins 1 i)) n (RM.decode s.iss.src.rm)
      s.iss.src.ftz (r.v 0 i).toNat (r.v 1 i).toNat (r.v 2 i).toNat
    (.ofNat 32 q.1, q.2)

def execFdot4 (d a b : BitVec 7) (ua ub : Bool) (c : BitVec 6) (uc : Bool) (st : State) : Host.Outcome State Fault Refusal :=
  vecDot (.fdot4 d a b ua ub c uc) 4 fp8Tag st

def execFdot8 (d a b : BitVec 7) (ua ub : Bool) (c : BitVec 6) (uc : Bool) (st : State) : Host.Outcome State Fault Refusal :=
  vecDot (.fdot8 d a b ua ub c uc) 8 (fun _ => .e21) st

/-! ## Reservoirs (R95 to R97, R357) -/

/-- The record that four consecutive sources hold in a lane. -/
def Reads.record (r : Reads) (k i : Nat) : Rsv := Rsv.ofWords (r.v k i) (r.v (k + 1) i) (r.v (k + 2) i) (r.v (k + 3) i)

/-- A record result in the four registers of d; L0 takes the first (log entry 20). -/
def State.recordResult (s : State) (ins : Instr) (f : Reads → Nat → Rsv × DWord) : State :=
  let m := s.iss.mask 1
  let r := s.iss.reads ins
  let l := (List.range s.iss.src.w).map (f r)
  let word (j : Nat) : Lanes := l.map fun p => p.1.word j
  ((s.writeAll ins [word 0, word 1, word 2, word 3] (r.flags ||| orFlags m (l.map (·.2)))).latchL 1 m (word 0)
    .f32).releases ins

def execRsvup (d a b : BitVec 7) (ua ub : Bool) (c : BitVec 6) (uc : Bool) (st : State) : Host.Outcome State Fault Refusal :=
  gated (.rsvup d a b ua ub c uc)
    st (fun s => s.recordResult (.rsvup d a b ua ub c uc) fun r i =>
      rsvUp (r.record 3 i) (r.v 0 i).toNat (r.v 1 i).toNat (r.v 2 i).toNat)

def execRsvmrg (d a b : BitVec 7) (ua ub : Bool) (st : State) : Host.Outcome State Fault Refusal :=
  gated (.rsvmrg d a b ua ub)
    st (fun s => s.recordResult (.rsvmrg d a b ua ub) fun r i =>
      rsvMrg (r.record 5 i) (r.record 0 i) (r.v 4 i).toNat)

def execRsvfin (d a b : BitVec 7) (ua ub : Bool) (st : State) : Host.Outcome State Fault Refusal :=
  gated (.rsvfin d a b ua ub)
    st (fun s => s.vector (.rsvfin d a b ua ub) fun r i =>
      (.ofNat 32 (rsvFin (r.record 0 i) (r.v 4 i).toNat).1, (rsvFin (r.record 0 i) (r.v 4 i).toNat).2))

end Sys2Proof.Machine
end

