-- ==== Sys2Proof/Machine/Cross.lean ====
section
/-! DEFINITION. The cross-lane instructions of slot 1 (R90 to R92, R194 to R206). -/

namespace Sys2Proof.Machine

/-! ## Copies between lanes (R198) -/

/-- Each lane of ACTIVE takes the lane of a that its index names, read before anything is written. -/
def shuffle (ins : Instr) (s : State) : Host.Outcome State Fault Refusal :=
  gated ins s fun s => s.vector ins fun r i =>
    (r.v 0 (shuffleLane ins s.iss.src.w (r.v 1 (Mask.first s.iss.g1)) (r.v 1 i) i), 0)

def execXshf (d a b : BitVec 7) (ua ub m : Bool) (st : State) : Host.Outcome State Fault Refusal :=
  shuffle (.xshf d a b ua ub m) st

def execXrot (d a b : BitVec 7) (ua ub m : Bool) (st : State) : Host.Outcome State Fault Refusal :=
  shuffle (.xrot d a b ua ub m) st

def execXbc (d a b : BitVec 7) (ua ub m : Bool) (st : State) : Host.Outcome State Fault Refusal :=
  shuffle (.xbc d a b ua ub m) st

def execXstep (d a b : BitVec 7) (ua ub m : Bool) (st : State) : Host.Outcome State Fault Refusal :=
  shuffle (.xstep d a b ua ub m) st

/-! ## Reductions and scans (R90 to R92, R200 to R202) -/

/-- The identity of an operation (R91). -/
def redIdent (op : Nat) : Word :=
  match op with
  | 0 => 0x80000000
  | 1 => 0x7F800000
  | 2 => 0xFF800000
  | 4 => 0xFFFFFFFF
  | 7 => 0x7FFFFFFF
  | 8 => 0x80000000
  | 9 => 0xFFFFFFFF
  | _ => 0

/-- One combine of an operation (R201). -/
def redOp (op : Nat) (mode : RM) (ftz : Bool) (x y : Word) : Word × DWord :=
  let f (r : FR) : Word × DWord := (.ofNat 32 r.1, r.2)
  match op with
  | 0 => f (Sys2Proof.Machine.fadd mode ftz x.toNat y.toNat)
  | 1 => f (fminmax false false ftz x.toNat y.toNat)
  | 2 => f (fminmax true false ftz x.toNat y.toNat)
  | 3 => (x + y, 0)
  | 4 => (x &&& y, 0)
  | 5 => (x ||| y, 0)
  | 6 => (x ^^^ y, 0)
  | 7 => (if y.slt x then y else x, 0)
  | 8 => (if x.slt y then y else x, 0)
  | 9 => (if y.ult x then y else x, 0)
  | _ => (if x.ult y then y else x, 0)

/-- A combine with the pass-through of R91: none derives from inactive lanes only. A value that meets no other passes its
bits unchanged, a NaN that is not canonical too (R70, R91): the model's choice (log entry 123). -/
def combine (f : Word → Word → Word × DWord) (x y : Option Word) : Option Word × DWord :=
  match x, y with
  | some a, some b => let r := f a b; (some r.1, r.2)
  | some a, none => (some a, 0)
  | none, y => (y, 0)

/-- One step of the tree: the lower half of the lanes takes in the upper half (R90). -/
def redStep (f : Word → Word → Word × DWord) (d : Nat) (v : List (Option Word)) : List (Option Word) × DWord :=
  let l := (List.range d).map fun i => combine f (v.getD i none) (v.getD (i + d) none)
  (l.map (·.1), l.foldl (fun a p => a ||| p.2) 0)

/-- The tree over the first 2^k lanes. -/
def redTree (f : Word → Word → Word × DWord) : Nat → List (Option Word) → Option Word × DWord
  | 0, v => (v.getD 0 none, 0)
  | k + 1, v =>
    let r := redStep f (2 ^ k) v
    let q := redTree f k r.1
    (q.1, r.2 ||| q.2)

/-- The Hillis-Steele network with distances from 2^k on, n steps (R92). -/
def scanFrom (f : Word → Word → Word × DWord) : Nat → Nat → List (Option Word) → List (Option Word) × DWord
  | 0, _, v => (v, 0)
  | n + 1, d, v =>
    let l := v.zipIdx.map fun p => if d ≤ p.2 then combine f (v.getD (p.2 - d) none) p.1 else (p.1, 0)
    let q := scanFrom f n (2 * d) (l.map (·.1))
    (q.1, (l.foldl (fun a p => a ||| p.2) (0 : DWord)) ||| q.2)

/-- An operand of a combine of F32 values as the network takes it in (R75). -/
def redIn (op : Nat) (ftz : Bool) (w : Word) : Word :=
  if decide (op ≤ 2) && ftz && w &&& 0x7F800000#32 == 0 then w &&& 0x80000000#32 else w

/-- The lanes of ACTIVE as the network takes them in: a subnormal F32 operand is read as zero with FTZ, and what has entered
passes on unchanged (R75, R91; log entry 104). -/
def State.contrib (s : State) (op : Nat) (r : Reads) : List (Option Word) :=
  (List.range s.iss.src.w).map fun i =>
    if Mask.has s.iss.g1 i then some (redIn op s.iss.src.ftz (r.v 0 i)) else none

def log2W (w : Nat) : Nat := if w = 64 then 6 else 5

/-- A result for every lane of ACTIVE computed from the whole of it, with flags of its own. -/
def State.cross (s : State) (ins : Instr) (f : Reads → Lanes × DWord) : State :=
  let q := f (s.iss.reads ins)
  s.vector ins fun _ i => (q.1.getD i 0, if i = Mask.first s.iss.g1 then q.2 else 0)

/-- XRED. -/
def State.reduce (s : State) (op : Nat) (r : Reads) : Lanes × DWord :=
  let x := s.iss.src
  let q := redTree (redOp op (RM.decode x.rm) x.ftz) (log2W x.w) (s.contrib op r)
  (List.replicate x.w (q.1.getD (redIdent op)), q.2)

/-- XSCN: lane 0, and a lane with no lane of ACTIVE below it, receive the identity from an exclusive scan
(R202). With ACTIVE within lanes 0 to 31 the network of 32 lanes acts, with its flags, on both widths (R204). -/
def State.scan (s : State) (op : Nat) (ex : Bool) (r : Reads) : Lanes × DWord :=
  let x := s.iss.src
  let n := if s.iss.g1.toNat < 2 ^ 32 then 32 else x.w
  let q := scanFrom (redOp op (RM.decode x.rm) x.ftz) (log2W n) 1 ((s.contrib op r).take n)
  ((List.range x.w).map fun i =>
    ((if ex then (if i = 0 then none else q.1.getD (i - 1) none) else q.1.getD i none)).getD (redIdent op), q.2)

def execXred (d a : BitVec 7) (o : BitVec 4) (ua m : Bool) (st : State) : Host.Outcome State Fault Refusal :=
  gated (.xred d a o ua m) st (fun s => s.cross (.xred d a o ua m) (s.reduce o.toNat))

def execXscn (d a : BitVec 7) (e : Bool) (o : BitVec 4) (ua m : Bool) (st : State) : Host.Outcome State Fault Refusal :=
  gated (.xscn d a e o ua m) st (fun s => s.cross (.xscn d a e o ua m) (s.scan o.toNat e))

/-! ## Ballots (R203) -/

/-- The lanes of ACTIVE whose word is not 0. -/
def State.nonzero (s : State) (r : Reads) : Mask := s.iss.g1 &&& Mask.ofPred s.iss.src.w fun i => r.v 0 i != 0

/-- One word for every lane of ACTIVE. -/
def State.same (s : State) (w : Word) : Lanes × DWord := (List.replicate s.iss.src.w w, 0)

def execXbal (d a : BitVec 7) (h ua m : Bool) (st : State) : Host.Outcome State Fault Refusal :=
  gated (.xbal d a h ua m)
    st (fun s => s.cross (.xbal d a h ua m) fun r =>
      s.same (.ofNat 32 ((s.nonzero r).toNat / (if h then 2 ^ 32 else 1) % 2 ^ 32)))

def execXcnt (d a : BitVec 7) (ua m : Bool) (st : State) : Host.Outcome State Fault Refusal :=
  gated (.xcnt d a ua m)
    st (fun s => s.cross (.xcnt d a ua m) fun r => s.same (.ofNat 32 (Mask.count (s.nonzero r))))

def execXfst (d a : BitVec 7) (ua m : Bool) (st : State) : Host.Outcome State Fault Refusal :=
  gated (.xfst d a ua m)
    st (fun s => s.cross (.xfst d a ua m) fun r =>
      s.same (if s.nonzero r = 0 then 0xFFFFFFFF else .ofNat 32 (Mask.first (s.nonzero r))))

end Sys2Proof.Machine
end

