-- ==== Sys2Proof/Machine/AddrAlu.lean ====
section
/-! DEFINITION. The address ALU of slot 2 (R260). -/

namespace Sys2Proof.Machine

def execAadd (d a b : BitVec 7) (ua ub : Bool) (st : State) : Host.Outcome State Fault Refusal :=
  vecWord (.aadd d a b ua ub) (fun x y _ => x + y) st

def execAshl (d a b : BitVec 7) (ua ub : Bool) (st : State) : Host.Outcome State Fault Refusal :=
  vecWord (.ashl d a b ua ub) (fun x y _ => x <<< amount y) st

def execAshlImm (d a : BitVec 7) (n : BitVec 5) (ua : Bool) (st : State) : Host.Outcome State Fault Refusal :=
  vecWord (.ashlImm d a n ua) (fun x _ _ => x <<< n.toNat) st

def execAand (d a b : BitVec 7) (ua ub : Bool) (st : State) : Host.Outcome State Fault Refusal :=
  vecWord (.aand d a b ua ub) (fun x y _ => x &&& y) st

def execAmov (d a : BitVec 7) (ua : Bool) (st : State) : Host.Outcome State Fault Refusal :=
  vecWord (.amov d a ua) (fun x _ _ => x) st

def execAli (d : BitVec 7) (k : BitVec 17) (st : State) : Host.Outcome State Fault Refusal :=
  vecWord (.ali d k) (fun _ _ _ => k.signExtend 32) st

/-- The low half of a 64-bit sum, or the carry or borrow into its high half. -/
def formAddr (hi : Bool) (x y : Word) : Word :=
  let t : DWord := x.setWidth 64 + y.signExtend 64
  if hi then (t >>> 32).setWidth 32 else x + y

def execAform (d a b : BitVec 7) (ua ub x : Bool) (st : State) : Host.Outcome State Fault Refusal :=
  vecWord (.aform d a b ua ub x) (fun y z _ => formAddr x y z) st

end Sys2Proof.Machine
end

