-- ==== Sys2Proof/Machine/Engine.lean ====
section
/-! DEFINITION. The memory engine: outstanding operations of a course, the order between them, where a lane's
access lands, and the end of an operation (R244 to R249, R254 to R258, R262 to R268, R275 to R281, R406, R430,
R487, R511, R535). -/

namespace Sys2Proof.Machine

/-! ## Order -/

/-- The operations that stand before one in issue order. -/
def Course.before (x : Course) (id : Nat) : List MemOp := x.ops.takeWhile fun o => o.id != id

/-- Whether an operation may be performed now (R244, R275). -/
def State.mayPerform (s : State) (x : Course) (o : MemOp) : Bool :=
  !((x.before o.id).any fun e => o.after e || (o.cls == e.cls && !e.fixedFn && s.aliased x.info.ctx o e))

def Course.op? (x : Course) (id : Nat) : Option MemOp := x.ops.find? fun o => o.id == id

def State.onOp (s : State) (c id : Nat) (f : MemOp → MemOp) : State :=
  s.onCourse c fun x => { x with ops := x.ops.map fun o => if o.id = id then f o else o }

/-! ## Fences (R276, R277) -/

/-- Whether the fence may take effect: a release waits for everything before it, an acquire for the reads. -/
def fenceDue (pre : List MemOp) (k : BitVec 2) : Bool :=
  if k.getLsbD 0 then pre.isEmpty else !(pre.any fun o => o.reads || o.isFence)

/-- The first fence of a course that may take effect. -/
def dueFence : List MemOp → List MemOp → Option (MemOp × BitVec 2)
  | _, [] => none
  | pre, o :: l =>
    match o.kind with
    | .fence k => if fenceDue pre k then some (o, k) else dueFence (pre ++ [o]) l
    | _ => dueFence (pre ++ [o]) l

def State.fenceActs (s : State) (c : Nat) : Nat → State
  | 0 => s
  | n + 1 =>
    let x := s.course c
    match dueFence [] x.ops with
    | none => s
    | some (o, k) =>
      let s1 := if k.getLsbD 0 then s.release x.coreKey x.info.block (extScope o.ext o.scope) else s
      let s2 := if k.getLsbD 1 then s1.acquire x.coreKey x.info.block (extScope o.ext o.scope) else s1
      State.fenceActs (s2.onCourse c fun y => { y with ops := y.ops.filter fun p => p.id != o.id }) c n

/-- Every fence whose time has come takes effect. -/
def State.fences (s : State) (c : Nat) : State := s.fenceActs c (s.course c).ops.length

/-! ## Places -/

/-- Where a lane's access lands. -/
inductive Place where
  | scratch (off : Nat)
  /-- memory of the package, behind the L1 unless it was named by a fabric address -/
  | mem (pa : Nat) (cached : Bool)
  | mmio (off : Nat)
  | host (pa : Nat)
  | fabric (pa : Nat)
  | wait (uid : Nat)
  | fail (sub : Nat)
  deriving DecidableEq, Repr

/-- The target of a virtual address of a course (R253, R254, R265, R456, R458, R511). -/
def State.placeVa (s : State) (c : Nat) (va : DWord) (use : Use) (flt : Option Nat) : Place × State :=
  let x := s.course c
  let r := s.reach x.info.ctx va use x.info.die x.info.lnch flt
  match r.1 with
  | .wait u => (.wait u, r.2)
  | .fail n => (.fail n, r.2)
  | .pa pa =>
    let p : Place :=
      if region pa ≤ 1 then .mem pa true
      else if region pa = 2 then .mmio (pa % 2 ^ 32)
      else if region pa = 3 then .host pa
      else if !r.2.fabOk pa then .fail 2
      else if fabIndex pa = r.2.ownIdx then .mem (fabLocal pa) false
      else .fabric pa
    (p, r.2)

def State.place (s : State) (c : Nat) (o : MemOp) (l : LaneAcc) (use : Use) : Place × State :=
  let x := s.course c
  let va := o.va l
  if inAperture va then
    let off := (apertureOff va).toNat
    if o.scalar then (.fail 0, s)
    else if inAlloc x.tower (s.blockMem x.info.block).n off then (.scratch off, s) else (.fail 3, s)
  else if o.scratch then (.fail 3, s)
  else s.placeVa c va use l.flt

/-! ## Effects at a place -/

/-- A tracker entry with a mask added when it is that of a line. -/
def markLine (line : Nat) (mask : BitVec 8) (p : Nat × BitVec 8) : Nat × BitVec 8 :=
  if p.1 = line then (p.1, p.2 ||| mask) else p

/-- Bytes that have reached their home are dirty no more. -/
def L1Line.cleaned (l : L1Line) (off n : Nat) : L1Line := { l with dirty := l.dirty &&& ~~~(byteMask off n) }

/-- Bytes that have been written at their home, put into the copy of their line that the L1 of a core holds. -/
def State.patchL1 (s : State) (k : Nat × Nat) (pa : Nat) (bs : List Byte) : State :=
  let f (l : L1Line) : L1Line :=
    if l.line = lineOf pa then { l.cleaned (pa % 64) bs.length with bytes := Sys2Proof.Machine.putBytes l.bytes (pa % 64) bs }
    else l
  s.onCore k fun c => { c with l1 := c.l1.map f }

/-- Bytes of one line written at its home, and into the copy that the L1 of a core holds (R278, R406, R431). -/
def State.writeBoth (s : State) (k : Nat × Nat) (pa : Nat) (bs : List Byte) : State := (s.storePa pa bs).patchL1 k pa bs

/-- The dirty-line tracker records a line that a store has made dirty in the range of a key that the task holds; with a
full tracker the store is written through as well (R406). -/
def State.trackStore (s : State) (blk pa : Nat) (va : DWord) (bs : List Byte) : State :=
  match s.block? blk with
  | none => s
  | some b =>
    match b.task with
    | none => s
    | some t => match tget t s.tasks with
      | none => s
      | some tk =>
        let line := va.toNat / 64 * 64
        let mask : BitVec 8 := tk.keys.zipIdx.foldl (fun m p =>
          if p.1.held && meets (line, 64) (p.1.base.toNat, p.1.len) then m ||| (1#8 <<< p.2) else m) 0
        let tr := b.mem.tracker
        if mask = 0 then s
        else if tr.any (fun p => p.1 == lineOf pa) then
          s.onBlockMem blk fun m => { m with tracker := m.tracker.map (markLine (lineOf pa) mask) }
        else if tr.length < 1024 then
          s.onBlockMem blk fun m => { m with tracker := m.tracker ++ [(lineOf pa, mask)] }
        else s.writeBoth (b.die, b.core) pa bs

/-- Bytes stored at a place in memory by a course (R240, R265). What it names by a fabric address of its own package is
written at the home, and into a copy that its L1 holds (R430, R511). -/
def State.storeMem (s : State) (c : Nat) (va : DWord) (pa : Nat) (cached nt again : Bool) (bs : List Byte) : State :=
  let x := s.course c
  let s1 := s.visible x.info.block
  if cached then
    let s2 := s1.l1Store x.coreKey pa bs nt again x.info.block
    if (s2.l1? x.coreKey (lineOf pa)).isSome then s2.trackStore x.info.block pa va bs else s2
  else (s1.lineReqOnce x.info.die pa again).writeBoth x.coreKey pa bs

/-- Bytes stored past the L1, a copy in it brought up to date (R278). -/
def State.storeThrough (s : State) (c : Nat) (pa : Nat) (again : Bool) (bs : List Byte) : State :=
  let x := s.course c
  ((s.visible x.info.block).lineReqOnce x.info.die pa again).writeBoth x.coreKey pa bs

/-- Whether a read of a line meets an uncorrectable error: the line is failed, and no store of the core has overwritten
all of it (R455). -/
def State.lineBad (s : State) (k : Nat × Nat) (pa : Nat) : Bool :=
  s.lineFailed (lineOf pa) && !((s.l1? k (lineOf pa)).any fun l => l.dirty == L1Line.full)

/-- Bytes of a line as an engine reads them: those that its core holds dirty in the L1 there, all others at their home
(R319, R511). -/
def State.engineBytes (s : State) (k : Nat × Nat) (pa n : Nat) : List Byte :=
  match s.l1? k (lineOf pa) with
  | none => s.readPa pa n
  | some l => ((mergeDirty l.dirty l.bytes (s.readPa (lineOf pa) 64)).drop (pa % 64)).take n

/-- Whether the L1 holds every one of the bytes dirty, so that no line is asked for. -/
def State.engineHit (s : State) (k : Nat × Nat) (pa n : Nat) : Bool :=
  (s.l1? k (lineOf pa)).any fun l => (List.range n).all fun j => l.dirty.getLsbD (pa % 64 + j)

def bytesOf (n : Nat) (w : Word) : List Byte := leBytes n w.toNat

/-- The words of consecutive bytes, the last one short of four extended. -/
def toWords (sx : Bool) (bs : List Byte) : List Word :=
  match bs with
  | [b] => [if sx then b.signExtend 32 else b.setWidth 32]
  | [b, c] => let h : BitVec 16 := .ofNat 16 (leVal [b, c]); [if sx then h.signExtend 32 else h.setWidth 32]
  | _ => (List.range (bs.length / 4)).map fun j => wordOf ((bs.drop (4 * j)).take 4)

def LaneAcc.fail (l : LaneAcc) : LaneAcc := { l with st := .failed, flt := none }
def LaneAcc.ok (l : LaneAcc) (ws : List Word) : LaneAcc := { l with st := .done, flt := none, data := ws }

/-- An operation remembers the failure of its lowest lane (R208, R257). An access through the aperture is reported with its
virtual address, and by WAITA with its scratchpad offset: the model's choice (log entry 115). -/
def State.laneFail (s : State) (c id : Nat) (l : LaneAcc) (sub : Nat) : State :=
  s.onOp c id fun o =>
    { o with acc := match o.acc with
        | some a => if l.lane < a.1 then some (l.lane, sub, l.addr) else some a
        | none => some (l.lane, sub, l.addr) }

/-- An operation remembers the hardware error of its lowest lane: a source of R220, and an address. -/
def State.laneBad (s : State) (c id : Nat) (l : LaneAcc) (src : Nat) : State :=
  s.onOp c id fun o =>
    { o with hwe := match o.hwe with
        | some a => if l.lane < a.1 then some (l.lane, src, l.addr) else some a
        | none => some (l.lane, src, l.addr) }

/-- A read of n bytes for a lane. -/
def State.laneRead (s : State) (c : Nat) (o : MemOp) (l : LaneAcc) (again sx home : Bool) : LaneAcc × State :=
  let x := s.course c
  let n := o.size l
  let p := s.place c o l .read
  match p.1 with
  | .scratch off => (l.ok (toWords sx ((s.blockMem x.info.block).read off n)), p.2)
  | .mem pa cached =>
    let s1 := if home || !cached then p.2.expose x.coreKey pa n else p.2
    if s1.lineBad x.coreKey pa then (l.fail, s1.laneBad c o.id l 0)
    else if cached && !home then
      let r := s1.l1Load x.coreKey pa n o.nt again
      (l.ok (toWords sx r.1), r.2)
    else (l.ok (toWords sx (s1.readPa pa n)), (s1.lineReqOnce x.info.die pa again).dieUse false pa n)
  | .mmio off => (l.ok (toWords sx (p.2.mmioRead off n)), p.2)
  | .host pa => ({ l with st := .sent, flt := none }, p.2.pcieSend pa 0 n [] c o.id l.lane true)
  | .fabric pa => ({ l with st := .sent, flt := none }, p.2.fabSend pa 0 0 n [] c o.id l.lane)
  | .wait u => ({ l with flt := some u }, p.2)
  | .fail sub => (l.fail, p.2.laneFail c o.id l sub)

/-- A write of bytes for a lane; through says that it goes past the L1. -/
def State.laneWrite (s : State) (c : Nat) (o : MemOp) (l : LaneAcc) (again : Bool) (bs : List Byte) (through : Bool) :
    LaneAcc × State :=
  let x := s.course c
  let p := s.place c o l .write
  match p.1 with
  | .scratch off => (l.ok l.data, p.2.onBlockMem x.info.block fun m => m.write off bs)
  | .mem pa cached =>
    (l.ok l.data, if cached && through then p.2.storeThrough c pa again bs else p.2.storeMem c (o.va l) pa cached o.nt again bs)
  | .mmio off => (l.ok l.data, (p.2.visible x.info.block).mmioWrite off bs o.scalar)
  | .host pa => (l.ok l.data, (p.2.visible x.info.block).pcieSend pa 1 bs.length bs c o.id l.lane false)
  | .fabric pa =>
    ({ l with st := .sent, flt := none }, (p.2.visible x.info.block).fabSend pa 1 0 bs.length bs c o.id l.lane)
  | .wait u => ({ l with flt := some u }, p.2)
  | .fail sub => (l.fail, p.2.laneFail c o.id l sub)

/-- The PCI Express request that carries an atomic, none where it has none (R535). -/
def hostAtomic : OpKind → Option Nat
  | .amo op _ => if op = 0 then some 2 else if op = 8 then some 3 else none
  | .cas _ => some 4
  | .sig op _ => if op = 0 then some 2 else if op = 1 then some 1 else none
  | _ => none

/-- The OP byte of a fabric atomic (R515). -/
def fabAtomic : OpKind → BitVec 8
  | .amo op rv => op.setWidth 8 ||| (if rv then 0x40 else 0)
  | .cas rv => 0x10 ||| (if rv then 0x40 else 0)
  | .sig op _ => 0x20 ||| (if op = 0 then 0 else if op = 1 then 8 else 2)
  | _ => 0

/-- The new word of an atomic or a signal in a lane. -/
def OpKind.update (k : OpKind) (l : LaneAcc) (w : Word) : Word :=
  let v := l.data.headD 0
  match k with
  | .amo op _ => amoWord op.toNat w v
  | .cas _ => if w = l.cmp then v else w
  | .sig op _ => sigWord op.toNat w v
  | _ => w

/-- A signal word that SIG has written is progress (R390). -/
def State.signed (s : State) (x : Course) (k : OpKind) : State :=
  match k with
  | .sig .. => s.progress x.info.die x.info.ctx
  | _ => s

/-- An atomic or a signal of a lane, at the tile update unit of its word (R247, R266 to R268, R274). -/
def State.laneAtomic (s : State) (c : Nat) (o : MemOp) (l : LaneAcc) (again : Bool) : LaneAcc × State :=
  let x := s.course c
  let p := s.place c o l .write
  let operands : List Byte := bytesOf 4 (l.data.headD 0) ++ (match o.kind with | .cas _ => bytesOf 4 l.cmp | _ => [])
  match p.1 with
  | .scratch off =>
    let r := p.2.rmwScratch x.info.block off (o.kind.update l)
    (l.ok [r.1], r.2.signed x o.kind)
  | .mem pa _ =>
    let s1 := p.2.evictLine x.coreKey (lineOf pa)
    if s1.lineFailed (lineOf pa) then (l.fail, s1.laneBad c o.id l 0)
    else
      let r := (s1.visible x.info.block).rmwHome x.coreKey pa again (o.kind.update l)
      (l.ok [r.1], r.2.signed x o.kind)
  | .mmio _ => (l.fail, p.2.laneFail c o.id l 2)
  | .host pa =>
    match hostAtomic o.kind with
    | none => (l.fail, p.2.laneFail c o.id l 2)
    | some 1 => (l.ok [0], ((p.2.visible x.info.block).signed x o.kind).pcieSend pa 1 4 operands c o.id l.lane false)
    | some k =>
      ({ l with st := .sent, flt := none },
       (p.2.visible x.info.block).pcieSend pa k operands.length operands c o.id l.lane true)
  | .fabric pa =>
    ({ l with st := .sent, flt := none },
     (p.2.visible x.info.block).fabSend pa 2 (fabAtomic o.kind) operands.length operands c o.id l.lane)
  | .wait u => ({ l with flt := some u }, p.2)
  | .fail sub => (l.fail, p.2.laneFail c o.id l sub)

/-! ## Performing the lanes of an operation -/

def LaneAcc.open_ (l : LaneAcc) : Bool := l.st == .pending
def LaneAcc.over (l : LaneAcc) : Bool := l.st == .done || l.st == .failed

/-- One lane of an operation. -/
def State.laneStep (s : State) (c : Nat) (o : MemOp) (l : LaneAcc) (again : Bool) : LaneAcc × State :=
  match o.kind with
  | .load _ sx _ => s.laneRead c o l again sx false
  | .lda => s.laneRead c o l again false (wideScope (extScope o.ext o.scope))
  | .sld _ | .rest => s.laneRead c o l again false false
  | .store b 1 => s.laneWrite c o l again (bytesOf b (l.data.headD 0)) false
  | .stl => s.laneWrite c o l again (bytesOf 4 (l.data.headD 0)) (wideScope (extScope o.ext o.scope))
  | .store .. | .sst | .save => s.laneWrite c o l again ((l.data.map (bytesOf 4)).flatten) false
  | .amo .. | .cas .. | .sig .. => s.laneAtomic c o l again
  | _ => (l, s)

def State.putLane (s : State) (c id : Nat) (l : LaneAcc) : State :=
  s.onOp c id fun o => { o with lanes := o.lanes.map fun k => if k.lane = l.lane then l else k }

/-- Whether an earlier lane of a list needs the same line (R474). -/
def MemOp.lineAgain (o : MemOp) (ls : List LaneAcc) (i : Nat) (l : LaneAcc) : Bool :=
  (ls.take i).any fun k => (o.va k).toNat / 64 == (o.va l).toNat / 64

/-- The bytes that a lane's access of a store puts at their home, when failed lines are about (R455). -/
def State.landing (s : State) (c : Nat) (o : MemOp) (l : LaneAcc) (then_ : State) : List (Nat × Nat) :=
  if s.sound then []
  else match o.kind, (s.place c o l .write).1 with
    | .store .., .mem pa _ | .save, .mem pa _ =>
      if (then_.l1? (s.course c).coreKey (lineOf pa)).isSome then [] else [(pa, o.size l)]
    | .stl, .mem pa _ =>
      if wideScope (extScope o.ext o.scope) || (then_.l1? (s.course c).coreKey (lineOf pa)).isNone then [(pa, 4)] else []
    | _, _ => []

/-- The open lanes of an operation that a test picks, in ascending order (R264, R268); the lines that they overwrite
together are failed no more (R455). -/
def State.performLanes (s : State) (c : Nat) (o : MemOp) (pick : LaneAcc → Bool) : State :=
  let ls := o.lanes.filter fun l => l.open_ && pick l
  let end_ := ls.zipIdx.foldl (fun (acc : State × List (Nat × Nat)) p =>
    let r := acc.1.laneStep c o p.1 (o.lineAgain ls p.2 p.1)
    (r.2.putLane c o.id r.1, acc.2 ++ acc.1.landing c o p.1 r.2)) (s, [])
  end_.1.overwrote end_.2

/-! ## The end of an operation -/

/-- The lanes of a load that have their value. -/
def MemOp.okMask (o : MemOp) : Mask :=
  match o.lanes with
  | [l] => if l.st == .done then o.act else 0
  | ls => ls.foldl (fun m l => if l.st == .done then m ||| Mask.one l.lane else m) 0

/-- Word j of a load in each lane; the one access of a uniform load serves every lane. -/
def MemOp.words (o : MemOp) (w j : Nat) : Lanes :=
  match o.lanes with
  | [l] => List.replicate w (l.data.getD j 0)
  | ls => (List.range w).map fun i => match ls.find? fun l => l.lane == i with
    | some l => l.data.getD j 0
    | none => 0

/-- The values of a result that has been on its way land (R50, R258, R262). -/
def State.landOp (s : State) (c fid : Nat) (m : Mask) (vals : Lanes) : State :=
  (s.onCourse c fun x =>
    { x with flights := x.flights.map fun f =>
        if f.id = fid then { f with mask := m, vals := vals } else f }).landFlight c fid

/-- The destination of an operation is written: register j of a group by the write numbered id + 1 + j, an O
register at once. -/
def State.writeDest (s : State) (c : Nat) (o : MemOp) (n : Nat) (tag : Tag) (words : Nat → Lanes) : State :=
  match o.dst with
  | none => s
  | some d =>
    if isO d then s.onCourse c fun x =>
      { x with o := modAt (d.toNat - 64) (fun r => r.merge x.w o.okMask (words 0) tag) x.o }
    else (List.range n).foldl (fun s j => s.landOp c (o.id + 1 + j) o.okMask (words j)) s

/-- The operation leaves the engine: its failure is reported, its counter decrements, and fences behind it
may act; a hardware error that it met comes last. -/
def State.closeOp (s : State) (c : Nat) (o : MemOp) : State :=
  let s1 := s.onCourse c fun x => { x with ops := x.ops.filter fun p => p.id != o.id }
  let s2 := match o.acc with
    | some (_, sub, a) => s1.accError c sub a o.pc o.hnd
    | none => s1
  let s3 := ((if o.cnt.isSome then s2.opDone c o.id else s2).fences c).settle c
  match o.hwe with
  | some (_, src, a) => s3.hwError c src a
  | none => s3

/-- The tag that a load gives its destination (R261). -/
def OpKind.tag : OpKind → Tag
  | .load b sx _ => if b < 4 then (if sx then .sw else .uw) else .und
  | _ => .und

/-- The results of an operation all of whose lanes are over. -/
def State.settleOp (s : State) (c id : Nat) : State :=
  match (s.course c).op? id with
  | none => s
  | some o =>
    if !(o.lanes.all LaneAcc.over) then s
    else
      let w := (s.course c).w
      let s1 := match o.kind with
        | .load _ _ n => s.writeDest c o n o.kind.tag (o.words w)
        | .lda =>
          let t := s.writeDest c o 1 .und (o.words w)
          -- a lane that has failed acquires nothing (R257)
          if o.okMask = 0 then t
          else t.acquire (s.course c).coreKey (s.course c).info.block (extScope o.ext o.scope)
        | .amo _ true | .cas true => s.writeDest c o 1 .und (o.words w)
        | .sld d => match o.lanes with
          | [l] => if l.st == AccSt.done then s.onCourse c fun x =>
              { x with sr := setAt d (.ofNat 64 ((l.data.getD 0 0).toNat + (l.data.getD 1 0).toNat * 2 ^ 32)) x.sr,
                       ranked := x.ranked &&& ~~~(1#32 <<< d) } else s
          | _ => s
        | _ => s
      s1.closeOp c o

/-! ## WBR and INVR (R281) -/

/-- Whether a line holds bytes of a range of a context; a long range takes in every line. -/
def State.lineIn (s : State) (ctx : Nat) (base : DWord) (len line : Nat) : Bool :=
  2 ^ 24 ≤ len ||
  (List.range ((base.toNat % 4096 + len + 4095) / 4096)).any fun i =>
    let va : DWord := .ofNat 64 (base.toNat / 4096 * 4096 + 4096 * i)
    !inAperture va && (match (s.translate ctx va .read).1 with
      | .ok pa => decide (pa / 4096 = line / 4096) && meets (line % 4096 + 4096 * i, 64) (base.toNat % 4096, len)
      | _ => false)

/-- The lines of a range written back, and invalidated for INVR. -/
def State.cleanRange (s : State) (c : Nat) (base : DWord) (len : Nat) (inv : Bool) : State :=
  let x := s.course c
  (s.core x.coreKey).l1.foldl (fun s l =>
    if len != 0 && s.lineIn x.info.ctx base len l.line then
      (if inv then s.evict x.coreKey l else s.writeBack x.coreKey l) else s) s

/-! ## REST (R153, R469) -/

/-- The registers of a REST that are not restored yet, in ascending order, with their pieces. -/
def MemOp.restLeft (o : MemOp) : List Nat := (o.lanes.map fun l => l.lane / 16).eraseDups

/-- The register of the pieces that its data has filled: the last piece holds the mask and the tag. -/
def restored (w : Nat) (ps : List LaneAcc) : VEntry :=
  let words : List Word := ((ps.dropLast).map (·.data)).flatten
  let mt := match ps.getLast? with | some p => p.data | none => []
  let live : Mask := .ofNat 64 ((mt.getD 0 0).toNat + (mt.getD 1 0).toNat * 2 ^ 32) &&& Mask.low w
  let tag := tagOf ((mt.getD 2 0).toNat % 16)
  { st := .mapped, xfer := .none, vals := words, tag := tag, live := live, stamp := 0 }

/-- Restores the registers whose data is there, one after another; each draws its physical register. -/
def State.restSteps (s : State) (c id : Nat) : Nat → State
  | 0 => s
  | n + 1 =>
    match (s.course c).op? id with
    | none => s
    | some o =>
      match o.restLeft with
      | [] => s
      | v :: _ =>
        let ps := o.lanes.filter fun l => l.lane / 16 == v
        let drop (s : State) : State := s.onOp c id fun o =>
          { o with lanes := o.lanes.filter (fun l => l.lane / 16 != v), regs := o.regs.filter fun p => p.1 != v }
        if !(ps.all LaneAcc.over) then s
        else
          match o.regs.find? fun p => p.1 == v with
          | none => s
          | some (_, e) =>
            -- stamp holds the write's number
            if ps.any (fun l => l.st == .failed) then
              State.restSteps (drop (s.withdraw c e.stamp)) c id n
            else
              let r := restored (s.course c).w ps
              -- what comes back for a course that has ended is discarded (R142)
              let d := if r.live = 0 || (s.course c).pres == .ended then (true, s) else s.draw c 1 [(c, v)]
              if !d.1 then d.2
              else
                let s1 := d.2.onCourse c fun x =>
                  { x with flights := x.flights.map fun f =>
                      if f.id = e.stamp then { f with mask := r.live, vals := r.vals, tag := r.tag } else f }
                State.restSteps (drop (s1.landFlight c e.stamp)) c id n

end Sys2Proof.Machine
end

