-- ==== Sys2Proof/Machine/Memory.lean ====
section
/-! DEFINITION. The memory rows of slot 2 and the memory accesses of slot 0, and the events that perform them
(R151 to R153, R158, R253 to R282). -/

namespace Sys2Proof.Machine

/-! ## Issue -/

/-- The record of an operation before its lanes are known. -/
def Issue.newOp (i : Issue) (ins : Instr) (kind : OpKind) (cls : BitVec 2) : MemOp :=
  { id := 0, kind := kind, scratch := (match accessOf ins with | some a => a.scratch | none => false), cls := cls,
    cnt := counterOf ins, dst := (profile ins).dsts.head?.map (·.code), act := i.mask (profile ins).slot, lanes := [],
    nt := false, scope := 0, ext := false, base := 0, len := 0, pc := i.pc, hnd := i.src.hnd, regs := [],
    opnds := [], acc := none, hwe := none }

/-- The accesses of the lanes of ACTIVE; a uniform access is one (R109, R255, R261). -/
def Issue.lanesOf (i : Issue) (ins : Instr) (data : Nat → List Word) (cmp : Nat → Word) : List LaneAcc :=
  match accessOf ins with
  | none => []
  | some a =>
    let ls := Mask.toList i.g2
    (if a.mode == .uniform then ls.take 1 else ls).map fun j => ⟨j, i.addr a j, data j, cmp j, .pending, none⟩

/-- The writes that the destinations of an operation wait for, numbered after the operation. -/
def State.openDests (s : State) (ins : Instr) (m : Mask) (op : Nat) : State :=
  let tags := s.iss.resultTags ins
  ((profile ins).written.zipIdx.filter fun p => p.1 < 64 && p.2 < 4).foldl (fun s p =>
    (s.addWrite s.iss.course p.1 m [] (tags.getD p.2 .und) 0 none (some op)).2) s

/-- Flags raised by the reads of slot 2, which land like those of the address ALU (R255). -/
def State.readFlags (s : State) (f : DWord) : State := s.addFlags s.iss.course f (s.clkOf s.iss.course + 2)

/-- An operation joins the outstanding ones of its course (R145, R258). -/
def State.postOp (s : State) (ins : Instr) (o : MemOp) : State :=
  let c := s.iss.course
  if o.act = 0 then s
  else
    let u := s.fresh
    let put (x : Course) : Course :=
      { (match o.cnt with | some k => x.count u.1 k | none => x) with ops := x.ops ++ [{ o with id := u.1 }] }
    ((u.2.onCourse c put).openDests ins o.act u.1)

/-- A memory row: its operation is posted, its reads raise their flags, and its operands are released. -/
def State.memRow (s : State) (ins : Instr) (o : MemOp) : State :=
  ((s.postOp ins o).readFlags (s.iss.reads ins).flags).releases ins

/-- A load of words (R261, R262). -/
def loadRow (ins : Instr) (bytes : Nat) (sx : Bool) (words : Nat) (ac : BitVec 2) (nt : Bool) (st : State) :
    Host.Outcome State Fault Refusal :=
  gated ins st fun s => s.memRow ins
    { s.iss.newOp ins (.load bytes sx words) ac with lanes := s.iss.lanesOf ins (fun _ => []) (fun _ => 0), nt := nt }

/-- A store of the low bytes of words (R263 to R265). -/
def storeRow (ins : Instr) (bytes words : Nat) (ac : BitVec 2) (nt : Bool) (st : State) :
    Host.Outcome State Fault Refusal :=
  gated ins st fun s =>
    let r := s.iss.reads ins
    s.memRow ins
      { s.iss.newOp ins (.store bytes words) ac with
        lanes := s.iss.lanesOf ins (fun i => (List.range words).map fun j => r.v j i) (fun _ => 0), nt := nt }

/-- A row with one word of data and one compare word in each lane. -/
def wordRow (ins : Instr) (kind : OpKind) (ac : BitVec 2) (scope : BitVec 3) (ext : Bool) (st : State) :
    Host.Outcome State Fault Refusal :=
  gated ins st fun s =>
    let r := s.iss.reads ins
    s.memRow ins
      { s.iss.newOp ins kind ac with
        lanes := s.iss.lanesOf ins (fun i => [r.v 0 i]) (fun i => r.v 2 i), scope := scope, ext := ext }

/-! ## Loads (R261) -/

def execLdB (t : BitVec 7) (s : BitVec 5) (o : BitVec 7) (ac : BitVec 2) (uo : Bool) (nt : Bool) (off : BitVec 7) (st : State) : Host.Outcome State Fault Refusal :=
  loadRow (.ldB t s o ac uo nt off) 1 false 1 ac nt st

def execLdBs (t : BitVec 7) (s : BitVec 5) (o : BitVec 7) (ac : BitVec 2) (uo : Bool) (nt : Bool) (off : BitVec 7) (st : State) : Host.Outcome State Fault Refusal :=
  loadRow (.ldBs t s o ac uo nt off) 1 true 1 ac nt st

def execLdH (t : BitVec 7) (s : BitVec 5) (o : BitVec 7) (ac : BitVec 2) (uo : Bool) (nt : Bool) (off : BitVec 7) (st : State) : Host.Outcome State Fault Refusal :=
  loadRow (.ldH t s o ac uo nt off) 2 false 1 ac nt st

def execLdHs (t : BitVec 7) (s : BitVec 5) (o : BitVec 7) (ac : BitVec 2) (uo : Bool) (nt : Bool) (off : BitVec 7) (st : State) : Host.Outcome State Fault Refusal :=
  loadRow (.ldHs t s o ac uo nt off) 2 true 1 ac nt st

def execLdW (t : BitVec 7) (s : BitVec 5) (o : BitVec 7) (ac : BitVec 2) (uo : Bool) (nt : Bool) (off : BitVec 7) (st : State) : Host.Outcome State Fault Refusal :=
  loadRow (.ldW t s o ac uo nt off) 4 false 1 ac nt st

def execLdd (t : BitVec 7) (s : BitVec 5) (o : BitVec 7) (ac : BitVec 2) (uo : Bool) (nt : Bool) (off : BitVec 7) (st : State) : Host.Outcome State Fault Refusal :=
  loadRow (.ldd t s o ac uo nt off) 4 false 2 ac nt st

def execLdq (t : BitVec 7) (s : BitVec 5) (o : BitVec 7) (ac : BitVec 2) (uo : Bool) (nt : Bool) (off : BitVec 7) (st : State) : Host.Outcome State Fault Refusal :=
  loadRow (.ldq t s o ac uo nt off) 4 false 4 ac nt st

def execLdc (t : BitVec 7) (s : BitVec 5) (ac : BitVec 2) (nt : Bool) (off : BitVec 7) (st : State) : Host.Outcome State Fault Refusal :=
  loadRow (.ldc t s ac nt off) 4 false 1 ac nt st

def execLdu (t : BitVec 7) (s : BitVec 5) (ac : BitVec 2) (nt : Bool) (off : BitVec 7) (st : State) : Host.Outcome State Fault Refusal :=
  loadRow (.ldu t s ac nt off) 4 false 1 ac nt st

def execLdsB (t : BitVec 7) (s : BitVec 5) (o : BitVec 7) (ac : BitVec 2) (uo : Bool) (off : BitVec 7) (st : State) : Host.Outcome State Fault Refusal :=
  loadRow (.ldsB t s o ac uo off) 1 false 1 ac false st

def execLdsBs (t : BitVec 7) (s : BitVec 5) (o : BitVec 7) (ac : BitVec 2) (uo : Bool) (off : BitVec 7) (st : State) : Host.Outcome State Fault Refusal :=
  loadRow (.ldsBs t s o ac uo off) 1 true 1 ac false st

def execLdsH (t : BitVec 7) (s : BitVec 5) (o : BitVec 7) (ac : BitVec 2) (uo : Bool) (off : BitVec 7) (st : State) : Host.Outcome State Fault Refusal :=
  loadRow (.ldsH t s o ac uo off) 2 false 1 ac false st

def execLdsHs (t : BitVec 7) (s : BitVec 5) (o : BitVec 7) (ac : BitVec 2) (uo : Bool) (off : BitVec 7) (st : State) : Host.Outcome State Fault Refusal :=
  loadRow (.ldsHs t s o ac uo off) 2 true 1 ac false st

def execLdsW (t : BitVec 7) (s : BitVec 5) (o : BitVec 7) (ac : BitVec 2) (uo : Bool) (off : BitVec 7) (st : State) : Host.Outcome State Fault Refusal :=
  loadRow (.ldsW t s o ac uo off) 4 false 1 ac false st

def execLdsc (t : BitVec 7) (s : BitVec 5) (ac : BitVec 2) (off : BitVec 7) (st : State) : Host.Outcome State Fault Refusal :=
  loadRow (.ldsc t s ac off) 4 false 1 ac false st

/-! ## Stores (R263) -/

def execStB (t : BitVec 7) (s : BitVec 5) (o : BitVec 7) (ac : BitVec 2) (ut : Bool) (uo : Bool) (nt : Bool) (off : BitVec 7) (st : State) : Host.Outcome State Fault Refusal :=
  storeRow (.stB t s o ac ut uo nt off) 1 1 ac nt st

def execStH (t : BitVec 7) (s : BitVec 5) (o : BitVec 7) (ac : BitVec 2) (ut : Bool) (uo : Bool) (nt : Bool) (off : BitVec 7) (st : State) : Host.Outcome State Fault Refusal :=
  storeRow (.stH t s o ac ut uo nt off) 2 1 ac nt st

def execStW (t : BitVec 7) (s : BitVec 5) (o : BitVec 7) (ac : BitVec 2) (ut : Bool) (uo : Bool) (nt : Bool) (off : BitVec 7) (st : State) : Host.Outcome State Fault Refusal :=
  storeRow (.stW t s o ac ut uo nt off) 4 1 ac nt st

def execStd (t : BitVec 7) (s : BitVec 5) (o : BitVec 7) (ac : BitVec 2) (ut : Bool) (uo : Bool) (nt : Bool) (off : BitVec 7) (st : State) : Host.Outcome State Fault Refusal :=
  storeRow (.std t s o ac ut uo nt off) 4 2 ac nt st

def execStq (t : BitVec 7) (s : BitVec 5) (o : BitVec 7) (ac : BitVec 2) (ut : Bool) (uo : Bool) (nt : Bool) (off : BitVec 7) (st : State) : Host.Outcome State Fault Refusal :=
  storeRow (.stq t s o ac ut uo nt off) 4 4 ac nt st

def execStc (t : BitVec 7) (s : BitVec 5) (ac : BitVec 2) (ut : Bool) (nt : Bool) (off : BitVec 7) (st : State) : Host.Outcome State Fault Refusal :=
  storeRow (.stc t s ac ut nt off) 4 1 ac nt st

def execStsB (t : BitVec 7) (s : BitVec 5) (o : BitVec 7) (ac : BitVec 2) (ut : Bool) (uo : Bool) (off : BitVec 7) (st : State) : Host.Outcome State Fault Refusal :=
  storeRow (.stsB t s o ac ut uo off) 1 1 ac false st

def execStsH (t : BitVec 7) (s : BitVec 5) (o : BitVec 7) (ac : BitVec 2) (ut : Bool) (uo : Bool) (off : BitVec 7) (st : State) : Host.Outcome State Fault Refusal :=
  storeRow (.stsH t s o ac ut uo off) 2 1 ac false st

def execStsW (t : BitVec 7) (s : BitVec 5) (o : BitVec 7) (ac : BitVec 2) (ut : Bool) (uo : Bool) (off : BitVec 7) (st : State) : Host.Outcome State Fault Refusal :=
  storeRow (.stsW t s o ac ut uo off) 4 1 ac false st

def execStsc (t : BitVec 7) (s : BitVec 5) (ac : BitVec 2) (ut : Bool) (off : BitVec 7) (st : State) : Host.Outcome State Fault Refusal :=
  storeRow (.stsc t s ac ut off) 4 1 ac false st

/-! ## Atomics and signals (R266, R267, R274, R278) -/

def execAmo (t : BitVec 7) (s : BitVec 5) (o : BitVec 7) (ac : BitVec 2) (ut : Bool) (uo : Bool) (rv : Bool) (op : BitVec 4) (st : State) : Host.Outcome State Fault Refusal :=
  wordRow (.amo t s o ac ut uo rv op) (.amo op rv) ac 0 false st

def execAmos (t : BitVec 7) (s : BitVec 5) (o : BitVec 7) (ac : BitVec 2) (ut : Bool) (uo : Bool) (rv : Bool) (op : BitVec 4) (st : State) : Host.Outcome State Fault Refusal :=
  wordRow (.amos t s o ac ut uo rv op) (.amo op rv) ac 0 false st

def execCas (t : BitVec 7) (s : BitVec 5) (o : BitVec 7) (ac : BitVec 2) (ut : Bool) (uo : Bool) (rv : Bool) (c : BitVec 6) (uc : Bool) (st : State) : Host.Outcome State Fault Refusal :=
  wordRow (.cas t s o ac ut uo rv c uc) (.cas rv) ac 0 false st

def execCass (t : BitVec 7) (s : BitVec 5) (o : BitVec 7) (ac : BitVec 2) (ut : Bool) (uo : Bool) (rv : Bool) (c : BitVec 6) (uc : Bool) (st : State) : Host.Outcome State Fault Refusal :=
  wordRow (.cass t s o ac ut uo rv c uc) (.cas rv) ac 0 false st

def execSig (t : BitVec 7) (s : BitVec 5) (o : BitVec 7) (ac : BitVec 2) (ut : Bool) (uo : Bool) (op : BitVec 2) (rel : Bool) (scope : BitVec 3) (ext : Bool) (st : State) : Host.Outcome State Fault Refusal :=
  wordRow (.sig t s o ac ut uo op rel scope ext) (.sig op rel) ac scope ext st

def execStl (t : BitVec 7) (s : BitVec 5) (o : BitVec 7) (ac : BitVec 2) (ut : Bool) (uo : Bool) (scope : BitVec 3) (ext : Bool) (st : State) : Host.Outcome State Fault Refusal :=
  wordRow (.stl t s o ac ut uo scope ext) .stl ac scope ext st

def execLda (t : BitVec 7) (s : BitVec 5) (o : BitVec 7) (ac : BitVec 2) (uo : Bool) (scope : BitVec 3) (ext : Bool) (st : State) : Host.Outcome State Fault Refusal :=
  gated (.lda t s o ac uo scope ext) st fun w => w.memRow (.lda t s o ac uo scope ext)
    { w.iss.newOp (.lda t s o ac uo scope ext) .lda ac with
      lanes := w.iss.lanesOf (.lda t s o ac uo scope ext) (fun _ => []) (fun _ => 0), scope := scope, ext := ext }

/-! ## Waiting and fences (R270, R277) -/

/-- The lanes that execute it have passed its test at the choice of the bundle; nothing is left but the reads. -/
def execWaita (t : BitVec 7) (s : BitVec 5) (o : BitVec 7) (ac : BitVec 2) (ut : Bool) (uo : Bool) (to_ : Bool) (cond : BitVec 2) (acq : Bool) (scope : BitVec 3) (ext : Bool) (st : State) : Host.Outcome State Fault Refusal :=
  gated (.waita t s o ac ut uo to_ cond acq scope ext) st fun w =>
    (w.readFlags (w.iss.reads (.waita t s o ac ut uo to_ cond acq scope ext)).flags).releases (.waita t s o ac ut uo to_ cond acq scope ext)

def execFence (kind : BitVec 2) (scope : BitVec 3) (ext : Bool) (st : State) : Host.Outcome State Fault Refusal :=
  gated (.fence kind scope ext) st fun s =>
    (s.postOp (.fence kind scope ext) { s.iss.newOp (.fence kind scope ext) (.fence kind) 0 with scope := scope, ext := ext }).fences
      s.iss.course

/-! ## Cache control (R280, R281) -/

/-- The line of one lane of PREF brought into the L1, or only into its home die cache (dc), unless its access fails or does
not reach memory (R280). -/
def State.prefetch (s : State) (c : Nat) (dc : Bool) (va : DWord) : State :=
  let k := (s.course c).coreKey
  if inAperture va then s
  else
    let r := s.translate (s.course c).info.ctx va .read
    match r.1 with
    | .ok pa =>
      if 1 < region pa then r.2
      else if dc then (r.2.lineReq k.1 pa).dieUse false (lineOf pa) 64
      else if s.lent k = 0 || (s.l1? k (lineOf pa)).isSome then r.2
      else (r.2.lineReq k.1 pa).allocLine k (lineOf pa)
    | _ => s

def execPref (dc : Bool) (s : BitVec 5) (o : BitVec 7) (ac : BitVec 2) (uo : Bool) (off : BitVec 7) (st : State) : Host.Outcome State Fault Refusal :=
  gated (.pref dc s o ac uo off) st fun w =>
    let va (i : Nat) : DWord := w.iss.src.s s.toNat + .ofInt 64 (offOf off 64) + (w.iss.offset o i).signExtend 64
    let w1 := (Mask.toList w.iss.g2).foldl (fun x i => x.prefetch w.iss.course dc (va i)) w
    (w1.readFlags (w.iss.reads (.pref dc s o ac uo off)).flags).releases (.pref dc s o ac uo off)

/-- WBR and INVR; a range that passes the top of the address space ends there. -/
def rangeRow (ins : Instr) (kind : OpKind) (a : SReg) (n : Code) (st : State) : Host.Outcome State Fault Refusal :=
  gated ins st fun s =>
    let base := s.sIn a
    let len := (s.iss.src.s (n.toNat - 80)).toNat
    s.memRow ins { s.iss.newOp ins kind 0 with base := base, len := .ofNat 64 (min len (2 ^ 64 - 1 - base.toNat)) }

def execWbr (s : BitVec 5) (n : BitVec 7) (st : State) : Host.Outcome State Fault Refusal :=
  rangeRow (.wbr s n) .wbr s n st

def execInvr (s : BitVec 5) (n : BitVec 7) (st : State) : Host.Outcome State Fault Refusal :=
  rangeRow (.invr s n) .invr s n st

/-! ## Accesses of slot 0 (R151 to R153, R158) -/

/-- Slot 0's one 8-byte access. -/
def scalarAccess (ins : Instr) (kind : OpKind) (a : SReg) (k : BitVec 9) (data : State → List Word) (st : State) :
    Host.Outcome State Fault Refusal :=
  gated ins st fun s =>
    let va := s.sIn a + .ofInt 64 (8 * k.toInt)
    s.postOp ins { s.iss.newOp ins kind 0 with lanes := [⟨0, va, data s, 0, .pending, none⟩] }

def execSld (d : BitVec 5) (a : BitVec 5) (i : BitVec 9) (st : State) : Host.Outcome State Fault Refusal :=
  scalarAccess (.sld d a i) (.sld d.toNat) a i (fun _ => []) st

def execSst (a : BitVec 5) (b : BitVec 5) (i : BitVec 9) (st : State) : Host.Outcome State Fault Refusal :=
  scalarAccess (.sst a b i) .sst a i (fun s => [(s.sIn b).setWidth 32, (s.sIn b >>> 32).setWidth 32]) st

/-- The pieces of a register in a save area: its lanes 16 at a time, then its mask and tag (R60, R151). Lane
numbers are 16v + the place of the piece. -/
def areaPieces (w : Nat) (base : DWord) (v : Nat) (word : Nat → Word) (mt : List Word) : List LaneAcc :=
  let n := w / 16
  ((List.range n).map fun j =>
    (⟨16 * v + j, base + .ofNat 64 (4 * w * v + 64 * j), (List.range 16).map fun i => word (16 * j + i), 0, .pending, none⟩ : LaneAcc)) ++
  [⟨16 * v + n, base + .ofNat 64 (256 * w + 16 * v), mt, 0, .pending, none⟩]

/-- The registers that a mask names, in ascending order. -/
def namedRegs (m : DWord) : List Nat := (List.range 64).filter fun v => m.getLsbD v

/-- The pieces that SAVE stores of a register as the bundle found it (R152). -/
def savePieces (w : Nat) (base : DWord) (v : Nat) (e : VEntry) : List LaneAcc :=
  let live : Mask := if e.st == .unmapped then 0 else e.live &&& Mask.low w
  areaPieces w base v (fun i => if Mask.has live i then e.vals.getD i 0 else 0)
    [live.setWidth 32, (live >>> 32).setWidth 32, .ofNat 32 (Tag.code e.readTag), 0]

def execSave (a : BitVec 5) (b : BitVec 5) (st : State) : Host.Outcome State Fault Refusal :=
  gated (.save a b) st fun s =>
    let x := s.iss.src
    s.postOp (.save a b) { s.iss.newOp (.save a b) .save 0 with
      lanes := ((namedRegs (s.sIn b)).map fun v => savePieces x.w (s.sIn a) v (x.ve v)).flatten }

/-- The writes that REST, the operation op, restores its registers by, with their numbers (R153). -/
def State.openRest (s : State) (c op : Nat) (vs : List Nat) : List (Nat × VEntry) × State :=
  vs.foldl (fun (acc : List (Nat × VEntry) × State) v =>
    let u := acc.2.fresh
    let f : Flight := { id := u.1, v := some v, release := false, mask := 0, vals := [], tag := .und, flags := 0,
                        due := none, ready := false, whole := true, op := some op }
    (acc.1 ++ [(v, { VEntry.empty with stamp := u.1 })], u.2.onCourse c fun x => { x with flights := x.flights ++ [f] }))
    ([], s)

def execRest (a : BitVec 5) (b : BitVec 5) (st : State) : Host.Outcome State Fault Refusal :=
  gated (.rest a b) st fun s =>
    let vs := namedRegs (s.sIn b)
    let r := s.openRest s.iss.course (s.uid + vs.length) vs
    r.2.postOp (.rest a b) { s.iss.newOp (.rest a b) .rest 0 with
      lanes := (vs.map fun v => areaPieces s.iss.src.w (s.sIn a) v (fun _ => 0) [0, 0, 0, 0]).flatten, regs := r.1 }

/-! ## Events that perform operations (R257, R258, R262, R268) -/

/-- The operation with its remaining lanes performed as far as they can be. -/
def State.performOp (s : State) (c id : Nat) (want : MemOp → Bool) : State :=
  match (s.course c).op? id with
  | none => s
  | some o =>
    if !(want o && s.mayPerform (s.course c) o) then s
    else
      let x := s.course c
      let s1 := if o.releasing then s.release x.coreKey x.info.block (extScope o.ext o.scope) else s
      let s2 := s1.performLanes c o fun _ => true
      match o.kind with
      | .rest =>
        let s3 := s2.restSteps c id 64
        if (match (s3.course c).op? id with | some p => p.lanes.isEmpty | none => false) then s3.settleOp c id else s3
      | .wbr => (s2.cleanRange c o.base o.len.toNat false).settleOp c id
      | .invr => (s2.cleanRange c o.base o.len.toNat true).settleOp c id
      | _ => s2.settleOp c id

/-- What LOAD_PERFORMED performs: loads, REST, and the returns of atomics that are applied. -/
def MemOp.loadLike (o : MemOp) : Bool :=
  match o.kind with
  | .load .. | .lda | .rest => true
  | .amo _ true | .cas true => o.lanes.all LaneAcc.over
  | _ => false

def MemOp.storeLike (o : MemOp) : Bool :=
  match o.kind with
  | .store .. | .stl | .sig .. | .save | .wbr | .invr => true
  | _ => false

def MemOp.atomic (o : MemOp) : Bool :=
  match o.kind with
  | .amo .. | .cas .. => true
  | _ => false

def execLoadPerformed (course op : Nat) (st : State) : Host.Outcome State Fault Refusal :=
  .next (st.performOp course op MemOp.loadLike)

def execStorePerformed (course op : Nat) (st : State) : Host.Outcome State Fault Refusal :=
  .next (st.performOp course op MemOp.storeLike)

def execScalarAccessPerformed (course op : Nat) (st : State) : Host.Outcome State Fault Refusal :=
  .next (st.performOp course op MemOp.scalar)

/-- Whether a lane could be performed: it has met no page fault that is still unanswered. -/
def State.laneFree (s : State) (l : LaneAcc) : Bool :=
  l.open_ && (match l.flt with | some u => (s.answer u).isSome | none => true)

/-- The atomics of one instruction to the location of its lowest lane that can be performed (R268). -/
def State.atomicStep (s : State) (c id : Nat) : State :=
  match (s.course c).op? id with
  | none => s
  | some o =>
    if !(o.atomic && s.mayPerform (s.course c) o) then s
    else
      let ctx := (s.course c).info.ctx
      let s1 := match o.lanes.find? s.laneFree with
        | some l => s.performLanes c o fun k => s.sameByte ctx ((o.va k).toNat, 4) ((o.va l).toNat, 4)
        | none => s
      if o.cnt = some 1 then s1.settleOp c id else s1

def execAtomicPerformed (course op : Nat) (st : State) : Host.Outcome State Fault Refusal :=
  .next (st.atomicStep course op)

/-! ## Answers from outside (R257, R487, R513, R535) -/

/-- The bytes that the host or another package answers a lane with, none when the request has failed. -/
def State.answerLane (s : State) (c id lane : Nat) (r : Option (List Byte)) : State :=
  match (s.course c).op? id with
  | some o =>
    match o.lanes.find? fun l => l.lane == lane && l.st == .sent with
    | none => s
    | some l =>
      match r with
      | none => (s.laneFail c id l 0).putLane c id l.fail
      | some bs =>
        let ws := if o.writes && !o.atomic then l.data
          else toWords (match o.kind with | .load _ sx _ => sx | _ => false) bs
        s.putLane c id (l.ok ws)
  | none =>
    let l := (s.course c).lane lane
    match l.wa with
    | none => s
    | some w =>
      if w.sent != some id then s
      else
        match r with
        | some bs =>
          (s.onCourse c fun x => x.onLanes (Mask.one lane) fun _ k =>
            { k with wa := some { w with sent := none, got := some (wordOf bs) } }).rewait c lane
        | none =>
          -- the lane is released without acquiring
          ((s.onCourse c fun x => x.onLanes (Mask.one lane) fun _ k =>
            { k with wa := some { w with sent := none, gaveUp := true } }).rewait c lane).accError c 0 w.va l.lpc
              (s.course c).hnd

end Sys2Proof.Machine
end

