-- ==== Sys2Proof/Machine/Cluster.lean ====
section
/-! DEFINITION. The arithmetic of the Dome cluster units: visibility, ray tests, texture addressing and
filtering (R334, R337 to R347, R352 to R356). -/

namespace Sys2Proof.Machine

/-! ## Exact numbers -/

/-- A signed number m * 2^e as a multiple of 2^-149, for finite F32 values. -/
def scaled : FVal → Int
  | .fin n m e => (if n then -1 else 1) * ((m * 2 ^ (e + 149).toNat : Nat) : Int)
  | _ => 0

def isFin : FVal → Bool
  | .fin .. => true
  | _ => false

/-- floor(v * k) of a finite value. -/
def floorMul (v : FVal) (k : Int) : Int :=
  match v with
  | .fin n m e =>
    let x : Int := (if n then -1 else 1) * (m : Int) * k
    if 0 ≤ e then x * ((2 ^ e.toNat : Nat) : Int) else x / ((2 ^ (-e).toNat : Nat) : Int)
  | _ => 0

/-- The bytes of a word at an offset. -/
def wordAt (bs : List Byte) (off : Nat) : Nat := leVal ((bs.drop off).take 4)

/-- rne(x*y + w), rounding of the cluster units (R334). -/
def rFma (x y w : Nat) : Nat := (ffma .rne false x y w).1
def rSub (x y : Nat) : Nat := (fsub .rne false x y).1
def rNeg (x : Nat) : Nat := Nat.xor x (2 ^ 31)
/-- F32 comparisons; false when an operand is NaN. -/
def rLe (a b : Nat) : Bool := (fcmp 3 false a b).1
def rEq (a b : Nat) : Bool := (fcmp 0 false a b).1

/-! ## Visibility (R337 to R341) -/

/-- A signed field of n bytes. -/
def sField (bs : List Byte) (off n : Nat) : Int := sextI (8 * n) (leVal ((bs.drop off).take n))

/-- Whether an edge of a record covers a pixel (R339). -/
def edgeCovers (r : List Byte) (e : Nat) (px py : Nat) : Bool :=
  let a := sField r (16 * e) 4
  let b := sField r (16 * e + 4) 4
  let v := a * (256 * (px : Int) + 128) + b * (256 * (py : Int) + 128) + sField r (16 * e + 8) 8
  decide (0 < v) || (decide (v = 0) && (decide (0 < a) || (decide (a = 0) && decide (0 < b))))

def covers (r : List Byte) (px py : Nat) : Bool := edgeCovers r 0 px py && edgeCovers r 1 px py && edgeCovers r 2 px py

/-- n + 0.5 in F32. -/
def halfUp (n : Nat) : Nat := (f32.rnd .rne false false (2 * n + 1) (-1)).1

/-- best_z and best_id of a pixel (R340). -/
def resolvePixel (zt : Nat) (recs : List (List Byte)) (px py : Nat) : Nat × Nat :=
  recs.foldl (fun (best : Nat × Nat) r =>
    let id := wordAt r 60
    if id = 0xFFFFFFFF || !covers r px py then best
    else
      let z := rFma (wordAt r 56) (halfUp py) (rFma (wordAt r 52) (halfUp px) (wordAt r 48))
      if rLt z zt && (best.2 = 0xFFFFFFFF || rLt z best.1 || (rEq z best.1 && id < best.2)) then (z, id) else best)
    (zt, 0xFFFFFFFF)

/-- The four words that lane i of a VISQ receives (R341). -/
def visLane (o : Word) (batch : List Byte) (n i : Nat) : List Word :=
  let tx := o.toNat % 2 ^ 12
  let ty := o.toNat / 2 ^ 12 % 2 ^ 12
  let b := o.toNat / 2 ^ 24 % 64
  let recs := (List.range n).map fun j => (batch.drop (64 + 64 * j)).take 64
  let px (p : Nat) : Nat := 64 * tx + 8 * (b % 8) + p % 8
  let py (p : Nat) : Nat := 64 * ty + 8 * (b / 8) + p / 8
  let at_ (p : Nat) : Nat × Nat := resolvePixel (wordAt batch 0) recs (px p) (py p)
  let lo := at_ i
  let hi := at_ (i + 32)
  [.ofNat 32 lo.1, .ofNat 32 hi.1, .ofNat 32 lo.2, .ofNat 32 hi.2]

/-! ## Rays (R342 to R346) -/

structure Ray where
  o : List Nat
  d : List Nat
  tmin : Nat
  tmax : Nat
  deriving DecidableEq, Repr

def Ray.ofWords (ws : List Word) : Ray :=
  let n (k : Nat) : Nat := (ws.getD k 0).toNat
  ⟨[n 0, n 1, n 2], [n 4, n 5, n 6], n 3, n 7⟩

/-- A ray that misses at once (R344). -/
def Ray.void (r : Ray) : Bool :=
  ((r.o ++ r.d ++ [r.tmin, r.tmax]).any fun x => (f32.val x).isNan) || rLt r.tmax r.tmin

structure Cand where
  t : Nat
  id : Nat
  b1 : Nat
  b2 : Nat
  back : Bool
  deriving DecidableEq, Repr

def rCross (a b : List Nat) : List Nat :=
  let p (k : Nat) : Nat := a.getD k 0
  let q (k : Nat) : Nat := b.getD k 0
  [rFma (p 1) (q 2) (rNeg (rMul (p 2) (q 1))), rFma (p 2) (q 0) (rNeg (rMul (p 0) (q 2))),
   rFma (p 0) (q 1) (rNeg (rMul (p 1) (q 0)))]

def rDot (a b : List Nat) : Nat :=
  let p (k : Nat) : Nat := a.getD k 0
  let q (k : Nat) : Nat := b.getD k 0
  rFma (p 2) (q 2) (rFma (p 1) (q 1) (rMul (p 0) (q 0)))

def rSub3 (a b : List Nat) : List Nat := (List.range 3).map fun k => rSub (a.getD k 0) (b.getD k 0)

/-- The test of a 64-byte triangle (R343, R345): a candidate nearer than tmax, or none. -/
def testTriangle (r : Ray) (flags : BitVec 3) (tri : List Byte) : Option Cand :=
  let v (k : Nat) : List Nat := [wordAt tri (12 * k), wordAt tri (12 * k + 4), wordAt tri (12 * k + 8)]
  let id := wordAt tri 36
  let e1 := rSub3 (v 1) (v 0)
  let e2 := rSub3 (v 2) (v 0)
  let s := rSub3 r.o (v 0)
  let pv := rCross r.d e2
  let qv := rCross s e1
  let det := rDot e1 pv
  let b1 := rDiv (rDot s pv) det
  let b2 := rDiv (rDot r.d qv) det
  let t := rDiv (rDot e2 qv) det
  let neg := rLt det 0
  let pos := rLt 0 det
  if id != 0xFFFFFFFF && (neg || pos) && rLe 0 b1 && rLe 0 b2 && rLe (rAdd b1 b2) 0x3F800000 && rLe r.tmin t &&
      !(flags.getLsbD 1 && neg) && !(flags.getLsbD 2 && pos) && rLt t r.tmax then
    some ⟨t, id, b1, b2, neg⟩
  else none

/-- The scaled bounds of a child's box on an axis (R342). -/
def boxBound (node : List Byte) (axis q : Nat) : Int :=
  scaled (f32.val (wordAt node (4 * axis))) +
    (q : Int) * ((2 ^ ((node.getD (12 + axis) 0).toNat + 22) : Nat) : Int)

def qlo (node : List Byte) (c axis : Nat) : Nat := (node.getD (16 + 6 * c + axis) 0).toNat
def qhi (node : List Byte) (c axis : Nat) : Nat := (node.getD (19 + 6 * c + axis) 0).toNat

/-- The bounds (numerator, denominator) that the slabs of a box and tmin, tmax put on t, from below and from above;
none when an axis is missed altogether. -/
def slabs (node : List Byte) (c : Nat) (r : Ray) : Option (List (Int × Int) × List (Int × Int)) :=
  let k : Int := ((2 ^ 149 : Nat) : Int)
  let start : List (Int × Int) × List (Int × Int) :=
    ((if isFin (f32.val r.tmin) then [(scaled (f32.val r.tmin), k)] else []),
     (if isFin (f32.val r.tmax) then [(scaled (f32.val r.tmax), k)] else []))
  (List.range 3).foldl (fun acc a =>
    match acc with
    | none => none
    | some (lo, hi) =>
      let o := scaled (f32.val (r.o.getD a 0))
      let d := scaled (f32.val (r.d.getD a 0))
      let l := boxBound node a (qlo node c a) - o
      let h := boxBound node a (qhi node c a) - o
      if d = 0 then (if l ≤ 0 ∧ 0 ≤ h then some (lo, hi) else none)
      else if 0 < d then some ((l, d) :: lo, (h, d) :: hi)
      else some ((-h, -d) :: lo, (-l, -d) :: hi)) (some start)

/-- Whether the segment meets the box of a child under exact arithmetic; none when a bound is no real number. -/
def segmentMeets (node : List Byte) (c : Nat) (r : Ray) : Option Bool :=
  if !((r.o ++ r.d ++ [wordAt node 0, wordAt node 4, wordAt node 8]).all fun x => isFin (f32.val x)) then none
  else match slabs node c r with
    | none => some false
    | some (lo, hi) => some (lo.all fun a => hi.all fun b => decide (a.1 * b.2 ≤ b.1 * a.2))

def childPtr (node : List Byte) (c : Nat) : DWord := .ofNat 64 (leVal ((node.drop (64 + 8 * c)).take 8))

/-- Empty children (R342). -/
def childEmpty (node : List Byte) (c : Nat) : Bool :=
  childPtr node c == 0 || (List.range 3).any fun a => qhi node c a < qlo node c a

def nodeBad (node : List Byte) : Bool := (List.range 3).any fun a => node.getD (12 + a) 0 == 255#8

/-- The four words of a query's result (R344). -/
def hitWords (c : Cand) : List Word :=
  let h (x : Nat) : Nat := (narrow fHF .rne true (f32.val x)).1
  [.ofNat 32 c.t, .ofNat 32 c.id, .ofNat 32 (h c.b1 + h c.b2 * 2 ^ 16), if c.back then 0x10 else 0]

def statusWords (st : Nat) : List Word := [0x7F800000#32, 0xFFFFFFFF#32, 0, .ofNat 32 st]

/-- The candidates that the query may answer with (R346). -/
def eligibleHits (flags : BitVec 3) (l : List Cand) : List Cand :=
  if flags.getLsbD 0 then l
  else l.filter fun c => l.all fun k => !(rLt k.t c.t) && !(rEq k.t c.t && decide (k.id < c.id))

/-! ## Textures (R352 to R356) -/

structure Tex where
  base : DWord
  w : Nat
  h : Nat
  lm : Nat
  fmt : Nat
  deriving DecidableEq, Repr

/-- The descriptor's fields, none when it is invalid (R352). -/
def Tex.ofBytes (bs : List Byte) : Option Tex :=
  let q (k : Nat) : DWord := .ofNat 64 (leVal ((bs.drop (8 * k)).take 8))
  let t : Tex := ⟨q 0, fld (q 1) 0 14 + 1, fld (q 1) 16 14 + 1, fld (q 1) 32 4, fld (q 1) 36 4⟩
  if fld (q 1) 14 2 != 0 || fld (q 1) 30 2 != 0 || fld (q 1) 40 24 != 0 || q 2 != 0 || q 3 != 0 || 5 < t.fmt ||
      Nat.log2 (max t.w t.h) < t.lm then none
  else some t

def Tex.lw (t : Tex) (l : Nat) : Nat := max 1 (t.w / 2 ^ l)
def Tex.lh (t : Tex) (l : Nat) : Nat := max 1 (t.h / 2 ^ l)
def Tex.bpt (t : Tex) : Nat := [4, 8, 16, 4, 4, 1].getD t.fmt 4

/-- The address of a level. -/
def Tex.level (t : Tex) : Nat → DWord
  | 0 => t.base
  | l + 1 => .ofNat 64 (((Tex.level t l).toNat + t.lw l * t.lh l * t.bpt + 255) / 256 * 256)

def Tex.texel (t : Tex) (l i j : Nat) : DWord := t.level l + .ofNat 64 ((j * t.lw l + i) * t.bpt)

/-- The denominator of a format's channels: 255 for unorm. -/
def Tex.den (t : Tex) : Nat := if t.fmt = 0 || t.fmt = 5 then 255 else 1

/-- The channels of a texel, as multiples of 1 / den. -/
def Tex.channels (t : Tex) (bs : List Byte) : List FVal :=
  let byte (k : Nat) : FVal := intVal ((bs.getD k 0).toNat : Int)
  let half (k : Nat) : FVal := fHF.val (leVal ((bs.drop (2 * k)).take 2))
  let full (k : Nat) : FVal := f32.val (wordAt bs (4 * k))
  let one := intVal (t.den : Int)
  match t.fmt with
  | 0 => [byte 0, byte 1, byte 2, byte 3]
  | 1 => [half 0, half 1, half 2, half 3]
  | 2 => [full 0, full 1, full 2, full 3]
  | 3 => [full 0, intVal 0, intVal 0, one]
  | 4 => [half 0, half 1, intVal 0, one]
  | _ => [byte 0, intVal 0, intVal 0, one]

/-- A coordinate as R354 takes it. -/
def texCoord (u : Word) : FVal :=
  match f32.val u.toNat with
  | .nan _ => .fin false 0 0
  | .inf n => .fin n 1 30
  | v => if rLt 0x4E800000 u.toNat then .fin false 1 30 else if rLt u.toNat 0xCE800000 then .fin true 1 30 else v

/-- The addressed index of a texel (R354). -/
def texIndex (adr : BitVec 2) (w : Nat) (i : Int) : Nat :=
  match adr.toNat with
  | 0 => (i % (w : Int)).toNat
  | 1 => (min (max i 0) ((w : Int) - 1)).toNat
  | _ =>
    let k := (i % (2 * (w : Int))).toNat
    if k < w then k else 2 * w - 1 - k

/-- Texels and weights of one axis at one level: the weights are of 256. -/
def texAxis (flt adr : BitVec 2) (u : Word) (w : Nat) : List (Nat × Nat) :=
  if flt = 0 then [(texIndex adr w (floorMul (texCoord u) w), 256)]
  else
    let xs := floorMul (texCoord u) (256 * (w : Int)) - 128
    let i := xs / 256
    let f := (xs % 256).toNat
    [(texIndex adr w i, 256 - f), (texIndex adr w (i + 1), f)]

/-- Texels of a level with their weights of 2^16 times a factor. -/
def texLevel (t : Tex) (flt adr : BitVec 2) (u v : Word) (l factor : Nat) : List (DWord × Nat) :=
  (((texAxis flt adr v (t.lh l)).map fun y =>
    (texAxis flt adr u (t.lw l)).map fun x => (t.texel l x.1 y.1, x.2 * y.2 * factor)).flatten).filter fun p => p.2 != 0

/-- The texels a sample reads, with weights that sum to 2^16, or to 2^24 for trilinear filtering (R353). -/
def texTaps (t : Tex) (flt adr : BitVec 2) (u v : Word) (lam : Nat) : List (DWord × Nat) :=
  if flt = 2 then
    texLevel t flt adr u v (lam / 256) (256 - lam % 256) ++
      texLevel t flt adr u v (min (lam / 256 + 1) t.lm) (lam % 256)
  else texLevel t flt adr u v ((lam + 128) / 256) 1

/-- One channel of a sample, rounded once. -/
def texChannel (den sh : Nat) (l : List (Nat × FVal)) : Word :=
  let acc := l.foldl (fun a p => Acc.mulAdd a (intVal (p.1 : Int)) p.2) Acc.zero
  match (acc.val .rne).1 with
  | .nan _ => 0x7FC00000#32
  | .inf n => .ofNat 32 (f32.sign n + f32.inf)
  | .fin n m e =>
    if m = 0 then .ofNat 32 (f32.sign n)
    else
      let q := quot m e den (sh : Int)
      .ofNat 32 (f32.rnd .rne false n q.1 q.2).1

/-- floor(128 * log2 m), clamped to 0 through the top (R353); none for a NaN. -/
def lodOf (m top : Nat) : Option Nat :=
  match f32.val m with
  | .nan _ => none
  | .inf n => some (if n then 0 else top)
  | .fin n k e =>
    if n || k = 0 then some 0
    else some (min (((Nat.log2 (k ^ 128) : Nat) : Int) + 128 * e).toNat top)

/-- The explicit level of detail. -/
def lodExplicit (l : Word) (top : Nat) : Nat :=
  match f32.val l.toNat with
  | .nan _ => 0
  | .inf n => if n then 0 else top
  | v => min (floorMul v 256).toNat top

end Sys2Proof.Machine
end

