-- ==== Sys2Proof/Machine/FixedFn.lean ====
section
/-! DEFINITION. VISQ, TRACE, TRACEC, TSAMP and TSIZE: their issue, the reads their requests make, and the event
that performs a request (R332 to R336, R341, R346 to R350, R353 to R356). -/

namespace Sys2Proof.Machine

/-! ## Reads of a request (R333) -/

inductive FRes where
  | ok (bs : List Byte)
  | wait
  | fail (sub : Nat) (va : DWord)
  | bad (va : DWord)
  deriving DecidableEq, Repr

/-- What a request remembers of a line that was not there at once: numbered 64 and up among its lanes. -/
def State.noteLine (s : State) (c id : Nat) (va : DWord) (st : AccSt) (flt : Option Nat) : State :=
  s.onOp c id fun o =>
    match o.lanes.find? fun l => 64 ≤ l.lane && l.addr == va with
    | some k => { o with lanes := o.lanes.map fun l => if l.lane = k.lane then { k with st := st, flt := flt } else l }
    | none => { o with lanes := o.lanes ++ [⟨64 + o.lanes.length, va, [], 0, st, flt⟩] }

/-- One 64-byte line, through the L1 of the issuing core. -/
def State.ffLine (s : State) (c id : Nat) (va : DWord) : FRes × State :=
  match (s.course c).op? id with
  | none => (.wait, s)
  | some o =>
    let e := o.lanes.find? fun l => 64 ≤ l.lane && l.addr == va
    let lane := match e with | some l => l.lane | none => 64 + o.lanes.length
    match (match e with | some l => l.st | none => AccSt.pending) with
    | .done => (.ok ((match e with | some l => l.data.map (bytesOf 4) | none => []).flatten), s)
    | .failed => (.fail 0 va, s)
    | .sent => (.wait, s)
    | .pending =>
      if inAperture va then (.fail 0 va, s)
      else
        let p := s.placeVa c va .read (e.bind (·.flt))
        match p.1 with
        | .mem pa cached =>
          if p.2.lineBad (s.course c).coreKey pa then (.bad va, p.2)
          else if cached then
            let r := p.2.l1Load (s.course c).coreKey pa 64 false false
            (.ok r.1, r.2)
          else (.ok (p.2.readPa pa 64), (p.2.lineReq (s.course c).info.die pa).dieUse false pa 64)
        | .mmio off => (.ok (p.2.mmioRead off 64), p.2)
        | .host pa => (.wait, (p.2.noteLine c id va .sent none).pcieSend pa 0 64 [] c id lane true)
        | .fabric pa => (.wait, (p.2.noteLine c id va .sent none).fabSend pa 0 0 64 [] c id lane)
        | .wait u => (.wait, p.2.noteLine c id va .pending (some u))
        | .fail n => (.fail n va, p.2)
        | .scratch _ => (.fail 0 va, p.2)

/-- n bytes from an address on. -/
def State.ffRead (s : State) (c id : Nat) (va : DWord) (n : Nat) : FRes × State :=
  let first := va.toNat / 64
  let r := (List.range ((va.toNat + n + 63) / 64 - first)).foldl (fun (acc : FRes × State) k =>
    match acc.1 with
    | .ok bs =>
      let l := acc.2.ffLine c id (.ofNat 64 (64 * (first + k)))
      (match l.1 with
       | .ok more => (.ok (bs ++ more), l.2)
       | x => (x, l.2))
    | _ => acc) (.ok [], s)
  match r.1 with
  | .ok bs => (.ok ((bs.drop (va.toNat % 64)).take n), r.2)
  | x => (x, r.2)

/-! ## Ray traversal (R346, R347) -/

/-- The candidates found so far; whether a node was bad; a read that stopped the query. -/
structure Trav where
  cands : List Cand
  bad : Bool
  stop : Option FRes
  deriving DecidableEq, Repr

def Trav.over (t : Trav) : Bool := t.bad || t.stop.isSome

/-- The triangles of a leaf. -/
def State.visitLeaf (s : State) (c id : Nat) (r : Ray) (flags : BitVec 3) (p : DWord) (t : Trav) : Trav × State :=
  let n := p.toNat % 64 + 1
  let d := s.ffRead c id (.ofNat 64 (p.toNat / 64 * 64)) (64 * n)
  match d.1 with
  | .ok bs =>
    ({ t with cands := t.cands ++ (List.range n).filterMap fun k => testTriangle r flags ((bs.drop (64 * k)).take 64) }, d.2)
  | x => ({ t with stop := some x }, d.2)

/-- A node and what lies below it, to a depth. Children whose box the segment meets are visited; whether others are,
is free. -/
def State.visitNode (c id : Nat) (r : Ray) (flags : BitVec 3) : Nat → DWord → Trav × State → Trav × State
  | 0, _, a => ({ a.1 with bad := true }, a.2)
  | n + 1, p, a =>
    if p.toNat % 128 != 0 then ({ a.1 with bad := true }, a.2)
    else
      let d := a.2.ffRead c id p 128
      match d.1 with
      | .ok node =>
        if nodeBad node then ({ a.1 with bad := true }, d.2)
        else (List.range 8).foldl (fun (a : Trav × State) k =>
          if a.1.over || childEmpty node k then a
          else
            let go := if segmentMeets node k r = some true then (1, a.2) else a.2.choose 2
            if go.1 = 0 then (a.1, go.2)
            else if (node.getD 15 0).getLsbD k then go.2.visitLeaf c id r flags (childPtr node k) a.1
            else State.visitNode c id r flags n (childPtr node k) (a.1, go.2)) (a.1, d.2)
      | x => ({ a.1 with stop := some x }, d.2)

/-- What a lane of a request receives, or what keeps it from it. -/
inductive LRes where
  | words (ws : List Word)
  | wait
  | fail (sub : Nat) (va : DWord)
  | bad (va : DWord)
  deriving DecidableEq, Repr

def FRes.lane : FRes → LRes
  | .ok _ => .wait
  | .wait => .wait
  | .fail n va => .fail n va
  | .bad va => .bad va

/-- The end of a query: the nearest candidate, or for a first hit any one found, which may come before a bad node is
met. -/
def State.queryEnd (s : State) (flags : BitVec 3) (t : Trav) : LRes × State :=
  match t.stop with
  | some x => (x.lane, s)
  | none =>
    let l := eligibleHits flags t.cands
    if t.bad && !(flags.getLsbD 0 && !l.isEmpty) then (.words (statusWords 4), s)
    else
      let n := l.length + (if t.bad then 1 else 0)
      let k := s.choose n
      match l[k.1]? with
      | some c => (.words (hitWords c), k.2)
      | none => (.words (statusWords (if t.bad then 4 else 1)), k.2)

/-- A query of one lane. -/
def State.traceLane (s : State) (c : Nat) (o : MemOp) (flags : BitVec 3) (i : Nat) : LRes × State :=
  let r := Ray.ofWords (o.opnds.map fun l => l.getD i 0)
  if r.void then (.words (statusWords 1), s)
  else
    let t := State.visitNode c o.id r flags 64 o.base (⟨[], false, none⟩, s)
    t.2.queryEnd flags t.1

/-! ## Textures -/

/-- Every texel of a list of taps. -/
def State.readTaps (s : State) (c id : Nat) (t : Tex) (l : List (DWord × Nat)) :
    Except FRes (List (Nat × List FVal)) × State :=
  l.foldl (fun (acc : Except FRes (List (Nat × List FVal)) × State) p =>
    match acc.1 with
    | .error _ => acc
    | .ok xs =>
      let r := acc.2.ffRead c id p.1 t.bpt
      (match r.1 with
       | .ok bs => (.ok (xs ++ [(p.2, t.channels bs)]), r.2)
       | x => (.error x, r.2))) (.ok [], s)

/-- The level of detail of a lane (R353); a NaN under the logarithm leaves it open. -/
def State.lodLane (s : State) (o : MemOp) (lod : Bool) (t : Tex) (i : Nat) : Nat × State :=
  let top := 256 * t.lm
  let x (k j : Nat) : Nat := ((o.opnds.getD k []).getD j 0).toNat
  if lod then (lodExplicit (.ofNat 32 (x 2 i)) top, s)
  else
    let q := i / 4 * 4
    if !(Mask.has o.act q && Mask.has o.act (q + 1) && Mask.has o.act (q + 2)) then (0, s)
    else
      let w := rInt t.w
      let h := rInt t.h
      let sq (j : Nat) : Nat :=
        let u := rMul (rSub (x 0 j) (x 0 q)) w
        let v := rMul (rSub (x 1 j) (x 1 q)) h
        rAdd (rMul u u) (rMul v v)
      let px := sq (q + 1)
      let py := sq (q + 2)
      if (f32.val px).isNan || (f32.val py).isNan then s.choose (top + 1)
      else ((lodOf (if rLt px py then py else px) top).getD 0, s)

/-- One sample (R354, R355). -/
def State.sampleLane (s : State) (c : Nat) (o : MemOp) (flt adr : BitVec 2) (lod : Bool) (i : Nat) : LRes × State :=
  let d := s.ffRead c o.id o.base 32
  match d.1 with
  | .ok bs =>
    match Tex.ofBytes bs with
    | none => (.words (List.replicate 4 0x7FC00000#32), d.2)
    | some t =>
      let l := d.2.lodLane o lod t i
      let x (k : Nat) : Word := (o.opnds.getD k []).getD i 0
      let r := l.2.readTaps c o.id t (texTaps t flt adr (x 0) (x 1) l.1)
      match r.1 with
      | .error e => (e.lane, r.2)
      | .ok taps =>
        (.words ((List.range 4).map fun k =>
          texChannel t.den (if flt = 2 then 24 else 16) (taps.map fun p => (p.1, p.2.getD k (intVal 0)))), r.2)
  | x => (x.lane, d.2)

def State.sizeLane (s : State) (c : Nat) (o : MemOp) (l : Nat) : LRes × State :=
  let d := s.ffRead c o.id o.base 32
  match d.1 with
  | .ok bs =>
    match Tex.ofBytes bs with
    | none => (.words [0, 0], d.2)
    | some t => (.words (if t.lm < l then [0, 0] else [.ofNat 32 (t.lw l), .ofNat 32 (t.lh l)]), d.2)
  | x => (x.lane, d.2)

/-- The words of a lane of a VISQ from its batch. -/
def MemOp.visqWords (o : MemOp) (n : Nat) (bs : List Byte) (i : Nat) : List Word :=
  visLane ((o.opnds.getD 0 []).getD (Mask.first o.act) 0) bs n i

/-! ## Performing a request (R335) -/

/-- Whether the intersection unit of a core's cluster has failed (R494). -/
def State.unitDown (s : State) (x : Course) : Bool := (s.die x.info.die).failed.contains (1, x.info.core / 4)

def State.fixedLane (s : State) (c : Nat) (o : MemOp) (l : LaneAcc) : LRes × State :=
  match o.kind with
  | .trace f =>
    if l.cmp != 0 then (.words (statusWords l.cmp.toNat), s)
    else if s.unitDown (s.course c) then (.fail 2 o.base, s) else s.traceLane c o f l.lane
  | .tsamp flt adr lod => s.sampleLane c o flt adr lod l.lane
  | .tsize n => s.sizeLane c o n
  | _ => (.wait, s)

/-- What a lane of a request has received. -/
def State.giveLane (s : State) (c id : Nat) (l : LaneAcc) : LRes → State
  | .words ws => s.putLane c id (l.ok ws)
  | .wait => s
  | .fail n va => (s.laneFail c id { l with addr := va } n).putLane c id l.fail
  | .bad va => (s.laneBad c id { l with addr := va } 0).putLane c id l.fail

/-- One lane of a request, as far as it comes. -/
def State.fixedStep (s : State) (c id : Nat) (l : LaneAcc) : State :=
  match (s.course c).op? id with
  | none => s
  | some o => let r := s.fixedLane c o l; r.2.giveLane c id l r.1

/-- The batch of a VISQ is read once for all its lanes (R341). -/
def State.visqBatch (s : State) (c : Nat) (o : MemOp) (n : Nat) (ls : List LaneAcc) : State :=
  if ls.isEmpty then s
  else if s.unitDown (s.course c) then ls.foldl (fun s l => s.giveLane c o.id l (.fail 2 o.base)) s
  else
    let d := s.ffRead c o.id o.base (64 * (n + 1))
    ls.foldl (fun s l => s.giveLane c o.id l (match d.1 with
      | .ok bs => .words (o.visqWords n bs l.lane)
      | x => x.lane)) d.2

/-- The writes of a request that has failed as a whole never come: its registers are left unwritten (R341). -/
def State.withdrawDests (s : State) (c id n : Nat) : State :=
  (List.range n).foldl (fun s j => s.withdraw c (id + 1 + j)) s

/-- The results of a request all of whose lanes are over. -/
def State.settleFixed (s : State) (c id : Nat) : State :=
  match (s.course c).op? id with
  | none => s
  | some o =>
    let p : MemOp := { o with lanes := o.lanes.filter fun l => l.lane < 64 }
    if !(p.lanes.all LaneAcc.over) then s
    else
      let n := match p.kind with | .tsize _ => 2 | _ => 4
      let none_ := (match p.kind with | .visq _ => true | _ => false) && p.okMask == 0
      (if none_ then s.withdrawDests c id n else s.writeDest c p n .und (p.words (s.course c).w)).closeOp c p

def execFixedFunctionRequestPerformed (course op : Nat) (st : State) : Host.Outcome State Fault Refusal :=
  .next (match (st.course course).op? op with
    | none => st
    | some o =>
      if !(o.fixedFn && st.mayPerform (st.course course) o) then st
      else
        let ls := o.lanes.filter fun l => l.open_ && l.lane < 64
        (match o.kind with
          | .visq n => st.visqBatch course o n ls
          | _ => ls.foldl (fun s l => s.fixedStep course op l) st).settleFixed course op)

/-! ## Issue (R341, R348, R349, R355, R356) -/

/-- The record of a request; cmp holds the status of a lane that sends no query. -/
def Issue.request (i : Issue) (ins : Instr) (kind : OpKind) (r : SReg) (cmp : Nat → Word) : MemOp :=
  { i.newOp ins kind 0 with
    lanes := (Mask.toList i.g2).map fun j => ⟨j, 0, [], cmp j, .pending, none⟩, base := i.src.s r.toNat,
    opnds := (i.reads ins).vals }

def execTrace (t : BitVec 7) (s : BitVec 5) (o : BitVec 7) (flags : BitVec 3) (st : State) :
    Host.Outcome State Fault Refusal :=
  gated (.trace t s o flags) st fun w =>
    w.memRow (.trace t s o flags) (w.iss.request (.trace t s o flags) (.trace flags) s fun _ => 0)

/-- A lane calls its hit routine (R349). -/
def Lane.callHit (l : Lane) (pc ofs : Word) : Lane :=
  { l with rays := (pc + 16) :: l.rays, depth := l.depth + 1, lpc := ofs }

def execTracec (t : BitVec 7) (s : BitVec 5) (o : BitVec 7) (flags : BitVec 3) (h : BitVec 4) (st : State) :
    Host.Outcome State Fault Refusal :=
  gated (.tracec t s o flags h) st fun w =>
    let ins : Instr := .tracec t s o flags h
    let status (j : Nat) : Option Nat := w.iss.src.tracecStatus h j
    let called := Mask.ofPred w.iss.src.w fun j => Mask.has w.iss.g2 j && (status j).isNone
    let w1 := w.memRow ins (w.iss.request ins (.trace flags) s fun j => .ofNat 32 ((status j).getD 0))
    let w2 := w1.writeReg w.iss.course 63 called (List.replicate w.iss.src.w (w.iss.pc + 16)) .uw 0
      (w.clkOf w.iss.course + 2)
    w2.onCourse w.iss.course fun x => x.onLanes called fun _ l =>
      l.callHit w.iss.pc ((w.iss.src.s (16 + h.toNat)).setWidth 32)

def execVisq (t : BitVec 7) (s : BitVec 5) (o : BitVec 7) (uo : Bool) (n : BitVec 5) (st : State) :
    Host.Outcome State Fault Refusal :=
  gated (.visq t s o uo n) st fun w =>
    w.memRow (.visq t s o uo n) (w.iss.request (.visq t s o uo n) (.visq (n.toNat + 1)) s fun _ => 0)

def execTsamp (t : BitVec 7) (s : BitVec 5) (o : BitVec 7) (flt adr : BitVec 2) (lod : Bool) (st : State) :
    Host.Outcome State Fault Refusal :=
  gated (.tsamp t s o flt adr lod) st fun w =>
    w.memRow (.tsamp t s o flt adr lod) (w.iss.request (.tsamp t s o flt adr lod) (.tsamp flt adr lod) s fun _ => 0)

def execTsize (t : BitVec 7) (s : BitVec 5) (l : BitVec 4) (st : State) : Host.Outcome State Fault Refusal :=
  gated (.tsize t s l) st fun w =>
    w.memRow (.tsize t s l) (w.iss.request (.tsize t s l) (.tsize l.toNat) s fun _ => 0)

end Sys2Proof.Machine
end

