-- ==== Sys2Proof/Machine/MatrixUnit.lean ====
section
/-! DEFINITION. The matrix engine's data: operand layout, the contribution of a k-block, tiles and their eviction,
the checks of a command, and the order of commands (R84 to R89, R283 to R291, R300 to R304). -/

namespace Sys2Proof.Machine

/-! ## Formats (R290, R295) -/

/-- Bits of an element of A and of B, and the k-block. -/
def mmaTags (fmt : Nat) : Tag × Tag :=
  match fmt with
  | 0 => (.e43, .e43)
  | 1 => (.e43, .e52)
  | 2 => (.e52, .e43)
  | 3 => (.e52, .e52)
  | 4 => (.e21, .e21)
  | 5 => (.e21, .e43)
  | 6 => (.e43, .e21)
  | 7 => (.e43, .e43)
  | _ => (.bf2, .bf2)

def kBlock (fmt : Nat) : Nat := if fmt = 7 then 128 else if fmt = 8 then 8 else 32

/-- Bytes of n elements. -/
def elemBytes (t : Tag) (n : Nat) : Nat := n * Tag.width t / 8

/-- Bytes of an operand region, scales included; wide-scale B has one scale for each block of rows. -/
def regionSize (t : Tag) (fmt w k : Nat) (isB : Bool) : Nat :=
  elemBytes t (w * k) +
    (if fmt ≤ 6 then w * (k / 32) else if fmt = 7 then (if isB then k / 32 else w * (k / 32)) else 0)

/-- The pattern of the element with an index in an operand's data. -/
def elemAt (m : BlockMem) (t : Tag) (base idx : Nat) : Nat :=
  match Tag.width t with
  | 4 => ((m.read (base + idx / 2) 1).headD 0).toNat / 16 ^ (idx % 2) % 16
  | 8 => ((m.read (base + idx) 1).headD 0).toNat
  | _ => leVal (m.read (base + 2 * idx) 2)

/-! ## Contributions of a k-block (R84 to R88) -/

/-- The bits of a value rounded to F32. -/
def rne32 (v : FVal) : Nat :=
  match v with
  | .nan _ => f32.nan
  | .inf n => f32.sign n + f32.inf
  | .fin n m e => if m = 0 then f32.sign n else (f32.rnd .rne false n m e).1

/-- The value times a power of two. -/
def scaleVal (v : FVal) (e : Int) : FVal :=
  match v with
  | .fin n m x => .fin n m (x + e)
  | x => x

/-- MX: the exact sum scaled and added to the accumulator with one rounding. -/
def mxStep (acc : Nat) (sa sb : Nat) (xs : List (FVal × FVal)) : Nat :=
  if sa = 255 || sb = 255 then f32.nan
  else
    let sc : Int := (sa : Int) + sb - 254
    let a := xs.foldl (fun a p => a.addV (scaleVal (mulExact p.1 p.2).1 sc)) (Acc.zero.addV (f32.val acc))
    rne32 (a.val .rne).1

/-- Wide-scale FP8: three roundings. -/
def wideStep (acc sa sb : Nat) (xs : List (FVal × FVal)) : Nat :=
  let p := rne32 ((xs.foldl (fun a x => Acc.mulAdd a x.1 x.2) Acc.zero).val .rne).1
  rAdd acc (rMul p (rMul sa sb))

/-- BF16: products in F32, summed by the fixed tree. -/
def bfStep (acc : Nat) (xs : List (FVal × FVal)) : Nat :=
  let p (k : Nat) : Nat := match xs[k]? with
    | some x => (f32.mulV .rne false x.1 x.2).1
    | none => 0
  let t (k : Nat) : Nat := rAdd (p (2 * k)) (p (2 * k + 1))
  rAdd acc (rAdd (rAdd (t 0) (t 1)) (rAdd (t 2) (t 3)))

/-- Element (i, n) after k-block q of an MMA (R297). -/
def applyElem (m : BlockMem) (w : Nat) (g : MmaArgs) (q i n acc : Nat) : Nat :=
  let k := g.k.toNat
  let kb := kBlock g.fmt
  let tg := mmaTags g.fmt
  let a := g.a.toNat
  let b := g.b.toNat
  let xs := (List.range kb).map fun j =>
    (srcVal tg.1 (elemAt m tg.1 a (i * k + q * kb + j)), srcVal tg.2 (elemAt m tg.2 b (n * k + q * kb + j)))
  let da := a + elemBytes tg.1 (w * k)
  let db := b + elemBytes tg.2 (w * k)
  if g.fmt ≤ 6 then
    mxStep acc ((m.read (da + i * (k / 32) + q) 1).headD 0).toNat ((m.read (db + n * (k / 32) + q) 1).headD 0).toNat xs
  else if g.fmt = 7 then wideStep acc (leVal (m.read (da + 4 * (i * (k / 128) + q)) 4)) (leVal (m.read (db + 4 * q) 4)) xs
  else bfStep acc xs

/-- A tile after a k-block; a tile that lists nothing holds +0. -/
def applyBlock (m : BlockMem) (w : Nat) (g : MmaArgs) (q : Nat) (tile : List Word) : List Word :=
  (List.range (w * w)).map fun p => .ofNat 32 (applyElem m w g q (p / w) (p % w) (tile.getD p 0).toNat)

/-! ## Checks (R291, R301) -/

/-- The slots that n bytes from an offset touch. -/
def slotsFrom (tower : Bool) (off n : Nat) : List Nat :=
  let sz := Config.slotBytes tower
  if n = 0 then [] else (List.range ((off + n - 1) / sz - off / sz + 1)).map fun i => off / sz + i

/-- Whether bytes from an offset lie in the allocation. -/
def BlockMem.holdsRange (m : BlockMem) (tower : Bool) (off n : Nat) : Bool :=
  (slotsFrom tower off n).all fun k => inAlloc tower m.n (k * Config.slotBytes tower)

def BlockMem.allEngine (m : BlockMem) (tower : Bool) (off n : Nat) : Bool :=
  (slotsFrom tower off n).all fun k => m.engineOwned (slotIndex tower (k * Config.slotBytes tower))

/-- The status with which an MMA fails, none when it may run. -/
def mmaStatus (m : BlockMem) (tower : Bool) (g : MmaArgs) : Option Nat :=
  let w := Config.lanes tower
  let k := g.k.toNat
  let tg := mmaTags g.fmt
  let na := regionSize tg.1 g.fmt w k false
  let nb := regionSize tg.2 g.fmt w k true
  let inside (o : DWord) (n : Nat) : Bool :=
    m.holdsRange tower o.toNat n && bankGroup tower o == bankGroup tower (o + .ofNat 64 (n - 1))
  if k = 0 || k % kBlock g.fmt != 0 || 8192 < k then some 3
  else if !(inside g.a na && inside g.b nb) then some 2
  else if !(m.allEngine tower g.a.toNat na && m.allEngine tower g.b.toNat nb) then some 1
  else none

/-- The scratchpad ranges of a command. -/
def MCmd.ranges (m : MCmd) (w : Nat) : List (Nat × Nat) :=
  let tg := mmaTags m.args.fmt
  match m.kind with
  | .mma => [(m.args.a.toNat, regionSize tg.1 m.args.fmt w m.args.k.toNat false),
             (m.args.b.toNat, regionSize tg.2 m.args.fmt w m.args.k.toNat true)]
  | .mdst => if m.toMem then [] else
      (List.range w).map fun r => ((m.args.a + .ofNat 64 r * m.stride).toNat, w * mdstSize (.ofNat 2 m.cvt))
  | _ => []

/-! ## Order (R288, R292) -/

def MCmd.sameTile (a b : MCmd) : Bool := a.block == b.block && a.tile == b.tile

/-- Whether an earlier command's bytes hold a later one back. -/
def MCmd.clash (a b : MCmd) (w : Nat) : Bool :=
  a.block == b.block && (a.kind == .mdst || b.kind == .mdst) &&
    (a.ranges w).any fun x => (b.ranges w).any (meets x)

/-- The received commands before one. -/
def Core.earlier (c : Core) (id : Nat) : List MCmd := c.mq.takeWhile fun m => m.id != id

/-- Whether a command may be performed: its tile's earlier commands are over, but for an MMA those of its own chain;
across tiles, a command waits for the bytes of those received before it. -/
def Core.cmdReady (c : Core) (m : MCmd) (w : Nat) : Bool :=
  m.staged.isNone &&
  !((c.earlier m.id).any fun e => e.sameTile m && !(m.kind == .mma && e.kind == .mma)) &&
  !(c.mq.any fun e => e.staged.isNone && !e.sameTile m && decide (e.seq < m.seq) && e.clash m w) &&
  !(c.mq.any fun e => e.tile == m.tile && e.block != m.block && e.started)

/-- The MMAs of the chain that m belongs to, in the order received. -/
def Core.chainOf (c : Core) (m : MCmd) : List MCmd :=
  ((c.mq.filter fun e => e.sameTile m).takeWhile fun e => e.kind == .mma).filter fun e => e.staged.isNone

def State.cmd? (s : State) (k : Nat × Nat) (id : Nat) : Option MCmd := (s.core k).mq.find? fun m => m.id == id

def State.onCmd (s : State) (k : Nat × Nat) (id : Nat) (f : MCmd → MCmd) : State :=
  s.onCore k fun c => { c with mq := c.mq.map fun m => if m.id = id then f m else m }

def State.dropCmd (s : State) (k : Nat × Nat) (id : Nat) : State :=
  s.onCore k fun c => { c with mq := c.mq.filter fun m => m.id != id }

/-! ## Tiles (R283 to R285) -/

/-- The tile area of a block: in the context area of its course with the lowest number (R285). -/
def State.tileArea (s : State) (b : Block) (k : Nat) : Option DWord :=
  let w := Config.lanes (Config.isTower b.die)
  match b.courses.head? with
  | none => none
  | some c => some ((s.course c).info.ctxa + (if Config.isTower b.die then 0x8000 else 0x4000) + .ofNat 64 (k * 4 * w * w))

def State.onTile (s : State) (blk tile : Nat) (f : List Word → List Word) : State :=
  s.onBlockMem blk fun m => { m with tiles := modAt tile f m.tiles }

/-- The course whose context area holds the tile area of a block, and the bytes of one tile there. -/
def Block.areaCourse (b : Block) : Nat := b.courses.headD 0
def tileBytes (die : Nat) : Nat := 4 * Config.lanes (Config.isTower die) * Config.lanes (Config.isTower die)

/-- An access of the hardware to a tile area: whether it may go on; a fault that management fails ends the block (R533). -/
def State.tileReach (s : State) (b : Block) (va : DWord) (n : Nat) (use : Use) : Bool × State :=
  let r := s.areaReach b.areaCourse va n use
  match r.1 with
  | some go => (go, r.2)
  | none => (false, r.2.areaFault b.areaCourse)

/-- The staging registers of a block's courses go to the last 1 KiB of its tile area, in a form that is the hardware's own
(R285, R303; log entry 4). -/
def State.saveStaging (s : State) (b : Block) (va : DWord) : Bool × State :=
  if b.courses.all fun c => (s.course c).staging.isNone then (true, s)
  else
    let r := s.tileReach b va 1024 .write
    if !r.1 then r
    else
      let ws := (List.range 256).map fun i => bytesOf 4 (Config.freeWord (r.2.fv + i))
      (true, ({ r.2 with fv := r.2.fv + 256 }.areaReqs b.die b.ctx [(va, 1024)]).putBytes b.ctx va ws.flatten)

/-- A tile is written to its area (R284). -/
def State.evictTile (s : State) (y tile : Nat) : Bool × State :=
  match s.block? y with
  | none => (true, s)
  | some b => match s.tileArea b tile with
    | none => (true, s)
    | some va =>
      let r := s.tileReach b va (tileBytes b.die) .write
      if !r.1 then r
      else
        let t := b.mem.tiles.getD tile []
        let s1 := (r.2.areaReqs b.die b.ctx [(va, tileBytes b.die)]).putBytes b.ctx va (((List.range (tileBytes b.die / 4)).map fun i => bytesOf 4 (t.getD i 0)).flatten)
        let q := s1.saveStaging b (va + .ofNat 64 ((4 - tile) * tileBytes b.die))
        (q.1, q.2.onBlockMem y fun m => { m with evicted := if m.evicted.contains tile then m.evicted else m.evicted ++ [tile] })

/-- A tile that lies in its area comes back; one that was never evicted holds what it holds (R284). -/
def State.loadTile (s : State) (x tile : Nat) : Bool × State :=
  match s.block? x with
  | none => (true, s)
  | some b => match s.tileArea b tile with
    | none => (true, s)
    | some va =>
      if !b.mem.evicted.contains tile then (true, s)
      else
        let n := tileBytes b.die
        let r := s.tileReach b va n .read
        if !r.1 then r
        else
          let bs := r.2.getBytes b.ctx va n
          (true, (((r.2.areaReqs b.die b.ctx [(va, n)]).useBytes b.ctx va n).onTile x tile fun _ =>
            (List.range (n / 4)).map fun i => wordOf ((bs.drop (4 * i)).take 4)).onBlockMem x fun m =>
              { m with evicted := m.evicted.filter (· != tile) })

/-- Physical tile k is given to a block: another block's tile goes to its area first, and the block's own comes back from
its area (R284). The answer is false while a page fault of an area is served. -/
def State.takeTile (s : State) (k : Nat × Nat) (blk tile : Nat) : Bool × State :=
  let give (o : Option Nat) (s : State) : State := s.onCore k fun c => { c with phys := setAt tile o c.phys }
  let holder := (s.core k).phys.getD tile none
  if holder = some blk then (true, s)
  else
    let out := match holder with
      | none => (true, s)
      | some y => s.evictTile y tile
    if !out.1 then out
    else
      let back := (give none out.2).loadTile blk tile
      if !back.1 then back else (true, give (some blk) back.2)

/-- A command lets some of its slots go, and asks for the flip of some; a slot passes to threads when the last command that
holds it has let it go (R315). -/
def BlockMem.letSlots (m : BlockMem) (id : Nat) (slots flips : List Nat) : BlockMem :=
  let holds := m.holds.filter fun h => !(h.2 == id && slots.contains h.1)
  let all := unionLines m.flips (flips.map fun q => (q, id))
  let free (f : Nat × Nat) : Bool := !(holds.any fun h => h.1 == f.1)
  (all.filter free).foldl (fun m f => m.setOwner f.1 false)
    { m with holds := holds, flips := all.filter fun f => !free f }

/-- A command lets all of its slots go. -/
def BlockMem.letGo (m : BlockMem) (id : Nat) (flips : List Nat) : BlockMem :=
  m.letSlots id ((m.holds.filter fun h => h.2 == id).map (·.1)) flips

/-- Whether a flip that a command has asked for is still to come. -/
def BlockMem.flipDue (m : BlockMem) (id : Nat) : Bool := m.flips.any fun f => f.2 == id

def BlockMem.take (m : BlockMem) (id : Nat) (slots : List Nat) : BlockMem :=
  { m with holds := m.holds ++ slots.map fun q => (q, id) }

/-- The slot indices of scratchpad ranges. -/
def slotsOfRanges (tower : Bool) (l : List (Nat × Nat)) : List Nat :=
  ((l.map fun r => (slotsFrom tower r.1 r.2).map fun q => slotIndex tower (q * Config.slotBytes tower)).flatten).eraseDups

/-- Slots that an outstanding access touches in the scratchpad. -/
def MemOp.scratchSlots (o : MemOp) (tower : Bool) : List Nat :=
  (o.lanes.filter fun l => inAperture (o.va l) && !l.over).map fun l => slotIndex tower (apertureOff (o.va l)).toNat

/-- Whether the thread accesses that come before an engine's access to some slots have been performed: those to the slots,
and every earlier access of the course that handed a slot over (R238, R440). -/
def State.engineReady (s : State) (blk : Nat) (tower : Bool) (slots : List Nat) : Bool :=
  let cs := s.courses.filter fun c => c.2.info.block == blk
  !(cs.any fun c => c.2.ops.any fun o => common (o.scratchSlots tower) slots) &&
  !((s.blockMem blk).given.any fun g => slots.contains g.1 &&
    (s.course g.2.1).ops.any fun o => decide (o.id < g.2.2))

/-- A command is over: its counter decrements, and a failure is reported (R304). -/
def State.endCmd (s : State) (k : Nat × Nat) (m : MCmd) (status : Option Nat) : State :=
  let s1 := (s.dropCmd k m.id).onBlockMem m.block fun b => b.letGo m.id []
  let s2 := match status with
    | some st => s1.asyncErr m.course 1 m.tile st
    | none => s1
  if m.kind == .macl then s2 else s2.opDone m.course m.id

/-- Whether a tile that lies in its area is to be read from a line that has failed (R305, R455). -/
def State.tileBad (s : State) (blk tile : Nat) : Bool :=
  match s.block? blk with
  | none => false
  | some b => b.mem.evicted.contains tile && match s.tileArea b tile with
    | some va => s.areaBad b.ctx [(va, tileBytes b.die)]
    | none => false

/-- An uncorrectable error in an operand of a command, or in its tile: the command fails, the tile reads as NaN, the
registers of a MACL are not written, and its course takes HWE (R220, R305). -/
def State.cmdBad (s : State) (k : Nat × Nat) (m : MCmd) : State :=
  let w := Config.lanes (Config.isTower k.1)
  let s1 := (s.onTile m.block m.tile fun _ => List.replicate (w * w) 0x7FC00000#32).onBlockMem m.block fun b =>
    { b with evicted := b.evicted.filter (· != m.tile) }
  let s2 := m.flight.foldl (fun s f => s.withdraw m.course f) s1
  (s2.endCmd k m none).hwError m.course 4 0

/-- Whether a command of the engine may be performed now. -/
def State.canRun (s : State) (k : Nat × Nat) (m : MCmd) : Bool :=
  let tower := Config.isTower k.1
  (s.core k).cmdReady m (Config.lanes tower) &&
    s.engineReady m.block tower (slotsOfRanges tower (m.ranges (Config.lanes tower)))

/-- Whether a command reads operands or its tile now, and so can meet an error in them (R305). -/
def State.reading (s : State) (k : Nat × Nat) (m : MCmd) : Bool :=
  match m.kind with
  | .mma => m.started || s.canRun k m
  | .mdst | .macl => !m.started && s.canRun k m
  | _ => false

/-- An MMA enters the array: its checks are made, and all its k-blocks are to be applied. -/
def State.startMma (s : State) (k : Nat × Nat) (m : MCmd) : State :=
  if m.started || !s.canRun k m then s
  else match mmaStatus (s.blockMem m.block) (Config.isTower k.1) m.args with
    | some st => s.endCmd k m (some st)
    | none =>
      if s.tileBad m.block m.tile then s.cmdBad k m else
      let t := s.takeTile k m.block m.tile
      if !t.1 then t.2
      else
        (t.2.onBlockMem m.block fun b =>
          b.take m.id (slotsOfRanges (Config.isTower k.1) (m.ranges (Config.lanes (Config.isTower k.1))))).onCmd k m.id fun x =>
          { x with started := true, rest := List.range (m.args.k.toNat / kBlock m.args.fmt) }

/-- One k-block of an MMA is applied to the tile. -/
def State.applyMma (s : State) (k : Nat × Nat) (m : MCmd) (q : Nat) : State :=
  let w := Config.lanes (Config.isTower k.1)
  let mem := s.blockMem m.block
  let s1 := (s.onTile m.block m.tile (applyBlock mem w m.args q)).onCmd k m.id fun x => { x with rest := x.rest.erase q }
  if m.rest.erase q = [] then s1.endCmd k m none else s1

/-- Other MMAs of a chain enter the array, or not yet: each is a free choice (R89, log entry 11). -/
def State.startOthers (s : State) (k : Nat × Nat) (l : List MCmd) : State :=
  l.foldl (fun s e =>
    if e.started then s
    else
      let c := s.choose 2
      if c.1 = 0 then c.2 else c.2.startMma k e) s

/-- Applies k-blocks of a chain until an MMA is over: in ascending order when the chain is ordered, else in any, those of
the MMAs that are in the array together mixed (R89, R292). -/
def State.runMma (s : State) (k : Nat × Nat) (id : Nat) : Nat → State
  | 0 => s
  | n + 1 =>
    match s.cmd? k id with
    | none => s
    | some m =>
      if m.ord then
        match ((s.core k).chainOf m).head? with
        | none => s
        | some e =>
          if !e.started then State.runMma (s.startMma k e) k id n
          else match e.rest with
            | [] => s
            | q :: _ => State.runMma (s.applyMma k e q) k id n
      else if !m.started then State.runMma (s.startMma k m) k id n
      else
        let s1 := s.startOthers k ((s.core k).chainOf m)
        let opts := (((s1.core k).chainOf m).filter (·.started)).map fun e => e.rest.map fun q => (e, q)
        let c := s1.choose opts.flatten.length
        match opts.flatten[c.1]? with
        | none => c.2
        | some (e, q) => State.runMma (c.2.applyMma k e q) k id n

/-! ## Stores of a tile (R300 to R302) -/

/-- The bytes that an element becomes at its destination. -/
def mdstElem (op cvt : Nat) (old : List Byte) (x : Word) : List Byte :=
  match op with
  | 0 =>
    match cvt with
    | 0 => bytesOf 4 x
    | 1 => leBytes 2 (narrow fBF .rne false (f32.val x.toNat)).1
    | _ => leBytes 1 (narrow fE43 .rne false (f32.val x.toNat)).1
  | 1 => leBytes 4 (rAdd (leVal old) x.toNat)
  | _ => leBytes 4 (fminmax true true false (leVal old) x.toNat).1

/-- The bytes of row r after the store, old being the bytes that stand there. -/
def mdstRow (op cvt w : Nat) (tile : List Word) (r : Nat) (old : List Byte) : List Byte :=
  let s := mdstSize (.ofNat 2 cvt)
  ((List.range w).map fun n => mdstElem op cvt ((old.drop (s * n)).take s) (tile.getD (r * w + n) 0)).flatten

/-- The pieces of the rows that lie in one line each: row, address, place in the row, length. -/
def linePieces (base stride : DWord) (w size : Nat) : List (Nat × DWord × Nat × Nat) :=
  ((List.range w).map fun r =>
    let va := base + .ofNat 64 r * stride
    let n := w * size
    (List.range ((va.toNat % 64 + n + 63) / 64)).map fun j =>
      let lo := if j = 0 then 0 else 64 * j - va.toNat % 64
      let hi := min n (64 * (j + 1) - va.toNat % 64)
      (r, va + .ofNat 64 lo, lo, hi - lo)).flatten

end Sys2Proof.Machine
end

