-- ==== Sys2Proof/Machine/Matrix.lean ====
section
/-! DEFINITION. The matrix instructions of slot 3 and the events of the matrix engine (R287 to R304). -/

namespace Sys2Proof.Machine

/-! ## Issue -/

/-- A slot-3 command acts once when its guard is 1 in some member lane (R104). -/
def slot3 (ins : Instr) (s : State) (f : State → State) : Host.Outcome State Fault Refusal :=
  gated ins s fun s => if s.iss.g3 = 0 then s else f s

def MCmd.new (i : Issue) (kind : MKind) (tile : Nat) : MCmd :=
  { id := 0, seq := 0, kind := kind, block := i.src.info.block, course := i.course, tile := tile, args := ⟨tile, 0, 0, 0, 0⟩,
    ord := false, rest := [], started := false, staged := none, stride := 0, op := 0, cvt := 0, toMem := false, row := 0,
    dst := 0, mask := 0, flight := [], flt := none }

/-- A command joins the engine's queue, and counts on N3 unless it is MACL (R287). -/
def State.pushCmd (s : State) (m : MCmd) : State :=
  let u := s.fresh
  let s1 := u.2.onCore s.iss.src.coreKey fun k => { k with mq := k.mq ++ [{ m with id := u.1, seq := u.1 }] }
  if m.kind == .macl then s1 else s1.onCourse m.course fun x => x.count u.1 3

def State.setChain (s : State) (blk tile : Nat) (c : Chain) : State :=
  s.onBlockMem blk fun m => { m with chains := setAt tile c m.chains }

/-- Whether the open chain of a tile is promoted in ascending order. -/
def State.chainOrd (s : State) (blk tile : Nat) : Bool := ((s.blockMem blk).chains.getD tile ⟨false, false⟩).ord

def execMzero (m : Bool) (k : BitVec 2) (st : State) : Host.Outcome State Fault Refusal :=
  slot3 (.mzero m k) st fun s => s.pushCmd (MCmd.new s.iss .mzero k.toNat)

def execMchb (m ord : Bool) (k : BitVec 2) (st : State) : Host.Outcome State Fault Refusal :=
  slot3 (.mchb m ord k) st fun s => s.setChain s.iss.src.info.block k.toNat ⟨true, ord || s.iss.src.det⟩

def execMche (m : Bool) (k : BitVec 2) (st : State) : Host.Outcome State Fault Refusal :=
  slot3 (.mche m k) st fun s =>
    (s.pushCmd (MCmd.new s.iss .mche k.toNat)).setChain s.iss.src.info.block k.toNat ⟨false, false⟩

/-- The operands of MMA and MSTG as the bundle reads them (R297, R303). -/
def State.mmaArgs (s : State) (a b c : SReg) (fmt : BitVec 4) (k : BitVec 2) : MmaArgs :=
  ⟨k.toNat, s.sIn a, s.sIn b, s.sIn c, fmt.toNat⟩

/-- An MMA in the open chain of its tile. -/
def State.newMma (s : State) (g : MmaArgs) (staged : Option Nat) : MCmd :=
  { MCmd.new s.iss .mma g.tile with args := g, ord := s.chainOrd s.iss.src.info.block g.tile, staged := staged }

def execMma (m : Bool) (a b c : BitVec 5) (fmt : BitVec 4) (k : BitVec 2) (st : State) :
    Host.Outcome State Fault Refusal :=
  slot3 (.mma m a b c fmt k) st fun s => s.pushCmd (s.newMma (s.mmaArgs a b c fmt k) none)

def execMacl (m : Bool) (d : BitVec 7) (g : BitVec 4) (k : BitVec 2) (st : State) :
    Host.Outcome State Fault Refusal :=
  slot3 (.macl m d g k) st fun s =>
    let r := (List.range 4).foldl (fun (acc : List Nat × State) j =>
      let f := acc.2.addFlight s.iss.course (d.toNat + j) s.iss.g3 [] .f32 0 none
      (acc.1 ++ [f.1], f.2)) ([], s)
    r.2.pushCmd { MCmd.new s.iss .macl k.toNat with row := g.toNat, dst := d, mask := s.iss.g3, flight := r.1 }

def execMdst (m : Bool) (a b : BitVec 5) (mem : Bool) (cvt op : BitVec 2) (k : BitVec 2) (st : State) :
    Host.Outcome State Fault Refusal :=
  slot3 (.mdst m a b mem cvt op k) st fun s =>
    s.pushCmd { MCmd.new s.iss .mdst k.toNat with
      args := ⟨k.toNat, s.sIn a, 0, 0, 0⟩, stride := s.sIn b, op := op.toNat, cvt := cvt.toNat, toMem := mem }

def execMstg (m : Bool) (a b c : BitVec 5) (fmt : BitVec 4) (k : BitVec 2) (st : State) :
    Host.Outcome State Fault Refusal :=
  slot3 (.mstg m a b c fmt k) st fun s =>
    s.onCourse s.iss.course fun x => { x with staging := some (s.mmaArgs a b c fmt k) }

/-! ## Events -/

/-- The command of an event, when it is of the kind and may be performed. -/
def State.readyCmd (s : State) (k : Nat × Nat) (id : Nat) (kind : MKind) : Option MCmd :=
  match s.cmd? k id with
  | none => none
  | some m => if m.kind == kind && s.canRun k m then some m else none

def execMzeroComplete (die core k : Nat) (st : State) : Host.Outcome State Fault Refusal :=
  .next (match st.readyCmd (die, core) k .mzero with
    | none => st
    | some m =>
      let t := st.takeTile (die, core) m.block m.tile
      if t.1 then (t.2.onTile m.block m.tile fun _ => []).endCmd (die, core) m none else t.2)

def execMcheComplete (die core k : Nat) (st : State) : Host.Outcome State Fault Refusal :=
  .next (match st.readyCmd (die, core) k .mche with
    | none => st
    | some m => st.endCmd (die, core) m none)

def execMmaComplete (die core k : Nat) (st : State) : Host.Outcome State Fault Refusal :=
  .next (match st.readyCmd (die, core) k .mma with
    | none => st
    | some m => st.runMma (die, core) k (1100 * (((st.core (die, core)).chainOf m).length + 1)))

/-- The rows of MACL land (R298, R299). -/
def State.landRows (s : State) (k : Nat × Nat) (m : MCmd) : State :=
  if s.tileBad m.block m.tile then s.cmdBad k m else
  let w := Config.lanes (Config.isTower k.1)
  let t := s.takeTile k m.block m.tile
  let tile := (t.2.blockMem m.block).tiles.getD m.tile []
  let s1 := t.2.dropCmd k m.id
  if !t.1 then t.2
  else (List.range 4).foldl (fun s j =>
    s.landOp m.course (m.flight.getD j 0) m.mask
      ((List.range w).map fun i => tile.getD ((4 * m.row + j) * w + i) 0)) s1

def execMaclLanding (die core k : Nat) (st : State) : Host.Outcome State Fault Refusal :=
  .next (match st.readyCmd (die, core) k .macl with
    | none => st
    | some m => st.landRows (die, core) m)

/-- The results of MACL whose bound has come: in the ac after the commands before them are over. -/
def State.landMacls (s : State) (k : Nat × Nat) : State :=
  (s.core k).mq.foldl (fun s m => match s.readyCmd k m.id .macl with
    | some x => s.landRows k x
    | none => s) s

/-- Results of a core whose bound has come (R64, R299). -/
def State.landCore (s : State) (k : Nat × Nat) : State :=
  let clk := (s.core k).clk
  ((s.landMacls k).residents k).foldl (fun s c => s.landDue c.1 clk) (s.landMacls k)

/-- One ac of the cores of a row: results whose bound has come land (R64, R364). -/
def State.rowTick (s : State) (die row : Nat) : State :=
  (s.running die row).foldl (fun s c =>
    let k := (s.course c).coreKey
    (s.onCore k fun x => { x with clk := x.clk + 1 }).landCore k) s

/-! ## MDST (R300 to R302) -/

/-- An MDST to scratchpad is over once each slot that it has touched is thread-owned; one that another command still holds
passes over when that command lets it go (R301, R315). -/
def State.mdstFlips (s : State) (k : Nat × Nat) (m : MCmd) : State :=
  if (s.blockMem m.block).flipDue m.id then s.onCmd k m.id fun x => { x with started := true, rest := [] }
  else s.endCmd k m none

/-- MDST to scratchpad. -/
def State.mdstScratch (s : State) (k : Nat × Nat) (m : MCmd) : State :=
  let tower := Config.isTower k.1
  let w := Config.lanes tower
  let n := w * mdstSize (.ofNat 2 m.cvt)
  let row (r : Nat) : Nat := (m.args.a + .ofNat 64 r * m.stride).toNat
  let mem := s.blockMem m.block
  let t := s.takeTile k m.block m.tile
  if !((List.range w).all fun r => mem.holdsRange tower (row r) n) then s.endCmd k m (some 2)
  else if !((List.range w).all fun r => mem.allEngine tower (row r) n) then s.endCmd k m (some 1)
  else if s.tileBad m.block m.tile then s.cmdBad k m
  else if !t.1 then t.2
  else
    let tile := (t.2.blockMem m.block).tiles.getD m.tile []
    let s2 := t.2.onBlockMem m.block fun b =>
      (List.range w).foldl (fun b r => b.write (row r) (mdstRow m.op m.cvt w tile r (b.read (row r) n))) b
    (s2.onBlockMem m.block fun b => b.letGo m.id (slotsOfRanges tower (m.ranges w))).mdstFlips k m

/-- Where the pieces of an MDST go: every place, a page fault that is to be served, or a status. -/
def State.mdstPlaces (s : State) (m : MCmd) (ps : List (Nat × DWord × Nat × Nat)) :
    Except (Option Nat) (List Place) × State :=
  ps.foldl (fun (acc : Except (Option Nat) (List Place) × State) p =>
    match acc.1 with
    | .error _ => acc
    | .ok l =>
      if inAperture p.2.1 then (.error (some 5), acc.2)
      else
        let r := acc.2.placeVa m.course p.2.1 .write m.flt
        (match r.1 with
         | .wait u => (.error none, r.2.onCmd (r.2.course m.course).coreKey m.id fun x => { x with flt := some u })
         | .fail _ => (.error (some 5), r.2)
         | .mmio _ => (.error (some 5), r.2)
         | .host pa => if m.op = 0 then (.ok (l ++ [.host pa]), r.2) else (.error (some 6), r.2)
         | x => (.ok (l ++ [x]), r.2))) (.ok [], s)

/-- The bytes of one piece of a row, old being the bytes that stand there. -/
def MCmd.piece (m : MCmd) (w : Nat) (tile : List Word) (p : Nat × DWord × Nat × Nat) (old : List Byte) : List Byte :=
  let n := w * mdstSize (.ofNat 2 m.cvt)
  let pad : List Byte := List.replicate p.2.2.1 0 ++ old ++ List.replicate (n - p.2.2.1 - p.2.2.2) 0
  ((mdstRow m.op m.cvt w tile p.1 pad).drop p.2.2.1).take p.2.2.2

/-- The pieces that go to memory of the package, with their addresses, written at the homes of their lines as one update
(R302). -/
def State.mdstHome (s : State) (k : Nat × Nat) (m : MCmd) (tile : List Word)
    (ps : List (Nat × Nat × DWord × Nat × Nat)) : State :=
  let w := Config.lanes (Config.isTower k.1)
  let s1 := ps.foldl (fun s p => s.evictLine k (lineOf p.1)) s
  let s2 := if m.op = 0 then s1 else ps.foldl (fun s p => s.dieLine false false (lineOf p.1)) s1
  s2.engineWrite k (ps.map fun p => (p.1, m.piece w tile p.2 (s2.readPa p.1 p.2.2.2.2)))

/-- A piece of a row sent to the host or to another package. An update of another package's line is one request that
carries all of its words, and .max has an OP that R515 does not give (log entry 102). -/
def State.mdstSend (s : State) (k : Nat × Nat) (m : MCmd) (tile : List Word) (i : Nat) (p : Nat × DWord × Nat × Nat)
    (pl : Place) : State :=
  let w := Config.lanes (Config.isTower k.1)
  match pl with
  | .host pa => s.pcieSend pa 1 p.2.2.2 (m.piece w tile p []) m.course m.id i false
  | .fabric pa =>
    if m.op = 0 then s.fabSend pa 1 0 p.2.2.2 (m.piece w tile p []) m.course m.id i
    else
      let ws := (List.range (p.2.2.2 / 4)).map fun j => bytesOf 4 (tile.getD (p.1 * w + p.2.2.1 / 4 + j) 0)
      s.fabSend pa 2 (if m.op = 1 then 9 else Config.fabMaxOp) p.2.2.2 ws.flatten m.course m.id i
  | _ => s

/-- Whether some destination line of an update has failed (R305, R455). -/
def State.badPlaces (s : State) (k : Nat × Nat) (op : Nat) (l : List Place) : Bool :=
  op != 0 && l.any fun p => match p with
    | .mem pa _ => s.lineBad k pa
    | _ => false

/-- The responses that an MDST waits for: one for each piece that goes to another package. -/
def mdstWaits (l : List Place) : List Nat :=
  l.zipIdx.filterMap fun x => match x.1 with
    | .fabric _ => some x.2
    | _ => none

/-- MDST to memory. -/
def State.mdstMem (s : State) (k : Nat × Nat) (m : MCmd) : State :=
  let w := Config.lanes (Config.isTower k.1)
  let ps := linePieces m.args.a m.stride w (mdstSize (.ofNat 2 m.cvt))
  let r := s.mdstPlaces m ps
  match r.1 with
  | .error none => r.2
  | .error (some st) => r.2.endCmd k m (some st)
  | .ok l =>
    if r.2.badPlaces k m.op l || r.2.tileBad m.block m.tile then r.2.cmdBad k m
    else
      let t := r.2.takeTile k m.block m.tile
      if !t.1 then t.2
      else
        let s1 := t.2.visible m.block
        let tile := (s1.blockMem m.block).tiles.getD m.tile []
        let home := (ps.zip l).filterMap fun x => match x.2 with | .mem pa _ => some (pa, x.1) | _ => none
        let s2 := (ps.zip l).zipIdx.foldl (fun s x => s.mdstSend k m tile x.2 x.1.1 x.1.2) (s1.mdstHome k m tile home)
        let waits := mdstWaits l
        if waits.isEmpty then s2.endCmd k m none
        else s2.onCmd k m.id fun x => { x with started := true, rest := waits }

def execMdstComplete (die core k : Nat) (st : State) : Host.Outcome State Fault Refusal :=
  .next (match st.readyCmd (die, core) k .mdst with
    | none => st
    | some m =>
      let n := mdstSize (.ofNat 2 m.cvt)
      if m.started then (if m.toMem then st else st.mdstFlips (die, core) m)
      else if m.stride.toNat < Config.lanes (Config.isTower die) * n || m.stride.toNat % n != 0 then
        st.endCmd (die, core) m (some 4)
      else if m.toMem then st.mdstMem (die, core) m else st.mdstScratch (die, core) m)

/-- A response to a write of an MDST (R302, R513). -/
def State.answerCmd (s : State) (k : Nat × Nat) (id piece : Nat) (ok : Bool) : State :=
  match s.cmd? k id with
  | none => s
  | some m =>
    if !ok then s.endCmd k m (some 5)
    else if m.rest.erase piece = [] then s.endCmd k m none
    else s.onCmd k id fun x => { x with rest := x.rest.erase piece }

end Sys2Proof.Machine
end

