-- ==== Sys2Proof/Machine/CopyUnit.lean ====
section
/-! DEFINITION. The copy engine's data: descriptor sets, the bytes of a copy, its targets, its reads and writes, its
signal, and the staging buffers of the Mortar links (R310 to R322, R471, R472, R475 to R479, R507). -/

namespace Sys2Proof.Machine

/-! ## Descriptor sets (R310, R312, R313) -/

def CopyCmd.wd (c : CopyCmd) (k : Nat) : DWord := c.w.getD k 0
def CopyCmd.sk (c : CopyCmd) : Nat := fld (c.wd 7) 38 2
def CopyCmd.dk (c : CopyCmd) : Nat := fld (c.wd 7) 40 3
def CopyCmd.tdie (c : CopyCmd) : Nat := 2 + fld (c.wd 7) 43 1
def CopyCmd.tidx (c : CopyCmd) : Nat := fld (c.wd 7) 44 4
def CopyCmd.tmsk (c : CopyCmd) : Nat := fld (c.wd 7) 48 12
def CopyCmd.srem (c : CopyCmd) : Bool := (c.wd 7).getLsbD 60
def CopyCmd.siga (c : CopyCmd) : DWord := c.wd 6
def CopyCmd.remote (c : CopyCmd) : Bool := 2 ≤ c.dk
def CopyCmd.l0 (c : CopyCmd) : Nat := fld (c.wd 2) 0 24
def CopyCmd.e1 (c : CopyCmd) : Nat := fld (c.wd 2) 24 16
def CopyCmd.e2 (c : CopyCmd) : Nat := fld (c.wd 2) 40 12
def CopyCmd.e3 (c : CopyCmd) : Nat := fld (c.wd 2) 52 12
def CopyCmd.bytes (c : CopyCmd) : Nat := c.l0 * c.e1 * c.e2 * c.e3
def CopyCmd.scope (c : CopyCmd) : Nat := extScope ((c.wd 7).getLsbD 37) (.ofNat 3 (fld (c.wd 7) 34 3))
/-- The destination, or its offset part in the remote form. -/
def CopyCmd.dst (c : CopyCmd) : DWord := if c.remote then c.wd 1 &&& 0x3FFFFF#64 else c.wd 1

/-- A stride: the signed half of a word. -/
def strideOf (w : DWord) (hi : Bool) : DWord := if hi then ((w >>> 32).setWidth 32).signExtend 64 else (w.setWidth 32).signExtend 64

/-- The first condition of R312 that a set breaks, by its status. -/
def CopyCmd.setStatus (c : CopyCmd) : Option Nat :=
  let w7 := c.wd 7
  let bits := (List.range 12).filter fun i => (c.tmsk / 2 ^ i) % 2 = 1
  let al (x : Nat) : Bool := x % 4 == 0
  if 2 ≤ c.sk || 4 < c.dk || fld w7 32 2 = 3 || 5 < fld w7 34 3 || (c.srem && !c.remote) || 11 < c.tidx ||
      fld w7 61 3 != 0 || (c.remote && fld (c.wd 1) 22 10 != 0) then some 6
  else if c.l0 = 0 || c.e1 = 0 || c.e2 = 0 || c.e3 = 0 || 2 ^ 32 < c.bytes then some 3
  else if !(al (c.wd 0).toNat && al c.dst.toNat && al c.siga.toNat && al c.l0 &&
      (List.range 3).all fun k => al (fld (c.wd (3 + k)) 0 32) && al (fld (c.wd (3 + k)) 32 32)) then some 4
  else if (c.dk = 2 && bits.length != 1) || (c.remote && bits.isEmpty) then some 6
  else if c.cpym && c.mma.isSome && c.dk != 1 then some 6
  else none

/-- The source and the destination of every word, in the order of R311. -/
def CopyCmd.pairs (c : CopyCmd) : List (DWord × DWord) :=
  let st (k : Nat) (w : Nat) (hi : Bool) : DWord := .ofNat 64 k * strideOf (c.wd w) hi
  ((List.range c.e3).map fun i3 => ((List.range c.e2).map fun i2 => ((List.range c.e1).map fun i1 =>
    (List.range (c.l0 / 4)).map fun b =>
      (c.wd 0 + st i1 3 false + st i2 3 true + st i3 5 false + .ofNat 64 (4 * b),
       c.dst + st i1 4 false + st i2 4 true + st i3 5 true + .ofNat 64 (4 * b))).flatten).flatten).flatten

/-- The cores that a remote set names. -/
def CopyCmd.cores (c : CopyCmd) : List Nat :=
  let bits := (List.range 12).filter fun i => (c.tmsk / 2 ^ i) % 2 = 1
  bits.map fun i => if c.dk = 3 then 12 * c.tidx + i else if c.dk = 2 then 12 * c.tidx + i else 12 * i + c.tidx

/-- The block of a launch that a core holds. -/
def State.blockOn (s : State) (die core : Nat) (lnch : Word) : Option Nat :=
  (s.blocks.find? fun b => b.2.die == die && b.2.core == core && b.2.lnch == lnch &&
    (b.2.state == .resident || b.2.state == .preempting || b.2.state == .away)).map (·.1)

/-- The launch whose blocks a remote copy goes to (R313). -/
def CopyCmd.tln (c : CopyCmd) : Word := .ofNat 32 (fld (c.wd 1) 32 32)

/-- The target on one core: its block of the launch, or one that has failed with the fence of its row (R317, R370). -/
def State.targetOn (s : State) (c : CopyCmd) (core : Nat) : Option Target :=
  if (s.die c.tdie).rowsFenced.contains (core / 12, c.tln) then some ⟨c.tdie, core, 0, 0, 0, 8, true⟩
  else (s.blockOn c.tdie core c.tln).map fun b => ⟨c.tdie, core, b, 0, 0, 0, false⟩

/-- The targets of a copy, none when a core holds no block of the launch (R317). -/
def State.targetsOf (s : State) (c : CopyCmd) : Option (List Target) :=
  if !c.remote then some [⟨c.die, c.core, c.block, 0, 0, 0, false⟩]
  else
    let ts := c.cores.filterMap (s.targetOn c)
    if ts.length = c.cores.length then some ts else none

/-! ## The command in its core's list -/

def State.copy? (s : State) (k : Nat × Nat) (id : Nat) : Option CopyCmd := (s.core k).copies.find? fun c => c.id == id
def State.onCopy (s : State) (k : Nat × Nat) (id : Nat) (f : CopyCmd → CopyCmd) : State :=
  s.onCore k fun x => { x with copies := x.copies.map fun c => if c.id = id then f c else c }
def CopyCmd.key (c : CopyCmd) : Nat × Nat := (c.die, c.core)

/-- Slots of the issuing block that the copy touches: source, destination. -/
def CopyCmd.ownSlots (c : CopyCmd) : List Nat × List Nat :=
  let tower := Config.isTower c.die
  let idx (f : DWord × DWord → DWord) : List Nat := (c.pairs.map fun p => slotIndex tower (f p).toNat).eraseDups
  (if c.sk = 1 then idx (·.1) else [], if c.dk = 1 then idx (·.2) else [])

/-- Whether every word of the copy in the issuing block's scratchpad lies in the allocation. -/
def CopyCmd.inOwn (c : CopyCmd) (n : Nat) : Bool :=
  let tower := Config.isTower c.die
  c.pairs.all fun p => (c.sk != 1 || inAlloc tower n p.1.toNat) && (c.dk != 1 || inAlloc tower n p.2.toNat)

/-- The staged MMA of a copy that fails, unless it has gone to the array (R321). -/
def State.failStaged (s : State) (c : CopyCmd) : State :=
  match c.mma.bind (s.cmd? c.key) with
  | none => s
  | some m => if m.staged.isSome then s.endCmd c.key m (some 1) else s

/-- The copy leaves the engine: its counter decrements, and a failure is reported (R322). -/
def State.endCopy (s : State) (c : CopyCmd) (status : Nat) : State :=
  let s1 := (s.onCore c.key fun k => { k with copies := k.copies.filter fun x => x.id != c.id }).onBlockMem c.block
    fun m => m.letGo c.id []
  let s2 := if status = 0 then s1 else (s1.failStaged c).asyncErr c.course 0 c.dn status
  s2.opDone c.course c.id

/-- The last byte has been read: source slots that are not also destinations are let go, and flip (R315, R316). -/
def State.sourceOver (s : State) (c : CopyCmd) : State :=
  if c.drained then s
  else
    let src := c.ownSlots.1.filter fun q => !c.ownSlots.2.contains q
    (s.onBlockMem c.block fun m => m.letSlots c.id src src).onCopy c.key c.id fun x => { x with drained := true }

/-- Every access of the copy to the issuing block is over: the other slots are let go; destinations flip unless the copy
has failed or a staged MMA reads them (R316, R321, R322). -/
def State.slotsOver (s : State) (c : CopyCmd) (failed : Bool) : State :=
  if c.freed then s
  else
    let flips := if failed || c.mma.isSome then [] else c.ownSlots.2
    ((s.sourceOver c).onBlockMem c.block fun m => m.letGo c.id flips).onCopy c.key c.id fun x => { x with freed := true }

/-! ## Reading the source (R319) -/

inductive CRead where
  | words (l : List Word)
  | wait
  | status (n : Nat)
  | bad
  deriving DecidableEq, Repr

/-- The link directions between two dies, in the order crossed (R471, R472). -/
def route (a b : Nat) : List Nat :=
  match a, b with
  | 0, 1 => [0] | 1, 0 => [1] | 2, 3 => [2] | 3, 2 => [3]
  | 0, 2 => [4] | 2, 0 => [5] | 1, 3 => [6] | 3, 1 => [7]
  | 0, 3 => [4, 2] | 3, 0 => [7, 1] | 1, 2 => [6, 3] | 2, 1 => [5, 0]
  | _, _ => []

def Regs.addMb (r : Regs) (which dir n : Nat) : Regs :=
  match which with
  | 0 => { r with mbxf := modAt dir (· + .ofNat 64 n) r.mbxf }
  | 1 => { r with mbhld := modAt dir (· + .ofNat 64 n) r.mbhld }
  | _ => { r with mbstl := modAt dir (· + .ofNat 64 n) r.mbstl }

/-- Payload of a copy that goes from one die to another is counted on every link direction that it crosses (R479). -/
def State.crossed (s : State) (a b n : Nat) : State :=
  (route a b).foldl (fun s d => s.onRegs fun r => r.addMb 0 d n) s

/-- One word of a source in memory, with its place where a line is asked for. A word on the host or another package is asked
for. -/
def State.copyWord (s : State) (c : CopyCmd) (va : DWord) : Except CRead (Word × Option Nat) × State :=
  let asked : List LaneAcc := match s.copy? c.key c.id with | some x => x.reads | none => []
  let ask (s : State) : State := s.onCopy c.key c.id fun x =>
    { x with reads := x.reads ++ [⟨asked.length, va, [], 0, .sent, none⟩] }
  match asked.find? fun l => l.addr == va with
  | some l =>
    (if l.st == .done then .ok (l.data.headD 0, none) else if l.st == .failed then .error (.status 5) else .error .wait, s)
  | none =>
    if inAperture va then (.error (.status 5), s)
    else
      let r := s.placeVa c.course va .read c.flt
      match r.1 with
      | .mem pa _ =>
        if r.2.lineBad c.key pa then (.error .bad, r.2)
        else (.ok (wordOf (r.2.engineBytes c.key pa 4), if r.2.engineHit c.key pa 4 then none else some pa), r.2)
      | .host pa => (.error .wait, (ask r.2).pcieSend pa 0 4 [] c.course c.id asked.length true)
      | .fabric pa => (.error .wait, (ask r.2).fabSend pa 0 0 4 [] c.course c.id asked.length)
      | .wait u => (.error .wait, r.2.onCopy c.key c.id fun x => { x with flt := some u })
      | _ => (.error (.status 5), r.2)

/-- Words that an engine has read at the homes of their lines: one request for each line in turn (R474). -/
def State.engineLines (s : State) (die : Nat) (l : List Nat) : State :=
  (l.zip (none :: l.map some)).foldl (fun s p =>
    (s.lineReqOnce die p.1 (p.2.any fun q => lineOf q == lineOf p.1)).dieUse false p.1 4) s

/-- The lines of a piece of the source that has been read, each counted once however often the engine came back to the piece,
and the payload that crossed the links (R474, R479). -/
def State.copyCount (s : State) (c : CopyCmd) (piece : Nat) (l : List Nat) : State :=
  if (s.copy? c.key c.id).any fun x => x.counted.contains piece then s
  else
    (l.foldl (fun s pa => s.crossed (homeDie pa) c.die 4) (s.engineLines c.die l)).onCopy c.key c.id fun x =>
      { x with counted := x.counted ++ [piece] }

/-- The source words of some pairs, a piece of the copy; reads that must wait are all sent out. -/
def State.copyRead (s : State) (c : CopyCmd) (piece : Nat) (l : List (DWord × DWord)) : CRead × State :=
  if c.sk = 1 then
    (.words (l.map fun p => wordOf ((s.blockMem c.block).read p.1.toNat 4)), s)
  else
    let r := l.foldl (fun (acc : Except CRead (List (Word × Option Nat)) × State) p =>
      match acc.1 with
      | .error (.status _) | .error .bad => acc
      | _ =>
        let r := acc.2.copyWord c p.1
        (match acc.1, r.1 with
         | .ok ws, .ok w => (.ok (ws ++ [w]), r.2)
         | x, .ok _ => (x, r.2)
         | _, .error e => (.error e, r.2))) (.ok [], s)
    match r.1 with
    | .error e => (e, r.2)
    | .ok ws => (.words (ws.map (·.1)), r.2.copyCount c piece (ws.filterMap (·.2)))

/-! ## Writing -/

/-- The places of the destination words in memory, a page fault, or a status. -/
def State.copyPlaces (s : State) (c : CopyCmd) (l : List (DWord × DWord)) : Except (Option Nat) (List Place) × State :=
  l.foldl (fun (acc : Except (Option Nat) (List Place) × State) p =>
    match acc.1 with
    | .error _ => acc
    | .ok ps =>
      if inAperture p.2 then (.error (some 5), acc.2)
      else
        let r := acc.2.placeVa c.course p.2 .write c.flt
        (match r.1 with
         | .wait u => (.error none, r.2.onCopy c.key c.id fun x => { x with flt := some u })
         | .fail _ | .mmio _ | .scratch _ => (.error (some 5), r.2)
         | x => (.ok (ps ++ [x]), r.2))) (.ok [], s)

/-- One word sent to the host or to another package; the number of a write to a package is awaited. -/
def State.copySend (s : State) (c : CopyCmd) (i : Nat) (p : Place) (w : Word) : State :=
  match p with
  | .host pa => s.pcieSend pa 1 4 (bytesOf 4 w) c.course c.id i false
  | .fabric pa =>
    (s.fabSend pa 1 0 4 (bytesOf 4 w) c.course c.id (2 ^ 32 + i)).onCopy c.key c.id fun x => { x with acks := x.acks ++ [i] }
  | _ => s

/-- The words of a copy written at their targets in memory. -/
def State.copyOut (s : State) (c : CopyCmd) (ps : List (Place × Word)) : State :=
  let home := ps.filterMap fun p => match p.1 with | .mem pa _ => some (pa, bytesOf 4 p.2) | _ => none
  let s1 := home.foldl (fun s p => s.crossed c.die (homeDie p.1) 4) (s.engineWrite c.key home)
  ps.zipIdx.foldl (fun s p => s.copySend c p.2 p.1.1 p.1.2) s1

/-! ## Completion (R320) -/

def CopyCmd.sop (c : CopyCmd) : Nat := fld (c.wd 7) 32 2
def CopyCmd.sval (c : CopyCmd) : Word := (c.wd 7).setWidth 32

/-- A target that has its payload and its flips: the signal in its scratchpad follows (R320). -/
def State.targetSignal (s : State) (c : CopyCmd) (t : Target) : Nat × State :=
  if !c.srem || c.siga = 0 then (0, s)
  else
    let s1 := s.release c.key c.block c.scope
    if inAlloc (Config.isTower t.die) (s1.blockMem t.block).n c.siga.toNat then
      (0, ((s1.rmwScratch t.block c.siga.toNat fun w => sigWord c.sop w c.sval).2).progress c.die c.ctx)
    else (2, s1)

/-- What became of the one signal of a copy: as an engine's signal, or a failure with its status. -/
inductive CSig where
  | went (r : Signalled)
  | status (n : Nat)
  deriving DecidableEq, Repr

/-- The one signal of a copy whose signal word does not lie in its targets, once every target is over and every slot has
flipped (R320). -/
def State.copySignal (s : State) (c : CopyCmd) : CSig × State :=
  if c.siga = 0 || c.srem then (.went .done, s)
  else
    let s1 := s.release c.key c.block c.scope
    if inAperture c.siga then
      let off := (apertureOff c.siga).toNat
      if inAlloc (Config.isTower c.die) (s1.blockMem c.block).n off then
        (.went .done, ((s1.rmwScratch c.block off fun w => sigWord c.sop w c.sval).2).progress c.die c.ctx)
      else (.status 2, s1)
    else
      let r := s1.engineSignal c.course c.id c.key c.ctx (s1.course c.course).info.lnch c.siga c.sop c.sval c.flt
      match r.1 with
      | .fail => (.status 5, r.2)
      | .wait u => (.went (.wait u), r.2)
      | x => (.went x, r.2.visible c.block)

/-- The MMA of a copy whose payload has landed joins the chain as received at that moment (R303): behind the chain's
received commands and before the command that follows the chain. -/
def joinChain (m : MCmd) (seq : Nat) (l : List MCmd) : List MCmd :=
  let pre := l.takeWhile fun e => e.id != m.id
  let post := (l.dropWhile fun e => e.id != m.id).drop 1
  let run := post.takeWhile fun e => !(e.sameTile m && e.kind != .mma)
  pre ++ run ++ { m with staged := none, seq := seq } :: post.drop run.length

def State.sendStaged (s : State) (c : CopyCmd) : State :=
  match c.mma.bind (s.cmd? c.key) with
  | none => s
  | some m =>
    let u := s.fresh
    if m.staged.isSome then u.2.onCore c.key fun k => { k with mq := joinChain m u.1 k.mq } else s

/-- Whether a flip of a destination slot of the issuing block is still to come; source slots flip when they may, and nothing
waits for them (R316, R320, R322). -/
def State.destDue (s : State) (c : CopyCmd) : Bool :=
  (s.blockMem c.block).flips.any fun f => f.2 == c.id && c.ownSlots.2.contains f.1

/-- The copy goes on once every target is over and its writes are acknowledged: its slots are let go, its destinations flip,
then its signal is written and acknowledged, and it ends (R239, R316, R320, R322). -/
def State.settleCopy (s : State) (k : Nat × Nat) (id : Nat) : State :=
  match s.copy? k id with
  | none => s
  | some c =>
    if !(c.started && c.targets.all (·.done) && c.acks.isEmpty) then s
    else
      let bad := (c.targets.map (·.status)).find? (· != 0)
      let s1 := s.slotsOver c bad.isSome
      if s1.destDue c then s1
      else match bad with
        | some st => s1.endCopy c st
        | none =>
          if c.signalled then s1.endCopy c 0
          else
            let r := s1.copySignal c
            match r.1 with
            | .status st => r.2.endCopy c st
            | .went (.wait u) => r.2.onCopy k id fun x => { x with flt := some u }
            | .went .sent => r.2.onCopy k id fun x => { x with signalled := true, acks := [signalAck] }
            | .went _ => r.2.endCopy c 0

/-- Staging without one target of a copy: a unit is freed with the last of its targets (R476). -/
def unstage (id i : Nat) (l : List (Nat × StagUnit)) : List (Nat × StagUnit) :=
  (l.map fun u => if u.2.copy = id then (u.1, { u.2 with targets := u.2.targets.filter (· != i) }) else u).filter fun u =>
    u.2.copy != id || !u.2.targets.isEmpty

/-- A target is over, with its status; one that was over before stays as it was. -/
def State.targetOver (s : State) (c : CopyCmd) (i status : Nat) : State :=
  ({ s with staging := unstage c.id i s.staging }).onCopy c.key c.id fun x =>
    { x with targets := modAt i (fun t => if t.done then t else { t with status := status, done := true }) x.targets }

/-! ## Remote targets (R318, R475 to R478) -/

/-- The words of one destination slot in ascending order; words with one destination stay in the order of the copy (R311,
R507). -/
def CopyCmd.slotWords (c : CopyCmd) (slot : Nat) : List (DWord × DWord) :=
  (sortBy (fun a b => a.1.2.toNat < b.1.2.toNat || (a.1.2 == b.1.2 && decide (a.2 < b.2)))
    (c.pairs.filter fun p => slotIndex true p.2.toNat == slot).zipIdx).map (·.1)

/-- The words of one destination slot that its bytes end with: the last one of each destination (R311). -/
def CopyCmd.winners (c : CopyCmd) (slot : Nat) : List (DWord × DWord) :=
  (c.slotWords slot).foldr (fun p acc => if acc.any (fun q => q.2 == p.2) then acc else p :: acc) []

/-- The destination slots of a remote copy, ascending. -/
def CopyCmd.slots (c : CopyCmd) : List Nat :=
  sortBy (fun a b => a < b) ((c.pairs.map fun p => slotIndex true p.2.toNat).eraseDups)

/-- A list in pieces of n. -/
def chunks (n : Nat) : Nat → List (DWord × DWord) → List (List (DWord × DWord))
  | 0, _ => []
  | f + 1, l => if l.isEmpty then [] else l.take n :: chunks n f (l.drop n)

/-- The units of a copy: slot and words, 256 bytes to a unit. -/
def CopyCmd.units (c : CopyCmd) : List (Nat × List (DWord × DWord)) :=
  (c.slots.map fun q => (chunks 64 (c.slotWords q).length (c.slotWords q)).map fun u => (q, u)).flatten

def CopyCmd.route (c : CopyCmd) : List Nat := if c.remote then Sys2Proof.Machine.route c.die c.tdie else []
/-- The direction whose staging buffer receives a copy. -/
def CopyCmd.dir (c : CopyCmd) : Nat := c.route.getLastD 8

/-- Whether every byte for a target lies in its allocation. -/
def State.targetFits (s : State) (c : CopyCmd) (t : Target) : Bool :=
  c.pairs.all fun p => inAlloc true (s.blockMem t.block).n p.2.toNat

/-- Whether a target takes bytes in a slot now: engine-owned, and the accesses before the hand-over performed. -/
def State.takes (s : State) (t : Target) (slot : Nat) : Bool :=
  (s.blockMem t.block).engineOwned slot && s.engineReady t.block true [slot]

def slotBit (q : Nat) : Nat := 2 ^ q
def Target.has (t : Target) (q : Nat) : Bool := t.got / 2 ^ q % 2 = 1

/-- A target that has all its payload: its slots flip, then its signal is written, and it is over (R316, R320, R476). -/
def State.targetFinish (s : State) (c : CopyCmd) (i : Nat) : State :=
  match (s.copy? c.key c.id).bind fun x => x.targets[i]? with
  | none => s
  | some t =>
    if t.done || !(c.slots.all t.has) then s
    else
      let asked := t.got / 2 ^ 256 % 2 = 1
      let s1 := if asked then s else
        (s.onBlockMem t.block fun m => m.letSlots c.id [] c.slots).onCopy c.key c.id fun x =>
          { x with targets := modAt i (fun t => { t with got := t.got + 2 ^ 256 }) x.targets }
      if (s1.blockMem t.block).flips.any fun f => f.2 == c.id && c.slots.contains f.1 then s1
      else
        let r := s1.targetSignal c t
        r.2.targetOver c i r.1

/-- A slot of a target has all its payload. -/
def State.slotHas (s : State) (c : CopyCmd) (i q : Nat) : State :=
  s.onCopy c.key c.id fun x =>
    { x with targets := modAt i (fun t => if t.has q then t else { t with got := t.got + slotBit q }) x.targets }
def State.slotDone (s : State) (c : CopyCmd) (i q : Nat) : State := (s.slotHas c i q).targetFinish c i

/-- Units of a copy that stand in staging for a target and a slot. -/
def State.unitsFor (s : State) (id i q : Nat) : Nat :=
  (s.staging.filter fun u => u.2.copy == id && u.2.slot == q && u.2.targets.contains i).length

end Sys2Proof.Machine
end

