-- ==== Sys2Proof/Machine/Copy.lean ====
section
/-! DEFINITION. SHP, CPY, CPYM, OWNG, OWNT and the named queues, and the events of the copy engine (R308 to R329,
R475 to R479). -/

namespace Sys2Proof.Machine

/-! ## Copies -/

def execShp (m : Bool) (a : BitVec 5) (n : BitVec 3) (st : State) : Host.Outcome State Fault Refusal :=
  slot3 (.shp m a n) st fun s =>
    s.onCourse s.iss.course fun x => { x with d := setAt n.toNat ((shpRegs a).map s.sIn) x.d }

/-- A copy joins the engine's list, and counts on N2 (R317). -/
def State.pushCopy (s : State) (n : BitVec 3) (cpym : Bool) : State :=
  let i := s.iss
  let u := s.fresh
  let g := if cpym then i.src.staging else none
  let s1 := match g with
    | some a => u.2.pushCmd (u.2.newMma a (some u.1))
    | none => u.2
  let c : CopyCmd :=
    { id := u.1, course := i.course, block := i.src.info.block, ctx := i.src.info.ctx, die := i.src.info.die,
      core := i.src.info.core, dn := n.toNat, w := i.src.d.getD n.toNat [], cpym := cpym,
      mma := if g.isSome then some u.2.uid else none, started := false, status := 0, targets := [], flt := none,
      reads := [], acks := [], drained := false, freed := false, signalled := false, counted := [] }
  (s1.onCore i.src.coreKey fun k => { k with copies := k.copies ++ [c] }).onCourse i.course fun x =>
    { x.count u.1 2 with staging := if cpym then none else x.staging }

def execCpy (m : Bool) (n : BitVec 3) (st : State) : Host.Outcome State Fault Refusal :=
  slot3 (.cpy m n) st fun s => s.pushCopy n false

def execCpym (m : Bool) (n : BitVec 3) (st : State) : Host.Outcome State Fault Refusal :=
  slot3 (.cpym m n) st fun s => s.pushCopy n true

/-- COPY_START: the oldest command of the core that has not started is checked (R317). One that fails has taken hold of no
slot, and flips none. -/
def State.startCopy (s : State) (k : Nat × Nat) (id : Nat) : State :=
  match (s.core k).copies.find? fun c => !c.started with
  | none => s
  | some c =>
    if c.id != id then s
    else
      let own := c.ownSlots.1 ++ c.ownSlots.2
      let m := s.blockMem c.block
      match c.setStatus with
      | some st => s.endCopy c st
      | none =>
        if !(c.inOwn m.n) then s.endCopy c 2
        else if !(own.all m.engineOwned) then s.endCopy c 1
        else match s.targetsOf c with
          | none => s.endCopy c 7
          | some ts =>
            (s.onBlockMem c.block fun m => m.take id own).onCopy k id fun x => { x with started := true, targets := ts }

def execCopyStart (die core k : Nat) (st : State) : Host.Outcome State Fault Refusal :=
  .next (st.startCopy (die, core) k)

/-- Whether the accesses that a copy follows have been performed (R238, R319, R320). -/
def State.copyReady (s : State) (c : CopyCmd) : Bool :=
  !((c.sk = 0 || c.siga != 0) && (s.course c.course).ops.any fun o => o.id < c.id) &&
    s.engineReady c.block (Config.isTower c.die) (c.ownSlots.1 ++ c.ownSlots.2)

/-- An error in the data of a copy fails it (R220, R455). -/
def State.copyBad (s : State) (c : CopyCmd) : State :=
  (((s.slotsOver c true).failStaged c).endCopy c 0).hwError c.course 4 0

/-- The payload of a copy whose destination is memory or the own scratchpad. -/
def State.copyLocal (s : State) (c : CopyCmd) : State :=
  let r := s.copyRead c 0 c.pairs
  match r.1 with
  | .wait => r.2
  | .bad => r.2.copyBad c
  | .status n => (r.2.targetOver c 0 n).settleCopy c.key c.id
  | .words ws =>
    if c.dk = 1 then
      let s1 := (r.2.onBlockMem c.block fun m =>
        (c.pairs.zip ws).foldl (fun m p => m.write p.1.2.toNat (bytesOf 4 p.2)) m).sourceOver c
      ((s1.sendStaged c).targetOver c 0 0).settleCopy c.key c.id
    else
      let d := r.2.copyPlaces c c.pairs
      match d.1 with
      | .error none => d.2
      | .error (some n) => (d.2.targetOver c 0 n).settleCopy c.key c.id
      | .ok ps =>
        let s1 := ((d.2.visible c.block).copyOut c (ps.zip ws)).sourceOver c
        (s1.targetOver c 0 0).settleCopy c.key c.id

/-- Once the last byte for the last target has been read, the source slots are let go; then each target that has its payload
goes on (R315, R316, R320). -/
def State.meshOver (s : State) (c : CopyCmd) : State :=
  match s.copy? c.key c.id with
  | none => s
  | some x =>
    let s1 := if x.targets.all fun t => t.done || x.slots.all t.has then s.sourceOver x else s
    ((List.range x.targets.length).foldl (fun s i => s.targetFinish x i) s1).settleCopy c.key c.id

/-- The slots of a target on the issuing die that take their bytes now. -/
def State.copyMesh (s : State) (c : CopyCmd) (i : Nat) (t : Target) : State :=
  if !s.targetFits c t then (s.targetOver c i 2).meshOver c
  else
    (c.slots.foldl (fun s q =>
      match s.copy? c.key c.id with
      | none => s
      | some x => match x.targets[i]? with
        | none => s
        | some t =>
          if t.done || t.has q || !s.takes t q then s
          else
            let l := c.slotWords q
            let r := s.copyRead x q l
            match r.1 with
            | .wait => r.2
            | .bad => r.2.copyBad c
            | .status n => r.2.targetOver c i n
            | .words ws =>
              ((r.2.onBlockMem t.block fun m =>
                (l.zip ws).foldl (fun m p => m.write p.1.2.toNat (bytesOf 4 p.2)) m).visible c.block).slotHas x i q) s).meshOver c

def execCopyComplete (die core k target : Nat) (st : State) : Host.Outcome State Fault Refusal :=
  .next (match st.copy? (die, core) k with
    | none => st
    | some c => match c.targets[target]? with
      | none => st
      | some t =>
        if !c.started || !st.copyReady c then st
        else if t.done then st.settleCopy (die, core) k
        else if c.remote && c.slots.all t.has then st.meshOver c
        else if !c.remote then st.copyLocal c
        else if t.die = c.die then st.copyMesh c target t
        else if !st.targetFits c t then (st.targetOver c target 2).meshOver c
        else st)

/-! ## Staging (R475 to R479, R507) -/

/-- The targets whose bytes do not lie in their allocation fail (R318). -/
def State.dropUnfit (s : State) (c : CopyCmd) : State :=
  (List.range c.targets.length).foldl (fun s i => match c.targets[i]? with
    | some t => if s.targetFits c t then s else s.targetOver c i 2
    | none => s) s

/-- The next unit of a copy arrives, or finds no free unit. -/
def State.unitTaken (s : State) (c : CopyCmd) : State :=
  let sent := (c.targets.map (·.sent)).foldl max 0
  match c.units[sent]? with
  | none => s
  | some (q, l) =>
    if 256 ≤ (s.staging.filter fun u => u.2.dir == c.dir).length then s.onRegs fun r => r.addMb 2 c.dir 1
    else
      let r := s.copyRead c sent l
      match r.1 with
      | .wait => r.2
      | .bad => r.2.copyBad c
      | .status n => ((List.range c.targets.length).foldl (fun s i => s.targetOver c i n) r.2).settleCopy c.key c.id
      | .words ws =>
        let open_ := (List.range c.targets.length).filter fun i =>
          match c.targets[i]? with | some t => !t.done && s.targetFits c t | none => false
        let held := open_.any fun i => match c.targets[i]? with
          | some t => !(r.2.blockMem t.block).engineOwned q
          | none => false
        let u := r.2.fresh
        let wins := c.winners q
        let data := ((l.zip ws).filter fun p => wins.contains p.1).map fun p => (p.1.2.toNat, p.2)
        let unit : StagUnit := ⟨c.id, c.key, c.dir, q, data, open_⟩
        let s1 := { u.2 with staging := u.2.staging ++ [(u.1, unit)] }
        let s2 := s1.crossed c.die c.tdie (4 * l.length)
        let s3 := if held then s2.onRegs fun r => r.addMb 1 c.dir 1 else s2
        let s4 := (s3.visible c.block).onCopy c.key c.id fun x =>
          { x with targets := x.targets.map fun t => { t with sent := sent + 1 } }
        if sent + 1 = c.units.length then s4.sourceOver c else s4

/-- A unit arrives for the targets that are still to take it; with none of them left the copy goes on to its end. -/
def State.unitArrives (s : State) (c : CopyCmd) : State :=
  let s1 := s.dropUnfit c
  match s1.copy? c.key c.id with
  | none => s1
  | some x => if x.targets.all (·.done) then s1.settleCopy c.key c.id else s1.unitTaken x

def execStagingUnitArrival (die core k : Nat) (st : State) : Host.Outcome State Fault Refusal :=
  .next (match st.copy? (die, core) k with
    | none => st
    | some c =>
      if !(c.started && c.remote && c.tdie != c.die && st.copyReady c) || c.targets.all (·.done) then st
      else st.unitArrives c)

/-- A unit without one of its targets; it is freed with the last. -/
def State.unitLess (s : State) (u i : Nat) : State :=
  match tget u s.staging with
  | none => s
  | some x =>
    let ts := x.targets.filter (· != i)
    { s with staging := if ts.isEmpty then tdel u s.staging else tset u { x with targets := ts } s.staging }

/-- A unit drains into one target whose slot is engine-owned. -/
def State.drainUnit (s : State) (u i : Nat) (x : StagUnit) : State :=
  match s.copy? x.core x.copy with
  | none => s.unitLess u i
  | some c => match c.targets[i]? with
    | none => s.unitLess u i
    | some t =>
      if t.done then s.unitLess u i
      else if !s.takes t x.slot then s
      else
        let s1 := (s.onBlockMem t.block fun m => x.data.foldl (fun m p => m.write p.1 (bytesOf 4 p.2)) m).unitLess u i
        let total := (c.units.filter fun p => p.1 == x.slot).length
        let sent := ((c.units.take t.sent).filter fun p => p.1 == x.slot).length
        if sent = total && s1.unitsFor c.id i x.slot = 0 then (s1.slotDone c i x.slot).settleCopy x.core x.copy else s1

def execStagingUnitDrain (dir u target : Nat) (st : State) : Host.Outcome State Fault Refusal :=
  .next (match tget u st.staging with
    | none => st
    | some x => if x.dir = dir && x.targets.contains target then st.drainUnit u target x else st)

/-- An answer to a read or a write of a copy. -/
def State.answerCopy (s : State) (k : Nat × Nat) (id lane : Nat) (r : Option (List Byte)) : State :=
  if 2 ^ 32 ≤ lane then
    let s1 := s.onCopy k id fun c => { c with acks := c.acks.erase (lane - 2 ^ 32) }
    (if r.isSome then s1 else s1.onCopy k id fun c =>
      { c with targets := c.targets.map fun t => { t with status := 5 } }).settleCopy k id
  else
    let got (l : LaneAcc) : LaneAcc := match r with
      | some bs => l.ok [wordOf bs]
      | none => l.fail
    s.onCopy k id fun c => { c with reads := c.reads.map fun l => if l.lane = lane then got l else l }

/-! ## Owner bits (R238, R314) -/

/-- The slot index that S[a] names, when it is an allocated slot of the block. -/
def State.slotNamed (s : State) (v : DWord) : Option Nat :=
  let x := s.iss.src
  let n := (s.blockMem x.info.block).n
  if v.toNat < Config.slots x.tower && slotNumber x.tower v.toNat < n then some v.toNat else none

/-- ACC of a slot that is not there: its first offset, or the operand when that has bits above the index. -/
def State.slotError (s : State) (v : DWord) : State :=
  let x := s.iss.src
  let a : DWord := if v.toNat < Config.slots x.tower then .ofNat 64 (slotBase x.tower v.toNat) else v
  s.accError s.iss.course 3 a s.iss.pc x.hnd

def execOwng (m : Bool) (a : BitVec 5) (st : State) : Host.Outcome State Fault Refusal :=
  slot3 (.owng m a) st fun s =>
    match s.slotNamed (s.sIn a) with
    | none => s.slotError (s.sIn a)
    | some q => s.onBlockMem s.iss.src.info.block fun b =>
        if b.engineOwned q then b
        else { b.setOwner q true with
               given := (b.given.filter fun g => g.1 != q) ++ [(q, s.iss.course, s.iss.mark)] }

def execOwnt (m : Bool) (a : BitVec 5) (st : State) : Host.Outcome State Fault Refusal :=
  slot3 (.ownt m a) st fun s =>
    match s.slotNamed (s.sIn a) with
    | none => s.slotError (s.sIn a)
    | some q => s.onBlockMem s.iss.src.info.block fun b => b.setOwner q false

/-! ## Named queues (R324 to R329) -/

/-- A queue instruction fails (R329). -/
def State.queueErr (s : State) (q : BitVec 4) (status : Nat) : State := s.asyncErr s.iss.course 2 q.toNat status

/-- The status of the creation of a queue, none when it may be created. -/
def qcfgStatus (m : BlockMem) (tower : Bool) (base cfg : DWord) (q : Nat) : Option Nat :=
  let c := fld cfg 0 11
  let al := fld cfg 16 11
  if base.toNat % 64 != 0 || 1024 < c || al = 0 || c < al || fld cfg 11 5 != 0 || fld cfg 27 37 != 0 then some 3
  else if !(m.holdsRange tower base.toNat (64 + 4 * c)) then some 2
  else if !(m.allEngine tower base.toNat (64 + 4 * c)) then some 1
  else if m.queues.any fun k => k.q == q then some 5
  else none

/-- The holder number of the queue port. -/
def portHold (q : Nat) : Nat := 2 ^ 64 + q

/-- Whether lanes wait to push on a queue of a block, or bundles to pop it (R324). -/
def State.queueAwaited (s : State) (blk q : Nat) : Bool :=
  s.courses.any fun c => c.2.info.block == blk && c.2.lanes.any fun l =>
    l.st == .queue && (l.wake == .push q || l.wake == .pop q)

def execQcfg (m : Bool) (a b : BitVec 5) (q : BitVec 4) (st : State) : Host.Outcome State Fault Refusal :=
  slot3 (.qcfg m a b q) st fun s =>
    let x := s.iss.src
    let mem := s.blockMem x.info.block
    let c := fld (s.sIn b) 0 11
    if c = 0 then
      match mem.queues.find? fun k => k.q == q.toNat with
      | none => s
      | some k =>
        if !k.entries.isEmpty || !k.waiters.isEmpty || s.queueAwaited x.info.block q.toNat then s.queueErr q 5
        else s.onBlockMem x.info.block fun b =>
          { b.letGo (portHold q.toNat) [] with queues := b.queues.filter fun k => k.q != q.toNat }
    else match qcfgStatus mem x.tower (s.sIn a) (s.sIn b) q.toNat with
      | some n => s.queueErr q n
      | none => s.onBlockMem x.info.block fun b' =>
          { b'.take (portHold q.toNat) (slotsOfRanges x.tower [((s.sIn a).toNat, 64 + 4 * c)]) with
            queues := b'.queues ++ [⟨q.toNat, s.sIn a, c, fld (s.sIn b) 16 11, [], []⟩] }

/-- A push or a pop of a queue, which is progress (R390). -/
def State.onQueue (s : State) (q : Nat) (f : NQueue → NQueue) : State :=
  (s.onBlockMem s.iss.src.info.block fun m => { m with queues := m.queues.map fun k => if k.q = q then f k else k }).progress
    s.iss.src.info.die s.iss.src.info.ctx

def execQpush (m : Bool) (a : BitVec 5) (q : BitVec 4) (st : State) : Host.Outcome State Fault Refusal :=
  slot3 (.qpush m a q) st fun s =>
    let v : Word := (s.sIn a).setWidth 32
    if v = 0xFFFFFFFF#32 then s.queueErr q 6
    else match s.queue? s.iss.src q.toNat with
      | none => s.queueErr q 4
      | some _ => s.onQueue q.toNat fun k => { k with entries := k.entries ++ [(v, s.iss.course)] }

/-- The oldest entry of a queue written to a destination, all ones when there is none to take. -/
def State.popQueue (s : State) (ins : Instr) (q : BitVec 4) : State :=
  let put (s : State) (w : Word) : State := s.writeAll ins [List.replicate s.iss.src.w w] 0
  match s.queue? s.iss.src q.toNat with
  | none => (put s 0xFFFFFFFF#32).queueErr q 4
  | some k =>
    match k.entries with
    | [] => put s 0xFFFFFFFF#32
    | e :: l =>
      if k.canPop s.iss.course s.iss.pc then
        (put s e.1).onQueue q.toNat fun k =>
          { k with entries := l, waiters := k.waiters.filter (· != (s.iss.course, s.iss.pc)) }
      else put s 0xFFFFFFFF#32

def execQpop (m : Bool) (d : BitVec 7) (q : BitVec 4) (st : State) : Host.Outcome State Fault Refusal :=
  slot3 (.qpop m d q) st fun s => s.popQueue (.qpop m d q) q

def execQtry (m : Bool) (d : BitVec 7) (q : BitVec 4) (st : State) : Host.Outcome State Fault Refusal :=
  slot3 (.qtry m d q) st fun s => s.popQueue (.qtry m d q) q

end Sys2Proof.Machine
end

