-- ==== Sys2Proof/Machine/Save.lean ====
section
/-! DEFINITION. The record of a course in its context area, PDONE, forced saves and resumption (R34, R35, R60, R154,
R221 to R227, R350, R413, R533). -/

namespace Sys2Proof.Machine

/-! ## The record (R227) -/

def words4 (f : Nat → Nat) : List Byte := ((List.range 64).map fun i => leBytes 4 (f i)).flatten
def octets (f : Nat → Nat) : List Byte := (List.range 64).map fun i => .ofNat 8 (f i)
def quads (l : List DWord) : List Byte := (l.map fun v => leBytes 8 v.toNat).flatten

/-- The state code of lane i as a record holds it: a lane that has retired since the frame was taken is retired. -/
def Course.recState (x : Course) (f : Frame) (i : Nat) : Nat :=
  if (x.lane i).st == .retired then LSt.code .retired else LSt.code (f.lanes.getD i (.retired, 0, .none)).1

def PendErr.words (e : PendErr) : List DWord := [.ofNat 64 (e.code + e.sub * 256), e.tsa, e.tsb, 0]

/-- The record of a course with its frame, as pieces with their offsets. -/
def Course.record (x : Course) (f : Frame) : List (Nat × List Byte) :=
  let up (v : Nat → Nat) (i : Nat) : Nat := if i < x.w then v i else 0
  let o (k : Nat) : VReg := x.o.getD k VReg.zero
  [(0x000, words4 (up fun i => (f.lanes.getD i (.retired, 0, .none)).2.1.toNat)),
   (0x100, octets (up fun i => x.recState f i + (x.lane i).depth.toNat * 16)),
   (0x140, octets (up fun i => ((x.lane i).pw ||| 1).toNat)),
   (0x180, words4 (up fun i => (x.lane i).lc.toNat)),
   (0x280, words4 (up fun i => (x.lane i).srs.toNat)),
   (0x380, quads ((List.range 8).map fun j => f.js.getD j 0)),
   (0x3C0, quads [f.fairt, x.mode, x.flags, x.spills, x.trap.tvec, x.trap.tcause, x.trap.tlpc, x.trap.tlanes]),
   (0x400, quads [x.trap.twait, x.trap.tsa, x.trap.tsb, x.ncnt]),
   (0x440, (((List.range 4).map fun k => match x.pend[k]? with
     | some e => quads e.words
     | none => quads [0, 0, 0, 0]).flatten)),
   (0x4C0, (List.range 8).map fun k => .ofNat 8 (Tag.code (o k).tag)),
   (0x500, quads ((List.range 32).map x.s)),
   (0x600, ((List.range 8).map fun k => words4 (up fun i => ((o k).vals.getD i 0).toNat)).flatten),
   (0xE00, quads (((List.range 8).map fun n => (List.range 8).map fun w => (x.d.getD n []).getD w 0).flatten))]

/-- The ray-return stacks: entry j of lane i, the newest entry at j = DEPTH - 1 (R350, R351). -/
def Course.rayBytes (x : Course) : List Byte :=
  ((List.range 8).map fun j => ((List.range 32).map fun i =>
    let l := x.lane i
    leBytes 4 (if j < l.depth.toNat then (l.rays.getD (l.depth.toNat - 1 - j) 0).toNat else 0)).flatten).flatten

/-- Pieces that the core writes to the context area of a course, with one request for each line (R474). -/
def State.putArea (s : State) (c : Nat) (l : List (Nat × List Byte)) : State :=
  let i := (s.course c).info
  let t := s.areaReqs i.die i.ctx (l.map fun p => (i.ctxa + .ofNat 64 p.1, p.2.length))
  l.foldl (fun s p => s.putBytes i.ctx (i.ctxa + .ofNat 64 p.1) p.2) t

/-- The rays of a Dome course go to their area with the record. -/
def Course.rayPiece (x : Course) : List (Nat × List Byte) := if x.tower then [] else [(0x8400, x.rayBytes)]

def State.storeRecord (s : State) (c : Nat) (f : Frame) : State :=
  let x := s.course c
  s.putArea c (x.record f ++ x.rayPiece)

/-- A number at an offset of the context area. -/
def State.area (s : State) (c off n : Nat) : Nat :=
  let i := (s.course c).info
  leVal (s.getBytes i.ctx (i.ctxa + .ofNat 64 off) n)

def LSt.ofCode : Nat → LSt
  | 0 => .ready | 1 => .join | 2 => .conv | 3 => .waita | 4 => .queue | 5 => .qwin | 6 => .fill | 7 => .waitc
  | _ => .retired

/-- A lane as its record holds it: frame LPC and state, PW, LC, SRS, DEPTH and its rays. Bits [3:0] of an LPC are always 0
(R10). -/
def State.laneOf (s : State) (c i : Nat) : Lane :=
  let depth := s.area c (0x100 + i) 1 / 16
  let ray (j : Nat) : Word := .ofNat 32 (s.area c (0x8400 + 128 * j + 4 * i) 4)
  { Lane.start with
    st := LSt.ofCode (s.area c (0x100 + i) 1 % 16), lpc := .ofNat 32 (s.area c (4 * i) 4) &&& 0xFFFFFFF0#32,
    pw := .ofNat 8 (s.area c (0x140 + i) 1), lc := .ofNat 32 (s.area c (0x180 + 4 * i) 4),
    srs := .ofNat 32 (s.area c (0x280 + 4 * i) 4), depth := .ofNat 4 depth,
    rays := if (s.course c).tower then [] else ((List.range depth).map ray).reverse }

/-- The pending errors that a record holds (R222, R227): the entries whose cause is not 0. The hardware keeps which of them
are double traps when they are taken (R214), and which the partner has taken (R33), beside the record (log entry 65). -/
def State.recErrors (s : State) (c : Nat) : List PendErr :=
  let x := s.course c
  ((List.range 4).map fun k =>
    let w := s.area c (0x440 + 32 * k) 8
    let kept := (x.pend.take x.recErrs)[k]?
    (⟨w % 256, w / 256 % 256, .ofNat 64 (s.area c (0x448 + 32 * k) 8), .ofNat 64 (s.area c (0x450 + 32 * k) 8),
      kept.any (·.hnd), kept.any (·.shared)⟩ : PendErr))
    |>.filter fun e => e.code != 0

/-- The course with the registers of its record, and the frame of the record with the waits that it names. Errors that came
while the course was away stand behind those of the record. -/
def State.recall (s : State) (c : Nat) : Course × Frame :=
  let x := s.course c
  let q (off : Nat) : DWord := .ofNat 64 (s.area c off 8)
  let ls := (List.range x.w).map (s.laneOf c)
  let old (i : Nat) : Wake := match x.frame with
    | some f => (f.lanes.getD i (.retired, 0, .none)).2.2
    | none => .none
  let oreg (k : Nat) : VReg :=
    ⟨(List.range x.w).map fun i => .ofNat 32 (s.area c (0x600 + 256 * k + 4 * i) 4), tagOf (s.area c (0x4C0 + k) 1),
     (x.o.getD k VReg.zero).live⟩
  let f : Frame :=
    { lanes := ls.zipIdx.map fun p => (p.1.st, p.1.lpc, if p.1.st == .ready then .none else old p.2)
      js := (List.range 8).map fun j => q (0x380 + 8 * j)
      fairt := fairOf (fairLim (q 0x3C0)) (fairCnt (q 0x3C0)) (fairMd (q 0x3C0)) (fairRp (q 0x3C0)), cause := match x.frame with | some f => f.cause | none => 0 }
  ({ x with
     lanes := ls.map fun l => if l.st == .retired then l else { l with st := .ready },
     mode := q 0x3C8 &&& modeMask, flags := q 0x3D0 &&& flagsMask, spills := q 0x3D8,
     trap := ⟨q 0x3E0 &&& 0xFFFFFFF0, q 0x3E8 &&& 0x3FFFF, q 0x3F0 &&& 0xFFFFFFFF, q 0x3F8 &&& Mask.low x.w,
              q 0x400 &&& 0xFFFFFFFF0000000F, q 0x408, q 0x410⟩,
     sr := (List.range 32).map fun i => q (0x500 + 8 * i), o := (List.range 8).map oreg,
     pend := s.recErrors c ++ x.pend.drop x.recErrs, recErrs := 0,
     d := (List.range 8).map fun n => (List.range 8).map fun w => q (0xE00 + 64 * n + 8 * w) }, f)

/-! ## Leaving the core (R154, R223, R226, R385) -/

/-- Window entries of a course that leaves stay in the window area (R60). -/
def State.parkWindow (s : State) (c : Nat) : State :=
  let x := s.course c
  let s1 := x.qin.foldl (fun s e => s.putBacking (c, 64 + e.1) e.2) s
  s1.onCourse c fun y => { y with qin := y.qin.map fun e => (e.1, { e.2 with st := .spilled, xfer := .none }) }

/-- The block is away once none of its courses is on the core; it takes its place in the bound list again. -/
def State.blockLeaves (s : State) (b : Nat) : State :=
  let here := s.courses.any fun c => c.2.info.block == b && c.2.pres == .resident
  let away := s.courses.any fun c => c.2.info.block == b && (c.2.pres == .away || c.2.pres == .forced)
  if here || !away then s
  else s.onBlock b fun x => { x with state := .away, bindTime := s.time, timer := s.time }

/-- The course goes off the core; what it held there is freed. -/
def State.leave (s : State) (c : Nat) (p : Presence) (v : List VEntry) (f : Option Frame) : State :=
  let x := s.course c
  ((s.parkWindow c).onCourse c fun y =>
    { y with pres := p, v := v, flights := [], convs := [], pre := none, frame := f, recErrs := y.pend.length,
             fetch := none, area := none })
    |>.blockLeaves x.info.block

/-- The record of a course that has executed PDONE is stored, and the course leaves the core with its registers freed
(R154). -/
def State.goAway (s : State) (c : Nat) : State :=
  match (s.course c).frame with
  | some f => (s.storeRecord c f).leave c .away (List.replicate 64 VEntry.empty) (some f)
  | none => s

/-- PDONE (R154): every result of fixed latency lands, the record is stored and the course leaves; of a pair the two
courses leave when both have executed it (R223). A page fault of the area holds the bundle back. -/
def State.pdone (s : State) (c : Nat) (pc : Word) (exec : Mask) : State :=
  let x := s.course c
  let q := s.areaReaches ((s.leavers c).map s.recordPlaces).flatten .write
  match q.1 with
  | some true =>
    let s1 := q.2.landAll c
    if x.pre.isSome && s1.partnerStays c then
      s1.onCourse c fun y => { y with pre := y.pre.map fun p => { p with left := true } }
    else (s1.leavers c).foldl State.goAway s1
  | none => q.2.areaFault c
  | some false => q.2.onCourse c fun y => y.onLanes exec fun _ l => { l with lpc := pc, st := .ready }

def execPdone (s : State) : Host.Outcome State Fault Refusal :=
  gated .pdone s fun s => s.finishIssue.pdone s.iss.course s.iss.pc s.iss.exec

/-! ## The deadline and forced saves (R221 to R226) -/

/-- The dispatcher raises PRE in a course (R221); without a handler it is force-saved at the request, and a pair, which is
saved as one unit, when one of its courses has none (R33, R225). -/
def State.raisePre (s : State) (c : Nat) : State :=
  let x := s.course c
  let bare := (s.unit c).any fun d => (s.course d).pres == .resident && (s.course d).handler == 0
  if x.pres != .resident || x.pre.isSome then s
  else s.onCourse c fun y =>
    { y with pre := some ⟨s.time + (s.ctx x.info.ctx).pdl * 1000, false, false, bare, false⟩ }

/-- The deadline passes: without a PDONE selected the course, and its partner, are to be force-saved. -/
def State.deadline (s : State) (c : Nat) : State :=
  match (s.course c).pre with
  | some p =>
    if p.force || p.met || s.time < p.deadline then s
    else
      -- a partner that has executed PDONE is force-saved with it (R223)
      let one (s : State) (d : Nat) : State := s.onCourse d fun y =>
        { y with pre := match y.pre with
                   | some q => some { q with force := true }
                   | none => if y.pres == .resident then some ⟨p.deadline, true, false, true, false⟩ else none }
      (s.unit c).foldl one s
  | none => s

def execPreemptDeadlineExpiry (course : Nat) (s : State) : Host.Outcome State Fault Refusal :=
  .next (match (s.course course).pre with
    | some p => if p.force || p.met then s else (s.reachTime p.deadline).deadline course
    | none => s)

/-- Whether a course that is to be force-saved has come to rest: its counters are 0, and no scalar or result of MACL is still
to be written (R226, R299). -/
def Course.settled (x : Course) : Bool :=
  x.outs.isEmpty && x.req.isNone && !x.maclOut && !(x.ops.any fun o => match o.kind with | .sld _ => true | _ => false)

/-- The V registers as a forced save leaves them: in the backing area, and the entry of a register that was mapped
marked for the resume. -/
def VEntry.saved (e : VEntry) : VEntry :=
  match e.st with
  | .unmapped => e
  | .mapped => { e with st := .spilled, xfer := .spilling }
  | .spilled => { e with xfer := .none }

/-- Every mapped register written to the backing area (R60, R226). -/
def State.backRegs (s : State) (c : Nat) : State :=
  let x := s.course c
  x.v.zipIdx.foldl (fun s p => if p.1.st == .mapped then s.putBacking (c, p.2) p.1 else s) s

/-- Bytes of a course's context area (R533). -/
def areaSize (die rdn rds : Nat) : Nat :=
  if Config.isTower die then 0x18400 else 0x8800 + (if 0 < rds then (rdn + 1) * 8192 else 0)

def CourseInfo.areaSize (i : CourseInfo) : Nat := Sys2Proof.Machine.areaSize i.die i.rdn i.rds

/-- The forced save of one course (R226): with a handler running that is to be entered again, the frame of its trap; else
the state as it stands, a handler that goes on keeping the frame of its trap. -/
def State.forceSave (s : State) (c : Nat) : State :=
  let s0 := s.landAll c
  let x := s0.course c
  let f := match x.frame with
    | some f => if x.hnd && x.handler != 0 then f else x.frameOf 0
    | none => x.frameOf 0
  ((s0.onCourse c fun y => { y with under := if y.hnd && y.handler == 0 then y.frame else none }).backRegs c).storeRecord c f
    |>.leave c .forced (x.v.map VEntry.saved) (some f)

def execForcedSave (course : Nat) (s : State) : Host.Outcome State Fault Refusal :=
  .next (let cs := (s.unit course).filter fun c => (s.course c).pres == .resident
    let due (c : Nat) : Bool := match (s.course c).pre with | some p => p.force && (s.course c).settled | none => false
    if cs.isEmpty || !(cs.all due) then s
    else
      let one (acc : Option Bool × State) (c : Nat) : Option Bool × State :=
        let i := (acc.2.course c).info
        let r := acc.2.areaReach c i.ctxa i.areaSize .write
        (match acc.1, r.1 with | some a, some b => some (a && b) | _, _ => none, r.2)
      let r := cs.foldl one (some true, s)
      match r.1 with
      | some true => cs.foldl State.forceSave r.2
      | some false => r.2
      | none => r.2.areaFault course)

/-! ## Resumption (R224, R226, R385) -/

/-- Registers that the resume of a course maps again (R226, R415). -/
def Course.toMap (x : Course) : Nat := (x.v.filter fun e => e.st == .spilled && e.xfer == .spilling).length

/-- Room in the pool for the registers that some courses bring back: true when there is enough or nothing can be spilled for
it, else spills have been started (R59, R226; log entry 114). -/
def State.makeRoom (s : State) (cs : List Nat) : Bool × State :=
  match cs with
  | [] => (true, s)
  | c :: _ =>
    let k := (s.course c).coreKey
    let here := (s.residents k).map (·.1)
    let short := sumList (cs.map fun d => (s.course d).toMap) - s.poolFree k
    if short = 0 then (true, s)
    else
      let t := s.spillMany c false [] (short - s.spilling here)
      (t.spilling here = 0, t)

/-- The register whose backing copy the resume restores; it stays spilled when the pool has no room. -/
def State.refill (s : State) (c v : Nat) : State :=
  let x := s.course c
  let e := x.ve v
  if e.st != .spilled || e.xfer != .spilling then s
  else
    let l := s.backing (c, v)
    let vals : Lanes := (List.range x.w).map fun i =>
      .ofNat 32 (leVal (s.getBytes x.info.ctx (l.1 + .ofNat 64 (4 * i)) 4))
    let live : Mask := .ofNat 64 (leVal (s.getBytes x.info.ctx l.2 8))
    let tag := tagOf (leVal (s.getBytes x.info.ctx (l.2 + 8) 1) % 16)
    let st : VSt := if 0 < s.poolFree x.coreKey then .mapped else .spilled
    (s.useBacking (c, v)).onCourse c fun y =>
      { y with v := setAt v { e with st := st, xfer := .none, vals := vals, live := live, tag := tag,
                                     stamp := s.clkOf c } y.v }

/-- The handler of a resumed course (R224, R226): the record's trap registers under a new cause, with the frame of the
trap; the cause that entered the handler is now RESUME or FORCED (R154). -/
def State.enterResumed (s : State) (c code : Nat) (x : Course) (f : Frame) (tsb : DWord) : State :=
  if x.handler = 0 then
    (s.setCourse c { x with pres := .resident }).dieByTrap c 0x02 (.ofNat 64 code) (x.trap.tlpc.setWidth 64)
  else s.setCourse c
    { x.atHandler x.handler with
      pres := .resident, frame := some { f with cause := code }, lost := false,
      trap := { x.trap with tcause := tcauseOf code 0 x.lost, tsb := tsb } }

/-- The course goes on from its recorded state, in a handler when it stopped in one (R226). -/
def Course.continued (x : Course) (f : Frame) : Course :=
  let y : Course := { x with frame := some f, trap := { x.trap with tlanes := 0 } }
  let z := y.eret
  { z with pres := .resident, trap := x.trap, frame := x.under, under := none }

/-- The core reads the record of a course, and the rays of a Dome course: their lines are asked for, and have passed through
the die caches (R454, R474). -/
def State.useRecord (s : State) (c : Nat) : State :=
  let x := s.course c
  let l := (x.info.ctxa, 4096) :: (if x.tower then [] else [(x.info.ctxa + 0x8400, 1024)])
  l.foldl (fun s p => s.useBytes x.info.ctx p.1 p.2) (s.areaReqs x.info.die x.info.ctx l)

/-- One course is loaded again on its core. -/
def State.resumeOne (s : State) (c : Nat) : State :=
  let forced := (s.course c).pres == .forced
  let s := s.useRecord c
  let r := s.recall c
  let hnd := r.1.hnd
  let s1 : State :=
    if !forced then s.enterResumed c resumeCode r.1 r.2 r.1.trap.tsb
    else if hnd && r.1.handler != 0 && r.1.under.isNone then s.enterResumed c forcedCode r.1 r.2 (.ofNat 64 (r.2.cause % 256))
    else s.setCourse c (r.1.continued r.2)
  (List.range 64).foldl (fun s v => s.refill c v) s1

/-- The courses of a unit that are to be resumed: their block has been admitted again. -/
def State.resumable (s : State) (c : Nat) : Bool :=
  let x := s.course c
  (x.pres == .away || x.pres == .forced) &&
    (match s.block? x.info.block with | some b => b.state == .resident | none => false)

def execCourseResume (course : Nat) (s : State) : Host.Outcome State Fault Refusal :=
  .next (let cs := (s.unit course).filter s.resumable
    let one (acc : Option Bool × State) (c : Nat) : Option Bool × State :=
      let i := (acc.2.course c).info
      let r := acc.2.areaReach c i.ctxa i.areaSize .read
      (match acc.1, r.1 with | some a, some b => some (a && b) | _, _ => none, r.2)
    let r := cs.foldl one (some true, s)
    match r.1 with
    | some true =>
      let q := r.2.makeRoom cs
      if q.1 then cs.foldl State.resumeOne q.2 else q.2
    | some false => r.2
    | none => r.2.areaFault course)

end Sys2Proof.Machine
end

