-- ==== Sys2Proof/Machine/Tasks.lean ====
section
/-! DEFINITION. Task records and their submission, queues, the slot-3 instructions of tasks and continuations, and
the dispatcher's events for them (R373 to R375, R379, R380, R387, R394 to R425, R537). -/

namespace Sys2Proof.Machine

/-! ## Reading for the dispatcher -/

/-- What the dispatcher finds when it reads or writes at a virtual address. -/
inductive DRead where
  | bytes (l : List Byte)
  | wait (uid : Nat)
  | fail (sub : Nat)
  deriving DecidableEq, Repr

/-- Whether some line of bytes at their homes has failed (R455). -/
def State.bytesBad (s : State) (ctx : Nat) (va : DWord) (n : Nat) : Bool :=
  !s.sound && (List.range ((va.toNat % 64 + n + 63) / 64)).any fun i =>
    match (s.hwPa ctx (.ofNat 64 (va.toNat / 64 * 64 + 64 * i)) .read).1 with
    | some pa => s.lineFailed (lineOf pa)
    | none => false

/-- n bytes at their homes: every page translates, and lies in memory of the package. The manual gives a failed line no
subcode here (log entry 103). -/
def State.dispRead (s : State) (ctx die : Nat) (lnch : Word) (va : DWord) (n : Nat) (use : Use) (flt : Option Nat) :
    DRead × State :=
  if inAperture va then (.fail 0, s)
  else
    let r := s.reachAll ctx va n use die lnch flt
    match r.1 with
    | .wait u => (.wait u, r.2)
    | .fail k => (.fail k, r.2)
    | .pa _ =>
      let first := va.toNat / 4096 * 4096
      let ok := (List.range ((va.toNat % 4096 + n + 4095) / 4096)).all fun i =>
        (r.2.hwPa ctx (.ofNat 64 (first + 4096 * i)) use).1.isSome
      if !ok then (.fail 2, r.2)
      else if use == .read && r.2.bytesBad ctx va n then let k := r.2.choose 4; (.fail k.1, k.2)
      else if use == .read then (.bytes (r.2.getBytes ctx va n), r.2.useBytes ctx va n)
      else (.bytes [], r.2)

/-- A little-endian number in a record. -/
def byteAt (bs : List Byte) (i n : Nat) : Nat := leVal ((bs.drop i).take n)
/-- Whether bytes i to j - 1 of a record are 0. -/
def zeroAt (bs : List Byte) (i j : Nat) : Bool := ((bs.drop i).take (j - i)).all (· == 0)

/-! ## Checks that packets and records share (R387, R380, R533) -/

/-- CSIG and CTRL (R387 reason 3). -/
def sigOk (csig ctrl : Nat) : Bool :=
  csig % 8 = 0 && ctrl % 4 ≤ 2 && (csig = 0 || (3 ≤ ctrl / 4 % 8 && ctrl / 4 % 8 ≤ 5)) && ctrl / 2 ^ 6 = 0

/-- Pages of the context area of one course. -/
def areaPages (die rdn rds : Nat) : Nat := (areaSize die rdn rds + 4095) / 4096

/-- Courses of a block, shadows included (R31). -/
def Attr.courses (a : Attr) : Nat := if a.shd = 0 then a.ncrs else 2 * a.ncrs

/-- NCRS, FLOOR, SPK and the context areas of one block (R387 reason 5). -/
def attrOk (s : State) (ctx die : Nat) (a : Attr) : Bool :=
  let tower := Config.isTower die
  1 ≤ a.ncrs && a.ncrs ≤ Config.blockCourses tower && 16 ≤ a.floor && a.floor ≤ 64 &&
    a.spk ≤ (if tower then 4096 else 512) && a.courses * areaPages die a.rdn a.rds ≤ (s.ctx ctx).capsize

/-- The entry attributes of an EATTR word (R380). -/
def eattrOk (e : DWord) : Bool := !e.getLsbD 16 && fld e 20 4 ≤ 8 && fld e 24 9 ≤ 256 && fld e 33 31 = 0
def Attr.withEattr (a : Attr) (e : DWord) : Attr :=
  { a with shd := .ofNat 16 (fld e 0 16), strm := e.getLsbD 16, rdn := fld e 17 3, rdp := fld e 20 4, rds := fld e 24 9 }

/-! ## Task records (R396, R397) -/

def keyEntryAt (bs : List Byte) (e : Nat) : KeyEntry :=
  { key := byteAt bs (128 + 16 * e) 4 % 2 ^ 18, shared := byteAt bs (128 + 16 * e) 4 / 2 ^ 18 % 2 = 1,
    len := byteAt bs (132 + 16 * e) 4, base := .ofNat 64 (byteAt bs (136 + 16 * e) 8), held := false }

def recKeys (bs : List Byte) : List KeyEntry := (List.range (min (byteAt bs 20 1) 8)).map (keyEntryAt bs)

def recAttr (bs : List Byte) : Attr :=
  let a : Attr :=
    { entry := .ofNat 32 (byteAt bs 8 4), ncrs := byteAt bs 12 1, floor := byteAt bs 13 1, regcap := byteAt bs 14 2,
      spk := byteAt bs 16 2, tvec := .ofNat 32 (byteAt bs 28 4), shd := 0, strm := false, rdn := 0, rdp := 0, rds := 0,
      args := [.ofNat 64 (byteAt bs 32 8), .ofNat 64 (byteAt bs 40 8)] }
  a.withEattr (.ofNat 64 (byteAt bs 80 8))

/-- The die a task runs on. -/
def recDie (bs : List Byte) : Nat := match recKeys bs with | k :: _ => k.key % 4 | [] => byteAt bs 24 1

/-- A bound region lies wholly in one half of the address space. -/
def regionOk (k : KeyEntry) : Bool :=
  canonical k.base &&
    (k.len = 0 ||
      (k.base.toNat + k.len - 1 < 2 ^ 64 && canonical (k.base + .ofNat 64 (k.len - 1)) &&
        (k.base + .ofNat 64 (k.len - 1)).getLsbD 56 == k.base.getLsbD 56))

/-- The reason of the first check that a record fails, the free page apart. -/
def State.recReason (s : State) (ctx : Nat) (bs : List Byte) : Option Nat :=
  let ks := recKeys bs
  let a := recAttr bs
  let n := byteAt bs 20 1
  let used := 128 + 16 * ks.length
  if !(zeroAt bs 25 28 && zeroAt bs 88 128 && zeroAt bs used 256 &&
      ((List.range ks.length).all fun e => byteAt bs (128 + 16 * e) 4 / 2 ^ 19 == 0) && ks.all regionOk &&
      sigOk (byteAt bs 48 8) (byteAt bs 60 4)) then some 1
  else if !(a.entry.toNat % 16 = 0 && a.tvec.toNat % 16 = 0 && byteAt bs 22 1 ≤ 23 && (0 < n || byteAt bs 24 1 ≤ 3) &&
      attrOk s ctx (recDie bs) a && eattrOk (.ofNat 64 (byteAt bs 80 8))) then some 2
  else if !(n ≤ byteAt bs 23 1 && byteAt bs 23 1 ≤ 8 && byteAt bs 21 1 ≤ 4) then some 3
  else if !(ks.all fun k => k.key % 4 == recDie bs) then some 4
  else if (ks.map (·.key)).eraseDups.length ≠ ks.length then some 5
  else none

/-- What a submission gives. -/
inductive Submit where
  | accepted (h : BitVec 32)
  | rejected (reason : Nat)
  | wait (uid page : Nat)
  deriving DecidableEq, Repr

/-- A page of the pool with bytes written to it from an offset; a failure is logged as RPFLT and the page stays free
(R395, R425, R537). -/
def State.takePage (s : State) (ctx die : Nat) (lnch : Word) (fromReserve : Bool) (off : Nat) (bs : List Byte)
    (flt kept : Option Nat) : Except (Option (Nat × Nat)) Nat × State :=
  match s.allocPage ctx fromReserve kept with
  | none => (.error none, s)
  | some (j, s1) =>
    let page := pageVa (s.ctx ctx) j
    let va := page + .ofNat 64 off
    let r := s1.dispRead ctx die lnch va bs.length .write flt
    match r.1 with
    | .bytes _ => (.ok j, r.2.putBytes ctx va bs)
    -- the page stays free, and is the one that the record takes when the fault is served
    | .wait u => (.error (some (u, j)), { r.2 with ctxs := s.ctxs })
    | .fail sub => (.error none, { r.2 with ctxs := s.ctxs }.errEntry ctx die 0xFFFF lnch 0x14 page (.ofNat 64 sub))

/-- The core set of a task: that of the submitting block or slot when it lies on the task's die, else every core
(R405). -/
def taskSet (home die cfirst ccnt : Nat) (slot : Option Nat) : Nat × Nat × Option Nat :=
  if home = die then (cfirst, ccnt, slot) else (0, Config.cores die, none)

/-- Submission of the 256 bytes of a task record (R397, R399). -/
def State.submit (s : State) (ctx home : Nat) (lnch : Word) (bs : List Byte) (cfirst ccnt : Nat) (slot : Option Nat)
    (pkt : Option Nat) (flt kept : Option Nat) : Submit × State :=
  match s.recReason ctx bs with
  | some n => (.rejected n, s)
  | none =>
    if (s.ctx ctx).rpfree = 0 then (.rejected 6, s)
    else
      let r := s.takePage ctx home lnch false 0 bs flt kept
      match r.1 with
      | .error (some u) => (.wait u.1 u.2, r.2)
      | .error none => (.rejected 6, r.2)
      | .ok j =>
        let die := recDie bs
        let h := (s.ctx ctx).handle j die
        let set := taskSet home die cfirst ccnt slot
        let u := r.2.fresh
        let t : Task :=
          { handle := h, ctx := ctx, page := some j, die := die, state := .pending, dep := byteAt bs 18 2,
            prio := byteAt bs 22 1, keys := recKeys bs,
            succ := (List.range (byteAt bs 21 1)).map fun i => .ofNat 32 (byteAt bs (64 + 4 * i) 4),
            csig := .ofNat 64 (byteAt bs 48 8), cval := .ofNat 32 (byteAt bs 56 4), ctrl := .ofNat 32 (byteAt bs 60 4),
            attr := recAttr bs, cfirst := set.1, ccnt := set.2.1, slot := set.2.2, block := none, pkt := pkt,
            graph := none, emits := [], resv := 0, share := false, pageShare := none, born := u.1, lnch := 0 }
        let s1 : State := { u.2 with tasks := u.2.tasks ++ [(u.1, t)] }
        (.accepted h, if t.dep = 0 then s1.enterKeywait u.1 else s1)

/-! ## Queues (R373 to R375) -/

def State.onQ (s : State) (ctx q : Nat) (f : Queue → Queue) : State :=
  s.onCtx ctx fun c => match tget q c.queues with
    | some x => { c with queues := tset q (f x) c.queues }
    | none => c

/-- Acceptance of a 64-byte packet: 0 accepted, 1 retry, 2 no such queue. -/
def State.enqueue (s : State) (ctx q : Nat) (bs : List Byte) : Nat × State :=
  match tget q (s.ctx ctx).queues with
  | none => (2, s)
  | some x =>
    if 2 ^ x.k ≤ x.wr - x.rd || x.state == .draining || x.state == .error then (1, s)
    else
      let w := s.hwWrite ctx (x.ring + .ofNat 64 (64 * (x.wr % 2 ^ x.k))) bs
      if w.1 then (0, w.2.onQ ctx q fun y => { y with wr := y.wr + 1 }) else (1, w.2)

/-! ## Issue (R416, R417) -/

def State.request (s : State) (r : DReq) : State :=
  s.onCourse s.iss.course fun x => { x with req := some (s.iss.pc, r) }

def execTsub (m : Bool) (a : BitVec 5) (st : State) : Host.Outcome State Fault Refusal :=
  slot3 (.tsub m a) st fun s => s.request (.tsub (s.sIn a))

def execEmit (m : Bool) (a : BitVec 5) (i : BitVec 4) (st : State) : Host.Outcome State Fault Refusal :=
  slot3 (.emit m a i) st fun s => s.request (.emit (s.sIn a) i.toNat)

/-- QSUB: a result in the renamed file has its register from the issue on. -/
def execQsub (m : Bool) (d : BitVec 7) (a b : BitVec 5) (st : State) : Host.Outcome State Fault Refusal :=
  slot3 (.qsub m d a b) st fun s =>
    let s1 := if d.toNat < 64 then (s.addFlight s.iss.course d.toNat s.iss.g3 [] .uw 0 none).2 else s
    s1.request (.qsub (s.sIn a) (s.sIn b) d s.iss.g3)

/-- The decrement or release that the issuing course sends off. -/
def State.onWay (s : State) (arg : DWord) (after : List Nat) : OnWay :=
  let i := s.iss.src.info
  { id := s.uid, course := s.iss.course, block := i.block, ctx := i.ctx, core := (i.die, i.core), lnch := i.lnch,
    arg := arg, after := after }

/-- TDEP (R419): the decrement goes to the handle's die, behind the accesses of the course. -/
def execTdep (m : Bool) (a : BitVec 5) (st : State) : Host.Outcome State Fault Refusal :=
  slot3 (.tdep m a) st fun s =>
    let w := s.onWay (s.sIn a) ((s.course s.iss.course).ops.map (·.id))
    s.fresh.2.onDie (fld (s.sIn a) 30 2) fun d => { d with tdeps := d.tdeps ++ [w] }

/-- The accesses to memory that the courses of a block have outstanding, those of their copies, collectives and matrix
commands among them (R422, R437, R438). -/
def State.blockAccesses (s : State) (b : Nat) : List Nat :=
  ((s.courses.filter fun c => c.2.info.block == b).map fun c =>
    ((c.2.ops.filter fun o => o.reads || o.writes).map (·.id)) ++
      ((c.2.outs.filter fun o => (o.cnt == 2 || o.cnt == 3) && !o.done).map (·.id))).flatten

/-- KEYREL (R422). -/
def execKeyrel (m : Bool) (a : BitVec 5) (st : State) : Host.Outcome State Fault Refusal :=
  slot3 (.keyrel m a) st fun s =>
    let i := s.iss.src.info
    let w := s.onWay (s.sIn a) (s.blockAccesses i.block)
    (s.fresh.2.visible i.block).onDie i.die fun d => { d with keyrels := d.keyrels ++ [w] }

/-! ## Decrements and releases take effect (R400, R407, R419, R422) -/

/-- Whether none of some operations is outstanding any more. -/
def State.allPerformed (s : State) (ids : List Nat) : Bool :=
  !(s.courses.any fun c => (c.2.ops.any fun o => ids.contains o.id) ||
    (c.2.outs.any fun o => !o.done && ids.contains o.id))

def State.landTdep (s : State) (die : Nat) : State :=
  match (s.die die).tdeps.find? fun w => s.allPerformed w.after with
  | none => s
  | some w =>
    let s1 := s.onDie die fun d => { d with tdeps := d.tdeps.filter fun x => x.id != w.id }
    ((s1.release w.core w.block 4).visible w.block).decrement w.ctx die w.lnch (w.arg.setWidth 32) (fld w.arg 32 32 != 0)

def execTdepDecrement (die : Nat) (s : State) : Host.Outcome State Fault Refusal := .next (s.landTdep die)

def State.landKeyrel (s : State) (die k : Nat) : State :=
  match (s.die die).keyrels.find? fun w => w.id == k with
  | none => s
  | some w =>
    if !s.allPerformed w.after then s
    else
      let s1 := s.onDie die fun d => { d with keyrels := d.keyrels.filter fun x => x.id != k }
      match s1.block? w.block with
      | none => s1
      | some b => match b.task with
        | none => s1
        | some t => match tget t s1.tasks with
          | none => s1
          | some tk => match tk.keys.findIdx? fun e => e.held && e.key == w.arg.toNat with
            | none => s1
            | some e => (s1.releaseKey t e w.block w.core.2).grants

def execKeyrelEffect (die k : Nat) (s : State) : Host.Outcome State Fault Refusal := .next (s.landKeyrel die k)

/-- TASK_GRANT: the heads that a grant leaves are tested at once (R404). -/
def execTaskGrant (task : Nat) (s : State) : Host.Outcome State Fault Refusal := .next (s.grant task).grants

/-! ## The dispatcher's answers (R417 to R423) -/

/-- The course issues again. -/
def State.answered (s : State) (c : Nat) : State :=
  s.onCourse c fun x => { x with req := none, fetch := none, area := none, page := none }

def State.reqWaits (s : State) (c u : Nat) : State := s.onCourse c fun x => { x with fetch := some u }
def State.pageWaits (s : State) (c u page : Nat) : State := s.onCourse c fun x => { x with area := some u, page := some page }

/-- HANDLE and REASON of a record. -/
def resultBytes (h : BitVec 32) (reason : Nat) : List Byte := leBytes 4 h.toNat ++ leBytes 4 reason

/-- HANDLE and REASON written for a course: at their home, and into the copy of the line that the L1 of its core holds, so that
its later loads see them (R417). -/
def State.putResult (s : State) (c : Nat) (addr : DWord) (bs : List Byte) : State :=
  let x := s.course c
  let s1 := s.putBytes x.info.ctx addr bs
  match (s1.hwPa x.info.ctx addr .write).1 with
  | some pa => s1.patchL1 x.coreKey pa bs
  | none => s1

/-- TSUB (R418). -/
def State.doTsub (s : State) (c : Nat) (pc : Word) (addr : DWord) : State :=
  let x := s.course c
  let i := x.info
  let r := s.dispRead i.ctx i.die i.lnch addr 256 .read x.fetch
  match r.1 with
  | .wait u => r.2.reqWaits c u
  | .fail n => (r.2.answered c).accError c n addr pc x.hnd
  | .bytes bs =>
    let w := r.2.dispRead i.ctx i.die i.lnch addr 8 .write x.fetch
    match w.1 with
    | .wait u => w.2.reqWaits c u
    | .fail n => (w.2.answered c).accError c n addr pc x.hnd
    | .bytes _ =>
      let set : Nat × Nat × Option Nat := match w.2.block? i.block with
        | some b => (b.cfirst, b.ccnt, b.slot)
        | none => (0, Config.cores i.die, none)
      let t := w.2.submit i.ctx i.die i.lnch bs set.1 set.2.1 set.2.2 none x.area x.page
      match t.1 with
      | .wait u j => t.2.pageWaits c u j
      | .rejected n => (t.2.putResult c addr (resultBytes 0xFFFFFFFF n)).answered c
      | .accepted h => (t.2.putResult c addr (resultBytes h 0)).answered c

/-- QSUB (R423): the status in the lanes that executed it. -/
def State.qsubResult (s : State) (c : Nat) (d : Code) (m : Mask) (status : Nat) : State :=
  let x := s.course c
  let vals : Lanes := List.replicate x.w (.ofNat 32 status)
  let s1 := s.answered c
  if d.toNat < 64 then
    match x.flights.reverse.find? fun f => f.v == some d.toNat && !f.release && !f.ready && f.due.isNone with
    | none => s1
    | some f =>
      (s1.onCourse c fun y => { y with flights := y.flights.map fun g =>
        if g.id = f.id then { g with mask := m, vals := vals } else g }).landFlight c f.id
  else s1.onCourse c fun y => { y with o := modAt (d.toNat - 64) (fun r => r.merge y.w m vals .uw) y.o }

def State.doQsub (s : State) (c : Nat) (pc : Word) (addr handle : DWord) (d : Code) (m : Mask) : State :=
  let x := s.course c
  let i := x.info
  let r := s.dispRead i.ctx i.die i.lnch addr 64 .read x.fetch
  match r.1 with
  | .wait u => r.2.reqWaits c u
  | .fail n => (r.2.qsubResult c d m 1).accError c n addr pc x.hnd
  | .bytes bs =>
    let h := handle.toNat % 2 ^ 32
    if h / 64 % 4 ≠ 0 || h / 2 ^ 24 ≠ 0 || h / 256 % 2 ^ 16 ≠ i.ctx then r.2.qsubResult c d m 2
    else
      let e := r.2.enqueue i.ctx (h % 64) bs
      (if e.1 = 0 then e.2.progress i.die i.ctx else e.2).qsubResult c d m e.1

/-- A failed EMIT (R420). -/
def State.emitFails (s : State) (c i status : Nat) : State := (s.answered c).asyncErr c 3 i status

/-- The block of a graph that an emission readies. -/
def graphTask (u ctx die : Nat) (prio : Nat) (g node : Nat) (n : Node) (input : DWord) (cfirst ccnt : Nat)
    (slot : Option Nat) (pkt : Nat) (lnch : Word) (page : Option Nat) (share : Option (Nat × Nat)) : Task :=
  { handle := 0, ctx := ctx, page := page, die := die, state := .keywait, dep := 0, prio := prio, keys := [],
    succ := [], csig := 0, cval := 0, ctrl := 0,
    attr := { n.attr with args := input :: n.attr.args }, cfirst := cfirst, ccnt := ccnt, slot := slot, block := none,
    pkt := some pkt, graph := some (g, node), emits := n.outs.map fun _ => 0, resv := 0, share := false,
    pageShare := share, born := u, lnch := lnch }

/-- A block joins a graph. -/
def State.addGraphBlock (s : State) (g : Nat) (t : Task) : State :=
  let s1 : State := { s with tasks := s.tasks ++ [(t.born, t)] }
  let s2 := match t.pkt with | some p => s1.onPkt p fun x => { x with alive := x.alive + 1 } | none => s1
  match tget g s2.graphs with
  | some gr => { s2 with graphs := tset g { gr with live := gr.live + 1 } s2.graphs }
  | none => s2

/-- EMIT (R420): the payload goes to a new page, and a block of the target node is ready. -/
def State.doEmit (s : State) (c : Nat) (addr : DWord) (i : Nat) : State :=
  let x := s.course c
  let f := x.info
  let owner : Option (Nat × Task) := match s.block? f.block with
    | some b => match b.task with
      | some t => (tget t s.tasks).map fun k => (t, k)
      | none => none
    | none => none
  match owner with
  | none => s.emitFails c i 1
  | some (t, tk) => match tk.graph with
    | none => s.emitFails c i 1
    | some (g, node) => match tget g s.graphs with
      | none => s.emitFails c i 1
      | some gr =>
        let nd := gr.nodes[node]?
        match nd.bind fun n => n.outs[i]? with
        | none => s.emitFails c i 2
        | some (target, emax) =>
          if emax ≤ tk.emits.getD i 0 then
            (s.errEntry f.ctx f.die f.core f.lnch 0x13 (.ofNat 64 node) (.ofNat 64 i)).emitFails c i 3
          else match gr.nodes[target]? with
            | none => s.emitFails c i 2
            | some tn =>
              let r := s.dispRead f.ctx f.die f.lnch addr tn.psz .read x.fetch
              match r.1 with
              | .wait u => r.2.reqWaits c u
              | .fail _ => r.2.emitFails c i 4
              | .bytes bs =>
                let p := r.2.takePage f.ctx f.die f.lnch true 256 bs x.area x.page
                match p.1 with
                | .error (some u) => p.2.pageWaits c u.1 u.2
                | .error none => p.2.emitFails c i 4
                | .ok j =>
                  let u := p.2.fresh
                  let share := if tk.share then some (g, node) else none
                  let nt := graphTask u.1 f.ctx tk.die tk.prio g target tn (pageVa (s.ctx f.ctx) j + 256) tk.cfirst tk.ccnt
                    tk.slot gr.pkt tk.lnch (some j) share
                  ((u.2.onTask t fun k => { k with emits := modAt i (· + 1) k.emits, resv := k.resv - 1 }).addGraphBlock g
                    nt).answered c

/-- DISPATCHER_RESULT_WRITTEN: once the accesses of the course are performed, its release takes place and the
dispatcher acts (R417). -/
def State.dispatch (s : State) (c : Nat) : State :=
  match s.course? c with
  | none => s
  | some x => match x.req with
    | none => s
    | some (pc, r) =>
      if !x.ops.isEmpty then s
      else
        let s1 := (s.release x.coreKey x.info.block 4).visible x.info.block
        match r with
        | .tsub a => s1.doTsub c pc a
        | .emit a i => s1.doEmit c a i
        | .qsub a h d m => s1.doQsub c pc a h d m

def execDispatcherResultWritten (course : Nat) (s : State) : Host.Outcome State Fault Refusal :=
  .next (s.dispatch course)

/-! ## Graph blocks are bound (R411, R412) -/

/-- Pages that a block of a node reserves. -/
def Node.reservation (n : Node) : Nat := sumList (n.outs.map (·.2))

def State.nodeOf (s : State) (t : Task) : Option Node := match t.graph with
  | some (g, n) => match tget g s.graphs with
    | some gr => gr.nodes[n]?
    | none => none
  | none => none

/-- Where a graph block would reserve its pages: none when it has to wait; true from its node's share. -/
def State.reserveFrom (s : State) (t : Task) : Option Bool :=
  match s.nodeOf t with
  | none => none
  | some n =>
    if n.reservation ≤ (s.ctx t.ctx).rpfree then some false
    else if !n.shareHeld && n.reservation ≤ n.share then some true
    else none

/-- The graph block of a die that is bound next: the deepest, then the oldest. -/
def State.nextGraphBlock (s : State) (die : Nat) : Option (Nat × Task) :=
  minBy (fun t => (255 - (match s.nodeOf t.2 with | some n => n.depth | none => 0)) * 2 ^ 64 + t.2.born)
    (s.tasks.filter fun t => t.2.die == die && t.2.graph.isSome && t.2.state == .keywait)

def State.bindGraphBlock (s : State) (die id : Nat) : State :=
  match s.nextGraphBlock die with
  | none => s
  | some (t, tk) =>
    if t ≠ id then s
    else match s.reserveFrom tk, s.nodeOf tk with
      | some share, some n =>
        let c := s.taskCore tk
        if 8 ≤ (s.boundList die c.1).length then s
        else
          let s1 : State := match share, tk.graph with
            | true, some (g, k) => c.2.onNode g k fun n => { n with share := n.share - n.reservation, shareHeld := true }
            | _, _ => c.2.onCtx tk.ctx fun x => { x with reserved := x.reserved + n.reservation }
          let b := s1.newBlock tk.ctx die c.1 tk.lnch 0 tk.attr tk.cfirst tk.ccnt tk.slot tk.prio tk.pkt (some t)
          (b.2.onTask t fun x => { x with state := .bound, block := some b.1, resv := n.reservation, share := share }).tryBind
            b.1
      | _, _ => s

def execGraphBlockBind (die block : Nat) (s : State) : Host.Outcome State Fault Refusal :=
  .next (s.bindGraphBlock die block)

end Sys2Proof.Machine
end

