-- ==== Sys2Proof/Machine/Contin.lean ====
section
/-! DEFINITION. CONT, the wake of a continuation and its resumption, and the areas and limits that admission tests
(R252, R286, R413 to R415, R421, R533). -/

namespace Sys2Proof.Machine

/-! ## CONT (R413, R421) -/

/-- The 16 lowest set bits of a register mask. -/
def contRegs (v : DWord) : List Nat := ((List.range 64).filter fun i => v.getLsbD i).take 16

/-- The record of a continuation, which carries no O register, no J mask and no descriptor set; with kind 0 the wake object
is the descriptor, stored once it is read (R413). -/
def Course.contRecord (x : Course) (kind sreg : Nat) (obj regs : DWord) (lanes : Mask) (resume : Word) :
    List (Nat × List Byte) :=
  let n2 := x.n 2
  (x.record (x.frameOf 0)).filter (fun p => !([0x380, 0x4C0, 0x600, 0xE00].contains p.1)) ++
    (if kind = 0 then [] else [(0xE08, leBytes 8 obj.toNat ++ leBytes 8 0)]) ++
    [(0xE00, leBytes 8 (kind + sreg * 256)), (0xE18, leBytes 8 regs.toNat), (0xE20, leBytes 8 lanes.toNat),
     (0xE28, leBytes 4 resume.toNat), (0xE2C, leBytes 4 n2)]

/-- The named registers go to the backing area, the others are unmapped (R60, R415). -/
def Course.contMap (x : Course) (regs : List Nat) : List VEntry :=
  x.v.zipIdx.map fun p => if regs.contains p.2 then p.1.saved else VEntry.empty

/-- Whether the wake object of a continuation cannot exist when CONT issues (R414). -/
def State.noObject (s : State) (c kind : Nat) (obj : DWord) : Bool :=
  match kind with
  | 0 => obj.toNat % 16 != 0
  | 1 => false
  | _ => (s.queue? (s.course c) (fld obj 0 4)).isNone

def State.onContn (s : State) (c : Nat) (f : Contn → Contn) : State :=
  match tget c s.conts with
  | some k => { s with conts := tset c (f k) s.conts }
  | none => s

/-- A wake descriptor. -/
def descOf (bs : List Byte) : WaitA :=
  { va := .ofNat 64 (byteAt bs 0 8), cond := .ofNat 2 (byteAt bs 12 1), t := .ofNat 32 (byteAt bs 8 4),
    acq := byteAt bs 13 1 / 8 % 2 = 1, scope := .ofNat 3 (byteAt bs 13 1 / 16), ext := byteAt bs 13 1 / 128 = 1,
    deadline := none, registered := false, flt := none, sent := none, got := none, gaveUp := false }

/-- The descriptor of a continuation of kind 0 is read into its record once the accesses before CONT are performed. -/
def State.readDesc (s : State) (c : Nat) (k : Contn) : State :=
  let x := s.course c
  if k.kind ≠ 0 || k.desc.isSome || k.lost || !x.ops.isEmpty then s
  else
    let r := s.dispRead x.info.ctx x.info.die x.info.lnch k.obj 16 .read x.fetch
    match r.1 with
    | .wait u => r.2.reqWaits c u
    | .fail n =>
      ((r.2.onContn c fun k => { k with lost := true }).accError c n k.obj (k.resume - 16) false).onCourse c fun y =>
        { y with fetch := none }
    | .bytes bs =>
      ((r.2.putArea c [(0xE08, bs)]).onContn c fun k => { k with desc := some (descOf bs) }).onCourse c fun y =>
        { y with fetch := none }

/-- The course suspends itself; the results of the other slots of its bundle have landed (R421). -/
def State.park (s : State) (c kind sreg : Nat) (obj named : DWord) (lanes : Mask) (resume : Word) : State :=
  let s0 := (s.landAll c).release (s.course c).coreKey (s.course c).info.block 3
  let out := (s0.course c).live &&& ~~~lanes
  let s1 := if out = 0 then s0 else s0.retire c out
  let x := s1.course c
  if x.pres != .resident then s1
  else
    let regs := contRegs named
    let mask : DWord := regs.foldl (fun m v => m ||| Mask.one v) 0
    let s2 := (s1.backRegs c).putArea c (x.contRecord kind sreg obj mask lanes resume ++ x.rayPiece)
    let k : Contn := { course := c, kind := kind, obj := obj, desc := none, mask := lanes, resume := resume, sreg := sreg,
                       lost := s2.noObject c kind obj, woken := none }
    let s3 := s2.leave c .parked (x.contMap regs) none
    let s4 := s3.onCourse c fun y => { y with staging := none, js := List.replicate 8 0 }
    ({ s4 with conts := s4.conts ++ [(c, k)] }.readDesc c k).settleBlock x.info.block

/-- CONT comes after the other slots of its bundle, and ends it. -/
def execCont (m : Bool) (a b : BitVec 5) (k : BitVec 2) (st : State) : Host.Outcome State Fault Refusal :=
  slot3 (.cont m a b k) st fun s =>
    let t := s.finishIssue
    if (t.course s.iss.course).pres != .resident then t
    else t.park s.iss.course k.toNat a.toNat (s.sIn a) (s.sIn b) (s.iss.g3 &&& (t.course s.iss.course).live) (s.iss.pc + 16)

/-! ## The wake (R414) -/

/-- The status with which a continuation wakes now, if it does. -/
def State.wakeStatus (s : State) (c : Nat) (k : Contn) : Option Nat × State :=
  let x := s.course c
  if !x.ops.isEmpty then (none, s)
  else if k.lost then (some 1, s)
  else match k.kind with
    | 1 => (if x.n 2 ≤ fld k.obj 0 16 then some 0 else none, s)
    | 2 => (match s.queue? x (fld k.obj 0 4) with
      | some q => if q.entries.isEmpty then none else some 0
      | none => some 1, s)
    | _ => match k.desc with
      | none => (none, s)
      | some w =>
        let keep (w : WaitA) (s : State) : State := s.onContn c fun k => { k with desc := some w }
        match w.got with
        | some v => (if waitCond w.cond v w.t then some 0 else none, keep { w with got := none } s)
        | none =>
          if w.sent.isSome then (none, s)
          else
            let p := s.peek c w.va w.flt
            match p.1 with
            | .word v =>
              (if waitCond w.cond v w.t then some 0 else none,
               keep { w with flt := none, registered := w.registered || p.2.register x.info.ctx w.va } p.2)
            | .fail _ => (some 1, p.2)
            | .bad => (some 1, p.2.hwError c 0 w.va)
            | .wait u => (none, keep { w with flt := some u } p.2)
            | .remote pa =>
              let a := p.2.askWord c 0 pa
              (none, keep { w with flt := none, sent := some a.1 } a.2)

/-! ## Admission limits (R252, R533) -/

/-- Resident-course entries of a core: courses on it or about to be resumed, and ended ones whose counters are not all
0 (R142). -/
def State.entries (s : State) (k : Nat × Nat) : Nat :=
  (s.courses.filter fun c => c.2.coreKey == k &&
    (c.2.pres == .resident || (c.2.pres == .ended && !c.2.gone) || s.resumable c.1)).length

/-- The floors counted against a core's pool: those of the units of which a course is resident or away, the whole pair
while either course of it is (R56, R57, R251). -/
def State.floors (s : State) (k : Nat × Nat) : Nat :=
  let here := s.courses.filter fun c =>
    c.2.coreKey == k && (c.2.pres == .resident || c.2.pres == .away || c.2.pres == .forced)
  sumList (((here.map fun c => (s.unit c.1).headD c.1).eraseDups).map s.unitFloor)

/-- Pages of a context's area pool that courses have reserved: first page and count. -/
def State.usedAreas (s : State) (ctx : Nat) : List (Nat × Nat) :=
  let base := (s.ctx ctx).capbase.toNat
  (s.courses.filter fun c => c.2.info.ctx == ctx && !c.2.gone).map fun c =>
    ((c.2.info.ctxa.toNat - base) / 4096, (c.2.info.areaSize + 4095) / 4096)

/-- CAPFREE (R533). -/
def State.capfree (s : State) (ctx : Nat) : Nat := (s.ctx ctx).capsize - sumList ((s.usedAreas ctx).map (·.2))

/-- The lowest run of n free pages. -/
def firstFit (used : List (Nat × Nat)) (size n : Nat) : Option Nat :=
  minBy id ((0 :: used.map fun u => u.1 + u.2).filter fun p => p + n ≤ size && used.all fun u => !meets u (p, n))

/-- Areas for k courses, the lowest free runs one after another. -/
def carve (size n : Nat) : Nat → List (Nat × Nat) → Option (List Nat)
  | 0, _ => some []
  | k + 1, used =>
    match firstFit used size n with
    | none => none
    | some p => (carve size n k ((p, n) :: used)).map fun l => p :: l

/-! ## Resumption (R415) -/

/-- The course of a continuation becomes resident. -/
def State.unpark (s : State) (c : Nat) (k : Contn) (status : Nat) : State :=
  let s := s.useRecord c
  let r := s.recall c
  let x := r.1
  let lim := max (fairLim r.2.fairt) 1
  let lane (i : Nat) (l : Lane) : Lane :=
    if Mask.has k.mask i then { l with lpc := k.resume, st := .ready, wake := .none, wa := none }
    else { l with st := .retired, wake := .none, wa := none }
  let y : Course :=
    { x with
      lanes := x.lanes.zipIdx.map fun p => lane p.2 p.1,
      js := List.replicate 8 0, fairt := fairOf lim 0 false 0, spills := 0,
      trap := ⟨x.trap.tvec, 0, 0, 0, 0, 0, 0⟩, frame := none, pre := none, lost := false,
      o := List.replicate 8 VReg.zero, l := List.replicate 4 VReg.zero,
      d := List.replicate 8 (List.replicate 8 0), staging := none, qin := [], convs := [], req := none,
      sr := setAt k.sreg (.ofNat 64 status) x.sr, pres := .resident, fetch := none, area := none }
  let s1 : State := { s.setCourse c y with conts := tdel c s.conts }
  let s2 := s1.acquire y.coreKey y.info.block 3
  let s3 := match k.desc with
    | some w => if w.acq then s2.acquire y.coreKey y.info.block (extScope w.ext w.scope) else s2
    | none => s2
  (List.range 64).foldl (fun s v => s.refill c v) s3

/-- Whether conditions 2 and 3 of R252 hold for one course that rejoins its block; its area has stayed reserved. -/
def State.roomFor (s : State) (x : Course) : Bool :=
  s.entries x.coreKey + 1 ≤ Config.residents x.tower && s.floors x.coreKey + x.info.floor ≤ Config.pool x.tower

/-- RANK of a core outside a stream (R362). -/
def coreRank (die core : Nat) : DWord :=
  if Config.isTower die then .ofNat 64 (core % 12 + core / 12 % 16 * 16 + (die - 2) % 2 * 256) else 0

/-- Whether a block goes on without the continuation that it waits for: one that CONT has left with no course on its core
ends, its chains and tiles with it, once its outstanding operations are over (R286). -/
def State.blockLives (s : State) (b : Nat) : Bool :=
  s.courses.any fun c => c.2.info.block == b && (c.2.pres == .resident || c.2.pres == .away || c.2.pres == .forced)

/-- A new block of one course for a continuation whose block has left the core. -/
def State.rehome (s : State) (c b : Nat) (x : Block) : State :=
  let p := s.choose x.ccnt
  let core := p.2.rotCore x.die x.cfirst x.ccnt p.1
  let n := p.2.newBlock x.ctx x.die core x.lnch x.blkid x.attr x.cfirst x.ccnt x.slot x.base x.pkt x.task
  let y (z : Course) : Course := { z with info := { z.info with block := n.1, core := core, rank := coreRank x.die core } }
  ((n.2.onBlock n.1 fun z => { z with cont := some (c, b), courses := [c], visible := x.visible }).onCourse c y).tryBind n.1

/-- CONTINUATION_WAKE: the wake, and the return to a block that is still on its core. -/
def State.contWake (s : State) (c : Nat) : State :=
  match tget c s.conts with
  | none => s
  | some k0 =>
    let s0 := s.readDesc c k0
    match tget c s0.conts with
    | none => s0
    | some k =>
      let w := match k.woken with
        | some n => (some n, s0)
        | none => s0.wakeStatus c k
      match w.1, tget c w.2.conts with
      | none, _ | _, none => w.2
      | some n, some k =>
        let s1 := w.2.onContn c fun k => { k with woken := some n }
        let x := s1.course c
        match s1.block? x.info.block with
        | none => s1
        | some b =>
          if b.state == .ended then
            (s1.release x.coreKey x.info.block 3).rehome c x.info.block b
          else if (b.state == .resident || b.state == .preempting) && s1.roomFor x && s1.blockLives x.info.block then
            let r := s1.areaReach c x.info.ctxa x.info.areaSize .read
            match r.1 with
            | some true =>
              let q := r.2.makeRoom [c]
              if q.1 then (q.2.release x.coreKey x.info.block 3).unpark c k n else q.2
            | some false => r.2
            | none => r.2.areaFault c
          else s1

def execContinuationWake (course : Nat) (s : State) : Host.Outcome State Fault Refusal := .next (s.contWake course)

end Sys2Proof.Machine
end

