-- ==== Sys2Proof/Machine/Admit.lean ====
section
/-! DEFINITION. Binding and admission of blocks, row streams, quanta, ageing and the deadlock watchdog (R14, R31, R34,
R231, R233, R241, R242, R252, R359 to R362, R369, R384 to R386, R390, R391, R436, R533). -/

namespace Sys2Proof.Machine

/-! ## Binding (R384) -/

def State.bind (s : State) (die id : Nat) : State :=
  if !s.mayBind die id then s
  else match tget id s.pkts with
    | none => s.tryBind id
    | some p =>
      let core := s.rotCore die p.cfirst p.ccnt (p.rot + p.next)
      let b := s.newBlock p.ctx die core p.lnch (.ofNat 32 p.next) p.attr p.cfirst p.ccnt (some p.slot) p.prio (some id) none
      (b.2.onPkt id fun x => { x with next := x.next + 1, alive := x.alive + 1 }).bindNow b.1

def execBlockBind (die block : Nat) (s : State) : Host.Outcome State Fault Refusal := .next (s.bind die block)

/-! ## Ways (R241, R242) -/

def Block.ways (x : Block) : Nat := (x.mem.n + 3) / 4

/-- Ways neither held nor being drained, highest position first. -/
def State.lentWays (s : State) (k : Nat × Nat) : List Nat :=
  ((List.range (Config.ways (Config.isTower k.1))).filter fun w =>
    !(s.core k).heldWays.contains w && !(s.core k).draining.contains w).reverse

/-- Lines of an over-full set leave the L1 until every set fits the ways lent to it. -/
def State.trim (s : State) (k : Nat × Nat) : Nat → State
  | 0 => s
  | n + 1 =>
    let l1 := (s.core k).l1
    let mates (l : L1Line) : List L1Line := l1.filter fun m => setOf k m.line == setOf k l.line
    match l1.find? fun l => s.lent k < (mates l).length with
    | none => s
    | some l =>
      let c := s.choose (mates l).length
      match (mates l)[c.1]? with
      | some v => State.trim (c.2.evict k v) k n
      | none => c.2

/-- A reclaim of lent ways: they take no new lines, and their lines are written back and invalidated. -/
def State.reclaim (s : State) (k : Nat × Nat) (n : Nat) : State :=
  let s1 := s.onCore k fun c => { c with draining := c.draining ++ (s.lentWays k).take n }
  s1.trim k (s1.core k).l1.length

/-! ## Admission (R252) -/

/-- The order of a bound list (R385). -/
def State.listHead (s : State) (die core : Nat) : Option (Nat × Block) :=
  let lt (a b : Nat × Block) : Bool :=
    b.2.level < a.2.level || (a.2.level == b.2.level && (a.2.bindTime < b.2.bindTime ||
      (a.2.bindTime == b.2.bindTime && a.2.born < b.2.born)))
  (sortBy lt (s.boundList die core)).head?

def Attr.floors (a : Attr) : Nat := a.courses * a.floor + (if a.shd = 0 then 0 else 8 * a.ncrs)

/-- The areas of a block's courses, when all of them can be carved at once. -/
def State.areasFor (s : State) (x : Block) : Option (List Nat) :=
  carve (s.ctx x.ctx).capsize (areaPages x.die x.attr.rdn x.attr.rds) x.attr.courses (s.usedAreas x.ctx)

/-- The first condition of R252 that does not hold for a block. -/
def State.unmet (s : State) (b : Nat) (x : Block) : Option Nat :=
  let k := (x.die, x.core)
  let tower := Config.isTower x.die
  let away := (s.courses.filter fun c => c.2.info.block == b && (c.2.pres == .away || c.2.pres == .forced)).length
  let free := (s.core k).draining.length
  let ways : Option Nat :=
    if Config.ways tower < (s.core k).heldWays.length + x.ways then some 5 else if free < x.ways then some 6 else none
  if x.state == .away then (if Config.residents tower < s.entries k + away then some 2 else none)
  else if x.cont.isSome then
    (if Config.residents tower < s.entries k + 1 then some 2
     else if Config.pool tower < s.floors k + x.attr.floor then some 3 else ways)
  else if Config.blockCourses tower < x.attr.ncrs then some 1
  else if Config.residents tower < s.entries k + x.attr.courses then some 2
  else if Config.pool tower < s.floors k + x.attr.floors then some 3
  else if (s.areasFor x).isNone then some 4
  else ways

/-- The state of stochastic rounding that a lane starts with (R80). -/
def srsStart (lnch blkid : Word) (crsid lane : Nat) : Word :=
  let s : Word := lnch * 0x9E3779B9#32 + blkid * 0x85EBCA6B#32 + .ofNat 32 crsid * 0xC2B2AE35#32 +
    .ofNat 32 lane * 0x27D4EB2F#32 + 0x165667B1#32
  if s = 0 then 1 else s

/-- A course of a block as its launch starts it (R14, R31, R34, R80). -/
def State.firstCourse (s : State) (b : Nat) (x : Block) (crsid : Nat) (shadow : Bool) (area born : Nat)
    (partner : Option Nat) : Course :=
  let c := s.ctx x.ctx
  let info : CourseInfo :=
    { block := b, ctx := x.ctx, die := x.die, core := x.core, crsid := crsid, blkid := x.blkid, lnch := x.lnch,
      ctxa := c.capbase + .ofNat 64 (4096 * area), cbase := c.cbase, floor := x.attr.floor, rdn := x.attr.rdn,
      rdp := x.attr.rdp, rds := x.attr.rds, partner := partner, shadow := shadow, row := x.row,
      rank := coreRank x.die x.core, born := born }
  let start := Course.start info
  let entry : Word := if shadow then x.attr.entry + .ofInt 32 (16 * x.attr.shd.toInt) else x.attr.entry
  { start with
    lanes := (List.range (Config.lanes (Config.isTower x.die))).map fun i =>
      { Lane.start with lpc := entry, srs := srsStart x.lnch x.blkid crsid i },
    sr := (x.attr.args ++ List.replicate 32 0).take 32,
    trap := { start.trap with tvec := x.attr.tvec.setWidth 64 &&& 0xFFFFFFF0#64 } }

/-- The courses of a block, primary courses first; identifiers follow on from id. -/
def State.firstCourses (s : State) (b : Nat) (x : Block) (areas : List Nat) (id : Nat) : List (Nat × Course) :=
  let n := x.attr.ncrs
  (List.range x.attr.courses).map fun j =>
    let partner := if x.attr.shd = 0 then none else some (id + if j < n then j + n else j - n)
    (id + j, s.firstCourse b x j (decide (n ≤ j)) (areas.getD j 0) (id + j) partner)

/-- The watchdog of a context starts with its first resident course on the die (R390). -/
def State.startTimer (s : State) (die ctx : Nat) : State :=
  if s.courses.any fun c => c.2.info.die == die && c.2.info.ctx == ctx && c.2.pres == .resident then s
  else s.progress die ctx

/-- A block that is admitted or resumed: its level is its base level again, and its quantum starts (R386). -/
def State.onCoreNow (s : State) (y : Block) : Block :=
  { y with state := .resident, level := y.base, timer := s.time, quant := s.quantum y.die y.base, since := s.time }

/-- The block takes its ways and its place on the core; other ways that the reclaim has emptied are lent again (R241). -/
def State.takeWays (s : State) (b : Nat) (x : Block) : State :=
  let k := (x.die, x.core)
  let ws := (sortBy (fun a b => decide (a < b)) (s.core k).draining).take x.ways
  ((s.onCore k fun c => { c with heldWays := c.heldWays ++ ws, draining := [] }).onBlock b fun y =>
    { y with mem := { y.mem with ways := ws } }).onBlock b (s.onCoreNow)

/-- The head of a bound list is admitted, or resumed (R252, R436). -/
def State.admitBlock (s : State) (b : Nat) (x : Block) : State :=
  let s0 := s.startTimer x.die x.ctx
  if x.state == .away then s0.onBlock b s0.onCoreNow
  else
    let s1 := s0.takeWays b x
    let back (t : State) : State := { s with ctxs := t.ctxs, faults := t.faults, uid := t.uid, fv := t.fv, mem := t.mem,
                                             tlb := t.tlb, courses := t.courses }
    match x.cont with
    | some (c, _) => match tget c s1.conts with
      | some k =>
        let r := s1.areaReach c (s1.course c).info.ctxa (s1.course c).info.areaSize .read
        (match r.1 with
         | some true =>
           let q := r.2.makeRoom [c]
           if q.1 then q.2.unpark c k (k.woken.getD 1) else back q.2
         | some false => back r.2
         | none => r.2.areaFault c)
      | none => s1
    | none => match s.areasFor x with
      | none => s
      | some areas =>
        let cs := s1.firstCourses b x areas s1.uid
        let s2 : State := { s1 with courses := s1.courses ++ cs, uid := s1.uid + cs.length }
        let s3 := s2.onBlock b fun y => { y with courses := cs.map (·.1) }
        let s4 := match x.task with | some t => s3.onTask t fun y => { y with state := .running } | none => s3
        s4.acquire (x.die, x.core) b 4

/-- Whether a core lies in a row that a stream holds (R360). -/
def State.inStream (s : State) (die core : Nat) : Bool := (s.die die).rows.any fun r => r.started && r.row == core / 12

/-- No reclaim of a core is under way: what it has emptied is lent again (R241). -/
def State.stopReclaim (s : State) (k : Nat × Nat) : State := s.onCore k fun c => { c with draining := [] }

def State.admission (s : State) (die core : Nat) : State :=
  match s.listHead die core with
  | none => s.stopReclaim (die, core)
  | some (b, x) =>
    if (s.core (die, core)).fenced || (Config.isTower die && s.inStream die core) then s
    else match s.unmet b x with
      | none => s.admitBlock b x
      | some 6 => s.reclaim (die, core) (x.ways - (s.core (die, core)).draining.length)
      | some _ => s.stopReclaim (die, core)

def execBlockAdmission (die core : Nat) (s : State) : Host.Outcome State Fault Refusal := .next (s.admission die core)

/-! ## Row streams (R359 to R362, R369) -/

/-- RANK of a stream's core. -/
def RowStream.rank (r : RowStream) (die col : Nat) : DWord :=
  .ofNat 64 (col + r.row * 16 + (die - 2) % 2 * 256 + 2 ^ 9 + r.skew % 16 * 2 ^ 10 + r.ridx % 16 * 2 ^ 14 +
    (r.nrow - 1) % 16 * 2 ^ 18)

def rowCores (row : Nat) : List Nat := (List.range 12).map fun c => 12 * row + c

/-- Whether every core of a row is free for a stream. -/
def State.rowFree (s : State) (die row : Nat) (n : Nat) : Bool :=
  !((s.die die).rows.any fun r => r.started && r.row == row) &&
  (rowCores row).all fun c =>
    !(s.core (die, c)).fenced && (s.core (die, c)).heldWays.length + (n + 3) / 4 ≤ Config.ways true &&
    !(s.blocks.any fun b => b.2.die == die && b.2.core == c && (b.2.state == .resident || b.2.state == .preempting))

/-- One column of a row: its block and its course. -/
def State.startColumn (s : State) (r : RowStream) (die col area : Nat) (data : List Byte) : Nat × State :=
  let core := 12 * r.row + col
  let s0 := s.reclaim (die, core) ((slotsOf true r.attr.spk + 3) / 4 - (s.core (die, core)).draining.length)
  let b := s0.newBlock r.ctx die core r.lnch (.ofNat 32 (12 * r.ridx + col)) r.attr 0 (Config.cores die) (some r.slot) r.prio
    none none
  let s1 := b.2.onBlock b.1 fun x => { x with row := some r.row, mem := x.mem.write 0 data }
  match s1.block? b.1 with
  | none => (0, s1)
  | some x =>
    let s2 := s1.takeWays b.1 x
    let c0 := s2.firstCourse b.1 x 0 false area s2.uid none
    let c : Course := { c0 with info := { c0.info with rank := r.rank die col } }
    let s3 : State := { s2 with courses := s2.courses ++ [(s2.uid, c)], uid := s2.uid + 1 }
    (s2.uid, (s3.onBlock b.1 fun y => { y with courses := [s2.uid] }).acquire (die, core) b.1 4)

def State.onRow (s : State) (die id : Nat) (f : RowStream → RowStream) : State :=
  s.onDie die fun d => { d with rows := d.rows.map fun q => if q.id = id then f q else q }

/-- What a preload finds: bytes, a page fault to be served, answers that are still to come, or a failure. -/
inductive PRead where
  | bytes (l : List Byte)
  | fault (uid : Nat)
  | pending
  | fail
  deriving DecidableEq, Repr

/-- The reads of two parts of a preload together. -/
def PRead.join : PRead → PRead → PRead
  | .bytes a, .bytes b => .bytes (a ++ b)
  | .fail, _ | _, .fail => .fail
  | .fault u, _ => .fault u
  | _, .fault u => .fault u
  | _, _ => .pending

/-- A line of a preload's source at its home, with what the core holds dirty of it (R319). -/
def State.preloadHome (s : State) (k : Nat × Nat) (pa : Nat) : PRead × State :=
  if s.lineBad k pa then (.fail, s)
  else (.bytes (s.engineBytes k (lineOf pa) 64),
        if s.engineHit k (lineOf pa) 64 then s else (s.lineReq k.1 pa).dieUse false pa 64)

/-- A line of a preload's source, by the reads of R319; one that lies on the host or another package is asked for. -/
def State.preloadLine (s : State) (r : RowStream) (k : Nat × Nat) (va : DWord) : PRead × State :=
  let asked : List LaneAcc := match (s.die k.1).rows.find? fun q => q.id == r.id with | some q => q.reads | none => []
  let ask (s : State) : State := s.onRow k.1 r.id fun q =>
    { q with reads := q.reads ++ [⟨asked.length, va, [], 0, .sent, none⟩] }
  match asked.find? fun l => l.addr == va with
  | some l =>
    (if l.st == .done then .bytes ((l.data.map fun w => leBytes 4 w.toNat).flatten) else if l.st == .failed then .fail
     else .pending, s)
  | none =>
    if inAperture va then (.fail, s)
    else
      let q := s.reach r.ctx va .read k.1 r.lnch r.flt
      match q.1 with
      | .wait u => (.fault u, q.2)
      | .fail _ => (.fail, q.2)
      | .pa pa =>
        if region pa ≤ 1 then q.2.preloadHome k pa
        else if region pa = 3 then (.pending, (ask q.2).pcieFor pa 0 64 [] r.pkt r.id asked.length true r.ctx k.1 0xFFFF r.lnch)
        else if region pa = 4 && q.2.fabOk pa then
          (if fabIndex pa = q.2.ownIdx then q.2.preloadHome k (fabLocal pa)
           else (.pending, (ask q.2).fabSend pa 0 0 64 [] r.pkt r.id asked.length))
        else (.fail, q.2)

/-- The preload of one core (R361). -/
def State.preload (s : State) (r : RowStream) (die col n : Nat) : PRead × State :=
  if r.pla = 0 then (.bytes [], s)
  else if !((List.range ((r.pln + 16383) / 16384)).all fun q => inAlloc true n (16384 * q)) then (.fail, s)
  else (List.range (r.pln / 64)).foldl (fun (acc : PRead × State) i =>
    let p := acc.2.preloadLine r (die, 12 * r.row + col) (r.pla + .ofNat 64 ((12 * r.ridx + col) * r.pls + 64 * i))
    (acc.1.join p.1, p.2)) (.bytes [], s)

/-- The preloads of all columns: their bytes one after another, each column with as many. -/
def State.preloads (s : State) (r : RowStream) (die : Nat) : PRead × State :=
  (List.range 12).foldl (fun (acc : PRead × State) col =>
    let p := acc.2.preload r die col (slotsOf true r.attr.spk)
    (acc.1.join p.1, p.2)) (.bytes [], s)

/-- STREAM_START of a row whose cores are free and whose areas fit: each core acquires as at the start of a block, before its
preload reads (R360, R361, R436, R533). -/
def State.startStream (s : State) (die : Nat) (r : RowStream) : State :=
  if !s.rowFree die r.row (slotsOf true r.attr.spk) then s
  else match carve (s.ctx r.ctx).capsize (areaPages die 0 0) 12 (s.usedAreas r.ctx) with
    | none => s
    | some areas =>
      let p := ((rowCores r.row).foldl (fun s c => s.acquireL1 (die, c)) s).preloads r die
      match p.1 with
      | .fault u => p.2.onRow die r.id fun q => { q with flt := some u }
      | .pending => p.2.onRow die r.id fun q => { q with flt := none }
      | .fail => p.2.fenceStream die r 5
      | .bytes data =>
        let n := if r.pla = 0 then 0 else r.pln
        let s0 := (p.2.startTimer die r.ctx).onDie die fun d =>
          { d with rowsFenced := d.rowsFenced.filter (· != (r.row, r.lnch)) }
        let t := (List.range 12).foldl (fun (acc : List Nat × State) col =>
          let k := acc.2.startColumn r die col (areas.getD col 0) ((data.drop (col * n)).take n)
          (acc.1 ++ [k.1], k.2)) ([], s0)
        t.2.onRow die r.id fun q => { q with started := true, courses := t.1, flt := none, reads := [], visible := false }

/-- An answer to a read of a preload. -/
def State.answerRow (s : State) (id lane : Nat) (r : Option (List Byte)) : State :=
  let got (l : LaneAcc) : LaneAcc := match r with
    | some bs => l.ok ((List.range 16).map fun i => wordOf ((bs.drop (4 * i)).take 4))
    | none => l.fail
  let row (q : RowStream) : RowStream :=
    if q.id = id then { q with reads := q.reads.map fun l => if l.lane = lane then got l else l } else q
  { s with dies := s.dies.map fun d => { d with rows := d.rows.map row } }

def execStreamStart (pkt row : Nat) (s : State) : Host.Outcome State Fault Refusal :=
  .next (match tget pkt s.pkts with
    | none => s
    | some p => match (s.die p.die).rows.find? fun r => !r.started && r.row == row && r.pkt == pkt with
      | some r => s.startStream p.die r
      | none => s)

def execRowSequencerIssue (die row : Nat) (s : State) : Host.Outcome State Fault Refusal := .next ((s.rowTick die row).rowIssue die row)

/-! ## Quanta and ageing (R386, R388) -/

/-- The moment at which a resident block's quantum ends. -/
def Block.quantumEnd (x : Block) : Nat := x.timer + x.quant

/-- A resident block that the dispatcher may slice. -/
def Block.sliced (x : Block) : Bool := x.state == .resident && x.row.isNone

/-- The block whose timer's expiry is taken first among those of one moment: the lowest level, then the longest
resident. -/
def State.expiresFirst (s : State) (b : Nat) (x : Block) (t : Nat) : Bool :=
  s.blocks.all fun y => !(y.2.sliced && y.2.die == x.die && y.2.core == x.core && y.2.quantumEnd ≤ t) || y.1 == b ||
    x.level < y.2.level || (x.level == y.2.level && x.since ≤ y.2.since)

def State.quantumOver (s : State) (b : Nat) : State :=
  match s.block? b with
  | none => s
  | some x =>
    if !x.sliced then s
    else
      let s1 := s.reachTime (x.quantumEnd)
      if !s1.expiresFirst b x s1.time then s
      else
        let want : Bool := match s1.listHead x.die x.core with
          | none => false
          | some (h, y) => x.level ≤ y.level && (match s1.unmet h y with | some n => n != 1 && n != 6 | none => false)
        let busy := s1.blocks.any fun y => y.2.die == x.die && y.2.core == x.core && y.2.state == .preempting
        if want && !busy then
          let s2 := s1.onBlock b fun y => { y with state := .preempting }
          x.courses.foldl (fun s c => if (s.course c).info.block == b then s.raisePre c else s) s2
        else s1.onBlock b fun y => { y with timer := s1.time, quant := s1.quantum y.die y.level }

def execQuantumExpiry (block : Nat) (s : State) : Host.Outcome State Fault Refusal := .next (s.quantumOver block)

/-- The moment at which a waiting block's level rises. -/
def State.ageEnd (s : State) (x : Block) : Nat := x.timer + 64 * s.quantum x.die x.level

def State.age (s : State) (b : Nat) : State :=
  match s.block? b with
  | none => s
  | some x =>
    if !(x.state == .bound || x.state == .away) || 23 ≤ x.level then s
    else (s.reachTime (s.ageEnd x)).onBlock b fun y => { y with level := min 23 (y.level + 1), timer := s.ageEnd x }

def execAgeingStep (block : Nat) (s : State) : Host.Outcome State Fault Refusal := .next (s.age block)

/-! ## The watchdog (R390, R391) -/

def State.timerOf (s : State) (die ctx : Nat) : Nat := (tget ctx (s.die die).timers).getD s.time
def State.wdtEnd (s : State) (die ctx : Nat) : Nat := s.timerOf die ctx + (s.die die).wdt * 1000000

/-- Whether a task waits for a core still: its block has not been bound, though the task may have been granted its keys (R392).
A fault ends granted ones as blocks. -/
def State.waitsFor (s : State) (fault : Bool) (t : Task) : Bool :=
  t.state == .pending || t.state == .keywait ||
    (!fault && match t.block.bind s.block? with | some x => x.state == .unbound | none => false)

/-- The block of a granted task that was never bound goes, and its keys are free again (R392, R407). -/
def State.ungrant (s : State) (t : Nat) (tk : Task) : State :=
  match tk.block with
  | none => s
  | some b =>
    let core := match s.block? b with | some x => x.core | none => 0
    let s1 := (List.range tk.keys.length).foldl (fun s e => s.releaseKey t e b core) s
    { s1 with blocks := tdel b s1.blocks }

/-- Tasks and graph blocks of a packet that wait for a core go, with the pages they hold. -/
def State.dropWaiting (s : State) (p : Nat) (fault : Bool) : State :=
  (s.tasks.filter fun t => t.2.pkt == some p && s.waitsFor fault t.2).foldl (fun s t =>
    let s := s.ungrant t.1 t.2
    match t.2.graph with
    | some (g, n) => s.endGraphBlock t.1 t.2 g n fault
    | none =>
      let s1 : State := { s with
        tasks := tdel t.1 s.tasks,
        dies := s.dies.map fun d => { d with keys := d.keys.map fun k => (k.1, { k.2 with fifo := k.2.fifo.filter (· != t.1) }) } }
      let s2 := match t.2.page with | some j => s1.freePage t.2.ctx j | none => s1
      ((s2.onPkt p fun x => { x with alive := x.alive - 1, faults := x.faults + (if fault then 1 else 0) }).settlePkt p).grants) s

/-- The packets of a context on a die whose blocks a fault of the context ends: what is not bound counts too. -/
def State.faultPackets (s : State) (die ctx : Nat) : State :=
  let ps := (s.pkts.filter fun p => p.2.die == die && p.2.ctx == ctx && p.2.kind != 5).map (·.1)
  ps.foldl (fun s p =>
    (((s.onPkt p fun x => if x.kind = 1 then { x with faults := x.faults + (x.nblk - x.next), next := x.nblk } else x).dropWaiting
      p true)).settlePkt p) s

/-- The queues of a context that are bound on a die, or on any. -/
def State.errorQueues (s : State) (die : Option Nat) (ctx : Nat) : State :=
  let bound (q : Nat) : Bool := match die with
    | none => true
    | some d => (s.die d).slots.any fun w => w.1.getLsbD 0 && fld w.1 16 16 == ctx && fld w.1 32 6 == q
  s.onCtx ctx fun c =>
    { c with queues := c.queues.map fun q => if bound q.1 && q.2.state != .draining then (q.1, { q.2 with state := .error }) else q }

/-- Everything of a context on a die ends by a fault; rows are fenced with a TSB. -/
def State.endContext (s : State) (die ctx tsb : Nat) : State :=
  let s1 := s.faultPackets die ctx
  let s2 := ((s1.die die).rows.filter fun r => r.ctx == ctx).foldl (fun s r => s.fenceStream die r tsb) s1
  let bs := (s2.blocks.filter fun b => b.2.die == die && b.2.ctx == ctx && b.2.row.isNone && b.2.cont.isNone).map (·.1)
  bs.foldl State.faultBlock s2

def State.watchdog (s : State) (die ctx : Nat) : State :=
  if (s.resCourses die ctx).isEmpty || s.timerZero die ctx || s.timerHeld die ctx then s
  else
    let s1 := s.reachTime (s.wdtEnd die ctx)
    let n := (s1.resCourses die ctx).length
    let s2 := ((s1.endContext die ctx 4).errorQueues (some die) ctx).errEntry ctx die 0xFFFF 0 0x07 (.ofNat 64 n)
      (.ofNat 64 (s1.time - s.timerOf die ctx))
    s2.progress die ctx

def execWatchdogFire (die ctx : Nat) (s : State) : Host.Outcome State Fault Refusal := .next (s.watchdog die ctx)

end Sys2Proof.Machine
end

