-- ==== Sys2Proof/Machine/Collect.lean ====
section
/-! DEFINITION. The collectives: their instructions, groups, arithmetic, completion and failures (R508, R519 to R532). -/

namespace Sys2Proof.Machine

/-! ## Issue (R519) -/

/-- A collective joins the engine's list, and counts on N2. -/
def State.pushColl (s : State) (op : Nat) (a b c : SReg) (cop : BitVec 3) (n : BitVec 3) : State :=
  let i := s.iss.src.info
  let u := s.fresh
  let k : Coll :=
    { id := u.1, op := op, course := s.iss.course, block := i.block, ctx := i.ctx, die := i.die, core := i.core,
      dn := n.toNat, cop := cop.toNat, src := s.sIn a, dst := s.sIn b, n := s.sIn c, w := s.iss.src.d.getD n.toNat [],
      started := false, members := [], rank := 0, written := false, signalled := false, flt := none, reads := [],
      acks := [], counted := [], old := [] }
  { u.2 with colls := u.2.colls ++ [(u.1, k)] }.onCourse s.iss.course fun x => x.count u.1 2

def execCred (m : Bool) (a b c : BitVec 5) (o n : BitVec 3) (st : State) : Host.Outcome State Fault Refusal :=
  slot3 (.cred m a b c o n) st fun s => s.pushColl 0 a b c o n

def execCbc (m : Bool) (a b c : BitVec 5) (n : BitVec 3) (st : State) : Host.Outcome State Fault Refusal :=
  slot3 (.cbc m a b c n) st fun s => s.pushColl 1 a b c 0 n

def execCag (m : Bool) (a b c : BitVec 5) (n : BitVec 3) (st : State) : Host.Outcome State Fault Refusal :=
  slot3 (.cag m a b c n) st fun s => s.pushColl 2 a b c 0 n

def execCrs (m : Bool) (a b c : BitVec 5) (o n : BitVec 3) (st : State) : Host.Outcome State Fault Refusal :=
  slot3 (.crs m a b c o n) st fun s => s.pushColl 3 a b c o n

/-! ## The descriptor set (R520, R521) -/

def Coll.wd (c : Coll) (k : Nat) : DWord := c.w.getD k 0
def Coll.gk (c : Coll) : Nat := fld (c.wd 0) 0 2
def Coll.et (c : Coll) : Nat := fld (c.wd 0) 4 4
def Coll.root (c : Coll) : Nat := fld (c.wd 0) 16 16
def Coll.coll (c : Coll) : Nat := fld (c.wd 0) 32 32
def Coll.grp (c : Coll) : DWord := c.wd 1
def Coll.nm (c : Coll) : Nat := fld (c.wd 2) 0 16
def Coll.res (c : Coll) : DWord := c.wd 3
def Coll.siga (c : Coll) : DWord := c.wd 6
def Coll.sop (c : Coll) : Nat := fld (c.wd 7) 32 2
def Coll.scope (c : Coll) : Nat := extScope ((c.wd 7).getLsbD 37) (.ofNat 3 (fld (c.wd 7) 34 3))
def Coll.count (c : Coll) : Nat := c.n.toNat
def Coll.key (c : Coll) : Nat × Nat := (c.die, c.core)
/-- Whether sources are quantised (R526), and whether the collective reduces (R523). -/
def Coll.wire (c : Coll) : Bool := c.et == 1 || c.et == 2
def Coll.reduces (c : Coll) : Bool := c.op == 0 || c.op == 3

/-- A domain's extents less 1, from FABID (R508). -/
def extents (fabid : DWord) : Nat × Nat × Nat := (fld fabid 24 4, fld fabid 28 3, fld fabid 31 3)
/-- The package ID of a package (R531). -/
def ownId (fabid : DWord) : Nat := fld fabid 0 21

/-- The members of a box in the order of their ranks (R521). -/
def boxMembers (fabid grp : DWord) : List Nat :=
  let e := extents fabid
  let org := fld grp 0 10
  let at_ (dx dy dz : Nat) : Nat :=
    (org % 16 + dx) % (e.1 + 1) + 16 * ((org / 16 % 8 + dy) % (e.2.1 + 1)) + 128 * ((org / 128 % 8 + dz) % (e.2.2 + 1))
  ((List.range (fld grp 17 3 + 1)).map fun dz => ((List.range (fld grp 14 3 + 1)).map fun dy =>
    (List.range (fld grp 10 4 + 1)).map fun dx => fld fabid 10 11 * 1024 + at_ dx dy dz).flatten).flatten

/-- The conditions of DESC that the set shows by itself. -/
def Coll.descBad (c : Coll) (fabid : DWord) : Bool :=
  let e := extents fabid
  let w0 := c.wd 0
  let g := c.grp
  2 ≤ c.gk || fld w0 2 2 != 0 || fld w0 8 8 != 0 || !([0, 1, 2, 4, 5].contains c.et) ||
  (c.op != 1 && c.root != 0) ||
  (c.gk == 0 && (fld g 20 44 != 0 || c.nm != 0 || e.1 < fld g 10 4 || e.2.1 < fld g 14 3 || e.2.2 < fld g 17 3)) ||
  (c.gk == 1 && c.nm == 0) || fld (c.wd 2) 16 48 != 0 || c.wire != (c.res != 0) || (c.wire && !c.reduces) ||
  c.wd 4 != 0 || c.wd 5 != 0 || c.sop == 3 || 5 < fld (c.wd 7) 34 3 || fld (c.wd 7) 38 26 != 0

/-- ALIGN (R528). -/
def Coll.alignBad (c : Coll) : Bool :=
  [c.src, c.dst, c.res, c.siga, if c.gk = 1 then c.grp else 0].any fun a => a.toNat % 4 != 0

/-! ## Words in memory (R319, R527) -/

def State.coll? (s : State) (id : Nat) : Option Coll := tget id s.colls
def State.onColl (s : State) (id : Nat) (f : Coll → Coll) : State :=
  match tget id s.colls with
  | some c => { s with colls := tset id (f c) s.colls }
  | none => s

/-- The addresses of n words. -/
def wordsAt (base : DWord) (n : Nat) : List DWord := (List.range n).map fun j => base + .ofNat 64 (4 * j)

/-- One word that a collective reads, with its place where a line is asked for. A word on the host or another package is asked
for. -/
def State.collWord (s : State) (c : Coll) (va : DWord) : Except CRead (Word × Option Nat) × State :=
  let asked : List LaneAcc := match s.coll? c.id with | some x => x.reads | none => []
  let ask (s : State) : State := s.onColl c.id fun x =>
    { x with reads := x.reads ++ [⟨asked.length, va, [], 0, .sent, none⟩] }
  match asked.find? fun l => l.addr == va with
  | some l =>
    (if l.st == .done then .ok (l.data.headD 0, none) else if l.st == .failed then .error (.status 3) else .error .wait, s)
  | none =>
    if inAperture va then (.error (.status 3), s)
    else
      let r := s.placeVa c.course va .read c.flt
      match r.1 with
      | .mem pa _ =>
        if r.2.lineBad c.key pa then (.error .bad, r.2)
        else (.ok (wordOf (r.2.engineBytes c.key pa 4), if r.2.engineHit c.key pa 4 then none else some pa), r.2)
      | .host pa => (.error .wait, (ask r.2).pcieSend pa 0 4 [] c.course c.id asked.length true)
      | .fabric pa => (.error .wait, (ask r.2).fabSend pa 0 0 4 [] c.course c.id asked.length)
      | .wait u => (.error .wait, r.2.onColl c.id fun x => { x with flt := some u })
      | _ => (.error (.status 3), r.2)

/-- The lines of a part that has been read, each counted once however often the engine came back to the part (R474). -/
def State.collCount (s : State) (c : Coll) (part : Nat) (l : List Nat) : State :=
  if (s.coll? c.id).any fun x => x.counted.contains part then s
  else (s.engineLines c.die l).onColl c.id fun x => { x with counted := x.counted ++ [part] }

/-- Words at some addresses, a part of what the collective reads; reads that must wait are all sent out. -/
def State.collRead (s : State) (c : Coll) (part : Nat) (l : List DWord) : CRead × State :=
  let r := l.foldl (fun (acc : Except CRead (List (Word × Option Nat)) × State) va =>
    match acc.1 with
    | .error (.status _) | .error .bad => acc
    | _ =>
      let r := acc.2.collWord c va
      (match acc.1, r.1 with
       | .ok ws, .ok w => (.ok (ws ++ [w]), r.2)
       | x, .ok _ => (x, r.2)
       | _, .error e => (.error e, r.2))) (.ok [], s)
  match r.1 with
  | .error e => (e, r.2)
  | .ok ws => (.words (ws.map (·.1)), r.2.collCount c part (ws.filterMap (·.2)))

/-- The places of words to be written: a status, or none while a page fault is served. -/
def State.collPlaces (s : State) (c : Coll) (l : List DWord) : Except (Option Nat) (List Place) × State :=
  l.foldl (fun (acc : Except (Option Nat) (List Place) × State) va =>
    match acc.1 with
    | .error _ => acc
    | .ok ps =>
      if inAperture va then (.error (some 3), acc.2)
      else
        let r := acc.2.placeVa c.course va .write c.flt
        (match r.1 with
         | .wait u => (.error none, r.2.onColl c.id fun x => { x with flt := some u })
         | .fail _ | .mmio _ | .scratch _ => (.error (some 3), r.2)
         | x => (.ok (ps ++ [x]), r.2))) (.ok [], s)

/-- Word i sent to the host or to another package. -/
def State.collSend (s : State) (c : Coll) (i : Nat) (p : Place) (w : Word) : State :=
  match p with
  | .host pa => s.pcieSend pa 1 4 (bytesOf 4 w) c.course c.id i false
  | .fabric pa =>
    (s.fabSend pa 1 0 4 (bytesOf 4 w) c.course c.id (2 ^ 32 + i)).onColl c.id fun x => { x with acks := x.acks ++ [i] }
  | _ => s

/-- Words written at their places. -/
def State.collOut (s : State) (c : Coll) (ps : List (Place × Word)) : State :=
  let home := ps.filterMap fun p => match p.1 with | .mem pa _ => some (pa, bytesOf 4 p.2) | _ => none
  ps.zipIdx.foldl (fun s p => s.collSend c p.2 p.1.1 p.1.2) (s.engineWrite c.key home)

/-! ## Arithmetic (R523 to R526) -/

/-- The combining function of R524, as an operation of R201. -/
def Coll.fn (c : Coll) : Nat :=
  match c.cop with
  | 0 => if c.et ≤ 2 then 0 else 3
  | 1 => if c.et ≤ 2 then 1 else if c.et = 4 then 7 else 9
  | _ => if c.et ≤ 2 then 2 else if c.et = 4 then 8 else 10

/-- The least k with n ≤ 2^k. -/
def ceilLog (n : Nat) : Nat := ((List.range 17).find? fun k => n ≤ 2 ^ k).getD 17

/-- reduce() over the contributions in the order of the ranks (R525): in rank order for a small buffer, else the
tree. -/
def Coll.reduce (c : Coll) (bytes : Nat) (l : List Word) : Word :=
  let f := redOp c.fn .rne false
  if bytes ≤ 2048 then
    match l with
    | [] => 0
    | w :: l => l.foldl (fun a b => (f a b).1) w
  else
    ((redTree f (ceilLog l.length) (l.map some)).1).getD 0

def isFinite32 (w : Word) : Bool :=
  match f32.val w.toNat with
  | .fin _ _ _ => true
  | _ => false

/-- A quantised element: its value and its residual (R526). -/
def quantised (y cv : Word) : Word × Word := (cv, .ofNat 32 (fsub .rne false y.toNat cv.toNat).1)

def nanQuant : Word × Word := (0x7FC00000#32, 0)

/-- ET = 1. -/
def quantBf (y : Word) : Word × Word :=
  if !isFinite32 y then nanQuant
  else quantised y (.ofNat 32 (toF32 .rne false (fBF.val (narrow fBF .rne false (f32.val y.toNat)).1)).1)

/-- floor(log2 |y|) of a finite element that is not 0. -/
def floorLog (w : Word) : Int :=
  match f32.val w.toNat with
  | .fin _ m e => (bitLen m : Int) - 1 + e
  | _ => 0

/-- The scale of a block: the largest magnitude decides (R526). -/
def blockScale (ys : List Word) : Int :=
  let amax : Nat := (ys.map fun y => y.toNat % 2 ^ 31).foldl max 0
  if amax = 0 then 0 else max 0 (min 254 (floorLog (.ofNat 32 amax) - 8 + 127))

def scaleBy (v : FVal) (k : Int) : FVal :=
  match v with
  | .fin n m e => .fin n m (e + k)
  | x => x

/-- ET = 2: one block of at most 32 elements. -/
def quantBlock (ys : List Word) : List (Word × Word) :=
  let k := blockScale ys - 127
  if !(ys.all isFinite32) then ys.map fun _ => nanQuant
  else ys.map fun y =>
    let q := (narrow fE43 .rne false (scaleBy (f32.val y.toNat) (-k))).1
    quantised y (.ofNat 32 (toF32 .rne false (scaleBy (fE43.val q) k)).1)

/-- Blocks of 32 elements. -/
def blocks32 : Nat → List Word → List (List Word)
  | 0, _ => []
  | n + 1, l => if l.isEmpty then [] else l.take 32 :: blocks32 n (l.drop 32)

/-- The contribution of a member and its new residuals. -/
def Coll.quant (c : Coll) (xs rs : List Word) : List (Word × Word) :=
  let ys : List Word := (xs.zip rs).map fun p => .ofNat 32 (fadd .rne false p.1.toNat p.2.toNat).1
  if c.et = 1 then ys.map quantBf
  else if c.et = 2 then ((blocks32 ys.length ys).map quantBlock).flatten
  else xs.map fun x => (x, 0)

/-- Elements of the source that a member contributes (R523). -/
def Coll.sourceLen (c : Coll) : Nat :=
  match c.op with
  | 3 => c.members.length * c.count
  | 1 => if c.rank = c.root then c.count else 0
  | _ => c.count

/-- Words that the other members contribute: whatever their sources hold. -/
def State.freeWords (s : State) (n : Nat) : List Word × State :=
  ((List.range n).map fun i => Config.freeWord (s.fv + i), { s with fv := s.fv + n })

/-- What every member contributes, by rank; each member's words pass through the step of R526. -/
def State.contributions (s : State) (c : Coll) (mine : List Word) : List (List Word) × State :=
  let n := if c.op = 3 then c.members.length * c.count else c.count
  (List.range c.members.length).foldl (fun (acc : List (List Word) × State) r =>
    if r = c.rank then (acc.1 ++ [mine], acc.2)
    else
      let xs := acc.2.freeWords n
      let rs := xs.2.freeWords (if c.wire then n else 0)
      (acc.1 ++ [(c.quant xs.1 rs.1).map (·.1)], rs.2)) ([], s)

/-- The words of the destination of this member (R523). -/
def Coll.result (c : Coll) (l : List (List Word)) : List Word :=
  let g := c.members.length
  let column (j : Nat) : List Word := l.map fun x => x.getD j 0
  match c.op with
  | 0 => (List.range c.count).map fun j => c.reduce (4 * c.count) (column j)
  | 3 => (List.range c.count).map fun j => c.reduce (4 * g * c.count) (column (c.rank * c.count + j))
  | 1 => l.getD c.root []
  | _ => l.flatten

/-! ## The end of a collective (R527, R528) -/

/-- A call that fails after its engine has written leaves each word of this package as written or as it was: a free choice
(R528). -/
def State.undoColl (s : State) (c : Coll) : State :=
  c.old.foldl (fun s p =>
    let k := s.choose 2
    if k.1 = 0 then k.2 else k.2.writePa p.1 (bytesOf 4 p.2)) s

/-- The collective leaves the engine: N2 decrements, and a failure is reported. What the L1 holds clean is dropped at the end
of one that did not fail, so that accesses after its WAITC see what other members did before their calls (R527; log
entry 118). -/
def State.endColl (s : State) (c : Coll) (status : Nat) : State :=
  let s1 := { s with colls := tdel c.id s.colls }
  let s2 := if status = 0 then s1.acquire c.key c.block 4 else (s1.undoColl c).asyncErr c.course 4 c.dn status
  s2.opDone c.course c.id

/-- An uncorrectable error in data that the engine reads (R529). -/
def State.collBad (s : State) (c : Coll) : State := (s.endColl c 0).hwError c.course 4 0

/-- A read that could not be made. -/
def State.collStop (s : State) (c : Coll) (r : CRead) : State :=
  match r with
  | .bad => s.collBad c
  | .status n => s.endColl c n
  | _ => s

/-- The addresses that a call writes: n words of the destination, and the residuals. -/
def Coll.writes (c : Coll) (n : Nat) : List DWord :=
  wordsAt c.dst n ++ (if c.wire then wordsAt c.res c.sourceLen else [])

/-- A call in progress that fails before it has written everything leaves any mix of old and new: each word of this package
is written or not, by a free choice (R528). -/
def State.mixColl (s : State) (c : Coll) (l : List (DWord × Word)) : State :=
  l.foldl (fun s p =>
    let k := s.choose 2
    if k.1 = 0 then k.2
    else
      let d := k.2.collPlaces c [p.1]
      match d.1 with
      | .ok [.mem pa u] => (d.2.visible c.block).collOut c [(.mem pa u, p.2)]
      | _ => d.2) s

/-- Such a failure where the new values are not known here. -/
def State.mixUnknown (s : State) (c : Coll) : State :=
  let vas := c.writes (if c.op = 2 then c.members.length * c.count else c.count)
  let f := s.freeWords vas.length
  f.2.mixColl c (vas.zip f.1)

/-! ## Start (R521, R522, R528) -/

/-- The members of the group; the list of a list group is read. -/
def State.collMembers (s : State) (c : Coll) : Except CRead (List Nat) × State :=
  if c.gk = 0 then (.ok (boxMembers s.fab.fabid c.grp), s)
  else
    let r := s.collRead c 0 (wordsAt c.grp c.nm)
    match r.1 with
    | .words ws =>
      if ws.any fun w => 2 ^ 21 ≤ w.toNat then (.error (.status 1), r.2) else (.ok (ws.map BitVec.toNat), r.2)
    | e => (.error e, r.2)

/-- The checks of a call at its own package: the members, or why the call does not go on. -/
def State.collCheck (s : State) (c : Coll) : Except CRead (List Nat) × State :=
  if c.descBad s.fab.fabid then (.error (.status 1), s)
  else if c.alignBad then (.error (.status 2), s)
  else
    let m := s.collMembers c
    match m.1 with
    | .error e => (.error e, m.2)
    | .ok l =>
      if l.eraseDups.length != l.length || (c.op == 1 && l.length ≤ c.root) then (.error (.status 1), m.2)
      else if c.count = 0 || 2 ^ 28 < c.count * l.length then (.error (.status 7), m.2)
      else if !(l.contains (ownId s.fab.fabid)) then (.error (.status 4), m.2)
      else (.ok l, m.2)

/-- Whether the engine may take the call up: the accesses before it are performed, and the calls before it with its
COLL have started. -/
def State.collDue (s : State) (c : Coll) : Bool :=
  !((s.course c.course).ops.any fun o => o.id < c.id) &&
    !(s.colls.any fun d => d.1 < c.id && d.2.coll == c.coll && !d.2.started)

/-- COLLECTIVE_START: the call fails by itself, or every member has issued its own. What the other members issued is
free: the calls match, or they disagree, or an address of another member fails. What the block wrote before the call is
released at .dom then, for the other members (R527; log entry 118). -/
def State.startColl (s : State) (c : Coll) : State :=
  let r := s.collCheck c
  match r.1 with
  | .error e => r.2.collStop c e
  | .ok l =>
    let k := if l.length = 1 then (0, r.2) else r.2.choose 3
    match k.1 with
    | 0 => (k.2.release c.key c.block 4).onColl c.id fun x =>
        { x with started := true, members := l, rank := (l.idxOf? (ownId s.fab.fabid)).getD 0, flt := none }
    | 1 => k.2.endColl c 5
    | _ => (k.2.mixUnknown { c with members := l }).endColl c 3

def execCollectiveStart (k : Nat) (s : State) : Host.Outcome State Fault Refusal :=
  .next (match s.coll? k with
    | some c => if c.started || !s.collDue c then s else s.startColl c
    | none => s)

/-! ## Completion (R527) -/

/-- The signal of a collective, once its writes are performed. -/
def State.collSignal (s : State) (c : Coll) : Signalled × State :=
  if c.siga = 0 then (.done, s)
  else
    let s1 := s.release c.key c.block c.scope
    let v : Word := (c.wd 7).setWidth 32
    if inAperture c.siga then
      let off := (apertureOff c.siga).toNat
      if inAlloc (Config.isTower c.die) (s1.blockMem c.block).n off then
        (.done, ((s1.rmwScratch c.block off fun w => sigWord c.sop w v).2).progress c.die c.ctx)
      else (.fail, s1)
    else
      let r := s1.engineSignal c.course c.id c.key c.ctx (s1.course c.course).info.lnch c.siga c.sop v c.flt
      match r.1 with
      | .fail | .wait _ => r
      | x => (x, r.2.visible c.block)

/-- Once everything is written and acknowledged: the signal; once that is performed, the decrement (R435, R527). -/
def State.settleColl (s : State) (id : Nat) : State :=
  match s.coll? id with
  | none => s
  | some c =>
    if !(c.written && c.acks.isEmpty) then s
    else if c.signalled then s.endColl c 0
    else
      let r := s.collSignal c
      match r.1 with
      | .wait u => r.2.onColl id fun x => { x with flt := some u }
      | .sent => r.2.onColl id fun x => { x with signalled := true, acks := [signalAck] }
      | .done => r.2.endColl c 0
      | .fail => r.2.endColl c 3

/-- What a call is to write, with its addresses: the results, and the residuals (R523, R526). -/
def State.collOutcome (s : State) (c : Coll) (xs rs : List Word) : List (DWord × Word) × State :=
  let q := c.quant xs rs
  let k := s.contributions c (q.map (·.1))
  ((c.writes (c.result k.1).length).zip (c.result k.1 ++ (if c.wire then q.map (·.2) else [])), k.2)

/-- The destination and the residuals are written (R526, R527). -/
def State.writeColl (s : State) (c : Coll) (xs rs : List Word) : State :=
  let k := s.collOutcome c xs rs
  let d := k.2.collPlaces c (k.1.map (·.1))
  match d.1 with
  | .error none => d.2
  | .error (some n) => (d.2.mixColl c k.1).endColl c n
  | .ok ps =>
    let old := ps.filterMap fun p => match p with
      | .mem pa _ => some (pa, wordOf (d.2.engineBytes c.key pa 4))
      | _ => none
    let s1 := (d.2.visible c.block).collOut c (ps.zip (k.1.map (·.2)))
    (s1.onColl c.id fun x => { x with written := true, flt := none, old := old }).settleColl c.id

/-- A read of a call in progress that could not be made. -/
def State.collFails (s : State) (c : Coll) (r : CRead) : State :=
  match r with
  | .status n => (s.mixUnknown c).endColl c n
  | e => s.collStop c e

/-- COLLECTIVE_COMPLETE: source and residuals are read, and the results are written. -/
def State.completeColl (s : State) (c : Coll) : State :=
  if c.written then s.settleColl c.id
  else
    let x := s.collRead c 1 (wordsAt c.src c.sourceLen)
    match x.1 with
    | .words xs =>
      let r := x.2.collRead c 2 (if c.wire then wordsAt c.res xs.length else [])
      (match r.1 with
       | .words rs => r.2.writeColl c xs rs
       | e => r.2.collFails c e)
    | e => x.2.collFails c e

def execCollectiveComplete (k : Nat) (s : State) : Host.Outcome State Fault Refusal :=
  .next (match s.coll? k with
    | some c => if c.started then s.completeColl c else s
    | none => s)

/-- A response to a read or a write of a collective. -/
def State.answerColl (s : State) (id lane : Nat) (r : Option (List Byte)) : State :=
  match s.coll? id with
  | none => s
  | some c =>
    if 2 ^ 32 ≤ lane then
      (if r.isSome then (s.onColl id fun c => { c with acks := c.acks.erase (lane - 2 ^ 32) }).settleColl id
       else s.endColl c 3)
    else
      let got (l : LaneAcc) : LaneAcc := match r with
        | some bs => l.ok [wordOf bs]
        | none => l.fail
      s.onColl id fun c => { c with reads := c.reads.map fun l => if l.lane = lane then got l else l }

/-! ## Members that cannot be reached (R528, R532) -/

/-- A call in progress fails when the member of a rank other than this package's cannot be reached. -/
def State.collLink (s : State) (c : Coll) (member : Nat) : State :=
  if c.started then
    (if member < c.members.length && member != c.rank then (if c.written then s else s.mixUnknown c).endColl c 6 else s)
  else if !s.collDue c then s
  else
    let r := s.collCheck c
    match r.1 with
    | .ok l => if member < l.length && l.getD member 0 != ownId s.fab.fabid then r.2.endColl c 6 else s
    | .error _ => s

def execTransportUnreachableTimeout (k member : Nat) (s : State) : Host.Outcome State Fault Refusal :=
  .next (match s.coll? k with
    | some c => s.collLink c member
    | none => s)

end Sys2Proof.Machine
end

