-- ==== Sys2Proof/Machine/Cycle.lean ====
section
/-! DEFINITION. What a core does in each arithmetic cycle, the landing of results, spills and fills, the wakes of WAITA,
and the delivery of pending errors (R19, R50, R60 to R62, R64, R209, R271, R272, R539). -/

namespace Sys2Proof.Machine

/-! ## The issue cycle (R539) -/

/-- Bundle-issue pipes of a core. -/
def pipesOf (die : Nat) : Nat := if Config.isTower die then 2 else 4

/-- The place of a core in the order of the default schedule. -/
def turnRank (k : Nat × Nat) : Nat := k.1 * 144 + k.2

/-- The core whose turn comes after one: the next that holds a resident course (log entry 1). -/
def State.nextTurn (s : State) (k : Nat × Nat) : Nat × Nat :=
  let ks := ((s.courses.filter fun c => c.2.pres == .resident).map fun c => c.2.coreKey).eraseDups
  match minBy turnRank (ks.filter fun q => turnRank k < turnRank q) with
  | some q => q
  | none => (minBy turnRank ks).getD k

/-- Whether a core runs at all (R494, R500). -/
def State.coreRuns (s : State) (k : Nat × Nat) : Bool :=
  k.1 < 4 && k.2 < Config.cores k.1 && !(s.core k).fenced && !(s.die k.1).health.stopped

/-- A course that has executed PDONE leaves once no partner has to leave with it (R223). -/
def State.leaveLeft (s : State) (c : Nat) : State :=
  match (s.course c).pre with
  | some p =>
    if p.left && !s.partnerStays c then
      let r := s.areaReaches (s.recordPlaces c) .write
      match r.1 with
      | some true => r.2.goAway c
      | some false => r.2
      | none => r.2.areaFault c
    else s
  | none => s

/-- One ac of a core: results land, and the pipes may choose among its courses in their order. -/
def State.cycle (s : State) (k : Nat × Nat) : State :=
  let s1 := { s with turn := s.nextTurn k }
  if !s1.coreRuns k then s1
  else
    let s0 := (s1.onCore k fun c => { c with clk := c.clk + 1 }).landCore k
    let s2 := (s0.residents k).foldl (fun s c => (s.startFills c.1).leaveLeft c.1) s0
    { s2 with iss := { s2.iss with valid := false, core := k, more := s2.rotation k, pipes := pipesOf k.1 } }

def execCoreIssueCycle (die core : Nat) (s : State) : Host.Outcome State Fault Refusal := .next (s.cycle (die, core))

/-! ## The selector and results (R19, R50) -/

/-- FAIRNESS_EXPIRY: the expiry step of the course whose bundle has just issued, by the LPCs that its lanes held when it
did, while its count stands at LIM (R19, R331). -/
def execFairnessExpiry (course : Nat) (s : State) : Host.Outcome State Fault Refusal :=
  .next (if s.iss.course ≠ course then s else s.onCourse course fun x =>
    if x.ppr && s.iss.src.ppr && x.info.row.isNone && fairCnt x.fairt = fairLim x.fairt then
      { x with fairt := expireFair x.fairt s.iss.src s.iss.pc } else x)

/-- RESULT_LANDING: a result of fixed latency lands, at its bound or before. -/
def execResultLanding (course k : Nat) (s : State) : Host.Outcome State Fault Refusal :=
  .next (match (s.course course).flights.find? fun f => f.id == k && !f.ready && f.due.isSome with
    | some f => s.landFlight course f.id
    | none => s)

/-! ## Spills and fills (R60 to R62) -/

/-- A count of SPILLS one up: fills in the upper half (R48). -/
def spillsUp (v : DWord) (fill : Bool) : DWord :=
  if fill then setFld v 32 32 (fld v 32 32 + 1) else setFld v 0 32 (fld v 0 32 + 1)

/-- The course that a spill of a register counts against. -/
def State.spillOwner (s : State) (l : Loc) : Nat :=
  if l.2 < 64 then l.1 else ((s.course l.1).info.partner).getD l.1

/-- The pages of the backing copy of a register. -/
def State.backReach (s : State) (l : Loc) (use : Use) : Option Bool × State :=
  let b := s.backing l
  let r := s.areaReach l.1 b.1 (4 * (s.course l.1).w) use
  match r.1 with
  | some true => r.2.areaReach l.1 b.2 16 use
  | _ => r

/-- A spill that has reached memory frees its register. -/
def State.spilled (s : State) (l : Loc) : State :=
  let e := s.locEntry l
  let x := s.course l.1
  if !(e.st == .mapped && e.xfer == .spilling && x.pres == .resident) then s
  else
    let r := s.backReach l .write
    match r.1 with
    | some false => r.2
    | none => r.2.areaFault l.1
    | some true =>
      let s1 := r.2.putBacking l e
      -- a register released in the meantime leaves no backing copy (R62)
      (s1.onLoc l fun e => if e.live = 0 then VEntry.empty else { e with st := .spilled, xfer := .none }).onCourse
        (s.spillOwner l) fun y =>
        { y with spills := spillsUp y.spills false }

def execSpillComplete (course v : Nat) (s : State) : Host.Outcome State Fault Refusal := .next (s.spilled (course, v))

/-- A register loaded from its backing copy (R62): the fill counts as its last write (R469). -/
def State.loaded (s : State) (l : Loc) (e : VEntry) : VEntry :=
  { s.backCopy l e with st := .mapped, xfer := .none, stamp := s.clkOf l.1 }

/-- A fill that has its data restores the map entry. -/
def State.filled (s : State) (l : Loc) : State :=
  let e := s.locEntry l
  let x := s.course l.1
  if !(e.st == .spilled && e.xfer == .filling && x.pres == .resident) then s
  else
    let r := s.backReach l .read
    match r.1 with
    | some false => r.2
    | none => r.2.areaFault l.1
    | some true =>
      let t := ((r.2.useBacking l).onLoc l (r.2.loaded l)).onCourse l.1 fun y => { y with spills := spillsUp y.spills true }
      -- a failed line in it is an error in data that the course reads (R220, R455; log entry 117)
      if r.2.areaBad x.info.ctx (r.2.backPlaces l) then t.hwError l.1 0 (r.2.backing l).1 else t

def execFillComplete (course v : Nat) (s : State) : Host.Outcome State Fault Refusal := .next (s.filled (course, v))

/-! ## WAITA (R271, R272) -/

/-- The wait of a lane that sleeps in WAITA. -/
def State.waiting? (s : State) (c i : Nat) : Option WaitA :=
  let l := (s.course c).lane i
  if l.st == .waita then l.wa else none

/-- WAITA_WAKE: a write at the home, or at the port, wakes a registered lane, and with it the other lanes of its
course that wait on the line. -/
def execWaitaWake (course lane : Nat) (s : State) : Host.Outcome State Fault Refusal :=
  .next (match s.waiting? course lane with
    | some w => if w.registered then s.rewaits course fun v => v.registered && v.sameLine w else s
    | none => s)

/-- WAITA_POLL: the lanes of a course that wait on a line and are not registered read their words again. -/
def execWaitaPoll (course lane : Nat) (s : State) : Host.Outcome State Fault Refusal :=
  .next (match s.waiting? course lane with
    | some w => if w.registered then s else s.rewaits course fun v => !v.registered && v.sameLine w
    | none => s)

/-- WAITA_TIMEOUT: the deadline passes, and with it the lanes of the course that wait to it. -/
def execWaitaTimeout (course lane : Nat) (s : State) : Host.Outcome State Fault Refusal :=
  .next (match s.waiting? course lane with
    | some w => match w.deadline with
      | some d => (s.reachTime d).rewaits course fun v => v.expired (s.reachTime d).time
      | none => s
    | none => s)

/-! ## Pending errors (R209) -/

/-- ASYNC_TRAP_DELIVERY: at a bundle boundary; of a row, the course whose error comes first. -/
def execAsyncTrapDelivery (course : Nat) (s : State) : Host.Outcome State Fault Refusal :=
  .next (if (s.course course).info.row.isSome then
      (match s.rowError (s.together course) with
       | some c => (s.deliver c).getD s
       | none => s)
    else if (s.course course).selectable then (s.deliver course).getD s
    else s)

end Sys2Proof.Machine
end

