-- ==== Sys2Proof/Machine/Spire.lean ====
section
/-! DEFINITION. The Spire: bind records, the decoding of packets, their rejection, WAIT packets, the portal, and the
life of queues (R371 to R387, R392, R410, R411, R533). -/

namespace Sys2Proof.Machine

/-! ## Packet fields (R378, R379) -/

def pktCsig (bs : List Byte) : DWord := .ofNat 64 (byteAt bs 48 8)
def pktCval (bs : List Byte) : Word := .ofNat 32 (byteAt bs 56 4)
def pktCtrl (bs : List Byte) : Word := .ofNat 32 (byteAt bs 60 4)
def pktType (bs : List Byte) : Nat := byteAt bs 0 1
def pktOrd (bs : List Byte) : Bool := byteAt bs 1 1 % 2 = 1

/-- The launch attributes of a LAUNCH or a ROWLAUNCH. -/
def pktAttr (bs : List Byte) : Attr :=
  let row := pktType bs = 2
  { entry := .ofNat 32 (byteAt bs 4 4), ncrs := if row then 1 else byteAt bs 12 1 % 32, floor := byteAt bs 13 1 % 128,
    regcap := byteAt bs 14 2, spk := byteAt bs 16 2, tvec := .ofNat 32 (byteAt bs 20 4),
    shd := if row then 0 else .ofNat 16 (byteAt bs 2 2), strm := byteAt bs 13 1 / 128 = 1,
    rdn := if row then 0 else byteAt bs 12 1 / 32, rdp := if row then 0 else byteAt bs 18 2 % 16,
    rds := if row then 0 else byteAt bs 18 2 / 16 % 512,
    args := (List.range (if row then 2 else 3)).map fun i => .ofNat 64 (byteAt bs (24 + 8 * i) 8) }

def Attr.none : Attr :=
  { entry := 0, ncrs := 1, floor := 16, regcap := 0xFFFF, spk := 0, tvec := 0, shd := 0, strm := false, rdn := 0, rdp := 0,
    rds := 0, args := [] }

def pktNblk (bs : List Byte) : Nat := byteAt bs 8 4
def pktRows (bs : List Byte) : List Nat := (List.range 12).filter fun r => byteAt bs 8 2 / 2 ^ r % 2 = 1
def pktPls (bs : List Byte) : Nat := byteAt bs 10 3 * 64
def pktPln (bs : List Byte) : Nat := if byteAt bs 18 2 = 0 then 2 ^ 22 else byteAt bs 18 2 * 64
def pktPla (bs : List Byte) : DWord := .ofNat 64 (byteAt bs 40 8)

/-- The reserved bytes and bits of each type are 0; those of a LAUNCH stand in R380's check, reason 6. -/
def pktZero (bs : List Byte) : Bool :=
  match pktType bs with
  | 1 => true
  | 2 => byteAt bs 3 1 / 16 = 0
  | 3 => zeroAt bs 2 8 && zeroAt bs 28 48
  | 4 => zeroAt bs 2 8 && zeroAt bs 16 48
  | 5 => byteAt bs 3 1 / 16 = 0 && zeroAt bs 4 8 && zeroAt bs 20 48
  | _ => zeroAt bs 2 48

/-- The conditions of R359, and those of R380 on a LAUNCH. -/
def rowOk (bs : List Byte) (die : Nat) (a : Attr) : Bool :=
  match pktType bs with
  | 1 => !a.strm && a.rdp ≤ 8 && a.rds ≤ 256 && byteAt bs 18 2 / 2 ^ 13 = 0
  | 2 =>
    a.strm && byteAt bs 2 1 = die && (die = 2 || die = 3) && !(pktRows bs).isEmpty && byteAt bs 8 2 / 2 ^ 12 = 0 &&
      (pktPla bs = 0 || pktPln bs ≤ a.spk * 1024)
  | _ => true

/-- The first of checks 1 to 8 that a packet fails, a ROWLAUNCH at a Dome die failing check 8 and not 6 (R387; log entry
22). -/
def State.pktReason (s : State) (ctx die : Nat) (bs : List Byte) : Option Nat :=
  let t := pktType bs
  let a := pktAttr bs
  let launch := t = 1 || t = 2
  if t = 0 || 7 < t || byteAt bs 1 1 / 2 != 0 then some 1
  else if !pktZero bs then some 2
  else if !sigOk (byteAt bs 48 8) (byteAt bs 60 4) then some 3
  else if launch && (a.entry.toNat % 16 != 0 || a.tvec.toNat % 16 != 0) then some 4
  else if launch && ((t = 1 && pktNblk bs = 0) || !attrOk s ctx die a) then some 5
  else if !(t = 2 && !Config.isTower die) && !rowOk bs die a then some 6
  else if t = 5 && (byteAt bs 8 8 % 4 != 0 || 3 < byteAt bs 2 1 || byteAt bs 3 1 % 8 < 3 || 5 < byteAt bs 3 1 % 8) then some 7
  else if t = 2 && !Config.isTower die then some 8
  else none

/-! ## Work graphs (R410, R411) -/

def nodeAttr (d : List Byte) : Attr :=
  ({ Attr.none with entry := .ofNat 32 (byteAt d 0 4), ncrs := byteAt d 4 1, floor := byteAt d 5 1, regcap := byteAt d 6 2,
                    spk := byteAt d 8 2, args := [.ofNat 64 (byteAt d 16 8)] }).withEattr (.ofNat 64 (byteAt d 24 8))

def nodeOuts (d : List Byte) : List (Nat × Nat) :=
  (List.range (min (byteAt d 11 1) 16)).map fun i => (byteAt d (64 + 4 * i) 4 % 64, byteAt d (65 + 4 * i) 2)

/-- Node n of a graph descriptor. -/
def nodeAt (bs : List Byte) (n : Nat) : Node :=
  let d := bs.drop (64 + 128 * n)
  let node : Node :=
    { attr := nodeAttr d, depth := byteAt d 10 1, psz := byteAt d 12 2, outs := nodeOuts d, share := 0, shareHeld := false }
  { node with share := node.reservation }

def graphNodes (bs : List Byte) : List Node := (List.range (byteAt bs 0 4)).map (nodeAt bs)

/-- Whether a node descriptor is in range. -/
def State.nodeOk (s : State) (ctx die : Nat) (bs : List Byte) (nodes : List Node) (n : Nat) : Bool :=
  let d := bs.drop (64 + 128 * n)
  let a := nodeAttr d
  let nout := byteAt d 11 1
  nout ≤ 16 && a.entry.toNat % 16 = 0 && attrOk s ctx die a && eattrOk (.ofNat 64 (byteAt d 24 8)) &&
    4 ≤ byteAt d 12 2 && byteAt d 12 2 ≤ 3840 && byteAt d 12 2 % 4 = 0 &&
    zeroAt d 14 16 && zeroAt d 32 64 && zeroAt d (64 + 4 * nout) 128 &&
    ((List.range (min nout 16)).all fun i =>
      byteAt d (64 + 4 * i) 1 / 64 = 0 && byteAt d (67 + 4 * i) 1 = 0 && 1 ≤ byteAt d (65 + 4 * i) 2 &&
        (match nodes[byteAt d (64 + 4 * i) 1 % 64]? with
         | some t => byteAt d 10 1 < t.depth
         | none => false))

/-- The progress reserve of a graph. -/
def graphReserve (nodes : List Node) : Nat := sumList (nodes.map Node.reservation)

/-- The checks of R410 on a whole descriptor. -/
def State.graphOk (s : State) (ctx die : Nat) (bs : List Byte) : Bool :=
  let n := byteAt bs 0 4
  let nodes := graphNodes bs
  1 ≤ n && n ≤ 64 && byteAt bs 4 1 < n && zeroAt bs 5 64 &&
    ((List.range n).all fun i => s.nodeOk ctx die bs nodes i) && graphReserve nodes ≤ (s.ctx ctx).rpsize

/-! ## Decoding (R372, R382, R387) -/

structure SlotUse where
  die : Nat
  slot : Nat
  ctx : Nat
  q : Nat
  prio : Nat
  cfirst : Nat
  ccnt : Nat
  deriving DecidableEq, Repr

def slotUse (die slot : Nat) (w : DWord × DWord) : SlotUse :=
  { die := die, slot := slot, ctx := fld w.1 16 16, q := fld w.1 32 6, prio := fld w.1 1 5, cfirst := fld w.2 0 8,
    ccnt := fld w.2 8 8 }

/-- The head of the queue is done with: its ring entry is free, which is progress (R374, R390). -/
def State.popRing (s : State) (u : SlotUse) : State :=
  (s.onQ u.ctx u.q fun q => { q with rd := q.rd + 1, flt := none, page := none, pflt := none }).progress u.die u.ctx

def State.headWaits (s : State) (u : SlotUse) (f : Nat) : State := s.onQ u.ctx u.q fun q => { q with flt := some f }

/-- A rejected packet: BADPKT, and its completion unless its CSIG cannot be trusted; where reason and ring index stand in the
entry's argument B is the model's choice (log entry 22). -/
def State.reject (s : State) (u : SlotUse) (bs : List Byte) (idx reason : Nat) : State :=
  let s1 := (s.popRing u).errEntry u.ctx u.die 0xFFFF 0 0x06 (.ofNat 64 u.q) (.ofNat 64 (reason + idx * 2 ^ 32))
  if reason = 3 then s1
  else s1.completeSignal u.ctx u.die 0 (pktCsig bs) (pktCval bs) (pktCtrl bs) 4 reason

/-- The packet n that has started joins its queue's open packets. -/
def State.startAs (s : State) (n : Nat) (u : SlotUse) (bs : List Byte) (idx : Nat) (lnch : Word) (f : Packet → Packet) :
    State :=
  let p : Packet :=
    { ctx := u.ctx, q := u.q, die := u.die, slot := u.slot, kind := pktType bs, idx := idx, seq := n, lnch := lnch,
      attr := Attr.none, nblk := 0, next := 0, prio := u.prio, cfirst := u.cfirst, ccnt := u.ccnt, rot := 0, alive := 0,
      faults := 0, status := 0, csig := pktCsig bs, cval := pktCval bs, ctrl := pktCtrl bs, wait := none, graph := none,
      rows := [], fenced := 0, held := false }
  ({ s with pkts := s.pkts ++ [(n, f p)] }.popRing u).onQ u.ctx u.q fun q => { q with open_ := q.open_ ++ [n] }

/-- A packet that has started, under a fresh number. -/
def State.start (s : State) (u : SlotUse) (bs : List Byte) (idx : Nat) (lnch : Word) (f : Packet → Packet) : Nat × State :=
  let n := s.fresh
  (n.1, n.2.startAs n.1 u bs idx lnch f)

def State.startLaunch (s : State) (u : SlotUse) (bs : List Byte) (idx : Nat) : State :=
  match s.newLnch u.die with
  | none => s
  | some (l, s1) =>
    let n := pktNblk bs
    let p := (s1.die u.die).rot.getD u.slot 0
    let s2 := s1.onDie u.die fun d => { d with rot := setAt u.slot ((p + n) % u.ccnt) d.rot }
    (s2.start u bs idx l fun k => { k with attr := pktAttr bs, nblk := n, rot := p }).2

def State.startRows (s : State) (u : SlotUse) (bs : List Byte) (idx : Nat) : State :=
  match s.newLnch u.die with
  | none => s
  | some (l, s1) =>
    let rows := pktRows bs
    let r := s1.start u bs idx l fun k => { k with attr := pktAttr bs, rows := List.range rows.length }
    let first := r.2.uid
    let one (p : Nat × Nat) : RowStream :=
      { id := first + p.2, row := s1.wholeRow u.die p.1, lnch := l, pkt := r.1, ctx := u.ctx, attr := pktAttr bs, skew := byteAt bs 3 1, ridx := p.2,
        nrow := rows.length, pla := pktPla bs, pls := pktPls bs, pln := pktPln bs, prio := u.prio, courses := [],
        started := false, visible := false, slot := u.slot, flt := none, reads := [] }
    { r.2 with uid := first + rows.length }.onDie u.die fun d => { d with rows := d.rows ++ rows.zipIdx.map one }

/-- A graph starts: it takes its reserve, and its root blocks are ready (R410, R411). -/
def State.startGraph (s : State) (u : SlotUse) (bs desc : List Byte) (idx : Nat) : State :=
  let nodes := graphNodes desc
  if (s.ctx u.ctx).rpfree < graphReserve nodes then s
  else match s.newLnch u.die with
    | none => s
    | some (l, s1) =>
      let g := s1.fresh
      let r := g.2.start u bs idx l fun k => { k with graph := some g.1 }
      let gr : Graph := { ctx := u.ctx, die := u.die, pkt := r.1, nodes := nodes, live := 0 }
      let s2 := { r.2 with graphs := r.2.graphs ++ [(g.1, gr)] }.onCtx u.ctx fun c =>
        { c with reserved := c.reserved + graphReserve nodes }
      let root := byteAt desc 4 1
      let nin := byteAt bs 24 4
      match nodes[root]? with
      | none => s2
      | some n =>
        let s3 := (List.range nin).foldl (fun s b =>
          let t := s.fresh
          t.2.addGraphBlock g.1 (graphTask t.1 u.ctx u.die u.prio g.1 root n
            (.ofNat 64 (byteAt bs 16 8) + .ofNat 64 (b * n.psz)) u.cfirst u.ccnt (some u.slot) r.1 l none none)) s2
        if nin = 0 then
          ({ s3 with graphs := tdel g.1 s3.graphs }.onCtx u.ctx fun c =>
            { c with reserved := c.reserved - graphReserve nodes }).settlePkt r.1
        else s3

/-- The descriptor of a graph: its header, then all of its nodes. -/
def State.graphBytes (s : State) (u : SlotUse) (gdesc : DWord) (flt : Option Nat) : DRead × State :=
  if gdesc.toNat % 64 ≠ 0 then (.fail 0, s)
  else
    let h := s.dispRead u.ctx u.die 0 gdesc 64 .read flt
    match h.1 with
    | .bytes b =>
      let n := byteAt b 0 4
      if n = 0 || 64 < n then (.fail 0, h.2) else h.2.dispRead u.ctx u.die 0 gdesc (64 + 128 * n) .read flt
    | x => (x, h.2)

def State.startKeytask (s : State) (u : SlotUse) (bs : List Byte) (idx : Nat) (q : Queue) : State :=
  let va : DWord := .ofNat 64 (byteAt bs 8 8)
  if va.toNat % 64 ≠ 0 then s.reject u bs idx 9
  else
    let r := s.dispRead u.ctx u.die 0 va 256 .read q.flt
    match r.1 with
    | .wait f => r.2.headWaits u f
    | .fail _ => r.2.reject u bs idx 9
    | .bytes rec_ =>
      let w := r.2.dispRead u.ctx u.die 0 va 8 .write q.flt
      match w.1 with
      | .wait f => w.2.headWaits u f
      | .fail _ => w.2.reject u bs idx 9
      | .bytes _ =>
        let p := w.2.fresh
        let t := p.2.submit u.ctx u.die 0 rec_ u.cfirst u.ccnt (some u.slot) (some p.1) q.pflt q.page
        match t.1 with
        | .wait f j => t.2.onQ u.ctx u.q fun q => { q with pflt := some f, page := some j }
        | .rejected n => (t.2.putBytes u.ctx va (resultBytes 0xFFFFFFFF n)).reject u bs idx 9
        | .accepted h => (t.2.startAs p.1 u bs idx 0 fun k => { k with alive := 1 }).putBytes u.ctx va (resultBytes h 0)

/-- What a WAIT packet waits for. -/
def pktWait (bs : List Byte) : WaitA :=
  { va := .ofNat 64 (byteAt bs 8 8), cond := .ofNat 2 (byteAt bs 2 1), t := .ofNat 32 (byteAt bs 16 4), acq := true,
    scope := .ofNat 3 (byteAt bs 3 1), ext := byteAt bs 3 1 / 8 % 2 = 1, deadline := none, registered := false, flt := none,
    sent := none, got := none, gaveUp := false }

/-- Whether the head packet may start (R382). -/
def State.mayStart (s : State) (q : Queue) (bs : List Byte) : Bool :=
  let held (p : Nat) : Bool := match tget p s.pkts with
    | none => false
    | some k =>
      k.wait.isSome || (k.kind = 1 && k.next < k.nblk) ||
        (k.kind = 2 && (s.die k.die).rows.any fun r => r.pkt == p && !r.started)
  !(q.open_.any held) && (q.open_.isEmpty || !(pktOrd bs || pktType bs = 6 || pktType bs = 7))

/-- The head packet of a queue is decoded: handed on, performed or rejected. -/
def State.decodeHead (s : State) (u : SlotUse) (q : Queue) (bs : List Byte) : State :=
  let idx := q.rd % 2 ^ q.k
  match s.pktReason u.ctx u.die bs with
  | some n => s.reject u bs idx n
  | none =>
    match pktType bs with
    | 1 => s.startLaunch u bs idx
    | 2 => s.startRows u bs idx
    | 3 =>
      let g := s.graphBytes u (.ofNat 64 (byteAt bs 8 8)) q.flt
      (match g.1 with
       | .wait f => g.2.headWaits u f
       | .fail _ => g.2.reject u bs idx 9
       | .bytes d => if g.2.graphOk u.ctx u.die d then g.2.startGraph u bs d idx else g.2.reject u bs idx 9)
    | 4 => s.startKeytask u bs idx q
    | 5 => (s.start u bs idx 0 fun k => { k with wait := some (pktWait bs) }).2
    | _ =>
      ((s.popRing u).completeSignal u.ctx u.die 0 (pktCsig bs) (pktCval bs) (pktCtrl bs) 0 0)

/-! ## Bind records (R376, R377) -/

def sameQueue (a b : DWord) : Bool := fld a 16 16 == fld b 16 16 && fld a 32 6 == fld b 32 6

/-- A queue that no slot names any more is CREATED again. -/
def State.unbound (s : State) (w : DWord) : State :=
  if s.dies.any fun d => d.slots.any fun x => x.1.getLsbD 0 && sameQueue x.1 w then s
  else s.onQ (fld w 16 16) (fld w 32 6) fun q => { q with state := if q.state == .bound then .created else q.state }

/-- A pending bind record of a slot is applied. -/
def State.applyBind (s : State) (die n : Nat) : State :=
  match (s.die die).binds.find? fun b => b.1 == n with
  | none => s
  | some (_, w0, w1) =>
    let s1 := s.onDie die fun d => { d with binds := d.binds.filter fun b => b.1 != n }
    let old := ((s.die die).slots.getD n (0, 0)).1
    let v := w0.getLsbD 0
    let known := (tget (fld w0 32 6) (s.ctx (fld w0 16 16)).queues).isSome && (s.ctx? (fld w0 16 16)).isSome
    if v && (23 < fld w0 1 5 || !known || fld w1 8 8 = 0 || Config.cores die < fld w1 8 8) then s1
    else
      let s2 := s1.onDie die fun d => { d with slots := setAt n (w0, w1) d.slots }
      -- a queue bound twice stays with the higher slot, of two dies' slots of one number with the newer (log entry 79)
      let clear (d : Nat) (p : (DWord × DWord) × Nat) : DWord × DWord :=
        if v && p.1.1.getLsbD 0 && sameQueue p.1.1 w0 && (d, p.2) != (die, n) && p.2 ≤ n then (0, 0) else p.1
      let lower := v && s2.dies.any fun d => d.slots.zipIdx.any fun p => p.1.1.getLsbD 0 && sameQueue p.1.1 w0 && n < p.2
      let s3 : State := { s2 with dies := s2.dies.zipIdx.map fun d =>
        { d.1 with slots := d.1.slots.zipIdx.map (clear d.2) } }
      let s4 := if lower then s3.onDie die fun d => { d with slots := setAt n (0, 0) d.slots } else s3
      let s5 := if v then s4.onQ (fld w0 16 16) (fld w0 32 6) fun q =>
        { q with state := if q.state == .created then .bound else q.state } else s4
      if old.getLsbD 0 then s5.unbound old else s5

/-- SPIRE_WINDOW (R372): the bind record of the window's slot, then one packet. -/
def State.window (s : State) (die : Nat) : State :=
  let n := (s.die die).window
  let s1 := (s.onDie die fun d => { d with window := (n + 1) % 64 }).applyBind die n
  let w := (s1.die die).slots.getD n (0, 0)
  let u := slotUse die n w
  if !w.1.getLsbD 0 || (s.die die).failed.any (fun f => f.1 == 6) then s1
  else match tget u.q (s1.ctx u.ctx).queues with
    | none => s1
    | some q =>
      if q.state != .bound || q.wr ≤ q.rd then s1
      else
        let r := s1.hwRead u.ctx (q.ring + .ofNat 64 (64 * (q.rd % 2 ^ q.k))) 64
        match r.1 with
        | none => r.2
        | some bs => if r.2.mayStart q bs then r.2.decodeHead u q bs else r.2

def execSpireWindow (die : Nat) (s : State) : Host.Outcome State Fault Refusal := .next (s.window die)

/-! ## WAIT packets (R382, R392) -/

/-- The word of a WAIT packet, read past every L1. -/
def State.peekPkt (s : State) (p : Packet) (w : WaitA) : Peek × State :=
  if inAperture w.va then (.fail 0, s)
  else
    let r := s.reach p.ctx w.va .read p.die p.lnch w.flt
    match r.1 with
    | .wait u => (.wait u, r.2)
    | .fail n => (.fail n, r.2)
    | .pa pa =>
      if region pa ≤ 1 then r.2.peekHome p.die pa
      else if region pa = 2 then (.word (wordOf (r.2.mmioRead (pa % 2 ^ 32) 4)), r.2)
      else if region pa = 3 then (.remote pa, r.2)
      else if !r.2.fabOk pa then (.fail 2, r.2)
      else if fabIndex pa = r.2.ownIdx then r.2.peekHome p.die (fabLocal pa)
      else (.remote pa, r.2)

def State.setWait (s : State) (p : Nat) (w : WaitA) : State := s.onPkt p fun k => { k with wait := some w }

/-- The acquire of a WAIT acts on every core of its die. -/
def State.acquireDie (s : State) (die scope : Nat) : State :=
  if wideScope scope then (s.cores.filter fun c => c.1.1 == die).foldl (fun s c => s.acquireL1 c.1) s else s

/-- A WAIT whose page is not there gives up the queue's slot (R392). -/
def State.waitFault (s : State) (p : Packet) : State :=
  let clear (w : DWord × DWord) : DWord × DWord :=
    if w.1.getLsbD 0 && fld w.1 16 16 == p.ctx && fld w.1 32 6 == p.q then (w.1 &&& ~~~1, w.2) else w
  let s1 : State := { s with dies := s.dies.map fun d => { d with slots := d.slots.map clear } }
  s1.onQ p.ctx p.q fun q => { q with state := if q.state == .bound || q.state == .created then .waitFault else q.state }

/-- The queue of a WAIT whose fault has been served: CREATED when the slot that it gave up has gone to another queue and no
slot names it, else BOUND (R392). -/
def State.waitServed (s : State) (p : Packet) : State :=
  let mine (w : DWord × DWord) : Bool := w.1.getLsbD 0 && fld w.1 16 16 == p.ctx && fld w.1 32 6 == p.q
  let bound := s.dies.any fun d => d.slots.any mine
  let rebound := ((s.die p.die).slots.getD p.slot (0, 0)).1.getLsbD 0
  s.onQ p.ctx p.q fun q =>
    { q with state := if q.state == .waitFault then (if bound || !rebound then .bound else .created) else q.state }

def State.finishWait (s : State) (p : Nat) (x : Packet) (w : WaitA) (v : Word) : State :=
  if waitCond w.cond v w.t then
    (s.acquireDie x.die (extScope w.ext w.scope)).onPkt p (fun k => { k with wait := none }) |>.settlePkt p
  else s.setWait p { w with got := none, flt := none, registered := w.registered || s.register x.ctx w.va }

/-- A WAIT fails: WFAIL with a subcode, status FAULT, and its queue in ERROR unless it is being destroyed (R392). -/
def State.failWait (s : State) (p : Nat) (x : Packet) (w : WaitA) (sub : Nat) : State :=
  let s1 := (s.onQ x.ctx x.q fun q => { q with state := if q.state == .draining then q.state else .error }).errEntry x.ctx
    x.die 0xFFFF 0 0x0A w.va (.ofNat 64 sub)
  (s1.onPkt p fun k => { k with wait := none }).completePkt p 2 0

/-- WAIT_PACKET_COMPLETE: the word is read again, and the packet completes when it meets the condition. -/
def State.tryWait (s : State) (p : Nat) : State :=
  match tget p s.pkts with
  | none => s
  | some x => match x.wait with
    | none => s
    | some w => match w.got with
      | some v => s.finishWait p x w v
      | none =>
        if w.sent.isSome then s
        else
          let r := s.peekPkt x w
          match r.1 with
          | .word v => (r.2.waitServed x).finishWait p x w v
          | .wait u => (if w.flt = some u then r.2 else r.2.waitFault x).setWait p { w with flt := some u }
          | .remote pa =>
            let a := (r.2.waitServed x).askWord p 0 pa
            a.2.setWait p { w with flt := none, sent := some a.1 }
          | .fail n => r.2.failWait p x w n
          -- the manual gives no subcode for a word in a failed line (log entry 103)
          | .bad => let k := r.2.choose 4; k.2.failWait p x w k.1

def execWaitPacketComplete (pkt : Nat) (s : State) : Host.Outcome State Fault Refusal := .next (s.tryWait pkt)

/-! ## The portal and the life of a queue (R374, R392) -/

/-- The answer to a Deferrable Memory Write of 64 bytes: the completion, Successful or Retry, and the packet's place in the
ring (R374). -/
def State.portalPush (s : State) (ctx off : Nat) (bytes : List Byte) : State :=
  let r := s.enqueue ctx (off / 64) bytes
  { r.2 with cpls := r.2.cpls ++ [⟨0, 0x2000000 + 4096 * ctx + off, if r.1 = 0 then 0 else 1, []⟩] }

/-- A Deferrable Memory Write to a portal page; one that is no packet is logged. Every other write of the host comes by
HOST_BAR_ACCESS. -/
def execPortalWrite (ctx off : Nat) (bytes : List Byte) (s : State) : Host.Outcome State Fault Refusal :=
  .next (if (s.ctx? ctx).isNone || s.boot.stage == 15 then s
    else if bytes.length = 64 && off % 64 = 0 && off < 4096 then s.portalPush ctx off bytes
    else s.errEntry ctx 4 0xFFFF 0 0x08 (.ofNat 64 off) (.ofNat 64 bytes.length))

/-- Management creates a queue with a ring of 2^k packets; an index or a size that the manual does not allow, or a
queue that exists, changes nothing. -/
def execQueueCreate (ctx q k : Nat) (ring : DWord) (s : State) : Host.Outcome State Fault Refusal :=
  .next (if 64 ≤ q || k < 4 || 16 < k || (tget q (s.ctx ctx).queues).isSome then s
    else s.onCtx ctx fun c => { c with queues := tset q ⟨k, ring, 0, 0, .created, [], none, none, none⟩ c.queues })

/-- Blocks of a packet that never started. -/
def pktBlocks (bs : List Byte) : Nat :=
  match pktType bs with
  | 1 => pktNblk bs
  | 2 => 12 * (pktRows bs).length
  | 3 => byteAt bs 24 4
  | 4 => 1
  | _ => 0

/-- A packet of the ring is abandoned: at once, but for one that may complete only after every earlier packet (R382,
R392). -/
def State.abandonOne (s : State) (ctx q : Nat) (x : Queue) (bs : List Byte) : State :=
  if !(sigOk (byteAt bs 48 8) (byteAt bs 60 4)) then s
  else if (pktOrd bs || pktType bs = 6 || pktType bs = 7) && !x.open_.isEmpty then
    let n := s.fresh
    let p : Packet :=
      { ctx := ctx, q := q, die := 0, slot := 0, kind := 7, idx := 0, seq := n.1, lnch := 0, attr := Attr.none,
        nblk := pktBlocks bs, next := 0, prio := 0, cfirst := 0, ccnt := 1, rot := 0, alive := 0, faults := 0, status := 1,
        csig := pktCsig bs, cval := pktCval bs, ctrl := pktCtrl bs, wait := none, graph := none, rows := [], fenced := 0,
        held := true }
    { n.2 with pkts := n.2.pkts ++ [(n.1, p)] }.onQ ctx q fun y => { y with open_ := y.open_ ++ [n.1] }
  else s.completeSignal ctx 0 0 (pktCsig bs) (pktCval bs) (pktCtrl bs) 1 (pktBlocks bs)

/-- The packets that stand in the ring are abandoned, in order. -/
def State.abandonRing (s : State) (ctx q : Nat) : Nat → State
  | 0 => s
  | n + 1 =>
    match tget q (s.ctx ctx).queues with
    | none => s
    | some x =>
      if x.wr ≤ x.rd then s
      else
        let r := s.hwRead ctx (x.ring + .ofNat 64 (64 * (x.rd % 2 ^ x.k))) 64
        let s1 := match r.1 with
          | some bs => r.2.abandonOne ctx q x bs
          | none => r.2
        State.abandonRing (s1.onQ ctx q fun y => { y with rd := y.rd + 1 }) ctx q n

/-- An open packet of a queue that is destroyed: what is not bound is abandoned; its rows are fenced (R369). -/
def State.abandon (s : State) (p : Nat) : State :=
  match tget p s.pkts with
  | none => s
  | some x =>
    let s1 := ((s.die x.die).rows.filter fun r => r.pkt == p).foldl (fun s r => s.fenceStream x.die r 6) s
    let s2 := (s1.onPkt p fun k =>
      { k with status := if k.status = 0 then 1 else k.status, wait := none,
               nblk := if k.kind = 3 || k.kind = 4 then
                 (s1.tasks.filter fun t => t.2.pkt == some p && s1.waitsFor false t.2).length else k.nblk }).dropWaiting p false
    s2.settlePkt p

def execQueueDestroy (ctx q : Nat) (s : State) : Host.Outcome State Fault Refusal :=
  .next (match tget q (s.ctx ctx).queues with
    | none => s
    | some x =>
      let clear (w : DWord × DWord) : DWord × DWord :=
        if w.1.getLsbD 0 && fld w.1 16 16 == ctx && fld w.1 32 6 == q then (w.1 &&& ~~~1, w.2) else w
      let s1 := (s.onQ ctx q fun y => { y with state := .draining }).abandonRing ctx q (x.wr - x.rd)
      let s2 : State := { s1 with dies := s1.dies.map fun d => { d with slots := d.slots.map clear } }
      let s3 := x.open_.foldl State.abandon s2
      s3.onCtx ctx fun c => { c with queues := c.queues.filter fun y => !(y.2.state == .draining && y.2.open_.isEmpty) })

def execBindRecordWrite (die slot : Nat) (w0 w1 : DWord) (s : State) : Host.Outcome State Fault Refusal :=
  .next (if 64 ≤ slot then s
    else s.onDie die fun d => { d with binds := (d.binds.filter fun b => b.1 != slot) ++
      [(slot, w0 &&& 0x3FFFFF003F#64, w1 &&& 0xFFFF#64)] })

end Sys2Proof.Machine
end

