-- ==== Sys2Proof/Machine/Fabric.lean ====
section
/-! DEFINITION. What comes back from PCI Express and from the fabric, and the requests of other packages that this
package performs (R487, R495, R511 to R515, R535). -/

namespace Sys2Proof.Machine

/-! ## Answers -/

/-- An answer to the request that an owner sent under an identifier: a collective, a preload, a WAIT packet, a
continuation, a copy, an engine command or a lane. -/
def State.routeAnswer (s : State) (owner id lane : Nat) (r : Option (List Byte)) : State :=
  let k := (s.course owner).coreKey
  let word (w : WaitA) (bs : List Byte) : WaitA := { w with sent := none, got := some (wordOf bs) }
  let asks (w : Option WaitA) : Option WaitA := w.bind fun w => if w.sent = some id then some w else none
  if (s.coll? id).isSome then s.answerColl id lane r
  else if s.dies.any fun d => d.rows.any fun q => q.id == id then s.answerRow id lane r
  else match (tget owner s.pkts).bind fun p => (asks p.wait).map fun w => (p, w) with
    | some (p, w) =>
      (match r with
       | some bs => s.setWait owner (word w bs)
       | none => s.failWait owner p w 0)
    | none => match (tget owner s.conts).bind fun c => asks c.desc with
      | some w =>
        (match r with
         | some bs => s.onContn owner fun c => { c with desc := some (word w bs) }
         | none => s.onContn owner fun c => { c with lost := true })
      | none =>
        if (s.copy? k id).isSome then s.answerCopy k id lane r
        else if (s.cmd? k id).isSome then s.answerCmd k id lane r.isSome
        else s.answerLane owner id lane r

/-- A completion signal that could not be written is logged (R383). -/
def State.csigFails (s : State) (g : SigInfo) : State :=
  match g.word with
  | some w => s.errEntry g.ctx g.die 0xFFFF g.lnch 0x09 g.csig (w.setWidth 64)
  | none => s

/-! ## PCI Express (R487, R535) -/

/-- n bytes of an answer. -/
def padTo (n : Nat) (bs : List Byte) : List Byte := (List.range n).map fun i => bs.getD i 0

/-- XERR in the ring of the context whose request has failed. -/
def State.xerr (s : State) (r : PcieReq) (status : Nat) : State :=
  match r.sig with
  | some g =>
    if g.word.isSome then s.csigFails g
    else s.errEntry g.ctx g.die 0xFFFF g.lnch 0x24 (.ofNat 64 r.pa) (.ofNat 64 status)
  | none => s.errEntry r.ctx r.die r.core r.lnch 0x24 (.ofNat 64 r.pa) (.ofNat 64 status)

/-- An open request is over: with its bytes, or failed under a status. -/
def State.endPcie (s : State) (r : PcieReq) (ok : Bool) (status : Nat) (data : List Byte) : State :=
  let s1 := { s with pcie := s.pcie.filter fun q => q.id != r.id }
  let answer (s : State) (a : Option (List Byte)) : State :=
    if r.sig.isSome then s else s.routeAnswer r.course r.op r.lane a
  if ok then answer s1 (some (padTo (if r.kind = 0 then r.n else 4) data)) else answer (s1.xerr r status) none

/-- The non-posted request that a completion or a timeout ends: one of the 768 that may be outstanding, the oldest; others wait
at the port (R484). -/
def State.openPcie (s : State) (req : Nat) : Option PcieReq := ((s.pcie.filter (·.open_)).take 768).find? fun r => r.id == req

def execPcieCompletion (req : Nat) (ok : Bool) (status : BitVec 8) (data : List Byte) (s : State) :
    Host.Outcome State Fault Refusal :=
  .next (match s.openPcie req with
    | some r => s.endPcie r ok status.toNat data
    | none => s)

def execPcieRequestTimeout (req : Nat) (s : State) : Host.Outcome State Fault Refusal :=
  .next (match s.openPcie req with
    | some r => s.endPcie r false 0xFF []
    | none => s)

/-! ## Requests from other packages (R511 to R515) -/

/-- The response to a request (R513, R515). -/
def answerFlit (f : Flit) (own : Nat) (payload : List Byte) : Flit :=
  { f with rsp := true, vc := 2, len := .ofNat 8 payload.length, dst := f.src, src := .ofNat 10 own, payload := payload }

/-- Bytes written at their homes, line by line. -/
def State.writeLines (s : State) : Nat → Nat → List Byte → State
  | 0, _, _ => s
  | n + 1, pa, bs =>
    if bs.isEmpty then s
    else
      let k := 64 - pa % 64
      State.writeLines (s.storePa pa (bs.take k)) n (pa + k) (bs.drop k)

/-- Whether n bytes of this package lie in storage and their lines can be read. -/
def State.readableAt (s : State) (pa n : Nat) : Bool :=
  stored s.regs.hbmilv pa && (List.range (pa % 64 + n)).all fun i => i % 64 != 0 || !s.lineFailed (lineOf pa + i)

/-- Whether the OP of an atomic flit is given (R515). -/
def flitOpOk (f : Flit) : Bool := !f.op.getLsbD 7 && (f.op.getLsbD 4 || decide (f.op.toNat % 16 ≤ 9))

/-- The words that an atomic flit updates: one, or those of the line that its tile update covers (R302, R515; log
entry 102). -/
def flitWords (f : Flit) : Nat := if f.op.getLsbD 4 then 1 else max 1 (f.len.toNat / 4)

/-- The new word of an atomic flit, w being the old one at its place (R515). -/
def flitUpdate (f : Flit) (i : Nat) (w : Word) : Word :=
  let v := wordOf ((f.payload.drop (4 * i)).take 4)
  if f.op.getLsbD 4 then (if w = wordOf ((f.payload.drop 4).take 4) then v else w) else amoWord (f.op.toNat % 16) w v

/-- The bytes after an atomic flit, old being those before it. -/
def flitBytes (f : Flit) (old : List Byte) : List Byte :=
  ((List.range (flitWords f)).map fun i => bytesOf 4 (flitUpdate f i (wordOf ((old.drop (4 * i)).take 4)))).flatten

/-- A request performed at its target: the payload of its response, none where there is none. -/
def State.performFlit (s : State) (f : Flit) : Option (List Byte) × State :=
  let pa := fabLocal f.addr.toNat
  let n := f.len.toNat
  match f.kind.toNat with
  | 0 => if s.readableAt pa n then (some (s.readPa pa n), s.dieUse false pa n) else (none, s)
  | 1 => if stored s.regs.hbmilv pa then (some [], s.writeLines 5 pa (padTo n f.payload)) else (none, s)
  | 2 =>
    let k := 4 * flitWords f
    if !s.readableAt pa k || !flitOpOk f then (none, s)
    else
      let old := s.readPa pa k
      (some (if f.op.getLsbD 6 then old else []), (s.dieUse false pa k).writePa pa (flitBytes f old))
  | 3 => (some [], s.onFab fun x => { x with reduces := x.reduces ++ [f] })
  | 4 => (some [], s.onFab fun x => { x with messages := x.messages ++ [f] })
  | _ => (none, s)

/-- A request is open no more (R513). -/
def State.dropReq (s : State) (tag : BitVec 16) : State :=
  s.onFab fun x => { x with reqs := x.reqs.filter fun q => q.tag != tag, oldWay := x.oldWay.filter fun o => o.2 != tag }

def State.sendFlit (s : State) (f : Flit) : State := s.onFab fun x => { x with sent := x.sent ++ [f] }

/-- A request that has arrived: one that came before is answered as before, and every other is performed. -/
def State.takeRequest (s : State) (f : Flit) : State :=
  match s.fab.kept.find? fun k => k.1 == f.src && k.2.1 == f.tag with
  | some k => s.sendFlit k.2.2
  | none =>
    let r := s.performFlit f
    match r.1 with
    | none => r.2
    | some bs =>
      let a := answerFlit f s.ownIdx bs
      (r.2.onFab fun x => { x with kept := x.kept ++ [(f.src, f.tag, a)] }).sendFlit a

/-- A response that has arrived ends its request. -/
def State.takeResponse (s : State) (f : Flit) : State :=
  match s.fab.reqs.find? fun r => r.tag == f.tag && r.dst == f.src with
  | none => s
  | some r =>
    let s1 := s.dropReq r.tag
    if r.sig.isSome then s1
    else s1.routeAnswer r.course r.op r.lane (some (if f.payload.isEmpty then [0, 0, 0, 0] else f.payload))

/-- A flit that has arrived at this package; one for another package goes on. -/
def State.takeFlit (s : State) (f : Flit) : State :=
  if f.dst.toNat != s.ownIdx then s.sendFlit f
  else if f.rsp then s.takeResponse f
  else if f.kind.toNat ≤ 4 then s.takeRequest f
  else s

/-- A request flit of a kind. -/
def flitEvent (kind : Nat) (f : Flit) (s : State) : Host.Outcome State Fault Refusal :=
  .next (if f.kind.toNat = kind && !f.rsp then s.takeFlit f else s)

def execFlitRead (f : Flit) (s : State) : Host.Outcome State Fault Refusal := flitEvent 0 f s
def execFlitWrite (f : Flit) (s : State) : Host.Outcome State Fault Refusal := flitEvent 1 f s
def execFlitAtomic (f : Flit) (s : State) : Host.Outcome State Fault Refusal := flitEvent 2 f s
def execFlitReduce (f : Flit) (s : State) : Host.Outcome State Fault Refusal := flitEvent 3 f s
def execFlitMessage (f : Flit) (s : State) : Host.Outcome State Fault Refusal := flitEvent 4 f s

def execFlitResponse (f : Flit) (s : State) : Host.Outcome State Fault Refusal :=
  .next (if f.rsp then s.takeFlit f else s)

/-- FABRIC_REQUEST_TIMEOUT (R513). -/
def execFabricRequestTimeout (tag : BitVec 16) (s : State) : Host.Outcome State Fault Refusal :=
  .next (match s.fab.reqs.find? fun r => r.tag == tag with
    | none => s
    | some r =>
      let s1 := s.dropReq tag
      match r.sig with
      | some g => s1.csigFails g
      | none => s1.routeAnswer r.course r.op r.lane none)

/-- RESPONSE_RETENTION_EXPIRY (R513). -/
def execResponseRetentionExpiry (src : BitVec 10) (tag : BitVec 16) (s : State) : Host.Outcome State Fault Refusal :=
  .next (s.onFab fun x => { x with kept := x.kept.filter fun k => !(k.1 == src && k.2.1 == tag) })

end Sys2Proof.Machine
end

