-- ==== Sys2Proof/Machine/Manage.lean ====
section
/-! DEFINITION. What the management cores and the health hardware do: registers, translation faults and
invalidation, contexts, errors, fencing and the thermal throttle (R220, R250, R388, R394, R403, R409, R455, R465 to
R468, R479 to R481, R485, R486, R494 to R500, R533, R538). -/

namespace Sys2Proof.Machine

/-! ## Registers with behaviour (R388, R409, R465, R480, R481) -/

/-- The nearest value within limits. -/
def clampTo (lo hi v : Nat) : Nat := max lo (min hi v)

/-- CTXPDL: a value beyond 1 to 1,000 goes to the nearest limit (log entry 23). -/
def execCtxpdlWrite (die : Nat) (v : DWord) (s : State) : Host.Outcome State Fault Refusal :=
  .next (s.onCtx (s.die die).ctxsel fun c => { c with pdl := clampTo 1 1000 (fld v 0 10) })

def execKtrepWrite (die : Nat) (v : DWord) (s : State) : Host.Outcome State Fault Refusal :=
  .next (let key := fld v 0 16 * 4 + die
    let k := s.key key
    if k.st ≠ 3 then s
    else
      let s1 := if v.getLsbD 16 then s.backLines (die, k.rcore) k.lines else s
      ((s1.unhold key).onKey key fun k => { k with st := 0, nsh := 0, lines := [] }).grants)

/-- The first page number of an invalidation, in units of 4 KiB. -/
def invVpn (v : DWord) : Nat := fld v 16 45

/-- Whether a cached entry translates an address that an invalidation covers. -/
def covered (v : DWord) (n : Nat) (t : TlbEntry) : Bool :=
  t.ctx == fld v 0 16 && (n = 0 || meets (t.vpn * 512 ^ (t.level - 1), 512 ^ (t.level - 1)) (invVpn v, n))

/-- Held writes take effect in order, up to the next invalidation. -/
def releaseHeld (r : Regs) : Nat → Regs
  | 0 => r
  | k + 1 =>
    if r.tlbBusy.isSome then r
    else match r.tlbHeld with
      | [] => r
      | (true, v) :: l => releaseHeld { r with tlbN := v.setWidth 32, tlbHeld := l } k
      | (false, v) :: l => releaseHeld { r with tlbBusy := some v, tlbBusyN := r.tlbN, tlbHeld := l } k

/-- A write of TLBINV or TLBINVN joins the held ones, and takes effect at once when DONE is 1. -/
def Regs.tlbWrite (r : Regs) (count : Bool) (v : DWord) : Regs :=
  releaseHeld { r with tlbHeld := r.tlbHeld ++ [(count, v)] } (r.tlbHeld.length + 1)

def execTlbinvnWrite (v : DWord) (s : State) : Host.Outcome State Fault Refusal :=
  .next (s.onRegs fun r => r.tlbWrite true v)

def execTlbinvWrite (v : DWord) (s : State) : Host.Outcome State Fault Refusal :=
  .next (s.onRegs fun r => r.tlbWrite false v)

/-- Whether an invalidation covers an address of a context. -/
def coversVa (v : DWord) (n ctx : Nat) (va : DWord) : Bool := covered v n ⟨ctx, vpnAt 1 va, 1, 0⟩

/-- Whether an access that was translated before has gone out to the host or to another package and is not performed: of a
lane, a wait, a preload, a copy, a collective, or a matrix command (R465). A write of an engine keeps no address, and is
waited for whatever it is. -/
def State.oldAccess (s : State) (v : DWord) (n : Nat) : Bool :=
  let ctx := fld v 0 16
  let out (ls : List LaneAcc) : Bool := ls.any fun l => l.st == .sent && coversVa v n ctx l.addr
  (s.courses.any fun c => c.2.info.ctx == ctx &&
    ((c.2.ops.any fun o => o.lanes.any fun l => l.st == .sent && coversVa v n ctx (o.va l)) ||
      c.2.lanes.any fun l => match l.wa with | some w => w.sent.isSome && coversVa v n ctx w.va | none => false)) ||
  (s.cores.any fun k => (k.2.copies.any fun c => c.ctx == ctx && (out c.reads || !c.acks.isEmpty)) ||
    k.2.mq.any fun m => m.kind == .mdst && m.started && (s.course m.course).info.ctx == ctx) ||
  (s.colls.any fun c => c.2.ctx == ctx && (out c.2.reads || !c.2.acks.isEmpty)) ||
  (s.dies.any fun d => d.rows.any fun r => r.ctx == ctx && out r.reads) ||
  (s.pkts.any fun p => p.2.ctx == ctx && match p.2.wait with
    | some w => w.sent.isSome && coversVa v n ctx w.va
    | none => false) ||
  (s.conts.any fun k => (s.course k.2.course).info.ctx == ctx && match k.2.desc with
    | some w => w.sent.isSome && coversVa v n ctx w.va
    | none => false)

/-- TLBINV_DONE: covered copies are discarded once no access through an old value is outstanding (R465). -/
def execTlbinvDone (s : State) : Host.Outcome State Fault Refusal :=
  .next (match s.regs.tlbBusy with
    | none => s
    | some v =>
      if s.oldAccess v s.regs.tlbBusyN.toNat then s
      else
      let s1 : State := { s with tlb := s.tlb.filter fun t => !covered v s.regs.tlbBusyN.toNat t }
      s1.onRegs fun r => releaseHeld { r with tlbBusy := none } (r.tlbHeld.length + 1))

def execGovstepWrite (ctx : Nat) (v : DWord) (s : State) : Host.Outcome State Fault Refusal :=
  .next (s.onCtx ctx fun c => { c with gov := c.gov.step s.time v })

def execGovdWrite (ctx : Nat) (v : DWord) (s : State) : Host.Outcome State Fault Refusal :=
  .next (s.onCtx ctx fun c => { c with gov := { c.gov with govd := v, mark := .ofNat 64 s.time, nstp := 0 } })

/-! ## Faults (R466, R467) -/

/-- FAULT_RECORD_WRITE: the record goes to the fault ring when it has space. -/
def State.writeRecord (s : State) (ctx fid : Nat) : State :=
  match s.faults.find? fun f => f.ctx == ctx && f.uid % 2 ^ 16 == fid && !f.written with
  | none => s
  | some f =>
    let c := s.ctx ctx
    let size := 2 ^ c.frsize
    if (c.frtail + 1) % size = c.frhead % size then s
    else
      let lnch := if s.lnchLive f.lnch then f.lnch.toNat else 0
      let bytes := leBytes 8 f.va.toNat ++ leBytes 2 f.uid ++ leBytes 1 (f.kind + if f.inWalk then 128 else 0) ++
        leBytes 1 f.die ++ leBytes 4 lnch ++ leBytes 8 s.time ++ leBytes 8 0
      let w := s.hwWrite ctx (c.frbase + .ofNat 64 (32 * c.frtail)) bytes
      if !w.1 then s
      else
        let mark (g : FaultRec) : FaultRec := if g.uid = f.uid then { g with written := true } else g
        { w.2 with faults := w.2.faults.map mark }.onCtx ctx fun x => { x with frtail := (x.frtail + 1) % size }

def execFaultRecordWrite (ctx fid : Nat) (s : State) : Host.Outcome State Fault Refusal := .next (s.writeRecord ctx fid)

/-- An answer to a fault whose record has been written. -/
def State.answerFault (s : State) (ctx : Nat) (fid : BitVec 16) (code : Nat) : State :=
  match s.faults.find? fun f => f.ctx == ctx && f.uid % 2 ^ 16 == fid.toNat && f.written with
  | none => s
  | some f => { s with faults := s.faults.filter (fun g => g.uid != f.uid), answers := s.answers ++ [(f.uid, code)] }

def execFltrespRetry (ctx : Nat) (fid : BitVec 16) (s : State) : Host.Outcome State Fault Refusal :=
  .next (s.answerFault ctx fid 0)
def execFltrespFailUnmapped (ctx : Nat) (fid : BitVec 16) (s : State) : Host.Outcome State Fault Refusal :=
  .next (s.answerFault ctx fid 1)
def execFltrespFailPermission (ctx : Nat) (fid : BitVec 16) (s : State) : Host.Outcome State Fault Refusal :=
  .next (s.answerFault ctx fid 2)

/-! ## Plain registers (R8) -/

def State.setGov (s : State) (ctx : Nat) (f : Gov → Gov) : State := s.onCtx ctx fun c => { c with gov := f c.gov }
def State.onHealth (s : State) (die : Nat) (f : Health → Health) : State :=
  s.onDie die fun d => { d with health := f d.health }

/-- A write of the RW fields of a register. -/
def State.setReg (s : State) (r : RegName) (v : DWord) : State :=
  match r with
  | .wdt d => s.onDie d fun x => { x with wdt := clampTo 10 60000 (fld v 0 32) }
  | .qnt d l => s.onDie d fun x => { x with qnt := setAt l (clampTo 100 10000 (fld v 0 14)) x.qnt }
  | .ctxsel d => s.onDie d fun x => { x with ctxsel := fld v 0 12 }
  | .capbase c => s.onCtx c fun x => { x with capbase := v }
  | .capsize c => s.onCtx c fun x => { x with capsize := fld v 0 32 }
  | .rpbase c => s.onCtx c fun x => { x with rpbase := v }
  | .rpsize c => s.onCtx c fun x => { x with rpsize := fld v 0 21 }
  | .errbase c => s.onCtx c fun x => { x with errbase := v }
  | .errsize c => s.onCtx c fun x => { x with errsize := fld v 0 5 }
  | .errhead c => s.onCtx c fun x => { x with errhead := fld v 0 16 }
  | .ctxpt c => s.onCtx c fun x => { x with ctxpt := v &&& 0xFFFFFFFFFFF000#64 }
  | .frbase c => s.onCtx c fun x => { x with frbase := v }
  | .frsize c => s.onCtx c fun x => { x with frsize := fld v 0 5 }
  | .frhead c => s.onCtx c fun x => { x with frhead := fld v 0 16 }
  | .mbxf i => s.onRegs fun x => { x with mbxf := setAt i v x.mbxf }
  | .mbhld i => s.onRegs fun x => { x with mbhld := setAt i v x.mbhld }
  | .mbstl i => s.onRegs fun x => { x with mbstl := setAt i v x.mbstl }
  | .lreq i => s.onRegs fun x => { x with lreq := setAt i v x.lreq }
  | .rreq i => s.onRegs fun x => { x with rreq := setAt i v x.rreq }
  | .hrd i => s.onRegs fun x => { x with hrd := setAt i v x.hrd }
  | .hwr i => s.onRegs fun x => { x with hwr := setAt i v x.hwr }
  | .govtail c => s.setGov c fun g => { g with tail := .ofNat 40 (fld v 0 40) }
  | .dcap d => if d = 4 then s else s.onHealth d fun h => { h with dcap := fld v 0 12 }
  | .pcap => s.onRegs fun x => { x with pcap := fld v 0 12 }
  | .fabid => s.onFab fun x => { x with fabid := v &&& 0x3FF1FFFFF#64 }
  | .bar2 => s.onRegs fun x => { x with hbar2 := v }
  | .bar2size => if v.toNat ≤ 9 then s.onRegs fun x => { x with bar2 := v.toNat } else s
  | .flashIlv => { s with boot := { s.boot with flashIlv := some (fld v 0 8) } }
  | .floorStep d => s.onHealth d fun h => { h with floor := min 8 (fld v 0 4), step := max h.step (min 8 (fld v 0 4)) }

def execRegisterWrite (reg : RegName) (v : DWord) (s : State) : Host.Outcome State Fault Refusal := .next (s.setReg reg v)

/-- What management reads: the registers of RegName, and those outside it. -/
inductive ViewName where
  | reg (r : RegName)
  | errtail (ctx : Nat) | frtail (ctx : Nat) | capfree (ctx : Nat) | rpfree (ctx : Nat) | ctxpdl (die : Nat)
  | tlbinv | tlbinvn | fltresp
  | slot (die n word : Nat) | key (key word : Nat)
  deriving DecidableEq, Repr

/-- A register of RegName as a read sees it: reserved bits are 0 (R8). -/
def State.readReg (s : State) (r : RegName) : DWord :=
  let n (x : Nat) : DWord := .ofNat 64 x
  match r with
  | .wdt d => n (s.die d).wdt
  | .qnt d l => n ((s.die d).qnt.getD l 0)
  | .ctxsel d => n (s.die d).ctxsel
  | .capbase c => (s.ctx c).capbase
  | .capsize c => n (s.ctx c).capsize
  | .rpbase c => (s.ctx c).rpbase
  | .rpsize c => n (s.ctx c).rpsize
  | .errbase c => (s.ctx c).errbase
  | .errsize c => n (s.ctx c).errsize
  | .errhead c => n (s.ctx c).errhead
  | .ctxpt c => (s.ctx c).ctxpt
  | .frbase c => (s.ctx c).frbase
  | .frsize c => n (s.ctx c).frsize
  | .frhead c => n (s.ctx c).frhead
  | .mbxf i => s.regs.mbxf.getD i 0
  | .mbhld i => s.regs.mbhld.getD i 0
  | .mbstl i => s.regs.mbstl.getD i 0
  | .lreq i => s.regs.lreq.getD i 0
  | .rreq i => s.regs.rreq.getD i 0
  | .hrd i => s.regs.hrd.getD i 0
  | .hwr i => s.regs.hwr.getD i 0
  | .govtail c => (s.ctx c).gov.tail.setWidth 64
  | .dcap d => if d = 4 then 0 else n ((s.die d).health.dcap % 2 ^ 12)
  | .pcap => n (s.regs.pcap % 2 ^ 12)
  | .fabid => s.fab.fabid
  | .bar2 => s.regs.hbar2
  | .bar2size => n s.regs.bar2
  | .flashIlv => n (s.boot.flashIlv.getD 0)
  | .floorStep d => n (s.die d).health.floor

/-- A read of a register by management: write-only fields read 0 (R8, R388, R393, R394, R403, R464, R466, R533). -/
def State.view (s : State) : ViewName → DWord
  | .reg r => s.readReg r
  | .errtail c => .ofNat 64 (s.ctx c).errtail
  | .frtail c => .ofNat 64 (s.ctx c).frtail
  | .capfree c => .ofNat 64 (s.capfree c)
  | .rpfree c => .ofNat 64 (s.ctx c).rpfree
  | .ctxpdl d => .ofNat 64 (s.ctx (s.die d).ctxsel).pdl
  | .tlbinv | .fltresp => 0
  | .tlbinvn => if s.regs.tlbBusy.isSome then 0 else 0x100000000#64
  | .slot d i w => let e := (s.die d).slots.getD i (0, 0); if w = 0 then e.1 else e.2
  | .key k w => if w = 0 then (s.key k).words.1 else (s.key k).words.2

/-! ## Die caches and BAR2 (R454, R455, R486) -/

/-- DIE_CACHE_WRITEBACK: a dirty line of the die cache is written back and stays clean, or a line that it does not hold is
refilled; each is counted at its stack, and no agent can read a difference (R454, R455, R474). -/
def execDieCacheWriteback (pa : Nat) (wr : Bool) (s : State) : Host.Outcome State Fault Refusal :=
  .next (let ln := lineOf pa
    if wr then
      (if tget ln s.dcache = some true then { s with dcache := tset ln false s.dcache, regs := s.regs.hbm ln true } else s)
    else s.dieLine false false ln)

/-- The physical address of an offset in BAR2, none beyond its size or the memory (R485, R486). -/
def State.barPa (s : State) (off : Nat) : Option Nat :=
  let h := s.regs.hbmilv
  let q := off - 4 * h * 2 ^ 30
  let side := (128 - h) * 2 ^ 30
  if 2 ^ (30 + s.regs.bar2) ≤ off then none
  else if off < 4 * h * 2 ^ 30 then some off
  else if side = 0 || 4 ≤ q / side then none
  else some (2 ^ 52 + q / side * 2 ^ 37 + h * 2 ^ 30 + q % side)

/-- Bytes written by the host, line by line. -/
def State.barWrite (s : State) : Nat → Nat → List Byte → State
  | 0, _, _ => s
  | n + 1, off, bs =>
    if bs.isEmpty then s
    else
      let k := 64 - off % 64
      let s1 := match s.barPa off with | some pa => s.writePa pa (bs.take k) | none => s
      State.barWrite s1 n (off + k) (bs.drop k)

/-- Bytes read by the host, line by line; none when a line has failed (R455). -/
def State.barRead (s : State) : Nat → Nat → Nat → Option (List Byte) × State
  | 0, _, _ => (some [], s)
  | k + 1, off, n =>
    if n = 0 then (some [], s)
    else
      let m := min n (64 - off % 64)
      match s.barPa off with
      | none => (none, s)
      | some pa =>
        if s.lineFailed (lineOf pa) then (none, s)
        else
          let r := s.homeRead pa m
          let t := State.barRead r.2 k (off + m) (n - m)
          (t.1.map fun bs => r.1 ++ bs, t.2)

/-- The completion of a read of the host: its bytes, or Completer Abort (R455, R486). -/
def State.complete (s : State) (bar off : Nat) (r : Option (List Byte)) : State :=
  { s with cpls := s.cpls ++ [⟨bar, off, if r.isSome then 0 else 2, r.getD []⟩] }

/-- Where an offset of an access of the host names BAR0 instead of BAR2, the model's own numbering (log entry 1). -/
def bar0At : Nat := 2 ^ 63

/-- Whether the package answers the host at a BAR: in recovery BOOTST alone does (R491). -/
def State.answersBar (s : State) (wr : Bool) (off n : Nat) : Bool :=
  s.boot.stage != 15 || (!wr && bar0At ≤ off && off + n ≤ bar0At + 8)

/-- HOST_BAR_ACCESS: through BAR2 at the homes of the lines (R486), through BAR0 at the registers, those of management
apart (R485). -/
def execHostBarAccess (wr : Bool) (off n : Nat) (bytes : List Byte) (s : State) : Host.Outcome State Fault Refusal :=
  .next (if !s.answersBar wr off n then s
    else if bar0At ≤ off then
      (if bar0At + 2 ^ 26 < off + n then s
       else if wr then s.mmioWrite (off - bar0At) (bytes.take n) false
       else s.complete 0 (off - bar0At) (some (s.mmioRead (off - bar0At) n)))
    else if wr then s.barWrite (min n bytes.length / 64 + 2) off (bytes.take n)
    else
      let r := s.barRead (n / 64 + 2) off n
      r.2.complete 2 off r.1)

/-! ## Contexts (R392, R499, R538) -/

/-- A context that management creates; one that exists stays as it is, and in recovery no management runs (R491). -/
def execContextCreate (ctx : Nat) (cbase : DWord) (s : State) : Host.Outcome State Fault Refusal :=
  .next (if 4096 ≤ ctx || (s.ctx? ctx).isSome || s.boot.stage == 15 then s
    else { s with ctxs := s.ctxs ++ [(ctx, { Ctx.start with cbase := cbase })] })

/-- A reset ends every block of the context by a fault, and its queues enter ERROR; the manual gives the fence of its
rows no TSB. -/
def execContextReset (ctx : Nat) (s : State) : Host.Outcome State Fault Refusal :=
  .next (let k := s.choose 6
    ((List.range 4).foldl (fun s d => s.endContext d ctx (1 + k.1)) k.2).errorQueues none ctx)

/-! ## Errors (R220, R250, R455, R494 to R498) -/

/-- A saturating 32-bit counter one up. -/
def sat32 (n : Nat) : Nat := min (n + 1) (2 ^ 32 - 1)

def execSoftErrorCorrected (die : Nat) (src : SoftSrc) (s : State) : Host.Outcome State Fault Refusal :=
  .next (s.onHealth die fun h => match src with
    | .sram => { h with cesr := sat32 h.cesr }
    | .dieCache => { h with cedc := sat32 h.cedc }
    | .hbm => { h with cehb := sat32 h.cehb })

/-- Contexts with a block on the cores of a die that a test picks. -/
def State.contextsOn (s : State) (die : Nat) (p : Nat → Bool) : List Nat :=
  ((s.blocks.filter fun b => b.2.die == die && p b.2.core).map (·.2.ctx)).eraseDups

def hweUnit : HweSrc → Nat
  | .memoryLine => 0 | .scratchpad => 1 | .registerPool => 2 | .intersection => 3 | .engine => 4

/-- The oldest read of a course with a lane still open on some place fails there: its lanes are not written, and it ends
with HWE (R220). none when the course has no such read. -/
def State.failRead (s : State) (c src : Nat) (hit : MemOp → LaneAcc → Bool) : Option State :=
  match (s.course c).ops.find? fun o => o.reads && o.lanes.any fun l => l.open_ && hit o l with
  | none => none
  | some o =>
    let bad (s : State) (l : LaneAcc) : State := (s.laneBad c o.id l src).putLane c o.id l.fail
    let s1 := (o.lanes.filter fun l => l.open_ && hit o l).foldl bad s
    some (if o.fixedFn then s1.settleFixed c o.id else match o.kind with
      | .rest => s1
      | _ => s1.settleOp c o.id)

/-- Some read of a course that no open operation stands for meets the error. -/
def State.failOr (s : State) (c : Nat) (src : HweSrc) (addr : DWord) (r : Option State) : State :=
  r.getD (s.hwError c (hweUnit src) addr)

/-- A line has failed for a reason that no course's access has met: each context concerned is told (R494, R495). -/
def State.lineLost (s : State) (die ln : Nat) (ctxs : List Nat) : State :=
  ctxs.foldl (fun s c => s.errEntry c die 0xFFFF 0 0x22 (.ofNat 64 ln) 0)
    { s with failed := if s.failed.contains ln then s.failed else ln :: s.failed }

/-- A line has failed, and is reported as LINEF (R455, R495). -/
def State.lineFails (s : State) (x : Course) (pa : Nat) : State :=
  { s with failed := if s.failed.contains (lineOf pa) then s.failed else lineOf pa :: s.failed }.errEntry
    x.info.ctx x.info.die x.info.core x.info.lnch 0x22 (.ofNat 64 (lineOf pa)) 0

/-- An error in a line of memory that a course reads. A clean copy in the L1 is discarded, and a clean one in the die cache
refilled, without effect; a dirty copy is lost, and the line has failed (R250, R455). -/
def State.memoryError (s : State) (c : Nat) (x : Course) (addr : DWord) : State :=
  match (s.translate x.info.ctx addr .read).1 with
  | .ok pa =>
    if 1 < region pa then s.hwError c 0 addr
    else
      let ln := lineOf pa
      let hit (o : MemOp) (l : LaneAcc) : Bool := !inAperture (o.va l) &&
        match (s.translate x.info.ctx (o.va l) .read).1 with | .ok p => lineOf p == ln | _ => false
      let drop (s : State) : State := s.onCore x.coreKey fun k => { k with l1 := k.l1.filter fun l => l.line != ln }
      let fail (s : State) : State :=
        let t := s.lineFails x pa
        t.failOr c .memoryLine addr (t.failRead c 0 hit)
      match s.l1? x.coreKey ln with
      | some l => if l.dirty = 0 then drop s else fail (drop s)
      | none =>
        if tget ln s.dcache = some false then { s with regs := s.regs.hbm ln false }
        else fail { s with dcache := tdel ln s.dcache }
  | _ => s.hwError c 0 addr

/-- An error in an operand of a command of a course's engines, or in a tile: the oldest matrix command that reads now, else
the oldest copy or collective, fails (R305, R322, R529). -/
def State.engineError (s : State) (c : Nat) (x : Course) : State :=
  let k := s.core x.coreKey
  match k.mq.find? fun m => m.course == c && s.reading x.coreKey m with
  | some m => s.cmdBad x.coreKey m
  | none => match k.copies.find? fun m => m.course == c && m.started with
    | some m => s.copyBad m
    | none => match s.colls.find? fun m => m.2.course == c with
      | some m => s.collBad m.2
      | none => s.hwError c 4 0

/-- UNCORRECTABLE_ERROR in data that a course reads: the read fails by its source (R220, R250, R305). One in the register
pool is met by the course's next instruction that reads a register in some lane (log entry 119). -/
def State.uncorrectable (s : State) (c : Nat) (src : HweSrc) (addr : DWord) : State :=
  match s.course? c with
  | none => s
  | some x =>
    let s1 := s.onHealth x.info.die fun h => { h with ue := (h.ue + 1) % 2 ^ 32 }
    match src with
    | .memoryLine => s1.memoryError c x addr
    | .scratchpad =>
      let word := addr.toNat / 4 * 4
      s1.failOr c src addr (s1.failRead c 1 fun o l =>
        inAperture (o.va l) && meets ((apertureOff (o.va l)).toNat, o.size l) (word, 4))
    | .registerPool => s1.onCourse c fun y => { y with poolErr := some addr }
    | .intersection => s1.failOr c src addr (s1.failRead c 3 fun o _ => match o.kind with
        | .trace _ | .visq _ => true
        | _ => false)
    | .engine => s1.engineError c x

/-- Whether an instruction of the bundle in issue reads a register of the pool in some lane, while an error is to be met there
(R220). -/
def State.poolMet (s : State) (ins : Instr) : Option DWord :=
  if (s.iss.regsRead ins).any fun r => r.2.2 != 0 && (r.1 < 64 || r.1 == qwCode) then (s.course s.iss.course).poolErr else none

/-- Such an instruction writes no destination, and the course takes HWE (R220). -/
def State.poolFails (s : State) (addr : DWord) : State :=
  (s.onCourse s.iss.course fun y => { y with poolErr := none }).hwError s.iss.course 2 addr

def execUncorrectableError (course : Nat) (src : HweSrc) (addr : DWord) (s : State) : Host.Outcome State Fault Refusal :=
  .next (s.uncorrectable course src addr)

/-- UFENCE to each context concerned (R495). -/
def State.ufence (s : State) (kind die u : Nat) (ctxs : List Nat) : State :=
  ctxs.foldl (fun s c => s.errEntry c die 0xFFFF 0 0x20 (.ofNat 64 (kind + u * 256)) (.ofNat 64 die)) s

/-- A core is lost (R494, R496): its blocks start again elsewhere, or end by a fault. -/
def State.loseCore (s : State) (die core : Nat) : State :=
  let s1 := s.ufence 0 die core (s.contextsOn die (· == core))
  let s2 := s1.onCore (die, core) fun c => { c with fenced := true }
  let s3 := s2.onHealth die fun h => { h with fcore := if h.fcore.contains core then h.fcore else h.fcore ++ [core] }
  let row := (s3.die die).rows.find? fun r => Config.isTower die && r.started && r.row == core / 12
  let moved (r : RowStream) : RowStream :=
    if !r.started && r.row == core / 12 then { r with row := s3.wholeRow die r.row } else r
  let s3 := if Config.isTower die then s3.onDie die fun d => { d with rows := d.rows.map moved } else s3
  let s4 := match row with
    | some r => match r.courses.head? with
      | some c => if s3.seen (s3.course c) then s3.fenceRow die r.row 2 else s3.redispatchRow die r.row
      | none => s3
    | none => s3
  let bs := (s4.blocks.filter fun b => b.2.die == die && b.2.core == core && b.2.row.isNone && b.2.state != .ended).map (·.1)
  bs.foldl (fun s b => match s.block? b with
    | none => s
    | some _ => if s.famSeen b then s.faultBlock b else s.redispatch b) s4

def execCoreLoss (die core : Nat) (s : State) : Host.Outcome State Fault Refusal := .next (s.loseCore die core)

/-- MORTAR_LANE_FAIL: two lanes of a link are spared; beyond them only its width suffers. -/
def State.laneSpared (s : State) (link : Nat) : State :=
  s.onRegs fun r => { r with linkSpares := modAt link (· + 1) r.linkSpares }

def execMortarLaneFail (link : Nat) (s : State) : Host.Outcome State Fault Refusal := .next (s.laneSpared link)

/-- What the lost slice u of a die's cache held: a clean line is refilled, and a dirty one has failed. Which lines a slice
holds the manual leaves open (log entry 77). -/
def State.loseSlice (s : State) (die u : Nat) : State :=
  let ctxs := s.contextsOn die fun _ => true
  (s.dcache.filter fun l => homeDie l.1 == die && Config.sliceOf l.1 % 32 == u).foldl (fun s l =>
    if l.2 then ({ s with dcache := tdel l.1 s.dcache } : State).lineLost die l.1 ctxs
    else { s with regs := s.regs.hbm l.1 false }) s

/-- The lines of a lost HBM pseudo-channel have failed: those that hold a byte are reported, and all of them are by the
channel (R494, R495; log entry 77). -/
def State.loseChannel (s : State) (die u : Nat) : State :=
  let ctxs := s.contextsOn die fun _ => true
  let lines := ((s.mem.map fun c => lineOf c.1).eraseDups).filter fun l => homeDie l == die && channelOf l == u
  lines.foldl (fun s l => s.lineLost die l ctxs)
    { s with healed := s.healed.filter fun l => !(homeDie l == die && channelOf l == u) }

/-- UNIT_FAILURE (R494). -/
def execUnitFailure (kind die u : Nat) (s : State) : Host.Outcome State Fault Refusal :=
  let concerned (p : Nat → Bool) : State := s.ufence kind die u (s.contextsOn die p)
  let fail (s : State) : State := s.onDie die fun d =>
    { d with failed := if d.failed.contains (kind, u) then d.failed else d.failed ++ [(kind, u)] }
  match kind with
  | 0 => .next (s.loseCore die u)
  | 1 => .next (fail (concerned fun core => core / 4 == u))
  | 2 => .next ((concerned fun _ => true).loseSlice die u)
  | 3 => .next ((fail (concerned fun _ => true)).loseChannel die u)
  | 4 => .next (s.laneSpared u)
  | 5 => .next (s.onFab fun x => { x with ports := modAt u (fun p => if p.st = 2 then { p with st := 1, replays := 0 } else p) x.ports })
  | 6 => .next (fail (concerned fun _ => true))
  | _ => .fault .aerFatal

/-! ## Heat (R498, R500, R501) -/

/-- A sensor's reading. -/
def Health.sense (h : Health) (sensor reading : Nat) : Health :=
  { h with hflux := setAt sensor reading h.hflux, fluxmax := max h.fluxmax reading }
def Health.senseAll (h : Health) (reading : Nat) : Health :=
  { h with hflux := h.hflux.map fun _ => reading, fluxmax := max h.fluxmax reading }

def execThermalStepUp (die sensor : Nat) (reading : BitVec 16) (s : State) : Host.Outcome State Fault Refusal :=
  .next (s.onHealth die fun h =>
    let k := h.sense sensor reading.toNat
    if 1000 < reading.toNat then { k with step := min 8 (k.step + 1) } else k)

def execThermalStepDown (die : Nat) (reading : BitVec 16) (s : State) : Host.Outcome State Fault Refusal :=
  .next (s.onHealth die fun h =>
    let k := h.senseAll reading.toNat
    if reading.toNat < 900 then { k with step := max k.floor (k.step - 1) } else k)

def execThermalStop (die sensor : Nat) (reading : BitVec 16) (s : State) : Host.Outcome State Fault Refusal :=
  .next (let s1 := s.onHealth die fun h => h.sense sensor reading.toNat
    if 1150 < reading.toNat && (s1.die die).health.step = 8 then
      let s2 := s1.onHealth die fun h => { h with stopped := true }
      (s2.contextsOn die fun _ => true).foldl (fun s c =>
        s.errEntry c die 0xFFFF 0 0x23 (.ofNat 64 die) (.ofNat 64 (s2.die die).health.fluxmax)) s2
    else s1)

def execThermalResume (die : Nat) (reading : BitVec 16) (s : State) : Host.Outcome State Fault Refusal :=
  .next (s.onHealth die fun h =>
    let k := h.senseAll reading.toNat
    if reading.toNat < 900 then { k with stopped := false } else k)

end Sys2Proof.Machine
end

