-- ==== Sys2Proof/Machine/Link.lean ====
section
/-! DEFINITION. The links of the fabric: routes, flits as bytes, the checks of a received flit, acknowledgement and
replay, training and fencing (R508 to R510, R514 to R518). -/

namespace Sys2Proof.Machine

/-! ## Flits as bytes (R514 to R516) -/

/-- One byte taken into CRC-64/ECMA-182. -/
def crcBit (c : DWord) : DWord := if c.getLsbD 63 then (c <<< 1) ^^^ 0x42F0E1EBA9EA3693#64 else c <<< 1
def crcByte (c : DWord) (b : Byte) : DWord :=
  crcBit (crcBit (crcBit (crcBit (crcBit (crcBit (crcBit (crcBit (c ^^^ (b.setWidth 64 <<< 56)))))))))
def crc64 (bs : List Byte) : DWord := bs.foldl crcByte 0

/-- The header of a flit. -/
def flitHeader (f : Flit) : List Byte :=
  [.ofNat 8 (f.kind.toNat + (if f.rsp then 8 else 0) + f.vc.toNat * 16), f.len] ++ leBytes 2 f.dst.toNat ++
    leBytes 2 f.src.toNat ++ leBytes 2 f.tag.toNat ++ leBytes 5 f.addr.toNat ++ [f.op, 0, 0]

/-- A flit of 256 bytes with its sequence and acknowledgement fields. -/
def frameOf (f : Flit) (tail : Nat) : List Byte :=
  let body := flitHeader f ++ padTo 224 (f.payload.take f.len.toNat)
  let seq := leBytes 8 tail
  body ++ leBytes 8 (crc64 (body ++ seq)).toNat ++ seq

/-- The flit that 256 bytes hold, none for a reserved KIND or a reserved bit. -/
def flitOf (bs : List Byte) : Option Flit :=
  let b (i : Nat) : Nat := (bs.getD i 0).toNat
  let n (i k : Nat) : Nat := leVal ((bs.drop i).take k)
  let kind := b 0 % 8
  if kind = 5 || kind = 6 || b 0 / 64 != 0 || 224 < b 1 || n 2 2 / 1024 != 0 || n 4 2 / 1024 != 0 || n 14 2 != 0 then none
  else some
    { kind := .ofNat 3 kind, rsp := b 0 / 8 % 2 = 1, vc := .ofNat 2 (b 0 / 16), len := .ofNat 8 (b 1),
      dst := .ofNat 10 (n 2 2), src := .ofNat 10 (n 4 2), tag := .ofNat 16 (n 6 2), addr := .ofNat 40 (n 8 5),
      op := .ofNat 8 (b 13), payload := (bs.drop 16).take (b 1) }

/-! ## Routes (R509, R510, R518) -/

/-- Coordinate and extent of a dimension. -/
def coord (dim i : Nat) : Nat := match dim with | 0 => i % 16 | 1 => i / 16 % 8 | _ => i / 128 % 8
def extentOf (fabid : DWord) (dim : Nat) : Nat :=
  let e := extents fabid
  match dim with | 0 => e.1 + 1 | 1 => e.2.1 + 1 | _ => e.2.2 + 1

def State.port (s : State) (p : Nat) : Port := s.fab.ports.getD p Port.reset
def State.onPort (s : State) (p : Nat) (f : Port → Port) : State := s.onFab fun x => { x with ports := modAt p f x.ports }

/-- The port by which a flit leaves for a package, none when it is here or both ways are fenced. -/
def State.nextPort (s : State) (dst : Nat) : Option Nat :=
  match (List.range 3).find? fun d => coord d dst != coord d s.ownIdx with
  | none => none
  | some d =>
    let e := extentOf s.fab.fabid d
    let plus := (coord d dst + e - coord d s.ownIdx) % e
    let minus := (coord d s.ownIdx + e - coord d dst) % e
    let p := 2 * d + (if plus ≤ minus then 0 else 1)
    let q := 2 * d + (if plus ≤ minus then 1 else 0)
    if (s.port p).st != 3 then some p else if (s.port q).st != 3 then some q else none

/-- Whether the link at a port crosses the dateline of its dimension. -/
def State.dateline (s : State) (p : Nat) : Bool :=
  let c := coord (p / 2) s.ownIdx
  if p % 2 = 0 then c + 1 == extentOf s.fab.fabid (p / 2) else c == 0

/-- The virtual channel of a flit at the port it leaves by: the upper one of its class once it has crossed the
dateline of the dimension. -/
def State.channelFor (s : State) (p : Nat) (f : Flit) : BitVec 2 :=
  .ofNat 2 ((if f.rsp then 2 else 0) + (if f.vc.toNat % 2 = 1 || s.dateline p then 1 else 0))

/-- The lower channel of a flit's class. -/
def lowerVc (f : Flit) : Flit := { f with vc := if f.rsp then 2 else 0 }

/-- The port on the other side of a dimension's ring. -/
def otherPort (p : Nat) : Nat := if p % 2 = 0 then p + 1 else p - 1

/-- Where a flit for another package that has come in by a port goes on: within the dimension it keeps its way round and its
channel, and it starts on the lower channel in the next one (R510, R518). -/
def State.onward (s : State) (p : Nat) (f : Flit) : Option (Nat × Flit) :=
  match (List.range 3).find? fun d => coord d f.dst.toNat != coord d s.ownIdx with
  | none => none
  | some d => if d = p / 2 then some (otherPort p, f) else (s.nextPort f.dst.toNat).map fun q => (q, lowerVc f)

/-! ## Sending (R516, R517) -/

def seqMod : Nat := 2 ^ 24

/-- SEQ, ACK, ACKV and NAK of the next flit at a port. -/
def Port.tail (p : Port) : Nat :=
  p.seqTx % seqMod + (if 0 < p.seqRx then (p.seqRx - 1) % seqMod * seqMod + 2 ^ 48 else 0) + (if p.nak then 2 ^ 49 else 0)

/-- The flit goes out on the link; it is kept until it is acknowledged. -/
def Port.send (p : Port) (f : Flit) : Port :=
  { p with unacked := p.unacked ++ [frameOf f p.tail], seqTx := p.seqTx + 1, nak := false }

def State.transmit (s : State) (p : Nat) (f : Flit) : State := s.onPort p fun k => k.send { f with vc := s.channelFor p f }

/-- Whether a link takes a flit now. -/
def State.takesFlit (s : State) (p : Nat) : Bool := (s.port p).st = 2 && (s.port p).unacked.length < 1024

/-- Flits that go on by a port: where its link is fenced they turn round, while the other way is not (R510). -/
def State.pumpTransit (s : State) : State :=
  s.fab.transit.foldl (fun s t =>
    let p := if (s.port t.1).st = 3 && (s.port (otherPort t.1)).st != 3 then otherPort t.1 else t.1
    if s.takesFlit p then s.transmit p t.2 else s.onFab fun x => { x with transit := x.transit ++ [(p, t.2)] })
    (s.onFab fun x => { x with transit := [] })

/-- Whether a request must wait: one to the same package stands on an old route still, and has not been acknowledged by its
target (R510). -/
def State.waitsRoute (s : State) (f : Flit) : Bool :=
  !f.rsp && s.fab.oldWay.any fun o => o.1 == f.dst && o.2 != f.tag && s.fab.reqs.any fun r => r.dst == o.1 && r.tag == o.2

/-- Flits that wait for a link and can leave now leave, in order: those that go on first. -/
def State.pump (s : State) : State :=
  let s := if s.fab.transit.isEmpty then s else s.pumpTransit
  if s.fab.sent.isEmpty then s
  else s.fab.sent.foldl (fun s f =>
    match s.nextPort f.dst.toNat with
    | some p => if s.takesFlit p && !s.waitsRoute f then s.transmit p f else s.sendFlit f
    | none => if f.dst.toNat = s.ownIdx then s else s.sendFlit f) (s.onFab fun x => { x with sent := [] })

def idleFlit : Flit :=
  { kind := 7, rsp := false, vc := 0, len := 0, dst := 0, src := 0, tag := 0, addr := 0, op := 0, payload := [] }

/-- An idle flit carries what the other side waits for when nothing else does (R516). -/
def State.sayIdle (s : State) (p before : Nat) : State :=
  let k := s.port p
  if k.st = 2 && k.seqTx = before && k.unacked.length < 1024 then s.onPort p fun k => k.send idleFlit else s

/-! ## Receiving (R515 to R517) -/

def satAdd (n max_ : Nat) : Nat := min (n + 1) max_

/-- A discard by the link: the first one is answered with NAK. -/
def Port.discard (p : Port) (crc : Bool) : Port :=
  { p with crcerr := if crc then satAdd p.crcerr (2 ^ 32 - 1) else p.crcerr, nak := p.nak || !p.nakSent, nakSent := true }

/-- Sends again from the oldest unacknowledged flit; after 16 replays without progress the link retrains. -/
def Port.replay (p : Port) : Port :=
  if p.unacked.isEmpty then p
  else if 16 ≤ p.replays then { p with st := 1, replays := 0 }
  else { p with replays := p.replays + 1, retry := satAdd p.retry (2 ^ 16 - 1) }

/-- The flits that an acknowledgement frees. -/
def Port.acked (p : Port) (ack : Nat) : Port :=
  let first := p.seqTx - p.unacked.length
  match (List.range p.unacked.length).find? fun i => (first + i) % seqMod == ack with
  | some i => { p with unacked := p.unacked.drop (i + 1), replays := 0 }
  | none => p

/-- The link takes the next flit in order. -/
def Port.accept (p : Port) (tail : Nat) : Port :=
  let q : Port := { p with seqRx := p.seqRx + 1, nakSent := false }
  let r := if tail / 2 ^ 48 % 2 = 1 then q.acked (tail / 2 ^ 24 % seqMod) else q
  if tail / 2 ^ 49 % 2 = 1 then r.replay else r

/-- A flit that the link has delivered: for this package, or to go on. -/
def State.passOn (s : State) (p : Nat) (f : Flit) : State :=
  match s.onward p f with
  | some t => s.onFab fun x => { x with transit := x.transit ++ [t] }
  | none => s.takeFlit f

/-- A flit of 256 bytes arrives at a scale-up port. -/
def State.receive (s : State) (p : Nat) (bs : List Byte) : State :=
  let k := s.port p
  let tail := leVal ((bs.drop 248).take 8)
  if bs.length != 256 || (crc64 (bs.take 240 ++ bs.drop 248)).toNat != leVal ((bs.drop 240).take 8) then
    s.onPort p fun k => k.discard true
  else if tail % seqMod != k.seqRx % seqMod then s.onPort p fun k => k.discard false
  else
    let s1 := s.onPort p fun k => k.accept tail
    (match flitOf bs with
     | none => s1.onPort p fun k => { k with crcerr := satAdd k.crcerr (2 ^ 32 - 1) }
     | some f =>
       if tail / 2 ^ 50 != 0 then s1.onPort p fun k => { k with crcerr := satAdd k.crcerr (2 ^ 32 - 1) }
       else if f.kind = 7 || !s1.idxOk f.dst.toNat then s1
       else (s1.passOn p f).pump).sayIdle p k.seqTx

/-- FLIT_RECEIVE (R517). -/
def execFlitReceive (port : Nat) (bytes : List Byte) (s : State) : Host.Outcome State Fault Refusal :=
  .next (if 6 ≤ port || (s.port port).st != 2 then s
    else
      let t := s.receive port bytes
      if (t.port port).nak then t.sayIdle port (t.port port).seqTx else t)

/-- FLIT_REPLAY_TIMEOUT (R517); a link that has nothing to send again sends an idle flit (R516). -/
def execFlitReplayTimeout (port : Nat) (s : State) : Host.Outcome State Fault Refusal :=
  .next (if 6 ≤ port || (s.port port).st != 2 then s
    else if (s.port port).unacked.isEmpty then s.sayIdle port (s.port port).seqTx
    else s.onPort port Port.replay)

/-! ## Training and fencing (R509, R517) -/

/-- Whether a port has a neighbour: its dimension has an extent above 1. -/
def State.portUsed (s : State) (p : Nat) : Bool := p < 6 && 1 < extentOf s.fab.fabid (p / 2)

/-- LINK_TRAINED: the link comes up, an Ethernet port too; one that is fenced stays so (R508, R509). A scale-up link that has
nothing to send begins with an idle flit (R516). -/
def execLinkTrained (port : Nat) (lanes : BitVec 8) (s : State) : Host.Outcome State Fault Refusal :=
  .next (if !(s.portUsed port || (6 ≤ port && port < 14)) || 2 ≤ (s.port port).st || 16 < lanes.toNat then s
    else
      let s1 := s.onPort port fun k => { k with st := 2, lanes := lanes.toNat, replays := 0 }
      if 6 ≤ port then s1 else s1.pump.sayIdle port (s.port port).seqTx)

/-- The contexts that have a request open on the fabric. -/
def State.fabContexts (s : State) : List Nat :=
  (s.fab.reqs.map (·.ctx)).eraseDups

/-- The link is fenced: its flits go by the other way, ahead of those that came after them, and on the channel that they had
before a dateline that they have not crossed (R510, R517, R518). Later requests of this package to the packages that it reached by
the link wait until those on the old route are acknowledged. -/
def State.fenceLink (s : State) (p : Nat) : State :=
  let kept := ((s.port p).unacked.filterMap flitOf).filter fun f => f.kind != 7
  let back := kept.map fun f => (p, if s.dateline p then lowerVc f else f)
  let old := (s.fab.reqs.filter fun r => s.nextPort r.dst.toNat == some p &&
    !s.fab.sent.any fun f => !f.rsp && f.dst == r.dst && f.tag == r.tag).map fun r => (r.dst, r.tag)
  let s1 := s.onPort p fun k => { k with st := 3, lanes := 0, unacked := [], replays := 0, nak := false, nakSent := false }
  ((s1.onFab fun x => { x with transit := back ++ x.transit, oldWay := old ++ x.oldWay }).pump).ufence 5 4 p s.fabContexts

/-- LINK_TRAIN_TIMEOUT (R517). -/
def execLinkTrainTimeout (port : Nat) (s : State) : Host.Outcome State Fault Refusal :=
  .next (if !s.portUsed port || (s.port port).st != 1 then s else s.fenceLink port)

end Sys2Proof.Machine
end

