-- ==== Sys2Proof/Machine/Startup.lean ====
section
/-! DEFINITION. Power-on, the verification of the firmware images, the fused security version, attestation, and the
loss of power (R458, R490 to R493). -/

namespace Sys2Proof.Machine

/-! ## Images (R490, R491) -/

/-- The first reason for which an image of a kind is not accepted, 0 for none: its number in BOOTST.ERR. -/
def imageErr (fsvn kind : Nat) (img : List Byte) : Nat :=
  let body := (img.drop 4096).take (byteAt img 8 8)
  if byteAt img 0 4 ≠ 0x414B4657 || byteAt img 4 2 ≠ kind then 1
  else if !Config.ecdsaOk img then 2
  else if !Config.hssOk img then 3
  else if body.length ≠ byteAt img 8 8 || Config.sha384 body ≠ (img.drop 16).take 48 then 4
  else if byteAt img 6 2 < fsvn then 5
  else 0

/-- The reason for which a bank is not accepted: its four images in the order of their start. -/
def bankErr (fsvn : Nat) (imgs : List (List Byte)) : Nat :=
  ((List.range 4).map fun k => imageErr fsvn (k + 1) (imgs.getD k [])).find? (· != 0) |>.getD 0

/-- HSS indices: a run of 65,536 for each boot, out of those of a key of two levels of height 20. -/
def hssRun : Nat := 65536
def hssIndices : Nat := 2 ^ 40

/-- The boot ROM at power-on: bank A, then bank B, else recovery. The images of the bank that is accepted start one after
another (log entry 12). -/
def State.boots (s : State) (a b : List (List Byte)) (ilv : Option Nat) : State :=
  let ea := bankErr s.boot.fsvn a
  let eb := bankErr s.boot.fsvn b
  let flash := ilv.orElse fun _ => s.boot.flashIlv
  let boot : Boot := { s.boot with powered := true, flashIlv := flash, hssNext := s.boot.hssEnd,
                                   hssEnd := min hssIndices (s.boot.hssEnd + hssRun) }
  if ea = 0 || eb = 0 then
    { s with boot := { boot with stage := 0, err := 0, bankb := ea != 0, images := [], todo := (if ea = 0 then a else b).take 4 },
             regs := { s.regs with hbmilv := match flash with | some n => if n ≤ 128 then n else 64 | none => 64 } }
  else { s with boot := { boot with stage := 15, err := eb, bankb := false, images := [], todo := [] } }

def execPowerOn (a b : List (List Byte)) (ilv : Option Nat) (s : State) : Host.Outcome State Fault Refusal :=
  .next (if s.boot.powered then s else s.boots a b ilv)

/-- What a boot does with time: the next image in the order starts, and its number is the STAGE; with all four running the package
is ready (R490, R491). -/
def Boot.advance (b : Boot) : Boot :=
  match b.todo with
  | i :: l => { b with stage := b.stage + 1, images := b.images ++ [i], todo := l }
  | [] => if 1 ≤ b.stage && b.stage ≤ 4 then { b with stage := 5 } else b

/-- SVN_FUSE_RAISE (R492): to the lowest SVN of the running images, after a boot that reached STAGE 5. -/
def execSvnFuseRaise (s : State) : Host.Outcome State Fault Refusal :=
  .next (match minBy id (s.boot.images.map fun i => byteAt i 6 2) with
    | some n => if s.boot.stage = 5 then { s with boot := { s.boot with fsvn := max s.boot.fsvn (min 64 n) } } else s
    | none => s)

/-- POWER_LOSS: everything but the fuses and the flash is as reset leaves it; the signature indices that were reserved
stay consumed. -/
def execPowerLoss (s : State) : Host.Outcome State Fault Refusal :=
  .next { State.reset with
    fv := s.fv, uid := s.uid, agenda := s.agenda,
    boot := { Boot.reset with fsvn := s.boot.fsvn, flashIlv := s.boot.flashIlv, hssNext := s.boot.hssEnd,
                              hssEnd := s.boot.hssEnd } }

/-! ## Attestation (R493) -/

def State.onBoot (s : State) (f : Boot → Boot) : State := { s with boot := f s.boot }

/-- A request and its response join the transcript. -/
def Boot.answers (b : Boot) (req body : List Byte) : Boot :=
  { b with response := body, transcript := b.transcript ++ req ++ body }

/-- A response with its signatures: ECDSA, then blocks 0xF0 and 0xF1; an HSS index is used up. -/
def Boot.signed (b : Boot) (req body : List Byte) : Boot :=
  let hash := Config.sha384 (b.transcript ++ req ++ body)
  let f0 := if b.hssNext < b.hssEnd then Config.hssSign b.hssNext hash else []
  { b with response := body ++ Config.spdmSign hash ++ f0 ++ Config.hssCert, transcript := [],
           hssNext := min b.hssEnd (b.hssNext + 1) }

/-- A responder without power answers nothing. -/
def spdm (s : State) (f : Boot → Boot) : Host.Outcome State Fault Refusal :=
  .next (if s.boot.powered then s.onBoot f else s)

/-- The version answered is SPDM 1.3; a new exchange starts its transcript. -/
def execGetVersion (s : State) : Host.Outcome State Fault Refusal :=
  spdm s fun b => { b with response := [0x13], transcript := [0x13] }

def execGetCapabilities (s : State) : Host.Outcome State Fault Refusal :=
  spdm s fun b => b.answers [] (Config.spdmBody 1 b.transcript)

def execNegotiateAlgorithms (offered : List Byte) (s : State) : Host.Outcome State Fault Refusal :=
  spdm s fun b => { b.answers offered (Config.spdmBody 2 (b.transcript ++ offered)) with algs := offered }

def execGetDigests (s : State) : Host.Outcome State Fault Refusal :=
  spdm s fun b => b.answers [] (Config.sha384 Config.certChain)

/-- The ECDSA chain stands in slot 0; the other slots hold nothing. -/
def execGetCertificate (slot off n : Nat) (s : State) : Host.Outcome State Fault Refusal :=
  spdm s fun b => b.answers [] (if slot = 0 then (Config.certChain.drop off).take n else [])

def execChallenge (slot : Nat) (nonce : List Byte) (s : State) : Host.Outcome State Fault Refusal :=
  spdm s fun b => b.signed nonce (if slot = 0 then Config.sha384 Config.certChain else [])

/-- Measurement 1 to 6; none for another index. -/
def State.measurement (s : State) (idx : Nat) : List Byte :=
  if 1 ≤ idx ∧ idx ≤ 4 then ((s.boot.images.getD (idx - 1) []).drop 16).take 48
  else if idx = 5 then leBytes 1 s.boot.fsvn
  else if idx = 6 then leBytes 1 s.regs.hbmilv
  else []

def execGetMeasurements (idx : Nat) (nonce : List Byte) (sign : Bool) (s : State) : Host.Outcome State Fault Refusal :=
  spdm s fun b => if sign then b.signed nonce (s.measurement idx) else b.answers nonce (s.measurement idx)

end Sys2Proof.Machine
end

