-- ==== Sys2Proof/Machine/Dispatch.lean ====
section
/-! DEFINITION. The dispatch: one arm for each instruction and event, each one call of its meaning. -/

namespace Sys2Proof.Machine

def exec (i : Instr) (s : State) : Host.Outcome State Fault Refusal :=
  match i with
  | .nop => Sys2Proof.Machine.execNop s
  | .bra disp => Sys2Proof.Machine.execBra disp s
  | .brp p disp => Sys2Proof.Machine.execBrp p disp s
  | .brs st im => Sys2Proof.Machine.execBrs st im s
  | .brx a ua => Sys2Proof.Machine.execBrx a ua s
  | .call disp => Sys2Proof.Machine.execCall disp s
  | .callx a ua => Sys2Proof.Machine.execCallx a ua s
  | .ret => Sys2Proof.Machine.execRet s
  | .loopi n => Sys2Proof.Machine.execLoopi n s
  | .loop disp => Sys2Proof.Machine.execLoop disp s
  | .jarm j => Sys2Proof.Machine.execJarm j s
  | .jwait j => Sys2Proof.Machine.execJwait j s
  | .yld => Sys2Proof.Machine.execYld s
  | .exit => Sys2Proof.Machine.execExit s
  | .trap c => Sys2Proof.Machine.execTrap c s
  | .eret => Sys2Proof.Machine.execEret s
  | .waitc n t => Sys2Proof.Machine.execWaitc n t s
  | .mfs d im => Sys2Proof.Machine.execMfs d im s
  | .mts a im => Sys2Proof.Machine.execMts a im s
  | .save a b => Sys2Proof.Machine.execSave a b s
  | .rest a b => Sys2Proof.Machine.execRest a b s
  | .pdone => Sys2Proof.Machine.execPdone s
  | .govq d => Sys2Proof.Machine.execGovq d s
  | .sadd d a b => Sys2Proof.Machine.execSadd d a b s
  | .ssub d a b => Sys2Proof.Machine.execSsub d a b s
  | .smul d a b => Sys2Proof.Machine.execSmul d a b s
  | .smulh d a b u => Sys2Proof.Machine.execSmulh d a b u s
  | .sand d a b => Sys2Proof.Machine.execSand d a b s
  | .sor d a b => Sys2Proof.Machine.execSor d a b s
  | .sxor d a b => Sys2Proof.Machine.execSxor d a b s
  | .sshl d a b => Sys2Proof.Machine.execSshl d a b s
  | .sshlImm d a k => Sys2Proof.Machine.execSshlImm d a k s
  | .sshr d a b => Sys2Proof.Machine.execSshr d a b s
  | .sshrImm d a k => Sys2Proof.Machine.execSshrImm d a k s
  | .ssra d a b => Sys2Proof.Machine.execSsra d a b s
  | .ssraImm d a k => Sys2Proof.Machine.execSsraImm d a k s
  | .smin d a b u => Sys2Proof.Machine.execSmin d a b u s
  | .smax d a b u => Sys2Proof.Machine.execSmax d a b u s
  | .scmp d a b c => Sys2Proof.Machine.execScmp d a b c s
  | .saddi d a im => Sys2Proof.Machine.execSaddi d a im s
  | .sli d im => Sys2Proof.Machine.execSli d im s
  | .slih d im => Sys2Proof.Machine.execSlih d im s
  | .ssel d a b c => Sys2Proof.Machine.execSsel d a b c s
  | .sld d a im => Sys2Proof.Machine.execSld d a im s
  | .sst a b im => Sys2Proof.Machine.execSst a b im s
  | .vtos d a ua lane => Sys2Proof.Machine.execVtos d a ua lane s
  | .vtosF d a ua => Sys2Proof.Machine.execVtosF d a ua s
  | .sclz d a => Sys2Proof.Machine.execSclz d a s
  | .spopc d a => Sys2Proof.Machine.execSpopc d a s
  | .iadd d a b ua ub x => Sys2Proof.Machine.execIadd d a b ua ub x s
  | .isub d a b ua ub x => Sys2Proof.Machine.execIsub d a b ua ub x s
  | .iaddc d a b ua ub x c uc => Sys2Proof.Machine.execIaddc d a b ua ub x c uc s
  | .imul d a b ua ub => Sys2Proof.Machine.execImul d a b ua ub s
  | .imulh d a b ua ub => Sys2Proof.Machine.execImulh d a b ua ub s
  | .imulhu d a b ua ub => Sys2Proof.Machine.execImulhu d a b ua ub s
  | .imad d a b ua ub c uc => Sys2Proof.Machine.execImad d a b ua ub c uc s
  | .imin d a b ua ub => Sys2Proof.Machine.execImin d a b ua ub s
  | .imax d a b ua ub => Sys2Proof.Machine.execImax d a b ua ub s
  | .iminu d a b ua ub => Sys2Proof.Machine.execIminu d a b ua ub s
  | .imaxu d a b ua ub => Sys2Proof.Machine.execImaxu d a b ua ub s
  | .iabs d a ua => Sys2Proof.Machine.execIabs d a ua s
  | .and d a b ua ub => Sys2Proof.Machine.execAnd d a b ua ub s
  | .or d a b ua ub => Sys2Proof.Machine.execOr d a b ua ub s
  | .xor d a b ua ub => Sys2Proof.Machine.execXor d a b ua ub s
  | .andn d a b ua ub => Sys2Proof.Machine.execAndn d a b ua ub s
  | .shl d a b ua ub => Sys2Proof.Machine.execShl d a b ua ub s
  | .shlImm d a n ua => Sys2Proof.Machine.execShlImm d a n ua s
  | .shr d a b ua ub => Sys2Proof.Machine.execShr d a b ua ub s
  | .shrImm d a n ua => Sys2Proof.Machine.execShrImm d a n ua s
  | .sra d a b ua ub => Sys2Proof.Machine.execSra d a b ua ub s
  | .sraImm d a n ua => Sys2Proof.Machine.execSraImm d a n ua s
  | .rol d a b ua ub => Sys2Proof.Machine.execRol d a b ua ub s
  | .rolImm d a n ua => Sys2Proof.Machine.execRolImm d a n ua s
  | .bfx d a b ua ub x => Sys2Proof.Machine.execBfx d a b ua ub x s
  | .bfi d a b ua ub c uc => Sys2Proof.Machine.execBfi d a b ua ub c uc s
  | .popc d a ua => Sys2Proof.Machine.execPopc d a ua s
  | .clz d a ua => Sys2Proof.Machine.execClz d a ua s
  | .brev d a ua => Sys2Proof.Machine.execBrev d a ua s
  | .icmp c p a b ua ub x => Sys2Proof.Machine.execIcmp c p a b ua ub x s
  | .sel d a b ua ub p => Sys2Proof.Machine.execSel d a b ua ub p s
  | .mov d a ua => Sys2Proof.Machine.execMov d a ua s
  | .li d k => Sys2Proof.Machine.execLi d k s
  | .lih d k => Sys2Proof.Machine.execLih d k s
  | .iaddi d a ua imm => Sys2Proof.Machine.execIaddi d a ua imm s
  | .tag d a t ua => Sys2Proof.Machine.execTag d a t ua s
  | .pset p a ua => Sys2Proof.Machine.execPset p a ua s
  | .pget d => Sys2Proof.Machine.execPget d s
  | .vfree a => Sys2Proof.Machine.execVfree a s
  | .fadd d a b ua ub => Sys2Proof.Machine.execFadd d a b ua ub s
  | .fsub d a b ua ub => Sys2Proof.Machine.execFsub d a b ua ub s
  | .fmul d a b ua ub => Sys2Proof.Machine.execFmul d a b ua ub s
  | .ffma d a b ua ub c uc => Sys2Proof.Machine.execFfma d a b ua ub c uc s
  | .fmin d a b ua ub => Sys2Proof.Machine.execFmin d a b ua ub s
  | .fmax d a b ua ub => Sys2Proof.Machine.execFmax d a b ua ub s
  | .fminn d a b ua ub => Sys2Proof.Machine.execFminn d a b ua ub s
  | .fmaxn d a b ua ub => Sys2Proof.Machine.execFmaxn d a b ua ub s
  | .fabs d a ua => Sys2Proof.Machine.execFabs d a ua s
  | .fneg d a ua => Sys2Proof.Machine.execFneg d a ua s
  | .fcmp c p a b ua ub x => Sys2Proof.Machine.execFcmp c p a b ua ub x s
  | .fclmp d a b ua ub c uc => Sys2Proof.Machine.execFclmp d a b ua ub c uc s
  | .frnd d a r ua => Sys2Proof.Machine.execFrnd d a r ua s
  | .ffrac d a ua => Sys2Proof.Machine.execFfrac d a ua s
  | .frcp d a ua => Sys2Proof.Machine.execFrcp d a ua s
  | .frsq d a ua => Sys2Proof.Machine.execFrsq d a ua s
  | .fsqrt d a ua => Sys2Proof.Machine.execFsqrt d a ua s
  | .fex2 d a ua => Sys2Proof.Machine.execFex2 d a ua s
  | .flg2 d a ua => Sys2Proof.Machine.execFlg2 d a ua s
  | .fsin d a ua => Sys2Proof.Machine.execFsin d a ua s
  | .fcos d a ua => Sys2Proof.Machine.execFcos d a ua s
  | .fcvt d a n r t ua => Sys2Proof.Machine.execFcvt d a n r t ua s
  | .icvtf d a r t ua => Sys2Proof.Machine.execIcvtf d a r t ua s
  | .fcvti d a r t ua => Sys2Proof.Machine.execFcvti d a r t ua s
  | .hadd2 d a b ua ub => Sys2Proof.Machine.execHadd2 d a b ua ub s
  | .hmul2 d a b ua ub => Sys2Proof.Machine.execHmul2 d a b ua ub s
  | .hfma2 d a b ua ub c uc => Sys2Proof.Machine.execHfma2 d a b ua ub c uc s
  | .fdot4 d a b ua ub c uc => Sys2Proof.Machine.execFdot4 d a b ua ub c uc s
  | .fdot8 d a b ua ub c uc => Sys2Proof.Machine.execFdot8 d a b ua ub c uc s
  | .pack d a b ua ub x => Sys2Proof.Machine.execPack d a b ua ub x s
  | .unpk d a k ua => Sys2Proof.Machine.execUnpk d a k ua s
  | .xshf d a b ua ub m => Sys2Proof.Machine.execXshf d a b ua ub m s
  | .xrot d a b ua ub m => Sys2Proof.Machine.execXrot d a b ua ub m s
  | .xbc d a b ua ub m => Sys2Proof.Machine.execXbc d a b ua ub m s
  | .xstep d a b ua ub m => Sys2Proof.Machine.execXstep d a b ua ub m s
  | .xred d a o ua m => Sys2Proof.Machine.execXred d a o ua m s
  | .xscn d a e o ua m => Sys2Proof.Machine.execXscn d a e o ua m s
  | .xbal d a h ua m => Sys2Proof.Machine.execXbal d a h ua m s
  | .xcnt d a ua m => Sys2Proof.Machine.execXcnt d a ua m s
  | .xfst d a ua m => Sys2Proof.Machine.execXfst d a ua m s
  | .rsvup d a b ua ub c uc => Sys2Proof.Machine.execRsvup d a b ua ub c uc s
  | .rsvmrg d a b ua ub => Sys2Proof.Machine.execRsvmrg d a b ua ub s
  | .rsvfin d a b ua ub => Sys2Proof.Machine.execRsvfin d a b ua ub s
  | .aadd d a b ua ub => Sys2Proof.Machine.execAadd d a b ua ub s
  | .ashl d a b ua ub => Sys2Proof.Machine.execAshl d a b ua ub s
  | .ashlImm d a n ua => Sys2Proof.Machine.execAshlImm d a n ua s
  | .aand d a b ua ub => Sys2Proof.Machine.execAand d a b ua ub s
  | .amov d a ua => Sys2Proof.Machine.execAmov d a ua s
  | .ali d k => Sys2Proof.Machine.execAli d k s
  | .aform d a b ua ub x => Sys2Proof.Machine.execAform d a b ua ub x s
  | .ldB t st o ac uo nt off => Sys2Proof.Machine.execLdB t st o ac uo nt off s
  | .ldBs t st o ac uo nt off => Sys2Proof.Machine.execLdBs t st o ac uo nt off s
  | .ldH t st o ac uo nt off => Sys2Proof.Machine.execLdH t st o ac uo nt off s
  | .ldHs t st o ac uo nt off => Sys2Proof.Machine.execLdHs t st o ac uo nt off s
  | .ldW t st o ac uo nt off => Sys2Proof.Machine.execLdW t st o ac uo nt off s
  | .ldd t st o ac uo nt off => Sys2Proof.Machine.execLdd t st o ac uo nt off s
  | .ldq t st o ac uo nt off => Sys2Proof.Machine.execLdq t st o ac uo nt off s
  | .ldc t st ac nt off => Sys2Proof.Machine.execLdc t st ac nt off s
  | .ldu t st ac nt off => Sys2Proof.Machine.execLdu t st ac nt off s
  | .ldsB t st o ac uo off => Sys2Proof.Machine.execLdsB t st o ac uo off s
  | .ldsBs t st o ac uo off => Sys2Proof.Machine.execLdsBs t st o ac uo off s
  | .ldsH t st o ac uo off => Sys2Proof.Machine.execLdsH t st o ac uo off s
  | .ldsHs t st o ac uo off => Sys2Proof.Machine.execLdsHs t st o ac uo off s
  | .ldsW t st o ac uo off => Sys2Proof.Machine.execLdsW t st o ac uo off s
  | .ldsc t st ac off => Sys2Proof.Machine.execLdsc t st ac off s
  | .stB t st o ac ut uo nt off => Sys2Proof.Machine.execStB t st o ac ut uo nt off s
  | .stH t st o ac ut uo nt off => Sys2Proof.Machine.execStH t st o ac ut uo nt off s
  | .stW t st o ac ut uo nt off => Sys2Proof.Machine.execStW t st o ac ut uo nt off s
  | .std t st o ac ut uo nt off => Sys2Proof.Machine.execStd t st o ac ut uo nt off s
  | .stq t st o ac ut uo nt off => Sys2Proof.Machine.execStq t st o ac ut uo nt off s
  | .stc t st ac ut nt off => Sys2Proof.Machine.execStc t st ac ut nt off s
  | .stsB t st o ac ut uo off => Sys2Proof.Machine.execStsB t st o ac ut uo off s
  | .stsH t st o ac ut uo off => Sys2Proof.Machine.execStsH t st o ac ut uo off s
  | .stsW t st o ac ut uo off => Sys2Proof.Machine.execStsW t st o ac ut uo off s
  | .stsc t st ac ut off => Sys2Proof.Machine.execStsc t st ac ut off s
  | .amo t st o ac ut uo rv op => Sys2Proof.Machine.execAmo t st o ac ut uo rv op s
  | .cas t st o ac ut uo rv c uc => Sys2Proof.Machine.execCas t st o ac ut uo rv c uc s
  | .amos t st o ac ut uo rv op => Sys2Proof.Machine.execAmos t st o ac ut uo rv op s
  | .cass t st o ac ut uo rv c uc => Sys2Proof.Machine.execCass t st o ac ut uo rv c uc s
  | .waita t st o ac ut uo to_ cond acq scope ext => Sys2Proof.Machine.execWaita t st o ac ut uo to_ cond acq scope ext s
  | .sig t st o ac ut uo op rel scope ext => Sys2Proof.Machine.execSig t st o ac ut uo op rel scope ext s
  | .fence kind scope ext => Sys2Proof.Machine.execFence kind scope ext s
  | .lda t st o ac uo scope ext => Sys2Proof.Machine.execLda t st o ac uo scope ext s
  | .stl t st o ac ut uo scope ext => Sys2Proof.Machine.execStl t st o ac ut uo scope ext s
  | .pref dc st o ac uo off => Sys2Proof.Machine.execPref dc st o ac uo off s
  | .wbr st n => Sys2Proof.Machine.execWbr st n s
  | .invr st n => Sys2Proof.Machine.execInvr st n s
  | .trace t st o flags => Sys2Proof.Machine.execTrace t st o flags s
  | .tracec t st o flags h => Sys2Proof.Machine.execTracec t st o flags h s
  | .visq t st o uo n => Sys2Proof.Machine.execVisq t st o uo n s
  | .tsamp t st o flt adr lod => Sys2Proof.Machine.execTsamp t st o flt adr lod s
  | .tsize t st l => Sys2Proof.Machine.execTsize t st l s
  | .mzero m k => Sys2Proof.Machine.execMzero m k s
  | .mchb m ord k => Sys2Proof.Machine.execMchb m ord k s
  | .mche m k => Sys2Proof.Machine.execMche m k s
  | .mma m a b c fmt k => Sys2Proof.Machine.execMma m a b c fmt k s
  | .macl m d g k => Sys2Proof.Machine.execMacl m d g k s
  | .mdst m a b mem cvt op k => Sys2Proof.Machine.execMdst m a b mem cvt op k s
  | .mstg m a b c fmt k => Sys2Proof.Machine.execMstg m a b c fmt k s
  | .shp m a n => Sys2Proof.Machine.execShp m a n s
  | .cpy m n => Sys2Proof.Machine.execCpy m n s
  | .cpym m n => Sys2Proof.Machine.execCpym m n s
  | .owng m a => Sys2Proof.Machine.execOwng m a s
  | .ownt m a => Sys2Proof.Machine.execOwnt m a s
  | .qcfg m a b q => Sys2Proof.Machine.execQcfg m a b q s
  | .qpush m a q => Sys2Proof.Machine.execQpush m a q s
  | .qpop m d q => Sys2Proof.Machine.execQpop m d q s
  | .qtry m d q => Sys2Proof.Machine.execQtry m d q s
  | .tsub m a => Sys2Proof.Machine.execTsub m a s
  | .tdep m a => Sys2Proof.Machine.execTdep m a s
  | .emit m a im => Sys2Proof.Machine.execEmit m a im s
  | .cont m a b k => Sys2Proof.Machine.execCont m a b k s
  | .keyrel m a => Sys2Proof.Machine.execKeyrel m a s
  | .qsub m d a b => Sys2Proof.Machine.execQsub m d a b s
  | .cred m a b c o n => Sys2Proof.Machine.execCred m a b c o n s
  | .cbc m a b c n => Sys2Proof.Machine.execCbc m a b c n s
  | .cag m a b c n => Sys2Proof.Machine.execCag m a b c n s
  | .crs m a b c o n => Sys2Proof.Machine.execCrs m a b c o n s
  | .coreIssueCycle die core => Sys2Proof.Machine.execCoreIssueCycle die core s
  | .fairnessExpiry course => Sys2Proof.Machine.execFairnessExpiry course s
  | .resultLanding course k => Sys2Proof.Machine.execResultLanding course k s
  | .spillComplete course v => Sys2Proof.Machine.execSpillComplete course v s
  | .fillComplete course v => Sys2Proof.Machine.execFillComplete course v s
  | .loadPerformed course op => Sys2Proof.Machine.execLoadPerformed course op s
  | .storePerformed course op => Sys2Proof.Machine.execStorePerformed course op s
  | .atomicPerformed course op => Sys2Proof.Machine.execAtomicPerformed course op s
  | .faultRecordWrite ctx fid => Sys2Proof.Machine.execFaultRecordWrite ctx fid s
  | .waitaWake course lane => Sys2Proof.Machine.execWaitaWake course lane s
  | .waitaPoll course lane => Sys2Proof.Machine.execWaitaPoll course lane s
  | .waitaTimeout course lane => Sys2Proof.Machine.execWaitaTimeout course lane s
  | .asyncTrapDelivery course => Sys2Proof.Machine.execAsyncTrapDelivery course s
  | .preemptDeadlineExpiry course => Sys2Proof.Machine.execPreemptDeadlineExpiry course s
  | .forcedSave course => Sys2Proof.Machine.execForcedSave course s
  | .courseResume course => Sys2Proof.Machine.execCourseResume course s
  | .blockBind die block => Sys2Proof.Machine.execBlockBind die block s
  | .blockAdmission die core => Sys2Proof.Machine.execBlockAdmission die core s
  | .mmaComplete die core k => Sys2Proof.Machine.execMmaComplete die core k s
  | .mzeroComplete die core k => Sys2Proof.Machine.execMzeroComplete die core k s
  | .mcheComplete die core k => Sys2Proof.Machine.execMcheComplete die core k s
  | .mdstComplete die core k => Sys2Proof.Machine.execMdstComplete die core k s
  | .maclLanding die core k => Sys2Proof.Machine.execMaclLanding die core k s
  | .copyStart die core k => Sys2Proof.Machine.execCopyStart die core k s
  | .copyComplete die core k target => Sys2Proof.Machine.execCopyComplete die core k target s
  | .stagingUnitArrival die core k => Sys2Proof.Machine.execStagingUnitArrival die core k s
  | .stagingUnitDrain dir u target => Sys2Proof.Machine.execStagingUnitDrain dir u target s
  | .collectiveStart k => Sys2Proof.Machine.execCollectiveStart k s
  | .collectiveComplete k => Sys2Proof.Machine.execCollectiveComplete k s
  | .taskGrant task => Sys2Proof.Machine.execTaskGrant task s
  | .tdepDecrement die => Sys2Proof.Machine.execTdepDecrement die s
  | .keyrelEffect die k => Sys2Proof.Machine.execKeyrelEffect die k s
  | .continuationWake course => Sys2Proof.Machine.execContinuationWake course s
  | .graphBlockBind die block => Sys2Proof.Machine.execGraphBlockBind die block s
  | .spireWindow die => Sys2Proof.Machine.execSpireWindow die s
  | .waitPacketComplete pkt => Sys2Proof.Machine.execWaitPacketComplete pkt s
  | .streamStart pkt row => Sys2Proof.Machine.execStreamStart pkt row s
  | .portalWrite ctx off bytes => Sys2Proof.Machine.execPortalWrite ctx off bytes s
  | .quantumExpiry block => Sys2Proof.Machine.execQuantumExpiry block s
  | .ageingStep block => Sys2Proof.Machine.execAgeingStep block s
  | .watchdogFire die ctx => Sys2Proof.Machine.execWatchdogFire die ctx s
  | .queueCreate ctx q k ring => Sys2Proof.Machine.execQueueCreate ctx q k ring s
  | .queueDestroy ctx q => Sys2Proof.Machine.execQueueDestroy ctx q s
  | .bindRecordWrite die slot w0 w1 => Sys2Proof.Machine.execBindRecordWrite die slot w0 w1 s
  | .ctxpdlWrite die v => Sys2Proof.Machine.execCtxpdlWrite die v s
  | .ktrepWrite die v => Sys2Proof.Machine.execKtrepWrite die v s
  | .tlbinvnWrite v => Sys2Proof.Machine.execTlbinvnWrite v s
  | .tlbinvWrite v => Sys2Proof.Machine.execTlbinvWrite v s
  | .tlbinvDone => Sys2Proof.Machine.execTlbinvDone s
  | .fltrespRetry ctx fid => Sys2Proof.Machine.execFltrespRetry ctx fid s
  | .fltrespFailUnmapped ctx fid => Sys2Proof.Machine.execFltrespFailUnmapped ctx fid s
  | .fltrespFailPermission ctx fid => Sys2Proof.Machine.execFltrespFailPermission ctx fid s
  | .govstepWrite ctx v => Sys2Proof.Machine.execGovstepWrite ctx v s
  | .govdWrite ctx v => Sys2Proof.Machine.execGovdWrite ctx v s
  | .registerWrite reg v => Sys2Proof.Machine.execRegisterWrite reg v s
  | .dieCacheWriteback pa wr => Sys2Proof.Machine.execDieCacheWriteback pa wr s
  | .hostBarAccess wr off n bytes => Sys2Proof.Machine.execHostBarAccess wr off n bytes s
  | .pcieCompletion req ok status data => Sys2Proof.Machine.execPcieCompletion req ok status data s
  | .pcieRequestTimeout req => Sys2Proof.Machine.execPcieRequestTimeout req s
  | .softErrorCorrected die src => Sys2Proof.Machine.execSoftErrorCorrected die src s
  | .uncorrectableError course src addr => Sys2Proof.Machine.execUncorrectableError course src addr s
  | .coreLoss die core => Sys2Proof.Machine.execCoreLoss die core s
  | .mortarLaneFail link => Sys2Proof.Machine.execMortarLaneFail link s
  | .thermalStepUp die sensor reading => Sys2Proof.Machine.execThermalStepUp die sensor reading s
  | .thermalStepDown die reading => Sys2Proof.Machine.execThermalStepDown die reading s
  | .thermalStop die sensor reading => Sys2Proof.Machine.execThermalStop die sensor reading s
  | .thermalResume die reading => Sys2Proof.Machine.execThermalResume die reading s
  | .powerOn a b ilv => Sys2Proof.Machine.execPowerOn a b ilv s
  | .svnFuseRaise => Sys2Proof.Machine.execSvnFuseRaise s
  | .getVersion => Sys2Proof.Machine.execGetVersion s
  | .getCapabilities => Sys2Proof.Machine.execGetCapabilities s
  | .negotiateAlgorithms offered => Sys2Proof.Machine.execNegotiateAlgorithms offered s
  | .getDigests => Sys2Proof.Machine.execGetDigests s
  | .getCertificate slot off n => Sys2Proof.Machine.execGetCertificate slot off n s
  | .challenge slot nonce => Sys2Proof.Machine.execChallenge slot nonce s
  | .getMeasurements idx nonce sign => Sys2Proof.Machine.execGetMeasurements idx nonce sign s
  | .contextCreate ctx cbase => Sys2Proof.Machine.execContextCreate ctx cbase s
  | .contextReset ctx => Sys2Proof.Machine.execContextReset ctx s
  | .flitRead f => Sys2Proof.Machine.execFlitRead f s
  | .flitWrite f => Sys2Proof.Machine.execFlitWrite f s
  | .flitAtomic f => Sys2Proof.Machine.execFlitAtomic f s
  | .flitReduce f => Sys2Proof.Machine.execFlitReduce f s
  | .flitMessage f => Sys2Proof.Machine.execFlitMessage f s
  | .flitResponse f => Sys2Proof.Machine.execFlitResponse f s
  | .flitReceive port bytes => Sys2Proof.Machine.execFlitReceive port bytes s
  | .flitReplayTimeout port => Sys2Proof.Machine.execFlitReplayTimeout port s
  | .linkTrainTimeout port => Sys2Proof.Machine.execLinkTrainTimeout port s
  | .fabricRequestTimeout tag => Sys2Proof.Machine.execFabricRequestTimeout tag s
  | .responseRetentionExpiry src tag => Sys2Proof.Machine.execResponseRetentionExpiry src tag s
  | .fixedFunctionRequestPerformed course op => Sys2Proof.Machine.execFixedFunctionRequestPerformed course op s
  | .scalarAccessPerformed course op => Sys2Proof.Machine.execScalarAccessPerformed course op s
  | .dispatcherResultWritten course => Sys2Proof.Machine.execDispatcherResultWritten course s
  | .rowSequencerIssue die row => Sys2Proof.Machine.execRowSequencerIssue die row s
  | .linkTrained port lanes => Sys2Proof.Machine.execLinkTrained port lanes s
  | .unitFailure kind die u => Sys2Proof.Machine.execUnitFailure kind die u s
  | .transportUnreachableTimeout k member => Sys2Proof.Machine.execTransportUnreachableTimeout k member s
  | .powerLoss => Sys2Proof.Machine.execPowerLoss s

end Sys2Proof.Machine
end

