-- ==== Sys2Proof/Machine/Background.lean ====
section
/-! DEFINITION. What happens next: the events that stand on the agenda, and when it is empty a default
schedule over the cores and the events of the part that can happen (log entry 1). -/

namespace Sys2Proof.Machine

/-! ## Events of the part that can happen now -/

/-- Spills and fills of a course. -/
def Course.moves (c : Nat) (x : Course) : List Instr :=
  let one (p : VEntry × Nat) : List Instr :=
    if p.1.xfer == .spilling && p.1.st == .mapped then [.spillComplete c p.2]
    else if p.1.xfer == .filling then [.fillComplete c p.2] else []
  ((x.v.zipIdx.map one).flatten) ++ (x.qin.map fun e => one (e.2, 64 + e.1)).flatten

/-- The event that performs an operation. -/
def MemOp.event (c : Nat) (o : MemOp) : List Instr :=
  if o.fixedFn then [.fixedFunctionRequestPerformed c o.id]
  else if o.scalar then [.scalarAccessPerformed c o.id]
  else if o.loadLike then [.loadPerformed c o.id]
  else if o.atomic then [.atomicPerformed c o.id]
  else if o.storeLike then [.storePerformed c o.id]
  else []

/-- The events of the lanes of a course that sleep in WAITA. -/
def State.waitEvents (s : State) (c : Nat) (x : Course) : List Instr :=
  (x.lanes.zipIdx.map fun p => match p.1.wa with
    | some w =>
      if p.1.st != .waita then []
      else if w.expired s.time then [.waitaTimeout c p.2]
      else if !w.registered then [.waitaPoll c p.2]
      else if s.waitMet c w then [.waitaWake c p.2] else []
    | none => []).flatten

/-- The events of one course. -/
def State.courseEvents (s : State) (c : Nat) (x : Course) : List Instr :=
  x.moves c ++ ((x.ops.filter (s.mayPerform x)).map (MemOp.event c)).flatten ++ s.waitEvents c x ++
    (if x.req.isSome && x.ops.isEmpty then [.dispatcherResultWritten c] else []) ++
    (match x.pre with
     | some p => if p.force then [.forcedSave c] else if p.deadline ≤ s.time then [.preemptDeadlineExpiry c] else []
     | none => []) ++
    (if s.resumable c then [.courseResume c] else [])

/-- The event of a command of the matrix engine. -/
def MCmd.event (k : Nat × Nat) (m : MCmd) : List Instr :=
  match m.kind with
  | .mzero => [.mzeroComplete k.1 k.2 m.id]
  | .mche => [.mcheComplete k.1 k.2 m.id]
  | .mma => [.mmaComplete k.1 k.2 m.id]
  | .mdst => [.mdstComplete k.1 k.2 m.id]
  | .macl => [.maclLanding k.1 k.2 m.id]

/-- The events of a copy. -/
def CopyCmd.events (c : CopyCmd) : List Instr :=
  if !c.started then [.copyStart c.die c.core c.id]
  else
    (if c.remote && c.tdie != c.die then [.stagingUnitArrival c.die c.core c.id] else []) ++
      (List.range c.targets.length).map fun i => .copyComplete c.die c.core c.id i

def State.coreEvents (s : State) (k : Nat × Nat) (x : Core) : List Instr :=
  ((x.mq.filter (s.canRun k)).map (MCmd.event k)).flatten ++ (x.copies.map CopyCmd.events).flatten

/-- The events of a block: its binding, its quantum and its age. -/
def State.blockEvents (s : State) (b : Nat) (x : Block) : List Instr :=
  (if x.state == .unbound && s.mayBind x.die b then [.blockBind x.die b] else []) ++
    (if x.state == .bound || x.state == .away then
       (.blockAdmission x.die x.core :: if s.ageEnd x ≤ s.time && x.level < 23 then [.ageingStep b] else []) else []) ++
    (if x.sliced && x.quantumEnd ≤ s.time then [.quantumExpiry b] else [])

def State.packetEvents (s : State) (p : Nat) (x : Packet) : List Instr :=
  (if x.wait.isSome then [.waitPacketComplete p] else []) ++ (if s.mayBind x.die p then [.blockBind x.die p] else [])

/-- The events of a die. -/
def State.dieEvents (s : State) (d : Nat) (x : Die) : List Instr :=
  (if !x.binds.isEmpty || x.slots.any (fun w => w.1.getLsbD 0) then [.spireWindow d] else []) ++
    (if x.tdeps.isEmpty then [] else [.tdepDecrement d]) ++ (x.keyrels.map fun w => .keyrelEffect d w.id) ++
    (x.rows.map fun r => if r.started then .rowSequencerIssue d r.row else .streamStart r.pkt r.row) ++
    ((x.timers.filter fun t => decide (s.wdtEnd d t.1 ≤ s.time)).map fun t => .watchdogFire d t.1)

def State.taskEvents (s : State) (t : Nat) (x : Task) : List Instr :=
  (if s.grantable t x then [.taskGrant t] else []) ++
    (if x.graph.isSome && (x.state == .pending || x.state == .keywait) then [.graphBlockBind x.die t] else [])

/-- Every event of the part that can happen now. -/
def State.enabled (s : State) : List Instr :=
  (s.courses.map fun c => s.courseEvents c.1 c.2).flatten ++ (s.cores.map fun k => s.coreEvents k.1 k.2).flatten ++
    (s.blocks.map fun b => s.blockEvents b.1 b.2).flatten ++ (s.pkts.map fun p => s.packetEvents p.1 p.2).flatten ++
    (s.dies.zipIdx.map fun d => s.dieEvents d.2 d.1).flatten ++ (s.tasks.map fun t => s.taskEvents t.1 t.2).flatten ++
    (s.conts.map fun c => .continuationWake c.1) ++
    (s.colls.map fun c => if c.2.started then .collectiveComplete c.1 else .collectiveStart c.1) ++
    (s.staging.map fun u => u.2.targets.map fun i => Instr.stagingUnitDrain u.2.dir u.1 i).flatten ++
    ((s.faults.filter fun f => !f.written).map fun f => .faultRecordWrite f.ctx (f.uid % 2 ^ 16)) ++
    (if s.regs.tlbBusy.isSome then [.tlbinvDone] else [])

/-! ## The next event -/

/-- The default schedule: by turns a core's issue cycle, and one of the events of the part that can happen. -/
def State.pick (s : State) : Instr × State :=
  match s.agenda with
  | i :: l => (i, { s with agenda := l })
  | [] =>
    if s.phase then
      let l := s.enabled
      match l[s.time / 2 % l.length]? with
      | some i => (i, { s with phase := false })
      | none => (.coreIssueCycle s.turn.1 s.turn.2, s)
    else (.coreIssueCycle s.turn.1 s.turn.2, { s with phase := true })

/-- What follows every event: flits that can leave do, a boot goes on, and TIME moves on (log entry 6). -/
def State.tick (s : State) : State := (s.pump.onBoot Boot.advance).elapse 1

end Sys2Proof.Machine
end

