-- ==== Sys2Proof/Machine/Load.lean ====
section
/-! DEFINITION. A program loaded from outside: one course of one block on core 0 of die 0, its code at the
code base, and page tables that map the first GiB onto itself (log entry 8). -/

namespace Sys2Proof.Machine

def loadCbase : Nat := 0x10000

/-- Page tables at 0x1000 to 0x3FFF: one leaf of 1 GiB, readable, writable and executable (R459, R460). -/
def State.loadTables (s : State) : State :=
  ((s.pokePa 0x1000 (leBytes 8 0x2001)).pokePa 0x2000 (leBytes 8 0x3001)).pokePa 0x3000 (leBytes 8 0x77)

def loadAttr : Attr :=
  { entry := 0, ncrs := 1, floor := 64, regcap := 0xFFFF, spk := 0, tvec := 0, shd := 0, strm := false,
    rdn := 0, rdp := 0, rds := 0, args := [] }

def loadInfo : CourseInfo :=
  { CourseInfo.zero with block := 0, ctx := 0, die := 0, core := 0, cbase := .ofNat 64 loadCbase, floor := 64,
                         ctxa := 0x100000 }

def loadCourse : Course := { Course.start loadInfo with lanes := List.replicate 32 Lane.start }

def loadBlock : Block :=
  { ctx := 0, die := 0, core := 0, lnch := 0, blkid := 0, attr := loadAttr, state := .resident, courses := [0],
    cfirst := 0, ccnt := 1, slot := none, base := 0, level := 0, bindTime := 0, timer := 0, quant := 1000000, since := 0,
    row := none,
    pkt := none, task := none, visible := false, faulted := false, born := 0,
    mem := { BlockMem.empty with chains := List.replicate 4 ⟨false, false⟩, tiles := List.replicate 4 [] },
    cont := none }

/-- The state with sixteen bytes as the bundle that its next step issues; memory is interleaved as a boot whose flash holds no
value leaves it (R458, R468). -/
def State.loadBundle (s : State) (bytes : List Byte) : State :=
  let s1 := { s with agenda := [], turn := (0, 0), phase := false, iss := Issue.idle, rowq := [], rowbuf := [], tlb := [],
                     courses := tset 0 loadCourse (s.courses.filter fun c => c.2.coreKey != (0, 0)),
                     blocks := tset 0 loadBlock s.blocks, regs := { s.regs with hbmilv := 64 }, cores := tset (0, 0) Core.reset s.cores,
                     ctxs := tset 0 { Ctx.start with ctxpt := 0x1000 } s.ctxs }
  s1.loadTables.pokePa loadCbase bytes

end Sys2Proof.Machine
end

