-- ==== Sys2Proof/Machine/Step.lean ====
section
/-! DEFINITION. The step: one event of the part, and the bundles that an issue event puts in issue, each
run slot by slot. -/

namespace Sys2Proof.Machine

abbrev Result := Host.Outcome State Fault Refusal

def andThen (o : Result) (f : State → Result) : Result :=
  match o with
  | .next s => f s
  | .fault r => .fault r
  | .refused r => .refused r

/-- The instruction of one slot of the bundle in issue; a core of a row leaves to column 0 what the sequencer
does once. A slot holds an instruction word, so an event found in one does not act. One that reads a register in which an
uncorrectable error lies writes nothing (R220). -/
def runSlot (k : Nat) (s : State) : Result :=
  let i := s.iss.bundle.slot k
  if s.iss.valid && !isEvent i && !(k == 0 && s.iss.follower && rowOnce i) then
    match s.poolMet i with
    | some a => .next (s.poolFails a)
    | none => exec i s
  else .next s

def runSlots : List Nat → State → Result
  | [], s => .next s
  | k :: l, s => andThen (runSlot k s) (runSlots l)

/-- Runs the bundles of the ac, one after another. -/
def runAll : Nat → State → Result
  | 0, s => .next s
  | n + 1, s =>
    if s.iss.valid then andThen (runSlots (slotOrder s.iss.bundle) s) fun t => runAll n t.close
    else if s.nextCourse.iss.valid then runAll n s.nextCourse
    else .next s.nextCourse

/-- Rounds enough for every bundle that stands to be issued. -/
def rounds (s : State) : Nat := 2 * (s.rowq.length + s.iss.more.length + 2)

def step (s : State) : Result :=
  andThen (exec s.pick.1 s.pick.2) fun t => andThen (runAll (rounds t) t) fun u => .next u.tick

/-- The state whose next step issues the instruction with the table word w. -/
def State.withFetchWord (s : State) (nbits w : Nat) : State :=
  if nbits = 32 then s.loadBundle (tableBytes w) else s

end Sys2Proof.Machine
end

