-- ==== Sys2Proof/Safety.lean ====
section
/-! DEFINITION. The terms that statements about the machine use: a bundle in issue, what an instruction may leave
changed, and the results that the manual's tables give, row by row, apart from how the machine computes them. -/

namespace Sys2Proof.Machine

/-! ## A bundle in issue -/

/-- A bundle stands in issue and has passed the checks of its selection (R100, R207, R209): it is legal, its operands are
readable and aligned, its registers are there, and none of its instructions has to wait. -/
def Issuing (s : State) : Prop := s.iss.valid = true ∧ s.iss.pass = true

/-- An instruction word of some slot whose fields its row allows. -/
def SlotIns (i : Instr) : Prop := isEvent i = false ∧ legal i = true

/-- The course of the bundle in issue: it stands in the state with all of its registers and lanes, and the bundle read it at
its own width. -/
def Running (s : State) (x : Course) : Prop :=
  s.course? s.iss.course = some x ∧ s.iss.src.w = x.w ∧ x.lanes.length = x.w ∧ x.v.length = 64 ∧ x.o.length = 8 ∧
    x.sr.length = 32

/-! ## Frames -/

/-- Every byte of memory reads as before. -/
def SameMemory (s t : State) : Prop := ∀ a, cellGet a t.mem = cellGet a s.mem

/-- Bytes stand at a place of memory, and every other byte reads as before. -/
def BytesWritten (s t : State) (pa : Nat) (bs : List Byte) : Prop :=
  ∀ a, cellGet a t.mem = if pa ≤ a ∧ a < pa + bs.length then bs.getD (a - pa) 0 else cellGet a s.mem

/-- A line of an L1 has been written back: its dirty bytes stand at its home, all of it where every byte is dirty, and every
other byte of memory reads as before (R240). -/
def WrittenBack (s t : State) (l : L1Line) : Prop :=
  if l.dirty = L1Line.full then BytesWritten s t l.line l.bytes
  else ∀ a, cellGet a t.mem = if l.line ≤ a ∧ a < l.line + 64 ∧ Mask.has l.dirty (a - l.line) = true
    then l.bytes.getD (a - l.line) 0 else cellGet a s.mem

/-- A line that the L1 of a core takes in may drive one other line of that L1 out, and nothing else reaches memory (R240). -/
def MayEvict (s t : State) (k : Nat × Nat) : Prop :=
  SameMemory s t ∨ ∃ l ∈ (s.core k).l1, WrittenBack s t l

/-- Nothing but one course has changed, and beside it identifiers that the model gives out and the L results that
the bundle in issue has so far (R41): no other course, no block, core, die or context, no byte of memory. -/
def OnlyCourse (s t : State) (c : Nat) : Prop :=
  t = { s with courses := t.courses, uid := t.uid, iss := { s.iss with r1 := t.iss.r1, r2 := t.iss.r2 } } ∧
    ∀ k, k ≠ c → t.course? k = s.course? k

/-- Of a course nothing has changed but its vector and operand registers and the writes on their way (R50). -/
def OnlyVectors (x y : Course) : Prop := y = { x with v := y.v, o := y.o, flights := y.flights }

/-- Of a course nothing has changed but its lanes. -/
def OnlyLanes (x y : Course) : Prop := y = { x with lanes := y.lanes }

/-- Of a course nothing has changed but its operations, their counts and the writes on their way (R145, R258). -/
def OnlyPosted (x y : Course) : Prop := y = { x with ops := y.ops, outs := y.outs, flights := y.flights, v := y.v }

/-- Nothing but one course and one core has changed, and the identifiers given out. -/
def OnlyCourseCore (s t : State) (c : Nat) (k : Nat × Nat) : Prop :=
  t = { s with courses := t.courses, cores := t.cores, uid := t.uid } ∧
    (∀ j, j ≠ c → t.course? j = s.course? j) ∧ ∀ q, q ≠ k → t.core q = s.core q

/-- Nothing but the allocation of one block has changed: its bytes, owner bits, chains, tiles and queues. -/
def OnlyBlockMem (s t : State) (b : Nat) : Prop :=
  t = { s with blocks := t.blocks } ∧ (∀ j, j ≠ b → t.block? j = s.block? j) ∧
    ∀ x, s.block? b = some x → t.block? b = some { x with mem := t.blockMem b }

/-- Nothing but the record of one die has changed. -/
def OnlyDie (s t : State) (d : Nat) : Prop :=
  t = { s with dies := t.dies } ∧ ∀ j, j ≠ d → t.die j = s.die j

/-- Nothing but the record of one context has changed. -/
def OnlyCtx (s t : State) (c : Nat) : Prop :=
  t = { s with ctxs := t.ctxs } ∧ ∀ j, j ≠ c → t.ctx j = s.ctx j

/-- A write has been issued: a register of the renamed file or the window takes it when it lands (R50), an
operand-file register holds it at once (R40). -/
def Written (s : State) (y : Course) (d : Nat) (m : Mask) (tag : Tag) (flags : DWord) (val : Nat → Word) : Prop :=
  ((d < 64 ∨ d = qwCode) → ∃ f ∈ y.flights, f.v = some d ∧ f.release = false ∧ f.mask = m ∧ f.tag = tag ∧
    f.flags = flags ∧ s.uid ≤ f.id ∧ ∀ j, j < y.w → Mask.has m j = true → f.vals.getD j 0 = val j) ∧
  (64 ≤ d ∧ d < 72 → (y.o.getD (d - 64) VReg.zero).tag = tag ∧
    ∀ j, j < y.w → Mask.has m j = true → (y.o.getD (d - 64) VReg.zero).vals.getD j 0 = val j)

/-- The registers whose last-use bit an instruction sets (R51). -/
def lastUses (i : Instr) : List Nat :=
  (((profile i).srcs.filter fun x => x.last).map fun x => (List.range x.n).map fun j => x.code.toNat + j).flatten

/-- Register v has been released in some lanes (R51): behind the writes of it that the bundle in issue found on their way,
or at once, and then it is live in none of these lanes. -/
def Released (s : State) (y : Course) (v : Nat) (m : Mask) : Prop :=
  (∃ g ∈ y.flights, g.v = some v ∧ g.release = true ∧ g.mask = m ∧ ∃ e ∈ y.flights, e.v = some v ∧ e.id < s.iss.mark) ∨
  (y.ve v).st = .unmapped ∨ ∀ j, Mask.has m j = true → Mask.has (y.ve v).live j = false

/-! ## Control transfer (R131, R132) -/

/-- Of the transfers with a displacement: the lanes that take them, and the target. -/
def branchOf (s : State) (i : Instr) : Option ((Nat → Bool) × Word) :=
  match i with
  | .bra d => some (fun _ => true, s.iss.pc + .ofInt 32 (16 * d.toInt))
  | .brp p d => some (fun j => (s.iss.src.lane j).pred p.toNat, s.iss.pc + .ofInt 32 (16 * d.toInt))
  | .brs r d => some (fun _ => s.iss.src.s r.toNat != 0, s.iss.pc + .ofInt 32 (16 * d.toInt))
  | _ => none

/-- Of the calls and the transfers through a register: the target of each lane. -/
def transferOf (s : State) (i : Instr) : Option (Nat → Word) :=
  let lane (j : Nat) : Nat := if s.iss.src.info.row.isSome then 0 else j
  match i with
  | .call d => some fun _ => s.iss.pc + .ofInt 32 (16 * d.toInt)
  | .brx .. | .callx .. | .ret => some fun j => (s.iss.reads i).v 0 (lane j)
  | _ => none

/-- Whether a transfer is a call, which writes the link into V63. -/
def isCall (i : Instr) : Bool :=
  match i with
  | .call .. | .callx .. => true
  | _ => false

/-! ## Scalar results (R156, R157) -/

/-- Destination and result of each scalar instruction. -/
def scalarResult (s : State) (i : Instr) : Option (SReg × DWord) :=
  let x (r : SReg) : DWord := s.iss.src.s r.toNat
  match i with
  | .sadd d a b => some (d, .ofNat 64 ((x a).toNat + (x b).toNat))
  | .ssub d a b => some (d, .ofInt 64 ((x a).toInt - (x b).toInt))
  | .smul d a b => some (d, .ofNat 64 ((x a).toNat * (x b).toNat))
  | .smulh d a b u =>
    some (d, if u then .ofNat 64 ((x a).toNat * (x b).toNat / 2 ^ 64) else .ofInt 64 ((x a).toInt * (x b).toInt / 2 ^ 64))
  | .sand d a b => some (d, x a &&& x b)
  | .sor d a b => some (d, x a ||| x b)
  | .sxor d a b => some (d, x a ^^^ x b)
  | .sshl d a b => some (d, .ofNat 64 ((x a).toNat * 2 ^ ((x b).toNat % 64)))
  | .sshlImm d a k => some (d, .ofNat 64 ((x a).toNat * 2 ^ k.toNat))
  | .sshr d a b => some (d, .ofNat 64 ((x a).toNat / 2 ^ ((x b).toNat % 64)))
  | .sshrImm d a k => some (d, .ofNat 64 ((x a).toNat / 2 ^ k.toNat))
  | .ssra d a b => some (d, .ofInt 64 ((x a).toInt / 2 ^ ((x b).toNat % 64)))
  | .ssraImm d a k => some (d, .ofInt 64 ((x a).toInt / 2 ^ k.toNat))
  | .smin d a b u => some (d, if u then .ofNat 64 (min (x a).toNat (x b).toNat) else .ofInt 64 (min (x a).toInt (x b).toInt))
  | .smax d a b u => some (d, if u then .ofNat 64 (max (x a).toNat (x b).toNat) else .ofInt 64 (max (x a).toInt (x b).toInt))
  | .scmp d a b c => some (d, if intCond c.toNat (x a) (x b) then 1 else 0)
  | .saddi d a k => some (d, .ofInt 64 ((x a).toInt + k.toInt))
  | .sli d k => some (d, .ofInt 64 k.toInt)
  | .slih d k => some (d, .ofNat 64 ((x d).toNat * 2 ^ 19 + k.toNat))
  | .ssel d a b c => some (d, if x c = 0 then x b else x a)
  | .sclz d a => some (d, .ofNat 64 (leadingZeros 64 (x a).toNat))
  | .spopc d a => some (d, .ofNat 64 (onesIn 64 (x a).toNat))
  | _ => none

/-! ## Lane results (R161 to R206, R260) -/

/-- What the manual's row of a vector instruction gives each lane, and the flags that the lane raises; r holds the
operands as the bundle reads them, converted where their tags do not match. -/
def laneResult (s : State) (i : Instr) : Option (Nat → Word × DWord) :=
  let r := s.iss.reads i
  let x := s.iss.src
  let w := x.w
  let rm := RM.decode x.rm
  let z := x.ftz
  let a (j : Nat) : Word := r.v 0 j
  let b (j : Nat) : Word := r.v 1 j
  let c (j : Nat) : Word := r.v 2 j
  let int (v : Word) : Int := if s.iss.signedT i then v.toInt else v.toNat
  let word (f : Nat → Word) : Option (Nat → Word × DWord) := some fun j => (f j, 0)
  let fp (f : Nat → FR) : Option (Nat → Word × DWord) := some fun j => (.ofNat 32 (f j).1, (f j).2)
  let all (q : Lanes × DWord) : Option (Nat → Word × DWord) :=
    some fun j => (q.1.getD j 0, if j = Mask.first s.iss.g1 then q.2 else 0)
  match i with
  -- integer
  | .iadd _ _ _ _ _ sat =>
    some fun j => if sat then saturate (s.iss.signedT i) (int (a j) + int (b j)) else (.ofInt 32 (int (a j) + int (b j)), 0)
  | .isub _ _ _ _ _ sat =>
    some fun j => if sat then saturate (s.iss.signedT i) (int (a j) - int (b j)) else (.ofInt 32 (int (a j) - int (b j)), 0)
  | .iaddc _ _ _ _ _ co _ _ => word fun j =>
    let t := (a j).toNat + (b j).toNat + (c j).toNat % 2
    .ofNat 32 (if co then t / 2 ^ 32 else t)
  | .imul .. => word fun j => .ofNat 32 ((a j).toNat * (b j).toNat)
  | .imulh .. => word fun j => .ofInt 32 ((a j).toInt * (b j).toInt / 2 ^ 32)
  | .imulhu .. => word fun j => .ofNat 32 ((a j).toNat * (b j).toNat / 2 ^ 32)
  | .imad .. => word fun j => .ofNat 32 ((a j).toNat * (b j).toNat + (c j).toNat)
  | .imin .. => word fun j => .ofInt 32 (min (a j).toInt (b j).toInt)
  | .imax .. => word fun j => .ofInt 32 (max (a j).toInt (b j).toInt)
  | .iminu .. => word fun j => .ofNat 32 (min (a j).toNat (b j).toNat)
  | .imaxu .. => word fun j => .ofNat 32 (max (a j).toNat (b j).toNat)
  | .iabs .. => word fun j => .ofNat 32 (a j).toInt.natAbs
  -- bits and shifts
  | .and .. | .aand .. => word fun j => a j &&& b j
  | .or .. => word fun j => a j ||| b j
  | .xor .. => word fun j => a j ^^^ b j
  | .andn .. => word fun j => a j &&& ~~~(b j)
  | .shl .. | .ashl .. => word fun j => .ofNat 32 ((a j).toNat * 2 ^ ((b j).toNat % 32))
  | .shlImm _ _ n _ | .ashlImm _ _ n _ => word fun j => .ofNat 32 ((a j).toNat * 2 ^ n.toNat)
  | .shr .. => word fun j => .ofNat 32 ((a j).toNat / 2 ^ ((b j).toNat % 32))
  | .shrImm _ _ n _ => word fun j => .ofNat 32 ((a j).toNat / 2 ^ n.toNat)
  | .sra .. => word fun j => .ofInt 32 ((a j).toInt / 2 ^ ((b j).toNat % 32))
  | .sraImm _ _ n _ => word fun j => .ofInt 32 ((a j).toInt / 2 ^ n.toNat)
  | .rol .. => word fun j => (a j).rotateLeft ((b j).toNat % 32)
  | .rolImm _ _ n _ => word fun j => (a j).rotateLeft n.toNat
  | .bfx _ _ _ _ _ sx => word fun j => extractField sx (a j) (b j)
  | .bfi .. => word fun j => insertField (a j) (b j) (c j)
  | .popc .. => word fun j => .ofNat 32 (onesIn 32 (a j).toNat)
  | .clz .. => word fun j => .ofNat 32 (leadingZeros 32 (a j).toNat)
  | .brev .. => word fun j => reverseBits (a j)
  -- moves and constants
  | .sel _ _ _ _ _ p => word fun j => if (x.lane j).pred p.toNat then a j else b j
  | .mov .. | .amov .. | .tag .. => word a
  | .li _ k | .ali _ k => word fun _ => .ofInt 32 k.toInt
  | .lih _ k => word fun j => .ofNat 32 (k.toNat * 2 ^ 17 + (a j).toNat % 2 ^ 17)
  | .iaddi _ _ _ k => word fun j => .ofInt 32 ((a j).toInt + k.toInt)
  | .pget _ => word fun j => ((x.lane j).pw ||| 1).setWidth 32
  | .aadd .. => word fun j => .ofNat 32 ((a j).toNat + (b j).toNat)
  | .aform _ _ _ _ _ hi => word fun j => formAddr hi (a j) (b j)
  -- floating point
  | .fadd .. => fp fun j => Sys2Proof.Machine.fadd rm z (a j).toNat (b j).toNat
  | .fsub .. => fp fun j => Sys2Proof.Machine.fsub rm z (a j).toNat (b j).toNat
  | .fmul .. => fp fun j => Sys2Proof.Machine.fmul rm z (a j).toNat (b j).toNat
  | .ffma .. => fp fun j => Sys2Proof.Machine.ffma rm z (a j).toNat (b j).toNat (c j).toNat
  | .fmin .. => fp fun j => fminmax false false z (a j).toNat (b j).toNat
  | .fmax .. => fp fun j => fminmax true false z (a j).toNat (b j).toNat
  | .fminn .. => fp fun j => fminmax false true z (a j).toNat (b j).toNat
  | .fmaxn .. => fp fun j => fminmax true true z (a j).toNat (b j).toNat
  | .fabs .. => fp fun j => (Sys2Proof.Machine.fabs z (a j).toNat, 0)
  | .fneg .. => fp fun j => (Sys2Proof.Machine.fneg z (a j).toNat, 0)
  | .fclmp .. => fp fun j => Sys2Proof.Machine.fclmp z (a j).toNat (b j).toNat (c j).toNat
  | .frnd _ _ q _ => fp fun j => Sys2Proof.Machine.frnd (rmoMode q rm) z (a j).toNat
  | .ffrac .. => fp fun j => Sys2Proof.Machine.ffrac rm z (a j).toNat
  | .frcp .. => fp fun j => Sys2Proof.Machine.frcp z (a j).toNat
  | .frsq .. => fp fun j => Sys2Proof.Machine.frsq z (a j).toNat
  | .fsqrt .. => fp fun j => Sys2Proof.Machine.fsqrt rm z (a j).toNat
  | .fex2 .. => fp fun j => Sys2Proof.Machine.fex2 z (a j).toNat
  | .flg2 .. => fp fun j => Sys2Proof.Machine.flg2 z (a j).toNat
  | .fsin .. => fp fun j => ftrig false z (a j).toNat
  | .fcos .. => fp fun j => ftrig true z (a j).toNat
  -- conversions
  | .icvtf _ _ q t _ =>
    some fun j => icvtfLane (intTag (s.iss.usedTag i 0 j)) (tagOf t.toNat) (rmoMode q rm) z (a j).toNat
  | .fcvti _ _ q t _ =>
    some fun j => fcvtiLane (floatTag (s.iss.usedTag i 0 j)) (tagOf t.toNat) (rmoMode q rm) z (a j).toNat
  | .pack _ _ _ _ _ e => word fun j => packLane ((s.iss.usedTag i 0 j).getD .und) e (a j).toNat (b j).toNat
  | .unpk _ _ k _ => word fun j => unpkLane ((s.iss.usedTag i 0 j).getD .und) k.toNat (a j).toNat
  -- packed halves and dot products
  | .hadd2 .. =>
    let t := (s.iss.resultTags i).headD .hf2
    some fun j => half2 t (fun p q _ => (halfFmt t).addV rm false ((halfFmt t).val p) ((halfFmt t).val q))
      (a j).toNat (b j).toNat (c j).toNat
  | .hmul2 .. =>
    let t := (s.iss.resultTags i).headD .hf2
    some fun j => half2 t (fun p q _ => (halfFmt t).mulV rm false ((halfFmt t).val p) ((halfFmt t).val q))
      (a j).toNat (b j).toNat (c j).toNat
  | .hfma2 .. =>
    let t := (s.iss.resultTags i).headD .hf2
    some fun j => half2 t (fun p q u => (halfFmt t).fmaV rm false ((halfFmt t).val p) ((halfFmt t).val q) ((halfFmt t).val u))
      (a j).toNat (b j).toNat (c j).toNat
  | .fdot4 .. => fp fun j =>
    fdot (fp8Tag (s.iss.usedTag i 0 j)) (fp8Tag (s.iss.usedTag i 1 j)) 4 rm z (a j).toNat (b j).toNat (c j).toNat
  | .fdot8 .. => fp fun j => fdot .e21 .e21 8 rm z (a j).toNat (b j).toNat (c j).toNat
  | .rsvfin .. => fp fun j => rsvFin (r.record 0 j) (r.v 4 j).toNat
  -- cross-lane
  | .xshf .. => word fun j => a ((b j).toNat % w)
  | .xrot .. => word fun j => a ((j + (b j).toNat) % w)
  | .xbc .. => word fun _ => a ((b (Mask.first s.iss.g1)).toNat % w)
  | .xstep .. => word fun j =>
    let t : Int := (j : Int) + (b j).toInt
    if 0 ≤ t ∧ t < w then a t.toNat else a j
  | .xred _ _ o _ _ => all (s.reduce o.toNat r)
  | .xscn _ _ e o _ _ => all (s.scan o.toNat e r)
  | .xbal _ _ h _ _ => all (s.same (.ofNat 32 ((s.nonzero r).toNat / (if h then 2 ^ 32 else 1) % 2 ^ 32)))
  | .xcnt .. => all (s.same (.ofNat 32 (Mask.count (s.nonzero r))))
  | .xfst .. => all (s.same (if s.nonzero r = 0 then 0xFFFFFFFF else .ofNat 32 (Mask.first (s.nonzero r))))
  | _ => none

/-! ## Memory rows (R261 to R279) -/

/-- The operation that each memory row of slot 2 posts: what it does, its class, and whether it is non-temporal. -/
def memoryRow (i : Instr) : Option (OpKind × BitVec 2 × Bool) :=
  match i with
  | .ldB _ _ _ ac _ nt _ => some (.load 1 false 1, ac, nt)
  | .ldBs _ _ _ ac _ nt _ => some (.load 1 true 1, ac, nt)
  | .ldH _ _ _ ac _ nt _ => some (.load 2 false 1, ac, nt)
  | .ldHs _ _ _ ac _ nt _ => some (.load 2 true 1, ac, nt)
  | .ldW _ _ _ ac _ nt _ => some (.load 4 false 1, ac, nt)
  | .ldd _ _ _ ac _ nt _ => some (.load 4 false 2, ac, nt)
  | .ldq _ _ _ ac _ nt _ => some (.load 4 false 4, ac, nt)
  | .ldc _ _ ac nt _ => some (.load 4 false 1, ac, nt)
  | .ldu _ _ ac nt _ => some (.load 4 false 1, ac, nt)
  | .ldsB _ _ _ ac _ _ => some (.load 1 false 1, ac, false)
  | .ldsBs _ _ _ ac _ _ => some (.load 1 true 1, ac, false)
  | .ldsH _ _ _ ac _ _ => some (.load 2 false 1, ac, false)
  | .ldsHs _ _ _ ac _ _ => some (.load 2 true 1, ac, false)
  | .ldsW _ _ _ ac _ _ => some (.load 4 false 1, ac, false)
  | .ldsc _ _ ac _ => some (.load 4 false 1, ac, false)
  | .stB _ _ _ ac _ _ nt _ => some (.store 1 1, ac, nt)
  | .stH _ _ _ ac _ _ nt _ => some (.store 2 1, ac, nt)
  | .stW _ _ _ ac _ _ nt _ => some (.store 4 1, ac, nt)
  | .std _ _ _ ac _ _ nt _ => some (.store 4 2, ac, nt)
  | .stq _ _ _ ac _ _ nt _ => some (.store 4 4, ac, nt)
  | .stc _ _ ac _ nt _ => some (.store 4 1, ac, nt)
  | .stsB _ _ _ ac _ _ _ => some (.store 1 1, ac, false)
  | .stsH _ _ _ ac _ _ _ => some (.store 2 1, ac, false)
  | .stsW _ _ _ ac _ _ _ => some (.store 4 1, ac, false)
  | .stsc _ _ ac _ _ => some (.store 4 1, ac, false)
  | .amo _ _ _ ac _ _ rv op => some (.amo op rv, ac, false)
  | .amos _ _ _ ac _ _ rv op => some (.amo op rv, ac, false)
  | .cas _ _ _ ac _ _ rv _ _ => some (.cas rv, ac, false)
  | .cass _ _ _ ac _ _ rv _ _ => some (.cas rv, ac, false)
  | .sig _ _ _ ac _ _ op rel _ _ => some (.sig op rel, ac, false)
  | .stl _ _ _ ac _ _ _ _ => some (.stl, ac, false)
  | .lda _ _ _ ac _ _ _ => some (.lda, ac, false)
  | _ => none

/-- The new word of an atomic or a signal, from the old word, the operand and the compare word: the tables of AMO and SIG, and
the compare of CAS (R266, R267, R274). -/
def newWord (k : OpKind) (w v cmp : Word) : Word :=
  match k with
  | .amo op _ =>
    match op.toNat with
    | 0 => .ofNat 32 (w.toNat + v.toNat)
    | 1 => w &&& v
    | 2 => w ||| v
    | 3 => w ^^^ v
    | 4 => .ofInt 32 (min w.toInt v.toInt)
    | 5 => .ofInt 32 (max w.toInt v.toInt)
    | 6 => .ofNat 32 (min w.toNat v.toNat)
    | 7 => .ofNat 32 (max w.toNat v.toNat)
    | 8 => v
    | _ => .ofNat 32 (Sys2Proof.Machine.fadd .rne false w.toNat v.toNat).1
  | .cas _ => if w = cmp then v else w
  | .sig op _ =>
    match op.toNat with
    | 0 => .ofNat 32 (w.toNat + v.toNat)
    | 1 => v
    | _ => w ||| v
  | _ => w

/-- The words that a memory row sends for a lane: those of its stored registers, or the operand of an atomic. -/
def memoryData (s : State) (i : Instr) (k : OpKind) (j : Nat) : List Word :=
  let r := s.iss.reads i
  match k with
  | .store _ n => (List.range n).map fun q => r.v q j
  | .amo .. | .cas .. | .sig .. | .stl => [r.v 0 j]
  | _ => []

end Sys2Proof.Machine
end

