-- ==== Sys2Proof/Certificates/Slice0/Obligations.lean ====
section
/-! DEFINITION. The statements about this hardware: each is a proposition about the model, and its docstring says which
rules of the manual it rests on. -/

section
open Sys2Proof Sys2Proof.Machine

/-! ## Decoding -/

/-- Words written out from the examples and tables of the manual decode to the instructions they stand for (R112 to R115):
one or more of every slot. -/
def Obligations.DecodedWords : Prop :=
  decodeSlot 0 0x0400C800#32 0 = .ok (.brx 12 true) ∧
  decodeSlot 0 0x10000001#32 0 = .ok (.waitc 0 1) ∧
  decodeSlot 0 0x13008600#32 0 = .ok (.save 2 3) ∧
  decodeSlot 0 0x331888A0#32 0 = .ok (.vtos 3 8 true 5) ∧
  decodeSlot 1 0x1F040C0B#32 0 = .ok (.iaddi 2 3 true 5) ∧
  decodeSlot 1 0x1E02091A#32 0 = .ok (.lih 1 0x091A) ∧
  decodeSlot 1 0x1A640410#32 0 = .ok (.icmp 6 2 1 2 false false false) ∧
  decodeSlot 2 0x140E3100#32 1 = .ok (.ldW 7 3 8 0 false false 1) ∧
  decodeSlot 2 0x3A000000#32 3 = .ok (.fence 3 0 false) ∧
  decodeSlot 3 0x30100000#32 0 = .ok (.tsub false 4) ∧
  decodeSlot 3 0x4010A602#32 0 = .ok (.cred false 4 5 6 0 2)

/-- Decoding the words that the encoder gives a slot instruction gives the instruction back, with every operand at every
value its row allows (R105 to R116). -/
def Obligations.DecodeEncode : Prop :=
  ∀ i : Instr, SlotIns i → decodeSlot (slotOf i) (encode i).1 (encode i).2 = .ok i

/-- What the decoder accepts in a slot is an instruction word of that slot, or the NOP that every slot has, with fields
that its row allows; of everything else it gives no instruction (R116). The bundle that the encoder writes for one
instruction decodes to that instruction in its slot and to a NOP in every other (R102, R105). -/
def Obligations.DecodedForms : Prop :=
  (∀ (k : Nat) (w : Word) (x : BitVec 7) (i : Instr), k < 4 → decodeSlot k w x = .ok i →
     SlotIns i ∧ (slotOf i = k ∨ i = .nop)) ∧
  (∀ i : Instr, SlotIns i → ∃ b, decodeBytes (encodeBundle i) = .ok b ∧ b.slot (slotOf i) = i ∧
     ∀ k, k < 4 → k ≠ slotOf i → b.slot k = .nop)

/-! ## The step -/

/-- A step runs the event that is picked, then every bundle that it puts in issue, and ends with the tick of the package
clock. A slot of the bundle in issue runs the instruction that the bundle decoded to, which is exec of it: slots 1, 2 and 3
before slot 0, but slot 0 first when it reads POOL, and CONT after all (R47, R100, R421); an instruction that reads a register
in which an uncorrectable error lies takes HWE in its place and writes nothing (R220). That one event makes a step, that every
bundle it chooses runs in that step, the tick and the order of the slots are the model's choices (log entries 1, 6, 91, 113 and
119). -/
def Obligations.StepRunsTheDecodedInstruction : Prop :=
  (∀ s : State, step s = andThen (exec s.pick.1 s.pick.2) fun t => andThen (runAll (rounds t) t) fun u => .next u.tick) ∧
  (∀ (s : State) (n : Nat), s.iss.valid = true → runAll (n + 1) s =
    andThen (runSlots (slotOrder s.iss.bundle) s) fun t => runAll n t.close) ∧
  (∀ (s : State) (k : Nat), s.iss.valid = true → isEvent (s.iss.bundle.slot k) = false →
    (k = 0 → s.iss.follower = false ∨ rowOnce s.iss.bundle.i0 = false) →
    (s.poolMet (s.iss.bundle.slot k) = none → runSlot k s = exec (s.iss.bundle.slot k) s) ∧
    ∀ a, s.poolMet (s.iss.bundle.slot k) = some a → runSlot k s =
      .next ((s.onCourse s.iss.course fun y => { y with poolErr := none }).hwError s.iss.course 2 a)) ∧
  ∀ b : Bundle, let pool : Prop := ∃ d, b.i0 = .mfs d 0x17
    let conts : Prop := ∃ m a c k, b.i3 = .cont m a c k
    (pool → slotOrder b = [0, 1, 2, 3]) ∧ (¬ pool → conts → slotOrder b = [1, 2, 0, 3]) ∧
      (¬ pool → ¬ conts → slotOrder b = [1, 2, 3, 0])

/-- Lanes that select an address have the sixteen bytes there decoded, and the bundle that they decode to put in issue: a
legal bundle, in which no member lane waits, is latched with the executing lanes and then held against its traps, waits and
interlocks (R10, R15, R117). Bytes that decode to no bundle raise ILL with the slot and the word (R116, R117). -/
def Obligations.SelectionDecodesWhatItFetches : Prop :=
  ∀ (s : State) (c : Nat) (pc : Word) (m : Mask) (complete : Bool) (bs : List Byte), (s.fetchBytes c pc).1 = some bs →
    (∀ e, decodeBytes bs = .error e → s.selectAt c pc m complete =
      (s.fetchBytes c pc).2.takeTrap c
        { code := 0x01, tsa := .ofNat 64 e.slot, tsb := .ofNat 64 e.word.toNat, tlpc := pc, tlanes := m } false) ∧
    (∀ b, decodeBytes bs = .ok b → (((s.fetchBytes c pc).2).course c).ill (wordsOf bs) (.ok b) = none →
      (bConv b = false ∨ complete = true) →
      s.selectAt c pc m complete = ((s.fetchBytes c pc).2.latch c pc b m true).judge)

/-- The checks of a bundle in issue, whose instructions are l. While a scalar or an O register that one of them names is
still to be written by an outstanding access, nothing is judged and the bundle is selected again later (R39, R100, R129). Else
a trap of class I is taken first, of several the one that R209 ranks first, and the bundle commits nothing (R207, R209); else a
wait puts the executing lanes to sleep (R12); else an interlock or a full counter drops the selection (R145): that these
come in one order is log entry 16. A scalar access of slot 0 (SLD, SST) whose address is no multiple of 8 raises ALGN with that
address, and an area of SAVE or REST that is no multiple of 64 as well (R151, R158). BRX, CALLX and RET outside a stream raise
ALGN where a target is no multiple of 16, with the target of the lowest such lane and the lanes that hold such targets
(R132). -/
def Obligations.AdmissionTraps : Prop :=
  (∀ (s : State) (l : List Instr), l = bInstrs s.iss.bundle →
     (l.any s.regBusy = true → s.judge = s.meetPre.drop) ∧
     (l.any s.regBusy = false →
       (∀ t, firstTrap (l.map s.trapsOf).flatten = some t → s.judge = (s.takeTrap s.iss.course t false).drop ∧
         t ∈ (l.map s.trapsOf).flatten ∧ ∀ u ∈ (l.map s.trapsOf).flatten, trapRank t.code ≤ trapRank u.code) ∧
       ((l.map s.trapsOf).flatten = [] →
         (∀ st k, l.findSome? s.sleepOf = some (st, k) →
           s.judge = ((s.meetPre.sleepLanes st k).drop).fairSleep s.iss.course s.iss.src s.iss.pc) ∧
         (l.findSome? s.sleepOf = none → (l.any s.stallOf = true ∨ s.countFull l = true) → s.judge = s.meetPre.drop)))) ∧
  ((∀ (s : State) (d a : SReg) (k : BitVec 9), s.iss.exec ≠ 0 → (s.iss.src.s a.toNat + .ofInt 64 (8 * k.toInt)).toNat % 8 ≠ 0 →
     ∃ t ∈ s.trapsOf (.sld d a k), t.code = 0x0B ∧ t.tsa = s.iss.src.s a.toNat + .ofInt 64 (8 * k.toInt) ∧ t.tlpc = s.iss.pc) ∧
   (∀ (s : State) (a b : SReg) (k : BitVec 9), s.iss.exec ≠ 0 → (s.iss.src.s a.toNat + .ofInt 64 (8 * k.toInt)).toNat % 8 ≠ 0 →
     ∃ t ∈ s.trapsOf (.sst a b k), t.code = 0x0B ∧ t.tsa = s.iss.src.s a.toNat + .ofInt 64 (8 * k.toInt) ∧ t.tlpc = s.iss.pc) ∧
   (∀ (s : State) (a b : SReg), s.iss.exec ≠ 0 → (s.iss.src.s a.toNat).toNat % 64 ≠ 0 →
     (∃ t ∈ s.trapsOf (.save a b), t.code = 0x0B ∧ t.tsa = s.iss.src.s a.toNat ∧ t.tlpc = s.iss.pc) ∧
     ∃ t ∈ s.trapsOf (.rest a b), t.code = 0x0B ∧ t.tsa = s.iss.src.s a.toNat ∧ t.tlpc = s.iss.pc) ∧
   ∀ (s : State) (i : Instr) (target : Nat → Word) (j : Nat), s.iss.src.info.row = none →
     (∀ k, Mask.has s.iss.exec k = true → k < s.iss.src.w) → transferOf s i = some target → (∀ d, i ≠ .call d) →
     (s.qwWaits i).1 = false → Mask.has s.iss.exec j = true → (target j).toNat % 16 ≠ 0 →
     ∃ t ∈ s.trapsOf i, t.code = 0x0B ∧ t.tlpc = s.iss.pc ∧ t.tsa = (target (Mask.first t.tlanes)).setWidth 64 ∧
       ∀ k, Mask.has t.tlanes k = true ↔ Mask.has s.iss.exec k = true ∧ (target k).toNat % 16 ≠ 0)

/-- No instruction and no event stops the machine, and nothing is refused (log entry 1), but a failure of a unit that the
manual does not list ends in the fault of its name: the model's choice (log entry 90; R494 has the package raise its AER fatal
error and need a reset). -/
def Obligations.OnlyAnUnknownUnitStops : Prop :=
  ∀ (i : Instr) (s : State), (∃ t, exec i s = .next t) ∨
    (∃ kind die u, i = .unitFailure kind die u ∧ 6 < kind ∧ exec i s = .fault .aerFatal)

/-- Every step keeps memory in its canonical form: addresses rise, and no byte that is listed is 0, which is what a byte
that is not listed reads as (log entry 3). -/
def Obligations.StepKeepsMemoryForm : Prop :=
  ∀ s t : State, cellWfFrom 0 s.mem = true → step s = .next t → cellWfFrom 0 t.mem = true

/-- What reset leaves: no course, block, context, task, packet or fabric request exists and TIME is 0; no core has counted
an ac, is fenced, or holds a line, a way or a matrix command; no slot of a die names a queue and no key entry is used, and
WDT, QNT, CTXSEL, DCAP and the throttle of each die, HBMILV, PCAP, TLBINV, FABID, the state of every link and the
stage of the boot have the values that the manual gives (R388, R458, R465, R468, R491, R498, R508). HBAR2 is 0 and BAR2 has
its largest size, the model's choice (log entry 2). Memory has its canonical form and reads 0, the model's choice for bytes
that nothing has written (log entry 3). -/
def Obligations.ResetState : Prop :=
  (cellWfFrom 0 State.reset.mem = true ∧ ∀ a, cellGet a State.reset.mem = 0) ∧
  State.reset.time = 0 ∧ State.reset.courses = [] ∧ State.reset.blocks = [] ∧ State.reset.ctxs = [] ∧
  State.reset.tasks = [] ∧ State.reset.pkts = [] ∧ State.reset.fab.reqs = [] ∧ State.reset.fab.fabid = 0 ∧
  (∀ k, (State.reset.core k).clk = 0 ∧ (State.reset.core k).l1 = [] ∧ (State.reset.core k).heldWays = [] ∧
    (State.reset.core k).mq = [] ∧ (State.reset.core k).fenced = false) ∧
  (∀ d, (State.reset.die d).wdt = 2000 ∧ (State.reset.die d).ctxsel = 0 ∧ (State.reset.die d).keys = [] ∧
    (∀ l, l < 24 → (State.reset.die d).qnt.getD l 0 = 1000) ∧ (∀ n, (State.reset.die d).slots.getD n (0, 0) = (0, 0)) ∧
    (State.reset.die d).health.dcap = 1100 ∧ (State.reset.die d).health.step = 0 ∧ (State.reset.die d).health.ue = 0) ∧
  (∀ p, (State.reset.port p).st = 0) ∧ State.reset.regs.hbmilv = 0 ∧ State.reset.regs.pcap = 3400 ∧
  State.reset.regs.hbar2 = 0 ∧ State.reset.regs.bar2 = 9 ∧ State.reset.regs.tlbBusy = none ∧ State.reset.regs.tlbN = 0 ∧
  State.reset.boot.stage = 0 ∧ State.reset.boot.err = 0 ∧ State.reset.boot.bankb = false ∧ State.reset.boot.powered = false


/-! ## Slot 0: transfers, loops, joins, traps -/

/-- BRA, BRP and BRS: the executing lanes that take the transfer go to its target, every other lane keeps its address, and
nothing else changes (R108, R131, R132). BRX, CALL, CALLX and RET: each executing lane goes to its own target, in a stream
to that of lane 0; a RET to the top of the lane's ray-return stack pops it; a call writes LPC + 16 with tag UW to V63; the
reads raise their flags at once, and nothing but the lanes, the flags and the vectors of the course changes (R131 to R135,
R350). -/
def Obligations.Transfers : Prop :=
  (∀ (s : State) (x : Course) (i : Instr) (taken : Nat → Bool) (target : Word), Issuing s → Running s x →
     branchOf s i = some (taken, target) →
     ∃ t y, exec i s = .next t ∧ OnlyCourse s t s.iss.course ∧ t.course? s.iss.course = some y ∧ OnlyLanes x y ∧
       ∀ j, j < x.w → y.lane j =
         if Mask.has s.iss.exec j && taken j then { x.lane j with lpc := target } else x.lane j) ∧
  (∀ (s : State) (x : Course) (i : Instr) (target : Nat → Word), Issuing s → Running s x → s.iss.exec ≠ 0 →
     transferOf s i = some target →
     ∃ t y, exec i s = .next t ∧ OnlyCourse s t s.iss.course ∧ t.course? s.iss.course = some y ∧
       y = { x with lanes := y.lanes, flags := y.flags, v := y.v, flights := y.flights } ∧
       y.flags = (if isCall i = true ∧ (∃ d, i = .call d) then x.flags else x.flags ||| ((s.iss.reads i).flags &&& flagsMask)) ∧
       (isCall i = true → Written s y 63 s.iss.exec .uw 0 fun _ => s.iss.pc + 16) ∧
       ∀ j, j < x.w → y.lane j =
         if Mask.has s.iss.exec j then
           (match i with | .ret => (x.lane j).ret (target j) | _ => { x.lane j with lpc := target j })
         else x.lane j)

/-- LOOPI: in each executing lane CNT takes the count and EPI is kept, P4 says whether the count is not 0, P5, P6 and P7
are cleared; nothing else changes. Its words decode for every count (R137). -/
def Obligations.LoopInit : Prop :=
  (∀ n : BitVec 19, decodeSlot 0 (0x08000000#32 + n.setWidth 32) 0 = .ok (.loopi n)) ∧
  ∀ (s : State) (x : Course) (n : BitVec 19), Issuing s → Running s x →
    ∃ t y, exec (.loopi n) s = .next t ∧ OnlyCourse s t s.iss.course ∧ t.course? s.iss.course = some y ∧ OnlyLanes x y ∧
      ∀ j, j < x.w → (Mask.has s.iss.exec j = false → y.lane j = x.lane j) ∧
        (Mask.has s.iss.exec j = true →
          y.lane j = { x.lane j with lc := (y.lane j).lc, pw := (y.lane j).pw } ∧
          (y.lane j).lc.toNat % 2 ^ 30 = n.toNat ∧ (y.lane j).lc.toNat / 2 ^ 30 = (x.lane j).lc.toNat / 2 ^ 30 ∧
          ∀ p, p < 8 → (y.lane j).pw.getLsbD p =
            if p < 4 then (x.lane j).pw.getLsbD p else if p = 4 then n != 0 else false)

/-- LOOP: in each executing lane CNT counts down, or EPI when CNT is 0; the stage window moves up by one and P4 says whether
CNT is left; the lane goes to the target while either count is left, and to the next bundle otherwise. Its words decode for every displacement (R138). -/
def Obligations.LoopBack : Prop :=
  (∀ d : BitVec 21, decodeSlot 0 (0x09000000#32 + d.setWidth 32) 0 = .ok (.loop d)) ∧
  ∀ (s : State) (x : Course) (d : BitVec 21), Issuing s → Running s x →
    ∃ t y, exec (.loop d) s = .next t ∧ OnlyCourse s t s.iss.course ∧ t.course? s.iss.course = some y ∧ OnlyLanes x y ∧
      ∀ j, j < x.w → (Mask.has s.iss.exec j = false → y.lane j = x.lane j) ∧
        (Mask.has s.iss.exec j = true →
          let cnt := (x.lane j).lc.toNat % 2 ^ 30
          let epi := (x.lane j).lc.toNat / 2 ^ 30
          y.lane j = { x.lane j with lc := (y.lane j).lc, pw := (y.lane j).pw, lpc := (y.lane j).lpc } ∧
          (y.lane j).lc.toNat % 2 ^ 30 = cnt - 1 ∧
          (y.lane j).lc.toNat / 2 ^ 30 = (if cnt = 0 then epi - 1 else epi) ∧
          (∀ p, p < 8 → (y.lane j).pw.getLsbD p =
            if p < 4 then (x.lane j).pw.getLsbD p else if p = 4 then decide (1 < cnt) else (x.lane j).pw.getLsbD (p - 1)) ∧
          (y.lane j).lpc = if 1 < cnt ∨ (cnt = 0 ∧ 1 < epi) ∨ (0 < cnt ∧ 0 < epi)
            then s.iss.pc + .ofInt 32 (16 * d.toInt) else s.iss.pc + 16)

/-- JARM enrols the executing lanes in Jj, and JWAIT puts those of them that Jj names to sleep at its bundle; both then
release the rejoin masks that are complete (R24, R25). A rejoin mask is complete when it is not empty and all of its lanes
wait at one JWAIT of it; a complete mask is emptied and its lanes become READY at LPC + 16, and every other mask and lane
stays (R25). -/
def Obligations.JoinBarriers : Prop :=
  (∀ (s : State) (x : Course) (j : BitVec 3), Issuing s → Running s x →
     (∃ t, exec (.jarm j) s = .next t ∧ OnlyCourse s t s.iss.course ∧ t.course? s.iss.course = some
       ({ x with js := modAt j.toNat (fun m => m ||| s.iss.exec) x.js } : Course).releaseJoins) ∧
     (∃ t, exec (.jwait j) s = .next t ∧ OnlyCourse s t s.iss.course ∧ t.course? s.iss.course = some
       (x.onLanes (s.iss.exec &&& x.js.getD j.toNat 0) fun _ l =>
         { l with lpc := s.iss.pc, st := .join, wake := .join j.toNat }).releaseJoins)) ∧
  (∀ x : Course, x.js.length = 8 → x.lanes.length = x.w →
     let complete (j : Nat) : Prop := x.js.getD j 0 ≠ 0 ∧ ∀ i, Mask.has (x.js.getD j 0) i = true →
       i < x.w ∧ (x.lane i).st = .join ∧ (x.lane i).wake = .join j ∧ (x.lane i).lpc = (x.lane (Mask.first (x.js.getD j 0))).lpc
     let y := x.releaseJoins
     y = { x with lanes := y.lanes, js := y.js } ∧
     (∀ j, j < 8 → complete j → y.js.getD j 0 = 0 ∧ ∀ i, Mask.has (x.js.getD j 0) i = true →
       y.lane i = { x.lane i with lpc := (x.lane i).lpc + 16, st := .ready, wake := .none }) ∧
     (∀ j, j < 8 → ¬ complete j → y.js.getD j 0 = x.js.getD j 0) ∧
     ∀ i, i < x.w → (∀ j, j < 8 → complete j → Mask.has (x.js.getD j 0) i = false) → y.lane i = x.lane i)

/-- EXIT outside a stream retires the executing lanes: they leave the lanes that can issue and every rejoin mask; while
another lane is left, the course goes on, and no byte of memory changes (R13, R141). -/
def Obligations.ExitRetires : Prop :=
  ∀ (s : State) (x : Course), Issuing s → Running s x → s.iss.src.info.row = none →
    exec .exit s = .next (s.retire s.iss.course s.iss.exec) ∧
    ((x.live &&& ~~~s.iss.exec) ≠ 0 → SameMemory s (s.retire s.iss.course s.iss.exec) ∧
      ∃ y, (s.retire s.iss.course s.iss.exec).course? s.iss.course = some y ∧ y.pres = x.pres ∧ y.sr = x.sr ∧ y.o = x.o ∧
        (∀ i, i < x.w → Mask.has s.iss.exec i = true → (y.lane i).st = .retired) ∧
        (∀ i, i < x.w → Mask.has s.iss.exec i = false → ((y.lane i).st = .retired ↔ (x.lane i).st = .retired)) ∧
        ∀ j, y.js.getD j 0 &&& s.iss.exec = 0)

/-- TRAP commits its bundle and then takes SWT, with its code in TSA, the next bundle in TLPC and the executing lanes in
TLANES (R143). -/
def Obligations.SoftwareTrap : Prop :=
  ∀ (s : State) (k : BitVec 19), Issuing s → exec (.trap k) s = .next (s.finishIssue.takeTrap s.iss.course
    { code := 0x0F, sub := 0, tsa := k.setWidth 64, tsb := 0, tlpc := s.iss.pc + 16, tlanes := s.iss.exec, wk := 0, dln := 0 }
    false)

/-- Trap entry. A course with a handler, alone in its unit: every fixed-latency result lands first, the frame is recorded,
J0 to J7 are cleared, the selector goes back to MIN mode with LIM kept, every non-retired lane is READY at TVEC, HND is 1,
and the trap registers say what was raised; L0 to L3 read 0 with tag UND, and the vectors, operand registers, scalars,
windows, loop counters, modes, flags and rounding states are those of the landed course (R210, R212, R217). A trap while HND
is 1, or one of an access that a handler issued, ends the course, with entry 0x01 in the error ring, which holds the cause
being handled, the new cause, TLPC and TSA (R214); with TVEC.OFS = 0 any trap ends it, with entry 0x02, the cause and the TLPC
(R215). A course that ends so has retired lanes, no registers, no results on their way and nothing pending, and its block is
marked to end by a fault (R13, R142, R538). -/
def Obligations.TrapEntry : Prop :=
  (∀ (s : State) (c : Nat) (x z : Course) (t : Trap), s.course? c = some x → x.hnd = false → x.handler ≠ 0 →
    x.info.row = none → x.info.partner = none → (s.landAll c).course? c = some z →
    ∃ y, (s.takeTrap c t false).course? c = some y ∧
      y.frame = some { lanes := x.lanes.map Lane.framed, js := x.js, fairt := x.fairt, cause := t.code } ∧
      y.js = List.replicate 8 0 ∧ fairLim y.fairt = fairLim x.fairt ∧ fairCnt y.fairt = 0 ∧ fairMd y.fairt = false ∧
      fairRp y.fairt = 0 ∧
      (∀ i, i < x.lanes.length → y.lane i = if (x.lane i).st = .retired then x.lane i
        else { x.lane i with lpc := x.handler, st := .ready, wake := .none, wa := none }) ∧
      y.trap.tvec = x.trap.tvec ∧ y.hnd = true ∧ fld y.trap.tcause 0 8 = t.code % 256 ∧ fld y.trap.tcause 8 8 = t.sub % 256 ∧
      y.trap.tcause.getLsbD 16 = x.lost ∧ y.trap.tlpc = t.tlpc.setWidth 64 ∧ y.trap.tlanes = t.tlanes &&& Mask.low x.w ∧
      y.trap.tsa = t.tsa ∧ y.trap.tsb = t.tsb ∧ y.l = List.replicate 4 VReg.zero ∧
      y.v = z.v ∧ y.o = x.o ∧ y.sr = x.sr ∧ y.mode = x.mode ∧ y.flags = z.flags) ∧
  ∀ (s : State) (c : Nat) (x : Course) (t : Trap) (double : Bool), s.course? c = some x → x.info.row = none →
    x.info.partner = none →
    let entry (code : Nat) (a b : DWord) : State := s.errEntry x.info.ctx x.info.die x.info.core x.info.lnch code a b
    ((x.hnd = true ∨ double = true) → s.takeTrap c t double =
      (entry 0x01 (.ofNat 64 (fld x.trap.tcause 0 8 + t.code * 256))
        (.ofNat 64 (t.tlpc.toNat + t.tsa.toNat % 2 ^ 32 * 2 ^ 32))).endByFault [c]) ∧
    (x.hnd = false → double = false → x.handler = 0 → s.takeTrap c t double =
      (entry 0x02 (.ofNat 64 t.code) (t.tlpc.setWidth 64)).endByFault [c]) ∧
    (x.pres ≠ .ended → x.pend = [] → ∃ y, s.endByFault [c] =
        (((s.onBlock x.info.block fun b => { b with faulted := true }).setCourse c y).onBlockMem x.info.block fun m =>
          { m with queues := m.queues.map fun q => { q with waiters := q.waiters.filter (·.1 != c) } }).settle c ∧
      y.pres = .ended ∧ y.v = List.replicate 64 VEntry.empty ∧ y.flights = [] ∧ y.pend = [] ∧ y.pre = none ∧
      y.info = x.info ∧ y.sr = x.sr ∧ ∀ l ∈ y.lanes, l.st = .retired)

/-- ERET ends handler state in the course of its bundle, in a stream in every course of the row, whose held-back bundles stand
again (log entry 38), and the course is then held against R29 and R30 (R144, R213). Of a course with a frame: HND is 0 and no
other trap register changes, FAIRT takes the value of the frame, the L registers read 0, and no vector, operand register,
scalar, mode or flag changes. A retired lane stays; a lane that TLANES names is READY at TLPC; any other lane goes back to the
LPC, the state and the wait of the frame: one that the frame has READY is READY there, one that it has at a convergence bundle
waits there, under an explicit mask as S31 has it now, and a lane that this mask leaves out is READY there, the model's
reading (log entry 37); one that it has at a JWAIT waits there, or is released behind it when its rejoin mask is complete
(R25). -/
def Obligations.TrapReturn : Prop :=
  (∀ s : State, Issuing s →
    let cs := if s.iss.src.info.row.isSome then s.together s.iss.course else [s.iss.course]
    exec .eret s = .next ((cs.foldl (fun u c => u.onCourse c Course.eret)
      (s.finishIssue.rowUnpark cs (.ofNat 32 (fld s.iss.src.trap.tlpc 4 28 * 16)))).checkState s.iss.course)) ∧
  (∀ (s : State) (cs : List Nat) (a : Word), s.rowbuf = [] → s.rowUnpark cs a = s) ∧
  ∀ (x : Course) (f : Frame), x.frame = some f → x.lanes.length = x.w → f.lanes.length = x.w →
    x.eret.hnd = false ∧ x.eret.trap = { x.trap with tcause := x.trap.tcause &&& ~~~0x20000#64 } ∧
    x.eret.fairt = f.fairt ∧ x.eret.frame = none ∧ x.eret.l = List.replicate 4 VReg.zero ∧
    x.eret.v = x.v ∧ x.eret.o = x.o ∧ x.eret.sr = x.sr ∧ x.eret.mode = x.mode ∧ x.eret.flags = x.flags ∧
    ∀ i, i < x.w → ((x.lane i).st = .retired → x.eret.lane i = x.lane i) ∧
      ((x.lane i).st ≠ .retired → Mask.has x.trap.tlanes i = true →
        x.eret.lane i = { x.lane i with lpc := .ofNat 32 (fld x.trap.tlpc 4 28 * 16), st := .ready, wake := .none, wa := none }) ∧
      ((x.lane i).st ≠ .retired → Mask.has x.trap.tlanes i = false → ∀ (a : Word) (k : Wake),
        (f.lanes[i]? = some (.ready, a, k) → x.eret.lane i = { x.lane i with lpc := a, st := .ready, wake := k, wa := none }) ∧
        (f.lanes[i]? = some (.conv, a, .conv false) →
          x.eret.lane i = { x.lane i with lpc := a, st := .conv, wake := .conv false, wa := none }) ∧
        (f.lanes[i]? = some (.conv, a, .conv true) → x.eret.lane i =
          if Mask.has (x.s 31) i then { x.lane i with lpc := a, st := .conv, wake := .conv true, wa := none }
          else { x.lane i with lpc := a, st := .ready, wake := .none, wa := none }) ∧
        (f.lanes[i]? = some (.join, a, k) →
          x.eret.lane i = { x.lane i with lpc := a, st := .join, wake := k, wa := none } ∨
          x.eret.lane i = { x.lane i with lpc := a + 16, st := .ready, wake := .none, wa := none }))

/-! ## Slot 0: special registers, scalars, saves -/

/-- MFS writes the special register at its index to S[d], zero-extended; of a per-lane register (PW, LC, DEPTH) it is the
value of the lowest executing lane, in a stream of lane 0. The registers are those of R44 at their indexes 0x00 to 0x1B: CW,
LPC, PW, LC, MODE, FAIRT, FLAGS, TVEC, TCAUSE, TLPC, TLANES, TWAIT, TSA, TSB, CTXA, CBASE, BLKID, CRSID, LNCH, CORE, RANK, CLK, TIME,
POOL, SPILLS, DEPTH, GOVD and NCNT. GOVQ writes the budget that is left. Nothing else changes but the mark that a
scalar holds a RANK: S[d] carries it after an MFS of RANK in a stream, and does not after any other of the two (R44, R47, R146,
R148, R155, R363). -/
def Obligations.SpecialReads : Prop :=
  (∀ (s : State) (x : Course) (d : SReg) (i : BitVec 9) (v : DWord), Issuing s → Running s x → s.special i.toNat = v →
    ∃ t y, exec (.mfs d i) s = .next t ∧ OnlyCourse s t s.iss.course ∧ t.course? s.iss.course = some y ∧
      y = { x with sr := y.sr, ranked := y.ranked } ∧ y.s d.toNat = v ∧ (∀ r : SReg, r ≠ d → y.s r.toNat = x.s r.toNat) ∧
      ∀ r, r < 32 → y.ranked.getLsbD r =
        if r = d.toNat then (i == 0x14#9 && s.iss.src.info.row.isSome) else x.ranked.getLsbD r) ∧
  (∀ (s : State) (x : Course) (d : SReg) (v : DWord), Issuing s → Running s x →
    v = (let g := (s.ctx s.iss.src.info.ctx).gov
         if g.govd = 0 then 0x7FFFFFFFFFFFFFFF#64
         else .ofInt 64 ((g.govd - .ofNat 64 s.time - g.tail.setWidth 64 - .ofNat 64 g.longest : DWord).toInt / 1000)) →
    ∃ t y, exec (.govq d) s = .next t ∧ OnlyCourse s t s.iss.course ∧ t.course? s.iss.course = some y ∧
      y = { x with sr := y.sr, ranked := y.ranked } ∧ y.s d.toNat = v ∧ (∀ r : SReg, r ≠ d → y.s r.toNat = x.s r.toNat) ∧
      ∀ r, r < 32 → y.ranked.getLsbD r = if r = d.toNat then false else x.ranked.getLsbD r) ∧
  (∀ s : State, let x := s.iss.src
    let l := x.lane (if x.info.row.isSome then 0 else Mask.first s.iss.exec)
    s.special 0x00 = .ofNat 64 x.w ∧ s.special 0x01 = s.iss.pc.setWidth 64 ∧ s.special 0x02 = (l.pw ||| 1).setWidth 64 ∧
    s.special 0x03 = l.lc.setWidth 64 ∧ s.special 0x04 = x.mode ∧ s.special 0x05 = x.fairt ∧ s.special 0x06 = x.flags ∧
    s.special 0x07 = x.trap.tvec ∧ s.special 0x08 = x.trap.tcause ∧ s.special 0x09 = x.trap.tlpc ∧
    s.special 0x0A = x.trap.tlanes ∧ s.special 0x0B = x.trap.twait ∧ s.special 0x0C = x.trap.tsa ∧
    s.special 0x0D = x.trap.tsb ∧ s.special 0x0E = x.info.ctxa ∧ s.special 0x0F = x.info.cbase ∧
    s.special 0x10 = x.info.blkid.setWidth 64 ∧ s.special 0x11 = .ofNat 64 x.info.crsid ∧
    s.special 0x12 = x.info.lnch.setWidth 64 ∧ s.special 0x13 = .ofNat 64 x.info.core ∧ s.special 0x14 = x.info.rank ∧
    s.special 0x15 = .ofNat 64 (s.core x.coreKey).clk ∧ s.special 0x16 = .ofNat 64 s.time ∧
    s.special 0x17 = s.poolWord s.iss.course ∧ s.special 0x18 = x.spills ∧
    s.special 0x19 = l.depth.setWidth 64 ∧ s.special 0x1A = (s.ctx x.info.ctx).gov.govd ∧
    ∀ k, k < 4 → fld (s.special 0x1B) (16 * k) 16 = x.n k % 2 ^ 16) ∧
  ∀ (s : State) (c : Nat), fld (s.poolWord c) 0 16 = s.poolFree (s.course c).coreKey % 2 ^ 16 ∧
    fld (s.poolWord c) 16 16 = ((s.course c).regs +
      (match (s.course c).info.partner with | some p => (s.course p).window | none => 0)) % 2 ^ 16 ∧
    fld (s.poolWord c) 32 16 = (s.course c).info.floor % 2 ^ 16

/-- NCNT reports the four counters, sampled as one value (R146). -/
def Obligations.CounterReport : Prop :=
  ∀ (s : State) (x : Course) (d : SReg), Issuing s → Running s x →
    ∃ t y, exec (.mfs d 0x1B) s = .next t ∧ t.course? s.iss.course = some y ∧
      ∀ k, k < 4 → fld (y.s d.toNat) (16 * k) 16 = s.iss.src.n k % 2 ^ 16

/-- MTS writes the fields of a special register that may be written: PW but for P0, LC, MODE, FAIRT with LIM = 0 as 1, FLAGS,
TVEC, TCAUSE but for HND, TLPC, TLANES, TWAIT, TSA, TSB and SPILLS; PW and LC in every executing lane; a MODE that clears PPR
resets the selector but for LIM. Nothing else changes (R18, R21, R43, R45, R149, R216, R217, R218). -/
def Obligations.SpecialWrites : Prop :=
  ∀ (s : State) (x : Course) (a : SReg) (i : BitVec 9) (v : DWord), Issuing s → Running s x → s.iss.src.s a.toNat = v →
    ∃ t y, exec (.mts a i) s = .next t ∧ OnlyCourse s t s.iss.course ∧ t.course? s.iss.course = some y ∧
      (i = 0x02 → y = x.onLanes s.iss.exec fun _ l => { l with pw := (v.setWidth 8 &&& 0xFE#8) ||| 1 }) ∧
      (i = 0x03 → y = x.onLanes s.iss.exec fun _ l => { l with lc := v.setWidth 32 }) ∧
      (i = 0x04 → y = { x with mode := v &&& 0xFF#64, fairt := y.fairt } ∧
        y.fairt = if x.mode.getLsbD 5 = true ∧ v.getLsbD 5 = false then fairOf (fairLim x.fairt) 0 false 0 else x.fairt) ∧
      (i = 0x05 → y = { x with fairt := fairOf (max 1 (fld v 0 16)) (fld v 16 16) (v.getLsbD 32) (.ofNat 32 (fld v 36 28 * 16)) }) ∧
      (i = 0x06 → y = { x with flags := v &&& flagsMask }) ∧
      (i = 0x07 → y = { x with trap := { x.trap with tvec := v &&& 0xFFFFFFF0#64 } }) ∧
      (i = 0x08 → y = { x with trap := { x.trap with tcause := (v &&& 0x1FFFF#64) ||| (x.trap.tcause &&& 0x20000#64) } }) ∧
      (i = 0x09 → y = { x with trap := { x.trap with tlpc := v &&& 0xFFFFFFFF#64 } }) ∧
      (i = 0x0A → y = { x with trap := { x.trap with tlanes := v &&& Mask.low x.w } }) ∧
      (i = 0x0B → y = { x with trap := { x.trap with twait := v &&& 0xFFFFFFFF0000000F#64 } }) ∧
      (i = 0x0C → y = { x with trap := { x.trap with tsa := v } }) ∧
      (i = 0x0D → y = { x with trap := { x.trap with tsb := v } }) ∧
      (i = 0x18 → y = { x with spills := v })

/-- Scalar results: SADD, SSUB, SMUL, SMULH, SAND, SOR, SXOR, SSHL, SSHR and SSRA with a register or an immediate amount, SMIN,
SMAX, SCMP, SADDI, SLI, SLIH, SSEL, SCLZ and SPOPC write the result of their row to S[d], computed from the scalars as they
stood before the bundle, and take the mark of a RANK from S[d]; no other register, flag or byte changes (R100, R129, R156,
R157). VTOS writes one lane of its operand, zero-extended, to S[d]: the lane it names, or the lowest executing one, in a
stream lane 0; the read raises its flags, and a last-use bit releases the operand in the executing lanes (R51, R159). -/
def Obligations.ScalarResults : Prop :=
  (∀ (s : State) (x : Course) (i : Instr) (d : SReg) (v : DWord), Issuing s → Running s x → scalarResult s i = some (d, v) →
     ∃ t y, exec i s = .next t ∧ OnlyCourse s t s.iss.course ∧ t.course? s.iss.course = some y ∧
       y = { x with sr := y.sr, ranked := x.ranked &&& ~~~(1#32 <<< d.toNat) } ∧ y.s d.toNat = v ∧
       ∀ r : SReg, r ≠ d → y.s r.toNat = x.s r.toNat) ∧
  (∀ (s : State) (x : Course) (i : Instr) (d : SReg) (lane : Nat), Issuing s → Running s x →
     ((∃ a ua n, i = .vtos d a ua n ∧ lane = n.toNat) ∨
       (∃ a ua, i = .vtosF d a ua ∧ lane = if s.iss.src.info.row.isSome then 0 else Mask.first s.iss.exec)) →
     ∃ t y, exec i s = .next t ∧ OnlyCourse s t s.iss.course ∧ t.course? s.iss.course = some y ∧
       y = { x with sr := y.sr, ranked := x.ranked &&& ~~~(1#32 <<< d.toNat), flags := y.flags, v := y.v, flights := y.flights } ∧
       y.flags = x.flags ||| ((s.iss.reads i).flags &&& flagsMask) ∧
       y.s d.toNat = ((s.iss.reads i).v 0 lane).setWidth 64 ∧ (∀ r : SReg, r ≠ d → y.s r.toNat = x.s r.toNat) ∧
       ∀ v ∈ lastUses i, Released s y v s.iss.exec)

/-- SLD and SST post one 8-byte access at S[a] + 8 × imm9 that no counter counts; SAVE posts the pieces of the registers
that its mask names under N1, and REST those of its area under N0, each with a write of the whole register that is on its
way; memory does not change when they issue (R151 to R153, R158). -/
def Obligations.SlotZeroAccesses : Prop :=
  (∀ (s : State) (x : Course) (i : Instr) (kind : OpKind) (a : SReg) (k : BitVec 9) (data : List Word), Issuing s → Running s x →
    s.iss.exec ≠ 0 →
    ((∃ d : SReg, i = .sld d a k ∧ kind = .sld d.toNat ∧ data = []) ∨
      (∃ b : SReg, i = .sst a b k ∧ kind = .sst ∧
        data = [(s.iss.src.s b.toNat).setWidth 32, (s.iss.src.s b.toNat >>> 32).setWidth 32])) →
    ∃ t y o, exec i s = .next t ∧ OnlyCourse s t s.iss.course ∧ t.course? s.iss.course = some y ∧ OnlyPosted x y ∧
      y.ops = x.ops ++ [o] ∧ y.outs = x.outs ∧ y.v = x.v ∧ y.flights = x.flights ∧ o.kind = kind ∧ o.cls = 0 ∧
      o.lanes = [⟨0, s.iss.src.s a.toNat + .ofInt 64 (8 * k.toInt), data, 0, .pending, none⟩]) ∧
  (∀ (s : State) (x : Course) (a b : SReg), Issuing s → Running s x → s.iss.exec ≠ 0 →
    ∃ t y o, exec (.save a b) s = .next t ∧ OnlyCourse s t s.iss.course ∧ t.course? s.iss.course = some y ∧
      y = { x with ops := x.ops ++ [o], outs := x.outs ++ [⟨o.id, 1, false⟩] } ∧ o.kind = .save ∧ o.cls = 0 ∧
      o.lanes = ((namedRegs (s.iss.src.s b.toNat)).map fun v =>
        savePieces s.iss.src.w (s.iss.src.s a.toNat) v (s.iss.src.ve v)).flatten) ∧
  (∀ (s : State) (x : Course) (a b : SReg), Issuing s → Running s x → s.iss.exec ≠ 0 →
    ∃ t y o, exec (.rest a b) s = .next t ∧ OnlyCourse s t s.iss.course ∧ t.course? s.iss.course = some y ∧
      OnlyPosted x y ∧ y.v = x.v ∧ y.ops = x.ops ++ [o] ∧ y.outs = x.outs ++ [⟨o.id, 0, false⟩] ∧ o.kind = .rest ∧ o.cls = 0 ∧
      o.lanes = ((namedRegs (s.iss.src.s b.toNat)).map fun v =>
        areaPieces s.iss.src.w (s.iss.src.s a.toNat) v (fun _ => 0) [0, 0, 0, 0]).flatten ∧
      (∀ f ∈ x.flights, f ∈ y.flights) ∧
      ∀ v ∈ namedRegs (s.iss.src.s b.toNat), ∃ f ∈ y.flights, f.v = some v ∧ f.whole = true ∧ f.due = none)

/-- PDONE of a course alone in its unit, when every place that its record, its rays and its window entries take can be
written: every result of fixed latency lands, the record of the landed course with its frame is stored, and the course leaves
the core as one that is away, with its V registers unmapped, no write on its way, and its frame, counters and descriptor sets
kept (R154, R227). -/
def Obligations.PreemptDone : Prop :=
  (∀ s : State, Issuing s → exec .pdone s = .next (s.finishIssue.pdone s.iss.course s.iss.pc s.iss.exec)) ∧
  ∀ (s u z : State) (c : Nat) (x : Course) (f : Frame) (pc : Word) (m : Mask), s.course? c = some x →
    x.info.partner = none → x.frame = some f → s.areaReaches (s.recordPlaces c) .write = (some true, u) → z = u.landAll c →
    s.pdone c pc m = (z.storeRecord c f).leave c .away (List.replicate 64 VEntry.empty) (some f) ∧
    ∃ y, (s.pdone c pc m).course? c = some y ∧ y.pres = .away ∧ y.v = List.replicate 64 VEntry.empty ∧ y.flights = [] ∧
      y.frame = some f ∧ y.outs = (z.course c).outs ∧ y.d = (z.course c).d

/-! ## Slot 1 and the address ALU -/

/-- The vector instructions with one destination of fixed latency, laneResult giving their results row by row: IADD, ISUB,
IADDC, IMUL, IMULH, IMULHU, IMAD, IMIN, IMAX, IMINU, IMAXU, IABS, AND, OR, XOR, ANDN, SHL, SHR, SRA and ROL with a register or an
immediate amount, BFX, BFI, POPC, CLZ, BREV, SEL, MOV, TAG, LI, LIH, IADDI, PGET; FADD, FSUB, FMUL, FFMA, FMIN, FMAX, FMINN, FMAXN,
FABS, FNEG, FCLMP, FRND, FFRAC, FRCP, FRSQ, FSQRT, FEX2, FLG2, FSIN, FCOS; ICVTF, FCVTI, PACK, UNPK, HADD2, HMUL2, HFMA2, FDOT4,
FDOT8, RSVFIN; XSHF, XROT, XBC, XSTEP, XRED, XSCN, XBAL, XCNT, XFST; and of the address ALU AADD, ASHL, AAND, AMOV, ALI and AFORM.
Each completes: the lanes that execute it get the result of its row in its destination, with the tag that the row gives; the
flags that its reads and its lanes raise go with the result; the registers whose last-use bit it sets are released in the
executing lanes; no other register of the course, no other course and no byte changes. Executing in no lane it does nothing
(R50 to R55, R100, R103, R161 to R206, R260). -/
def Obligations.VectorResults : Prop :=
  ∀ (s : State) (x : Course) (i : Instr) (f : Nat → Word × DWord), Issuing s → Running s x → laneResult s i = some f →
    let m := s.iss.mask (profile i).slot
    (m = 0 → exec i s = .next s) ∧
    (m ≠ 0 → ∃ d t y, (profile i).written = [d] ∧ exec i s = .next t ∧ OnlyCourse s t s.iss.course ∧
      t.course? s.iss.course = some y ∧ OnlyVectors x y ∧
      Written s y d m ((s.iss.resultTags i).getD 0 .und)
        ((s.iss.reads i).flags ||| orFlags m ((List.range x.w).map fun j => (f j).2)) (fun j => (f j).1) ∧
      ∀ v ∈ lastUses i, Released s y v m)

/-- ICMP, FCMP and PSET complete: the predicate of each executing lane takes the condition, ANDed with its old value where the
row says so; P0 and every other predicate stay; the lanes' addresses and states, the other registers of the course, the other
courses and memory do not change, and the registers whose last-use bit it sets are released in the executing lanes (R43, R51,
R110, R165, R172, R179). P0 reads as 1 in every lane, and a write to it is discarded (R43). -/
def Obligations.PredicateResults : Prop :=
  (∀ (s : State) (x : Course) (i : Instr) (p : BitVec 3) (conj : Bool) (f : Nat → Bool), Issuing s → Running s x →
     s.iss.g1 ≠ 0 →
     ((∃ c a b ua ub, i = .icmp c p a b ua ub conj ∧
         f = fun j => intCond c.toNat ((s.iss.reads i).v 0 j) ((s.iss.reads i).v 1 j)) ∨
       (∃ c a b ua ub, i = .fcmp c p a b ua ub conj ∧
         f = fun j => (fcmp c.toNat s.iss.src.ftz ((s.iss.reads i).v 0 j).toNat ((s.iss.reads i).v 1 j).toNat).1) ∨
       (∃ a ua, i = .pset p a ua ∧ conj = false ∧ f = fun j => (s.iss.reads i).v 0 j != 0)) →
     ∃ t y, exec i s = .next t ∧ OnlyCourse s t s.iss.course ∧ t.course? s.iss.course = some y ∧
       y = { x with lanes := y.lanes, v := y.v, flights := y.flights } ∧
       (∀ j, j < x.w → y.lane j = { x.lane j with pw := (y.lane j).pw } ∧ ∀ q, q < 8 →
         (y.lane j).pw.getLsbD q =
           if q = p.toNat ∧ p ≠ 0 ∧ Mask.has s.iss.g1 j = true then f j && (!conj || (s.iss.src.lane j).pred q)
           else (x.lane j).pw.getLsbD q) ∧
       ∀ v ∈ lastUses i, Released s y v s.iss.g1) ∧
  ((∀ l : Lane, l.pred 0 = true) ∧ ∀ (l : Lane) (b : Bool), l.setPred 0 b = l)

/-- RSVUP and RSVMRG write the four registers of their record, WSUM, WT, Y and the word of M and CAP, in the executing
lanes, with tags F32, F32, UW and UW (R95, R96, R357). FCVT converts each executing lane from the format that its
operand's tag names to the format of the row; the stochastic form of a course with SRE = 1 takes the lane's SRS and
advances it in the executing lanes only (R81, R186). VFREE releases its register in the executing lanes: at once where no
earlier write of the register is on its way, and behind those writes otherwise; it writes nothing and raises no flag (R51,
R53, R176). Nothing else of the course, no other course and no byte changes, but that RSVUP, RSVMRG and FCVT release the
registers whose last-use bit they set. -/
def Obligations.RegisterGroups : Prop :=
  (∀ (s : State) (x : Course) (i : Instr) (d : Code) (f : Nat → Rsv × DWord), Issuing s → Running s x → s.iss.g1 ≠ 0 →
     d.toNat ≤ 60 →
     ((∃ a b ua ub c uc, i = .rsvup d a b ua ub c uc ∧ f = fun j => rsvUp ((s.iss.reads i).record 3 j)
         ((s.iss.reads i).v 0 j).toNat ((s.iss.reads i).v 1 j).toNat ((s.iss.reads i).v 2 j).toNat) ∨
       (∃ a b ua ub, i = .rsvmrg d a b ua ub ∧ f = fun j => rsvMrg ((s.iss.reads i).record 5 j)
         ((s.iss.reads i).record 0 j) ((s.iss.reads i).v 4 j).toNat)) →
     ∃ t y, exec i s = .next t ∧ OnlyCourse s t s.iss.course ∧ t.course? s.iss.course = some y ∧ OnlyVectors x y ∧ y.o = x.o ∧
       (∀ k, k < 4 → ∃ g ∈ y.flights, g.v = some (d.toNat + k) ∧ g.release = false ∧ g.mask = s.iss.g1 ∧
         g.tag = (if k < 2 then .f32 else .uw) ∧
         ∀ j, j < x.w → Mask.has s.iss.g1 j = true → g.vals.getD j 0 = (f j).1.word k) ∧
       ∀ v ∈ lastUses i, Released s y v s.iss.g1) ∧
  (∀ (s : State) (x : Course) (d a : Code) (n : Bool) (r : BitVec 3) (tg : BitVec 4) (ua : Bool)
     (f : Nat → Word × Word × DWord), Issuing s → Running s x → s.iss.g1 ≠ 0 →
     let i : Instr := .fcvt d a n r tg ua
     let sr : Bool := r == 1 && s.iss.src.sre
     (f = fun j => fcvtLane (floatTag (s.iss.usedTag i 0 j)) (tagOf tg.toNat)
       (if r == 1 then RM.rne else rmoMode r (RM.decode s.iss.src.rm)) sr n s.iss.src.ftz (s.iss.src.lane j).srs
       ((s.iss.reads i).v 0 j).toNat) →
     ∃ t y, exec i s = .next t ∧ OnlyCourse s t s.iss.course ∧ t.course? s.iss.course = some y ∧
       y = { x with lanes := y.lanes, v := y.v, o := y.o, flights := y.flights } ∧
       Written s y d.toNat s.iss.g1 (tagOf tg.toNat)
         ((s.iss.reads i).flags ||| orFlags s.iss.g1 ((List.range x.w).map fun j => (f j).2.2)) (fun j => (f j).1) ∧
       (∀ j, j < x.w → y.lane j = if sr = true ∧ Mask.has s.iss.g1 j = true then { x.lane j with srs := (f j).2.1 }
         else x.lane j) ∧
       ∀ v ∈ lastUses i, Released s y v s.iss.g1) ∧
  (∀ (s : State) (x : Course) (a : Code), Issuing s → Running s x → s.iss.g1 ≠ 0 → a.toNat < 64 →
     ∃ t y, exec (.vfree a) s = .next t ∧ OnlyCourse s t s.iss.course ∧ t.course? s.iss.course = some y ∧
       OnlyVectors x y ∧ y.o = x.o ∧
       ((∀ f ∈ x.flights, ¬ (f.v = some a.toNat ∧ f.id < s.iss.mark)) →
         y.flights = x.flights ∧ y.v = modAt a.toNat (fun e => e.release s.iss.g1) x.v) ∧
       ((∃ f ∈ x.flights, f.v = some a.toNat ∧ f.id < s.iss.mark) → y.v = x.v ∧
         ∃ g ∈ y.flights, g.v = some a.toNat ∧ g.release = true ∧ g.mask = s.iss.g1))

/-- When a write of Vd or of an O register lands, a lane that did not execute it keeps its value where the old tag equals the new one and the lane was
live, and is 0 and not live otherwise; the register carries the writer's tag (R54). -/
def Obligations.LandingMerges : Prop :=
  ∀ (e : VEntry) (w : Nat) (f : Flight) (stamp j : Nat), f.whole = false → f.mask ≠ 0 → w ≤ 64 → j < w →
    let n := e.land w f stamp
    n.tag = f.tag ∧
    (Mask.has f.mask j = true → n.vals.getD j 0 = f.vals.getD j 0 ∧ Mask.has n.live j = true) ∧
    (Mask.has f.mask j = false → e.tag = f.tag → Mask.has e.live j = true →
      n.vals.getD j 0 = e.vals.getD j 0 ∧ Mask.has n.live j = true) ∧
    (Mask.has f.mask j = false → (e.tag ≠ f.tag ∨ Mask.has e.live j = false) →
      n.vals.getD j 0 = 0 ∧ Mask.has n.live j = false) ∧
    ∀ (r : VReg) (m : Mask) (vals : Lanes) (tag : Tag),
      (r.merge w m vals tag).tag = tag ∧ (r.merge w m vals tag).vals.getD j 0 =
        if Mask.has m j = true then vals.getD j 0 else if r.tag = tag then r.vals.getD j 0 else 0

/-! ## Slot 2 -/

/-- The memory rows complete: a load (LD and LDS with b, bs, h, hs and w, LDD, LDQ, LDC, LDU, LDSC), a store (ST and STS with b, h
and w, STD, STQ, STC, STSC), an atomic (AMO, CAS, AMOS, CASS), SIG, STL and LDA each post one operation behind the others of
their course, with its class, its scratchpad form and one access for each executing lane, one for all of a uniform access, at
the address that its row forms, with the words that it sends; its counter goes up by one, and each register of the renamed
file that it names as a destination has a write of it on its way. Nothing is read or written at issue: no byte of memory and
no other register of the course changes, but that the registers whose last-use bit it sets are released in the executing
lanes (R51, R109, R145, R255, R258, R261 to R267, R274, R278). -/
def Obligations.MemoryRowsPost : Prop :=
  ∀ (s : State) (x : Course) (i : Instr) (k : OpKind) (cls : BitVec 2) (nt : Bool), Issuing s → Running s x →
    s.iss.g2 ≠ 0 → memoryRow i = some (k, cls, nt) →
    ∃ t y o a, exec i s = .next t ∧ OnlyCourse s t s.iss.course ∧ t.course? s.iss.course = some y ∧ OnlyPosted x y ∧
      accessOf i = some a ∧ y.ops = x.ops ++ [o] ∧ o.kind = k ∧ o.cls = cls ∧ o.nt = nt ∧ o.scratch = a.scratch ∧
      o.act = s.iss.g2 ∧ (∃ q, counterOf i = some q ∧ y.outs = x.outs ++ [⟨o.id, q, false⟩]) ∧
      (o.lanes.map fun l => (l.lane, l.addr, l.data)) =
        ((if a.mode = .uniform then (Mask.toList s.iss.g2).take 1 else Mask.toList s.iss.g2).map fun j =>
          (j, s.iss.addr a j, memoryData s i k j)) ∧
      ((∃ rv, k = .cas rv) → ∀ l ∈ o.lanes, l.cmp = (s.iss.reads i).v 2 l.lane) ∧
      (∀ l ∈ o.lanes, l.st = .pending) ∧
      (∀ v ∈ (profile i).written, v < 64 → ∃ f ∈ y.flights, f.v = some v ∧ f.release = false ∧ f.mask = s.iss.g2 ∧
        f.op = some o.id) ∧
      ∀ v ∈ lastUses i, Released s y v s.iss.g2

/-- NOP, YLD and a WAITC whose test has passed complete and leave the state as it is. YLD acts when its bundle is over: where
another lane was READY at another address, the selector takes the expiry step (R19, R22). WAITC tests its counter when its
bundle is selected: it waits for nothing where the counter is at most t, and else its lanes wait with kind WAITC (R147). WAITA
completes in the lanes whose test has passed, and leaves nothing behind but the flags of its reads and its releases (R271). A
memory row whose guard leaves it no lane does nothing: it posts nothing, counts nothing, raises no flag and releases nothing
(R103, R258). A slot-3 instruction whose guard is 0 in every member lane does nothing: it issues no command, counts nothing
and reports nothing (R104). -/
def Obligations.GuardedOffDoesNothing : Prop :=
  (∀ s : State, Issuing s → exec .nop s = .next s ∧ exec .yld s = .next s ∧ ∀ n t, exec (.waitc n t) s = .next s) ∧
  (∀ (s : State) (x : Course), s.course? s.iss.course = some x → s.iss.bundle.i0 = .yld → s.iss.exec ≠ 0 →
     s.iss.lone = false → s.iss.late = none → x.pres ≠ .ended → x.info.row = none → x.ppr = true → s.iss.src.ppr = true →
     (s.iss.src.maskOf fun l => l.st == .ready && l.lpc != s.iss.pc) ≠ 0 →
     ∃ y, s.finishIssue.course? s.iss.course = some y ∧ y.fairt = expireFair x.fairt s.iss.src s.iss.pc) ∧
  (∀ (s : State) (n : BitVec 2) (t : BitVec 7), s.iss.exec ≠ 0 → s.stallOf (.waitc n t) = false ∧
     s.sleepOf (.waitc n t) =
       if s.iss.src.n n.toNat ≤ t.toNat then none else some (.waitc, .counter n.toNat t.toNat)) ∧
  (∀ (s : State) (x : Course) (i : Instr), Issuing s → Running s x →
     (∃ t r o ac ut uo tm cond acq scope ext, i = .waita t r o ac ut uo tm cond acq scope ext) →
     ∃ t y, exec i s = .next t ∧ OnlyCourse s t s.iss.course ∧ t.course? s.iss.course = some y ∧ OnlyVectors x y ∧ y.o = x.o ∧
       ∀ v ∈ lastUses i, Released s y v s.iss.g2) ∧
  (∀ (s : State) (i : Instr) (k : OpKind × BitVec 2 × Bool), Issuing s → s.iss.g2 = 0 → memoryRow i = some k →
     exec i s = .next s) ∧
  (∀ (s : State) (i : Instr), Issuing s → SlotIns i → slotOf i = 3 → s.iss.g3 = 0 → exec i s = .next s)

/-- PREF brings the line of each executing lane into the L1, or only into its home die cache, one lane after another, whatever
its accesses meet, and its reads raise their flags and release (R280). WBR and INVR post one operation over their range under
N1, cut at the top of the address space (R281); FENCE posts itself, and every fence whose time has come acts (R277). -/
def Obligations.RangesAndFences : Prop :=
  (∀ (s : State) (dc : Bool) (r : SReg) (o : Code) (ac : BitVec 2) (uo : Bool) (off : BitVec 7), Issuing s →
     let i : Instr := .pref dc r o ac uo off
     let va (j : Nat) : DWord := s.iss.src.s r.toNat + .ofInt 64 (64 * off.toInt) + (s.iss.offset o j).signExtend 64
     exec i s = .next (((((Mask.toList s.iss.g2).foldl (fun u j => u.prefetch s.iss.course dc (va j)) s)).readFlags
       (s.iss.reads i).flags).releases i)) ∧
  ((∀ (s : State) (x : Course) (i : Instr) (kind : OpKind) (a : SReg) (n : Code), Issuing s → Running s x → s.iss.g2 ≠ 0 →
     ((i = .wbr a n ∧ kind = .wbr) ∨ (i = .invr a n ∧ kind = .invr)) →
     ∃ t y o, exec i s = .next t ∧ OnlyCourse s t s.iss.course ∧ t.course? s.iss.course = some y ∧ OnlyPosted x y ∧
       y.ops = x.ops ++ [o] ∧ y.outs = x.outs ++ [⟨o.id, 1, false⟩] ∧ o.kind = kind ∧ o.lanes = [] ∧
       o.base = s.iss.src.s a.toNat ∧
       o.len.toNat = min (s.iss.src.s (n.toNat - 80)).toNat (2 ^ 64 - 1 - (s.iss.src.s a.toNat).toNat)) ∧
   ∀ (s : State) (kind : BitVec 2) (scope : BitVec 3) (ext : Bool), Issuing s →
     exec (.fence kind scope ext) s = .next ((s.postOp (.fence kind scope ext)
       { s.iss.newOp (.fence kind scope ext) (.fence kind) 0 with scope := scope, ext := ext }).fences s.iss.course))

/-- TRACE, VISQ, TSAMP and TSIZE post their request to the intersection or texture unit under N0, with one lane for each
executing lane, its record or descriptor at S[s], and the operands that it read; each register of the renamed file that they
name as a destination has a write of the request on its way, and nothing else of the course changes but their last-use
releases (R51, R332, R335, R341, R348, R355, R356). -/
def Obligations.ClusterRequestsPost : Prop :=
  ∀ (s : State) (x : Course) (i : Instr) (k : OpKind) (r : SReg), Issuing s → Running s x → s.iss.g2 ≠ 0 →
    ((∃ t o fl, i = .trace t r o fl ∧ k = .trace fl) ∨ (∃ t o uo n, i = .visq t r o uo n ∧ k = .visq (n.toNat + 1)) ∨
      (∃ t o flt adr lod, i = .tsamp t r o flt adr lod ∧ k = .tsamp flt adr lod) ∨
      (∃ t l, i = .tsize t r l ∧ k = .tsize l.toNat)) →
    ∃ t y o, exec i s = .next t ∧ OnlyCourse s t s.iss.course ∧ t.course? s.iss.course = some y ∧ OnlyPosted x y ∧
      y.ops = x.ops ++ [o] ∧ y.outs = x.outs ++ [⟨o.id, 0, false⟩] ∧ o.kind = k ∧ o.base = s.iss.src.s r.toNat ∧
      o.opnds = (s.iss.reads i).vals ∧ o.lanes.map (fun l => l.lane) = Mask.toList s.iss.g2 ∧
      (∀ v ∈ ((profile i).written.take 4), v < 64 → ∃ f ∈ y.flights, f.v = some v ∧ f.release = false ∧ f.mask = s.iss.g2 ∧
        f.op = some o.id) ∧
      ∀ v ∈ lastUses i, Released s y v s.iss.g2

/-- TRACEC posts its request like TRACE; each executing lane whose call is allowed pushes the next bundle on its ray-return
stack and goes to the hit routine, with the address of the next bundle, of tag UW, on its way to V63; a lane that may not call
keeps its address, and the request carries the status that it gets, 2 or 3, where a lane that calls has 0 (R344, R349, R350). -/
def Obligations.HitRoutineCalls : Prop :=
  ∀ (s : State) (x : Course) (tt : Code) (r : SReg) (o : Code) (fl : BitVec 3) (h : BitVec 4), Issuing s → Running s x →
    s.iss.g2 ≠ 0 →
    let calls (j : Nat) : Bool := Mask.has s.iss.g2 j && (s.iss.src.tracecStatus h j).isNone
    ∃ t y p, exec (.tracec tt r o fl h) s = .next t ∧ OnlyCourse s t s.iss.course ∧ t.course? s.iss.course = some y ∧
      y = { x with ops := y.ops, outs := y.outs, flights := y.flights, v := y.v, lanes := y.lanes } ∧
      y.ops = x.ops ++ [p] ∧ y.outs = x.outs ++ [⟨p.id, 0, false⟩] ∧ p.kind = .trace fl ∧
      p.lanes.map (fun l => (l.lane, l.cmp)) =
        (Mask.toList s.iss.g2).map (fun j => (j, .ofNat 32 ((s.iss.src.tracecStatus h j).getD 0))) ∧
      ((∃ j, j < x.w ∧ calls j = true) → ∃ f ∈ y.flights, f.v = some 63 ∧ f.release = false ∧ f.tag = .uw ∧
        ∀ j, j < x.w → Mask.has f.mask j = calls j ∧ f.vals.getD j 0 = s.iss.pc + 16) ∧
      ∀ j, j < x.w → y.lane j = if calls j = true then
          { x.lane j with rays := (s.iss.pc + 16) :: (x.lane j).rays, depth := (x.lane j).depth + 1,
                          lpc := (s.iss.src.s (16 + h.toNat)).setWidth 32 }
        else x.lane j

/-! ## Slot 3 -/

/-- MZERO, MMA, MACL and MDST join the queue of the core's matrix engine with what they name, and count on N3 but for MACL,
whose four destination registers have writes on their way; nothing is computed and no byte changes at issue (R115, R287, R290,
R297, R298, R300). The operands travel with the command: A, B, K and the format of MMA, which is ordered when its chain is; the
destination, the stride, the operation and the conversion of MDST; the row group and the registers of MACL (R297, R298, R300). -/
def Obligations.MatrixCommands : Prop :=
  (∀ (s : State) (x : Course) (i : Instr) (kind : MKind) (tile : Nat), Issuing s → Running s x → s.iss.g3 ≠ 0 →
     ((∃ m k, i = .mzero m k ∧ kind = .mzero ∧ tile = k.toNat) ∨
       (∃ m a b c fmt k, i = .mma m a b c fmt k ∧ kind = .mma ∧ tile = k.toNat) ∨
       (∃ m a b mem cvt op k, i = .mdst m a b mem cvt op k ∧ kind = .mdst ∧ tile = k.toNat) ∨
       ∃ m d g k, i = .macl m d g k ∧ kind = .macl ∧ tile = k.toNat) →
     ∃ t y c, exec i s = .next t ∧ OnlyCourseCore s t s.iss.course s.iss.src.coreKey ∧
       (t.core s.iss.src.coreKey).mq = (s.core s.iss.src.coreKey).mq ++ [c] ∧ c.kind = kind ∧ c.tile = tile ∧
       c.course = s.iss.course ∧ c.block = s.iss.src.info.block ∧ c.started = false ∧ c.staged = none ∧
       t.course? s.iss.course = some y ∧ y = { x with outs := y.outs, flights := y.flights } ∧
       (kind ≠ .macl → y.outs = x.outs ++ [⟨c.id, 3, false⟩] ∧ y.flights = x.flights) ∧
       (kind = .macl → y.outs = x.outs ∧ c.mask = s.iss.g3 ∧ c.flight.length = 4 ∧
         ∀ q, q < 4 → ∃ f ∈ y.flights, f.id = c.flight.getD q 0 ∧ f.v = some (c.dst.toNat + q) ∧ f.tag = .f32 ∧ f.mask = s.iss.g3)) ∧
  ((∀ (s : State) (m : Bool) (a b c : SReg) (fmt : BitVec 4) (k : BitVec 2), Issuing s → s.iss.g3 ≠ 0 →
     ∃ t q, exec (.mma m a b c fmt k) s = .next t ∧ (t.core s.iss.src.coreKey).mq = (s.core s.iss.src.coreKey).mq ++ [q] ∧
       q.args = ⟨k.toNat, s.iss.src.s a.toNat, s.iss.src.s b.toNat, s.iss.src.s c.toNat, fmt.toNat⟩ ∧
       q.ord = ((s.blockMem s.iss.src.info.block).chains.getD k.toNat ⟨false, false⟩).ord) ∧
   (∀ (s : State) (m : Bool) (a b : SReg) (mem : Bool) (cvt op k : BitVec 2), Issuing s → s.iss.g3 ≠ 0 →
     ∃ t q, exec (.mdst m a b mem cvt op k) s = .next t ∧
       (t.core s.iss.src.coreKey).mq = (s.core s.iss.src.coreKey).mq ++ [q] ∧
       q.args.a = s.iss.src.s a.toNat ∧ q.stride = s.iss.src.s b.toNat ∧ q.op = op.toNat ∧ q.cvt = cvt.toNat ∧ q.toMem = mem) ∧
   ∀ (s : State) (m : Bool) (d : Code) (g : BitVec 4) (k : BitVec 2), Issuing s → s.iss.g3 ≠ 0 →
     ∃ t q, exec (.macl m d g k) s = .next t ∧
       (t.core s.iss.src.coreKey).mq = (s.core s.iss.src.coreKey).mq ++ [q] ∧ q.row = g.toNat ∧ q.dst = d)

/-- MCHB opens the chain of its tile, ordered by its .ord or by MODE.DET, and changes nothing else (R292); MCHE joins the
engine's queue, counts on N3 and closes the chain (R292); MSTG leaves the arguments of an MMA with the course for CPYM, and
changes nothing else (R303). -/
def Obligations.ChainsAndStaging : Prop :=
  (∀ (s : State) (m ord : Bool) (k : BitVec 2), Issuing s → s.iss.g3 ≠ 0 →
    exec (.mchb m ord k) s = .next (s.onBlockMem s.iss.src.info.block fun b =>
      { b with chains := setAt k.toNat ⟨true, ord || s.iss.src.det⟩ b.chains })) ∧
  (∀ (s : State) (x : Course) (m : Bool) (k : BitVec 2), Issuing s → Running s x → s.iss.g3 ≠ 0 →
    ∃ u : State, exec (.mche m k) s = .next (u.onBlockMem s.iss.src.info.block fun b =>
      { b with chains := setAt k.toNat ⟨false, false⟩ b.chains }) ∧ OnlyCourseCore s u s.iss.course s.iss.src.coreKey ∧
      ∃ q, (u.core s.iss.src.coreKey).mq = (s.core s.iss.src.coreKey).mq ++ [q] ∧ q.kind = .mche ∧ q.tile = k.toNat ∧
        u.course? s.iss.course = some { x with outs := x.outs ++ [⟨q.id, 3, false⟩] }) ∧
  (∀ (s : State) (x : Course) (m : Bool) (a b c : SReg) (fmt : BitVec 4) (k : BitVec 2), Issuing s → Running s x →
    s.iss.g3 ≠ 0 → ∃ t, exec (.mstg m a b c fmt k) s = .next t ∧ OnlyCourse s t s.iss.course ∧
      t.course? s.iss.course = some { x with
        staging := some ⟨k.toNat, s.iss.src.s a.toNat, s.iss.src.s b.toNat, s.iss.src.s c.toNat, fmt.toNat⟩ })

/-- SHP copies S[a] to S[a + 7] into the words of its descriptor set when the bundle issues and counts nothing; CPY and CPYM
count on N2 and carry the words of the set with them, so that a later SHP does not reach them; every set is 0 when a course
starts (R309). -/
def Obligations.DescriptorSets : Prop :=
  (∀ (info : CourseInfo) (n w : Nat), n < 8 → w < 8 → ((Course.start info).d.getD n []).getD w 1 = 0) ∧
  (∀ (s : State) (x : Course) (m : Bool) (a : SReg) (n : BitVec 3), Issuing s → Running s x → s.iss.g3 ≠ 0 →
    x.d.length = 8 → a.toNat ≤ 24 →
    ∃ t y, exec (.shp m a n) s = .next t ∧ OnlyCourse s t s.iss.course ∧ t.course? s.iss.course = some y ∧
      y = { x with d := y.d } ∧ (y.d.getD n.toNat [] = (List.range 8).map fun q => s.iss.src.s (a.toNat + q)) ∧
      ∀ k, k ≠ n.toNat → y.d.getD k [] = x.d.getD k []) ∧
  ∀ (s : State) (x : Course) (i : Instr) (n : BitVec 3), Issuing s → Running s x → s.iss.g3 ≠ 0 →
    ((∃ m, i = .cpy m n) ∨ ∃ m, i = .cpym m n) →
    ∃ t y c, exec i s = .next t ∧ OnlyCourseCore s t s.iss.course s.iss.src.coreKey ∧
      (t.core s.iss.src.coreKey).copies = (s.core s.iss.src.coreKey).copies ++ [c] ∧
      c.w = s.iss.src.d.getD n.toNat [] ∧ c.dn = n.toNat ∧ c.started = false ∧
      t.course? s.iss.course = some y ∧ ⟨c.id, 2, false⟩ ∈ y.outs ∧ y.d = x.d

/-- OWNG gives a slot of the allocation to the engines and OWNT takes one back; the bytes of the slots do not change. A slot
that is not there is an asynchronous access error of the course, with the slot's first offset, and changes no bit (R234, R238,
R314). -/
def Obligations.OwnerBits : Prop :=
  ∀ (s : State) (m : Bool) (a : SReg) (b : Block), Issuing s → s.iss.g3 ≠ 0 → s.block? s.iss.src.info.block = some b →
    (∀ q, s.slotNamed (s.iss.src.s a.toNat) = some q →
      (∃ t, exec (.owng m a) s = .next t ∧ OnlyBlockMem s t s.iss.src.info.block ∧
        (t.blockMem s.iss.src.info.block).bytes = b.mem.bytes ∧
        (t.blockMem s.iss.src.info.block).owner = (if b.mem.engineOwned q then b.mem.owner else (b.mem.setOwner q true).owner)) ∧
      (∃ t, exec (.ownt m a) s = .next t ∧ OnlyBlockMem s t s.iss.src.info.block ∧
        t.blockMem s.iss.src.info.block = b.mem.setOwner q false)) ∧
    (s.slotNamed (s.iss.src.s a.toNat) = none →
      let e : State := s.accError s.iss.course 3
        (if (s.iss.src.s a.toNat).toNat < Config.slots s.iss.src.tower
          then .ofNat 64 (slotBase s.iss.src.tower (s.iss.src.s a.toNat).toNat) else s.iss.src.s a.toNat) s.iss.pc s.iss.src.hnd
      exec (.owng m a) s = .next e ∧ exec (.ownt m a) s = .next e)

/-- The named queues of a block: QPUSH appends the low word of S[a] under the issuing course, which is progress; all ones are
refused with RESV, and a queue that does not exist with NOQUEUE; QPOP and QTRY write the oldest entry to their destination and
take it off, where no earlier waiter is to have it; QTRY writes all ones when the queue is empty (R325 to R329, R390). QCFG
creates a queue with its base, capacity and allowance over slots that are the engines', and with capacity 0 removes an empty
one on which no course waits, and is refused with BUSY while one waits or an entry is left; a configuration that R324 does not
allow is an error of the course (R324, R329). -/
def Obligations.NamedQueues : Prop :=
  (∀ (s : State) (m : Bool) (q : BitVec 4), Issuing s → s.iss.g3 ≠ 0 →
     (∀ a : SReg, (s.iss.src.s a.toNat).setWidth 32 = 0xFFFFFFFF#32 →
       exec (.qpush m a q) s = .next (s.asyncErr s.iss.course 2 q.toNat 6)) ∧
     (∀ (a : SReg) (k : NQueue), (s.iss.src.s a.toNat).setWidth 32 ≠ 0xFFFFFFFF#32 → s.queue? s.iss.src q.toNat = some k →
       exec (.qpush m a q) s = .next (s.onQueue q.toNat fun k =>
         { k with entries := k.entries ++ [((s.iss.src.s a.toNat).setWidth 32, s.iss.course)] })) ∧
     (∀ a : SReg, (s.iss.src.s a.toNat).setWidth 32 ≠ 0xFFFFFFFF#32 → s.queue? s.iss.src q.toNat = none →
       exec (.qpush m a q) s = .next (s.asyncErr s.iss.course 2 q.toNat 4)) ∧
     (∀ (d : Code) (i : Instr) (k : NQueue) (e : Word × Nat) (l : List (Word × Nat)), (i = .qpop m d q ∨ i = .qtry m d q) →
       s.queue? s.iss.src q.toNat = some k → k.entries = e :: l → k.canPop s.iss.course s.iss.pc = true →
       exec i s = .next ((s.writeAll i [List.replicate s.iss.src.w e.1] 0).onQueue q.toNat fun k =>
         { k with entries := l, waiters := k.waiters.filter (· != (s.iss.course, s.iss.pc)) })) ∧
     (∀ (d : Code) (k : NQueue), s.queue? s.iss.src q.toNat = some k → k.entries = [] →
       exec (.qtry m d q) s = .next (s.writeAll (.qtry m d q) [List.replicate s.iss.src.w 0xFFFFFFFF#32] 0))) ∧
  (∀ (s : State) (f : NQueue → NQueue) (q : Nat) (b : Block), s.block? s.iss.src.info.block = some b →
     (∀ k, (f k).q = k.q) →
     ((s.onQueue q f).blockMem s.iss.src.info.block).queues = b.mem.queues.map fun k => if k.q = q then f k else k) ∧
  (∀ (s : State) (m : Bool) (a b : SReg) (q : BitVec 4) (blk : Block), Issuing s → s.iss.g3 ≠ 0 →
     s.block? s.iss.src.info.block = some blk →
     (∀ k, fld (s.iss.src.s b.toNat) 0 11 = 0 → blk.mem.queues.find? (fun k => k.q == q.toNat) = some k →
       (k.entries = [] → k.waiters = [] → s.queueAwaited s.iss.src.info.block q.toNat = false →
         ∃ t, exec (.qcfg m a b q) s = .next t ∧ OnlyBlockMem s t s.iss.src.info.block ∧ t.queue? s.iss.src q.toNat = none) ∧
       ((k.entries ≠ [] ∨ k.waiters ≠ [] ∨ s.queueAwaited s.iss.src.info.block q.toNat = true) →
         exec (.qcfg m a b q) s = .next (s.asyncErr s.iss.course 2 q.toNat 5))) ∧
     (fld (s.iss.src.s b.toNat) 0 11 ≠ 0 →
       qcfgStatus blk.mem s.iss.src.tower (s.iss.src.s a.toNat) (s.iss.src.s b.toNat) q.toNat = none →
       ∃ t, exec (.qcfg m a b q) s = .next t ∧ OnlyBlockMem s t s.iss.src.info.block ∧
         t.queue? s.iss.src q.toNat = some ⟨q.toNat, s.iss.src.s a.toNat, fld (s.iss.src.s b.toNat) 0 11,
           fld (s.iss.src.s b.toNat) 16 11, [], []⟩) ∧
     (∀ n, fld (s.iss.src.s b.toNat) 0 11 ≠ 0 →
       qcfgStatus blk.mem s.iss.src.tower (s.iss.src.s a.toNat) (s.iss.src.s b.toNat) q.toNat = some n →
       exec (.qcfg m a b q) s = .next (s.asyncErr s.iss.course 2 q.toNat n)))

/-- TSUB, EMIT and QSUB hand their request to the dispatcher and hold the course until it answers (R416, R417). TDEP sends a
decrement off to the die of its handle, behind every access that the course has outstanding, and KEYREL a release behind every
access to memory that the courses of its block have outstanding, loads and engine commands included, the model's reading (log
entry 53); the course goes on (R419, R422). -/
def Obligations.DispatcherRequests : Prop :=
  (∀ (s : State) (x : Course) (i : Instr) (r : DReq), Issuing s → Running s x → s.iss.g3 ≠ 0 →
    ((∃ m a, i = .tsub m a ∧ r = .tsub (s.iss.src.s a.toNat)) ∨
      (∃ m a k, i = .emit m a k ∧ r = .emit (s.iss.src.s a.toNat) k.toNat) ∨
      ∃ m d a b, i = .qsub m d a b ∧ r = .qsub (s.iss.src.s a.toNat) (s.iss.src.s b.toNat) d s.iss.g3) →
    ∃ t y, exec i s = .next t ∧ OnlyCourse s t s.iss.course ∧ t.course? s.iss.course = some y ∧
      y = { x with req := some (s.iss.pc, r), flights := y.flights } ∧ (∀ f ∈ x.flights, f ∈ y.flights) ∧
      y.selectable = false) ∧
  (∀ (s : State) (m : Bool) (a : SReg), Issuing s → s.iss.g3 ≠ 0 → fld (s.iss.src.s a.toNat) 30 2 < s.dies.length →
    ∃ t w, exec (.tdep m a) s = .next t ∧ t = { s with dies := t.dies, uid := t.uid } ∧
      (t.die (fld (s.iss.src.s a.toNat) 30 2)).tdeps = (s.die (fld (s.iss.src.s a.toNat) 30 2)).tdeps ++ [w] ∧
      w.arg = s.iss.src.s a.toNat ∧ w.course = s.iss.course ∧ w.after = (s.course s.iss.course).ops.map (·.id)) ∧
  (∀ (s : State) (m : Bool) (a : SReg), Issuing s → s.iss.g3 ≠ 0 → s.iss.src.info.die < s.dies.length →
    ∃ t w, exec (.keyrel m a) s = .next t ∧ t.courses = s.courses ∧
      (t.die s.iss.src.info.die).keyrels = (s.die s.iss.src.info.die).keyrels ++ [w] ∧
      w.arg = s.iss.src.s a.toNat ∧ w.block = s.iss.src.info.block ∧ w.after = s.blockAccesses s.iss.src.info.block)

/-- CONT ends its bundle; a course that is still resident then suspends itself over its wake object, with the lanes that
executed CONT to go on behind it (R421). -/
def Obligations.ContinuationSuspends : Prop :=
  (∀ (s : State) (m : Bool) (a b : SReg) (k : BitVec 2), Issuing s → s.iss.g3 ≠ 0 →
    (s.finishIssue.course s.iss.course).pres = .resident →
    exec (.cont m a b k) s = .next (s.finishIssue.park s.iss.course k.toNat a.toNat (s.iss.src.s a.toNat) (s.iss.src.s b.toNat)
      (s.iss.g3 &&& (s.finishIssue.course s.iss.course).live) (s.iss.pc + 16))) ∧
  ∀ (s : State) (c kind sreg : Nat) (x : Course) (obj named : DWord) (m : Mask) (pc : Word), s.course? c = some x →
    x.live &&& ~~~m = 0 → x.pres = .resident → s.conts = [] →
    (s.park c kind sreg obj named m pc).conts.map (fun k => (k.1, k.2.kind, k.2.obj, k.2.mask, k.2.resume, k.2.sreg)) =
      [(c, kind, obj, m, pc, sreg)]

/-- A collective joins the engine's list with its operands and the words of its descriptor set, and counts on N2; nothing is
read or written at issue (R115, R519). -/
def Obligations.CollectivesJoin : Prop :=
  ∀ (s : State) (x : Course) (i : Instr) (op : Nat) (a b c : SReg) (cop n : BitVec 3), Issuing s → Running s x →
    s.iss.g3 ≠ 0 →
    ((∃ m, i = .cred m a b c cop n ∧ op = 0) ∨ (∃ m, i = .cbc m a b c n ∧ op = 1 ∧ cop = 0) ∨
      (∃ m, i = .cag m a b c n ∧ op = 2 ∧ cop = 0) ∨ ∃ m, i = .crs m a b c cop n ∧ op = 3) →
    ∃ t k, exec i s = .next t ∧ t = { s with courses := t.courses, colls := t.colls, uid := t.uid } ∧
      t.colls = s.colls ++ [(k.id, k)] ∧ k.op = op ∧ k.cop = cop.toNat ∧ k.src = s.iss.src.s a.toNat ∧
      k.dst = s.iss.src.s b.toNat ∧ k.n = s.iss.src.s c.toNat ∧ k.w = s.iss.src.d.getD n.toNat [] ∧ k.started = false ∧
      t.course? s.iss.course = some { x with outs := x.outs ++ [⟨k.id, 2, false⟩] }

/-! ## Memory -/

/-- Bytes written at a place of memory are read back, and every other byte of memory reads as before (R3, R8, R265). -/
def Obligations.WriteChangesItsBytesOnly : Prop :=
  ∀ (s : State) (pa b : Nat) (l : List Byte), cellWfFrom 0 s.mem = true →
    cellGet b (s.writePa pa l).mem = if pa ≤ b ∧ b < pa + l.length then l.getD (b - pa) 0 else cellGet b s.mem

/-- The access of one lane. A load from the allocation of its block takes the bytes at the offset that its address reaches,
and changes nothing. A load of memory takes the bytes of the line that the L1 holds, and changes nothing; where the L1 does not
hold it, it takes the bytes at the physical address, the L1 then holds the line clean, unless it is non-temporal or no way is
lent, and no byte of memory changes but the dirty ones of a line that is driven out. A load past the L1 takes the bytes at the
home once the core's own dirty bytes among them have been written back. One that meets a failed line of which the core has no
copy fails. A store to the allocation changes the bytes at its offset and no others. A store through the L1 puts its bytes into
the line and marks them dirty, and no byte of memory changes, but those of a line that is driven out when the line was not
there, and its own when the tracker of the block's task is full; a non-temporal one that finds no line, and one with no way
lent, writes the bytes at the home. A store past the L1 writes the bytes at the physical address and into a copy in the L1, and
no other byte of memory changes. An address that fails leaves the lane failed and writes nothing (R220, R240, R254, R257, R262
to R265, R278, R406). -/
def Obligations.LaneAccesses : Prop :=
  ∀ (s u : State) (c : Nat) (x : Course) (o : MemOp) (l : LaneAcc) (bs : List Byte), s.course? c = some x →
    (∀ off sx home again, s.place c o l .read = (.scratch off, u) →
      s.laneRead c o l again sx home = (l.ok (toWords sx ((s.blockMem x.info.block).read off (o.size l))), u)) ∧
    (∀ pa cached sx home again, s.place c o l .read = (.mem pa cached, u) → (cached = false ∨ home = true) →
      cellWfFrom 0 u.mem = true →
      let meets (ln : L1Line) : Prop := u.l1? x.coreKey (lineOf pa) = some ln ∧ ln.dirty &&& byteMask (pa % 64) (o.size l) ≠ 0
      ∃ v : State, v = u.expose x.coreKey pa (o.size l) ∧ ((∀ ln, ¬ meets ln) → v = u) ∧ (∀ ln, meets ln → WrittenBack u v ln) ∧
        (v.lineBad x.coreKey pa = false →
          (s.laneRead c o l again sx home).1 = l.ok (toWords sx (v.readPa pa (o.size l))) ∧
          (s.laneRead c o l again sx home).2.mem = v.mem)) ∧
    (∀ pa sx again, s.place c o l .read = (.mem pa true, u) → u.lineBad x.coreKey pa = false →
      (∀ ln, u.l1? x.coreKey (lineOf pa) = some ln → s.laneRead c o l again sx false =
        (l.ok (toWords sx ((List.range (o.size l)).map fun i => ln.bytes.getD (pa % 64 + i) 0)), u)) ∧
      (u.l1? x.coreKey (lineOf pa) = none → cellWfFrom 0 u.mem = true →
        ∃ t, s.laneRead c o l again sx false = (l.ok (toWords sx (u.readPa pa (o.size l))), t) ∧
          ((o.nt = true ∨ u.lent x.coreKey = 0) → SameMemory u t) ∧
          (o.nt = false → u.lent x.coreKey ≠ 0 → MayEvict u t x.coreKey ∧ ∃ n, t.l1? x.coreKey (lineOf pa) = some n ∧
            n.dirty = 0 ∧ n.bytes = t.readPa (lineOf pa) 64))) ∧
    (∀ pa cached sx home again, s.place c o l .read = (.mem pa cached, u) → u.lineFailed (lineOf pa) = true →
      u.l1? x.coreKey (lineOf pa) = none → (s.laneRead c o l again sx home).1 = l.fail) ∧
    (∀ off again through, s.place c o l .write = (.scratch off, u) →
      s.laneWrite c o l again bs through = (l.ok l.data, u.onBlockMem x.info.block fun m => m.write off bs)) ∧
    (∀ pa again, s.place c o l .write = (.mem pa true, u) → cellWfFrom 0 u.mem = true →
      let room : Prop := ∀ b, u.block? x.info.block = some b → b.task = none ∨ b.mem.tracker.length < 1024
      let m : Mask := byteMask (pa % 64) bs.length
      ∃ t, s.laneWrite c o l again bs false = (l.ok l.data, t) ∧
        (∀ ln, u.l1? x.coreKey (lineOf pa) = some ln → ∃ n, t.l1? x.coreKey (lineOf pa) = some n ∧
          n.bytes = putBytes ln.bytes (pa % 64) bs ∧ (room → n.dirty = ln.dirty ||| m ∧ SameMemory u t) ∧
          (SameMemory u t ∨ BytesWritten u t pa bs)) ∧
        (u.l1? x.coreKey (lineOf pa) = none → (o.nt = true ∨ u.lent x.coreKey = 0) → BytesWritten u t pa bs) ∧
        (u.l1? x.coreKey (lineOf pa) = none → o.nt = false → u.lent x.coreKey ≠ 0 → room →
          MayEvict u t x.coreKey ∧ ∃ n, t.l1? x.coreKey (lineOf pa) = some n ∧ n.dirty = m ∧
            n.bytes = putBytes (t.readPa (lineOf pa) 64) (pa % 64) bs)) ∧
    (∀ pa cached again through, s.place c o l .write = (.mem pa cached, u) → (cached = false ∨ through = true) →
      cellWfFrom 0 u.mem = true →
      ∃ t, s.laneWrite c o l again bs through = (l.ok l.data, t) ∧ BytesWritten u t pa bs ∧
        ∀ ln, u.l1? x.coreKey (lineOf pa) = some ln → ∃ n, t.l1? x.coreKey (lineOf pa) = some n ∧
          n.bytes = putBytes ln.bytes (pa % 64) bs ∧ n.dirty = ln.dirty &&& ~~~(byteMask (pa % 64) bs.length)) ∧
    (∀ sub again through, s.place c o l .write = (.fail sub, u) →
      (s.laneWrite c o l again bs through).1 = l.fail ∧ (s.laneWrite c o l again bs through).2.mem = u.mem)

/-! ## Events: courses -/

/-- CORE_ISSUE_CYCLE: a core that runs counts an ac, lands the results whose bound has come, and then lets its pipes choose
among its courses, 2 bundles in a Tower core and 4 in a Dome core; one that does not run does nothing (R64, R389, R494, R539).
No result of a resident course whose bound has come is then left on its way, and one that lands alone on its register has
merged into it and raised its flags (R50, R54, R64, R166).
FAIRNESS_EXPIRY of the course whose bundle is in issue, when its count stands at LIM: its selector takes the expiry step by
the addresses that the lanes held when the bundle issued, and nothing else changes (R19). RESULT_LANDING: a result that lands
alone on its register switches the map entry and raises its flags (R50, R166). ASYNC_TRAP_DELIVERY: the asynchronous error
that a course has pending, and no handler to hold it back, is taken as its trap between bundles, by the course alone when its
partner has taken it before (R33); one that came after HND was set waits; a request to leave the core is taken as PRE after
every error, with its deadline (R209, R214, R219, R221). That one event is one core's ac is log entry 1. -/
def Obligations.CoreAndCourseEvents : Prop :=
  (∀ (s : State) (die core : Nat),
     (({ s with turn := s.nextTurn (die, core) } : State).coreRuns (die, core) = true →
       ∃ u w t : State, u = (({ s with turn := s.nextTurn (die, core) } : State).onCore (die, core) fun k =>
           { k with clk := k.clk + 1 }).landCore (die, core) ∧
         w = (u.residents (die, core)).foldl (fun v c => (v.startFills c.1).leaveLeft c.1) u ∧
         exec (.coreIssueCycle die core) s = .next t ∧ t = { w with iss := { w.iss with
           valid := false, core := (die, core), more := w.rotation (die, core), pipes := if Config.isTower die then 2 else 4 } } ∧
         ((s.core (die, core)).mq = [] → (∀ p ∈ s.courses, p.2.pre = none) →
           (t.core (die, core)).clk = (s.core (die, core)).clk + 1)) ∧
     (({ s with turn := s.nextTurn (die, core) } : State).coreRuns (die, core) = false →
       exec (.coreIssueCycle die core) s = .next { s with turn := s.nextTurn (die, core) })) ∧
  (∀ (s : State) (k : Nat × Nat) (c : Nat) (x : Course),
     ((s.landCore k).course? c = some x → x.coreKey = k → x.pres = .resident →
       ∀ f ∈ x.flights, f.ready = false → ∀ d, f.due = some d → (s.core k).clk < d) ∧
     (s.course? c = some x → x.coreKey = k → x.pres = .resident → (s.core k).mq = [] → 0 < s.uid →
       ∀ f v d, x.flights = [f] → f.v = some v → v < 64 → f.release = false → f.ready = false → f.due = some d →
         d ≤ (s.core k).clk →
         ∃ y, (s.landCore k).course? c = some y ∧
           y = { x with
             flags := x.flags ||| (f.flags &&& flagsMask)
             flights := []
             outs := y.outs
             qin := y.qin
             v := modAt v (fun e => e.land x.w { f with ready := true } (s.core k).clk) x.v })) ∧
  ((∀ (s : State) (c : Nat) (x : Course), s.course? c = some x → s.iss.course = c → x.ppr = true → s.iss.src.ppr = true →
     x.info.row = none → fairCnt x.fairt = fairLim x.fairt →
     ∃ t, exec (.fairnessExpiry c) s = .next t ∧ OnlyCourse s t c ∧
       t.course? c = some { x with fairt := expireFair x.fairt s.iss.src s.iss.pc }) ∧
   (∀ (s : State) (c v : Nat) (x : Course) (f : Flight), s.course? c = some x → x.flights = [f] → f.v = some v → v < 64 →
     f.release = false → f.ready = false → f.due.isSome = true → 0 < s.uid →
     ∃ t y, exec (.resultLanding c f.id) s = .next t ∧ OnlyCourse s t c ∧ t.course? c = some y ∧
       y = { x with
         flags := x.flags ||| (f.flags &&& flagsMask)
         flights := []
         outs := y.outs
         v := modAt v (fun e => e.land x.w { f with ready := true } (s.core x.coreKey).clk) x.v }) ∧
   ∀ (s : State) (c : Nat) (x : Course), s.course? c = some x → x.selectable = true → x.info.row = none →
     (∀ e, x.pend = [e] → x.hnd = false →
       let u : State := s.onCourse c fun y => { y with pend := [] }
       let t : Trap := { code := e.code, sub := e.sub, tsa := e.tsa, tsb := e.tsb, tlpc := x.turn, tlanes := 0, wk := 0, dln := 0 }
       exec (.asyncTrapDelivery c) s = .next (if e.shared = true then u.takeOne c t e.hnd else u.takeTrap c t e.hnd)) ∧
     ((∀ e ∈ x.pend, e.hnd = false) → x.hnd = true → exec (.asyncTrapDelivery c) s = .next s) ∧
     ∀ p, x.pend = [] → x.pre = some p → p.taken = false → x.hnd = false → x.handler ≠ 0 → x.info.partner = none →
       exec (.asyncTrapDelivery c) s = .next ((s.onCourse c fun y => { y with pre := some { p with taken := true } }).takeTrap c
         { code := 0x10, sub := 0, tsa := 0, tsb := 0, tlpc := x.turn, tlanes := 0, wk := 0, dln := p.deadline - s.time } false))

/-- PREEMPT_DEADLINE_EXPIRY comes no earlier than its time, and marks the resident courses of the unit, a course or a pair, to
be force-saved (R223). FORCED_SAVE, once every resident course of the unit is to be saved and has come to rest, lands the
results of fixed latency of a course alone in its unit, writes every mapped register to its backing copy and then the record,
with the frame of a running handler's trap or of the course as it stands, and the course leaves the core with its mapped
registers marked for the resume; while one of them has not, it does nothing (R60, R226). COURSE_RESUME of a course alone in its
unit, whose block is back, loads it from its record once the pool has room for its registers, the model's reading (log entry
114): after a PDONE it enters RESUME, after a forced save FORCED when a handler was running, with the trap registers of the
record and the frame of its trap, and else it goes on where it stood; a register that was mapped is mapped again, with the
values, the lanes and the tag of its backing copy (R224, R226). -/
def Obligations.PreemptionEvents : Prop :=
  (∀ (s : State) (c : Nat) (x : Course) (p : PreReq), s.course? c = some x → x.pre = some p → p.force = false → p.met = false →
    ∃ t, exec (.preemptDeadlineExpiry c) s = .next t ∧ p.deadline ≤ t.time ∧ s.time ≤ t.time ∧ t.mem = s.mem ∧
      ∀ d ∈ s.unit c, ∀ z, s.course? d = some z → z.pres = .resident → ∃ q, q.force = true ∧
        (∀ r, z.pre = some r → q = { r with force := true }) ∧ t.course? d = some { z with pre := some q }) ∧
  (∀ (s : State) (c : Nat),
    (∃ d ∈ s.unit c, (s.course d).pres = .resident ∧ (∀ p, (s.course d).pre = some p → p.force = false ∨
      (s.course d).settled = false)) → exec (.forcedSave c) s = .next s) ∧
  ((∀ (s u z w : State) (c : Nat) (x : Course) (p : PreReq), s.course? c = some x → x.info.partner = none →
     x.pres = .resident → x.pre = some p → p.force = true → x.settled = true →
     s.areaReach c x.info.ctxa x.info.areaSize .write = (some true, u) → z = u.landAll c →
     w = z.onCourse c (fun y => { y with under := if y.hnd && y.handler == 0 then y.frame else none }) →
     ∃ f t y, (x.hnd = true → x.handler ≠ 0 → ∀ g, x.frame = some g → f = g) ∧
       ((x.frame = none ∨ x.hnd = false ∨ x.handler = 0) → f = (z.course c).frameOf 0) ∧
       exec (.forcedSave c) s = .next t ∧
       t = ((w.backRegs c).storeRecord c f).leave c .forced ((z.course c).v.map VEntry.saved) (some f) ∧
       (x.qin = [] → t.mem = ((w.backRegs c).storeRecord c f).mem) ∧ t.course? c = some y ∧ y.pres = .forced ∧
       y.flights = [] ∧ y.pre = none ∧ y.frame = some f ∧ y.v = (z.course c).v.map VEntry.saved ∧ y.outs = (z.course c).outs) ∧
   (∀ (s : State) (c : Nat) (x : Course), s.course? c = some x → x.v.length = 64 →
     s.backRegs c = (List.range 64).foldl (fun t v => if (x.ve v).st = .mapped then t.putBacking (c, v) (x.ve v) else t) s) ∧
   ∀ e : VEntry, (e.st = .mapped → e.saved = { e with st := .spilled, xfer := .spilling }) ∧
     (e.st = .spilled → e.saved = { e with xfer := .none }) ∧ (e.st = .unmapped → e.saved = e)) ∧
  ((∀ (s u w : State) (c : Nat) (x : Course), s.course? c = some x → x.info.partner = none → s.resumable c = true →
     s.areaReach c x.info.ctxa x.info.areaSize .read = (some true, u) →
     (u.makeRoom [c] = (true, w) → exec (.courseResume c) s = .next (w.resumeOne c)) ∧
     (u.makeRoom [c] = (false, w) → exec (.courseResume c) s = .next w)) ∧
   (∀ (s : State) (c : Nat) (x y : Course) (f : Frame), s.course? c = some x → (s.useRecord c).recall c = (y, f) →
     let back (u : State) : State := (List.range 64).foldl (fun u v => u.refill c v) u
     (x.pres ≠ .forced → s.resumeOne c = back ((s.useRecord c).enterResumed c 0x11 y f y.trap.tsb)) ∧
     (x.pres = .forced → y.hnd = true → y.handler ≠ 0 → y.under = none →
       s.resumeOne c = back ((s.useRecord c).enterResumed c 0x12 y f (.ofNat 64 (f.cause % 256)))) ∧
     (x.pres = .forced → (y.hnd = false ∨ y.handler = 0 ∨ y.under ≠ none) →
       s.resumeOne c = back ((s.useRecord c).setCourse c (y.continued f)) ∧ (y.continued f).pres = .resident ∧
         (y.continued f).trap = y.trap ∧ (y.continued f).frame = y.under ∧ (y.continued f).v = y.v ∧
         (y.continued f).sr = y.sr ∧ (y.continued f).flags = y.flags)) ∧
   ∀ (s : State) (c v : Nat) (x : Course), s.course? c = some x → v < 64 → x.v.length = 64 →
     ((x.ve v).st ≠ .spilled ∨ (x.ve v).xfer ≠ .spilling → s.refill c v = s) ∧
     ((x.ve v).st = .spilled → (x.ve v).xfer = .spilling → 0 < s.poolFree x.coreKey →
       ∃ y, (s.refill c v).course? c = some y ∧ (s.refill c v).mem = s.mem ∧ y = { x with v := y.v } ∧
         (∀ k, k ≠ v → y.ve k = x.ve k) ∧ (y.ve v).st = .mapped ∧ (y.ve v).xfer = .none ∧
         (y.ve v).vals = (List.range x.w).map (fun i =>
           .ofNat 32 (leVal (s.getBytes x.info.ctx ((s.backing (c, v)).1 + .ofNat 64 (4 * i)) 4))) ∧
         (y.ve v).live = .ofNat 64 (leVal (s.getBytes x.info.ctx (s.backing (c, v)).2 8)) ∧
         (y.ve v).tag = tagOf (leVal (s.getBytes x.info.ctx ((s.backing (c, v)).2 + 8) 1) % 16))) ∧
  (∀ (s : State) (c code : Nat) (x : Course) (f : Frame) (tsb : DWord), (s.course? c).isSome = true → x.handler ≠ 0 →
    ∃ y, (s.enterResumed c code x f tsb).course? c = some y ∧ y.pres = .resident ∧ y.hnd = true ∧
      fld y.trap.tcause 0 8 = code % 256 ∧ y.trap.tsb = tsb ∧ y.trap.tsa = x.trap.tsa ∧ y.trap.tlpc = x.trap.tlpc ∧
      y.trap.tlanes = x.trap.tlanes ∧ y.trap.twait = x.trap.twait ∧ y.frame = some { f with cause := code })

/-- SPILL_COMPLETE: a spill that reaches memory writes the values, the mask and the tag of the register to its backing copy and
frees it; a register that has been released in the meantime is left unmapped. FILL_COMPLETE brings the copy back. Each is
counted in SPILLS, modulo 2^32 (R48, R60 to R62). A fill that meets a failed line ends with the hardware error of source 0 as
well (R220, R455; log entry 117). -/
def Obligations.SpillsAndFills : Prop :=
  (∀ (s u : State) (c v : Nat) (x : Course), v < 64 → s.course? c = some x → x.v.length = 64 → (x.ve v).st = .mapped →
    (x.ve v).xfer = .spilling → x.pres = .resident → s.backReach (c, v) .write = (some true, u) →
    ∃ t y, exec (.spillComplete c v) s = .next t ∧ t.course? c = some y ∧
      t.mem = (u.putBacking (c, v) (x.ve v)).mem ∧
      y.ve v = (if (x.ve v).live = 0 then VEntry.empty else { x.ve v with st := .spilled, xfer := .none }) ∧
      fld y.spills 0 32 = (fld x.spills 0 32 + 1) % 2 ^ 32 ∧ fld y.spills 32 32 = fld x.spills 32 32) ∧
  (∀ (s : State) (c v : Nat) (x : Course) (e : VEntry), v < 64 → s.course? c = some x →
    ∃ u : State, u.mem = s.mem ∧ s.putBacking (c, v) e =
      (u.putBytes x.info.ctx (s.backing (c, v)).1 (laneBytes x.w e.vals)).putBytes x.info.ctx (s.backing (c, v)).2
        (maskBytes e.live (Tag.code e.tag))) ∧
  ∀ (s u : State) (c v : Nat) (x : Course), v < 64 → s.course? c = some x → x.v.length = 64 → (x.ve v).st = .spilled →
    (x.ve v).xfer = .filling → x.pres = .resident → s.backReach (c, v) .read = (some true, u) →
    ∃ t y, t.course? c = some y ∧ y.ve v = u.loaded (c, v) (x.ve v) ∧ (y.ve v).st = .mapped ∧ (y.ve v).xfer = .none ∧
      fld y.spills 32 32 = (fld x.spills 32 32 + 1) % 2 ^ 32 ∧ fld y.spills 0 32 = fld x.spills 0 32 ∧
      (u.areaBad x.info.ctx (u.backPlaces (c, v)) = false → exec (.fillComplete c v) s = .next t) ∧
      (u.areaBad x.info.ctx (u.backPlaces (c, v)) = true →
        exec (.fillComplete c v) s = .next (t.hwError c 0 (u.backing (c, v)).1))

/-- An operation that its order admits is performed by the event of its kind, every open lane in turn, and an operation all of
whose lanes are over then writes its results, leaves the engine and counts down: LOAD_PERFORMED loads, LDA and the returns of
atomics; STORE_PERFORMED stores, SAVE, STL and SIG, the last two behind the release that they are; ATOMIC_PERFORMED the lanes
of one word, in ascending order; SCALAR_ACCESS_PERFORMED SLD and SST; FIXED_FUNCTION_REQUEST_PERFORMED a request of a cluster
unit (R257, R258, R262 to R268, R275, R335). A lane's access is the read, the write or the update of its kind (R262, R265,
R268). An atomic or a signal of a lane returns the word that it finds, in the allocation or at the home of the word, which the
core's L1 holds no longer, and puts there the word that its table gives, and no other byte changes (R247, R266 to R268, R274).
Once every lane of a load is over, its words land in its destination register in the lanes that have their value, the
operation leaves the engine, and N0 counts down (R145, R258, R262). -/
def Obligations.MemoryEvents : Prop :=
  ((∀ (s : State) (c : Nat) (x : Course) (o : MemOp), s.course? c = some x → x.op? o.id = some o → s.mayPerform x o = true →
     let all (s : State) : State := (s.performLanes c o fun _ => true).settleOp c o.id
     let released : State := s.release x.coreKey x.info.block (extScope o.ext o.scope)
     (((∃ b sx n, o.kind = .load b sx n) ∨ o.kind = .lda ∨
         ((∃ op, o.kind = .amo op true) ∨ o.kind = .cas true) ∧ o.lanes.all LaneAcc.over = true) →
       exec (.loadPerformed c o.id) s = .next (all s)) ∧
     (((∃ b n, o.kind = .store b n) ∨ o.kind = .save ∨ ∃ op, o.kind = .sig op false) →
       exec (.storePerformed c o.id) s = .next (all s)) ∧
     ((o.kind = .stl ∨ ∃ op, o.kind = .sig op true) → exec (.storePerformed c o.id) s = .next (all released)) ∧
     (((∃ d, o.kind = .sld d) ∨ o.kind = .sst) → exec (.scalarAccessPerformed c o.id) s = .next (all s)) ∧
     (∀ l, ((∃ op rv, o.kind = .amo op rv) ∨ ∃ rv, o.kind = .cas rv) → o.cnt = some 1 → o.lanes.find? s.laneFree = some l →
       exec (.atomicPerformed c o.id) s = .next ((s.performLanes c o fun k =>
         s.sameByte x.info.ctx ((o.va k).toNat, 4) ((o.va l).toNat, 4)).settleOp c o.id)) ∧
     (((∃ n, o.kind = .tsize n) ∨ (∃ f, o.kind = .trace f) ∨ ∃ f a d, o.kind = .tsamp f a d) →
       exec (.fixedFunctionRequestPerformed c o.id) s =
         .next (((o.lanes.filter fun l => l.open_ && l.lane < 64).foldl (fun s l => s.fixedStep c o.id l) s).settleFixed c
           o.id)) ∧
     ∀ n, o.kind = .visq n → exec (.fixedFunctionRequestPerformed c o.id) s =
       .next ((s.visqBatch c o n (o.lanes.filter fun l => l.open_ && l.lane < 64)).settleFixed c o.id)) ∧
   (∀ (s : State) (c : Nat) (o : MemOp) (l : LaneAcc) (p : LaneAcc → Bool), (o.lanes.filter fun k => k.open_ && p k) = [l] →
     let r : LaneAcc × State := s.laneStep c o l false
     s.performLanes c o p = (r.2.putLane c o.id r.1).overwrote (s.landing c o l r.2)) ∧
   ∀ (s : State) (c : Nat) (o : MemOp) (l : LaneAcc) (again : Bool),
     (∀ b sx n, o.kind = .load b sx n → s.laneStep c o l again = s.laneRead c o l again sx false) ∧
     (∀ b, o.kind = .store b 1 → s.laneStep c o l again = s.laneWrite c o l again (bytesOf b (l.data.headD 0)) false) ∧
     (∀ op rv, o.kind = .amo op rv → s.laneStep c o l again = s.laneAtomic c o l again) ∧
     (∀ op rel, o.kind = .sig op rel → s.laneStep c o l again = s.laneAtomic c o l again) ∧
     (o.kind = .sst → s.laneStep c o l again = s.laneWrite c o l again ((l.data.map (bytesOf 4)).flatten) false)) ∧
  (∀ (s u : State) (c : Nat) (x : Course) (o : MemOp) (l : LaneAcc) (again : Bool), s.course? c = some x →
     ((∃ op rv, o.kind = .amo op rv ∧ op.toNat ≤ 9) ∨ (∃ rv, o.kind = .cas rv) ∨ ∃ op rel, o.kind = .sig op rel ∧ op.toNat ≤ 2) →
     let new (w : Word) : List Byte := leBytes 4 (newWord o.kind w (l.data.headD 0) l.cmp).toNat
     (∀ off b w, s.place c o l .write = (.scratch off, u) → u.block? x.info.block = some b → w = wordOf (b.mem.read off 4) →
       (s.laneAtomic c o l again).1 = l.ok [w] ∧ (s.laneAtomic c o l again).2.mem = u.mem ∧
       ((s.laneAtomic c o l again).2.blockMem x.info.block).bytes = cellPuts off (new w) b.mem.bytes) ∧
     ∀ pa cached, s.place c o l .write = (.mem pa cached, u) → cellWfFrom 0 u.mem = true →
       ∃ v : State, v = u.evictLine x.coreKey (lineOf pa) ∧ (u.l1? x.coreKey (lineOf pa) = none → v = u) ∧
         (∀ ln, u.l1? x.coreKey (lineOf pa) = some ln → WrittenBack u v ln) ∧
         (v.lineFailed (lineOf pa) = true → (s.laneAtomic c o l again).1 = l.fail ∧ (s.laneAtomic c o l again).2.mem = v.mem) ∧
         (v.lineFailed (lineOf pa) = false → ∀ w, w = wordOf (v.readPa pa 4) →
           (s.laneAtomic c o l again).1 = l.ok [w] ∧ BytesWritten v (s.laneAtomic c o l again).2 pa (new w) ∧
           (s.laneAtomic c o l again).2.l1? x.coreKey (lineOf pa) = none)) ∧
  (∀ (s : State) (c : Nat) (x : Course) (o : MemOp) (f : Flight) (d : Code), s.course? c = some x → x.ops = [o] →
     o.kind = .load 4 false 1 → (o.lanes.all LaneAcc.over) = true → o.acc = none → o.hwe = none → o.cnt = some 0 →
     o.dst = some d → d.toNat < 64 → x.flights = [f] → f.id = o.id + 1 → f.v = some d.toNat → f.release = false →
     f.whole = false → f.ready = false → x.outs = [⟨o.id, 0, false⟩] → x.pres = .resident → 0 < s.uid → x.v.length = 64 →
     o.okMask ≠ 0 →
     ∃ y, (s.settleOp c o.id).course? c = some y ∧ y.ops = [] ∧ y.outs = [] ∧ y.flights = [] ∧ y.n 0 = 0 ∧
       (y.ve d.toNat).tag = f.tag ∧
       ∀ j, j < x.w → Mask.has o.okMask j = true → (y.ve d.toNat).vals.getD j 0 = (o.words x.w 0).getD j 0)

/-- WAITA_WAKE: a write at the home wakes the registered lanes of the course that wait on the line; WAITA_POLL those that are
not registered; WAITA_TIMEOUT, when the deadline comes, those whose time has passed. Each then reads its word again: outside a
stream a lane whose word meets the condition, or whose time has passed, becomes READY at its WAITA, and any other goes on
waiting (R270 to R272). That one event acts on every such lane of the course at once is the model's reading (log entry
27). -/
def Obligations.WaitEvents : Prop :=
  (∀ (s : State) (c lane : Nat) (w : WaitA), s.waiting? c lane = some w →
    (w.registered = true → exec (.waitaWake c lane) s = .next (s.rewaits c fun v => v.registered && v.sameLine w)) ∧
    (w.registered = false → exec (.waitaPoll c lane) s = .next (s.rewaits c fun v => !v.registered && v.sameLine w)) ∧
    ∀ d, w.deadline = some d → ∃ u : State, u = s.reachTime d ∧ d ≤ u.time ∧
      exec (.waitaTimeout c lane) s = .next (u.rewaits c fun v => v.expired u.time)) ∧
  ∀ (s u : State) (c i : Nat) (x : Course) (w : WaitA) (v : Word), s.course? c = some x → x.info.row = none → i < x.w →
    i < x.lanes.length → (x.lane i).st = .waita → (x.lane i).wa = some w → w.got = none → w.sent = none → w.gaveUp = false →
    s.peek c w.va w.flt = (.word v, u) → u.course? c = some x →
    ((waitCond w.cond v w.t = true ∨ w.expired u.time = true) →
      (s.rewait c i).course? c = some (x.onLanes (Mask.one i) fun _ l => { l with st := .ready, wake := .none })) ∧
    (waitCond w.cond v w.t = false → w.expired u.time = false →
      ∃ y, (s.rewait c i).course? c = some y ∧ (y.lane i).st = .waita ∧ (y.lane i).lpc = (x.lane i).lpc)

/-! ## Events: matrix, copies, collectives -/

/-- A command of the matrix unit whose turn has come takes its physical tile, from its area where it was evicted, and waits
while a page of an area is not there (R284). MZERO_COMPLETE leaves every word of the tile 0, and MCHE_COMPLETE ends the
command (R296); MMA_COMPLETE of one that stands alone, of one k-block, adds that block's products to the tile (R86, R89, R290,
R297), and one whose check fails ends with its status and changes no tile (R304); MDST_COMPLETE with a stride that its rows do
not fit ends with status 4, and any other goes to its destination, one to scratchpad ending when each of its slots is
thread-owned (R300 to R302); MACL_LANDING lands the four rows of its group in their registers (R298, R299). An MMA or a MACL that
finds a line of its tile's area failed fails, its tile reads NaN, and its course takes HWE (R305; log entry 117). -/
def Obligations.MatrixEvents : Prop :=
  ∀ (s u : State) (die core k : Nat) (m : MCmd), let key : Nat × Nat := (die, core)
    (s.readyCmd key k .mzero = some m →
      (s.takeTile key m.block m.tile = (true, u) → (u.block? m.block).isSome = true →
        exec (.mzeroComplete die core k) s = .next ((u.onTile m.block m.tile fun _ => []).endCmd key m none) ∧
        ∀ i, (((u.onTile m.block m.tile fun _ => []).blockMem m.block).tiles.getD m.tile []).getD i 0 = 0) ∧
      (s.takeTile key m.block m.tile = (false, u) → exec (.mzeroComplete die core k) s = .next u)) ∧
    (s.readyCmd key k .mche = some m → exec (.mcheComplete die core k) s = .next (s.endCmd key m none)) ∧
    (s.readyCmd key k .mma = some m → (s.core key).mq = [m] → m.id = k → m.started = false → m.staged = none →
      (∀ e, mmaStatus (s.blockMem m.block) (Config.isTower die) m.args = some e →
        exec (.mmaComplete die core k) s = .next (s.endCmd key m (some e))) ∧
      (mmaStatus (s.blockMem m.block) (Config.isTower die) m.args = none → s.tileBad m.block m.tile = true →
        ∃ n, exec (.mmaComplete die core k) s = .next ((s.cmdBad key m).runMma key k n)) ∧
      (mmaStatus (s.blockMem m.block) (Config.isTower die) m.args = none → m.args.k.toNat = kBlock m.args.fmt →
        s.tileBad m.block m.tile = false → s.takeTile key m.block m.tile = (true, u) → (u.core key).mq = [m] → (u.block? m.block).isSome = true →
        m.tile < (u.blockMem m.block).tiles.length →
        ∃ (v : State) (n : MCmd), exec (.mmaComplete die core k) s = .next (v.endCmd key n none) ∧ n.id = k ∧ n.course = m.course ∧
          n.block = m.block ∧ n.kind = .mma ∧ (v.blockMem m.block).tiles.getD m.tile [] =
            applyBlock (u.blockMem m.block) (Config.lanes (Config.isTower die)) m.args 0
              ((u.blockMem m.block).tiles.getD m.tile []))) ∧
    (s.readyCmd key k .mdst = some m → m.started = false →
      ((m.stride.toNat < Config.lanes (Config.isTower die) * mdstSize (.ofNat 2 m.cvt) ∨
          m.stride.toNat % mdstSize (.ofNat 2 m.cvt) ≠ 0) →
        exec (.mdstComplete die core k) s = .next (s.endCmd key m (some 4))) ∧
      (Config.lanes (Config.isTower die) * mdstSize (.ofNat 2 m.cvt) ≤ m.stride.toNat →
        m.stride.toNat % mdstSize (.ofNat 2 m.cvt) = 0 →
        exec (.mdstComplete die core k) s = .next (if m.toMem then s.mdstMem key m else s.mdstScratch key m))) ∧
    (s.readyCmd key k .mdst = some m → m.started = true → exec (.mdstComplete die core k) s = .next (
      if m.toMem = true then s else if (s.blockMem m.block).flipDue m.id = true
        then s.onCmd key m.id fun x => { x with started := true, rest := [] } else s.endCmd key m none)) ∧
    (s.readyCmd key k .macl = some m → s.tileBad m.block m.tile = true →
      exec (.maclLanding die core k) s = .next (s.cmdBad key m)) ∧
    (s.readyCmd key k .macl = some m → s.tileBad m.block m.tile = false →
      (s.takeTile key m.block m.tile = (true, u) →
        let w := Config.lanes (Config.isTower die)
        exec (.maclLanding die core k) s = .next ((List.range 4).foldl (fun t j =>
          t.landOp m.course (m.flight.getD j 0) m.mask ((List.range w).map fun i =>
            ((u.blockMem m.block).tiles.getD m.tile []).getD ((4 * m.row + j) * w + i) 0)) (u.dropCmd key m.id))) ∧
      (s.takeTile key m.block m.tile = (false, u) → exec (.maclLanding die core k) s = .next u))

/-- COPY_START: the oldest command that has not started is checked (R317): one that fails ends with its status, and any other
takes the slots of its own block and gets its targets. COPY_COMPLETE of a started copy whose order has come: a target in memory
or in the own block gets its payload, one on the own die slot by slot, and one elsewhere over the staging unit (R318 to R323); a
copy within the scratchpad writes the words it has read; the source slots are let go once every target has its payload (R315,
R316). That the source is read when the payload moves is log entry 69. STAGING_UNIT_ARRIVAL brings the next unit, the bytes of
one slot with its targets; one that finds no room is counted in MBSTL, once for each arrival (log entry 52);
STAGING_UNIT_DRAIN empties a unit into a target that takes its slot, and else leaves it (R475 to R479). COLLECTIVE_START of one
whose order has come: where a check fails it ends or takes HWE; with one member it proceeds, and what the block wrote before is
released; what the other members of a larger collective issued is a free choice (R520 to R523, R527; log entries 13 and 118).
COLLECTIVE_COMPLETE reads the source, and the residuals where there are some, and writes the results; once written, it signals
and ends; a read that fails ends it with a mix of old and new bytes (R524 to R528; log entry 4). TRANSPORT_UNREACHABLE_TIMEOUT
of another member ends a collective with status 6 (R528, R532). -/
def Obligations.CopyAndCollectiveEvents : Prop :=
  ((∀ (s : State) (die core k : Nat) (c : CopyCmd), ((s.core (die, core)).copies.find? fun c => !c.started) = some c →
     c.id = k → let own := c.ownSlots.1 ++ c.ownSlots.2
     let m := s.blockMem c.block
     (∀ e, c.setStatus = some e → exec (.copyStart die core k) s = .next (s.endCopy c e)) ∧
     (c.setStatus = none →
       (c.inOwn m.n = false → exec (.copyStart die core k) s = .next (s.endCopy c 2)) ∧
       (c.inOwn m.n = true → own.all m.engineOwned = false → exec (.copyStart die core k) s = .next (s.endCopy c 1)) ∧
       (c.inOwn m.n = true → own.all m.engineOwned = true →
         (s.targetsOf c = none → exec (.copyStart die core k) s = .next (s.endCopy c 7)) ∧
         ∀ ts, s.targetsOf c = some ts →
           exec (.copyStart die core k) s = .next ((s.onBlockMem c.block fun m => m.take k own).onCopy (die, core) k fun x =>
             { x with started := true, targets := ts })))) ∧
   (∀ (s : State) (die core k n : Nat) (c : CopyCmd) (t : Target), s.copy? (die, core) k = some c → c.targets[n]? = some t →
     c.started = true → s.copyReady c = true →
     (t.done = true → exec (.copyComplete die core k n) s = .next (s.settleCopy (die, core) k)) ∧
     (t.done = false → c.remote = false → exec (.copyComplete die core k n) s = .next (s.copyLocal c)) ∧
     (t.done = false → c.remote = true →
       exec (.copyComplete die core k n) s = .next (
         if c.slots.all t.has then s.meshOver c else if t.die = c.die then s.copyMesh c n t
         else if s.targetFits c t then s else (s.targetOver c n 2).meshOver c))) ∧
   (∀ (s : State) (c x : CopyCmd), s.copy? c.key c.id = some x →
     s.meshOver c = ((List.range x.targets.length).foldl (fun s i => s.targetFinish x i)
       (if (x.targets.all fun t => t.done || x.slots.all t.has) = true then s.sourceOver x else s)).settleCopy c.key c.id) ∧
   (∀ (s : State) (c : CopyCmd), c.sk = 1 → c.dk = 1 →
     s.copyLocal c = (((((s.onBlockMem c.block fun m => c.pairs.foldl (fun m p =>
       m.write p.2.toNat (bytesOf 4 (wordOf ((s.blockMem c.block).read p.1.toNat 4)))) m).sourceOver c).sendStaged c).targetOver c
         0 0).settleCopy c.key c.id)) ∧
   (∀ (s : State) (die core k : Nat) (c : CopyCmd), s.copy? (die, core) k = some c → c.key = (die, core) →
     c.started = true → c.remote = true → c.tdie ≠ c.die → s.copyReady c = true → (c.targets.all (·.done)) = false →
     exec (.stagingUnitArrival die core k) s = .next (s.unitArrives c) ∧
     ((∀ t ∈ c.targets, s.targetFits c t = true) → s.unitArrives c = s.unitTaken c)) ∧
   (∀ (s : State) (c : CopyCmd) (sent q : Nat) (l : List (DWord × DWord)), sent = (c.targets.map (·.sent)).foldl max 0 →
     c.units[sent]? = some (q, l) →
     (256 ≤ (s.staging.filter fun u => u.2.dir == c.dir).length → s.unitTaken c = s.onRegs fun r => r.addMb 2 c.dir 1) ∧
     ((s.staging.filter fun u => u.2.dir == c.dir).length < 256 → ∀ ws v, s.copyRead c sent l = (.words ws, v) →
       ∃ u : StagUnit, (s.unitTaken c).staging = v.staging ++ [(v.uid, u)] ∧ (s.unitTaken c).mem = v.mem ∧ u.copy = c.id ∧
         u.core = c.key ∧ u.dir = c.dir ∧ u.slot = q ∧
         u.data = ((l.zip ws).filter fun p => (c.winners q).contains p.1).map (fun p => (p.1.2.toNat, p.2)) ∧
         ∀ i, i ∈ u.targets ↔ ∃ t, c.targets[i]? = some t ∧ t.done = false ∧ s.targetFits c t = true)) ∧
   ∀ (s : State) (dir u n : Nat) (x : StagUnit), tget u s.staging = some x → x.dir = dir → x.targets.contains n = true →
     exec (.stagingUnitDrain dir u n) s = .next (s.drainUnit u n x) ∧
     ∀ (c : CopyCmd) (t : Target), s.copy? x.core x.copy = some c → c.targets[n]? = some t → t.done = false →
       (s.takes t x.slot = false → s.drainUnit u n x = s) ∧
       (s.takes t x.slot = true → ∃ v : State,
         v = (s.onBlockMem t.block fun m => x.data.foldl (fun m p => m.write p.1 (bytesOf 4 p.2)) m).unitLess u n ∧
         (s.drainUnit u n x = v ∨ s.drainUnit u n x = (v.slotDone c n x.slot).settleCopy x.core x.copy))) ∧
  (∀ (s : State) (k : Nat) (c : Coll), s.coll? k = some c →
     (c.started = false → s.collDue c = true →
       (∀ e, (s.collCheck c).1 = .error e → exec (.collectiveStart k) s = .next ((s.collCheck c).2.collStop c e)) ∧
       ∀ l, (s.collCheck c).1 = .ok l →
         let go (t : State) : State := t.onColl c.id fun x =>
           { x with started := true, members := l, rank := (l.idxOf? (ownId s.fab.fabid)).getD 0, flt := none }
         (l.length = 1 → exec (.collectiveStart k) s = .next (go ((s.collCheck c).2.release c.key c.block 4))) ∧
         (l.length ≠ 1 → ∃ t : State, t = ((s.collCheck c).2.choose 3).2 ∧
           (exec (.collectiveStart k) s = .next (go (t.release c.key c.block 4)) ∨
             exec (.collectiveStart k) s = .next (t.endColl c 5) ∨
             exec (.collectiveStart k) s = .next ((t.mixUnknown { c with members := l }).endColl c 3)))) ∧
     (c.started = true → c.written = false →
       (∀ xs t rs u, s.collRead c 1 (wordsAt c.src c.sourceLen) = (.words xs, t) →
         t.collRead c 2 (if c.wire then wordsAt c.res xs.length else []) = (.words rs, u) →
         exec (.collectiveComplete k) s = .next (u.writeColl c xs rs)) ∧
       ∀ n t, s.collRead c 1 (wordsAt c.src c.sourceLen) = (.status n, t) →
         exec (.collectiveComplete k) s = .next ((t.mixUnknown c).endColl c n)) ∧
     (c.started = true → c.written = true → exec (.collectiveComplete k) s = .next (s.settleColl c.id)) ∧
     ∀ n, c.started = true → n < c.members.length → n ≠ c.rank →
       exec (.transportUnreachableTimeout k n) s = .next ((if c.written = true then s else s.mixUnknown c).endColl c 6))

/-! ## Events: dispatch -/

/-- Blocks. BLOCK_BIND: a block, or the next block of a LAUNCH, that its core's list takes next is bound there, and none that
it does not (R384). BLOCK_ADMISSION: a core that is fenced admits nothing, one whose list is empty or headed by a block that a
condition of R252 holds back admits nothing, and else the head is admitted (R252, R386, R494); the ways that a head wants are
reclaimed (R241, R242), and lent back when the list is empty or its head waits for something else, the model's choice (log
entry 59). A course starts with every lane at its entry, its stochastic-rounding state of R80, its arguments and no handler (R14,
R34). QUANTUM_EXPIRY: a quantum that ends pre-empts the block when a block of at least its level waits for room, and else
restarts (R386). AGEING_STEP: a waiting block's level rises by 1 after 64 quanta (R386). WATCHDOG_FIRE ends everything of its
context on its die, puts its queues into ERROR and writes an entry (R391). -/
def Obligations.BlockEvents : Prop :=
  (∀ (s : State) (die b : Nat), (s.mayBind die b = false → exec (.blockBind die b) s = .next s) ∧
    (s.mayBind die b = true →
      (∀ x, tget b s.pkts = none → s.block? b = some x → x.die = die → (x.task = none ∨ x.cont.isSome = true) →
        exec (.blockBind die b) s =
          .next (s.setBlock b { x with state := .bound, bindTime := s.time, timer := s.time })) ∧
      ∀ p, tget b s.pkts = some p → s.block? s.uid = none → ∃ t y, exec (.blockBind die b) s = .next t ∧
        tget b t.pkts = some { p with next := p.next + 1, alive := p.alive + 1 } ∧ t.block? s.uid = some y ∧ y.state = .bound ∧
        y.pkt = some b ∧ y.blkid = .ofNat 32 p.next ∧ y.core = s.rotCore die p.cfirst p.ccnt (p.rot + p.next))) ∧
  (∀ (s : State) (die core : Nat),
    (s.listHead die core = none → exec (.blockAdmission die core) s = .next (s.stopReclaim (die, core))) ∧
    ∀ b x, s.listHead die core = some (b, x) →
      ((s.core (die, core)).fenced = true → exec (.blockAdmission die core) s = .next s) ∧
      ((s.core (die, core)).fenced = false → (Config.isTower die && s.inStream die core) = false →
        (s.unmet b x = none → exec (.blockAdmission die core) s = .next (s.admitBlock b x)) ∧
        (s.unmet b x = some 6 → exec (.blockAdmission die core) s =
          .next (s.reclaim (die, core) (x.ways - (s.core (die, core)).draining.length))) ∧
        ∀ n, s.unmet b x = some n → n ≠ 6 → exec (.blockAdmission die core) s = .next (s.stopReclaim (die, core)))) ∧
  (∀ (s : State) (b : Nat) (x : Block) (crsid : Nat) (sh : Bool) (area born : Nat) (partner : Option Nat),
    ∃ c, c = s.firstCourse b x crsid sh area born partner ∧ c.trap.tvec = x.attr.tvec.setWidth 64 &&& 0xFFFFFFF0#64 ∧
      c.hnd = false ∧ (∀ k, k < 32 → c.sr.getD k 0 = x.attr.args.getD k 0) ∧
      ∀ l, l < Config.lanes (Config.isTower x.die) → ∃ lane, c.lanes[l]? = some lane ∧ lane.st = .ready ∧
        lane.lpc = (if sh = true then x.attr.entry + .ofInt 32 (16 * x.attr.shd.toInt) else x.attr.entry) ∧
        ∃ v : Word, v = x.lnch * 0x9E3779B9#32 + x.blkid * 0x85EBCA6B#32 + .ofNat 32 crsid * 0xC2B2AE35#32 +
          .ofNat 32 l * 0x27D4EB2F#32 + 0x165667B1#32 ∧ lane.srs = if v = 0 then 1 else v) ∧
  (∀ (s u : State) (b : Nat) (x : Block), s.block? b = some x → x.sliced = true → u = s.reachTime x.quantumEnd →
    u.expiresFirst b x u.time = true →
    x.quantumEnd ≤ u.time ∧
    (let restarts : State := u.onBlock b fun y => { y with timer := u.time, quant := u.quantum y.die y.level }
     ((u.listHead x.die x.core = none ∨ (∃ h y, u.listHead x.die x.core = some (h, y) ∧ u.unmet h y = none) ∨
         (u.blocks.any fun z => z.2.die == x.die && z.2.core == x.core && z.2.state == .preempting) = true) →
       exec (.quantumExpiry b) s = .next restarts) ∧
     ∀ h y n, u.listHead x.die x.core = some (h, y) → u.unmet h y = some n →
       (u.blocks.any fun z => z.2.die == x.die && z.2.core == x.core && z.2.state == .preempting) = false →
       exec (.quantumExpiry b) s = .next (if x.level ≤ y.level ∧ n ≠ 1 ∧ n ≠ 6 then
         x.courses.foldl (fun s c => if (s.course c).info.block == b then s.raisePre c else s)
           (u.onBlock b fun y => { y with state := .preempting })
         else restarts))) ∧
  (∀ (s : State) (b : Nat) (x : Block), s.block? b = some x → (x.state = .bound ∨ x.state = .away) → x.level < 23 →
    ∃ t : State, exec (.ageingStep b) s = .next t ∧ t.mem = s.mem ∧
      x.timer + 64 * ((s.die x.die).qnt.getD x.level 1000 * 1000) ≤ t.time ∧
      t.block? b = some { x with level := x.level + 1, timer := x.timer + 64 * ((s.die x.die).qnt.getD x.level 1000 * 1000) }) ∧
  ∀ (s u : State) (die ctx : Nat), (s.resCourses die ctx).isEmpty = false → s.timerZero die ctx = false →
    s.timerHeld die ctx = false → u = s.reachTime (s.wdtEnd die ctx) →
    s.wdtEnd die ctx ≤ u.time ∧ s.wdtEnd die ctx = s.timerOf die ctx + (s.die die).wdt * 1000000 ∧
    exec (.watchdogFire die ctx) s = .next ((((u.endContext die ctx 4).errorQueues (some die) ctx).errEntry ctx die 0xFFFF 0 0x07
      (.ofNat 64 (u.resCourses die ctx).length) (.ofNat 64 (u.time - s.timerOf die ctx))).progress die ctx)

/-- Tasks. TASK_GRANT: a grant binds the task with a launch number of its own, and it then holds all its keys; one that cannot
be granted waits (R404, R405). TDEP_DECREMENT lowers the dependence counter of its task behind the accesses before it; at 0 the
task waits for its keys (R400, R419). KEYREL_EFFECT waits for the accesses before it, and then passes its key on (R407, R422).
DISPATCHER_RESULT_WRITTEN answers a request once the accesses of the course are performed (R417). GRAPH_BLOCK_BIND binds a graph
block when its pages can be reserved, the deepest first (R411, R412). CONTINUATION_WAKE: a continuation whose event has come
returns to its block, waits while there is no room, and goes to another core when its block has ended (R413 to R415); its
releases at .die at the wake, beside the acquire that R415 gives, are the model's reading (log entry 68). -/
def Obligations.DispatchEvents : Prop :=
  (∀ (s : State) (t : Nat) (tk : Task), tget t s.tasks = some tk →
    (∀ l u, s.grantable t tk = true → s.newLnch tk.die = some (l, u) →
      ∃ v y, exec (.taskGrant t) s = .next v ∧ tget t v.tasks = some y ∧ y.state = .bound ∧ y.lnch = l ∧
        y.block.isSome = true ∧ ∀ e ∈ y.keys, e.held = true) ∧
    (s.grantable t tk = false → exec (.taskGrant t) s = .next s.grants)) ∧
  (∀ (s : State) (die : Nat) (w : OnWay), (s.die die).tdeps = [w] → s.allPerformed w.after = true →
    exec (.tdepDecrement die) s = .next ((((s.onDie die fun d => { d with tdeps := d.tdeps.filter fun x => x.id != w.id }).release
      w.core w.block 4).visible w.block).decrement w.ctx die w.lnch (w.arg.setWidth 32) (fld w.arg 32 32 != 0))) ∧
  (∀ (s : State) (ctx die t : Nat) (lnch : Word) (h : BitVec 32) (tk : Task),
    (s.tasks.find? fun t => t.2.ctx == ctx && t.2.handle == h && t.2.page.isSome && t.2.graph.isNone) = some (t, tk) →
    tk.state = .pending →
    s.decrement ctx die lnch h false = (if tk.dep ≤ 1 then (s.onTask t fun x => { x with state := .keywait, dep := 0 }).joinFifos t
      else s.onTask t fun x => { x with dep := x.dep - 1 })) ∧
  (∀ (s : State) (die k : Nat) (w : OnWay), ((s.die die).keyrels.find? fun w => w.id == k) = some w →
    (s.allPerformed w.after = false → exec (.keyrelEffect die k) s = .next s) ∧
    (s.allPerformed w.after = true → ∃ u : State, u = (s.onDie die fun d => { d with keyrels := d.keyrels.filter fun x => x.id != k }) ∧
      ∀ b t tk e, u.block? w.block = some b → b.task = some t → tget t u.tasks = some tk →
        (tk.keys.findIdx? fun e => e.held && e.key == w.arg.toNat) = some e →
        exec (.keyrelEffect die k) s = .next (u.releaseKey t e w.block w.core.2).grants)) ∧
  (∀ (s : State) (c : Nat) (x : Course) (pc : Word) (r : DReq), s.course? c = some x → x.req = some (pc, r) →
    (x.ops ≠ [] → exec (.dispatcherResultWritten c) s = .next s) ∧
    (x.ops = [] → ∃ u : State, u = (s.release x.coreKey x.info.block 4).visible x.info.block ∧
      exec (.dispatcherResultWritten c) s = .next (match r with
        | .tsub a => u.doTsub c pc a
        | .emit a i => u.doEmit c a i
        | .qsub a h d m => u.doQsub c pc a h d m))) ∧
  (∀ (s : State) (die t : Nat) (tk : Task) (n : Node) (x : Ctx), s.nextGraphBlock die = some (t, tk) → s.nodeOf tk = some n →
    tget t s.tasks = some tk → s.ctx? tk.ctx = some x →
    (s.reserveFrom tk = none → exec (.graphBlockBind die t) s = .next s) ∧
    (s.reserveFrom tk = some false → (s.boundList die (s.taskCore tk).1).length < 8 →
      ∃ v y, exec (.graphBlockBind die t) s = .next v ∧ tget t v.tasks = some y ∧ y.state = .bound ∧ y.block.isSome = true ∧
        y.resv = n.reservation ∧ (v.ctx tk.ctx).reserved = x.reserved + n.reservation)) ∧
  ∀ (s : State) (c n : Nat) (k : Contn) (b : Block), tget c s.conts = some k → s.readDesc c k = s →
    (k.woken = none → ∀ u, s.wakeStatus c k = (none, u) → exec (.continuationWake c) s = .next u) ∧
    (k.woken = some n → ∃ u : State, u = s.onContn c (fun k => { k with woken := some n }) ∧
      (u.block? (u.course c).info.block = some b →
        (b.state = .ended → exec (.continuationWake c) s =
          .next ((u.release (u.course c).coreKey (u.course c).info.block 3).rehome c (u.course c).info.block b)) ∧
        ((b.state = .resident ∨ b.state = .preempting) →
          ((u.roomFor (u.course c) = false ∨ u.blockLives (u.course c).info.block = false) →
            exec (.continuationWake c) s = .next u) ∧
          (u.roomFor (u.course c) = true → u.blockLives (u.course c).info.block = true →
            ∀ v w, u.areaReach c (u.course c).info.ctxa (u.course c).info.areaSize .read = (some true, v) →
              (v.makeRoom [c] = (true, w) → exec (.continuationWake c) s =
                .next ((w.release (u.course c).coreKey (u.course c).info.block 3).unpark c k n)) ∧
              (v.makeRoom [c] = (false, w) → exec (.continuationWake c) s = .next w)))))

/-- Queues. PORTAL_WRITE: a write that is a packet is put into the ring when that has room, with a Successful completion, and
else is answered with Retry; anything else is logged (R373, R374). QUEUE_CREATE makes a queue with an empty ring, and
QUEUE_DESTROY of an idle one leaves no queue and no slot that names it (R373, R377). BIND_RECORD_WRITE: the record waits for the
window of its slot. SPIRE_WINDOW moves on with each window and lets the queue's head be decoded when it may start (R372, R376,
R377, R382). WAIT_PACKET_COMPLETE: the word is read and held against the condition (R382, R392); a WAIT that passes acquires on
every core of its die, the model's reading (log entry 78). STREAM_START: a stream starts when its row is free and its areas fit;
then each of the 12 columns has one resident course of the row's block, every lane READY at the stream's entry (R360, R361). ROW_SEQUENCER_ISSUE: for none while the row cannot run; else a bundle is taken for all columns: a convergence bundle and
its like go to every column at once, and any other goes to every column with its slot 0, and with its slots 1 to 3 too or these
are kept for the column (R360, R364, R365, R366); which rows besides R366's wait for all columns is the model's reading (log
entry 38). In recovery no write enters the portal (R491). -/
def Obligations.QueueEvents : Prop :=
  (∀ (s : State) (ctx off : Nat) (bs : List Byte),
    ((s.ctx? ctx = none ∨ s.boot.stage = 15) → exec (.portalWrite ctx off bs) s = .next s) ∧
    ∀ c, s.ctx? ctx = some c → s.boot.stage ≠ 15 →
    (¬ (bs.length = 64 ∧ off % 64 = 0 ∧ off < 4096) →
      exec (.portalWrite ctx off bs) s = .next (s.errEntry ctx 4 0xFFFF 0 0x08 (.ofNat 64 off) (.ofNat 64 bs.length))) ∧
    (bs.length = 64 → off % 64 = 0 → off < 4096 →
      let ended (k : Nat) (t : State) : State := { t with cpls := t.cpls ++ [⟨0, 0x2000000 + 4096 * ctx + off, k, []⟩] }
      (tget (off / 64) c.queues = none → exec (.portalWrite ctx off bs) s = .next (ended 1 s)) ∧
      ∀ x, tget (off / 64) c.queues = some x →
        ((2 ^ x.k ≤ x.wr - x.rd ∨ x.state = .draining ∨ x.state = .error) →
          exec (.portalWrite ctx off bs) s = .next (ended 1 s)) ∧
        (x.wr - x.rd < 2 ^ x.k → x.state ≠ .draining → x.state ≠ .error →
          ∀ u, s.hwWrite ctx (x.ring + .ofNat 64 (64 * (x.wr % 2 ^ x.k))) bs = (true, u) →
          exec (.portalWrite ctx off bs) s = .next (ended 0 (u.onQ ctx (off / 64) fun y => { y with wr := y.wr + 1 }))))) ∧
  (∀ (s : State) (ctx q k : Nat) (ring : DWord) (c : Ctx), s.ctx? ctx = some c → q < 64 → 4 ≤ k → k ≤ 16 →
    tget q c.queues = none →
    ∃ t, exec (.queueCreate ctx q k ring) s = .next t ∧ OnlyCtx s t ctx ∧
      tget q (t.ctx ctx).queues = some ⟨k, ring, 0, 0, .created, [], none, none, none⟩) ∧
  (∀ (s : State) (ctx q : Nat) (c : Ctx) (x : Queue), s.ctx? ctx = some c → tget q c.queues = some x →
    (c.queues.map (·.1)).Nodup → x.wr ≤ x.rd → x.open_ = [] →
    ∃ t, exec (.queueDestroy ctx q) s = .next t ∧ tget q (t.ctx ctx).queues = none ∧
      ∀ d ∈ t.dies, ∀ w ∈ d.slots, w.1.getLsbD 0 = true → ¬ (fld w.1 16 16 = ctx ∧ fld w.1 32 6 = q)) ∧
  (∀ (s : State) (die slot : Nat) (w0 w1 : DWord), slot < 64 → die < s.dies.length →
    ∃ t, exec (.bindRecordWrite die slot w0 w1) s = .next t ∧ OnlyDie s t die ∧
      t.die die = { s.die die with binds := ((s.die die).binds.filter fun b => b.1 != slot) ++
        [(slot, w0 &&& 0x3FFFFF003F#64, w1 &&& 0xFFFF#64)] }) ∧
  (∀ (s u : State) (die n : Nat) (w : DWord × DWord), n = (s.die die).window →
    u = (s.onDie die fun d => { d with window := (n + 1) % 64 }).applyBind die n → w = (u.die die).slots.getD n (0, 0) →
    ((w.1.getLsbD 0 = false ∨ ((s.die die).failed.any (fun f => f.1 == 6)) = true) →
      exec (.spireWindow die) s = .next u) ∧
    (w.1.getLsbD 0 = true → ((s.die die).failed.any (fun f => f.1 == 6)) = false →
      ∀ q, tget (slotUse die n w).q (u.ctx (slotUse die n w).ctx).queues = some q →
      ((q.state ≠ .bound ∨ q.wr ≤ q.rd) → exec (.spireWindow die) s = .next u) ∧
      (q.state = .bound → q.rd < q.wr →
        ∀ bs v, u.hwRead (slotUse die n w).ctx (q.ring + .ofNat 64 (64 * (q.rd % 2 ^ q.k))) 64 = (some bs, v) →
        exec (.spireWindow die) s = .next (if v.mayStart q bs = true then v.decodeHead (slotUse die n w) q bs else v)))) ∧
  (∀ (s u : State) (p : Nat) (x : Packet) (w : WaitA) (v : Word), tget p s.pkts = some x → x.wait = some w →
    (w.got = some v → exec (.waitPacketComplete p) s = .next (s.finishWait p x w v)) ∧
    (w.got = none → w.sent = none → s.peekPkt x w = (.word v, u) →
      exec (.waitPacketComplete p) s = .next ((u.waitServed x).finishWait p x w v)) ∧
    (waitCond w.cond v w.t = true → s.finishWait p x w v =
      ((s.acquireDie x.die (extScope w.ext w.scope)).onPkt p fun k => { k with wait := none }).settlePkt p)) ∧
  (∀ (s : State) (p row : Nat) (x : Packet) (r : RowStream), tget p s.pkts = some x →
    ((s.die x.die).rows.find? fun r => !r.started && r.row == row && r.pkt == p) = some r →
    (s.rowFree x.die r.row (slotsOf true r.attr.spk) = false → exec (.streamStart p row) s = .next s) ∧
    (∀ areas data v, s.rowFree x.die r.row (slotsOf true r.attr.spk) = true →
      carve (s.ctx r.ctx).capsize (areaPages x.die 0 0) 12 (s.usedAreas r.ctx) = some areas →
      ((rowCores r.row).foldl (fun s c => s.acquireL1 (x.die, c)) s).preloads r x.die = (.bytes data, v) →
      ∃ (ids : List Nat) (t : State), ids.length = 12 ∧
        (ids, t) = (List.range 12).foldl (fun (acc : List Nat × State) col =>
            let n := if r.pla = 0 then 0 else r.pln
            let k := acc.2.startColumn r x.die col (areas.getD col 0) ((data.drop (col * n)).take n)
            (acc.1 ++ [k.1], k.2))
          ([], (v.startTimer x.die r.ctx).onDie x.die fun d =>
            { d with rowsFenced := d.rowsFenced.filter (· != (r.row, r.lnch)) }) ∧
        exec (.streamStart p row) s = .next (t.onRow x.die r.id fun q =>
          { q with started := true, courses := ids, flt := none, reads := [], visible := false }))) ∧
  (∀ (s t : State) (r : RowStream) (die col area id : Nat) (data : List Byte),
    (∀ k, s.uid ≤ k → s.course? k = none ∧ s.block? k = none) → (id, t) = s.startColumn r die col area data →
    (∀ k, t.uid ≤ k → t.course? k = none ∧ t.block? k = none) ∧
    (∀ k c, s.course? k = some c → t.course? k = some c) ∧
    ∃ c b, t.course? id = some c ∧ t.block? c.info.block = some b ∧ b.state = .resident ∧ b.courses = [id] ∧
      b.row = some r.row ∧ c.pres = .resident ∧ c.info.die = die ∧ c.info.core = 12 * r.row + col ∧ c.info.row = some r.row ∧
      c.info.rank = r.rank die col ∧ (∀ k, k < 32 → c.sr.getD k 0 = r.attr.args.getD k 0) ∧
      ∀ l, l < Config.lanes (Config.isTower die) → ∃ lane, c.lanes[l]? = some lane ∧ lane.st = .ready ∧
        lane.lpc = r.attr.entry) ∧
  (∀ (s u : State) (die row : Nat), u = s.rowTick die row →
    (∀ r c0 cs, ((u.die die).rows.find? fun r => r.started && r.row == row) = some r → r.courses = c0 :: cs →
      ((u.course c0).pres ≠ .resident ∨ (u.course c0).live = 0 ∨ (u.die die).health.stopped = true ∨ u.rowq ≠ []) →
      exec (.rowSequencerIssue die row) s = .next u) ∧
    ∀ c0 cs v x, u.running die row = c0 :: cs →
      v = ((c0 :: cs).foldl (fun s c => s.onCourse c fun x => x.share (u.course c0)) u).rowWake (c0 :: cs) →
      v.rowError (c0 :: cs) = none → v.rowbuf = [] → x = v.course c0 → x.ready ≠ 0 →
      exec (.rowSequencerIssue die row) s = .next (v.rowSelect (c0 :: cs) [] c0 x.turn x.ready)) ∧
  (∀ (s f t : State) (cs : List Nat) (c0 : Nat) (pc : Word) (m : Mask) (bs : List Byte) (b : Bundle)
    (l : List (Issue × Verdict)), s.fetchBytes c0 pc = (some bs, f) → decodeBytes bs = .ok b →
    (f.course c0).ill (wordsOf bs) (.ok b) = none → (((bInstrs b).map scalarsOf).flatten.any (f.course c0).sBusy) = false →
    f.rowLatch cs pc b = (l, t) → rowTrap (t.rowSlot0 l b ++ l) = none →
    l.map (fun p => (p.1.course, p.1.pc, p.1.bundle)) = cs.map (fun c => (c, pc, b)) ∧
    (rowSyncs b = true → s.rowSelect cs [] c0 pc m = t.rowTogether l (f.course c0) pc m) ∧
    (rowSyncs b = false → ((t.rowSlot0 l b).all fun p => p.2.goes) = true →
      s.rowSelect cs [] c0 pc m = t.rowApart l [] (f.course c0) pc m)) ∧
  ∀ (s : State) (l : List (Issue × Verdict)) (lead : Course) (pc : Word) (m : Mask),
    (∀ v, (∀ p ∈ l, p.2 = .go) → s.collFull (l.tail.map (·.1)) ((l.head?.map (·.1)).getD Issue.idle) = false →
      s.rowAdmit l = (some true, v) → v.rowLost l = false →
      ∀ p ∈ l, ({ p.1 with pass := true, lead := some lead } : Issue) ∈ (s.rowTogether l lead pc m).rowq) ∧
    ∀ held, ∀ p ∈ l, ∃ i ∈ (s.rowApart l held lead pc m).rowq, i.course = p.1.course ∧ i.pc = p.1.pc ∧ i.pass = true ∧
      i.bundle.i0 = p.1.bundle.i0 ∧ (i.bundle = p.1.bundle ∨ (i.lone = true ∧
        ∃ j ∈ (s.rowApart l held lead pc m).rowbuf, j.course = p.1.course ∧ j.pc = p.1.pc ∧ j.bundle.i1 = p.1.bundle.i1 ∧
          j.bundle.i2 = p.1.bundle.i2 ∧ j.bundle.i3 = p.1.bundle.i3))

/-! ## Events: management, faults, health -/

/-- Registers that management writes. CTXPDL_WRITE sets the deadline of the context that CTXSEL names, the nearest limit outside
1 to 1,000 (R388, log entry 23); REGISTER_WRITE: WDT and QNT take the nearest limit, and no byte of memory changes (R388);
GOVSTEP_WRITE shifts the step durations in, and GOVD_WRITE clears the count of marks (R480, R481); KTREP_WRITE frees a broken
key, having written its release record back where its bit 16 says so (R409). TLBINVN_WRITE and TLBINV_WRITE: an invalidation
works on the count that TLBINVN gave, one at a time; TLBINV_DONE comes once no access through a covered translation is
outstanding, and then no cached entry that it covers is left and every other stays (R465, R468). CONTEXT_CREATE: a context
starts with a PDL of 20 and empty rings, and at most 4,096 of them exist, and none starts in recovery (R491); CONTEXT_RESET ends
its blocks and queues (R388, R392, R499, R538), where the TSB of the rows that it fences, 1 to 6, is a free choice of the model
(log entry 76). -/
def Obligations.ManagementEvents : Prop :=
  (∀ (s : State) (die : Nat) (v : DWord) (x : Ctx), s.ctx? (s.die die).ctxsel = some x →
    ∃ t, exec (.ctxpdlWrite die v) s = .next t ∧ OnlyCtx s t (s.die die).ctxsel ∧
      t.ctx (s.die die).ctxsel = { x with pdl := max 1 (min 1000 (fld v 0 10)) }) ∧
  (∀ (s : State) (die : Nat) (v : DWord), die < s.dies.length →
    (∃ t, exec (.registerWrite (.wdt die) v) s = .next t ∧ OnlyDie s t die ∧
      t.die die = { s.die die with wdt := max 10 (min 60000 (fld v 0 32)) }) ∧
    (∀ l, ∃ t, exec (.registerWrite (.qnt die l) v) s = .next t ∧ OnlyDie s t die ∧
      t.die die = { s.die die with qnt := setAt l (max 100 (min 10000 (fld v 0 14))) (s.die die).qnt }) ∧
    ∃ t, exec (.registerWrite (.ctxsel die) v) s = .next t ∧ OnlyDie s t die ∧
      t.die die = { s.die die with ctxsel := fld v 0 12 }) ∧
  (∀ (s : State) (r : RegName) (v : DWord), exec (.registerWrite r v) s = .next (s.setReg r v) ∧ SameMemory s (s.setReg r v)) ∧
  (∀ (s : State) (c : Nat) (v : DWord) (x : Ctx), s.ctx? c = some x →
    (∃ t, exec (.govstepWrite c v) s = .next t ∧ OnlyCtx s t c ∧ (t.ctx c).gov.govd = x.gov.govd ∧
      (t.ctx c).gov.tail = x.gov.tail ∧ (t.ctx c).gov.mark = .ofNat 64 s.time ∧ (t.ctx c).gov.nstp = x.gov.nstp + 1 ∧
      (t.ctx c).gov.h = .ofNat 40 (min (if v = 0 then s.time - x.gov.mark.toNat else v.toNat) (2 ^ 40 - 1)) :: x.gov.h.take 3) ∧
    ∃ t, exec (.govdWrite c v) s = .next t ∧ OnlyCtx s t c ∧
      t.ctx c = { x with gov := { x.gov with govd := v, mark := .ofNat 64 s.time, nstp := 0 } }) ∧
  (∀ (s : State) (die key : Nat) (v : DWord), key = fld v 0 16 * 4 + die →
    ((s.key key).st ≠ 3 → exec (.ktrepWrite die v) s = .next s) ∧
    ((s.key key).st = 3 → exec (.ktrepWrite die v) s =
      .next ((((if v.getLsbD 16 = true then s.backLines (die, (s.key key).rcore) (s.key key).lines else s).unhold key).onKey key
        fun k => { k with st := 0, nsh := 0, lines := [] }).grants))) ∧
  (∀ (s : State) (v : DWord), s.regs.tlbHeld = [] →
    (s.regs.tlbBusy = none →
      exec (.tlbinvnWrite v) s = .next { s with regs := { s.regs with tlbN := v.setWidth 32 } } ∧
      exec (.tlbinvWrite v) s = .next { s with regs := { s.regs with tlbBusy := some v, tlbBusyN := s.regs.tlbN } } ∧
      exec .tlbinvDone s = .next s) ∧
    ∀ w, s.regs.tlbBusy = some w →
      exec (.tlbinvnWrite v) s = .next { s with regs := { s.regs with tlbHeld := [(true, v)] } } ∧
      exec (.tlbinvWrite v) s = .next { s with regs := { s.regs with tlbHeld := [(false, v)] } } ∧
      (s.oldAccess w s.regs.tlbBusyN.toNat = true → exec .tlbinvDone s = .next s) ∧
      (s.oldAccess w s.regs.tlbBusyN.toNat = false →
        ∃ t, exec .tlbinvDone s = .next t ∧ t.regs.tlbBusy = none ∧ t.mem = s.mem ∧
          ∀ e, e ∈ t.tlb ↔ e ∈ s.tlb ∧ covered w s.regs.tlbBusyN.toNat e = false)) ∧
  (∀ (s : State) (c : Nat) (b : DWord),
    (c < 4096 → s.ctx? c = none → s.boot.stage ≠ 15 → ∃ t, exec (.contextCreate c b) s = .next t ∧ OnlyCtx s t c ∧
      t.ctx c = { Ctx.start with cbase := b } ∧ (t.ctx c).pdl = 20 ∧ (t.ctx c).errdrop = 0 ∧ (t.ctx c).queues = []) ∧
    ((4096 ≤ c ∨ (s.ctx? c).isSome = true ∨ s.boot.stage = 15) → exec (.contextCreate c b) s = .next s)) ∧
  ∀ (s : State) (c : Nat), ∃ k, k < 6 ∧ ∃ u : State, u = (s.choose 6).2 ∧
    exec (.contextReset c) s = .next (((List.range 4).foldl (fun s d => s.endContext d c (1 + k)) u).errorQueues none c)

/-- FAULT_RECORD_WRITE: a fault's record is written to its context's ring when that has space, the place of R466 byte for byte,
and waits while it has none (R466). FLTRESP_RETRY, FLTRESP_FAIL_UNMAPPED and FLTRESP_FAIL_PERMISSION: an answer to a written
record takes the fault away and leaves its code for every access that shares it: 0 retry, 1 and 2 failures (R467). -/
def Obligations.FaultEvents : Prop :=
  ∀ (s : State) (ctx : Nat) (f : FaultRec) (c : Ctx), s.ctx? ctx = some c →
    (∀ fid, (s.faults.find? fun g => g.ctx == ctx && g.uid % 2 ^ 16 == fid && !g.written) = some f →
      ((c.frtail + 1) % 2 ^ c.frsize = c.frhead % 2 ^ c.frsize → exec (.faultRecordWrite ctx fid) s = .next s) ∧
      ((c.frtail + 1) % 2 ^ c.frsize ≠ c.frhead % 2 ^ c.frsize → ∀ pa u,
        s.hwPa ctx (c.frbase + .ofNat 64 (32 * c.frtail)) .write = (some pa, u) → u.faults = s.faults → u.ctxs = s.ctxs →
        u.mem = s.mem →
        ∃ t, exec (.faultRecordWrite ctx fid) s = .next t ∧ (t.ctx ctx).frtail = (c.frtail + 1) % 2 ^ c.frsize ∧
          t.faults = (s.faults.map fun g => if g.uid = f.uid then { g with written := true } else g) ∧
          t.mem = cellPuts pa (leBytes 8 f.va.toNat ++ leBytes 2 f.uid ++ leBytes 1 (f.kind + if f.inWalk then 128 else 0) ++
            leBytes 1 f.die ++ leBytes 4 (if s.lnchLive f.lnch then f.lnch.toNat else 0) ++ leBytes 8 s.time ++ leBytes 8 0)
            s.mem)) ∧
    ∀ fid : BitVec 16, (s.faults.find? fun g => g.ctx == ctx && g.uid % 2 ^ 16 == fid.toNat && g.written) = some f →
      let answered (k : Nat) : State :=
        { s with faults := s.faults.filter fun g => g.uid != f.uid, answers := s.answers ++ [(f.uid, k)] }
      exec (.fltrespRetry ctx fid) s = .next (answered 0) ∧ exec (.fltrespFailUnmapped ctx fid) s = .next (answered 1) ∧
      exec (.fltrespFailPermission ctx fid) s = .next (answered 2)

/-- Health. SOFT_ERROR_CORRECTED counts, saturating, in the counter of its source (R498). UNCORRECTABLE_ERROR: where the
oldest read of the course that is still open on the data is found, its lanes fail, and else the course takes the hardware error
of the source; one in the register pool stands until an instruction of the course reads a register (statement O4); one in a clean
line of the L1 drops the line and has no other effect; each is counted in UE (R220, R250). Which read or command meets an error is
the model's reading (log entries 49 and 119). CORE_LOSS and UNIT_FAILURE of a core fence it (R494); MORTAR_LANE_FAIL counts a
spared lane; UNIT_FAILURE lists the other failed units with their die, fails exactly the dirty lines of a lost slice (which
lines it holds is left open, log entry 77), or takes a link that is up down (R494). THERMAL_STEP_UP takes the throttle one step
up above 1,000 and THERMAL_STEP_DOWN one down below 900, within its floor and 8; THERMAL_STOP stops a die at step 8 above 1,150,
and THERMAL_RESUME starts it again below 900 (R500); FLUXMAX is kept as a running maximum, the model's reading (log entry 57). -/
def Obligations.HealthEvents : Prop :=
  (∀ (s : State) (die : Nat) (src : SoftSrc), die < s.dies.length →
    ∃ t h, exec (.softErrorCorrected die src) s = .next t ∧ OnlyDie s t die ∧ h = (s.die die).health ∧
      (t.die die).health = (match src with
        | .sram => { h with cesr := min (h.cesr + 1) (2 ^ 32 - 1) }
        | .dieCache => { h with cedc := min (h.cedc + 1) (2 ^ 32 - 1) }
        | .hbm => { h with cehb := min (h.cehb + 1) (2 ^ 32 - 1) })) ∧
  (∀ (s u : State) (c : Nat) (x : Course) (a : DWord), s.course? c = some x →
    u = (s.onHealth x.info.die fun h => { h with ue := (h.ue + 1) % 2 ^ 32 }) →
    exec (.uncorrectableError c .scratchpad a) s = .next ((u.failRead c 1 fun o l =>
      inAperture (o.va l) && meets ((apertureOff (o.va l)).toNat, o.size l) (a.toNat / 4 * 4, 4)).getD (u.hwError c 1 a)) ∧
    exec (.uncorrectableError c .registerPool a) s = .next (u.onCourse c fun y => { y with poolErr := some a }) ∧
    exec (.uncorrectableError c .intersection a) s = .next ((u.failRead c 3 fun o _ =>
      match o.kind with | .trace _ | .visq _ => true | _ => false).getD (u.hwError c 3 a)) ∧
    ((u.core x.coreKey).mq = [] → (u.core x.coreKey).copies = [] → u.colls = [] →
      exec (.uncorrectableError c .engine a) s = .next (u.hwError c 4 0)) ∧
    (∀ pa t l, (u.translate x.info.ctx a .read) = (.ok pa, t) → region pa ≤ 1 → u.l1? x.coreKey (lineOf pa) = some l →
      l.dirty = 0 → exec (.uncorrectableError c .memoryLine a) s =
        .next (u.onCore x.coreKey fun k => { k with l1 := k.l1.filter fun l => l.line != lineOf pa })) ∧
    ∀ src p o, (u.course c).ops.find? (fun o => o.reads && o.lanes.any fun l => l.open_ && p o l) = some o → o.fixedFn = false →
      o.kind ≠ .rest → u.failRead c src p = some (((o.lanes.filter fun l => l.open_ && p o l).foldl
        (fun s l => (s.laneBad c o.id l src).putLane c o.id l.fail) u).settleOp c o.id)) ∧
  (∀ (s : State) (die core : Nat), exec (.unitFailure 0 die core) s = exec (.coreLoss die core) s ∧
    (s.blocks = [] → (s.die die).rows = [] → die < s.dies.length →
      ∃ t, exec (.coreLoss die core) s = .next t ∧ (t.core (die, core)).fenced = true ∧ core ∈ (t.die die).health.fcore ∧
        SameMemory s t)) ∧
  (∀ (s : State) (l : Nat), exec (.mortarLaneFail l) s =
      .next { s with regs := { s.regs with linkSpares := modAt l (· + 1) s.regs.linkSpares } } ∧
    ∀ die, exec (.unitFailure 4 die l) s = exec (.mortarLaneFail l) s) ∧
  (∀ (s : State) (kind die u : Nat), (kind = 1 ∨ kind = 3 ∨ kind = 6) → die < s.dies.length → s.blocks = [] →
    ∃ t, exec (.unitFailure kind die u) s = .next t ∧ (kind, u) ∈ (t.die die).failed ∧
      ∀ p ∈ (s.die die).failed, p ∈ (t.die die).failed) ∧
  (∀ (s : State) (u : Nat) (die : Nat), u < s.fab.ports.length → ∃ t, exec (.unitFailure 5 die u) s = .next t ∧
    (t.port u).st = (if (s.port u).st = 2 then 1 else (s.port u).st)) ∧
  (∀ (s : State) (die u : Nat), s.blocks = [] → ∃ t, exec (.unitFailure 2 die u) s = .next t ∧ t.mem = s.mem ∧
    ∀ l, l ∈ t.failed ↔ l ∈ s.failed ∨ (homeDie l = die ∧ Config.sliceOf l % 32 = u ∧ (l, true) ∈ s.dcache)) ∧
  ∀ (s : State) (die sensor : Nat) (r : BitVec 16) (h : Health), die < s.dies.length → h = (s.die die).health →
    (∃ t, exec (.thermalStepUp die sensor r) s = .next t ∧ OnlyDie s t die ∧
      (t.die die).health.step = (if 1000 < r.toNat then min 8 (h.step + 1) else h.step) ∧
      (t.die die).health.fluxmax = max h.fluxmax r.toNat ∧ (t.die die).health.hflux = setAt sensor r.toNat h.hflux) ∧
    (∃ t, exec (.thermalStepDown die r) s = .next t ∧ OnlyDie s t die ∧
      (t.die die).health.step = (if r.toNat < 900 then max h.floor (h.step - 1) else h.step)) ∧
    (∃ t, exec (.thermalResume die r) s = .next t ∧ OnlyDie s t die ∧
      (t.die die).health.stopped = (h.stopped && !(decide (r.toNat < 900)))) ∧
    (s.blocks = [] → ∃ t, exec (.thermalStop die sensor r) s = .next t ∧ OnlyDie s t die ∧
      (t.die die).health.stopped = (h.stopped || decide (1150 < r.toNat ∧ h.step = 8)))

/-! ## Events: host, boot, fabric, links -/

/-- The host. DIE_CACHE_WRITEBACK changes no byte, for the model holds the bytes of memory once (log entry 86); a dirty line that
is written back stays clean and is counted for its stack, and a line that the die cache holds is not refilled (R454, R474). HOST_BAR_ACCESS: a read within one line of BAR2 is completed
with the bytes of the memory behind the aperture, or with Completer Abort where the line has failed, and a write changes those
bytes (R455, R486); BAR0 gives the registers (R485; its place in the numbering of offsets is the model's own, log entry 1); in
recovery only BOOTST answers (R491). PCIE_COMPLETION and PCIE_REQUEST_TIMEOUT of an open request end it, and a failure is logged
(R487, R535), also that of a signal of an engine (log entry 75). -/
def Obligations.HostEvents : Prop :=
  (∀ (s : State) (pa : Nat) (wr : Bool), ∃ t, exec (.dieCacheWriteback pa wr) s = .next t ∧
    t = { s with regs := t.regs, dcache := t.dcache } ∧
    (wr = true → (tget (lineOf pa) s.dcache = some true → tget (lineOf pa) t.dcache = some false ∧
        t.regs = { s.regs with hwr := modAt (stackOf (lineOf pa)) (· + 1) s.regs.hwr }) ∧
      (tget (lineOf pa) s.dcache ≠ some true → t = s)) ∧
    (wr = false → (tget (lineOf pa) s.dcache).isSome = true → t = s)) ∧
  (∀ (s : State) (wr : Bool) (off n : Nat) (bs : List Byte), s.boot.stage = 15 →
    (wr = true ∨ off < 2 ^ 63 ∨ 2 ^ 63 + 8 < off + n) → exec (.hostBarAccess wr off n bs) s = .next s) ∧
  (∀ (s : State) (off n pa : Nat) (bs : List Byte), s.boot.stage ≠ 15 → off < 2 ^ 63 → 0 < n → off % 64 + n ≤ 64 →
    s.barPa off = some pa →
    (s.lineFailed (lineOf pa) = true → exec (.hostBarAccess false off n bs) s =
      .next { s with cpls := s.cpls ++ [⟨2, off, 2, []⟩] }) ∧
    (s.lineFailed (lineOf pa) = false → ∃ t, exec (.hostBarAccess false off n bs) s = .next t ∧ t.mem = s.mem ∧
      t.cpls = s.cpls ++ [⟨2, off, 0, s.readPa pa n⟩]) ∧
    (bs.length = n → exec (.hostBarAccess true off n bs) s = .next (s.writePa pa bs))) ∧
  (∀ (s : State) (off n : Nat) (bs : List Byte), off + n ≤ 2 ^ 26 →
    ((s.boot.stage ≠ 15 ∨ off + n ≤ 8) → exec (.hostBarAccess false (2 ^ 63 + off) n bs) s =
      .next { s with cpls := s.cpls ++ [⟨0, off, 0, s.mmioRead off n⟩] }) ∧
    (s.boot.stage ≠ 15 → exec (.hostBarAccess true (2 ^ 63 + off) n bs) s = .next (s.mmioWrite off (bs.take n) false))) ∧
  ∀ (s : State) (r : PcieReq), s.pcie = [r] → r.open_ = true →
    let u : State := { s with pcie := [] }
    let failed (st : Nat) : State := if r.sig.isSome = true then u.xerr r st
      else (u.xerr r st).routeAnswer r.course r.op r.lane none
    (∀ st data, exec (.pcieCompletion r.id true st data) s = .next (if r.sig.isSome = true then u
      else u.routeAnswer r.course r.op r.lane (some (padTo (if r.kind = 0 then r.n else 4) data))) ∧
      exec (.pcieCompletion r.id false st data) s = .next (failed st.toNat)) ∧
    exec (.pcieRequestTimeout r.id) s = .next (failed 0xFF)

/-- The fused security version is raised only after a boot that reached STAGE 5, only to the lowest version of the running
images, at most to 64, and never lowered (R492). -/
def Obligations.FusedVersion : Prop :=
  ∀ s : State, ∃ t, exec .svnFuseRaise s = .next t ∧ t = { s with boot := { s.boot with fsvn := t.boot.fsvn } } ∧
    s.boot.fsvn ≤ t.boot.fsvn ∧ (s.boot.stage ≠ 5 → t.boot.fsvn = s.boot.fsvn) ∧
    (s.boot.images = [] → t.boot.fsvn = s.boot.fsvn) ∧
    (s.boot.stage = 5 → s.boot.images ≠ [] → ∃ img ∈ s.boot.images,
      (∀ j ∈ s.boot.images, byteAt img 6 2 ≤ byteAt j 6 2) ∧
      t.boot.fsvn = max s.boot.fsvn (min 64 (byteAt img 6 2)))

/-- Power-on takes the first bank whose four images are accepted and starts them one after another, one a step (STAGE 1 to 4,
then 5), and else ends in recovery with the reason (R490, R491), which is that of the second bank, the model's reading (log
entry 12); a package that has power stays as it is; a loss of power leaves what reset leaves, but the fuses and the flash (R458,
R492), the model's reading (log entry 82); the responder answers each request with its body, starts a transcript with GET_VERSION, and signs CHALLENGE and a signed
GET_MEASUREMENTS (R493); without power it answers nothing. What the bodies and signatures hold is opaque (log entries 14
and 15). -/
def Obligations.BootEvents : Prop :=
  (∀ (s : State) (a b : List (List Byte)) (ilv : Option Nat),
    (s.boot.powered = true → exec (.powerOn a b ilv) s = .next s) ∧
    (s.boot.powered = false → ∃ t, exec (.powerOn a b ilv) s = .next t ∧ t.boot.powered = true ∧
      t.boot.fsvn = s.boot.fsvn ∧
      (bankErr s.boot.fsvn a = 0 → t.boot.stage = 0 ∧ t.boot.images = [] ∧ t.boot.todo = a.take 4 ∧ t.boot.bankb = false) ∧
      (bankErr s.boot.fsvn a ≠ 0 → bankErr s.boot.fsvn b = 0 →
        t.boot.stage = 0 ∧ t.boot.images = [] ∧ t.boot.todo = b.take 4 ∧ t.boot.bankb = true) ∧
      (bankErr s.boot.fsvn a ≠ 0 → bankErr s.boot.fsvn b ≠ 0 → t.boot.stage = 15 ∧ t.boot.err = bankErr s.boot.fsvn b ∧
        t.boot.images = [] ∧ t.boot.todo = []))) ∧
  (∀ (b : Boot) (i j k l : List Byte), b.stage = 0 → b.images = [] → b.todo = [i, j, k, l] →
    b.advance = { b with stage := 1, images := [i], todo := [j, k, l] } ∧
    b.advance.advance = { b with stage := 2, images := [i, j], todo := [k, l] } ∧
    b.advance.advance.advance = { b with stage := 3, images := [i, j, k], todo := [l] } ∧
    b.advance.advance.advance.advance = { b with stage := 4, images := [i, j, k, l], todo := [] } ∧
    b.advance.advance.advance.advance.advance = { b with stage := 5, images := [i, j, k, l], todo := [] }) ∧
  (∀ b : Boot, b.todo = [] → (b.stage = 0 ∨ 5 ≤ b.stage) → b.advance = b) ∧
  (∀ s : State, s.tick.boot = s.boot.advance) ∧
  (∀ s : State, ∃ t, exec .powerLoss s = .next t ∧ t.boot.fsvn = s.boot.fsvn ∧ t.boot.flashIlv = s.boot.flashIlv ∧
    t = { State.reset with fv := s.fv, uid := s.uid, agenda := s.agenda, boot := t.boot }) ∧
  ∀ s : State,
    (s.boot.powered = false → ∀ i, (i = .getVersion ∨ i = .getCapabilities ∨ i = .getDigests ∨
      (∃ l, i = .negotiateAlgorithms l) ∨ (∃ k o n, i = .getCertificate k o n) ∨ (∃ k l, i = .challenge k l) ∨
      ∃ k l g, i = .getMeasurements k l g) → exec i s = .next s) ∧
    (s.boot.powered = true →
      exec .getVersion s = .next (s.onBoot fun b => { b with response := [0x13], transcript := [0x13] }) ∧
      exec .getCapabilities s = .next (s.onBoot fun b => b.answers [] (Config.spdmBody 1 b.transcript)) ∧
      (∀ l, exec (.negotiateAlgorithms l) s =
        .next (s.onBoot fun b => { b.answers l (Config.spdmBody 2 (b.transcript ++ l)) with algs := l })) ∧
      exec .getDigests s = .next (s.onBoot fun b => b.answers [] (Config.sha384 Config.certChain)) ∧
      (∀ o n, exec (.getCertificate 0 o n) s = .next (s.onBoot fun b => b.answers [] ((Config.certChain.drop o).take n))) ∧
      (∀ k o n, k ≠ 0 → exec (.getCertificate k o n) s = .next (s.onBoot fun b => b.answers [] [])) ∧
      (∀ l, exec (.challenge 0 l) s = .next (s.onBoot fun b => b.signed l (Config.sha384 Config.certChain))) ∧
      (∀ k l, k ≠ 0 → exec (.challenge k l) s = .next (s.onBoot fun b => b.signed l [])) ∧
      ∀ k l, exec (.getMeasurements k l true) s = .next (s.onBoot fun b => b.signed l (s.measurement k)) ∧
        exec (.getMeasurements k l false) s = .next (s.onBoot fun b => b.answers l (s.measurement k)))

/-- Requests of other packages: one that has come before is answered as before and not performed again (R513). FLIT_READ is
answered with the bytes, FLIT_WRITE stores them, FLIT_ATOMIC updates its words at once, each by the operation of its code, and
answers the old ones when it is asked for (R511 to R515). The model's readings: what cannot be read or performed is not answered
(log entry 71); FLIT_REDUCE and FLIT_MESSAGE are recorded and acknowledged, and the header of an answer (log entry 72); an atomic
of several words (log entry 102). FLIT_RESPONSE or FABRIC_REQUEST_TIMEOUT ends the request that waits for it, and RESPONSE_RETENTION_EXPIRY forgets a kept response
(R513); a flit for another package goes on. -/
def Obligations.FabricEvents : Prop :=
  (∀ (s : State) (f : Flit), f.dst.toNat = s.ownIdx → f.rsp = false →
    (s.fab.kept.find? fun k => k.1 == f.src && k.2.1 == f.tag) = none →
    let pa : Nat := fabLocal f.addr.toNat
    let n : Nat := f.len.toNat
    let answers (t : State) (bs : List Byte) : State :=
      (t.onFab fun x => { x with kept := x.kept ++ [(f.src, f.tag, answerFlit f s.ownIdx bs)] }).sendFlit
        (answerFlit f s.ownIdx bs)
    (f.kind = 0 → exec (.flitRead f) s =
      .next (if s.readableAt pa n = true then answers (s.dieUse false pa n) (s.readPa pa n) else s)) ∧
    (f.kind = 1 → exec (.flitWrite f) s =
      .next (if stored s.regs.hbmilv pa = true then answers (s.writeLines 5 pa (padTo n f.payload)) [] else s)) ∧
    (f.kind = 2 → ∃ k, k = 4 * flitWords f ∧
      ((s.readableAt pa k = false ∨ flitOpOk f = false) → exec (.flitAtomic f) s = .next s) ∧
      (s.readableAt pa k = true → flitOpOk f = true → ∃ old new, old = s.readPa pa k ∧
        exec (.flitAtomic f) s = .next (answers ((s.dieUse false pa k).writePa pa new)
          (if f.op.getLsbD 6 = true then old else [])) ∧
        new.length = k ∧ ∀ i, i < flitWords f → ∃ w v : Word, w = wordOf ((old.drop (4 * i)).take 4) ∧
          v = wordOf ((f.payload.drop (4 * i)).take 4) ∧
          wordOf ((new.drop (4 * i)).take 4) = (if f.op.getLsbD 4 = true
            then (if w = wordOf ((f.payload.drop 4).take 4) then v else w) else amoWord (f.op.toNat % 16) w v))) ∧
    (f.kind = 3 → exec (.flitReduce f) s =
      .next (answers (s.onFab fun x => { x with reduces := x.reduces ++ [f] }) [])) ∧
    (f.kind = 4 → exec (.flitMessage f) s =
      .next (answers (s.onFab fun x => { x with messages := x.messages ++ [f] }) []))) ∧
  (∀ (s : State) (f a : Flit) (i : Instr), f.dst.toNat = s.ownIdx → f.rsp = false →
    (s.fab.kept.find? fun k => k.1 == f.src && k.2.1 == f.tag) = some (f.src, f.tag, a) →
    (f.kind = 0 ∧ i = .flitRead f ∨ f.kind = 1 ∧ i = .flitWrite f ∨ f.kind = 2 ∧ i = .flitAtomic f ∨
      f.kind = 3 ∧ i = .flitReduce f ∨ f.kind = 4 ∧ i = .flitMessage f) → exec i s = .next (s.sendFlit a)) ∧
  (∀ (s : State) (f : Flit), f.rsp = true → f.dst.toNat ≠ s.ownIdx → exec (.flitResponse f) s = .next (s.sendFlit f)) ∧
  (∀ (s : State) (f : Flit) (r : FabReq), f.rsp = true → f.dst.toNat = s.ownIdx → s.fab.reqs = [r] → r.tag = f.tag →
    r.dst = f.src → ∃ u : State,
      u = s.onFab (fun x => { x with reqs := [], oldWay := x.oldWay.filter fun o => o.2 != r.tag }) ∧
      exec (.flitResponse f) s = .next (if r.sig.isSome = true then u
        else u.routeAnswer r.course r.op r.lane (some (if f.payload = [] then [0, 0, 0, 0] else f.payload)))) ∧
  (∀ (s : State) (r : FabReq), s.fab.reqs = [r] → ∃ u : State,
    u = s.onFab (fun x => { x with reqs := [], oldWay := x.oldWay.filter fun o => o.2 != r.tag }) ∧
    exec (.fabricRequestTimeout r.tag) s = .next (match r.sig with
      | some g => u.csigFails g
      | none => u.routeAnswer r.course r.op r.lane none)) ∧
  ∀ (s : State) (src : BitVec 10) (tag : BitVec 16), ∃ t, exec (.responseRetentionExpiry src tag) s = .next t ∧
    t = { s with fab := { s.fab with kept := t.fab.kept } } ∧
    ∀ k, k ∈ t.fab.kept ↔ k ∈ s.fab.kept ∧ ¬ (k.1 = src ∧ k.2.1 = tag)

/-- Links. FLIT_RECEIVE: a flit whose CRC fails is counted and one out of order is not, and neither is performed; the first of
them is answered with NAK, in an idle flit that takes a SEQ, the model's reading (log entry 73); an idle flit in order is taken
by the link, which acknowledges it in an idle flit of its own where it has sent nothing else (R516, R517; log entries 73 and 74
for when idle flits go). FLIT_REPLAY_TIMEOUT: a replay without acknowledgement is counted, and the seventeenth retrains the link,
the model's reading of the sixteen (R517, log entry 73); with nothing to replay an idle flit goes. LINK_TRAIN_TIMEOUT: a link that
does not train is fenced, and a port that is not in use stays as it is; LINK_TRAINED: one that trains comes up with its lanes, a
port of the Orbit as well (R508, R509, R517). -/
def Obligations.LinkEvents : Prop :=
  (∀ (s : State) (p : Nat) (bs : List Byte), p < 6 → s.fab.ports.length = 14 → (s.port p).st = 2 →
    (bs.length ≠ 256 ∨ (crc64 (bs.take 240 ++ bs.drop 248)).toNat ≠ leVal ((bs.drop 240).take 8)) →
    (s.port p).nakSent = true → (s.port p).nak = false →
    exec (.flitReceive p bs) s = .next (s.onPort p fun k => { k with crcerr := min (k.crcerr + 1) (2 ^ 32 - 1) })) ∧
  (∀ (s : State) (p : Nat) (bs : List Byte), p < 6 → s.fab.ports.length = 14 → (s.port p).st = 2 → bs.length = 256 →
    (crc64 (bs.take 240 ++ bs.drop 248)).toNat = leVal ((bs.drop 240).take 8) →
    leVal ((bs.drop 248).take 8) % 2 ^ 24 ≠ (s.port p).seqRx % 2 ^ 24 →
    ((s.port p).nakSent = true → (s.port p).nak = false → exec (.flitReceive p bs) s = .next s) ∧
    ((s.port p).nakSent = false → (s.port p).unacked = [] → ∃ t, exec (.flitReceive p bs) s = .next t ∧
      (t.port p).nakSent = true ∧ (t.port p).nak = false ∧ (t.port p).seqTx = (s.port p).seqTx + 1)) ∧
  (∀ (s : State) (p : Nat) (bs : List Byte) (f : Flit), p < 6 → (s.port p).st = 2 → bs.length = 256 →
    (crc64 (bs.take 240 ++ bs.drop 248)).toNat = leVal ((bs.drop 240).take 8) →
    leVal ((bs.drop 248).take 8) % 2 ^ 24 = (s.port p).seqRx % 2 ^ 24 → leVal ((bs.drop 248).take 8) / 2 ^ 50 = 0 →
    flitOf bs = some f → f.kind = 7 → ((s.onPort p fun k => k.accept (leVal ((bs.drop 248).take 8))).port p).nak = false →
    exec (.flitReceive p bs) s =
      .next ((s.onPort p fun k => k.accept (leVal ((bs.drop 248).take 8))).sayIdle p (s.port p).seqTx)) ∧
  (∀ (s : State) (p before : Nat), (((s.port p).st ≠ 2 ∨ (s.port p).seqTx ≠ before) → s.sayIdle p before = s) ∧
    (p < s.fab.ports.length → (s.port p).st = 2 → (s.port p).seqTx = before → (s.port p).unacked.length < 1024 →
      ((s.sayIdle p before).port p).seqTx = before + 1 ∧ ((s.sayIdle p before).port p).nak = false ∧
      ((s.sayIdle p before).port p).unacked.length = (s.port p).unacked.length + 1)) ∧
  (∀ (s : State) (p : Nat), p < 6 → (s.port p).st = 2 → (s.port p).unacked = [] →
    exec (.flitReplayTimeout p) s = .next (s.sayIdle p (s.port p).seqTx)) ∧
  (∀ (s : State) (p : Nat), p < 6 → p < s.fab.ports.length → (s.port p).st = 2 → (s.port p).unacked ≠ [] →
    ∃ t, exec (.flitReplayTimeout p) s = .next t ∧
      t.port p = (if 16 ≤ (s.port p).replays then { s.port p with st := 1, replays := 0 }
        else { s.port p with replays := (s.port p).replays + 1, retry := min ((s.port p).retry + 1) (2 ^ 16 - 1) }) ∧
      ∀ q, q ≠ p → t.port q = s.port q) ∧
  (∀ (s : State) (p : Nat), (s.portUsed p = false → exec (.linkTrainTimeout p) s = .next s) ∧
    (s.portUsed p = true → p < s.fab.ports.length → (s.port p).st = 1 → (s.port p).unacked = [] → s.fab.sent = [] →
      s.fab.transit = [] → s.fab.reqs = [] → ∃ t, exec (.linkTrainTimeout p) s = .next t ∧ (t.port p).st = 3 ∧
        (t.port p).lanes = 0 ∧ ∀ q, q ≠ p → t.port q = s.port q)) ∧
  ∀ (s : State) (p : Nat) (l : BitVec 8), p < s.fab.ports.length → s.fab.sent = [] → s.fab.transit = [] →
    ((s.portUsed p = true ∨ (6 ≤ p ∧ p < 14)) → (s.port p).st < 2 → l.toNat ≤ 16 → ∃ t, exec (.linkTrained p l) s = .next t ∧
      (t.port p).st = 2 ∧ (t.port p).lanes = l.toNat ∧ ∀ q, q ≠ p → t.port q = s.port q) ∧
    (s.portUsed p = false → (p < 6 ∨ 14 ≤ p) → exec (.linkTrained p l) s = .next s)

end
end

