-- ==== Sys2Proof/Laws/State.lean ====
section
/-! SUPPORT. Every named update of the state leaves the other fields as they are: one lemma for each field and each update. -/

namespace Sys2Proof.Machine

variable (s : State)

/-! ## setCourse -/

@[simp] theorem State.setCourse_time (c : Nat) (x : Course) : (s.setCourse c x).time = s.time := rfl
@[simp] theorem State.setCourse_fv (c : Nat) (x : Course) : (s.setCourse c x).fv = s.fv := rfl
@[simp] theorem State.setCourse_uid (c : Nat) (x : Course) : (s.setCourse c x).uid = s.uid := rfl
@[simp] theorem State.setCourse_agenda (c : Nat) (x : Course) : (s.setCourse c x).agenda = s.agenda := rfl
@[simp] theorem State.setCourse_turn (c : Nat) (x : Course) : (s.setCourse c x).turn = s.turn := rfl
@[simp] theorem State.setCourse_phase (c : Nat) (x : Course) : (s.setCourse c x).phase = s.phase := rfl
@[simp] theorem State.setCourse_iss (c : Nat) (x : Course) : (s.setCourse c x).iss = s.iss := rfl
@[simp] theorem State.setCourse_rowq (c : Nat) (x : Course) : (s.setCourse c x).rowq = s.rowq := rfl
@[simp] theorem State.setCourse_rowbuf (c : Nat) (x : Course) : (s.setCourse c x).rowbuf = s.rowbuf := rfl
@[simp] theorem State.setCourse_blocks (c : Nat) (x : Course) : (s.setCourse c x).blocks = s.blocks := rfl
@[simp] theorem State.setCourse_cores (c : Nat) (x : Course) : (s.setCourse c x).cores = s.cores := rfl
@[simp] theorem State.setCourse_dies (c : Nat) (x : Course) : (s.setCourse c x).dies = s.dies := rfl
@[simp] theorem State.setCourse_ctxs (c : Nat) (x : Course) : (s.setCourse c x).ctxs = s.ctxs := rfl
@[simp] theorem State.setCourse_mem (c : Nat) (x : Course) : (s.setCourse c x).mem = s.mem := rfl
@[simp] theorem State.setCourse_failed (c : Nat) (x : Course) : (s.setCourse c x).failed = s.failed := rfl
@[simp] theorem State.setCourse_healed (c : Nat) (x : Course) : (s.setCourse c x).healed = s.healed := rfl
@[simp] theorem State.setCourse_dcache (c : Nat) (x : Course) : (s.setCourse c x).dcache = s.dcache := rfl
@[simp] theorem State.setCourse_tlb (c : Nat) (x : Course) : (s.setCourse c x).tlb = s.tlb := rfl
@[simp] theorem State.setCourse_faults (c : Nat) (x : Course) : (s.setCourse c x).faults = s.faults := rfl
@[simp] theorem State.setCourse_answers (c : Nat) (x : Course) : (s.setCourse c x).answers = s.answers := rfl
@[simp] theorem State.setCourse_pkts (c : Nat) (x : Course) : (s.setCourse c x).pkts = s.pkts := rfl
@[simp] theorem State.setCourse_tasks (c : Nat) (x : Course) : (s.setCourse c x).tasks = s.tasks := rfl
@[simp] theorem State.setCourse_graphs (c : Nat) (x : Course) : (s.setCourse c x).graphs = s.graphs := rfl
@[simp] theorem State.setCourse_conts (c : Nat) (x : Course) : (s.setCourse c x).conts = s.conts := rfl
@[simp] theorem State.setCourse_staging (c : Nat) (x : Course) : (s.setCourse c x).staging = s.staging := rfl
@[simp] theorem State.setCourse_colls (c : Nat) (x : Course) : (s.setCourse c x).colls = s.colls := rfl
@[simp] theorem State.setCourse_pcie (c : Nat) (x : Course) : (s.setCourse c x).pcie = s.pcie := rfl
@[simp] theorem State.setCourse_cpls (c : Nat) (x : Course) : (s.setCourse c x).cpls = s.cpls := rfl
@[simp] theorem State.setCourse_fab (c : Nat) (x : Course) : (s.setCourse c x).fab = s.fab := rfl
@[simp] theorem State.setCourse_regs (c : Nat) (x : Course) : (s.setCourse c x).regs = s.regs := rfl
@[simp] theorem State.setCourse_boot (c : Nat) (x : Course) : (s.setCourse c x).boot = s.boot := rfl

/-! ## setBlock -/

@[simp] theorem State.setBlock_time (b : Nat) (x : Block) : (s.setBlock b x).time = s.time := rfl
@[simp] theorem State.setBlock_fv (b : Nat) (x : Block) : (s.setBlock b x).fv = s.fv := rfl
@[simp] theorem State.setBlock_uid (b : Nat) (x : Block) : (s.setBlock b x).uid = s.uid := rfl
@[simp] theorem State.setBlock_agenda (b : Nat) (x : Block) : (s.setBlock b x).agenda = s.agenda := rfl
@[simp] theorem State.setBlock_turn (b : Nat) (x : Block) : (s.setBlock b x).turn = s.turn := rfl
@[simp] theorem State.setBlock_phase (b : Nat) (x : Block) : (s.setBlock b x).phase = s.phase := rfl
@[simp] theorem State.setBlock_iss (b : Nat) (x : Block) : (s.setBlock b x).iss = s.iss := rfl
@[simp] theorem State.setBlock_rowq (b : Nat) (x : Block) : (s.setBlock b x).rowq = s.rowq := rfl
@[simp] theorem State.setBlock_rowbuf (b : Nat) (x : Block) : (s.setBlock b x).rowbuf = s.rowbuf := rfl
@[simp] theorem State.setBlock_courses (b : Nat) (x : Block) : (s.setBlock b x).courses = s.courses := rfl
@[simp] theorem State.setBlock_cores (b : Nat) (x : Block) : (s.setBlock b x).cores = s.cores := rfl
@[simp] theorem State.setBlock_dies (b : Nat) (x : Block) : (s.setBlock b x).dies = s.dies := rfl
@[simp] theorem State.setBlock_ctxs (b : Nat) (x : Block) : (s.setBlock b x).ctxs = s.ctxs := rfl
@[simp] theorem State.setBlock_mem (b : Nat) (x : Block) : (s.setBlock b x).mem = s.mem := rfl
@[simp] theorem State.setBlock_failed (b : Nat) (x : Block) : (s.setBlock b x).failed = s.failed := rfl
@[simp] theorem State.setBlock_healed (b : Nat) (x : Block) : (s.setBlock b x).healed = s.healed := rfl
@[simp] theorem State.setBlock_dcache (b : Nat) (x : Block) : (s.setBlock b x).dcache = s.dcache := rfl
@[simp] theorem State.setBlock_tlb (b : Nat) (x : Block) : (s.setBlock b x).tlb = s.tlb := rfl
@[simp] theorem State.setBlock_faults (b : Nat) (x : Block) : (s.setBlock b x).faults = s.faults := rfl
@[simp] theorem State.setBlock_answers (b : Nat) (x : Block) : (s.setBlock b x).answers = s.answers := rfl
@[simp] theorem State.setBlock_pkts (b : Nat) (x : Block) : (s.setBlock b x).pkts = s.pkts := rfl
@[simp] theorem State.setBlock_tasks (b : Nat) (x : Block) : (s.setBlock b x).tasks = s.tasks := rfl
@[simp] theorem State.setBlock_graphs (b : Nat) (x : Block) : (s.setBlock b x).graphs = s.graphs := rfl
@[simp] theorem State.setBlock_conts (b : Nat) (x : Block) : (s.setBlock b x).conts = s.conts := rfl
@[simp] theorem State.setBlock_staging (b : Nat) (x : Block) : (s.setBlock b x).staging = s.staging := rfl
@[simp] theorem State.setBlock_colls (b : Nat) (x : Block) : (s.setBlock b x).colls = s.colls := rfl
@[simp] theorem State.setBlock_pcie (b : Nat) (x : Block) : (s.setBlock b x).pcie = s.pcie := rfl
@[simp] theorem State.setBlock_cpls (b : Nat) (x : Block) : (s.setBlock b x).cpls = s.cpls := rfl
@[simp] theorem State.setBlock_fab (b : Nat) (x : Block) : (s.setBlock b x).fab = s.fab := rfl
@[simp] theorem State.setBlock_regs (b : Nat) (x : Block) : (s.setBlock b x).regs = s.regs := rfl
@[simp] theorem State.setBlock_boot (b : Nat) (x : Block) : (s.setBlock b x).boot = s.boot := rfl

/-! ## setCore -/

@[simp] theorem State.setCore_time (k : Nat × Nat) (x : Core) : (s.setCore k x).time = s.time := rfl
@[simp] theorem State.setCore_fv (k : Nat × Nat) (x : Core) : (s.setCore k x).fv = s.fv := rfl
@[simp] theorem State.setCore_uid (k : Nat × Nat) (x : Core) : (s.setCore k x).uid = s.uid := rfl
@[simp] theorem State.setCore_agenda (k : Nat × Nat) (x : Core) : (s.setCore k x).agenda = s.agenda := rfl
@[simp] theorem State.setCore_turn (k : Nat × Nat) (x : Core) : (s.setCore k x).turn = s.turn := rfl
@[simp] theorem State.setCore_phase (k : Nat × Nat) (x : Core) : (s.setCore k x).phase = s.phase := rfl
@[simp] theorem State.setCore_iss (k : Nat × Nat) (x : Core) : (s.setCore k x).iss = s.iss := rfl
@[simp] theorem State.setCore_rowq (k : Nat × Nat) (x : Core) : (s.setCore k x).rowq = s.rowq := rfl
@[simp] theorem State.setCore_rowbuf (k : Nat × Nat) (x : Core) : (s.setCore k x).rowbuf = s.rowbuf := rfl
@[simp] theorem State.setCore_courses (k : Nat × Nat) (x : Core) : (s.setCore k x).courses = s.courses := rfl
@[simp] theorem State.setCore_blocks (k : Nat × Nat) (x : Core) : (s.setCore k x).blocks = s.blocks := rfl
@[simp] theorem State.setCore_dies (k : Nat × Nat) (x : Core) : (s.setCore k x).dies = s.dies := rfl
@[simp] theorem State.setCore_ctxs (k : Nat × Nat) (x : Core) : (s.setCore k x).ctxs = s.ctxs := rfl
@[simp] theorem State.setCore_mem (k : Nat × Nat) (x : Core) : (s.setCore k x).mem = s.mem := rfl
@[simp] theorem State.setCore_failed (k : Nat × Nat) (x : Core) : (s.setCore k x).failed = s.failed := rfl
@[simp] theorem State.setCore_healed (k : Nat × Nat) (x : Core) : (s.setCore k x).healed = s.healed := rfl
@[simp] theorem State.setCore_dcache (k : Nat × Nat) (x : Core) : (s.setCore k x).dcache = s.dcache := rfl
@[simp] theorem State.setCore_tlb (k : Nat × Nat) (x : Core) : (s.setCore k x).tlb = s.tlb := rfl
@[simp] theorem State.setCore_faults (k : Nat × Nat) (x : Core) : (s.setCore k x).faults = s.faults := rfl
@[simp] theorem State.setCore_answers (k : Nat × Nat) (x : Core) : (s.setCore k x).answers = s.answers := rfl
@[simp] theorem State.setCore_pkts (k : Nat × Nat) (x : Core) : (s.setCore k x).pkts = s.pkts := rfl
@[simp] theorem State.setCore_tasks (k : Nat × Nat) (x : Core) : (s.setCore k x).tasks = s.tasks := rfl
@[simp] theorem State.setCore_graphs (k : Nat × Nat) (x : Core) : (s.setCore k x).graphs = s.graphs := rfl
@[simp] theorem State.setCore_conts (k : Nat × Nat) (x : Core) : (s.setCore k x).conts = s.conts := rfl
@[simp] theorem State.setCore_staging (k : Nat × Nat) (x : Core) : (s.setCore k x).staging = s.staging := rfl
@[simp] theorem State.setCore_colls (k : Nat × Nat) (x : Core) : (s.setCore k x).colls = s.colls := rfl
@[simp] theorem State.setCore_pcie (k : Nat × Nat) (x : Core) : (s.setCore k x).pcie = s.pcie := rfl
@[simp] theorem State.setCore_cpls (k : Nat × Nat) (x : Core) : (s.setCore k x).cpls = s.cpls := rfl
@[simp] theorem State.setCore_fab (k : Nat × Nat) (x : Core) : (s.setCore k x).fab = s.fab := rfl
@[simp] theorem State.setCore_regs (k : Nat × Nat) (x : Core) : (s.setCore k x).regs = s.regs := rfl
@[simp] theorem State.setCore_boot (k : Nat × Nat) (x : Core) : (s.setCore k x).boot = s.boot := rfl

/-! ## onCore -/

@[simp] theorem State.onCore_time (k : Nat × Nat) (f : Core → Core) : (s.onCore k f).time = s.time := rfl
@[simp] theorem State.onCore_fv (k : Nat × Nat) (f : Core → Core) : (s.onCore k f).fv = s.fv := rfl
@[simp] theorem State.onCore_uid (k : Nat × Nat) (f : Core → Core) : (s.onCore k f).uid = s.uid := rfl
@[simp] theorem State.onCore_agenda (k : Nat × Nat) (f : Core → Core) : (s.onCore k f).agenda = s.agenda := rfl
@[simp] theorem State.onCore_turn (k : Nat × Nat) (f : Core → Core) : (s.onCore k f).turn = s.turn := rfl
@[simp] theorem State.onCore_phase (k : Nat × Nat) (f : Core → Core) : (s.onCore k f).phase = s.phase := rfl
@[simp] theorem State.onCore_iss (k : Nat × Nat) (f : Core → Core) : (s.onCore k f).iss = s.iss := rfl
@[simp] theorem State.onCore_rowq (k : Nat × Nat) (f : Core → Core) : (s.onCore k f).rowq = s.rowq := rfl
@[simp] theorem State.onCore_rowbuf (k : Nat × Nat) (f : Core → Core) : (s.onCore k f).rowbuf = s.rowbuf := rfl
@[simp] theorem State.onCore_courses (k : Nat × Nat) (f : Core → Core) : (s.onCore k f).courses = s.courses := rfl
@[simp] theorem State.onCore_blocks (k : Nat × Nat) (f : Core → Core) : (s.onCore k f).blocks = s.blocks := rfl
@[simp] theorem State.onCore_dies (k : Nat × Nat) (f : Core → Core) : (s.onCore k f).dies = s.dies := rfl
@[simp] theorem State.onCore_ctxs (k : Nat × Nat) (f : Core → Core) : (s.onCore k f).ctxs = s.ctxs := rfl
@[simp] theorem State.onCore_mem (k : Nat × Nat) (f : Core → Core) : (s.onCore k f).mem = s.mem := rfl
@[simp] theorem State.onCore_failed (k : Nat × Nat) (f : Core → Core) : (s.onCore k f).failed = s.failed := rfl
@[simp] theorem State.onCore_healed (k : Nat × Nat) (f : Core → Core) : (s.onCore k f).healed = s.healed := rfl
@[simp] theorem State.onCore_dcache (k : Nat × Nat) (f : Core → Core) : (s.onCore k f).dcache = s.dcache := rfl
@[simp] theorem State.onCore_tlb (k : Nat × Nat) (f : Core → Core) : (s.onCore k f).tlb = s.tlb := rfl
@[simp] theorem State.onCore_faults (k : Nat × Nat) (f : Core → Core) : (s.onCore k f).faults = s.faults := rfl
@[simp] theorem State.onCore_answers (k : Nat × Nat) (f : Core → Core) : (s.onCore k f).answers = s.answers := rfl
@[simp] theorem State.onCore_pkts (k : Nat × Nat) (f : Core → Core) : (s.onCore k f).pkts = s.pkts := rfl
@[simp] theorem State.onCore_tasks (k : Nat × Nat) (f : Core → Core) : (s.onCore k f).tasks = s.tasks := rfl
@[simp] theorem State.onCore_graphs (k : Nat × Nat) (f : Core → Core) : (s.onCore k f).graphs = s.graphs := rfl
@[simp] theorem State.onCore_conts (k : Nat × Nat) (f : Core → Core) : (s.onCore k f).conts = s.conts := rfl
@[simp] theorem State.onCore_staging (k : Nat × Nat) (f : Core → Core) : (s.onCore k f).staging = s.staging := rfl
@[simp] theorem State.onCore_colls (k : Nat × Nat) (f : Core → Core) : (s.onCore k f).colls = s.colls := rfl
@[simp] theorem State.onCore_pcie (k : Nat × Nat) (f : Core → Core) : (s.onCore k f).pcie = s.pcie := rfl
@[simp] theorem State.onCore_cpls (k : Nat × Nat) (f : Core → Core) : (s.onCore k f).cpls = s.cpls := rfl
@[simp] theorem State.onCore_fab (k : Nat × Nat) (f : Core → Core) : (s.onCore k f).fab = s.fab := rfl
@[simp] theorem State.onCore_regs (k : Nat × Nat) (f : Core → Core) : (s.onCore k f).regs = s.regs := rfl
@[simp] theorem State.onCore_boot (k : Nat × Nat) (f : Core → Core) : (s.onCore k f).boot = s.boot := rfl

/-! ## onDie -/

@[simp] theorem State.onDie_time (d : Nat) (f : Die → Die) : (s.onDie d f).time = s.time := rfl
@[simp] theorem State.onDie_fv (d : Nat) (f : Die → Die) : (s.onDie d f).fv = s.fv := rfl
@[simp] theorem State.onDie_uid (d : Nat) (f : Die → Die) : (s.onDie d f).uid = s.uid := rfl
@[simp] theorem State.onDie_agenda (d : Nat) (f : Die → Die) : (s.onDie d f).agenda = s.agenda := rfl
@[simp] theorem State.onDie_turn (d : Nat) (f : Die → Die) : (s.onDie d f).turn = s.turn := rfl
@[simp] theorem State.onDie_phase (d : Nat) (f : Die → Die) : (s.onDie d f).phase = s.phase := rfl
@[simp] theorem State.onDie_iss (d : Nat) (f : Die → Die) : (s.onDie d f).iss = s.iss := rfl
@[simp] theorem State.onDie_rowq (d : Nat) (f : Die → Die) : (s.onDie d f).rowq = s.rowq := rfl
@[simp] theorem State.onDie_rowbuf (d : Nat) (f : Die → Die) : (s.onDie d f).rowbuf = s.rowbuf := rfl
@[simp] theorem State.onDie_courses (d : Nat) (f : Die → Die) : (s.onDie d f).courses = s.courses := rfl
@[simp] theorem State.onDie_blocks (d : Nat) (f : Die → Die) : (s.onDie d f).blocks = s.blocks := rfl
@[simp] theorem State.onDie_cores (d : Nat) (f : Die → Die) : (s.onDie d f).cores = s.cores := rfl
@[simp] theorem State.onDie_ctxs (d : Nat) (f : Die → Die) : (s.onDie d f).ctxs = s.ctxs := rfl
@[simp] theorem State.onDie_mem (d : Nat) (f : Die → Die) : (s.onDie d f).mem = s.mem := rfl
@[simp] theorem State.onDie_failed (d : Nat) (f : Die → Die) : (s.onDie d f).failed = s.failed := rfl
@[simp] theorem State.onDie_healed (d : Nat) (f : Die → Die) : (s.onDie d f).healed = s.healed := rfl
@[simp] theorem State.onDie_dcache (d : Nat) (f : Die → Die) : (s.onDie d f).dcache = s.dcache := rfl
@[simp] theorem State.onDie_tlb (d : Nat) (f : Die → Die) : (s.onDie d f).tlb = s.tlb := rfl
@[simp] theorem State.onDie_faults (d : Nat) (f : Die → Die) : (s.onDie d f).faults = s.faults := rfl
@[simp] theorem State.onDie_answers (d : Nat) (f : Die → Die) : (s.onDie d f).answers = s.answers := rfl
@[simp] theorem State.onDie_pkts (d : Nat) (f : Die → Die) : (s.onDie d f).pkts = s.pkts := rfl
@[simp] theorem State.onDie_tasks (d : Nat) (f : Die → Die) : (s.onDie d f).tasks = s.tasks := rfl
@[simp] theorem State.onDie_graphs (d : Nat) (f : Die → Die) : (s.onDie d f).graphs = s.graphs := rfl
@[simp] theorem State.onDie_conts (d : Nat) (f : Die → Die) : (s.onDie d f).conts = s.conts := rfl
@[simp] theorem State.onDie_staging (d : Nat) (f : Die → Die) : (s.onDie d f).staging = s.staging := rfl
@[simp] theorem State.onDie_colls (d : Nat) (f : Die → Die) : (s.onDie d f).colls = s.colls := rfl
@[simp] theorem State.onDie_pcie (d : Nat) (f : Die → Die) : (s.onDie d f).pcie = s.pcie := rfl
@[simp] theorem State.onDie_cpls (d : Nat) (f : Die → Die) : (s.onDie d f).cpls = s.cpls := rfl
@[simp] theorem State.onDie_fab (d : Nat) (f : Die → Die) : (s.onDie d f).fab = s.fab := rfl
@[simp] theorem State.onDie_regs (d : Nat) (f : Die → Die) : (s.onDie d f).regs = s.regs := rfl
@[simp] theorem State.onDie_boot (d : Nat) (f : Die → Die) : (s.onDie d f).boot = s.boot := rfl

/-! ## onRegs -/

@[simp] theorem State.onRegs_time (f : Regs → Regs) : (s.onRegs f).time = s.time := rfl
@[simp] theorem State.onRegs_fv (f : Regs → Regs) : (s.onRegs f).fv = s.fv := rfl
@[simp] theorem State.onRegs_uid (f : Regs → Regs) : (s.onRegs f).uid = s.uid := rfl
@[simp] theorem State.onRegs_agenda (f : Regs → Regs) : (s.onRegs f).agenda = s.agenda := rfl
@[simp] theorem State.onRegs_turn (f : Regs → Regs) : (s.onRegs f).turn = s.turn := rfl
@[simp] theorem State.onRegs_phase (f : Regs → Regs) : (s.onRegs f).phase = s.phase := rfl
@[simp] theorem State.onRegs_iss (f : Regs → Regs) : (s.onRegs f).iss = s.iss := rfl
@[simp] theorem State.onRegs_rowq (f : Regs → Regs) : (s.onRegs f).rowq = s.rowq := rfl
@[simp] theorem State.onRegs_rowbuf (f : Regs → Regs) : (s.onRegs f).rowbuf = s.rowbuf := rfl
@[simp] theorem State.onRegs_courses (f : Regs → Regs) : (s.onRegs f).courses = s.courses := rfl
@[simp] theorem State.onRegs_blocks (f : Regs → Regs) : (s.onRegs f).blocks = s.blocks := rfl
@[simp] theorem State.onRegs_cores (f : Regs → Regs) : (s.onRegs f).cores = s.cores := rfl
@[simp] theorem State.onRegs_dies (f : Regs → Regs) : (s.onRegs f).dies = s.dies := rfl
@[simp] theorem State.onRegs_ctxs (f : Regs → Regs) : (s.onRegs f).ctxs = s.ctxs := rfl
@[simp] theorem State.onRegs_mem (f : Regs → Regs) : (s.onRegs f).mem = s.mem := rfl
@[simp] theorem State.onRegs_failed (f : Regs → Regs) : (s.onRegs f).failed = s.failed := rfl
@[simp] theorem State.onRegs_healed (f : Regs → Regs) : (s.onRegs f).healed = s.healed := rfl
@[simp] theorem State.onRegs_dcache (f : Regs → Regs) : (s.onRegs f).dcache = s.dcache := rfl
@[simp] theorem State.onRegs_tlb (f : Regs → Regs) : (s.onRegs f).tlb = s.tlb := rfl
@[simp] theorem State.onRegs_faults (f : Regs → Regs) : (s.onRegs f).faults = s.faults := rfl
@[simp] theorem State.onRegs_answers (f : Regs → Regs) : (s.onRegs f).answers = s.answers := rfl
@[simp] theorem State.onRegs_pkts (f : Regs → Regs) : (s.onRegs f).pkts = s.pkts := rfl
@[simp] theorem State.onRegs_tasks (f : Regs → Regs) : (s.onRegs f).tasks = s.tasks := rfl
@[simp] theorem State.onRegs_graphs (f : Regs → Regs) : (s.onRegs f).graphs = s.graphs := rfl
@[simp] theorem State.onRegs_conts (f : Regs → Regs) : (s.onRegs f).conts = s.conts := rfl
@[simp] theorem State.onRegs_staging (f : Regs → Regs) : (s.onRegs f).staging = s.staging := rfl
@[simp] theorem State.onRegs_colls (f : Regs → Regs) : (s.onRegs f).colls = s.colls := rfl
@[simp] theorem State.onRegs_pcie (f : Regs → Regs) : (s.onRegs f).pcie = s.pcie := rfl
@[simp] theorem State.onRegs_cpls (f : Regs → Regs) : (s.onRegs f).cpls = s.cpls := rfl
@[simp] theorem State.onRegs_fab (f : Regs → Regs) : (s.onRegs f).fab = s.fab := rfl
@[simp] theorem State.onRegs_boot (f : Regs → Regs) : (s.onRegs f).boot = s.boot := rfl

/-! ## onFab -/

@[simp] theorem State.onFab_time (f : Fabric → Fabric) : (s.onFab f).time = s.time := rfl
@[simp] theorem State.onFab_fv (f : Fabric → Fabric) : (s.onFab f).fv = s.fv := rfl
@[simp] theorem State.onFab_uid (f : Fabric → Fabric) : (s.onFab f).uid = s.uid := rfl
@[simp] theorem State.onFab_agenda (f : Fabric → Fabric) : (s.onFab f).agenda = s.agenda := rfl
@[simp] theorem State.onFab_turn (f : Fabric → Fabric) : (s.onFab f).turn = s.turn := rfl
@[simp] theorem State.onFab_phase (f : Fabric → Fabric) : (s.onFab f).phase = s.phase := rfl
@[simp] theorem State.onFab_iss (f : Fabric → Fabric) : (s.onFab f).iss = s.iss := rfl
@[simp] theorem State.onFab_rowq (f : Fabric → Fabric) : (s.onFab f).rowq = s.rowq := rfl
@[simp] theorem State.onFab_rowbuf (f : Fabric → Fabric) : (s.onFab f).rowbuf = s.rowbuf := rfl
@[simp] theorem State.onFab_courses (f : Fabric → Fabric) : (s.onFab f).courses = s.courses := rfl
@[simp] theorem State.onFab_blocks (f : Fabric → Fabric) : (s.onFab f).blocks = s.blocks := rfl
@[simp] theorem State.onFab_cores (f : Fabric → Fabric) : (s.onFab f).cores = s.cores := rfl
@[simp] theorem State.onFab_dies (f : Fabric → Fabric) : (s.onFab f).dies = s.dies := rfl
@[simp] theorem State.onFab_ctxs (f : Fabric → Fabric) : (s.onFab f).ctxs = s.ctxs := rfl
@[simp] theorem State.onFab_mem (f : Fabric → Fabric) : (s.onFab f).mem = s.mem := rfl
@[simp] theorem State.onFab_failed (f : Fabric → Fabric) : (s.onFab f).failed = s.failed := rfl
@[simp] theorem State.onFab_healed (f : Fabric → Fabric) : (s.onFab f).healed = s.healed := rfl
@[simp] theorem State.onFab_dcache (f : Fabric → Fabric) : (s.onFab f).dcache = s.dcache := rfl
@[simp] theorem State.onFab_tlb (f : Fabric → Fabric) : (s.onFab f).tlb = s.tlb := rfl
@[simp] theorem State.onFab_faults (f : Fabric → Fabric) : (s.onFab f).faults = s.faults := rfl
@[simp] theorem State.onFab_answers (f : Fabric → Fabric) : (s.onFab f).answers = s.answers := rfl
@[simp] theorem State.onFab_pkts (f : Fabric → Fabric) : (s.onFab f).pkts = s.pkts := rfl
@[simp] theorem State.onFab_tasks (f : Fabric → Fabric) : (s.onFab f).tasks = s.tasks := rfl
@[simp] theorem State.onFab_graphs (f : Fabric → Fabric) : (s.onFab f).graphs = s.graphs := rfl
@[simp] theorem State.onFab_conts (f : Fabric → Fabric) : (s.onFab f).conts = s.conts := rfl
@[simp] theorem State.onFab_staging (f : Fabric → Fabric) : (s.onFab f).staging = s.staging := rfl
@[simp] theorem State.onFab_colls (f : Fabric → Fabric) : (s.onFab f).colls = s.colls := rfl
@[simp] theorem State.onFab_pcie (f : Fabric → Fabric) : (s.onFab f).pcie = s.pcie := rfl
@[simp] theorem State.onFab_cpls (f : Fabric → Fabric) : (s.onFab f).cpls = s.cpls := rfl
@[simp] theorem State.onFab_regs (f : Fabric → Fabric) : (s.onFab f).regs = s.regs := rfl
@[simp] theorem State.onFab_boot (f : Fabric → Fabric) : (s.onFab f).boot = s.boot := rfl

/-! ## writePa -/

@[simp] theorem State.writePa_time (a : Nat) (l : List Byte) : (s.writePa a l).time = s.time := rfl
@[simp] theorem State.writePa_fv (a : Nat) (l : List Byte) : (s.writePa a l).fv = s.fv := rfl
@[simp] theorem State.writePa_uid (a : Nat) (l : List Byte) : (s.writePa a l).uid = s.uid := rfl
@[simp] theorem State.writePa_agenda (a : Nat) (l : List Byte) : (s.writePa a l).agenda = s.agenda := rfl
@[simp] theorem State.writePa_turn (a : Nat) (l : List Byte) : (s.writePa a l).turn = s.turn := rfl
@[simp] theorem State.writePa_phase (a : Nat) (l : List Byte) : (s.writePa a l).phase = s.phase := rfl
@[simp] theorem State.writePa_iss (a : Nat) (l : List Byte) : (s.writePa a l).iss = s.iss := rfl
@[simp] theorem State.writePa_rowq (a : Nat) (l : List Byte) : (s.writePa a l).rowq = s.rowq := rfl
@[simp] theorem State.writePa_rowbuf (a : Nat) (l : List Byte) : (s.writePa a l).rowbuf = s.rowbuf := rfl
@[simp] theorem State.writePa_courses (a : Nat) (l : List Byte) : (s.writePa a l).courses = s.courses := rfl
@[simp] theorem State.writePa_blocks (a : Nat) (l : List Byte) : (s.writePa a l).blocks = s.blocks := rfl
@[simp] theorem State.writePa_cores (a : Nat) (l : List Byte) : (s.writePa a l).cores = s.cores := rfl
@[simp] theorem State.writePa_dies (a : Nat) (l : List Byte) : (s.writePa a l).dies = s.dies := rfl
@[simp] theorem State.writePa_ctxs (a : Nat) (l : List Byte) : (s.writePa a l).ctxs = s.ctxs := rfl
@[simp] theorem State.writePa_tlb (a : Nat) (l : List Byte) : (s.writePa a l).tlb = s.tlb := rfl
@[simp] theorem State.writePa_faults (a : Nat) (l : List Byte) : (s.writePa a l).faults = s.faults := rfl
@[simp] theorem State.writePa_answers (a : Nat) (l : List Byte) : (s.writePa a l).answers = s.answers := rfl
@[simp] theorem State.writePa_pkts (a : Nat) (l : List Byte) : (s.writePa a l).pkts = s.pkts := rfl
@[simp] theorem State.writePa_tasks (a : Nat) (l : List Byte) : (s.writePa a l).tasks = s.tasks := rfl
@[simp] theorem State.writePa_graphs (a : Nat) (l : List Byte) : (s.writePa a l).graphs = s.graphs := rfl
@[simp] theorem State.writePa_conts (a : Nat) (l : List Byte) : (s.writePa a l).conts = s.conts := rfl
@[simp] theorem State.writePa_staging (a : Nat) (l : List Byte) : (s.writePa a l).staging = s.staging := rfl
@[simp] theorem State.writePa_colls (a : Nat) (l : List Byte) : (s.writePa a l).colls = s.colls := rfl
@[simp] theorem State.writePa_pcie (a : Nat) (l : List Byte) : (s.writePa a l).pcie = s.pcie := rfl
@[simp] theorem State.writePa_cpls (a : Nat) (l : List Byte) : (s.writePa a l).cpls = s.cpls := rfl
@[simp] theorem State.writePa_fab (a : Nat) (l : List Byte) : (s.writePa a l).fab = s.fab := rfl
@[simp] theorem State.writePa_boot (a : Nat) (l : List Byte) : (s.writePa a l).boot = s.boot := rfl

/-! ## pokePa -/

@[simp] theorem State.pokePa_time (a : Nat) (l : List Byte) : (s.pokePa a l).time = s.time := rfl
@[simp] theorem State.pokePa_fv (a : Nat) (l : List Byte) : (s.pokePa a l).fv = s.fv := rfl
@[simp] theorem State.pokePa_uid (a : Nat) (l : List Byte) : (s.pokePa a l).uid = s.uid := rfl
@[simp] theorem State.pokePa_agenda (a : Nat) (l : List Byte) : (s.pokePa a l).agenda = s.agenda := rfl
@[simp] theorem State.pokePa_turn (a : Nat) (l : List Byte) : (s.pokePa a l).turn = s.turn := rfl
@[simp] theorem State.pokePa_phase (a : Nat) (l : List Byte) : (s.pokePa a l).phase = s.phase := rfl
@[simp] theorem State.pokePa_iss (a : Nat) (l : List Byte) : (s.pokePa a l).iss = s.iss := rfl
@[simp] theorem State.pokePa_rowq (a : Nat) (l : List Byte) : (s.pokePa a l).rowq = s.rowq := rfl
@[simp] theorem State.pokePa_rowbuf (a : Nat) (l : List Byte) : (s.pokePa a l).rowbuf = s.rowbuf := rfl
@[simp] theorem State.pokePa_courses (a : Nat) (l : List Byte) : (s.pokePa a l).courses = s.courses := rfl
@[simp] theorem State.pokePa_blocks (a : Nat) (l : List Byte) : (s.pokePa a l).blocks = s.blocks := rfl
@[simp] theorem State.pokePa_cores (a : Nat) (l : List Byte) : (s.pokePa a l).cores = s.cores := rfl
@[simp] theorem State.pokePa_dies (a : Nat) (l : List Byte) : (s.pokePa a l).dies = s.dies := rfl
@[simp] theorem State.pokePa_ctxs (a : Nat) (l : List Byte) : (s.pokePa a l).ctxs = s.ctxs := rfl
@[simp] theorem State.pokePa_failed (a : Nat) (l : List Byte) : (s.pokePa a l).failed = s.failed := rfl
@[simp] theorem State.pokePa_healed (a : Nat) (l : List Byte) : (s.pokePa a l).healed = s.healed := rfl
@[simp] theorem State.pokePa_dcache (a : Nat) (l : List Byte) : (s.pokePa a l).dcache = s.dcache := rfl
@[simp] theorem State.pokePa_tlb (a : Nat) (l : List Byte) : (s.pokePa a l).tlb = s.tlb := rfl
@[simp] theorem State.pokePa_faults (a : Nat) (l : List Byte) : (s.pokePa a l).faults = s.faults := rfl
@[simp] theorem State.pokePa_answers (a : Nat) (l : List Byte) : (s.pokePa a l).answers = s.answers := rfl
@[simp] theorem State.pokePa_pkts (a : Nat) (l : List Byte) : (s.pokePa a l).pkts = s.pkts := rfl
@[simp] theorem State.pokePa_tasks (a : Nat) (l : List Byte) : (s.pokePa a l).tasks = s.tasks := rfl
@[simp] theorem State.pokePa_graphs (a : Nat) (l : List Byte) : (s.pokePa a l).graphs = s.graphs := rfl
@[simp] theorem State.pokePa_conts (a : Nat) (l : List Byte) : (s.pokePa a l).conts = s.conts := rfl
@[simp] theorem State.pokePa_staging (a : Nat) (l : List Byte) : (s.pokePa a l).staging = s.staging := rfl
@[simp] theorem State.pokePa_colls (a : Nat) (l : List Byte) : (s.pokePa a l).colls = s.colls := rfl
@[simp] theorem State.pokePa_pcie (a : Nat) (l : List Byte) : (s.pokePa a l).pcie = s.pcie := rfl
@[simp] theorem State.pokePa_cpls (a : Nat) (l : List Byte) : (s.pokePa a l).cpls = s.cpls := rfl
@[simp] theorem State.pokePa_fab (a : Nat) (l : List Byte) : (s.pokePa a l).fab = s.fab := rfl
@[simp] theorem State.pokePa_regs (a : Nat) (l : List Byte) : (s.pokePa a l).regs = s.regs := rfl
@[simp] theorem State.pokePa_boot (a : Nat) (l : List Byte) : (s.pokePa a l).boot = s.boot := rfl

/-! ## heal -/

@[simp] theorem State.heal_time (l : List Nat) : (s.heal l).time = s.time := rfl
@[simp] theorem State.heal_fv (l : List Nat) : (s.heal l).fv = s.fv := rfl
@[simp] theorem State.heal_uid (l : List Nat) : (s.heal l).uid = s.uid := rfl
@[simp] theorem State.heal_agenda (l : List Nat) : (s.heal l).agenda = s.agenda := rfl
@[simp] theorem State.heal_turn (l : List Nat) : (s.heal l).turn = s.turn := rfl
@[simp] theorem State.heal_phase (l : List Nat) : (s.heal l).phase = s.phase := rfl
@[simp] theorem State.heal_iss (l : List Nat) : (s.heal l).iss = s.iss := rfl
@[simp] theorem State.heal_rowq (l : List Nat) : (s.heal l).rowq = s.rowq := rfl
@[simp] theorem State.heal_rowbuf (l : List Nat) : (s.heal l).rowbuf = s.rowbuf := rfl
@[simp] theorem State.heal_courses (l : List Nat) : (s.heal l).courses = s.courses := rfl
@[simp] theorem State.heal_blocks (l : List Nat) : (s.heal l).blocks = s.blocks := rfl
@[simp] theorem State.heal_cores (l : List Nat) : (s.heal l).cores = s.cores := rfl
@[simp] theorem State.heal_dies (l : List Nat) : (s.heal l).dies = s.dies := rfl
@[simp] theorem State.heal_ctxs (l : List Nat) : (s.heal l).ctxs = s.ctxs := rfl
@[simp] theorem State.heal_mem (l : List Nat) : (s.heal l).mem = s.mem := rfl
@[simp] theorem State.heal_dcache (l : List Nat) : (s.heal l).dcache = s.dcache := rfl
@[simp] theorem State.heal_tlb (l : List Nat) : (s.heal l).tlb = s.tlb := rfl
@[simp] theorem State.heal_faults (l : List Nat) : (s.heal l).faults = s.faults := rfl
@[simp] theorem State.heal_answers (l : List Nat) : (s.heal l).answers = s.answers := rfl
@[simp] theorem State.heal_pkts (l : List Nat) : (s.heal l).pkts = s.pkts := rfl
@[simp] theorem State.heal_tasks (l : List Nat) : (s.heal l).tasks = s.tasks := rfl
@[simp] theorem State.heal_graphs (l : List Nat) : (s.heal l).graphs = s.graphs := rfl
@[simp] theorem State.heal_conts (l : List Nat) : (s.heal l).conts = s.conts := rfl
@[simp] theorem State.heal_staging (l : List Nat) : (s.heal l).staging = s.staging := rfl
@[simp] theorem State.heal_colls (l : List Nat) : (s.heal l).colls = s.colls := rfl
@[simp] theorem State.heal_pcie (l : List Nat) : (s.heal l).pcie = s.pcie := rfl
@[simp] theorem State.heal_cpls (l : List Nat) : (s.heal l).cpls = s.cpls := rfl
@[simp] theorem State.heal_fab (l : List Nat) : (s.heal l).fab = s.fab := rfl
@[simp] theorem State.heal_regs (l : List Nat) : (s.heal l).regs = s.regs := rfl
@[simp] theorem State.heal_boot (l : List Nat) : (s.heal l).boot = s.boot := rfl

/-! ## dieUse -/

@[simp] theorem State.dieUse_time (wr : Bool) (a n : Nat) : (s.dieUse wr a n).time = s.time := rfl
@[simp] theorem State.dieUse_fv (wr : Bool) (a n : Nat) : (s.dieUse wr a n).fv = s.fv := rfl
@[simp] theorem State.dieUse_uid (wr : Bool) (a n : Nat) : (s.dieUse wr a n).uid = s.uid := rfl
@[simp] theorem State.dieUse_agenda (wr : Bool) (a n : Nat) : (s.dieUse wr a n).agenda = s.agenda := rfl
@[simp] theorem State.dieUse_turn (wr : Bool) (a n : Nat) : (s.dieUse wr a n).turn = s.turn := rfl
@[simp] theorem State.dieUse_phase (wr : Bool) (a n : Nat) : (s.dieUse wr a n).phase = s.phase := rfl
@[simp] theorem State.dieUse_iss (wr : Bool) (a n : Nat) : (s.dieUse wr a n).iss = s.iss := rfl
@[simp] theorem State.dieUse_rowq (wr : Bool) (a n : Nat) : (s.dieUse wr a n).rowq = s.rowq := rfl
@[simp] theorem State.dieUse_rowbuf (wr : Bool) (a n : Nat) : (s.dieUse wr a n).rowbuf = s.rowbuf := rfl
@[simp] theorem State.dieUse_courses (wr : Bool) (a n : Nat) : (s.dieUse wr a n).courses = s.courses := rfl
@[simp] theorem State.dieUse_blocks (wr : Bool) (a n : Nat) : (s.dieUse wr a n).blocks = s.blocks := rfl
@[simp] theorem State.dieUse_cores (wr : Bool) (a n : Nat) : (s.dieUse wr a n).cores = s.cores := rfl
@[simp] theorem State.dieUse_dies (wr : Bool) (a n : Nat) : (s.dieUse wr a n).dies = s.dies := rfl
@[simp] theorem State.dieUse_ctxs (wr : Bool) (a n : Nat) : (s.dieUse wr a n).ctxs = s.ctxs := rfl
@[simp] theorem State.dieUse_mem (wr : Bool) (a n : Nat) : (s.dieUse wr a n).mem = s.mem := rfl
@[simp] theorem State.dieUse_failed (wr : Bool) (a n : Nat) : (s.dieUse wr a n).failed = s.failed := rfl
@[simp] theorem State.dieUse_healed (wr : Bool) (a n : Nat) : (s.dieUse wr a n).healed = s.healed := rfl
@[simp] theorem State.dieUse_tlb (wr : Bool) (a n : Nat) : (s.dieUse wr a n).tlb = s.tlb := rfl
@[simp] theorem State.dieUse_faults (wr : Bool) (a n : Nat) : (s.dieUse wr a n).faults = s.faults := rfl
@[simp] theorem State.dieUse_answers (wr : Bool) (a n : Nat) : (s.dieUse wr a n).answers = s.answers := rfl
@[simp] theorem State.dieUse_pkts (wr : Bool) (a n : Nat) : (s.dieUse wr a n).pkts = s.pkts := rfl
@[simp] theorem State.dieUse_tasks (wr : Bool) (a n : Nat) : (s.dieUse wr a n).tasks = s.tasks := rfl
@[simp] theorem State.dieUse_graphs (wr : Bool) (a n : Nat) : (s.dieUse wr a n).graphs = s.graphs := rfl
@[simp] theorem State.dieUse_conts (wr : Bool) (a n : Nat) : (s.dieUse wr a n).conts = s.conts := rfl
@[simp] theorem State.dieUse_staging (wr : Bool) (a n : Nat) : (s.dieUse wr a n).staging = s.staging := rfl
@[simp] theorem State.dieUse_colls (wr : Bool) (a n : Nat) : (s.dieUse wr a n).colls = s.colls := rfl
@[simp] theorem State.dieUse_pcie (wr : Bool) (a n : Nat) : (s.dieUse wr a n).pcie = s.pcie := rfl
@[simp] theorem State.dieUse_cpls (wr : Bool) (a n : Nat) : (s.dieUse wr a n).cpls = s.cpls := rfl
@[simp] theorem State.dieUse_fab (wr : Bool) (a n : Nat) : (s.dieUse wr a n).fab = s.fab := rfl
@[simp] theorem State.dieUse_boot (wr : Bool) (a n : Nat) : (s.dieUse wr a n).boot = s.boot := rfl

/-! ## drop -/

@[simp] theorem State.drop_time : (s.drop).time = s.time := rfl
@[simp] theorem State.drop_fv : (s.drop).fv = s.fv := rfl
@[simp] theorem State.drop_uid : (s.drop).uid = s.uid := rfl
@[simp] theorem State.drop_agenda : (s.drop).agenda = s.agenda := rfl
@[simp] theorem State.drop_turn : (s.drop).turn = s.turn := rfl
@[simp] theorem State.drop_phase : (s.drop).phase = s.phase := rfl
@[simp] theorem State.drop_rowq : (s.drop).rowq = s.rowq := rfl
@[simp] theorem State.drop_rowbuf : (s.drop).rowbuf = s.rowbuf := rfl
@[simp] theorem State.drop_courses : (s.drop).courses = s.courses := rfl
@[simp] theorem State.drop_blocks : (s.drop).blocks = s.blocks := rfl
@[simp] theorem State.drop_cores : (s.drop).cores = s.cores := rfl
@[simp] theorem State.drop_dies : (s.drop).dies = s.dies := rfl
@[simp] theorem State.drop_ctxs : (s.drop).ctxs = s.ctxs := rfl
@[simp] theorem State.drop_mem : (s.drop).mem = s.mem := rfl
@[simp] theorem State.drop_failed : (s.drop).failed = s.failed := rfl
@[simp] theorem State.drop_healed : (s.drop).healed = s.healed := rfl
@[simp] theorem State.drop_dcache : (s.drop).dcache = s.dcache := rfl
@[simp] theorem State.drop_tlb : (s.drop).tlb = s.tlb := rfl
@[simp] theorem State.drop_faults : (s.drop).faults = s.faults := rfl
@[simp] theorem State.drop_answers : (s.drop).answers = s.answers := rfl
@[simp] theorem State.drop_pkts : (s.drop).pkts = s.pkts := rfl
@[simp] theorem State.drop_tasks : (s.drop).tasks = s.tasks := rfl
@[simp] theorem State.drop_graphs : (s.drop).graphs = s.graphs := rfl
@[simp] theorem State.drop_conts : (s.drop).conts = s.conts := rfl
@[simp] theorem State.drop_staging : (s.drop).staging = s.staging := rfl
@[simp] theorem State.drop_colls : (s.drop).colls = s.colls := rfl
@[simp] theorem State.drop_pcie : (s.drop).pcie = s.pcie := rfl
@[simp] theorem State.drop_cpls : (s.drop).cpls = s.cpls := rfl
@[simp] theorem State.drop_fab : (s.drop).fab = s.fab := rfl
@[simp] theorem State.drop_regs : (s.drop).regs = s.regs := rfl
@[simp] theorem State.drop_boot : (s.drop).boot = s.boot := rfl

/-! ## onCourse -/

@[simp] theorem State.onCourse_time (c : Nat) (f : Course → Course) : (s.onCourse c f).time = s.time := by unfold State.onCourse; split <;> rfl
@[simp] theorem State.onCourse_fv (c : Nat) (f : Course → Course) : (s.onCourse c f).fv = s.fv := by unfold State.onCourse; split <;> rfl
@[simp] theorem State.onCourse_uid (c : Nat) (f : Course → Course) : (s.onCourse c f).uid = s.uid := by unfold State.onCourse; split <;> rfl
@[simp] theorem State.onCourse_agenda (c : Nat) (f : Course → Course) : (s.onCourse c f).agenda = s.agenda := by unfold State.onCourse; split <;> rfl
@[simp] theorem State.onCourse_turn (c : Nat) (f : Course → Course) : (s.onCourse c f).turn = s.turn := by unfold State.onCourse; split <;> rfl
@[simp] theorem State.onCourse_phase (c : Nat) (f : Course → Course) : (s.onCourse c f).phase = s.phase := by unfold State.onCourse; split <;> rfl
@[simp] theorem State.onCourse_iss (c : Nat) (f : Course → Course) : (s.onCourse c f).iss = s.iss := by unfold State.onCourse; split <;> rfl
@[simp] theorem State.onCourse_rowq (c : Nat) (f : Course → Course) : (s.onCourse c f).rowq = s.rowq := by unfold State.onCourse; split <;> rfl
@[simp] theorem State.onCourse_rowbuf (c : Nat) (f : Course → Course) : (s.onCourse c f).rowbuf = s.rowbuf := by unfold State.onCourse; split <;> rfl
@[simp] theorem State.onCourse_blocks (c : Nat) (f : Course → Course) : (s.onCourse c f).blocks = s.blocks := by unfold State.onCourse; split <;> rfl
@[simp] theorem State.onCourse_cores (c : Nat) (f : Course → Course) : (s.onCourse c f).cores = s.cores := by unfold State.onCourse; split <;> rfl
@[simp] theorem State.onCourse_dies (c : Nat) (f : Course → Course) : (s.onCourse c f).dies = s.dies := by unfold State.onCourse; split <;> rfl
@[simp] theorem State.onCourse_ctxs (c : Nat) (f : Course → Course) : (s.onCourse c f).ctxs = s.ctxs := by unfold State.onCourse; split <;> rfl
@[simp] theorem State.onCourse_mem (c : Nat) (f : Course → Course) : (s.onCourse c f).mem = s.mem := by unfold State.onCourse; split <;> rfl
@[simp] theorem State.onCourse_failed (c : Nat) (f : Course → Course) : (s.onCourse c f).failed = s.failed := by unfold State.onCourse; split <;> rfl
@[simp] theorem State.onCourse_healed (c : Nat) (f : Course → Course) : (s.onCourse c f).healed = s.healed := by unfold State.onCourse; split <;> rfl
@[simp] theorem State.onCourse_dcache (c : Nat) (f : Course → Course) : (s.onCourse c f).dcache = s.dcache := by unfold State.onCourse; split <;> rfl
@[simp] theorem State.onCourse_tlb (c : Nat) (f : Course → Course) : (s.onCourse c f).tlb = s.tlb := by unfold State.onCourse; split <;> rfl
@[simp] theorem State.onCourse_faults (c : Nat) (f : Course → Course) : (s.onCourse c f).faults = s.faults := by unfold State.onCourse; split <;> rfl
@[simp] theorem State.onCourse_answers (c : Nat) (f : Course → Course) : (s.onCourse c f).answers = s.answers := by unfold State.onCourse; split <;> rfl
@[simp] theorem State.onCourse_pkts (c : Nat) (f : Course → Course) : (s.onCourse c f).pkts = s.pkts := by unfold State.onCourse; split <;> rfl
@[simp] theorem State.onCourse_tasks (c : Nat) (f : Course → Course) : (s.onCourse c f).tasks = s.tasks := by unfold State.onCourse; split <;> rfl
@[simp] theorem State.onCourse_graphs (c : Nat) (f : Course → Course) : (s.onCourse c f).graphs = s.graphs := by unfold State.onCourse; split <;> rfl
@[simp] theorem State.onCourse_conts (c : Nat) (f : Course → Course) : (s.onCourse c f).conts = s.conts := by unfold State.onCourse; split <;> rfl
@[simp] theorem State.onCourse_staging (c : Nat) (f : Course → Course) : (s.onCourse c f).staging = s.staging := by unfold State.onCourse; split <;> rfl
@[simp] theorem State.onCourse_colls (c : Nat) (f : Course → Course) : (s.onCourse c f).colls = s.colls := by unfold State.onCourse; split <;> rfl
@[simp] theorem State.onCourse_pcie (c : Nat) (f : Course → Course) : (s.onCourse c f).pcie = s.pcie := by unfold State.onCourse; split <;> rfl
@[simp] theorem State.onCourse_cpls (c : Nat) (f : Course → Course) : (s.onCourse c f).cpls = s.cpls := by unfold State.onCourse; split <;> rfl
@[simp] theorem State.onCourse_fab (c : Nat) (f : Course → Course) : (s.onCourse c f).fab = s.fab := by unfold State.onCourse; split <;> rfl
@[simp] theorem State.onCourse_regs (c : Nat) (f : Course → Course) : (s.onCourse c f).regs = s.regs := by unfold State.onCourse; split <;> rfl
@[simp] theorem State.onCourse_boot (c : Nat) (f : Course → Course) : (s.onCourse c f).boot = s.boot := by unfold State.onCourse; split <;> rfl

/-! ## onBlock -/

@[simp] theorem State.onBlock_time (b : Nat) (f : Block → Block) : (s.onBlock b f).time = s.time := by unfold State.onBlock; split <;> rfl
@[simp] theorem State.onBlock_fv (b : Nat) (f : Block → Block) : (s.onBlock b f).fv = s.fv := by unfold State.onBlock; split <;> rfl
@[simp] theorem State.onBlock_uid (b : Nat) (f : Block → Block) : (s.onBlock b f).uid = s.uid := by unfold State.onBlock; split <;> rfl
@[simp] theorem State.onBlock_agenda (b : Nat) (f : Block → Block) : (s.onBlock b f).agenda = s.agenda := by unfold State.onBlock; split <;> rfl
@[simp] theorem State.onBlock_turn (b : Nat) (f : Block → Block) : (s.onBlock b f).turn = s.turn := by unfold State.onBlock; split <;> rfl
@[simp] theorem State.onBlock_phase (b : Nat) (f : Block → Block) : (s.onBlock b f).phase = s.phase := by unfold State.onBlock; split <;> rfl
@[simp] theorem State.onBlock_iss (b : Nat) (f : Block → Block) : (s.onBlock b f).iss = s.iss := by unfold State.onBlock; split <;> rfl
@[simp] theorem State.onBlock_rowq (b : Nat) (f : Block → Block) : (s.onBlock b f).rowq = s.rowq := by unfold State.onBlock; split <;> rfl
@[simp] theorem State.onBlock_rowbuf (b : Nat) (f : Block → Block) : (s.onBlock b f).rowbuf = s.rowbuf := by unfold State.onBlock; split <;> rfl
@[simp] theorem State.onBlock_courses (b : Nat) (f : Block → Block) : (s.onBlock b f).courses = s.courses := by unfold State.onBlock; split <;> rfl
@[simp] theorem State.onBlock_cores (b : Nat) (f : Block → Block) : (s.onBlock b f).cores = s.cores := by unfold State.onBlock; split <;> rfl
@[simp] theorem State.onBlock_dies (b : Nat) (f : Block → Block) : (s.onBlock b f).dies = s.dies := by unfold State.onBlock; split <;> rfl
@[simp] theorem State.onBlock_ctxs (b : Nat) (f : Block → Block) : (s.onBlock b f).ctxs = s.ctxs := by unfold State.onBlock; split <;> rfl
@[simp] theorem State.onBlock_mem (b : Nat) (f : Block → Block) : (s.onBlock b f).mem = s.mem := by unfold State.onBlock; split <;> rfl
@[simp] theorem State.onBlock_failed (b : Nat) (f : Block → Block) : (s.onBlock b f).failed = s.failed := by unfold State.onBlock; split <;> rfl
@[simp] theorem State.onBlock_healed (b : Nat) (f : Block → Block) : (s.onBlock b f).healed = s.healed := by unfold State.onBlock; split <;> rfl
@[simp] theorem State.onBlock_dcache (b : Nat) (f : Block → Block) : (s.onBlock b f).dcache = s.dcache := by unfold State.onBlock; split <;> rfl
@[simp] theorem State.onBlock_tlb (b : Nat) (f : Block → Block) : (s.onBlock b f).tlb = s.tlb := by unfold State.onBlock; split <;> rfl
@[simp] theorem State.onBlock_faults (b : Nat) (f : Block → Block) : (s.onBlock b f).faults = s.faults := by unfold State.onBlock; split <;> rfl
@[simp] theorem State.onBlock_answers (b : Nat) (f : Block → Block) : (s.onBlock b f).answers = s.answers := by unfold State.onBlock; split <;> rfl
@[simp] theorem State.onBlock_pkts (b : Nat) (f : Block → Block) : (s.onBlock b f).pkts = s.pkts := by unfold State.onBlock; split <;> rfl
@[simp] theorem State.onBlock_tasks (b : Nat) (f : Block → Block) : (s.onBlock b f).tasks = s.tasks := by unfold State.onBlock; split <;> rfl
@[simp] theorem State.onBlock_graphs (b : Nat) (f : Block → Block) : (s.onBlock b f).graphs = s.graphs := by unfold State.onBlock; split <;> rfl
@[simp] theorem State.onBlock_conts (b : Nat) (f : Block → Block) : (s.onBlock b f).conts = s.conts := by unfold State.onBlock; split <;> rfl
@[simp] theorem State.onBlock_staging (b : Nat) (f : Block → Block) : (s.onBlock b f).staging = s.staging := by unfold State.onBlock; split <;> rfl
@[simp] theorem State.onBlock_colls (b : Nat) (f : Block → Block) : (s.onBlock b f).colls = s.colls := by unfold State.onBlock; split <;> rfl
@[simp] theorem State.onBlock_pcie (b : Nat) (f : Block → Block) : (s.onBlock b f).pcie = s.pcie := by unfold State.onBlock; split <;> rfl
@[simp] theorem State.onBlock_cpls (b : Nat) (f : Block → Block) : (s.onBlock b f).cpls = s.cpls := by unfold State.onBlock; split <;> rfl
@[simp] theorem State.onBlock_fab (b : Nat) (f : Block → Block) : (s.onBlock b f).fab = s.fab := by unfold State.onBlock; split <;> rfl
@[simp] theorem State.onBlock_regs (b : Nat) (f : Block → Block) : (s.onBlock b f).regs = s.regs := by unfold State.onBlock; split <;> rfl
@[simp] theorem State.onBlock_boot (b : Nat) (f : Block → Block) : (s.onBlock b f).boot = s.boot := by unfold State.onBlock; split <;> rfl

/-! ## onBlockMem -/

@[simp] theorem State.onBlockMem_time (b : Nat) (f : BlockMem → BlockMem) : (s.onBlockMem b f).time = s.time := s.onBlock_time b _
@[simp] theorem State.onBlockMem_fv (b : Nat) (f : BlockMem → BlockMem) : (s.onBlockMem b f).fv = s.fv := s.onBlock_fv b _
@[simp] theorem State.onBlockMem_uid (b : Nat) (f : BlockMem → BlockMem) : (s.onBlockMem b f).uid = s.uid := s.onBlock_uid b _
@[simp] theorem State.onBlockMem_agenda (b : Nat) (f : BlockMem → BlockMem) : (s.onBlockMem b f).agenda = s.agenda := s.onBlock_agenda b _
@[simp] theorem State.onBlockMem_turn (b : Nat) (f : BlockMem → BlockMem) : (s.onBlockMem b f).turn = s.turn := s.onBlock_turn b _
@[simp] theorem State.onBlockMem_phase (b : Nat) (f : BlockMem → BlockMem) : (s.onBlockMem b f).phase = s.phase := s.onBlock_phase b _
@[simp] theorem State.onBlockMem_iss (b : Nat) (f : BlockMem → BlockMem) : (s.onBlockMem b f).iss = s.iss := s.onBlock_iss b _
@[simp] theorem State.onBlockMem_rowq (b : Nat) (f : BlockMem → BlockMem) : (s.onBlockMem b f).rowq = s.rowq := s.onBlock_rowq b _
@[simp] theorem State.onBlockMem_rowbuf (b : Nat) (f : BlockMem → BlockMem) : (s.onBlockMem b f).rowbuf = s.rowbuf := s.onBlock_rowbuf b _
@[simp] theorem State.onBlockMem_courses (b : Nat) (f : BlockMem → BlockMem) : (s.onBlockMem b f).courses = s.courses := s.onBlock_courses b _
@[simp] theorem State.onBlockMem_cores (b : Nat) (f : BlockMem → BlockMem) : (s.onBlockMem b f).cores = s.cores := s.onBlock_cores b _
@[simp] theorem State.onBlockMem_dies (b : Nat) (f : BlockMem → BlockMem) : (s.onBlockMem b f).dies = s.dies := s.onBlock_dies b _
@[simp] theorem State.onBlockMem_ctxs (b : Nat) (f : BlockMem → BlockMem) : (s.onBlockMem b f).ctxs = s.ctxs := s.onBlock_ctxs b _
@[simp] theorem State.onBlockMem_mem (b : Nat) (f : BlockMem → BlockMem) : (s.onBlockMem b f).mem = s.mem := s.onBlock_mem b _
@[simp] theorem State.onBlockMem_failed (b : Nat) (f : BlockMem → BlockMem) : (s.onBlockMem b f).failed = s.failed := s.onBlock_failed b _
@[simp] theorem State.onBlockMem_healed (b : Nat) (f : BlockMem → BlockMem) : (s.onBlockMem b f).healed = s.healed := s.onBlock_healed b _
@[simp] theorem State.onBlockMem_dcache (b : Nat) (f : BlockMem → BlockMem) : (s.onBlockMem b f).dcache = s.dcache := s.onBlock_dcache b _
@[simp] theorem State.onBlockMem_tlb (b : Nat) (f : BlockMem → BlockMem) : (s.onBlockMem b f).tlb = s.tlb := s.onBlock_tlb b _
@[simp] theorem State.onBlockMem_faults (b : Nat) (f : BlockMem → BlockMem) : (s.onBlockMem b f).faults = s.faults := s.onBlock_faults b _
@[simp] theorem State.onBlockMem_answers (b : Nat) (f : BlockMem → BlockMem) : (s.onBlockMem b f).answers = s.answers := s.onBlock_answers b _
@[simp] theorem State.onBlockMem_pkts (b : Nat) (f : BlockMem → BlockMem) : (s.onBlockMem b f).pkts = s.pkts := s.onBlock_pkts b _
@[simp] theorem State.onBlockMem_tasks (b : Nat) (f : BlockMem → BlockMem) : (s.onBlockMem b f).tasks = s.tasks := s.onBlock_tasks b _
@[simp] theorem State.onBlockMem_graphs (b : Nat) (f : BlockMem → BlockMem) : (s.onBlockMem b f).graphs = s.graphs := s.onBlock_graphs b _
@[simp] theorem State.onBlockMem_conts (b : Nat) (f : BlockMem → BlockMem) : (s.onBlockMem b f).conts = s.conts := s.onBlock_conts b _
@[simp] theorem State.onBlockMem_staging (b : Nat) (f : BlockMem → BlockMem) : (s.onBlockMem b f).staging = s.staging := s.onBlock_staging b _
@[simp] theorem State.onBlockMem_colls (b : Nat) (f : BlockMem → BlockMem) : (s.onBlockMem b f).colls = s.colls := s.onBlock_colls b _
@[simp] theorem State.onBlockMem_pcie (b : Nat) (f : BlockMem → BlockMem) : (s.onBlockMem b f).pcie = s.pcie := s.onBlock_pcie b _
@[simp] theorem State.onBlockMem_cpls (b : Nat) (f : BlockMem → BlockMem) : (s.onBlockMem b f).cpls = s.cpls := s.onBlock_cpls b _
@[simp] theorem State.onBlockMem_fab (b : Nat) (f : BlockMem → BlockMem) : (s.onBlockMem b f).fab = s.fab := s.onBlock_fab b _
@[simp] theorem State.onBlockMem_regs (b : Nat) (f : BlockMem → BlockMem) : (s.onBlockMem b f).regs = s.regs := s.onBlock_regs b _
@[simp] theorem State.onBlockMem_boot (b : Nat) (f : BlockMem → BlockMem) : (s.onBlockMem b f).boot = s.boot := s.onBlock_boot b _

/-! ## onCtx -/

@[simp] theorem State.onCtx_time (c : Nat) (f : Ctx → Ctx) : (s.onCtx c f).time = s.time := by unfold State.onCtx; split <;> rfl
@[simp] theorem State.onCtx_fv (c : Nat) (f : Ctx → Ctx) : (s.onCtx c f).fv = s.fv := by unfold State.onCtx; split <;> rfl
@[simp] theorem State.onCtx_uid (c : Nat) (f : Ctx → Ctx) : (s.onCtx c f).uid = s.uid := by unfold State.onCtx; split <;> rfl
@[simp] theorem State.onCtx_agenda (c : Nat) (f : Ctx → Ctx) : (s.onCtx c f).agenda = s.agenda := by unfold State.onCtx; split <;> rfl
@[simp] theorem State.onCtx_turn (c : Nat) (f : Ctx → Ctx) : (s.onCtx c f).turn = s.turn := by unfold State.onCtx; split <;> rfl
@[simp] theorem State.onCtx_phase (c : Nat) (f : Ctx → Ctx) : (s.onCtx c f).phase = s.phase := by unfold State.onCtx; split <;> rfl
@[simp] theorem State.onCtx_iss (c : Nat) (f : Ctx → Ctx) : (s.onCtx c f).iss = s.iss := by unfold State.onCtx; split <;> rfl
@[simp] theorem State.onCtx_rowq (c : Nat) (f : Ctx → Ctx) : (s.onCtx c f).rowq = s.rowq := by unfold State.onCtx; split <;> rfl
@[simp] theorem State.onCtx_rowbuf (c : Nat) (f : Ctx → Ctx) : (s.onCtx c f).rowbuf = s.rowbuf := by unfold State.onCtx; split <;> rfl
@[simp] theorem State.onCtx_courses (c : Nat) (f : Ctx → Ctx) : (s.onCtx c f).courses = s.courses := by unfold State.onCtx; split <;> rfl
@[simp] theorem State.onCtx_blocks (c : Nat) (f : Ctx → Ctx) : (s.onCtx c f).blocks = s.blocks := by unfold State.onCtx; split <;> rfl
@[simp] theorem State.onCtx_cores (c : Nat) (f : Ctx → Ctx) : (s.onCtx c f).cores = s.cores := by unfold State.onCtx; split <;> rfl
@[simp] theorem State.onCtx_dies (c : Nat) (f : Ctx → Ctx) : (s.onCtx c f).dies = s.dies := by unfold State.onCtx; split <;> rfl
@[simp] theorem State.onCtx_mem (c : Nat) (f : Ctx → Ctx) : (s.onCtx c f).mem = s.mem := by unfold State.onCtx; split <;> rfl
@[simp] theorem State.onCtx_failed (c : Nat) (f : Ctx → Ctx) : (s.onCtx c f).failed = s.failed := by unfold State.onCtx; split <;> rfl
@[simp] theorem State.onCtx_healed (c : Nat) (f : Ctx → Ctx) : (s.onCtx c f).healed = s.healed := by unfold State.onCtx; split <;> rfl
@[simp] theorem State.onCtx_dcache (c : Nat) (f : Ctx → Ctx) : (s.onCtx c f).dcache = s.dcache := by unfold State.onCtx; split <;> rfl
@[simp] theorem State.onCtx_tlb (c : Nat) (f : Ctx → Ctx) : (s.onCtx c f).tlb = s.tlb := by unfold State.onCtx; split <;> rfl
@[simp] theorem State.onCtx_faults (c : Nat) (f : Ctx → Ctx) : (s.onCtx c f).faults = s.faults := by unfold State.onCtx; split <;> rfl
@[simp] theorem State.onCtx_answers (c : Nat) (f : Ctx → Ctx) : (s.onCtx c f).answers = s.answers := by unfold State.onCtx; split <;> rfl
@[simp] theorem State.onCtx_pkts (c : Nat) (f : Ctx → Ctx) : (s.onCtx c f).pkts = s.pkts := by unfold State.onCtx; split <;> rfl
@[simp] theorem State.onCtx_tasks (c : Nat) (f : Ctx → Ctx) : (s.onCtx c f).tasks = s.tasks := by unfold State.onCtx; split <;> rfl
@[simp] theorem State.onCtx_graphs (c : Nat) (f : Ctx → Ctx) : (s.onCtx c f).graphs = s.graphs := by unfold State.onCtx; split <;> rfl
@[simp] theorem State.onCtx_conts (c : Nat) (f : Ctx → Ctx) : (s.onCtx c f).conts = s.conts := by unfold State.onCtx; split <;> rfl
@[simp] theorem State.onCtx_staging (c : Nat) (f : Ctx → Ctx) : (s.onCtx c f).staging = s.staging := by unfold State.onCtx; split <;> rfl
@[simp] theorem State.onCtx_colls (c : Nat) (f : Ctx → Ctx) : (s.onCtx c f).colls = s.colls := by unfold State.onCtx; split <;> rfl
@[simp] theorem State.onCtx_pcie (c : Nat) (f : Ctx → Ctx) : (s.onCtx c f).pcie = s.pcie := by unfold State.onCtx; split <;> rfl
@[simp] theorem State.onCtx_cpls (c : Nat) (f : Ctx → Ctx) : (s.onCtx c f).cpls = s.cpls := by unfold State.onCtx; split <;> rfl
@[simp] theorem State.onCtx_fab (c : Nat) (f : Ctx → Ctx) : (s.onCtx c f).fab = s.fab := by unfold State.onCtx; split <;> rfl
@[simp] theorem State.onCtx_regs (c : Nat) (f : Ctx → Ctx) : (s.onCtx c f).regs = s.regs := by unfold State.onCtx; split <;> rfl
@[simp] theorem State.onCtx_boot (c : Nat) (f : Ctx → Ctx) : (s.onCtx c f).boot = s.boot := by unfold State.onCtx; split <;> rfl

/-! ## onPkt -/

@[simp] theorem State.onPkt_time (p : Nat) (f : Packet → Packet) : (s.onPkt p f).time = s.time := by unfold State.onPkt; split <;> rfl
@[simp] theorem State.onPkt_fv (p : Nat) (f : Packet → Packet) : (s.onPkt p f).fv = s.fv := by unfold State.onPkt; split <;> rfl
@[simp] theorem State.onPkt_uid (p : Nat) (f : Packet → Packet) : (s.onPkt p f).uid = s.uid := by unfold State.onPkt; split <;> rfl
@[simp] theorem State.onPkt_agenda (p : Nat) (f : Packet → Packet) : (s.onPkt p f).agenda = s.agenda := by unfold State.onPkt; split <;> rfl
@[simp] theorem State.onPkt_turn (p : Nat) (f : Packet → Packet) : (s.onPkt p f).turn = s.turn := by unfold State.onPkt; split <;> rfl
@[simp] theorem State.onPkt_phase (p : Nat) (f : Packet → Packet) : (s.onPkt p f).phase = s.phase := by unfold State.onPkt; split <;> rfl
@[simp] theorem State.onPkt_iss (p : Nat) (f : Packet → Packet) : (s.onPkt p f).iss = s.iss := by unfold State.onPkt; split <;> rfl
@[simp] theorem State.onPkt_rowq (p : Nat) (f : Packet → Packet) : (s.onPkt p f).rowq = s.rowq := by unfold State.onPkt; split <;> rfl
@[simp] theorem State.onPkt_rowbuf (p : Nat) (f : Packet → Packet) : (s.onPkt p f).rowbuf = s.rowbuf := by unfold State.onPkt; split <;> rfl
@[simp] theorem State.onPkt_courses (p : Nat) (f : Packet → Packet) : (s.onPkt p f).courses = s.courses := by unfold State.onPkt; split <;> rfl
@[simp] theorem State.onPkt_blocks (p : Nat) (f : Packet → Packet) : (s.onPkt p f).blocks = s.blocks := by unfold State.onPkt; split <;> rfl
@[simp] theorem State.onPkt_cores (p : Nat) (f : Packet → Packet) : (s.onPkt p f).cores = s.cores := by unfold State.onPkt; split <;> rfl
@[simp] theorem State.onPkt_dies (p : Nat) (f : Packet → Packet) : (s.onPkt p f).dies = s.dies := by unfold State.onPkt; split <;> rfl
@[simp] theorem State.onPkt_ctxs (p : Nat) (f : Packet → Packet) : (s.onPkt p f).ctxs = s.ctxs := by unfold State.onPkt; split <;> rfl
@[simp] theorem State.onPkt_mem (p : Nat) (f : Packet → Packet) : (s.onPkt p f).mem = s.mem := by unfold State.onPkt; split <;> rfl
@[simp] theorem State.onPkt_failed (p : Nat) (f : Packet → Packet) : (s.onPkt p f).failed = s.failed := by unfold State.onPkt; split <;> rfl
@[simp] theorem State.onPkt_healed (p : Nat) (f : Packet → Packet) : (s.onPkt p f).healed = s.healed := by unfold State.onPkt; split <;> rfl
@[simp] theorem State.onPkt_dcache (p : Nat) (f : Packet → Packet) : (s.onPkt p f).dcache = s.dcache := by unfold State.onPkt; split <;> rfl
@[simp] theorem State.onPkt_tlb (p : Nat) (f : Packet → Packet) : (s.onPkt p f).tlb = s.tlb := by unfold State.onPkt; split <;> rfl
@[simp] theorem State.onPkt_faults (p : Nat) (f : Packet → Packet) : (s.onPkt p f).faults = s.faults := by unfold State.onPkt; split <;> rfl
@[simp] theorem State.onPkt_answers (p : Nat) (f : Packet → Packet) : (s.onPkt p f).answers = s.answers := by unfold State.onPkt; split <;> rfl
@[simp] theorem State.onPkt_tasks (p : Nat) (f : Packet → Packet) : (s.onPkt p f).tasks = s.tasks := by unfold State.onPkt; split <;> rfl
@[simp] theorem State.onPkt_graphs (p : Nat) (f : Packet → Packet) : (s.onPkt p f).graphs = s.graphs := by unfold State.onPkt; split <;> rfl
@[simp] theorem State.onPkt_conts (p : Nat) (f : Packet → Packet) : (s.onPkt p f).conts = s.conts := by unfold State.onPkt; split <;> rfl
@[simp] theorem State.onPkt_staging (p : Nat) (f : Packet → Packet) : (s.onPkt p f).staging = s.staging := by unfold State.onPkt; split <;> rfl
@[simp] theorem State.onPkt_colls (p : Nat) (f : Packet → Packet) : (s.onPkt p f).colls = s.colls := by unfold State.onPkt; split <;> rfl
@[simp] theorem State.onPkt_pcie (p : Nat) (f : Packet → Packet) : (s.onPkt p f).pcie = s.pcie := by unfold State.onPkt; split <;> rfl
@[simp] theorem State.onPkt_cpls (p : Nat) (f : Packet → Packet) : (s.onPkt p f).cpls = s.cpls := by unfold State.onPkt; split <;> rfl
@[simp] theorem State.onPkt_fab (p : Nat) (f : Packet → Packet) : (s.onPkt p f).fab = s.fab := by unfold State.onPkt; split <;> rfl
@[simp] theorem State.onPkt_regs (p : Nat) (f : Packet → Packet) : (s.onPkt p f).regs = s.regs := by unfold State.onPkt; split <;> rfl
@[simp] theorem State.onPkt_boot (p : Nat) (f : Packet → Packet) : (s.onPkt p f).boot = s.boot := by unfold State.onPkt; split <;> rfl

/-! ## onTask -/

@[simp] theorem State.onTask_time (t : Nat) (f : Task → Task) : (s.onTask t f).time = s.time := by unfold State.onTask; split <;> rfl
@[simp] theorem State.onTask_fv (t : Nat) (f : Task → Task) : (s.onTask t f).fv = s.fv := by unfold State.onTask; split <;> rfl
@[simp] theorem State.onTask_uid (t : Nat) (f : Task → Task) : (s.onTask t f).uid = s.uid := by unfold State.onTask; split <;> rfl
@[simp] theorem State.onTask_agenda (t : Nat) (f : Task → Task) : (s.onTask t f).agenda = s.agenda := by unfold State.onTask; split <;> rfl
@[simp] theorem State.onTask_turn (t : Nat) (f : Task → Task) : (s.onTask t f).turn = s.turn := by unfold State.onTask; split <;> rfl
@[simp] theorem State.onTask_phase (t : Nat) (f : Task → Task) : (s.onTask t f).phase = s.phase := by unfold State.onTask; split <;> rfl
@[simp] theorem State.onTask_iss (t : Nat) (f : Task → Task) : (s.onTask t f).iss = s.iss := by unfold State.onTask; split <;> rfl
@[simp] theorem State.onTask_rowq (t : Nat) (f : Task → Task) : (s.onTask t f).rowq = s.rowq := by unfold State.onTask; split <;> rfl
@[simp] theorem State.onTask_rowbuf (t : Nat) (f : Task → Task) : (s.onTask t f).rowbuf = s.rowbuf := by unfold State.onTask; split <;> rfl
@[simp] theorem State.onTask_courses (t : Nat) (f : Task → Task) : (s.onTask t f).courses = s.courses := by unfold State.onTask; split <;> rfl
@[simp] theorem State.onTask_blocks (t : Nat) (f : Task → Task) : (s.onTask t f).blocks = s.blocks := by unfold State.onTask; split <;> rfl
@[simp] theorem State.onTask_cores (t : Nat) (f : Task → Task) : (s.onTask t f).cores = s.cores := by unfold State.onTask; split <;> rfl
@[simp] theorem State.onTask_dies (t : Nat) (f : Task → Task) : (s.onTask t f).dies = s.dies := by unfold State.onTask; split <;> rfl
@[simp] theorem State.onTask_ctxs (t : Nat) (f : Task → Task) : (s.onTask t f).ctxs = s.ctxs := by unfold State.onTask; split <;> rfl
@[simp] theorem State.onTask_mem (t : Nat) (f : Task → Task) : (s.onTask t f).mem = s.mem := by unfold State.onTask; split <;> rfl
@[simp] theorem State.onTask_failed (t : Nat) (f : Task → Task) : (s.onTask t f).failed = s.failed := by unfold State.onTask; split <;> rfl
@[simp] theorem State.onTask_healed (t : Nat) (f : Task → Task) : (s.onTask t f).healed = s.healed := by unfold State.onTask; split <;> rfl
@[simp] theorem State.onTask_dcache (t : Nat) (f : Task → Task) : (s.onTask t f).dcache = s.dcache := by unfold State.onTask; split <;> rfl
@[simp] theorem State.onTask_tlb (t : Nat) (f : Task → Task) : (s.onTask t f).tlb = s.tlb := by unfold State.onTask; split <;> rfl
@[simp] theorem State.onTask_faults (t : Nat) (f : Task → Task) : (s.onTask t f).faults = s.faults := by unfold State.onTask; split <;> rfl
@[simp] theorem State.onTask_answers (t : Nat) (f : Task → Task) : (s.onTask t f).answers = s.answers := by unfold State.onTask; split <;> rfl
@[simp] theorem State.onTask_pkts (t : Nat) (f : Task → Task) : (s.onTask t f).pkts = s.pkts := by unfold State.onTask; split <;> rfl
@[simp] theorem State.onTask_graphs (t : Nat) (f : Task → Task) : (s.onTask t f).graphs = s.graphs := by unfold State.onTask; split <;> rfl
@[simp] theorem State.onTask_conts (t : Nat) (f : Task → Task) : (s.onTask t f).conts = s.conts := by unfold State.onTask; split <;> rfl
@[simp] theorem State.onTask_staging (t : Nat) (f : Task → Task) : (s.onTask t f).staging = s.staging := by unfold State.onTask; split <;> rfl
@[simp] theorem State.onTask_colls (t : Nat) (f : Task → Task) : (s.onTask t f).colls = s.colls := by unfold State.onTask; split <;> rfl
@[simp] theorem State.onTask_pcie (t : Nat) (f : Task → Task) : (s.onTask t f).pcie = s.pcie := by unfold State.onTask; split <;> rfl
@[simp] theorem State.onTask_cpls (t : Nat) (f : Task → Task) : (s.onTask t f).cpls = s.cpls := by unfold State.onTask; split <;> rfl
@[simp] theorem State.onTask_fab (t : Nat) (f : Task → Task) : (s.onTask t f).fab = s.fab := by unfold State.onTask; split <;> rfl
@[simp] theorem State.onTask_regs (t : Nat) (f : Task → Task) : (s.onTask t f).regs = s.regs := by unfold State.onTask; split <;> rfl
@[simp] theorem State.onTask_boot (t : Nat) (f : Task → Task) : (s.onTask t f).boot = s.boot := by unfold State.onTask; split <;> rfl

/-! ## choose -/

@[simp] theorem State.choose_time (n : Nat) : (s.choose n).2.time = s.time := by unfold State.choose; split <;> rfl
@[simp] theorem State.choose_uid (n : Nat) : (s.choose n).2.uid = s.uid := by unfold State.choose; split <;> rfl
@[simp] theorem State.choose_agenda (n : Nat) : (s.choose n).2.agenda = s.agenda := by unfold State.choose; split <;> rfl
@[simp] theorem State.choose_turn (n : Nat) : (s.choose n).2.turn = s.turn := by unfold State.choose; split <;> rfl
@[simp] theorem State.choose_phase (n : Nat) : (s.choose n).2.phase = s.phase := by unfold State.choose; split <;> rfl
@[simp] theorem State.choose_iss (n : Nat) : (s.choose n).2.iss = s.iss := by unfold State.choose; split <;> rfl
@[simp] theorem State.choose_rowq (n : Nat) : (s.choose n).2.rowq = s.rowq := by unfold State.choose; split <;> rfl
@[simp] theorem State.choose_rowbuf (n : Nat) : (s.choose n).2.rowbuf = s.rowbuf := by unfold State.choose; split <;> rfl
@[simp] theorem State.choose_courses (n : Nat) : (s.choose n).2.courses = s.courses := by unfold State.choose; split <;> rfl
@[simp] theorem State.choose_blocks (n : Nat) : (s.choose n).2.blocks = s.blocks := by unfold State.choose; split <;> rfl
@[simp] theorem State.choose_cores (n : Nat) : (s.choose n).2.cores = s.cores := by unfold State.choose; split <;> rfl
@[simp] theorem State.choose_dies (n : Nat) : (s.choose n).2.dies = s.dies := by unfold State.choose; split <;> rfl
@[simp] theorem State.choose_ctxs (n : Nat) : (s.choose n).2.ctxs = s.ctxs := by unfold State.choose; split <;> rfl
@[simp] theorem State.choose_mem (n : Nat) : (s.choose n).2.mem = s.mem := by unfold State.choose; split <;> rfl
@[simp] theorem State.choose_failed (n : Nat) : (s.choose n).2.failed = s.failed := by unfold State.choose; split <;> rfl
@[simp] theorem State.choose_healed (n : Nat) : (s.choose n).2.healed = s.healed := by unfold State.choose; split <;> rfl
@[simp] theorem State.choose_dcache (n : Nat) : (s.choose n).2.dcache = s.dcache := by unfold State.choose; split <;> rfl
@[simp] theorem State.choose_tlb (n : Nat) : (s.choose n).2.tlb = s.tlb := by unfold State.choose; split <;> rfl
@[simp] theorem State.choose_faults (n : Nat) : (s.choose n).2.faults = s.faults := by unfold State.choose; split <;> rfl
@[simp] theorem State.choose_answers (n : Nat) : (s.choose n).2.answers = s.answers := by unfold State.choose; split <;> rfl
@[simp] theorem State.choose_pkts (n : Nat) : (s.choose n).2.pkts = s.pkts := by unfold State.choose; split <;> rfl
@[simp] theorem State.choose_tasks (n : Nat) : (s.choose n).2.tasks = s.tasks := by unfold State.choose; split <;> rfl
@[simp] theorem State.choose_graphs (n : Nat) : (s.choose n).2.graphs = s.graphs := by unfold State.choose; split <;> rfl
@[simp] theorem State.choose_conts (n : Nat) : (s.choose n).2.conts = s.conts := by unfold State.choose; split <;> rfl
@[simp] theorem State.choose_staging (n : Nat) : (s.choose n).2.staging = s.staging := by unfold State.choose; split <;> rfl
@[simp] theorem State.choose_colls (n : Nat) : (s.choose n).2.colls = s.colls := by unfold State.choose; split <;> rfl
@[simp] theorem State.choose_pcie (n : Nat) : (s.choose n).2.pcie = s.pcie := by unfold State.choose; split <;> rfl
@[simp] theorem State.choose_cpls (n : Nat) : (s.choose n).2.cpls = s.cpls := by unfold State.choose; split <;> rfl
@[simp] theorem State.choose_fab (n : Nat) : (s.choose n).2.fab = s.fab := by unfold State.choose; split <;> rfl
@[simp] theorem State.choose_regs (n : Nat) : (s.choose n).2.regs = s.regs := by unfold State.choose; split <;> rfl
@[simp] theorem State.choose_boot (n : Nat) : (s.choose n).2.boot = s.boot := by unfold State.choose; split <;> rfl

end Sys2Proof.Machine
end

