-- ==== Sys2Proof/Laws/Tables.lean ====
section
/-! SUPPORT. Reading back what was written: keyed tables, lists by position, and the parts of the state. -/

namespace Sys2Proof.Machine

/-! ## Keyed tables -/

section tables
variable {κ α : Type} [DecidableEq κ]

@[simp] theorem tget_tset_self (k : κ) (x : α) (l : List (κ × α)) : tget k (tset k x l) = some x := by
  induction l with
  | nil => simp [tset, tget]
  | cons p l ih => by_cases h : k = p.1 <;> simp [tset, tget, h, ih]

theorem tget_tset_ne {j k : κ} (h : j ≠ k) (x : α) (l : List (κ × α)) : tget j (tset k x l) = tget j l := by
  induction l with
  | nil => simp [tset, tget, h]
  | cons p l ih =>
    by_cases hk : k = p.1
    · subst hk; simp [tset, tget, h]
    · by_cases hj : j = p.1 <;> simp [tset, tget, hk, hj, ih]

theorem tget_append_new {j : κ} {x : α} {l : List (κ × α)} (h : tget j l = none) : tget j (l ++ [(j, x)]) = some x := by
  induction l with
  | nil => simp [tget]
  | cons p l ih =>
    by_cases hj : j = p.1
    · simp [tget, hj] at h
    · simp [tget, hj] at h ⊢; exact ih h

theorem tget_append_old {j k : κ} {x : α} (h : j ≠ k) (l : List (κ × α)) : tget j (l ++ [(k, x)]) = tget j l := by
  induction l with
  | nil => simp [tget, h]
  | cons p l ih => by_cases hj : j = p.1 <;> simp [tget, hj, ih]

@[simp] theorem tget_tdel_self (k : κ) (l : List (κ × α)) : tget k (tdel k l) = none := by
  induction l with
  | nil => rfl
  | cons p l ih =>
    by_cases h : p.1 = k
    · simpa [tdel, List.filter_cons, h] using ih
    · have h' : k ≠ p.1 := fun e => h e.symm
      simpa [tdel, List.filter_cons, h, tget, h'] using ih

theorem tget_tdel_ne {j k : κ} (h : j ≠ k) (l : List (κ × α)) : tget j (tdel k l) = tget j l := by
  induction l with
  | nil => rfl
  | cons p l ih =>
    by_cases hk : p.1 = k
    · have hj : j ≠ p.1 := fun e => h (e.trans hk)
      simpa [tdel, List.filter_cons, hk, tget, hj, h] using ih
    · by_cases hj : j = p.1
      · simp [tdel, hk, tget, hj]
      · simpa [tdel, List.filter_cons, hk, tget, hj] using ih

end tables

/-! ## Lists by position -/

@[simp] theorem length_modAt {α : Type} (n : Nat) (f : α → α) (l : List α) : (modAt n f l).length = l.length := by
  induction l generalizing n with
  | nil => simp [modAt]
  | cons x l ih => cases n <;> simp [modAt, ih]

@[simp] theorem length_setAt {α : Type} (n : Nat) (x : α) (l : List α) : (setAt n x l).length = l.length :=
  length_modAt n _ l

theorem getElem?_modAt_self {α : Type} (n : Nat) (f : α → α) (l : List α) : (modAt n f l)[n]? = l[n]?.map f := by
  induction l generalizing n with
  | nil => simp [modAt]
  | cons x l ih => cases n <;> simp [modAt, ih]

theorem getElem?_modAt_ne {α : Type} {m n : Nat} (h : m ≠ n) (f : α → α) (l : List α) : (modAt n f l)[m]? = l[m]? := by
  induction l generalizing m n with
  | nil => simp [modAt]
  | cons x l ih =>
    cases n with
    | zero => cases m with
      | zero => exact absurd rfl h
      | succ m => simp [modAt]
    | succ n => cases m with
      | zero => simp [modAt]
      | succ m => simpa [modAt] using ih (fun e => h (congrArg (· + 1) e))

theorem getD_modAt_self {α : Type} {n : Nat} {l : List α} (h : n < l.length) (f : α → α) (d : α) :
    (modAt n f l).getD n d = f (l.getD n d) := by
  simp [List.getD, getElem?_modAt_self, List.getElem?_eq_getElem h]

theorem getD_modAt_ne {α : Type} {m n : Nat} (h : m ≠ n) (f : α → α) (l : List α) (d : α) :
    (modAt n f l).getD m d = l.getD m d := by
  simp [List.getD, getElem?_modAt_ne h]

theorem getD_setAt_self {α : Type} {n : Nat} {l : List α} (h : n < l.length) (x d : α) : (setAt n x l).getD n d = x :=
  getD_modAt_self h _ d

theorem getD_setAt_ne {α : Type} {m n : Nat} (h : m ≠ n) (x : α) (l : List α) (d : α) :
    (setAt n x l).getD m d = l.getD m d :=
  getD_modAt_ne h _ l d

/-! ## The parts of the state -/

variable {s : State}

@[simp] theorem State.fresh_fst (s : State) : s.fresh.1 = s.uid := rfl
@[simp] theorem State.fresh_snd (s : State) : s.fresh.2 = { s with uid := s.uid + 1 } := rfl

theorem State.course_of_some {c : Nat} {x : Course} (h : s.course? c = some x) : s.course c = x := by
  simp [State.course, State.course?] at h ⊢; simp [h]

@[simp] theorem State.course?_setCourse_self (c : Nat) (x : Course) : (s.setCourse c x).course? c = some x := by
  simp [State.course?, State.setCourse]

theorem State.course?_setCourse_ne {k c : Nat} (h : k ≠ c) (x : Course) : (s.setCourse c x).course? k = s.course? k := by
  simp [State.course?, State.setCourse, tget_tset_ne h]

theorem State.onCourse_eq {c : Nat} {x : Course} (h : s.course? c = some x) (f : Course → Course) :
    s.onCourse c f = s.setCourse c (f x) := by
  simp [State.course?] at h; simp [State.onCourse, h]

theorem State.course?_onCourse_self {c : Nat} {x : Course} (h : s.course? c = some x) (f : Course → Course) :
    (s.onCourse c f).course? c = some (f x) := by
  rw [State.onCourse_eq h]; simp

theorem State.course?_onCourse_ne {k c : Nat} (h : k ≠ c) (f : Course → Course) :
    (s.onCourse c f).course? k = s.course? k := by
  unfold State.onCourse; split
  · exact State.course?_setCourse_ne h _
  · rfl

/-- An update of a course changes nothing but the table of courses. -/
theorem State.onCourse_frame (c : Nat) (f : Course → Course) :
    s.onCourse c f = { s with courses := (s.onCourse c f).courses } := by
  unfold State.onCourse; split <;> rfl

theorem State.onBlock_eq {b : Nat} {x : Block} (h : s.block? b = some x) (f : Block → Block) :
    s.onBlock b f = s.setBlock b (f x) := by
  simp [State.block?] at h; simp [State.onBlock, h]

theorem State.block?_onBlock_self {b : Nat} {x : Block} (h : s.block? b = some x) (f : Block → Block) :
    (s.onBlock b f).block? b = some (f x) := by
  rw [State.onBlock_eq h]; simp [State.block?, State.setBlock]

@[simp] theorem State.core_onCore_self (k : Nat × Nat) (f : Core → Core) : (s.onCore k f).core k = f (s.core k) := by
  simp [State.core, State.onCore, State.setCore]

theorem State.core_onCore_ne {j k : Nat × Nat} (h : j ≠ k) (f : Core → Core) : (s.onCore k f).core j = s.core j := by
  simp [State.core, State.onCore, State.setCore, tget_tset_ne h]

theorem State.ctx_onCtx_self {c : Nat} {x : Ctx} (h : s.ctx? c = some x) (f : Ctx → Ctx) :
    (s.onCtx c f).ctx c = f x := by
  simp [State.ctx?] at h; simp [State.ctx, State.onCtx, h]

theorem State.ctx_onCtx_ne {j c : Nat} (h : j ≠ c) (f : Ctx → Ctx) : (s.onCtx c f).ctx j = s.ctx j := by
  unfold State.onCtx; split
  · simp [State.ctx, tget_tset_ne h]
  · rfl

end Sys2Proof.Machine
end

