-- ==== Sys2Proof/Laws/Mem.lean ====
section
/-! SUPPORT. Memory as a canonical list of cells: a write is read back, leaves every other address alone, and keeps the
canonical form. -/

namespace Sys2Proof.Machine

/-- A lower bound may be lowered. -/
theorem cellWfFrom_mono {lo hi : Nat} (h : lo ≤ hi) {m : List Host.Cell} (w : cellWfFrom hi m = true) :
    cellWfFrom lo m = true := by
  cases m with
  | nil => rfl
  | cons p l =>
    simp only [cellWfFrom, Bool.and_eq_true, decide_eq_true_eq] at w ⊢
    exact ⟨⟨by omega, w.1.2⟩, w.2⟩

/-- An address below every listed one reads 0. -/
theorem cellGet_below {a lo : Nat} (h : a < lo) {m : List Host.Cell} (w : cellWfFrom lo m = true) : cellGet a m = 0 := by
  cases m with
  | nil => rfl
  | cons p l =>
    simp only [cellWfFrom, Bool.and_eq_true, decide_eq_true_eq] at w
    have h1 : ¬ p.1 < a := by omega
    have h2 : ¬ p.1 = a := by omega
    simp [cellGet, h1, h2]

theorem cellWfFrom_cellPut {lo a : Nat} (v : Byte) (h : lo ≤ a) {m : List Host.Cell} (w : cellWfFrom lo m = true) :
    cellWfFrom lo (cellPut a v m) = true := by
  induction m generalizing lo with
  | nil =>
    unfold cellPut; split
    · rfl
    · next hv => simp only [cellWfFrom, Bool.and_eq_true, decide_eq_true_eq]; exact ⟨⟨h, hv⟩, trivial⟩
  | cons p l ih =>
    simp only [cellWfFrom, Bool.and_eq_true, decide_eq_true_eq] at w
    obtain ⟨⟨h1, h2⟩, h3⟩ := w
    unfold cellPut
    split
    · simp only [cellWfFrom, Bool.and_eq_true, decide_eq_true_eq]
      exact ⟨⟨h1, h2⟩, ih (by omega) h3⟩
    · split
      · split
        · exact cellWfFrom_mono (by omega) h3
        · next hp hv =>
          simp only [cellWfFrom, Bool.and_eq_true, decide_eq_true_eq]
          exact ⟨⟨h, hv⟩, by rw [← hp]; exact h3⟩
      · split
        · simp only [cellWfFrom, Bool.and_eq_true, decide_eq_true_eq]; exact ⟨⟨h1, h2⟩, h3⟩
        · next hn hp hv =>
          simp only [cellWfFrom, Bool.and_eq_true, decide_eq_true_eq]
          exact ⟨⟨h, hv⟩, ⟨by omega, h2⟩, h3⟩

/-- The reading of one byte after a write of one byte. -/
theorem cellGet_cellPut {lo a b : Nat} (v : Byte) {m : List Host.Cell} (w : cellWfFrom lo m = true) :
    cellGet b (cellPut a v m) = if b = a then v else cellGet b m := by
  induction m generalizing lo with
  | nil =>
    by_cases hv : v = 0
    · simp [cellPut, cellGet, hv]
    · simp only [cellPut, hv, if_false, cellGet]
      by_cases h1 : a < b
      · have : b ≠ a := by omega
        simp [h1, this]
      · by_cases h2 : b = a
        · simp [h2]
        · have : a ≠ b := fun e => h2 e.symm
          simp [h1, h2, this]
  | cons p l ih =>
    simp only [cellWfFrom, Bool.and_eq_true, decide_eq_true_eq] at w
    obtain ⟨⟨h1, h2⟩, h3⟩ := w
    have below : ∀ c, c ≤ p.1 → cellGet c l = 0 := fun c hc => cellGet_below (by omega) h3
    unfold cellPut
    split
    · next hp =>
      simp only [cellGet, ih h3]
      by_cases hb : b = a
      · subst hb; simp [hp]
      · simp [hb]
    · split
      · next hn hp =>
        subst hp
        split
        · next hv =>
          subst hv
          by_cases hb : b = p.1
          · subst hb; simp [below]
          · simp only [hb, if_false, cellGet]
            by_cases hc : p.1 < b
            · simp [hc]
            · have : ¬ p.1 = b := fun e => hb e.symm
              simp [hc, this, below b (by omega)]
        · by_cases hb : b = p.1
          · subst hb; simp [cellGet]
          · have : ¬ p.1 = b := fun e => hb e.symm
            simp [cellGet, hb, this]
      · next hn hp =>
        split
        · next hv =>
          subst hv
          by_cases hb : b = a
          · subst hb; simp [cellGet, hn, hp]
          · simp [hb]
        · by_cases hb : b = a
          · subst hb; simp [cellGet]
          · by_cases hc : a < b
            · simp [cellGet, hb, hc]
            · have : ¬ a = b := fun e => hb e.symm
              have h4 : ¬ p.1 < b := by omega
              have h5 : ¬ p.1 = b := by omega
              simp [cellGet, hb, hc, this, h4, h5]

theorem cellWf_cellPuts {a : Nat} {l : List Byte} {m : List Host.Cell} (w : Memory.wf m = true) :
    Memory.wf (cellPuts a l m) = true := by
  induction l generalizing a m with
  | nil => exact w
  | cons v l ih => exact ih (cellWfFrom_cellPut v (Nat.zero_le _) w)

/-- The reading of one byte after a write of consecutive bytes. -/
theorem cellGet_cellPuts {a b : Nat} {l : List Byte} {m : List Host.Cell} (w : Memory.wf m = true) :
    cellGet b (cellPuts a l m) = if a ≤ b ∧ b < a + l.length then l.getD (b - a) 0 else cellGet b m := by
  induction l generalizing a m with
  | nil =>
    rw [cellPuts, if_neg (by simp)]
  | cons v l ih =>
    have w' := cellWfFrom_cellPut v (Nat.zero_le a) w
    rw [cellPuts, ih w', cellGet_cellPut v w]
    by_cases h1 : a + 1 ≤ b ∧ b < a + 1 + l.length
    · have h2 : a ≤ b ∧ b < a + (v :: l).length := by simp; omega
      have h3 : b - a = (b - (a + 1)) + 1 := by omega
      rw [if_pos h1, if_pos h2, h3]; simp
    · rw [if_neg h1]
      by_cases h2 : b = a
      · subst h2; simp
      · have h3 : ¬ (a ≤ b ∧ b < a + (v :: l).length) := by simp; omega
        rw [if_neg h2, if_neg h3]

/-- A write to memory keeps its canonical form. -/
theorem State.writePa_wf {s : State} (a : Nat) (l : List Byte) (w : Memory.wf s.mem = true) :
    Memory.wf (s.writePa a l).mem = true :=
  cellWf_cellPuts w

/-- A write to memory is read back, and leaves every other byte as it was. -/
theorem State.cellGet_writePa {s : State} (a b : Nat) (l : List Byte) (w : Memory.wf s.mem = true) :
    cellGet b (s.writePa a l).mem = if a ≤ b ∧ b < a + l.length then l.getD (b - a) 0 else cellGet b s.mem :=
  cellGet_cellPuts w

/-- A write to a scratchpad keeps its canonical form. -/
theorem BlockMem.write_wf {m : BlockMem} (a : Nat) (l : List Byte) (w : Memory.wf m.bytes = true) :
    Memory.wf (m.write a l).bytes = true :=
  cellWf_cellPuts w

/-! ## Byte order -/

@[simp] theorem length_leBytes (n v : Nat) : (leBytes n v).length = n := by
  induction n generalizing v with
  | zero => rfl
  | succ n ih => simp [leBytes, ih]

/-- A number that fits comes back from its bytes. -/
theorem leVal_leBytes (n v : Nat) (h : v < 256 ^ n) : leVal (leBytes n v) = v := by
  induction n generalizing v with
  | zero => simp only [Nat.pow_zero] at h; simp only [leBytes, leVal]; omega
  | succ n ih =>
    have h2 : v / 256 < 256 ^ n := by rw [Nat.pow_succ] at h; omega
    simp only [leBytes, leVal, ih _ h2, BitVec.toNat_ofNat]
    omega

end Sys2Proof.Machine
end

