-- ==== Sys2Proof/Laws/Issue.lean ====
section
/-! SUPPORT. What the shared operations of an issuing bundle do: the gate, scalar writes, vector writes with their
releases, and operations posted to the memory engine. -/

namespace Sys2Proof.Machine

/-! ## The gate -/

theorem gated_next {i : Instr} {s : State} (h : Issuing s) (f : State → State) : gated i s f = .next (f s) := by
  simp [gated, h.1, h.2]

/-- Whatever a gated instruction meets, the machine goes on. -/
theorem gated_isNext (i : Instr) (s : State) (f : State → State) : ∃ t, gated i s f = .next t := by
  unfold gated
  split
  · exact ⟨_, rfl⟩
  · split
    · exact ⟨_, rfl⟩
    · split
      · dsimp only
        split <;> exact ⟨_, rfl⟩
      · exact ⟨_, rfl⟩

/-! ## Frames compose -/

theorem OnlyCourse.refl (s : State) (c : Nat) : OnlyCourse s s c := ⟨rfl, fun _ _ => rfl⟩

theorem OnlyCourse.trans {s t u : State} {c : Nat} (h : OnlyCourse s t c) (k : OnlyCourse t u c) : OnlyCourse s u c := by
  refine ⟨?_, fun j hj => (k.2 j hj).trans (h.2 j hj)⟩
  refine k.1.trans ?_
  rw [h.1]

theorem OnlyCourse.mem {s t : State} {c : Nat} (h : OnlyCourse s t c) : t.mem = s.mem := by rw [h.1]

theorem OnlyCourse.sameMemory {s t : State} {c : Nat} (h : OnlyCourse s t c) : SameMemory s t := by
  intro a; rw [h.mem]

theorem OnlyCourse.of_onCourse (s : State) (c : Nat) (f : Course → Course) : OnlyCourse s (s.onCourse c f) c :=
  ⟨by rw [s.onCourse_frame c f], fun _ h => State.course?_onCourse_ne h f⟩

/-! ## Scalar writes (R129) -/

/-- A scalar write changes one scalar register and its ranked mark. -/
theorem State.writeS_spec {s : State} {x : Course} (h : s.course? s.iss.course = some x) (hl : x.sr.length = 32)
    (d : SReg) (v : DWord) :
    OnlyCourse s (s.writeS d v) s.iss.course ∧ ∃ y, (s.writeS d v).course? s.iss.course = some y ∧
      y = { x with sr := y.sr, ranked := y.ranked } ∧ y.s d.toNat = v ∧
      ∀ r : SReg, r ≠ d → y.s r.toNat = x.s r.toNat := by
  refine ⟨OnlyCourse.of_onCourse s _ _, _, State.course?_onCourse_self h _, rfl, ?_, ?_⟩
  · exact getD_setAt_self (by omega) v 0
  · intro r hr
    exact getD_setAt_ne (fun e => hr (BitVec.eq_of_toNat_eq e)) v x.sr 0

/-! ## Vector writes (R50, R51, R54) -/

/-- What the writes and releases of one instruction do to a state: nothing but the vectors of one course moves, no write
that is on its way is lost, and the operand file stays. -/
def KeepsWrites (c : Nat) (s t : State) : Prop :=
  OnlyCourse s t c ∧ s.uid ≤ t.uid ∧
    ∀ x, s.course? c = some x → ∃ y, t.course? c = some y ∧ OnlyVectors x y ∧ y.o = x.o ∧
      ∀ f ∈ x.flights, f.release = false → f ∈ y.flights

theorem OnlyVectors.trans {x y z : Course} (h : OnlyVectors x y) (k : OnlyVectors y z) : OnlyVectors x z := by
  refine Eq.trans k ?_
  rw [h]

theorem KeepsWrites.refl (c : Nat) (s : State) : KeepsWrites c s s :=
  ⟨OnlyCourse.refl s c, Nat.le_refl _, fun x h => ⟨x, h, rfl, rfl, fun _ m _ => m⟩⟩

theorem KeepsWrites.trans {c : Nat} {s t u : State} (h : KeepsWrites c s t) (k : KeepsWrites c t u) : KeepsWrites c s u := by
  refine ⟨h.1.trans k.1, Nat.le_trans h.2.1 k.2.1, fun x hx => ?_⟩
  obtain ⟨y, hy, v1, o1, f1⟩ := h.2.2 x hx
  obtain ⟨z, hz, v2, o2, f2⟩ := k.2.2 y hy
  exact ⟨z, hz, v1.trans v2, o2.trans o1, fun f m r => f2 f (f1 f m r) r⟩

theorem KeepsWrites.foldl {α : Type} {c : Nat} (f : State → α → State) (h : ∀ s a, KeepsWrites c s (f s a)) (l : List α) :
    ∀ s, KeepsWrites c s (l.foldl f s) := by
  induction l with
  | nil => exact KeepsWrites.refl c
  | cons a l ih => exact fun s => (h s a).trans (ih _)

/-- An update of the vectors of one course that loses no write. -/
theorem KeepsWrites.of_onCourse (s : State) (c : Nat) (g : Course → Course) (hv : ∀ x, OnlyVectors x (g x))
    (ho : ∀ x, (g x).o = x.o) (hf : ∀ x, s.course? c = some x → ∀ f ∈ x.flights, f.release = false → f ∈ (g x).flights) :
    KeepsWrites c s (s.onCourse c g) :=
  ⟨OnlyCourse.of_onCourse s c g, by simp, fun x h =>
    ⟨g x, State.course?_onCourse_self h g, hv x, ho x, hf x h⟩⟩

/-- One more identifier given out. -/
theorem KeepsWrites.bump (c : Nat) (s : State) : KeepsWrites c s s.fresh.2 :=
  ⟨⟨rfl, fun _ _ => rfl⟩, Nat.le_succ _, fun x h => ⟨x, h, rfl, rfl, fun _ m _ => m⟩⟩

theorem mem_takeWhile_or_dropWhile {α : Type} (p : α → Bool) {a : α} {l : List α} (h : a ∈ l) :
    a ∈ l.takeWhile p ∨ a ∈ l.dropWhile p := by
  rw [← List.mem_append, List.takeWhile_append_dropWhile]; exact h

/-- A release loses no write. -/
theorem State.releaseAt_keeps (s : State) (c v : Nat) (m : Mask) (mark : Nat) : KeepsWrites c s (s.releaseAt c v m mark) := by
  unfold State.releaseAt
  dsimp only
  split
  · exact KeepsWrites.refl c s
  · split
    · refine (KeepsWrites.bump c s).trans (KeepsWrites.of_onCourse _ c _ (fun _ => rfl) (fun _ => rfl) ?_)
      intro x hx f hf _
      have hx' : s.course? c = some x := hx
      have : f ∈ (s.course c).flights := by rw [State.course_of_some hx']; exact hf
      rcases mem_takeWhile_or_dropWhile (fun g : Flight => decide (g.id < mark)) this with h | h
      · exact List.mem_append_left _ h
      · exact List.mem_append_right _ (List.mem_cons_of_mem _ h)
    · exact KeepsWrites.of_onCourse s c _ (fun _ => rfl) (fun _ => rfl) (fun _ _ _ hf _ => hf)

theorem State.releases_keeps (s : State) (i : Instr) : KeepsWrites s.iss.course s (s.releases i) := by
  unfold State.releases
  dsimp only
  generalize s.iss.mask _ = m
  generalize (_ ++ _ : List Nat) = l
  generalize hc : s.iss.course = c
  induction l generalizing s with
  | nil => exact KeepsWrites.refl c s
  | cons v l ih =>
    have k := s.releaseAt_keeps c v m s.iss.mark
    have hc' : (s.releaseAt c v m s.iss.mark).iss.course = c := by rw [k.1.1]; exact hc
    rw [List.foldl_cons, hc]
    exact k.trans (ih _ hc')

theorem State.addFlags_keeps (s : State) (c : Nat) (f : DWord) (due : Nat) : KeepsWrites c s (s.addFlags c f due) := by
  unfold State.addFlags
  split
  · exact KeepsWrites.refl c s
  · exact (KeepsWrites.bump c s).trans
      (KeepsWrites.of_onCourse _ c _ (fun _ => rfl) (fun _ => rfl) (fun _ _ _ hf _ => List.mem_append_left _ hf))

theorem State.latchL_keeps (s : State) (slot : Nat) (m : Mask) (vals : Lanes) (tag : Tag) (c : Nat) :
    KeepsWrites c s (s.latchL slot m vals tag) := by
  unfold State.latchL
  dsimp only
  split
  · exact KeepsWrites.refl c s
  · split <;> exact ⟨⟨rfl, fun _ _ => rfl⟩, Nat.le_refl _, fun x h => ⟨x, h, rfl, rfl, fun _ m _ => m⟩⟩

@[simp] theorem State.latchL_course (s : State) (slot : Nat) (m : Mask) (vals : Lanes) (tag : Tag) :
    (s.latchL slot m vals tag).iss.course = s.iss.course := by
  unfold State.latchL
  dsimp only
  split
  · rfl
  · split <;> rfl

/-- A write that has been issued stays, whatever keeps the writes. -/
theorem Written.keep {s t u : State} {c d : Nat} {y : Course} {m : Mask} {tag : Tag} {fl : DWord} {val : Nat → Word}
    (k : KeepsWrites c t u) (hy : t.course? c = some y) (h : Written s y d m tag fl val) :
    ∃ z, u.course? c = some z ∧ OnlyVectors y z ∧ Written s z d m tag fl val := by
  obtain ⟨z, hz, hv, ho, hf⟩ := k.2.2 y hy
  have hi : z.info = y.info := by rw [hv]
  have hw : z.w = y.w := by unfold Course.w Course.tower; rw [hi]
  refine ⟨z, hz, hv, ⟨fun hd => ?_, fun hd => ?_⟩⟩
  · obtain ⟨f, h1, h2, h3, h4⟩ := h.1 hd
    exact ⟨f, hf f h1 h3, h2, h3, by rw [hw]; exact h4⟩
  · rw [ho, hw]; exact h.2 hd

theorem State.latch_release_keeps {s : State} {c : Nat} (h : s.iss.course = c) (slot : Nat) (m : Mask) (vals : Lanes)
    (tag : Tag) (i : Instr) : KeepsWrites c s ((s.latchL slot m vals tag).releases i) := by
  have k := (s.latchL slot m vals tag).releases_keeps i
  rw [State.latchL_course, h] at k
  exact (s.latchL_keeps slot m vals tag c).trans k

/-- One result of fixed latency: it is on its way to a register of the renamed file, or stands in the operand file. -/
theorem State.writeReg_spec {s : State} {c d : Nat} {x : Course} (hx : s.course? c = some x) (ho : x.o.length = 8) {m : Mask}
    (hm : m ≠ 0) (vals : Lanes) (tag : Tag) (fl : DWord) (due : Nat) :
    OnlyCourse s (s.writeReg c d m vals tag fl due) c ∧
      ∃ y, (s.writeReg c d m vals tag fl due).course? c = some y ∧ OnlyVectors x y ∧
        Written s y d m tag fl fun j => vals.getD j 0 := by
  unfold State.writeReg
  rw [if_neg hm]
  by_cases hd : (d < 64 || d = qwCode) = true
  · rw [if_pos hd]
    have hx' : s.fresh.2.course? c = some x := hx
    refine ⟨(KeepsWrites.bump c s).1.trans (OnlyCourse.of_onCourse _ c _), _, State.course?_onCourse_self hx' _, rfl, ?_, ?_⟩
    · exact fun _ => ⟨_, List.mem_append_right _ (List.mem_singleton.mpr rfl), rfl, rfl, rfl, rfl, rfl, Nat.le_refl _,
        fun _ _ _ => rfl⟩
    · intro h
      have hd' : d < 64 ∨ d = qwCode := by simpa using hd
      have hq : qwCode = 78 := rfl
      omega
  · rw [if_neg hd]
    have hd' : ¬ (d < 64 ∨ d = qwCode) := by simpa using hd
    let g : Course → Course := fun y =>
      { y with o := modAt (d - 64) (fun r => r.merge (s.course c).w m vals tag) y.o }
    have h1 : (s.onCourse c g).course? c = some (g x) := State.course?_onCourse_self hx g
    have hw : (s.course c).w = x.w := by rw [State.course_of_some hx]
    have h2 : Written s (g x) d m tag fl fun j => vals.getD j 0 := by
      refine ⟨fun h => absurd h hd', fun h => ?_⟩
      have h3 : (g x).o.getD (d - 64) VReg.zero = ((x.o.getD (d - 64) VReg.zero).merge (s.course c).w m vals tag) :=
        getD_modAt_self (by omega) _ _
      rw [h3]
      refine ⟨rfl, fun j hj hm => ?_⟩
      have hj' : j < (s.course c).w := by rw [hw]; exact hj
      simp [VReg.merge, List.getD, List.getElem?_map, List.getElem?_range hj', hm]
    have k := (s.onCourse c g).addFlags_keeps c fl due
    obtain ⟨z, hz, hv, hwr⟩ := Written.keep k h1 h2
    have hg : OnlyVectors x (g x) := rfl
    exact ⟨(OnlyCourse.of_onCourse s c g).trans k.1, z, hz, hg.trans hv, hwr⟩

/-- The lanes of a list that a function fills. -/
theorem getD_map_range {α : Type} {w j : Nat} (h : j < w) (f : Nat → α) (d : α) :
    ((List.range w).map f).getD j d = f j := by
  simp [List.getD, List.getElem?_map, List.getElem?_range h]

theorem OnlyVectors.w {x y : Course} (h : OnlyVectors x y) : y.w = x.w := by
  have : y.info = x.info := by rw [h]
  unfold Course.w Course.tower; rw [this]

/-- What an instruction of fixed latency with one destination does (R161): its result is written, its sources are
released, and nothing else moves. -/
theorem State.vector_spec {s : State} {x : Course} (hx : s.course? s.iss.course = some x) (ho : x.o.length = 8)
    (hw : s.iss.src.w = x.w) {i : Instr} {d : Nat} (hd : (profile i).written = [d])
    (hm : s.iss.mask (profile i).slot ≠ 0) (f : Reads → Nat → Word × DWord) :
    OnlyCourse s (s.vector i f) s.iss.course ∧
      ∃ y, (s.vector i f).course? s.iss.course = some y ∧ OnlyVectors x y ∧
        Written s y d (s.iss.mask (profile i).slot) ((s.iss.resultTags i).getD 0 .und)
          ((s.iss.reads i).flags ||| orFlags (s.iss.mask (profile i).slot)
            ((List.range s.iss.src.w).map fun j => (f (s.iss.reads i) j).2))
          fun j => (f (s.iss.reads i) j).1 := by
  unfold State.vector State.writeAll
  simp only [hd, if_neg hm, List.length_singleton, List.range_one, List.foldl_cons, List.foldl_nil, if_true,
    List.getD_cons_zero, List.map_map]
  have hv : (List.range s.iss.src.w).map (Prod.fst ∘ f (s.iss.reads i)) =
      (List.range s.iss.src.w).map fun j => (f (s.iss.reads i) j).1 := rfl
  have hf : (List.range s.iss.src.w).map (Prod.snd ∘ f (s.iss.reads i)) =
      (List.range s.iss.src.w).map fun j => (f (s.iss.reads i) j).2 := rfl
  rw [hv, hf]
  generalize hfl : (s.iss.reads i).flags ||| _ = fl
  obtain ⟨h1, y, hy, v1, w1⟩ := State.writeReg_spec (d := d) hx ho hm
    ((List.range s.iss.src.w).map fun j => (f (s.iss.reads i) j).1) ((s.iss.resultTags i).getD 0 .und) fl
    (s.clkOf s.iss.course + boundOf i (s.course s.iss.course).tower)
  generalize s.writeReg _ _ _ _ _ _ _ = t at h1 hy ⊢
  have hc : t.iss.course = s.iss.course := by rw [h1.1]
  have k := State.latch_release_keeps hc (profile i).slot (s.iss.mask (profile i).slot)
    ((List.range s.iss.src.w).map fun j => (f (s.iss.reads i) j).1) ((s.iss.resultTags i).headD .und) i
  have w2 : Written s y d (s.iss.mask (profile i).slot) ((s.iss.resultTags i).getD 0 .und) fl
      fun j => (f (s.iss.reads i) j).1 := by
    have e : ∀ j, j < y.w → ((List.range s.iss.src.w).map fun j => (f (s.iss.reads i) j).1).getD j 0 =
        (f (s.iss.reads i) j).1 := fun j hj => getD_map_range (by rw [hw, ← v1.w]; exact hj) _ 0
    refine ⟨fun h => ?_, fun h => ?_⟩
    · obtain ⟨g, a1, a2, a3, a4, a5, a6, a7, a8⟩ := w1.1 h
      exact ⟨g, a1, a2, a3, a4, a5, a6, a7, fun j hj hmj => (a8 j hj hmj).trans (e j hj)⟩
    · obtain ⟨a1, a2⟩ := w1.2 h
      exact ⟨a1, fun j hj hmj => (a2 j hj hmj).trans (e j hj)⟩
  obtain ⟨z, hz, v2, w3⟩ := Written.keep k hy w2
  exact ⟨h1.trans k.1, z, hz, v1.trans v2, w3⟩

end Sys2Proof.Machine
end

