-- ==== Sys2Proof/Laws/Lanes.lean ====
section
/-! SUPPORT. What an operation over the lanes of a course does: each lane of its mask, and nothing else. -/

namespace Sys2Proof.Machine

theorem Course.onLanes_only (x : Course) (m : Mask) (f : Nat → Lane → Lane) : OnlyLanes x (x.onLanes m f) := rfl

@[simp] theorem Course.onLanes_w (x : Course) (m : Mask) (f : Nat → Lane → Lane) : (x.onLanes m f).w = x.w := rfl

@[simp] theorem Course.onLanes_length (x : Course) (m : Mask) (f : Nat → Lane → Lane) :
    (x.onLanes m f).lanes.length = x.lanes.length := by
  simp [Course.onLanes]

/-- A lane of a mask takes the function, every other lane stays. -/
theorem Course.onLanes_lane (x : Course) (m : Mask) (f : Nat → Lane → Lane) {j : Nat} (h : j < x.lanes.length) :
    (x.onLanes m f).lane j = if Mask.has m j then f j (x.lane j) else x.lane j := by
  simp only [Course.lane, Course.onLanes, List.getD_eq_getElem?_getD, List.getElem?_map, List.getElem?_zipIdx]
  simp [List.getElem?_eq_getElem h]

/-- A lane that the course does not have stays away. -/
theorem Course.onLanes_lane_out (x : Course) (m : Mask) (f : Nat → Lane → Lane) {j : Nat} (h : x.lanes.length ≤ j) :
    (x.onLanes m f).lane j = Lane.gone := by
  simp [Course.lane, Course.onLanes, List.getElem?_eq_none h]

theorem Course.lane_out (x : Course) {j : Nat} (h : x.lanes.length ≤ j) : x.lane j = Lane.gone := by
  simp [Course.lane, List.getElem?_eq_none h]

/-- An update of the course of the bundle in issue. -/
theorem State.onCourse_spec {s : State} {x : Course} (h : s.course? s.iss.course = some x) (f : Course → Course) :
    OnlyCourse s (s.onCourse s.iss.course f) s.iss.course ∧
      (s.onCourse s.iss.course f).course? s.iss.course = some (f x) :=
  ⟨OnlyCourse.of_onCourse s _ f, State.course?_onCourse_self h f⟩

/-- Lanes of a mask branch: they take their targets, and nothing else changes. -/
theorem State.jump_spec {s : State} {x : Course} (h : s.course? s.iss.course = some x) (hl : x.lanes.length = x.w) (m : Mask)
    (target : Nat → Word) :
    OnlyCourse s (s.jump m target) s.iss.course ∧ ∃ y, (s.jump m target).course? s.iss.course = some y ∧ OnlyLanes x y ∧
      ∀ j, j < x.w → y.lane j = if Mask.has m j then { x.lane j with lpc := target j } else x.lane j :=
  ⟨OnlyCourse.of_onCourse s _ _, _, State.course?_onCourse_self h _, rfl, fun _ hj =>
    Course.onLanes_lane x m _ (hl ▸ hj)⟩

/-! ## Masks -/

/-- A power of two above a number sets one bit of it. -/
theorem testBit_add_pow {n w : Nat} (h : n < 2 ^ w) (j : Nat) : (n + 2 ^ w).testBit j = (decide (j = w) || n.testBit j) := by
  by_cases hj : j = w
  · subst hj
    rw [Nat.add_comm, Nat.testBit_two_pow_add_eq]; simp [Nat.testBit_lt_two_pow h]
  · rcases Nat.lt_or_gt_of_ne hj with h1 | h1
    · rw [Nat.add_comm, Nat.testBit_two_pow_add_gt h1]; simp [hj]
    · have h2 : 2 ^ (w + 1) ≤ 2 ^ j := Nat.pow_le_pow_right (by decide) h1
      rw [Nat.testBit_lt_two_pow (by omega), Nat.testBit_lt_two_pow (by omega)]; simp [hj]

/-- The number that a sum of distinct powers of two makes. -/
theorem sumPow_spec (p : Nat → Bool) (w : Nat) :
    (List.range w).foldl (fun a i => if p i then a + 2 ^ i else a) 0 < 2 ^ w ∧
      ∀ j, ((List.range w).foldl (fun a i => if p i then a + 2 ^ i else a) 0).testBit j = (decide (j < w) && p j) := by
  induction w with
  | zero => simp
  | succ w ih =>
    rw [List.range_succ, List.foldl_append]
    simp only [List.foldl_cons, List.foldl_nil]
    generalize (List.range w).foldl (fun a i => if p i then a + 2 ^ i else a) 0 = n at ih ⊢
    obtain ⟨h2, h1⟩ := ih
    have h3 : 2 ^ (w + 1) = 2 ^ w + 2 ^ w := by omega
    have h4 : ∀ j, (j < w + 1) ↔ (j = w ∨ j < w) := by omega
    by_cases hp : p w = true
    · rw [if_pos hp]
      refine ⟨by omega, fun j => ?_⟩
      rw [testBit_add_pow h2, h1]
      by_cases hj : j = w
      · subst hj; simp [hp]
      · simp [hj, h4]
    · rw [if_neg hp]
      refine ⟨by omega, fun j => ?_⟩
      rw [h1]
      by_cases hj : j = w
      · subst hj; simp [hp]
      · simp [hj, h4]

/-- A set of lanes that a test picks. -/
theorem Mask.has_ofPred {w : Nat} (hw : w ≤ 64) (p : Nat → Bool) (j : Nat) :
    Mask.has (Mask.ofPred w p) j = (decide (j < w) && p j) := by
  obtain ⟨h1, h2⟩ := sumPow_spec p w
  simp only [Mask.has, Mask.ofPred, BitVec.getLsbD_ofNat, h2]
  by_cases hj : j < w
  · simp [hj, Nat.lt_of_lt_of_le hj hw]
  · simp [hj]

theorem Course.w_le (x : Course) : x.w ≤ 64 := by
  unfold Course.w Config.lanes; split <;> decide

/-- The lanes of a course that a test picks. -/
theorem Course.has_maskOf (x : Course) (p : Lane → Bool) (j : Nat) :
    Mask.has (x.maskOf p) j = (decide (j < x.w) && p (x.lane j)) :=
  Mask.has_ofPred x.w_le _ j

@[simp] theorem Mask.has_and (a b : Mask) (j : Nat) : Mask.has (a &&& b) j = (Mask.has a j && Mask.has b j) := by
  simp [Mask.has]

@[simp] theorem Mask.has_or (a b : Mask) (j : Nat) : Mask.has (a ||| b) j = (Mask.has a j || Mask.has b j) := by
  simp [Mask.has]

/-- A mask is 0 when it has no lane. -/
theorem Mask.eq_zero_iff (m : Mask) : m = 0 ↔ ∀ j, Mask.has m j = false := by
  constructor
  · rintro rfl j; simp [Mask.has]
  · intro h
    apply BitVec.eq_of_getLsbD_eq
    intro i _
    simpa [Mask.has] using h i

/-- One mask without the other is 0 when the other has all of its lanes. -/
theorem Mask.diff_zero_iff (a b : Mask) : a &&& ~~~b = 0 ↔ ∀ j, Mask.has a j = true → Mask.has b j = true := by
  rw [Mask.eq_zero_iff]
  refine forall_congr' fun j => ?_
  by_cases hj : j < 64
  · simp [Mask.has, hj]
  · have : ∀ c : Mask, c.getLsbD j = false := fun c => BitVec.getLsbD_of_ge c j (by omega)
    simp [Mask.has, this]

end Sys2Proof.Machine
end

