-- ==== Sys2Proof/Laws/Posted.lean ====
section
/-! SUPPORT. What posting an operation does: it joins the operations of its course, its counter goes up, its destinations
have their writes on the way, and nothing else moves. -/

namespace Sys2Proof.Machine

theorem OnlyPosted.refl (x : Course) : OnlyPosted x x := rfl

theorem OnlyPosted.trans {x y z : Course} (h : OnlyPosted x y) (k : OnlyPosted y z) : OnlyPosted x z := by
  refine Eq.trans k ?_
  rw [h]

theorem OnlyVectors.posted {x y : Course} (h : OnlyVectors x y) (ho : y.o = x.o) : OnlyPosted x y := by
  have e1 : y.ops = x.ops := by rw [h]
  have e2 : y.outs = x.outs := by rw [h]
  refine Eq.trans h ?_
  rw [ho, e1, e2]

/-- A write that is opened loses none that is on its way. -/
theorem State.addWrite_keeps (s : State) (c v : Nat) (m : Mask) (vals : Lanes) (tag : Tag) (fl : DWord)
    (due op : Option Nat) : KeepsWrites c s (s.addWrite c v m vals tag fl due op).2 :=
  (KeepsWrites.bump c s).trans
    (KeepsWrites.of_onCourse _ c _ (fun _ => rfl) (fun _ => rfl) (fun _ _ _ hf _ => List.mem_append_left _ hf))

theorem State.addWrite_iss (s : State) (c v : Nat) (m : Mask) (vals : Lanes) (tag : Tag) (fl : DWord)
    (due op : Option Nat) : (s.addWrite c v m vals tag fl due op).2.iss = s.iss := by
  unfold State.addWrite
  dsimp only
  rw [State.onCourse_frame]
  rfl

theorem State.openDests_keeps (s : State) (i : Instr) (m : Mask) (op : Nat) : KeepsWrites s.iss.course s (s.openDests i m op) := by
  unfold State.openDests
  dsimp only
  generalize s.iss.resultTags i = tags
  generalize List.filter _ _ = l
  generalize hc : s.iss.course = c
  induction l generalizing s with
  | nil => exact KeepsWrites.refl c s
  | cons p l ih =>
    rw [List.foldl_cons, hc]
    have k := s.addWrite_keeps c p.1 m [] (tags.getD p.2 .und) 0 none (some op)
    exact k.trans (ih _ (by rw [State.addWrite_iss]; exact hc))

/-- What a posted operation changes of its course. -/
structure Posts (s t : State) (c : Nat) (x y : Course) (o : MemOp) : Prop where
  only : OnlyCourse s t c
  at_ : t.course? c = some y
  posted : OnlyPosted x y
  ops : y.ops = x.ops ++ [{ o with id := s.uid }]
  outs : y.outs = match o.cnt with | some k => x.outs ++ [⟨s.uid, k, false⟩] | none => x.outs
  keeps : ∀ f ∈ x.flights, f.release = false → f ∈ y.flights

/-- What keeps the writes keeps a posted operation. -/
theorem Posts.keep {s t u : State} {c : Nat} {x y : Course} {o : MemOp} (h : Posts s t c x y o) (k : KeepsWrites c t u) :
    ∃ z, Posts s u c x z o ∧ OnlyVectors y z := by
  obtain ⟨z, hz, hv, ho, hf⟩ := k.2.2 y h.at_
  refine ⟨z, ⟨h.only.trans k.1, hz, h.posted.trans (hv.posted ho), ?_, ?_, fun f m r => hf f (h.keeps f m r) r⟩, hv⟩
  · have : z.ops = y.ops := by rw [hv]
    rw [this]; exact h.ops
  · have : z.outs = y.outs := by rw [hv]
    rw [this]; exact h.outs

theorem State.postOp_spec {s : State} {x : Course} (hx : s.course? s.iss.course = some x) (i : Instr) (o : MemOp)
    (ha : o.act ≠ 0) : ∃ y, Posts s (s.postOp i o) s.iss.course x y o := by
  unfold State.postOp
  rw [if_neg ha]
  dsimp only
  generalize hg : s.fresh.2.onCourse s.iss.course _ = u
  have hu : ∃ y, Posts s u s.iss.course x y o := by
    subst hg
    have hx' : s.fresh.2.course? s.iss.course = some x := hx
    refine ⟨_, ⟨(KeepsWrites.bump _ s).1.trans (OnlyCourse.of_onCourse _ _ _), State.course?_onCourse_self hx' _, ?_, rfl, ?_, ?_⟩⟩
    · cases o.cnt <;> rfl
    · cases o.cnt <;> rfl
    · intro f hf _; cases o.cnt <;> exact hf
  obtain ⟨y, hy⟩ := hu
  have hc : u.iss.course = s.iss.course := by rw [hy.only.1]
  have k := u.openDests_keeps i o.act s.fresh.1
  rw [hc] at k
  obtain ⟨z, hz, _⟩ := hy.keep k
  exact ⟨z, hz⟩

/-- A memory row posts its operation; its reads raise their flags later, and its last-use sources are released. -/
theorem State.memRow_spec {s : State} {x : Course} (hx : s.course? s.iss.course = some x) (i : Instr) (o : MemOp)
    (ha : o.act ≠ 0) : ∃ y, Posts s (s.memRow i o) s.iss.course x y o := by
  obtain ⟨y, hy⟩ := State.postOp_spec hx i o ha
  unfold State.memRow State.readFlags
  generalize s.postOp i o = u at hy ⊢
  have hc : u.iss.course = s.iss.course := by rw [hy.only.1]
  rw [hc]
  generalize (s.iss.reads i).flags = fl
  generalize u.clkOf _ + 2 = due
  obtain ⟨z, hz, _⟩ := hy.keep (u.addFlags_keeps s.iss.course fl due)
  generalize u.addFlags s.iss.course fl due = v at hz ⊢
  have hc2 : v.iss.course = s.iss.course := by rw [hz.only.1]
  have k := v.releases_keeps i
  rw [hc2] at k
  obtain ⟨w, hw, _⟩ := hz.keep k
  exact ⟨w, hw⟩

end Sys2Proof.Machine
end

