-- ==== Sys2Proof/Laws/Commands.lean ====
section
/-! SUPPORT. What a slot-3 command does when it joins its engine: it stands last in the queue, its counter goes up, and
nothing but its course and its core changes. -/

namespace Sys2Proof.Machine

theorem slot3_next {i : Instr} {s : State} (h : Issuing s) (g : s.iss.g3 ≠ 0) (f : State → State) : slot3 i s f = .next (f s) := by
  rw [slot3, gated_next h]
  show Host.Outcome.next (if s.iss.g3 = 0 then s else f s) = _
  rw [if_neg g]

theorem OnlyCourseCore.refl (s : State) (c k) : OnlyCourseCore s s c k := ⟨rfl, fun _ _ => rfl, fun _ _ => rfl⟩
theorem OnlyCourseCore.trans {s t u : State} {c : Nat} {k} (h : OnlyCourseCore s t c k) (g : OnlyCourseCore t u c k) :
    OnlyCourseCore s u c k := by
  refine ⟨?_, fun j n => (g.2.1 j n).trans (h.2.1 j n), fun q n => (g.2.2 q n).trans (h.2.2 q n)⟩
  have := g.1
  rw [h.1] at this
  exact this

theorem OnlyCourseCore.onCourse (s : State) (c k f) : OnlyCourseCore s (s.onCourse c f) c k := by
  refine ⟨?_, fun j n => State.course?_onCourse_ne n f, fun q n => ?_⟩
  · unfold State.onCourse; split <;> rfl
  · unfold State.onCourse; split <;> rfl

theorem OnlyCourseCore.onCore (s : State) (c k f) : OnlyCourseCore s (s.onCore k f) c k :=
  ⟨rfl, fun _ _ => rfl, fun _ n => State.core_onCore_ne n f⟩

theorem OnlyCourseCore.fresh (s : State) (c k) : OnlyCourseCore s s.fresh.2 c k := ⟨rfl, fun _ _ => rfl, fun _ _ => rfl⟩

theorem State.core_onCourse (s : State) (c f k) : (s.onCourse c f).core k = s.core k := by
  unfold State.onCourse; split <;> rfl

theorem State.pushCmd_spec {s : State} {x : Course} (m : MCmd) (hx : s.course? m.course = some x) :
    OnlyCourseCore s (s.pushCmd m) m.course s.iss.src.coreKey ∧
    ((s.pushCmd m).core s.iss.src.coreKey).mq = (s.core s.iss.src.coreKey).mq ++ [{ m with id := s.uid, seq := s.uid }] ∧
    (s.pushCmd m).course? m.course = some (if m.kind == .macl then x else x.count s.uid 3) := by
  unfold State.pushCmd
  dsimp only
  split
  · refine ⟨(OnlyCourseCore.fresh s _ _).trans (OnlyCourseCore.onCore _ _ _ _), ?_, hx⟩
    rw [State.core_onCore_self]; rfl
  · refine ⟨((OnlyCourseCore.fresh s _ _).trans (OnlyCourseCore.onCore _ _ _ _)).trans (OnlyCourseCore.onCourse _ _ _ _), ?_, ?_⟩
    · rw [State.core_onCourse, State.core_onCore_self]; rfl
    · exact State.course?_onCourse_self (s := s.fresh.2.onCore _ _) hx _

theorem State.addFlight_spec {s : State} {x : Course} {c : Nat} (hx : s.course? c = some x) (v m vals tag fl due k) :
   let r := s.addFlight c v m vals tag fl due
   OnlyCourseCore s r.2 c k ∧ r.1 = s.uid ∧ r.2.core k = s.core k ∧
   r.2.course? c = some { x with flights := x.flights ++ [⟨s.uid, some v, false, m, vals, tag, fl, due, false, false, none⟩] } := by
  refine ⟨(OnlyCourseCore.fresh s _ _).trans (OnlyCourseCore.onCourse _ _ _ _), rfl, ?_, ?_⟩
  · unfold State.addFlight State.addWrite; dsimp only; rw [State.core_onCourse]; rfl
  · exact State.course?_onCourse_self (s := s.fresh.2) hx _


end Sys2Proof.Machine
end

