-- ==== Sys2Proof/Laws/Exec.lean ====
section
/-! SUPPORT. The dispatch, one equation for each constructor: an instruction runs its own meaning. -/

namespace Sys2Proof.Machine

theorem exec_nop (s : State) : exec .nop s = execNop s := rfl
theorem exec_bra (s : State) {disp} : exec (.bra disp) s = execBra disp s := rfl
theorem exec_brp (s : State) {p disp} : exec (.brp p disp) s = execBrp p disp s := rfl
theorem exec_brs (s : State) {st im} : exec (.brs st im) s = execBrs st im s := rfl
theorem exec_brx (s : State) {a ua} : exec (.brx a ua) s = execBrx a ua s := rfl
theorem exec_call (s : State) {disp} : exec (.call disp) s = execCall disp s := rfl
theorem exec_callx (s : State) {a ua} : exec (.callx a ua) s = execCallx a ua s := rfl
theorem exec_ret (s : State) : exec .ret s = execRet s := rfl
theorem exec_loopi (s : State) {n} : exec (.loopi n) s = execLoopi n s := rfl
theorem exec_loop (s : State) {disp} : exec (.loop disp) s = execLoop disp s := rfl
theorem exec_jarm (s : State) {j} : exec (.jarm j) s = execJarm j s := rfl
theorem exec_jwait (s : State) {j} : exec (.jwait j) s = execJwait j s := rfl
theorem exec_yld (s : State) : exec .yld s = execYld s := rfl
theorem exec_exit (s : State) : exec .exit s = execExit s := rfl
theorem exec_trap (s : State) {c} : exec (.trap c) s = execTrap c s := rfl
theorem exec_eret (s : State) : exec .eret s = execEret s := rfl
theorem exec_waitc (s : State) {n t} : exec (.waitc n t) s = execWaitc n t s := rfl
theorem exec_mfs (s : State) {d im} : exec (.mfs d im) s = execMfs d im s := rfl
theorem exec_mts (s : State) {a im} : exec (.mts a im) s = execMts a im s := rfl
theorem exec_save (s : State) {a b} : exec (.save a b) s = execSave a b s := rfl
theorem exec_rest (s : State) {a b} : exec (.rest a b) s = execRest a b s := rfl
theorem exec_pdone (s : State) : exec .pdone s = execPdone s := rfl
theorem exec_govq (s : State) {d} : exec (.govq d) s = execGovq d s := rfl
theorem exec_sadd (s : State) {d a b} : exec (.sadd d a b) s = execSadd d a b s := rfl
theorem exec_ssub (s : State) {d a b} : exec (.ssub d a b) s = execSsub d a b s := rfl
theorem exec_smul (s : State) {d a b} : exec (.smul d a b) s = execSmul d a b s := rfl
theorem exec_smulh (s : State) {d a b u} : exec (.smulh d a b u) s = execSmulh d a b u s := rfl
theorem exec_sand (s : State) {d a b} : exec (.sand d a b) s = execSand d a b s := rfl
theorem exec_sor (s : State) {d a b} : exec (.sor d a b) s = execSor d a b s := rfl
theorem exec_sxor (s : State) {d a b} : exec (.sxor d a b) s = execSxor d a b s := rfl
theorem exec_sshl (s : State) {d a b} : exec (.sshl d a b) s = execSshl d a b s := rfl
theorem exec_sshlImm (s : State) {d a k} : exec (.sshlImm d a k) s = execSshlImm d a k s := rfl
theorem exec_sshr (s : State) {d a b} : exec (.sshr d a b) s = execSshr d a b s := rfl
theorem exec_sshrImm (s : State) {d a k} : exec (.sshrImm d a k) s = execSshrImm d a k s := rfl
theorem exec_ssra (s : State) {d a b} : exec (.ssra d a b) s = execSsra d a b s := rfl
theorem exec_ssraImm (s : State) {d a k} : exec (.ssraImm d a k) s = execSsraImm d a k s := rfl
theorem exec_smin (s : State) {d a b u} : exec (.smin d a b u) s = execSmin d a b u s := rfl
theorem exec_smax (s : State) {d a b u} : exec (.smax d a b u) s = execSmax d a b u s := rfl
theorem exec_scmp (s : State) {d a b c} : exec (.scmp d a b c) s = execScmp d a b c s := rfl
theorem exec_saddi (s : State) {d a im} : exec (.saddi d a im) s = execSaddi d a im s := rfl
theorem exec_sli (s : State) {d im} : exec (.sli d im) s = execSli d im s := rfl
theorem exec_slih (s : State) {d im} : exec (.slih d im) s = execSlih d im s := rfl
theorem exec_ssel (s : State) {d a b c} : exec (.ssel d a b c) s = execSsel d a b c s := rfl
theorem exec_sld (s : State) {d a im} : exec (.sld d a im) s = execSld d a im s := rfl
theorem exec_sst (s : State) {a b im} : exec (.sst a b im) s = execSst a b im s := rfl
theorem exec_vtos (s : State) {d a ua lane} : exec (.vtos d a ua lane) s = execVtos d a ua lane s := rfl
theorem exec_vtosF (s : State) {d a ua} : exec (.vtosF d a ua) s = execVtosF d a ua s := rfl
theorem exec_sclz (s : State) {d a} : exec (.sclz d a) s = execSclz d a s := rfl
theorem exec_spopc (s : State) {d a} : exec (.spopc d a) s = execSpopc d a s := rfl
theorem exec_iadd (s : State) {d a b ua ub x} : exec (.iadd d a b ua ub x) s = execIadd d a b ua ub x s := rfl
theorem exec_isub (s : State) {d a b ua ub x} : exec (.isub d a b ua ub x) s = execIsub d a b ua ub x s := rfl
theorem exec_iaddc (s : State) {d a b ua ub x c uc} : exec (.iaddc d a b ua ub x c uc) s = execIaddc d a b ua ub x c uc s := rfl
theorem exec_imul (s : State) {d a b ua ub} : exec (.imul d a b ua ub) s = execImul d a b ua ub s := rfl
theorem exec_imulh (s : State) {d a b ua ub} : exec (.imulh d a b ua ub) s = execImulh d a b ua ub s := rfl
theorem exec_imulhu (s : State) {d a b ua ub} : exec (.imulhu d a b ua ub) s = execImulhu d a b ua ub s := rfl
theorem exec_imad (s : State) {d a b ua ub c uc} : exec (.imad d a b ua ub c uc) s = execImad d a b ua ub c uc s := rfl
theorem exec_imin (s : State) {d a b ua ub} : exec (.imin d a b ua ub) s = execImin d a b ua ub s := rfl
theorem exec_imax (s : State) {d a b ua ub} : exec (.imax d a b ua ub) s = execImax d a b ua ub s := rfl
theorem exec_iminu (s : State) {d a b ua ub} : exec (.iminu d a b ua ub) s = execIminu d a b ua ub s := rfl
theorem exec_imaxu (s : State) {d a b ua ub} : exec (.imaxu d a b ua ub) s = execImaxu d a b ua ub s := rfl
theorem exec_iabs (s : State) {d a ua} : exec (.iabs d a ua) s = execIabs d a ua s := rfl
theorem exec_and (s : State) {d a b ua ub} : exec (.and d a b ua ub) s = execAnd d a b ua ub s := rfl
theorem exec_or (s : State) {d a b ua ub} : exec (.or d a b ua ub) s = execOr d a b ua ub s := rfl
theorem exec_xor (s : State) {d a b ua ub} : exec (.xor d a b ua ub) s = execXor d a b ua ub s := rfl
theorem exec_andn (s : State) {d a b ua ub} : exec (.andn d a b ua ub) s = execAndn d a b ua ub s := rfl
theorem exec_shl (s : State) {d a b ua ub} : exec (.shl d a b ua ub) s = execShl d a b ua ub s := rfl
theorem exec_shlImm (s : State) {d a n ua} : exec (.shlImm d a n ua) s = execShlImm d a n ua s := rfl
theorem exec_shr (s : State) {d a b ua ub} : exec (.shr d a b ua ub) s = execShr d a b ua ub s := rfl
theorem exec_shrImm (s : State) {d a n ua} : exec (.shrImm d a n ua) s = execShrImm d a n ua s := rfl
theorem exec_sra (s : State) {d a b ua ub} : exec (.sra d a b ua ub) s = execSra d a b ua ub s := rfl
theorem exec_sraImm (s : State) {d a n ua} : exec (.sraImm d a n ua) s = execSraImm d a n ua s := rfl
theorem exec_rol (s : State) {d a b ua ub} : exec (.rol d a b ua ub) s = execRol d a b ua ub s := rfl
theorem exec_rolImm (s : State) {d a n ua} : exec (.rolImm d a n ua) s = execRolImm d a n ua s := rfl
theorem exec_bfx (s : State) {d a b ua ub x} : exec (.bfx d a b ua ub x) s = execBfx d a b ua ub x s := rfl
theorem exec_bfi (s : State) {d a b ua ub c uc} : exec (.bfi d a b ua ub c uc) s = execBfi d a b ua ub c uc s := rfl
theorem exec_popc (s : State) {d a ua} : exec (.popc d a ua) s = execPopc d a ua s := rfl
theorem exec_clz (s : State) {d a ua} : exec (.clz d a ua) s = execClz d a ua s := rfl
theorem exec_brev (s : State) {d a ua} : exec (.brev d a ua) s = execBrev d a ua s := rfl
theorem exec_icmp (s : State) {c p a b ua ub x} : exec (.icmp c p a b ua ub x) s = execIcmp c p a b ua ub x s := rfl
theorem exec_sel (s : State) {d a b ua ub p} : exec (.sel d a b ua ub p) s = execSel d a b ua ub p s := rfl
theorem exec_mov (s : State) {d a ua} : exec (.mov d a ua) s = execMov d a ua s := rfl
theorem exec_li (s : State) {d k} : exec (.li d k) s = execLi d k s := rfl
theorem exec_lih (s : State) {d k} : exec (.lih d k) s = execLih d k s := rfl
theorem exec_iaddi (s : State) {d a ua imm} : exec (.iaddi d a ua imm) s = execIaddi d a ua imm s := rfl
theorem exec_tag (s : State) {d a t ua} : exec (.tag d a t ua) s = execTag d a t ua s := rfl
theorem exec_pset (s : State) {p a ua} : exec (.pset p a ua) s = execPset p a ua s := rfl
theorem exec_pget (s : State) {d} : exec (.pget d) s = execPget d s := rfl
theorem exec_vfree (s : State) {a} : exec (.vfree a) s = execVfree a s := rfl
theorem exec_fadd (s : State) {d a b ua ub} : exec (.fadd d a b ua ub) s = execFadd d a b ua ub s := rfl
theorem exec_fsub (s : State) {d a b ua ub} : exec (.fsub d a b ua ub) s = execFsub d a b ua ub s := rfl
theorem exec_fmul (s : State) {d a b ua ub} : exec (.fmul d a b ua ub) s = execFmul d a b ua ub s := rfl
theorem exec_ffma (s : State) {d a b ua ub c uc} : exec (.ffma d a b ua ub c uc) s = execFfma d a b ua ub c uc s := rfl
theorem exec_fmin (s : State) {d a b ua ub} : exec (.fmin d a b ua ub) s = execFmin d a b ua ub s := rfl
theorem exec_fmax (s : State) {d a b ua ub} : exec (.fmax d a b ua ub) s = execFmax d a b ua ub s := rfl
theorem exec_fminn (s : State) {d a b ua ub} : exec (.fminn d a b ua ub) s = execFminn d a b ua ub s := rfl
theorem exec_fmaxn (s : State) {d a b ua ub} : exec (.fmaxn d a b ua ub) s = execFmaxn d a b ua ub s := rfl
theorem exec_fabs (s : State) {d a ua} : exec (.fabs d a ua) s = execFabs d a ua s := rfl
theorem exec_fneg (s : State) {d a ua} : exec (.fneg d a ua) s = execFneg d a ua s := rfl
theorem exec_fcmp (s : State) {c p a b ua ub x} : exec (.fcmp c p a b ua ub x) s = execFcmp c p a b ua ub x s := rfl
theorem exec_fclmp (s : State) {d a b ua ub c uc} : exec (.fclmp d a b ua ub c uc) s = execFclmp d a b ua ub c uc s := rfl
theorem exec_frnd (s : State) {d a r ua} : exec (.frnd d a r ua) s = execFrnd d a r ua s := rfl
theorem exec_ffrac (s : State) {d a ua} : exec (.ffrac d a ua) s = execFfrac d a ua s := rfl
theorem exec_frcp (s : State) {d a ua} : exec (.frcp d a ua) s = execFrcp d a ua s := rfl
theorem exec_frsq (s : State) {d a ua} : exec (.frsq d a ua) s = execFrsq d a ua s := rfl
theorem exec_fsqrt (s : State) {d a ua} : exec (.fsqrt d a ua) s = execFsqrt d a ua s := rfl
theorem exec_fex2 (s : State) {d a ua} : exec (.fex2 d a ua) s = execFex2 d a ua s := rfl
theorem exec_flg2 (s : State) {d a ua} : exec (.flg2 d a ua) s = execFlg2 d a ua s := rfl
theorem exec_fsin (s : State) {d a ua} : exec (.fsin d a ua) s = execFsin d a ua s := rfl
theorem exec_fcos (s : State) {d a ua} : exec (.fcos d a ua) s = execFcos d a ua s := rfl
theorem exec_fcvt (s : State) {d a n r t ua} : exec (.fcvt d a n r t ua) s = execFcvt d a n r t ua s := rfl
theorem exec_icvtf (s : State) {d a r t ua} : exec (.icvtf d a r t ua) s = execIcvtf d a r t ua s := rfl
theorem exec_fcvti (s : State) {d a r t ua} : exec (.fcvti d a r t ua) s = execFcvti d a r t ua s := rfl
theorem exec_hadd2 (s : State) {d a b ua ub} : exec (.hadd2 d a b ua ub) s = execHadd2 d a b ua ub s := rfl
theorem exec_hmul2 (s : State) {d a b ua ub} : exec (.hmul2 d a b ua ub) s = execHmul2 d a b ua ub s := rfl
theorem exec_hfma2 (s : State) {d a b ua ub c uc} : exec (.hfma2 d a b ua ub c uc) s = execHfma2 d a b ua ub c uc s := rfl
theorem exec_fdot4 (s : State) {d a b ua ub c uc} : exec (.fdot4 d a b ua ub c uc) s = execFdot4 d a b ua ub c uc s := rfl
theorem exec_fdot8 (s : State) {d a b ua ub c uc} : exec (.fdot8 d a b ua ub c uc) s = execFdot8 d a b ua ub c uc s := rfl
theorem exec_pack (s : State) {d a b ua ub x} : exec (.pack d a b ua ub x) s = execPack d a b ua ub x s := rfl
theorem exec_unpk (s : State) {d a k ua} : exec (.unpk d a k ua) s = execUnpk d a k ua s := rfl
theorem exec_xshf (s : State) {d a b ua ub m} : exec (.xshf d a b ua ub m) s = execXshf d a b ua ub m s := rfl
theorem exec_xrot (s : State) {d a b ua ub m} : exec (.xrot d a b ua ub m) s = execXrot d a b ua ub m s := rfl
theorem exec_xbc (s : State) {d a b ua ub m} : exec (.xbc d a b ua ub m) s = execXbc d a b ua ub m s := rfl
theorem exec_xstep (s : State) {d a b ua ub m} : exec (.xstep d a b ua ub m) s = execXstep d a b ua ub m s := rfl
theorem exec_xred (s : State) {d a o ua m} : exec (.xred d a o ua m) s = execXred d a o ua m s := rfl
theorem exec_xscn (s : State) {d a e o ua m} : exec (.xscn d a e o ua m) s = execXscn d a e o ua m s := rfl
theorem exec_xbal (s : State) {d a h ua m} : exec (.xbal d a h ua m) s = execXbal d a h ua m s := rfl
theorem exec_xcnt (s : State) {d a ua m} : exec (.xcnt d a ua m) s = execXcnt d a ua m s := rfl
theorem exec_xfst (s : State) {d a ua m} : exec (.xfst d a ua m) s = execXfst d a ua m s := rfl
theorem exec_rsvup (s : State) {d a b ua ub c uc} : exec (.rsvup d a b ua ub c uc) s = execRsvup d a b ua ub c uc s := rfl
theorem exec_rsvmrg (s : State) {d a b ua ub} : exec (.rsvmrg d a b ua ub) s = execRsvmrg d a b ua ub s := rfl
theorem exec_rsvfin (s : State) {d a b ua ub} : exec (.rsvfin d a b ua ub) s = execRsvfin d a b ua ub s := rfl
theorem exec_aadd (s : State) {d a b ua ub} : exec (.aadd d a b ua ub) s = execAadd d a b ua ub s := rfl
theorem exec_ashl (s : State) {d a b ua ub} : exec (.ashl d a b ua ub) s = execAshl d a b ua ub s := rfl
theorem exec_ashlImm (s : State) {d a n ua} : exec (.ashlImm d a n ua) s = execAshlImm d a n ua s := rfl
theorem exec_aand (s : State) {d a b ua ub} : exec (.aand d a b ua ub) s = execAand d a b ua ub s := rfl
theorem exec_amov (s : State) {d a ua} : exec (.amov d a ua) s = execAmov d a ua s := rfl
theorem exec_ali (s : State) {d k} : exec (.ali d k) s = execAli d k s := rfl
theorem exec_aform (s : State) {d a b ua ub x} : exec (.aform d a b ua ub x) s = execAform d a b ua ub x s := rfl
theorem exec_ldB (s : State) {t st o ac uo nt off} : exec (.ldB t st o ac uo nt off) s = execLdB t st o ac uo nt off s := rfl
theorem exec_ldBs (s : State) {t st o ac uo nt off} : exec (.ldBs t st o ac uo nt off) s = execLdBs t st o ac uo nt off s := rfl
theorem exec_ldH (s : State) {t st o ac uo nt off} : exec (.ldH t st o ac uo nt off) s = execLdH t st o ac uo nt off s := rfl
theorem exec_ldHs (s : State) {t st o ac uo nt off} : exec (.ldHs t st o ac uo nt off) s = execLdHs t st o ac uo nt off s := rfl
theorem exec_ldW (s : State) {t st o ac uo nt off} : exec (.ldW t st o ac uo nt off) s = execLdW t st o ac uo nt off s := rfl
theorem exec_ldd (s : State) {t st o ac uo nt off} : exec (.ldd t st o ac uo nt off) s = execLdd t st o ac uo nt off s := rfl
theorem exec_ldq (s : State) {t st o ac uo nt off} : exec (.ldq t st o ac uo nt off) s = execLdq t st o ac uo nt off s := rfl
theorem exec_ldc (s : State) {t st ac nt off} : exec (.ldc t st ac nt off) s = execLdc t st ac nt off s := rfl
theorem exec_ldu (s : State) {t st ac nt off} : exec (.ldu t st ac nt off) s = execLdu t st ac nt off s := rfl
theorem exec_ldsB (s : State) {t st o ac uo off} : exec (.ldsB t st o ac uo off) s = execLdsB t st o ac uo off s := rfl
theorem exec_ldsBs (s : State) {t st o ac uo off} : exec (.ldsBs t st o ac uo off) s = execLdsBs t st o ac uo off s := rfl
theorem exec_ldsH (s : State) {t st o ac uo off} : exec (.ldsH t st o ac uo off) s = execLdsH t st o ac uo off s := rfl
theorem exec_ldsHs (s : State) {t st o ac uo off} : exec (.ldsHs t st o ac uo off) s = execLdsHs t st o ac uo off s := rfl
theorem exec_ldsW (s : State) {t st o ac uo off} : exec (.ldsW t st o ac uo off) s = execLdsW t st o ac uo off s := rfl
theorem exec_ldsc (s : State) {t st ac off} : exec (.ldsc t st ac off) s = execLdsc t st ac off s := rfl
theorem exec_stB (s : State) {t st o ac ut uo nt off} :
    exec (.stB t st o ac ut uo nt off) s = execStB t st o ac ut uo nt off s := rfl
theorem exec_stH (s : State) {t st o ac ut uo nt off} :
    exec (.stH t st o ac ut uo nt off) s = execStH t st o ac ut uo nt off s := rfl
theorem exec_stW (s : State) {t st o ac ut uo nt off} :
    exec (.stW t st o ac ut uo nt off) s = execStW t st o ac ut uo nt off s := rfl
theorem exec_std (s : State) {t st o ac ut uo nt off} :
    exec (.std t st o ac ut uo nt off) s = execStd t st o ac ut uo nt off s := rfl
theorem exec_stq (s : State) {t st o ac ut uo nt off} :
    exec (.stq t st o ac ut uo nt off) s = execStq t st o ac ut uo nt off s := rfl
theorem exec_stc (s : State) {t st ac ut nt off} : exec (.stc t st ac ut nt off) s = execStc t st ac ut nt off s := rfl
theorem exec_stsB (s : State) {t st o ac ut uo off} : exec (.stsB t st o ac ut uo off) s = execStsB t st o ac ut uo off s := rfl
theorem exec_stsH (s : State) {t st o ac ut uo off} : exec (.stsH t st o ac ut uo off) s = execStsH t st o ac ut uo off s := rfl
theorem exec_stsW (s : State) {t st o ac ut uo off} : exec (.stsW t st o ac ut uo off) s = execStsW t st o ac ut uo off s := rfl
theorem exec_stsc (s : State) {t st ac ut off} : exec (.stsc t st ac ut off) s = execStsc t st ac ut off s := rfl
theorem exec_amo (s : State) {t st o ac ut uo rv op} :
    exec (.amo t st o ac ut uo rv op) s = execAmo t st o ac ut uo rv op s := rfl
theorem exec_cas (s : State) {t st o ac ut uo rv c uc} :
    exec (.cas t st o ac ut uo rv c uc) s = execCas t st o ac ut uo rv c uc s := rfl
theorem exec_amos (s : State) {t st o ac ut uo rv op} :
    exec (.amos t st o ac ut uo rv op) s = execAmos t st o ac ut uo rv op s := rfl
theorem exec_cass (s : State) {t st o ac ut uo rv c uc} :
    exec (.cass t st o ac ut uo rv c uc) s = execCass t st o ac ut uo rv c uc s := rfl
theorem exec_waita (s : State) {t st o ac ut uo to_ cond acq scope ext} :
    exec (.waita t st o ac ut uo to_ cond acq scope ext) s = execWaita t st o ac ut uo to_ cond acq scope ext s := rfl
theorem exec_sig (s : State) {t st o ac ut uo op rel scope ext} :
    exec (.sig t st o ac ut uo op rel scope ext) s = execSig t st o ac ut uo op rel scope ext s := rfl
theorem exec_fence (s : State) {kind scope ext} : exec (.fence kind scope ext) s = execFence kind scope ext s := rfl
theorem exec_lda (s : State) {t st o ac uo scope ext} :
    exec (.lda t st o ac uo scope ext) s = execLda t st o ac uo scope ext s := rfl
theorem exec_stl (s : State) {t st o ac ut uo scope ext} :
    exec (.stl t st o ac ut uo scope ext) s = execStl t st o ac ut uo scope ext s := rfl
theorem exec_pref (s : State) {dc st o ac uo off} : exec (.pref dc st o ac uo off) s = execPref dc st o ac uo off s := rfl
theorem exec_wbr (s : State) {st n} : exec (.wbr st n) s = execWbr st n s := rfl
theorem exec_invr (s : State) {st n} : exec (.invr st n) s = execInvr st n s := rfl
theorem exec_trace (s : State) {t st o flags} : exec (.trace t st o flags) s = execTrace t st o flags s := rfl
theorem exec_tracec (s : State) {t st o flags h} : exec (.tracec t st o flags h) s = execTracec t st o flags h s := rfl
theorem exec_visq (s : State) {t st o uo n} : exec (.visq t st o uo n) s = execVisq t st o uo n s := rfl
theorem exec_tsamp (s : State) {t st o flt adr lod} : exec (.tsamp t st o flt adr lod) s = execTsamp t st o flt adr lod s := rfl
theorem exec_tsize (s : State) {t st l} : exec (.tsize t st l) s = execTsize t st l s := rfl
theorem exec_mzero (s : State) {m k} : exec (.mzero m k) s = execMzero m k s := rfl
theorem exec_mchb (s : State) {m ord k} : exec (.mchb m ord k) s = execMchb m ord k s := rfl
theorem exec_mche (s : State) {m k} : exec (.mche m k) s = execMche m k s := rfl
theorem exec_mma (s : State) {m a b c fmt k} : exec (.mma m a b c fmt k) s = execMma m a b c fmt k s := rfl
theorem exec_macl (s : State) {m d g k} : exec (.macl m d g k) s = execMacl m d g k s := rfl
theorem exec_mdst (s : State) {m a b mem cvt op k} : exec (.mdst m a b mem cvt op k) s = execMdst m a b mem cvt op k s := rfl
theorem exec_mstg (s : State) {m a b c fmt k} : exec (.mstg m a b c fmt k) s = execMstg m a b c fmt k s := rfl
theorem exec_shp (s : State) {m a n} : exec (.shp m a n) s = execShp m a n s := rfl
theorem exec_cpy (s : State) {m n} : exec (.cpy m n) s = execCpy m n s := rfl
theorem exec_cpym (s : State) {m n} : exec (.cpym m n) s = execCpym m n s := rfl
theorem exec_owng (s : State) {m a} : exec (.owng m a) s = execOwng m a s := rfl
theorem exec_ownt (s : State) {m a} : exec (.ownt m a) s = execOwnt m a s := rfl
theorem exec_qcfg (s : State) {m a b q} : exec (.qcfg m a b q) s = execQcfg m a b q s := rfl
theorem exec_qpush (s : State) {m a q} : exec (.qpush m a q) s = execQpush m a q s := rfl
theorem exec_qpop (s : State) {m d q} : exec (.qpop m d q) s = execQpop m d q s := rfl
theorem exec_qtry (s : State) {m d q} : exec (.qtry m d q) s = execQtry m d q s := rfl
theorem exec_tsub (s : State) {m a} : exec (.tsub m a) s = execTsub m a s := rfl
theorem exec_tdep (s : State) {m a} : exec (.tdep m a) s = execTdep m a s := rfl
theorem exec_emit (s : State) {m a im} : exec (.emit m a im) s = execEmit m a im s := rfl
theorem exec_cont (s : State) {m a b k} : exec (.cont m a b k) s = execCont m a b k s := rfl
theorem exec_keyrel (s : State) {m a} : exec (.keyrel m a) s = execKeyrel m a s := rfl
theorem exec_qsub (s : State) {m d a b} : exec (.qsub m d a b) s = execQsub m d a b s := rfl
theorem exec_cred (s : State) {m a b c o n} : exec (.cred m a b c o n) s = execCred m a b c o n s := rfl
theorem exec_cbc (s : State) {m a b c n} : exec (.cbc m a b c n) s = execCbc m a b c n s := rfl
theorem exec_cag (s : State) {m a b c n} : exec (.cag m a b c n) s = execCag m a b c n s := rfl
theorem exec_crs (s : State) {m a b c o n} : exec (.crs m a b c o n) s = execCrs m a b c o n s := rfl
theorem exec_coreIssueCycle (s : State) {die core} : exec (.coreIssueCycle die core) s = execCoreIssueCycle die core s := rfl
theorem exec_fairnessExpiry (s : State) {course} : exec (.fairnessExpiry course) s = execFairnessExpiry course s := rfl
theorem exec_resultLanding (s : State) {course k} : exec (.resultLanding course k) s = execResultLanding course k s := rfl
theorem exec_spillComplete (s : State) {course v} : exec (.spillComplete course v) s = execSpillComplete course v s := rfl
theorem exec_fillComplete (s : State) {course v} : exec (.fillComplete course v) s = execFillComplete course v s := rfl
theorem exec_loadPerformed (s : State) {course op} : exec (.loadPerformed course op) s = execLoadPerformed course op s := rfl
theorem exec_storePerformed (s : State) {course op} : exec (.storePerformed course op) s = execStorePerformed course op s := rfl
theorem exec_atomicPerformed (s : State) {course op} :
    exec (.atomicPerformed course op) s = execAtomicPerformed course op s := rfl
theorem exec_faultRecordWrite (s : State) {ctx fid} : exec (.faultRecordWrite ctx fid) s = execFaultRecordWrite ctx fid s := rfl
theorem exec_waitaWake (s : State) {course lane} : exec (.waitaWake course lane) s = execWaitaWake course lane s := rfl
theorem exec_waitaPoll (s : State) {course lane} : exec (.waitaPoll course lane) s = execWaitaPoll course lane s := rfl
theorem exec_waitaTimeout (s : State) {course lane} : exec (.waitaTimeout course lane) s = execWaitaTimeout course lane s := rfl
theorem exec_asyncTrapDelivery (s : State) {course} : exec (.asyncTrapDelivery course) s = execAsyncTrapDelivery course s := rfl
theorem exec_preemptDeadlineExpiry (s : State) {course} :
    exec (.preemptDeadlineExpiry course) s = execPreemptDeadlineExpiry course s := rfl
theorem exec_forcedSave (s : State) {course} : exec (.forcedSave course) s = execForcedSave course s := rfl
theorem exec_courseResume (s : State) {course} : exec (.courseResume course) s = execCourseResume course s := rfl
theorem exec_blockBind (s : State) {die block} : exec (.blockBind die block) s = execBlockBind die block s := rfl
theorem exec_blockAdmission (s : State) {die core} : exec (.blockAdmission die core) s = execBlockAdmission die core s := rfl
theorem exec_mmaComplete (s : State) {die core k} : exec (.mmaComplete die core k) s = execMmaComplete die core k s := rfl
theorem exec_mzeroComplete (s : State) {die core k} : exec (.mzeroComplete die core k) s = execMzeroComplete die core k s := rfl
theorem exec_mcheComplete (s : State) {die core k} : exec (.mcheComplete die core k) s = execMcheComplete die core k s := rfl
theorem exec_mdstComplete (s : State) {die core k} : exec (.mdstComplete die core k) s = execMdstComplete die core k s := rfl
theorem exec_maclLanding (s : State) {die core k} : exec (.maclLanding die core k) s = execMaclLanding die core k s := rfl
theorem exec_copyStart (s : State) {die core k} : exec (.copyStart die core k) s = execCopyStart die core k s := rfl
theorem exec_copyComplete (s : State) {die core k target} :
    exec (.copyComplete die core k target) s = execCopyComplete die core k target s := rfl
theorem exec_stagingUnitArrival (s : State) {die core k} :
    exec (.stagingUnitArrival die core k) s = execStagingUnitArrival die core k s := rfl
theorem exec_stagingUnitDrain (s : State) {dir u target} :
    exec (.stagingUnitDrain dir u target) s = execStagingUnitDrain dir u target s := rfl
theorem exec_collectiveStart (s : State) {k} : exec (.collectiveStart k) s = execCollectiveStart k s := rfl
theorem exec_collectiveComplete (s : State) {k} : exec (.collectiveComplete k) s = execCollectiveComplete k s := rfl
theorem exec_taskGrant (s : State) {task} : exec (.taskGrant task) s = execTaskGrant task s := rfl
theorem exec_tdepDecrement (s : State) {die} : exec (.tdepDecrement die) s = execTdepDecrement die s := rfl
theorem exec_keyrelEffect (s : State) {die k} : exec (.keyrelEffect die k) s = execKeyrelEffect die k s := rfl
theorem exec_continuationWake (s : State) {course} : exec (.continuationWake course) s = execContinuationWake course s := rfl
theorem exec_graphBlockBind (s : State) {die block} : exec (.graphBlockBind die block) s = execGraphBlockBind die block s := rfl
theorem exec_spireWindow (s : State) {die} : exec (.spireWindow die) s = execSpireWindow die s := rfl
theorem exec_waitPacketComplete (s : State) {pkt} : exec (.waitPacketComplete pkt) s = execWaitPacketComplete pkt s := rfl
theorem exec_streamStart (s : State) {pkt row} : exec (.streamStart pkt row) s = execStreamStart pkt row s := rfl
theorem exec_portalWrite (s : State) {ctx off bytes} :
    exec (.portalWrite ctx off bytes) s = execPortalWrite ctx off bytes s := rfl
theorem exec_quantumExpiry (s : State) {block} : exec (.quantumExpiry block) s = execQuantumExpiry block s := rfl
theorem exec_ageingStep (s : State) {block} : exec (.ageingStep block) s = execAgeingStep block s := rfl
theorem exec_watchdogFire (s : State) {die ctx} : exec (.watchdogFire die ctx) s = execWatchdogFire die ctx s := rfl
theorem exec_queueCreate (s : State) {ctx q k ring} : exec (.queueCreate ctx q k ring) s = execQueueCreate ctx q k ring s := rfl
theorem exec_queueDestroy (s : State) {ctx q} : exec (.queueDestroy ctx q) s = execQueueDestroy ctx q s := rfl
theorem exec_bindRecordWrite (s : State) {die slot w0 w1} :
    exec (.bindRecordWrite die slot w0 w1) s = execBindRecordWrite die slot w0 w1 s := rfl
theorem exec_ctxpdlWrite (s : State) {die v} : exec (.ctxpdlWrite die v) s = execCtxpdlWrite die v s := rfl
theorem exec_ktrepWrite (s : State) {die v} : exec (.ktrepWrite die v) s = execKtrepWrite die v s := rfl
theorem exec_tlbinvnWrite (s : State) {v} : exec (.tlbinvnWrite v) s = execTlbinvnWrite v s := rfl
theorem exec_tlbinvWrite (s : State) {v} : exec (.tlbinvWrite v) s = execTlbinvWrite v s := rfl
theorem exec_tlbinvDone (s : State) : exec .tlbinvDone s = execTlbinvDone s := rfl
theorem exec_fltrespRetry (s : State) {ctx fid} : exec (.fltrespRetry ctx fid) s = execFltrespRetry ctx fid s := rfl
theorem exec_fltrespFailUnmapped (s : State) {ctx fid} :
    exec (.fltrespFailUnmapped ctx fid) s = execFltrespFailUnmapped ctx fid s := rfl
theorem exec_fltrespFailPermission (s : State) {ctx fid} :
    exec (.fltrespFailPermission ctx fid) s = execFltrespFailPermission ctx fid s := rfl
theorem exec_govstepWrite (s : State) {ctx v} : exec (.govstepWrite ctx v) s = execGovstepWrite ctx v s := rfl
theorem exec_govdWrite (s : State) {ctx v} : exec (.govdWrite ctx v) s = execGovdWrite ctx v s := rfl
theorem exec_registerWrite (s : State) {reg v} : exec (.registerWrite reg v) s = execRegisterWrite reg v s := rfl
theorem exec_dieCacheWriteback (s : State) {pa wr} : exec (.dieCacheWriteback pa wr) s = execDieCacheWriteback pa wr s := rfl
theorem exec_hostBarAccess (s : State) {wr off n bytes} :
    exec (.hostBarAccess wr off n bytes) s = execHostBarAccess wr off n bytes s := rfl
theorem exec_pcieCompletion (s : State) {req ok status data} :
    exec (.pcieCompletion req ok status data) s = execPcieCompletion req ok status data s := rfl
theorem exec_pcieRequestTimeout (s : State) {req} : exec (.pcieRequestTimeout req) s = execPcieRequestTimeout req s := rfl
theorem exec_softErrorCorrected (s : State) {die src} :
    exec (.softErrorCorrected die src) s = execSoftErrorCorrected die src s := rfl
theorem exec_uncorrectableError (s : State) {course src addr} :
    exec (.uncorrectableError course src addr) s = execUncorrectableError course src addr s := rfl
theorem exec_coreLoss (s : State) {die core} : exec (.coreLoss die core) s = execCoreLoss die core s := rfl
theorem exec_mortarLaneFail (s : State) {link} : exec (.mortarLaneFail link) s = execMortarLaneFail link s := rfl
theorem exec_thermalStepUp (s : State) {die sensor reading} :
    exec (.thermalStepUp die sensor reading) s = execThermalStepUp die sensor reading s := rfl
theorem exec_thermalStepDown (s : State) {die reading} :
    exec (.thermalStepDown die reading) s = execThermalStepDown die reading s := rfl
theorem exec_thermalStop (s : State) {die sensor reading} :
    exec (.thermalStop die sensor reading) s = execThermalStop die sensor reading s := rfl
theorem exec_thermalResume (s : State) {die reading} :
    exec (.thermalResume die reading) s = execThermalResume die reading s := rfl
theorem exec_powerOn (s : State) {a b ilv} : exec (.powerOn a b ilv) s = execPowerOn a b ilv s := rfl
theorem exec_svnFuseRaise (s : State) : exec .svnFuseRaise s = execSvnFuseRaise s := rfl
theorem exec_getVersion (s : State) : exec .getVersion s = execGetVersion s := rfl
theorem exec_getCapabilities (s : State) : exec .getCapabilities s = execGetCapabilities s := rfl
theorem exec_negotiateAlgorithms (s : State) {offered} :
    exec (.negotiateAlgorithms offered) s = execNegotiateAlgorithms offered s := rfl
theorem exec_getDigests (s : State) : exec .getDigests s = execGetDigests s := rfl
theorem exec_getCertificate (s : State) {slot off n} :
    exec (.getCertificate slot off n) s = execGetCertificate slot off n s := rfl
theorem exec_challenge (s : State) {slot nonce} : exec (.challenge slot nonce) s = execChallenge slot nonce s := rfl
theorem exec_getMeasurements (s : State) {idx nonce sign} :
    exec (.getMeasurements idx nonce sign) s = execGetMeasurements idx nonce sign s := rfl
theorem exec_contextCreate (s : State) {ctx cbase} : exec (.contextCreate ctx cbase) s = execContextCreate ctx cbase s := rfl
theorem exec_contextReset (s : State) {ctx} : exec (.contextReset ctx) s = execContextReset ctx s := rfl
theorem exec_flitRead (s : State) {f} : exec (.flitRead f) s = execFlitRead f s := rfl
theorem exec_flitWrite (s : State) {f} : exec (.flitWrite f) s = execFlitWrite f s := rfl
theorem exec_flitAtomic (s : State) {f} : exec (.flitAtomic f) s = execFlitAtomic f s := rfl
theorem exec_flitReduce (s : State) {f} : exec (.flitReduce f) s = execFlitReduce f s := rfl
theorem exec_flitMessage (s : State) {f} : exec (.flitMessage f) s = execFlitMessage f s := rfl
theorem exec_flitResponse (s : State) {f} : exec (.flitResponse f) s = execFlitResponse f s := rfl
theorem exec_flitReceive (s : State) {port bytes} : exec (.flitReceive port bytes) s = execFlitReceive port bytes s := rfl
theorem exec_flitReplayTimeout (s : State) {port} : exec (.flitReplayTimeout port) s = execFlitReplayTimeout port s := rfl
theorem exec_linkTrainTimeout (s : State) {port} : exec (.linkTrainTimeout port) s = execLinkTrainTimeout port s := rfl
theorem exec_fabricRequestTimeout (s : State) {tag} : exec (.fabricRequestTimeout tag) s = execFabricRequestTimeout tag s := rfl
theorem exec_responseRetentionExpiry (s : State) {src tag} :
    exec (.responseRetentionExpiry src tag) s = execResponseRetentionExpiry src tag s := rfl
theorem exec_fixedFunctionRequestPerformed (s : State) {course op} :
    exec (.fixedFunctionRequestPerformed course op) s = execFixedFunctionRequestPerformed course op s := rfl
theorem exec_scalarAccessPerformed (s : State) {course op} :
    exec (.scalarAccessPerformed course op) s = execScalarAccessPerformed course op s := rfl
theorem exec_dispatcherResultWritten (s : State) {course} :
    exec (.dispatcherResultWritten course) s = execDispatcherResultWritten course s := rfl
theorem exec_rowSequencerIssue (s : State) {die row} :
    exec (.rowSequencerIssue die row) s = execRowSequencerIssue die row s := rfl
theorem exec_linkTrained (s : State) {port lanes} : exec (.linkTrained port lanes) s = execLinkTrained port lanes s := rfl
theorem exec_unitFailure (s : State) {kind die u} : exec (.unitFailure kind die u) s = execUnitFailure kind die u s := rfl
theorem exec_transportUnreachableTimeout (s : State) {k member} :
    exec (.transportUnreachableTimeout k member) s = execTransportUnreachableTimeout k member s := rfl
theorem exec_powerLoss (s : State) : exec .powerLoss s = execPowerLoss s := rfl

end Sys2Proof.Machine
end

