-- ==== Sys2Proof/Laws/Fields.lean ====
section
/-! SUPPORT. Reading back the fields that `place` writes (R106): fields listed from the highest bit down,
none reaching into the one above it, are read as they were written, and the bits between them read 0. -/

namespace Sys2Proof.Laws

open Sys2Proof

/-- The fields stand below bit t, from the highest down, and none overlaps the one above it. -/
def desc : List (Nat × Nat × Nat) → Nat → Bool
  | [], _ => true
  | (_, n, k) :: l, t => decide (k + n ≤ t) && desc l k

/-- What bits lo to lo + n - 1 of a descending field list hold, where one field or a gap covers them. -/
def readAt : List (Nat × Nat × Nat) → Nat → Nat → Option Nat
  | [], _, _ => some 0
  | (v, w, k) :: l, lo, n =>
    if lo + n ≤ k then readAt l lo n
    else if k = lo ∧ w = n then some (v % 2 ^ n)
    else if k + w ≤ lo then some 0
    else none

theorem place_eq_add (m : Nat) (l : List (Nat × Nat × Nat)) : place m l = m + place 0 l := by
  induction l generalizing m with
  | nil => simp [place]
  | cons f l ih =>
    obtain ⟨v, n, k⟩ := f
    simp only [place, Nat.zero_add]
    rw [ih (m + _), ih (v % 2 ^ n * 2 ^ k)]
    omega

theorem place_lt {l : List (Nat × Nat × Nat)} {t : Nat} (h : desc l t = true) : place 0 l < 2 ^ t := by
  induction l generalizing t with
  | nil => exact Nat.two_pow_pos t
  | cons f l ih =>
    obtain ⟨v, n, k⟩ := f
    simp only [desc, Bool.and_eq_true, decide_eq_true_eq] at h
    have hl := ih h.2
    have hv : v % 2 ^ n < 2 ^ n := Nat.mod_lt _ (Nat.two_pow_pos n)
    have hp : 2 ^ (k + n) ≤ 2 ^ t := Nat.pow_le_pow_right (by decide) h.1
    have hm : (v % 2 ^ n + 1) * 2 ^ k ≤ 2 ^ n * 2 ^ k := Nat.mul_le_mul_right _ hv
    rw [Nat.add_mul, Nat.one_mul] at hm
    rw [Nat.pow_add, Nat.mul_comm] at hp
    simp only [place, Nat.zero_add]
    rw [place_eq_add]
    omega

theorem bf_place_aux {l : List (Nat × Nat × Nat)} {m t lo n r : Nat} (hm : 2 ^ (lo + n) ∣ m)
    (hd : desc l t = true) (hr : readAt l lo n = some r) : bf (place m l) lo n = r := by
  induction l generalizing m t with
  | nil =>
    obtain ⟨c, rfl⟩ := hm
    simp only [readAt, Option.some.injEq] at hr
    subst hr
    simp only [place, bf, Nat.pow_add, Nat.mul_assoc]
    rw [Nat.mul_div_cancel_left _ (Nat.two_pow_pos lo), Nat.mul_mod_right]
  | cons f l ih =>
    obtain ⟨v, w, k⟩ := f
    have hlt := place_lt hd
    simp only [desc, Bool.and_eq_true, decide_eq_true_eq] at hd
    have hl := place_lt hd.2
    simp only [readAt] at hr
    split at hr
    · rename_i h1
      exact ih (Nat.dvd_add hm (Nat.dvd_trans (Nat.pow_dvd_pow 2 h1) (Nat.dvd_mul_left _ _))) hd.2 hr
    · obtain ⟨c, rfl⟩ := hm
      have hp := Nat.two_pow_pos lo
      split at hr
      · rename_i _ h2
        obtain ⟨rfl, rfl⟩ := h2
        simp only [Option.some.injEq] at hr
        subst hr
        simp only [place, bf]
        rw [place_eq_add, Nat.pow_add, Nat.mul_assoc, Nat.mul_comm (v % 2 ^ w), ← Nat.mul_add,
          Nat.mul_add_div hp, Nat.div_eq_of_lt hl, Nat.add_zero, Nat.mul_add_mod, Nat.mod_mod]
      · split at hr
        · rename_i _ _ h3
          simp only [Option.some.injEq] at hr
          subst hr
          have hq : place 0 ((v, w, k) :: l) < 2 ^ lo :=
            place_lt (by simp only [desc, Bool.and_eq_true, decide_eq_true_eq]; exact ⟨h3, hd.2⟩)
          rw [place_eq_add, bf, Nat.pow_add, Nat.mul_assoc, Nat.mul_add_div hp, Nat.div_eq_of_lt hq,
            Nat.add_zero, Nat.mul_mod_right]
        · cases hr

/-- A field read from an encoded word whose opcode byte is op. -/
theorem bf_place {l : List (Nat × Nat × Nat)} {m lo n r : Nat} (hm : 2 ^ 24 ∣ m) (hn : lo + n ≤ 24)
    (hd : desc l 24 = true) (hr : readAt l lo n = some r) : bf (place m l) lo n = r :=
  bf_place_aux (Nat.dvd_trans (Nat.pow_dvd_pow 2 hn) hm) hd hr

theorem opcode_place {l : List (Nat × Nat × Nat)} (op : Nat) (hd : desc l 24 = true) :
    place (op * 2 ^ 24) l / 2 ^ 24 = op := by
  rw [place_eq_add, Nat.mul_comm, Nat.mul_add_div (Nat.two_pow_pos 24), Nat.div_eq_of_lt (place_lt hd), Nat.add_zero]

theorem word_place {l : List (Nat × Nat × Nat)} {op : Nat} (ho : op < 256) (hd : desc l 24 = true) :
    (BitVec.ofNat 32 (place (op * 2 ^ 24) l)).toNat = place (op * 2 ^ 24) l := by
  have := place_lt hd
  rw [BitVec.toNat_ofNat, Nat.mod_eq_of_lt]
  rw [place_eq_add]
  omega

theorem lend_place {l : List (Nat × Nat × Nat)} (hd : desc l 7 = true) :
    (BitVec.ofNat 7 (place 0 l)).toNat = place 0 l := by
  rw [BitVec.toNat_ofNat, Nat.mod_eq_of_lt (place_lt hd)]

theorem b2n_beq (b : Bool) : (b2n b % 2 ^ 1 == 1) = b := by cases b <;> rfl

theorem ofNat_toNat_mod {n : Nat} (v : BitVec n) : BitVec.ofNat n (v.toNat % 2 ^ n) = v := by
  rw [Nat.mod_eq_of_lt v.isLt, BitVec.ofNat_toNat, BitVec.setWidth_eq]

/-- A number whose bits read as the fields of a list, in its low t bits. -/
def Reads (w : Nat) (l : List (Nat × Nat × Nat)) (t : Nat) : Prop :=
  ∀ lo n r, lo + n ≤ t → readAt l lo n = some r → bf w lo n = r

/-- An instruction decodes from its encoding if every word and lend that read as its fields do. -/
theorem decodes_of {i : Instr} {k op : Nat} {l x : List (Nat × Nat × Nat)} (hs : slotOf i = k)
    (hw : encodeWord i = place (op * 2 ^ 24) l) (hx : encodeLend i = place 0 x) (ho : op < 256)
    (hd : desc l 24 = true) (he : desc x 7 = true)
    (hf : ∀ w, Reads w l 24 → fieldsBy k op w (place 0 x) = .ok i)
    (hl : Machine.legal i = true) : decodeSlot (slotOf i) (encode i).1 (encode i).2 = .ok i := by
  have h : fieldsOf k (encode i).1.toNat (encode i).2.toNat = .ok i := by
    rw [← hf _ fun lo n r hn hr => bf_place (Nat.dvd_mul_left _ op) hn hd hr]
    simp only [encode, hw, hx, word_place ho hd, lend_place he, fieldsOf, opcode_place op hd]
  rw [hs, decodeSlot, h]
  simp only [hl, if_true]

theorem reads_lend {x : List (Nat × Nat × Nat)} (he : desc x 7 = true) : Reads (place 0 x) x 7 :=
  fun _ _ _ _ hr => bf_place_aux (Nat.dvd_zero _) he hr

/-- The same for an instruction that takes a lend. -/
theorem decodes_of_lend {i : Instr} {k op : Nat} {l x : List (Nat × Nat × Nat)} (hs : slotOf i = k)
    (hw : encodeWord i = place (op * 2 ^ 24) l) (hx : encodeLend i = place 0 x) (ho : op < 256)
    (hd : desc l 24 = true) (he : desc x 7 = true)
    (hf : ∀ w y, Reads w l 24 → Reads y x 7 → fieldsBy k op w y = .ok i)
    (hl : Machine.legal i = true) : decodeSlot (slotOf i) (encode i).1 (encode i).2 = .ok i :=
  decodes_of hs hw hx ho hd he (fun w hw => hf w _ hw (reads_lend he)) hl

end Sys2Proof.Laws
end

