-- ==== Sys2Proof/Laws/PerInstr.lean ====
section
/-! SUPPORT. For each instruction: the word and the lend that the encoder gives it decode to it (R105 to
R116). An event has no word, and nothing is said of it. -/

namespace Sys2Proof.Laws.Encodes

open Sys2Proof Sys2Proof.Laws

/-- A slot instruction with legal fields is what its own encoding decodes to. -/
def Statement (i : Instr) : Prop :=
  isEvent i = false → Machine.legal i = true → decodeSlot (slotOf i) (encode i).1 (encode i).2 = .ok i

theorem iaddi_imm (v : BitVec 16) :
    BitVec.ofNat 16 (place 0 [(v.toNat / 512, 7, 0)] % 128 * 512 + v.toNat % 2 ^ 9) = v := by
  have h := v.isLt
  apply BitVec.eq_of_toNat_eq
  simp only [place, BitVec.toNat_ofNat]
  omega

theorem bra (disp : BitVec 21) :
    Statement (.bra disp) := by
  refine fun _ => decodes_of (k := 0) (op := 0x01)
    (l := [(disp.toNat, 21, 0)])
    (x := []) rfl rfl rfl (by decide) rfl rfl fun w g => ?_
  show (if bf w 21 3 = 0 then if (0 : Nat) = 0 then .ok (.bra (.ofNat 21 (bf w 0 21))) else .error .lend else .error .field : DecodeResult) = _
  simp only [g 21 3 0 (by decide) rfl, g 0 21 _ (by decide) rfl, ofNat_toNat_mod, reduceIte]

theorem brp (p : BitVec 3) (disp : BitVec 21) :
    Statement (.brp p disp) := by
  refine fun _ => decodes_of (k := 0) (op := 0x02)
    (l := [(p.toNat, 3, 21), (disp.toNat, 21, 0)])
    (x := []) rfl rfl rfl (by decide) rfl rfl fun w g => ?_
  show (if (0 : Nat) = 0 then .ok (.brp (.ofNat 3 (bf w 21 3)) (.ofNat 21 (bf w 0 21))) else .error .lend : DecodeResult) = _
  simp only [g 21 3 _ (by decide) rfl, g 0 21 _ (by decide) rfl, ofNat_toNat_mod, reduceIte]

theorem brs (s : BitVec 5) (i : BitVec 19) :
    Statement (.brs s i) := by
  refine fun _ => decodes_of (k := 0) (op := 0x03)
    (l := [(s.toNat, 5, 19), (i.toNat, 19, 0)])
    (x := []) rfl rfl rfl (by decide) rfl rfl fun w g => ?_
  show (if (0 : Nat) = 0 then .ok (.brs (.ofNat 5 (bf w 19 5)) (.ofNat 19 (bf w 0 19))) else .error .lend : DecodeResult) = _
  simp only [g 19 5 _ (by decide) rfl, g 0 19 _ (by decide) rfl, ofNat_toNat_mod, reduceIte]

theorem brx (a : BitVec 7) (ua : Bool) :
    Statement (.brx a ua) := by
  refine fun _ => decodes_of (k := 0) (op := 0x04)
    (l := [(a.toNat, 7, 12), (b2n ua, 1, 11)])
    (x := []) rfl rfl rfl (by decide) rfl rfl fun w g => ?_
  show (if bf w 0 11 = 0 ∧ bf w 19 5 = 0 then if (0 : Nat) = 0 then .ok (.brx (.ofNat 7 (bf w 12 7)) (bf w 11 1 == 1)) else .error .lend else .error .field : DecodeResult) = _
  simp only [g 19 5 0 (by decide) rfl, g 12 7 _ (by decide) rfl, g 11 1 _ (by decide) rfl,
    g 0 11 0 (by decide) rfl, ofNat_toNat_mod, b2n_beq, reduceIte, and_self]

theorem call (disp : BitVec 21) :
    Statement (.call disp) := by
  refine fun _ => decodes_of (k := 0) (op := 0x05)
    (l := [(disp.toNat, 21, 0)])
    (x := []) rfl rfl rfl (by decide) rfl rfl fun w g => ?_
  show (if bf w 21 3 = 0 then if (0 : Nat) = 0 then .ok (.call (.ofNat 21 (bf w 0 21))) else .error .lend else .error .field : DecodeResult) = _
  simp only [g 21 3 0 (by decide) rfl, g 0 21 _ (by decide) rfl, ofNat_toNat_mod, reduceIte]

theorem callx (a : BitVec 7) (ua : Bool) :
    Statement (.callx a ua) := by
  refine fun _ => decodes_of (k := 0) (op := 0x06)
    (l := [(a.toNat, 7, 12), (b2n ua, 1, 11)])
    (x := []) rfl rfl rfl (by decide) rfl rfl fun w g => ?_
  show (if bf w 0 11 = 0 ∧ bf w 19 5 = 0 then if (0 : Nat) = 0 then .ok (.callx (.ofNat 7 (bf w 12 7)) (bf w 11 1 == 1)) else .error .lend else .error .field : DecodeResult) = _
  simp only [g 19 5 0 (by decide) rfl, g 12 7 _ (by decide) rfl, g 11 1 _ (by decide) rfl,
    g 0 11 0 (by decide) rfl, ofNat_toNat_mod, b2n_beq, reduceIte, and_self]

theorem loopi (n : BitVec 19) :
    Statement (.loopi n) := by
  refine fun _ => decodes_of (k := 0) (op := 0x08)
    (l := [(n.toNat, 19, 0)])
    (x := []) rfl rfl rfl (by decide) rfl rfl fun w g => ?_
  show (if bf w 19 5 = 0 then if (0 : Nat) = 0 then .ok (.loopi (.ofNat 19 (bf w 0 19))) else .error .lend else .error .field : DecodeResult) = _
  simp only [g 19 5 0 (by decide) rfl, g 0 19 _ (by decide) rfl, ofNat_toNat_mod, reduceIte]

theorem loop (disp : BitVec 21) :
    Statement (.loop disp) := by
  refine fun _ => decodes_of (k := 0) (op := 0x09)
    (l := [(disp.toNat, 21, 0)])
    (x := []) rfl rfl rfl (by decide) rfl rfl fun w g => ?_
  show (if bf w 21 3 = 0 then if (0 : Nat) = 0 then .ok (.loop (.ofNat 21 (bf w 0 21))) else .error .lend else .error .field : DecodeResult) = _
  simp only [g 21 3 0 (by decide) rfl, g 0 21 _ (by decide) rfl, ofNat_toNat_mod, reduceIte]

theorem jarm (j : BitVec 3) :
    Statement (.jarm j) := by
  refine fun _ => decodes_of (k := 0) (op := 0x0A)
    (l := [(j.toNat, 3, 0)])
    (x := []) rfl rfl rfl (by decide) rfl rfl fun w g => ?_
  show (if bf w 3 21 = 0 then if (0 : Nat) = 0 then .ok (.jarm (.ofNat 3 (bf w 0 3))) else .error .lend else .error .field : DecodeResult) = _
  simp only [g 3 21 0 (by decide) rfl, g 0 3 _ (by decide) rfl, ofNat_toNat_mod, reduceIte]

theorem jwait (j : BitVec 3) :
    Statement (.jwait j) := by
  refine fun _ => decodes_of (k := 0) (op := 0x0B)
    (l := [(j.toNat, 3, 0)])
    (x := []) rfl rfl rfl (by decide) rfl rfl fun w g => ?_
  show (if bf w 3 21 = 0 then if (0 : Nat) = 0 then .ok (.jwait (.ofNat 3 (bf w 0 3))) else .error .lend else .error .field : DecodeResult) = _
  simp only [g 3 21 0 (by decide) rfl, g 0 3 _ (by decide) rfl, ofNat_toNat_mod, reduceIte]

theorem trap (c : BitVec 19) :
    Statement (.trap c) := by
  refine fun _ => decodes_of (k := 0) (op := 0x0E)
    (l := [(c.toNat, 19, 0)])
    (x := []) rfl rfl rfl (by decide) rfl rfl fun w g => ?_
  show (if bf w 19 5 = 0 then if (0 : Nat) = 0 then .ok (.trap (.ofNat 19 (bf w 0 19))) else .error .lend else .error .field : DecodeResult) = _
  simp only [g 19 5 0 (by decide) rfl, g 0 19 _ (by decide) rfl, ofNat_toNat_mod, reduceIte]

theorem waitc (n : BitVec 2) (t : BitVec 7) :
    Statement (.waitc n t) := by
  refine fun _ => decodes_of (k := 0) (op := 0x10)
    (l := [(n.toNat, 2, 7), (t.toNat, 7, 0)])
    (x := []) rfl rfl rfl (by decide) rfl rfl fun w g => ?_
  show (if bf w 9 15 = 0 then if (0 : Nat) = 0 then .ok (.waitc (.ofNat 2 (bf w 7 2)) (.ofNat 7 (bf w 0 7))) else .error .lend else .error .field : DecodeResult) = _
  simp only [g 9 15 0 (by decide) rfl, g 7 2 _ (by decide) rfl, g 0 7 _ (by decide) rfl, ofNat_toNat_mod,
    reduceIte]

theorem mfs (d : BitVec 5) (i : BitVec 9) :
    Statement (.mfs d i) := by
  refine fun _ => decodes_of (k := 0) (op := 0x11)
    (l := [(d.toNat, 5, 19), (i.toNat, 9, 0)])
    (x := []) rfl rfl rfl (by decide) rfl rfl fun w g => ?_
  show (if bf w 9 10 = 0 then if (0 : Nat) = 0 then .ok (.mfs (.ofNat 5 (bf w 19 5)) (.ofNat 9 (bf w 0 9))) else .error .lend else .error .field : DecodeResult) = _
  simp only [g 19 5 _ (by decide) rfl, g 9 10 0 (by decide) rfl, g 0 9 _ (by decide) rfl, ofNat_toNat_mod,
    reduceIte]

theorem mts (a : BitVec 5) (i : BitVec 9) :
    Statement (.mts a i) := by
  refine fun _ => decodes_of (k := 0) (op := 0x12)
    (l := [(a.toNat, 5, 14), (i.toNat, 9, 0)])
    (x := []) rfl rfl rfl (by decide) rfl rfl fun w g => ?_
  show (if bf w 9 5 = 0 ∧ bf w 19 5 = 0 then if (0 : Nat) = 0 then .ok (.mts (.ofNat 5 (bf w 14 5)) (.ofNat 9 (bf w 0 9))) else .error .lend else .error .field : DecodeResult) = _
  simp only [g 19 5 0 (by decide) rfl, g 14 5 _ (by decide) rfl, g 9 5 0 (by decide) rfl, g 0 9 _ (by decide) rfl,
    ofNat_toNat_mod, reduceIte, and_self]

theorem save (a : BitVec 5) (b : BitVec 5) :
    Statement (.save a b) := by
  refine fun _ => decodes_of (k := 0) (op := 0x13)
    (l := [(a.toNat, 5, 14), (b.toNat, 5, 9)])
    (x := []) rfl rfl rfl (by decide) rfl rfl fun w g => ?_
  show (if bf w 0 9 = 0 ∧ bf w 19 5 = 0 then if (0 : Nat) = 0 then .ok (.save (.ofNat 5 (bf w 14 5)) (.ofNat 5 (bf w 9 5))) else .error .lend else .error .field : DecodeResult) = _
  simp only [g 19 5 0 (by decide) rfl, g 14 5 _ (by decide) rfl, g 9 5 _ (by decide) rfl, g 0 9 0 (by decide) rfl,
    ofNat_toNat_mod, reduceIte, and_self]

theorem rest (a : BitVec 5) (b : BitVec 5) :
    Statement (.rest a b) := by
  refine fun _ => decodes_of (k := 0) (op := 0x14)
    (l := [(a.toNat, 5, 14), (b.toNat, 5, 9)])
    (x := []) rfl rfl rfl (by decide) rfl rfl fun w g => ?_
  show (if bf w 0 9 = 0 ∧ bf w 19 5 = 0 then if (0 : Nat) = 0 then .ok (.rest (.ofNat 5 (bf w 14 5)) (.ofNat 5 (bf w 9 5))) else .error .lend else .error .field : DecodeResult) = _
  simp only [g 19 5 0 (by decide) rfl, g 14 5 _ (by decide) rfl, g 9 5 _ (by decide) rfl, g 0 9 0 (by decide) rfl,
    ofNat_toNat_mod, reduceIte, and_self]

theorem govq (d : BitVec 5) :
    Statement (.govq d) := by
  refine fun _ => decodes_of (k := 0) (op := 0x16)
    (l := [(d.toNat, 5, 19)])
    (x := []) rfl rfl rfl (by decide) rfl rfl fun w g => ?_
  show (if bf w 0 19 = 0 then if (0 : Nat) = 0 then .ok (.govq (.ofNat 5 (bf w 19 5))) else .error .lend else .error .field : DecodeResult) = _
  simp only [g 19 5 _ (by decide) rfl, g 0 19 0 (by decide) rfl, ofNat_toNat_mod, reduceIte]

theorem sadd (d : BitVec 5) (a : BitVec 5) (b : BitVec 5) :
    Statement (.sadd d a b) := by
  refine fun _ => decodes_of (k := 0) (op := 0x20)
    (l := [(d.toNat, 5, 19), (a.toNat, 5, 14), (b.toNat, 5, 9)])
    (x := []) rfl rfl rfl (by decide) rfl rfl fun w g => ?_
  show (if bf w 0 9 = 0 then if (0 : Nat) = 0 then .ok (.sadd (.ofNat 5 (bf w 19 5)) (.ofNat 5 (bf w 14 5)) (.ofNat 5 (bf w 9 5))) else .error .lend else .error .field : DecodeResult) = _
  simp only [g 19 5 _ (by decide) rfl, g 14 5 _ (by decide) rfl, g 9 5 _ (by decide) rfl, g 0 9 0 (by decide) rfl,
    ofNat_toNat_mod, reduceIte]

theorem ssub (d : BitVec 5) (a : BitVec 5) (b : BitVec 5) :
    Statement (.ssub d a b) := by
  refine fun _ => decodes_of (k := 0) (op := 0x21)
    (l := [(d.toNat, 5, 19), (a.toNat, 5, 14), (b.toNat, 5, 9)])
    (x := []) rfl rfl rfl (by decide) rfl rfl fun w g => ?_
  show (if bf w 0 9 = 0 then if (0 : Nat) = 0 then .ok (.ssub (.ofNat 5 (bf w 19 5)) (.ofNat 5 (bf w 14 5)) (.ofNat 5 (bf w 9 5))) else .error .lend else .error .field : DecodeResult) = _
  simp only [g 19 5 _ (by decide) rfl, g 14 5 _ (by decide) rfl, g 9 5 _ (by decide) rfl, g 0 9 0 (by decide) rfl,
    ofNat_toNat_mod, reduceIte]

theorem smul (d : BitVec 5) (a : BitVec 5) (b : BitVec 5) :
    Statement (.smul d a b) := by
  refine fun _ => decodes_of (k := 0) (op := 0x22)
    (l := [(d.toNat, 5, 19), (a.toNat, 5, 14), (b.toNat, 5, 9)])
    (x := []) rfl rfl rfl (by decide) rfl rfl fun w g => ?_
  show (if bf w 0 9 = 0 then if (0 : Nat) = 0 then .ok (.smul (.ofNat 5 (bf w 19 5)) (.ofNat 5 (bf w 14 5)) (.ofNat 5 (bf w 9 5))) else .error .lend else .error .field : DecodeResult) = _
  simp only [g 19 5 _ (by decide) rfl, g 14 5 _ (by decide) rfl, g 9 5 _ (by decide) rfl, g 0 9 0 (by decide) rfl,
    ofNat_toNat_mod, reduceIte]

theorem smulh (d : BitVec 5) (a : BitVec 5) (b : BitVec 5) (u : Bool) :
    Statement (.smulh d a b u) := by
  refine fun _ => decodes_of (k := 0) (op := 0x23)
    (l := [(d.toNat, 5, 19), (a.toNat, 5, 14), (b.toNat, 5, 9), (b2n u, 1, 0)])
    (x := []) rfl rfl rfl (by decide) rfl rfl fun w g => ?_
  show (if bf w 1 8 = 0 then if (0 : Nat) = 0 then .ok (.smulh (.ofNat 5 (bf w 19 5)) (.ofNat 5 (bf w 14 5)) (.ofNat 5 (bf w 9 5)) (bf w 0 1 == 1)) else .error .lend else .error .field : DecodeResult) = _
  simp only [g 19 5 _ (by decide) rfl, g 14 5 _ (by decide) rfl, g 9 5 _ (by decide) rfl, g 1 8 0 (by decide) rfl,
    g 0 1 _ (by decide) rfl, ofNat_toNat_mod, b2n_beq, reduceIte]

theorem sand (d : BitVec 5) (a : BitVec 5) (b : BitVec 5) :
    Statement (.sand d a b) := by
  refine fun _ => decodes_of (k := 0) (op := 0x24)
    (l := [(d.toNat, 5, 19), (a.toNat, 5, 14), (b.toNat, 5, 9)])
    (x := []) rfl rfl rfl (by decide) rfl rfl fun w g => ?_
  show (if bf w 0 9 = 0 then if (0 : Nat) = 0 then .ok (.sand (.ofNat 5 (bf w 19 5)) (.ofNat 5 (bf w 14 5)) (.ofNat 5 (bf w 9 5))) else .error .lend else .error .field : DecodeResult) = _
  simp only [g 19 5 _ (by decide) rfl, g 14 5 _ (by decide) rfl, g 9 5 _ (by decide) rfl, g 0 9 0 (by decide) rfl,
    ofNat_toNat_mod, reduceIte]

theorem sor (d : BitVec 5) (a : BitVec 5) (b : BitVec 5) :
    Statement (.sor d a b) := by
  refine fun _ => decodes_of (k := 0) (op := 0x25)
    (l := [(d.toNat, 5, 19), (a.toNat, 5, 14), (b.toNat, 5, 9)])
    (x := []) rfl rfl rfl (by decide) rfl rfl fun w g => ?_
  show (if bf w 0 9 = 0 then if (0 : Nat) = 0 then .ok (.sor (.ofNat 5 (bf w 19 5)) (.ofNat 5 (bf w 14 5)) (.ofNat 5 (bf w 9 5))) else .error .lend else .error .field : DecodeResult) = _
  simp only [g 19 5 _ (by decide) rfl, g 14 5 _ (by decide) rfl, g 9 5 _ (by decide) rfl, g 0 9 0 (by decide) rfl,
    ofNat_toNat_mod, reduceIte]

theorem sxor (d : BitVec 5) (a : BitVec 5) (b : BitVec 5) :
    Statement (.sxor d a b) := by
  refine fun _ => decodes_of (k := 0) (op := 0x26)
    (l := [(d.toNat, 5, 19), (a.toNat, 5, 14), (b.toNat, 5, 9)])
    (x := []) rfl rfl rfl (by decide) rfl rfl fun w g => ?_
  show (if bf w 0 9 = 0 then if (0 : Nat) = 0 then .ok (.sxor (.ofNat 5 (bf w 19 5)) (.ofNat 5 (bf w 14 5)) (.ofNat 5 (bf w 9 5))) else .error .lend else .error .field : DecodeResult) = _
  simp only [g 19 5 _ (by decide) rfl, g 14 5 _ (by decide) rfl, g 9 5 _ (by decide) rfl, g 0 9 0 (by decide) rfl,
    ofNat_toNat_mod, reduceIte]

theorem sshl (d : BitVec 5) (a : BitVec 5) (b : BitVec 5) :
    Statement (.sshl d a b) := by
  refine fun _ => decodes_of (k := 0) (op := 0x27)
    (l := [(d.toNat, 5, 19), (a.toNat, 5, 14), (b.toNat, 5, 9)])
    (x := []) rfl rfl rfl (by decide) rfl rfl fun w g => ?_
  show (if bf w 8 1 = 1 then (if bf w 6 2 = 0 ∧ bf w 9 5 = 0 then if (0 : Nat) = 0 then .ok (.sshlImm (.ofNat 5 (bf w 19 5)) (.ofNat 5 (bf w 14 5)) (.ofNat 6 (bf w 0 6))) else .error .lend else .error .field) else if bf w 0 9 = 0 then if (0 : Nat) = 0 then .ok (.sshl (.ofNat 5 (bf w 19 5)) (.ofNat 5 (bf w 14 5)) (.ofNat 5 (bf w 9 5))) else .error .lend else .error .field : DecodeResult) = _
  simp only [g 19 5 _ (by decide) rfl, g 14 5 _ (by decide) rfl, g 9 5 _ (by decide) rfl, g 8 1 0 (by decide) rfl,
    g 6 2 0 (by decide) rfl, g 0 9 0 (by decide) rfl, g 0 6 0 (by decide) rfl, ofNat_toNat_mod, reduceIte,
    Nat.reduceEqDiff]

theorem sshlImm (d : BitVec 5) (a : BitVec 5) (k : BitVec 6) :
    Statement (.sshlImm d a k) := by
  refine fun _ => decodes_of (k := 0) (op := 0x27)
    (l := [(d.toNat, 5, 19), (a.toNat, 5, 14), (1, 1, 8), (k.toNat, 6, 0)])
    (x := []) rfl rfl rfl (by decide) rfl rfl fun w g => ?_
  show (if bf w 8 1 = 1 then (if bf w 6 2 = 0 ∧ bf w 9 5 = 0 then if (0 : Nat) = 0 then .ok (.sshlImm (.ofNat 5 (bf w 19 5)) (.ofNat 5 (bf w 14 5)) (.ofNat 6 (bf w 0 6))) else .error .lend else .error .field) else if bf w 0 9 = 0 then if (0 : Nat) = 0 then .ok (.sshl (.ofNat 5 (bf w 19 5)) (.ofNat 5 (bf w 14 5)) (.ofNat 5 (bf w 9 5))) else .error .lend else .error .field : DecodeResult) = _
  simp only [g 19 5 _ (by decide) rfl, g 14 5 _ (by decide) rfl, g 9 5 0 (by decide) rfl, g 8 1 1 (by decide) rfl,
    g 6 2 0 (by decide) rfl, g 0 6 _ (by decide) rfl, ofNat_toNat_mod, reduceIte, and_self]

theorem sshr (d : BitVec 5) (a : BitVec 5) (b : BitVec 5) :
    Statement (.sshr d a b) := by
  refine fun _ => decodes_of (k := 0) (op := 0x28)
    (l := [(d.toNat, 5, 19), (a.toNat, 5, 14), (b.toNat, 5, 9)])
    (x := []) rfl rfl rfl (by decide) rfl rfl fun w g => ?_
  show (if bf w 8 1 = 1 then (if bf w 6 2 = 0 ∧ bf w 9 5 = 0 then if (0 : Nat) = 0 then .ok (.sshrImm (.ofNat 5 (bf w 19 5)) (.ofNat 5 (bf w 14 5)) (.ofNat 6 (bf w 0 6))) else .error .lend else .error .field) else if bf w 0 9 = 0 then if (0 : Nat) = 0 then .ok (.sshr (.ofNat 5 (bf w 19 5)) (.ofNat 5 (bf w 14 5)) (.ofNat 5 (bf w 9 5))) else .error .lend else .error .field : DecodeResult) = _
  simp only [g 19 5 _ (by decide) rfl, g 14 5 _ (by decide) rfl, g 9 5 _ (by decide) rfl, g 8 1 0 (by decide) rfl,
    g 6 2 0 (by decide) rfl, g 0 9 0 (by decide) rfl, g 0 6 0 (by decide) rfl, ofNat_toNat_mod, reduceIte,
    Nat.reduceEqDiff]

theorem sshrImm (d : BitVec 5) (a : BitVec 5) (k : BitVec 6) :
    Statement (.sshrImm d a k) := by
  refine fun _ => decodes_of (k := 0) (op := 0x28)
    (l := [(d.toNat, 5, 19), (a.toNat, 5, 14), (1, 1, 8), (k.toNat, 6, 0)])
    (x := []) rfl rfl rfl (by decide) rfl rfl fun w g => ?_
  show (if bf w 8 1 = 1 then (if bf w 6 2 = 0 ∧ bf w 9 5 = 0 then if (0 : Nat) = 0 then .ok (.sshrImm (.ofNat 5 (bf w 19 5)) (.ofNat 5 (bf w 14 5)) (.ofNat 6 (bf w 0 6))) else .error .lend else .error .field) else if bf w 0 9 = 0 then if (0 : Nat) = 0 then .ok (.sshr (.ofNat 5 (bf w 19 5)) (.ofNat 5 (bf w 14 5)) (.ofNat 5 (bf w 9 5))) else .error .lend else .error .field : DecodeResult) = _
  simp only [g 19 5 _ (by decide) rfl, g 14 5 _ (by decide) rfl, g 9 5 0 (by decide) rfl, g 8 1 1 (by decide) rfl,
    g 6 2 0 (by decide) rfl, g 0 6 _ (by decide) rfl, ofNat_toNat_mod, reduceIte, and_self]

theorem ssra (d : BitVec 5) (a : BitVec 5) (b : BitVec 5) :
    Statement (.ssra d a b) := by
  refine fun _ => decodes_of (k := 0) (op := 0x29)
    (l := [(d.toNat, 5, 19), (a.toNat, 5, 14), (b.toNat, 5, 9)])
    (x := []) rfl rfl rfl (by decide) rfl rfl fun w g => ?_
  show (if bf w 8 1 = 1 then (if bf w 6 2 = 0 ∧ bf w 9 5 = 0 then if (0 : Nat) = 0 then .ok (.ssraImm (.ofNat 5 (bf w 19 5)) (.ofNat 5 (bf w 14 5)) (.ofNat 6 (bf w 0 6))) else .error .lend else .error .field) else if bf w 0 9 = 0 then if (0 : Nat) = 0 then .ok (.ssra (.ofNat 5 (bf w 19 5)) (.ofNat 5 (bf w 14 5)) (.ofNat 5 (bf w 9 5))) else .error .lend else .error .field : DecodeResult) = _
  simp only [g 19 5 _ (by decide) rfl, g 14 5 _ (by decide) rfl, g 9 5 _ (by decide) rfl, g 8 1 0 (by decide) rfl,
    g 6 2 0 (by decide) rfl, g 0 9 0 (by decide) rfl, g 0 6 0 (by decide) rfl, ofNat_toNat_mod, reduceIte,
    Nat.reduceEqDiff]

theorem ssraImm (d : BitVec 5) (a : BitVec 5) (k : BitVec 6) :
    Statement (.ssraImm d a k) := by
  refine fun _ => decodes_of (k := 0) (op := 0x29)
    (l := [(d.toNat, 5, 19), (a.toNat, 5, 14), (1, 1, 8), (k.toNat, 6, 0)])
    (x := []) rfl rfl rfl (by decide) rfl rfl fun w g => ?_
  show (if bf w 8 1 = 1 then (if bf w 6 2 = 0 ∧ bf w 9 5 = 0 then if (0 : Nat) = 0 then .ok (.ssraImm (.ofNat 5 (bf w 19 5)) (.ofNat 5 (bf w 14 5)) (.ofNat 6 (bf w 0 6))) else .error .lend else .error .field) else if bf w 0 9 = 0 then if (0 : Nat) = 0 then .ok (.ssra (.ofNat 5 (bf w 19 5)) (.ofNat 5 (bf w 14 5)) (.ofNat 5 (bf w 9 5))) else .error .lend else .error .field : DecodeResult) = _
  simp only [g 19 5 _ (by decide) rfl, g 14 5 _ (by decide) rfl, g 9 5 0 (by decide) rfl, g 8 1 1 (by decide) rfl,
    g 6 2 0 (by decide) rfl, g 0 6 _ (by decide) rfl, ofNat_toNat_mod, reduceIte, and_self]

theorem smin (d : BitVec 5) (a : BitVec 5) (b : BitVec 5) (u : Bool) :
    Statement (.smin d a b u) := by
  refine fun _ => decodes_of (k := 0) (op := 0x2A)
    (l := [(d.toNat, 5, 19), (a.toNat, 5, 14), (b.toNat, 5, 9), (b2n u, 1, 0)])
    (x := []) rfl rfl rfl (by decide) rfl rfl fun w g => ?_
  show (if bf w 1 8 = 0 then if (0 : Nat) = 0 then .ok (.smin (.ofNat 5 (bf w 19 5)) (.ofNat 5 (bf w 14 5)) (.ofNat 5 (bf w 9 5)) (bf w 0 1 == 1)) else .error .lend else .error .field : DecodeResult) = _
  simp only [g 19 5 _ (by decide) rfl, g 14 5 _ (by decide) rfl, g 9 5 _ (by decide) rfl, g 1 8 0 (by decide) rfl,
    g 0 1 _ (by decide) rfl, ofNat_toNat_mod, b2n_beq, reduceIte]

theorem smax (d : BitVec 5) (a : BitVec 5) (b : BitVec 5) (u : Bool) :
    Statement (.smax d a b u) := by
  refine fun _ => decodes_of (k := 0) (op := 0x2B)
    (l := [(d.toNat, 5, 19), (a.toNat, 5, 14), (b.toNat, 5, 9), (b2n u, 1, 0)])
    (x := []) rfl rfl rfl (by decide) rfl rfl fun w g => ?_
  show (if bf w 1 8 = 0 then if (0 : Nat) = 0 then .ok (.smax (.ofNat 5 (bf w 19 5)) (.ofNat 5 (bf w 14 5)) (.ofNat 5 (bf w 9 5)) (bf w 0 1 == 1)) else .error .lend else .error .field : DecodeResult) = _
  simp only [g 19 5 _ (by decide) rfl, g 14 5 _ (by decide) rfl, g 9 5 _ (by decide) rfl, g 1 8 0 (by decide) rfl,
    g 0 1 _ (by decide) rfl, ofNat_toNat_mod, b2n_beq, reduceIte]

theorem scmp (d : BitVec 5) (a : BitVec 5) (b : BitVec 5) (c : BitVec 4) :
    Statement (.scmp d a b c) := by
  refine fun _ => decodes_of (k := 0) (op := 0x2C)
    (l := [(d.toNat, 5, 19), (a.toNat, 5, 14), (b.toNat, 5, 9), (c.toNat, 4, 0)])
    (x := []) rfl rfl rfl (by decide) rfl rfl fun w g => ?_
  show (if bf w 4 5 = 0 then if (0 : Nat) = 0 then .ok (.scmp (.ofNat 5 (bf w 19 5)) (.ofNat 5 (bf w 14 5)) (.ofNat 5 (bf w 9 5)) (.ofNat 4 (bf w 0 4))) else .error .lend else .error .field : DecodeResult) = _
  simp only [g 19 5 _ (by decide) rfl, g 14 5 _ (by decide) rfl, g 9 5 _ (by decide) rfl, g 4 5 0 (by decide) rfl,
    g 0 4 _ (by decide) rfl, ofNat_toNat_mod, reduceIte]

theorem saddi (d : BitVec 5) (a : BitVec 5) (i : BitVec 9) :
    Statement (.saddi d a i) := by
  refine fun _ => decodes_of (k := 0) (op := 0x2D)
    (l := [(d.toNat, 5, 19), (a.toNat, 5, 14), (i.toNat, 9, 0)])
    (x := []) rfl rfl rfl (by decide) rfl rfl fun w g => ?_
  show (if bf w 9 5 = 0 then if (0 : Nat) = 0 then .ok (.saddi (.ofNat 5 (bf w 19 5)) (.ofNat 5 (bf w 14 5)) (.ofNat 9 (bf w 0 9))) else .error .lend else .error .field : DecodeResult) = _
  simp only [g 19 5 _ (by decide) rfl, g 14 5 _ (by decide) rfl, g 9 5 0 (by decide) rfl, g 0 9 _ (by decide) rfl,
    ofNat_toNat_mod, reduceIte]

theorem sli (d : BitVec 5) (i : BitVec 19) :
    Statement (.sli d i) := by
  refine fun _ => decodes_of (k := 0) (op := 0x2E)
    (l := [(d.toNat, 5, 19), (i.toNat, 19, 0)])
    (x := []) rfl rfl rfl (by decide) rfl rfl fun w g => ?_
  show (if (0 : Nat) = 0 then .ok (.sli (.ofNat 5 (bf w 19 5)) (.ofNat 19 (bf w 0 19))) else .error .lend : DecodeResult) = _
  simp only [g 19 5 _ (by decide) rfl, g 0 19 _ (by decide) rfl, ofNat_toNat_mod, reduceIte]

theorem slih (d : BitVec 5) (i : BitVec 19) :
    Statement (.slih d i) := by
  refine fun _ => decodes_of (k := 0) (op := 0x2F)
    (l := [(d.toNat, 5, 19), (i.toNat, 19, 0)])
    (x := []) rfl rfl rfl (by decide) rfl rfl fun w g => ?_
  show (if (0 : Nat) = 0 then .ok (.slih (.ofNat 5 (bf w 19 5)) (.ofNat 19 (bf w 0 19))) else .error .lend : DecodeResult) = _
  simp only [g 19 5 _ (by decide) rfl, g 0 19 _ (by decide) rfl, ofNat_toNat_mod, reduceIte]

theorem ssel (d : BitVec 5) (a : BitVec 5) (b : BitVec 5) (c : BitVec 5) :
    Statement (.ssel d a b c) := by
  refine fun _ => decodes_of (k := 0) (op := 0x30)
    (l := [(d.toNat, 5, 19), (a.toNat, 5, 14), (b.toNat, 5, 9), (c.toNat, 5, 0)])
    (x := []) rfl rfl rfl (by decide) rfl rfl fun w g => ?_
  show (if bf w 5 4 = 0 then if (0 : Nat) = 0 then .ok (.ssel (.ofNat 5 (bf w 19 5)) (.ofNat 5 (bf w 14 5)) (.ofNat 5 (bf w 9 5)) (.ofNat 5 (bf w 0 5))) else .error .lend else .error .field : DecodeResult) = _
  simp only [g 19 5 _ (by decide) rfl, g 14 5 _ (by decide) rfl, g 9 5 _ (by decide) rfl, g 5 4 0 (by decide) rfl,
    g 0 5 _ (by decide) rfl, ofNat_toNat_mod, reduceIte]

theorem sld (d : BitVec 5) (a : BitVec 5) (i : BitVec 9) :
    Statement (.sld d a i) := by
  refine fun _ => decodes_of (k := 0) (op := 0x31)
    (l := [(d.toNat, 5, 19), (a.toNat, 5, 14), (i.toNat, 9, 0)])
    (x := []) rfl rfl rfl (by decide) rfl rfl fun w g => ?_
  show (if bf w 9 5 = 0 then if (0 : Nat) = 0 then .ok (.sld (.ofNat 5 (bf w 19 5)) (.ofNat 5 (bf w 14 5)) (.ofNat 9 (bf w 0 9))) else .error .lend else .error .field : DecodeResult) = _
  simp only [g 19 5 _ (by decide) rfl, g 14 5 _ (by decide) rfl, g 9 5 0 (by decide) rfl, g 0 9 _ (by decide) rfl,
    ofNat_toNat_mod, reduceIte]

theorem sst (a : BitVec 5) (b : BitVec 5) (i : BitVec 9) :
    Statement (.sst a b i) := by
  refine fun _ => decodes_of (k := 0) (op := 0x32)
    (l := [(a.toNat, 5, 14), (b.toNat, 5, 9), (i.toNat, 9, 0)])
    (x := []) rfl rfl rfl (by decide) rfl rfl fun w g => ?_
  show (if bf w 19 5 = 0 then if (0 : Nat) = 0 then .ok (.sst (.ofNat 5 (bf w 14 5)) (.ofNat 5 (bf w 9 5)) (.ofNat 9 (bf w 0 9))) else .error .lend else .error .field : DecodeResult) = _
  simp only [g 19 5 0 (by decide) rfl, g 14 5 _ (by decide) rfl, g 9 5 _ (by decide) rfl, g 0 9 _ (by decide) rfl,
    ofNat_toNat_mod, reduceIte]

theorem vtos (d : BitVec 5) (a : BitVec 7) (ua : Bool) (lane : BitVec 6) :
    Statement (.vtos d a ua lane) := by
  refine fun _ => decodes_of (k := 0) (op := 0x33)
    (l := [(d.toNat, 5, 19), (a.toNat, 7, 12), (b2n ua, 1, 11), (lane.toNat, 6, 5)])
    (x := []) rfl rfl rfl (by decide) rfl rfl fun w g => ?_
  show (if bf w 4 1 = 1 then (if bf w 0 4 = 0 ∧ bf w 5 6 = 0 then if (0 : Nat) = 0 then .ok (.vtosF (.ofNat 5 (bf w 19 5)) (.ofNat 7 (bf w 12 7)) (bf w 11 1 == 1)) else .error .lend else .error .field) else if bf w 0 5 = 0 then if (0 : Nat) = 0 then .ok (.vtos (.ofNat 5 (bf w 19 5)) (.ofNat 7 (bf w 12 7)) (bf w 11 1 == 1) (.ofNat 6 (bf w 5 6))) else .error .lend else .error .field : DecodeResult) = _
  simp only [g 19 5 _ (by decide) rfl, g 12 7 _ (by decide) rfl, g 11 1 _ (by decide) rfl,
    g 5 6 _ (by decide) rfl, g 4 1 0 (by decide) rfl, g 0 4 0 (by decide) rfl, g 0 5 0 (by decide) rfl,
    ofNat_toNat_mod, b2n_beq, reduceIte, Nat.reduceEqDiff]

theorem vtosF (d : BitVec 5) (a : BitVec 7) (ua : Bool) :
    Statement (.vtosF d a ua) := by
  refine fun _ => decodes_of (k := 0) (op := 0x33)
    (l := [(d.toNat, 5, 19), (a.toNat, 7, 12), (b2n ua, 1, 11), (1, 1, 4)])
    (x := []) rfl rfl rfl (by decide) rfl rfl fun w g => ?_
  show (if bf w 4 1 = 1 then (if bf w 0 4 = 0 ∧ bf w 5 6 = 0 then if (0 : Nat) = 0 then .ok (.vtosF (.ofNat 5 (bf w 19 5)) (.ofNat 7 (bf w 12 7)) (bf w 11 1 == 1)) else .error .lend else .error .field) else if bf w 0 5 = 0 then if (0 : Nat) = 0 then .ok (.vtos (.ofNat 5 (bf w 19 5)) (.ofNat 7 (bf w 12 7)) (bf w 11 1 == 1) (.ofNat 6 (bf w 5 6))) else .error .lend else .error .field : DecodeResult) = _
  simp only [g 19 5 _ (by decide) rfl, g 12 7 _ (by decide) rfl, g 11 1 _ (by decide) rfl,
    g 5 6 0 (by decide) rfl, g 4 1 1 (by decide) rfl, g 0 4 0 (by decide) rfl, ofNat_toNat_mod, b2n_beq,
    reduceIte, and_self]

theorem sclz (d : BitVec 5) (a : BitVec 5) :
    Statement (.sclz d a) := by
  refine fun _ => decodes_of (k := 0) (op := 0x34)
    (l := [(d.toNat, 5, 19), (a.toNat, 5, 14)])
    (x := []) rfl rfl rfl (by decide) rfl rfl fun w g => ?_
  show (if bf w 0 14 = 0 then if (0 : Nat) = 0 then .ok (.sclz (.ofNat 5 (bf w 19 5)) (.ofNat 5 (bf w 14 5))) else .error .lend else .error .field : DecodeResult) = _
  simp only [g 19 5 _ (by decide) rfl, g 14 5 _ (by decide) rfl, g 0 14 0 (by decide) rfl, ofNat_toNat_mod,
    reduceIte]

theorem spopc (d : BitVec 5) (a : BitVec 5) :
    Statement (.spopc d a) := by
  refine fun _ => decodes_of (k := 0) (op := 0x35)
    (l := [(d.toNat, 5, 19), (a.toNat, 5, 14)])
    (x := []) rfl rfl rfl (by decide) rfl rfl fun w g => ?_
  show (if bf w 0 14 = 0 then if (0 : Nat) = 0 then .ok (.spopc (.ofNat 5 (bf w 19 5)) (.ofNat 5 (bf w 14 5))) else .error .lend else .error .field : DecodeResult) = _
  simp only [g 19 5 _ (by decide) rfl, g 14 5 _ (by decide) rfl, g 0 14 0 (by decide) rfl, ofNat_toNat_mod,
    reduceIte]

theorem iadd (d : BitVec 7) (a : BitVec 7) (b : BitVec 7) (ua : Bool) (ub : Bool) (x : Bool) :
    Statement (.iadd d a b ua ub x) := by
  refine fun _ => decodes_of (k := 1) (op := 0x01)
    (l := [(d.toNat, 7, 17), (a.toNat, 7, 10), (b.toNat, 7, 3), (b2n ua, 1, 2), (b2n ub, 1, 1), (b2n x, 1, 0)])
    (x := []) rfl rfl rfl (by decide) rfl rfl fun w g => ?_
  show (if (0 : Nat) = 0 then .ok (.iadd (.ofNat 7 (bf w 17 7)) (.ofNat 7 (bf w 10 7)) (.ofNat 7 (bf w 3 7)) (bf w 2 1 == 1) (bf w 1 1 == 1) (bf w 0 1 == 1)) else .error .lend : DecodeResult) = _
  simp only [g 17 7 _ (by decide) rfl, g 10 7 _ (by decide) rfl, g 3 7 _ (by decide) rfl, g 2 1 _ (by decide) rfl,
    g 1 1 _ (by decide) rfl, g 0 1 _ (by decide) rfl, ofNat_toNat_mod, b2n_beq, reduceIte]

theorem isub (d : BitVec 7) (a : BitVec 7) (b : BitVec 7) (ua : Bool) (ub : Bool) (x : Bool) :
    Statement (.isub d a b ua ub x) := by
  refine fun _ => decodes_of (k := 1) (op := 0x02)
    (l := [(d.toNat, 7, 17), (a.toNat, 7, 10), (b.toNat, 7, 3), (b2n ua, 1, 2), (b2n ub, 1, 1), (b2n x, 1, 0)])
    (x := []) rfl rfl rfl (by decide) rfl rfl fun w g => ?_
  show (if (0 : Nat) = 0 then .ok (.isub (.ofNat 7 (bf w 17 7)) (.ofNat 7 (bf w 10 7)) (.ofNat 7 (bf w 3 7)) (bf w 2 1 == 1) (bf w 1 1 == 1) (bf w 0 1 == 1)) else .error .lend : DecodeResult) = _
  simp only [g 17 7 _ (by decide) rfl, g 10 7 _ (by decide) rfl, g 3 7 _ (by decide) rfl, g 2 1 _ (by decide) rfl,
    g 1 1 _ (by decide) rfl, g 0 1 _ (by decide) rfl, ofNat_toNat_mod, b2n_beq, reduceIte]

theorem iaddc (d : BitVec 7) (a : BitVec 7) (b : BitVec 7) (ua : Bool) (ub : Bool) (x : Bool) (c : BitVec 6) (uc : Bool) :
    Statement (.iaddc d a b ua ub x c uc) := by
  refine fun _ => decodes_of_lend (k := 1) (op := 0x03)
    (l := [(d.toNat, 7, 17), (a.toNat, 7, 10), (b.toNat, 7, 3), (b2n ua, 1, 2), (b2n ub, 1, 1), (b2n x, 1, 0)])
    (x := [(c.toNat, 6, 1), (b2n uc, 1, 0)]) rfl rfl rfl (by decide) rfl rfl fun w x0 g h => ?_
  show (.ok (.iaddc (.ofNat 7 (bf w 17 7)) (.ofNat 7 (bf w 10 7)) (.ofNat 7 (bf w 3 7)) (bf w 2 1 == 1) (bf w 1 1 == 1) (bf w 0 1 == 1) (.ofNat 6 (bf x0 1 6)) (bf x0 0 1 == 1)) : DecodeResult) = _
  simp only [g 17 7 _ (by decide) rfl, g 10 7 _ (by decide) rfl, g 3 7 _ (by decide) rfl, g 2 1 _ (by decide) rfl,
    g 1 1 _ (by decide) rfl, g 0 1 _ (by decide) rfl, h 1 6 _ (by decide) rfl, h 0 1 _ (by decide) rfl,
    ofNat_toNat_mod, b2n_beq]

theorem imul (d : BitVec 7) (a : BitVec 7) (b : BitVec 7) (ua : Bool) (ub : Bool) :
    Statement (.imul d a b ua ub) := by
  refine fun _ => decodes_of (k := 1) (op := 0x04)
    (l := [(d.toNat, 7, 17), (a.toNat, 7, 10), (b.toNat, 7, 3), (b2n ua, 1, 2), (b2n ub, 1, 1)])
    (x := []) rfl rfl rfl (by decide) rfl rfl fun w g => ?_
  show (if bf w 0 1 = 0 then if (0 : Nat) = 0 then .ok (.imul (.ofNat 7 (bf w 17 7)) (.ofNat 7 (bf w 10 7)) (.ofNat 7 (bf w 3 7)) (bf w 2 1 == 1) (bf w 1 1 == 1)) else .error .lend else .error .field : DecodeResult) = _
  simp only [g 17 7 _ (by decide) rfl, g 10 7 _ (by decide) rfl, g 3 7 _ (by decide) rfl, g 2 1 _ (by decide) rfl,
    g 1 1 _ (by decide) rfl, g 0 1 0 (by decide) rfl, ofNat_toNat_mod, b2n_beq, reduceIte]

theorem imulh (d : BitVec 7) (a : BitVec 7) (b : BitVec 7) (ua : Bool) (ub : Bool) :
    Statement (.imulh d a b ua ub) := by
  refine fun _ => decodes_of (k := 1) (op := 0x05)
    (l := [(d.toNat, 7, 17), (a.toNat, 7, 10), (b.toNat, 7, 3), (b2n ua, 1, 2), (b2n ub, 1, 1)])
    (x := []) rfl rfl rfl (by decide) rfl rfl fun w g => ?_
  show (if bf w 0 1 = 0 then if (0 : Nat) = 0 then .ok (.imulh (.ofNat 7 (bf w 17 7)) (.ofNat 7 (bf w 10 7)) (.ofNat 7 (bf w 3 7)) (bf w 2 1 == 1) (bf w 1 1 == 1)) else .error .lend else .error .field : DecodeResult) = _
  simp only [g 17 7 _ (by decide) rfl, g 10 7 _ (by decide) rfl, g 3 7 _ (by decide) rfl, g 2 1 _ (by decide) rfl,
    g 1 1 _ (by decide) rfl, g 0 1 0 (by decide) rfl, ofNat_toNat_mod, b2n_beq, reduceIte]

theorem imulhu (d : BitVec 7) (a : BitVec 7) (b : BitVec 7) (ua : Bool) (ub : Bool) :
    Statement (.imulhu d a b ua ub) := by
  refine fun _ => decodes_of (k := 1) (op := 0x06)
    (l := [(d.toNat, 7, 17), (a.toNat, 7, 10), (b.toNat, 7, 3), (b2n ua, 1, 2), (b2n ub, 1, 1)])
    (x := []) rfl rfl rfl (by decide) rfl rfl fun w g => ?_
  show (if bf w 0 1 = 0 then if (0 : Nat) = 0 then .ok (.imulhu (.ofNat 7 (bf w 17 7)) (.ofNat 7 (bf w 10 7)) (.ofNat 7 (bf w 3 7)) (bf w 2 1 == 1) (bf w 1 1 == 1)) else .error .lend else .error .field : DecodeResult) = _
  simp only [g 17 7 _ (by decide) rfl, g 10 7 _ (by decide) rfl, g 3 7 _ (by decide) rfl, g 2 1 _ (by decide) rfl,
    g 1 1 _ (by decide) rfl, g 0 1 0 (by decide) rfl, ofNat_toNat_mod, b2n_beq, reduceIte]

theorem imad (d : BitVec 7) (a : BitVec 7) (b : BitVec 7) (ua : Bool) (ub : Bool) (c : BitVec 6) (uc : Bool) :
    Statement (.imad d a b ua ub c uc) := by
  refine fun _ => decodes_of_lend (k := 1) (op := 0x07)
    (l := [(d.toNat, 7, 17), (a.toNat, 7, 10), (b.toNat, 7, 3), (b2n ua, 1, 2), (b2n ub, 1, 1)])
    (x := [(c.toNat, 6, 1), (b2n uc, 1, 0)]) rfl rfl rfl (by decide) rfl rfl fun w x g h => ?_
  show (if bf w 0 1 = 0 then .ok (.imad (.ofNat 7 (bf w 17 7)) (.ofNat 7 (bf w 10 7)) (.ofNat 7 (bf w 3 7)) (bf w 2 1 == 1) (bf w 1 1 == 1) (.ofNat 6 (bf x 1 6)) (bf x 0 1 == 1)) else .error .field : DecodeResult) = _
  simp only [g 17 7 _ (by decide) rfl, g 10 7 _ (by decide) rfl, g 3 7 _ (by decide) rfl, g 2 1 _ (by decide) rfl,
    g 1 1 _ (by decide) rfl, g 0 1 0 (by decide) rfl, h 1 6 _ (by decide) rfl, h 0 1 _ (by decide) rfl,
    ofNat_toNat_mod, b2n_beq, reduceIte]

theorem imin (d : BitVec 7) (a : BitVec 7) (b : BitVec 7) (ua : Bool) (ub : Bool) :
    Statement (.imin d a b ua ub) := by
  refine fun _ => decodes_of (k := 1) (op := 0x08)
    (l := [(d.toNat, 7, 17), (a.toNat, 7, 10), (b.toNat, 7, 3), (b2n ua, 1, 2), (b2n ub, 1, 1)])
    (x := []) rfl rfl rfl (by decide) rfl rfl fun w g => ?_
  show (if bf w 0 1 = 0 then if (0 : Nat) = 0 then .ok (.imin (.ofNat 7 (bf w 17 7)) (.ofNat 7 (bf w 10 7)) (.ofNat 7 (bf w 3 7)) (bf w 2 1 == 1) (bf w 1 1 == 1)) else .error .lend else .error .field : DecodeResult) = _
  simp only [g 17 7 _ (by decide) rfl, g 10 7 _ (by decide) rfl, g 3 7 _ (by decide) rfl, g 2 1 _ (by decide) rfl,
    g 1 1 _ (by decide) rfl, g 0 1 0 (by decide) rfl, ofNat_toNat_mod, b2n_beq, reduceIte]

theorem imax (d : BitVec 7) (a : BitVec 7) (b : BitVec 7) (ua : Bool) (ub : Bool) :
    Statement (.imax d a b ua ub) := by
  refine fun _ => decodes_of (k := 1) (op := 0x09)
    (l := [(d.toNat, 7, 17), (a.toNat, 7, 10), (b.toNat, 7, 3), (b2n ua, 1, 2), (b2n ub, 1, 1)])
    (x := []) rfl rfl rfl (by decide) rfl rfl fun w g => ?_
  show (if bf w 0 1 = 0 then if (0 : Nat) = 0 then .ok (.imax (.ofNat 7 (bf w 17 7)) (.ofNat 7 (bf w 10 7)) (.ofNat 7 (bf w 3 7)) (bf w 2 1 == 1) (bf w 1 1 == 1)) else .error .lend else .error .field : DecodeResult) = _
  simp only [g 17 7 _ (by decide) rfl, g 10 7 _ (by decide) rfl, g 3 7 _ (by decide) rfl, g 2 1 _ (by decide) rfl,
    g 1 1 _ (by decide) rfl, g 0 1 0 (by decide) rfl, ofNat_toNat_mod, b2n_beq, reduceIte]

theorem iminu (d : BitVec 7) (a : BitVec 7) (b : BitVec 7) (ua : Bool) (ub : Bool) :
    Statement (.iminu d a b ua ub) := by
  refine fun _ => decodes_of (k := 1) (op := 0x0A)
    (l := [(d.toNat, 7, 17), (a.toNat, 7, 10), (b.toNat, 7, 3), (b2n ua, 1, 2), (b2n ub, 1, 1)])
    (x := []) rfl rfl rfl (by decide) rfl rfl fun w g => ?_
  show (if bf w 0 1 = 0 then if (0 : Nat) = 0 then .ok (.iminu (.ofNat 7 (bf w 17 7)) (.ofNat 7 (bf w 10 7)) (.ofNat 7 (bf w 3 7)) (bf w 2 1 == 1) (bf w 1 1 == 1)) else .error .lend else .error .field : DecodeResult) = _
  simp only [g 17 7 _ (by decide) rfl, g 10 7 _ (by decide) rfl, g 3 7 _ (by decide) rfl, g 2 1 _ (by decide) rfl,
    g 1 1 _ (by decide) rfl, g 0 1 0 (by decide) rfl, ofNat_toNat_mod, b2n_beq, reduceIte]

theorem imaxu (d : BitVec 7) (a : BitVec 7) (b : BitVec 7) (ua : Bool) (ub : Bool) :
    Statement (.imaxu d a b ua ub) := by
  refine fun _ => decodes_of (k := 1) (op := 0x0B)
    (l := [(d.toNat, 7, 17), (a.toNat, 7, 10), (b.toNat, 7, 3), (b2n ua, 1, 2), (b2n ub, 1, 1)])
    (x := []) rfl rfl rfl (by decide) rfl rfl fun w g => ?_
  show (if bf w 0 1 = 0 then if (0 : Nat) = 0 then .ok (.imaxu (.ofNat 7 (bf w 17 7)) (.ofNat 7 (bf w 10 7)) (.ofNat 7 (bf w 3 7)) (bf w 2 1 == 1) (bf w 1 1 == 1)) else .error .lend else .error .field : DecodeResult) = _
  simp only [g 17 7 _ (by decide) rfl, g 10 7 _ (by decide) rfl, g 3 7 _ (by decide) rfl, g 2 1 _ (by decide) rfl,
    g 1 1 _ (by decide) rfl, g 0 1 0 (by decide) rfl, ofNat_toNat_mod, b2n_beq, reduceIte]

theorem iabs (d : BitVec 7) (a : BitVec 7) (ua : Bool) :
    Statement (.iabs d a ua) := by
  refine fun _ => decodes_of (k := 1) (op := 0x0C)
    (l := [(d.toNat, 7, 17), (a.toNat, 7, 10), (b2n ua, 1, 1)])
    (x := []) rfl rfl rfl (by decide) rfl rfl fun w g => ?_
  show (if bf w 0 1 = 0 ∧ bf w 2 8 = 0 then if (0 : Nat) = 0 then .ok (.iabs (.ofNat 7 (bf w 17 7)) (.ofNat 7 (bf w 10 7)) (bf w 1 1 == 1)) else .error .lend else .error .field : DecodeResult) = _
  simp only [g 17 7 _ (by decide) rfl, g 10 7 _ (by decide) rfl, g 2 8 0 (by decide) rfl, g 1 1 _ (by decide) rfl,
    g 0 1 0 (by decide) rfl, ofNat_toNat_mod, b2n_beq, reduceIte, and_self]

theorem and (d : BitVec 7) (a : BitVec 7) (b : BitVec 7) (ua : Bool) (ub : Bool) :
    Statement (.and d a b ua ub) := by
  refine fun _ => decodes_of (k := 1) (op := 0x0D)
    (l := [(d.toNat, 7, 17), (a.toNat, 7, 10), (b.toNat, 7, 3), (b2n ua, 1, 2), (b2n ub, 1, 1)])
    (x := []) rfl rfl rfl (by decide) rfl rfl fun w g => ?_
  show (if bf w 0 1 = 0 then if (0 : Nat) = 0 then .ok (.and (.ofNat 7 (bf w 17 7)) (.ofNat 7 (bf w 10 7)) (.ofNat 7 (bf w 3 7)) (bf w 2 1 == 1) (bf w 1 1 == 1)) else .error .lend else .error .field : DecodeResult) = _
  simp only [g 17 7 _ (by decide) rfl, g 10 7 _ (by decide) rfl, g 3 7 _ (by decide) rfl, g 2 1 _ (by decide) rfl,
    g 1 1 _ (by decide) rfl, g 0 1 0 (by decide) rfl, ofNat_toNat_mod, b2n_beq, reduceIte]

theorem or (d : BitVec 7) (a : BitVec 7) (b : BitVec 7) (ua : Bool) (ub : Bool) :
    Statement (.or d a b ua ub) := by
  refine fun _ => decodes_of (k := 1) (op := 0x0E)
    (l := [(d.toNat, 7, 17), (a.toNat, 7, 10), (b.toNat, 7, 3), (b2n ua, 1, 2), (b2n ub, 1, 1)])
    (x := []) rfl rfl rfl (by decide) rfl rfl fun w g => ?_
  show (if bf w 0 1 = 0 then if (0 : Nat) = 0 then .ok (.or (.ofNat 7 (bf w 17 7)) (.ofNat 7 (bf w 10 7)) (.ofNat 7 (bf w 3 7)) (bf w 2 1 == 1) (bf w 1 1 == 1)) else .error .lend else .error .field : DecodeResult) = _
  simp only [g 17 7 _ (by decide) rfl, g 10 7 _ (by decide) rfl, g 3 7 _ (by decide) rfl, g 2 1 _ (by decide) rfl,
    g 1 1 _ (by decide) rfl, g 0 1 0 (by decide) rfl, ofNat_toNat_mod, b2n_beq, reduceIte]

theorem xor (d : BitVec 7) (a : BitVec 7) (b : BitVec 7) (ua : Bool) (ub : Bool) :
    Statement (.xor d a b ua ub) := by
  refine fun _ => decodes_of (k := 1) (op := 0x0F)
    (l := [(d.toNat, 7, 17), (a.toNat, 7, 10), (b.toNat, 7, 3), (b2n ua, 1, 2), (b2n ub, 1, 1)])
    (x := []) rfl rfl rfl (by decide) rfl rfl fun w g => ?_
  show (if bf w 0 1 = 0 then if (0 : Nat) = 0 then .ok (.xor (.ofNat 7 (bf w 17 7)) (.ofNat 7 (bf w 10 7)) (.ofNat 7 (bf w 3 7)) (bf w 2 1 == 1) (bf w 1 1 == 1)) else .error .lend else .error .field : DecodeResult) = _
  simp only [g 17 7 _ (by decide) rfl, g 10 7 _ (by decide) rfl, g 3 7 _ (by decide) rfl, g 2 1 _ (by decide) rfl,
    g 1 1 _ (by decide) rfl, g 0 1 0 (by decide) rfl, ofNat_toNat_mod, b2n_beq, reduceIte]

theorem andn (d : BitVec 7) (a : BitVec 7) (b : BitVec 7) (ua : Bool) (ub : Bool) :
    Statement (.andn d a b ua ub) := by
  refine fun _ => decodes_of (k := 1) (op := 0x10)
    (l := [(d.toNat, 7, 17), (a.toNat, 7, 10), (b.toNat, 7, 3), (b2n ua, 1, 2), (b2n ub, 1, 1)])
    (x := []) rfl rfl rfl (by decide) rfl rfl fun w g => ?_
  show (if bf w 0 1 = 0 then if (0 : Nat) = 0 then .ok (.andn (.ofNat 7 (bf w 17 7)) (.ofNat 7 (bf w 10 7)) (.ofNat 7 (bf w 3 7)) (bf w 2 1 == 1) (bf w 1 1 == 1)) else .error .lend else .error .field : DecodeResult) = _
  simp only [g 17 7 _ (by decide) rfl, g 10 7 _ (by decide) rfl, g 3 7 _ (by decide) rfl, g 2 1 _ (by decide) rfl,
    g 1 1 _ (by decide) rfl, g 0 1 0 (by decide) rfl, ofNat_toNat_mod, b2n_beq, reduceIte]

theorem shl (d : BitVec 7) (a : BitVec 7) (b : BitVec 7) (ua : Bool) (ub : Bool) :
    Statement (.shl d a b ua ub) := by
  refine fun _ => decodes_of (k := 1) (op := 0x11)
    (l := [(d.toNat, 7, 17), (a.toNat, 7, 10), (b.toNat, 7, 3), (b2n ua, 1, 2), (b2n ub, 1, 1)])
    (x := []) rfl rfl rfl (by decide) rfl rfl fun w g => ?_
  show (if bf w 0 1 = 1 then (if bf w 1 1 = 0 ∧ bf w 8 2 = 0 then if (0 : Nat) = 0 then .ok (.shlImm (.ofNat 7 (bf w 17 7)) (.ofNat 7 (bf w 10 7)) (.ofNat 5 (bf w 3 5)) (bf w 2 1 == 1)) else .error .lend else .error .field) else if (0 : Nat) = 0 then .ok (.shl (.ofNat 7 (bf w 17 7)) (.ofNat 7 (bf w 10 7)) (.ofNat 7 (bf w 3 7)) (bf w 2 1 == 1) (bf w 1 1 == 1)) else .error .lend : DecodeResult) = _
  simp only [g 17 7 _ (by decide) rfl, g 10 7 _ (by decide) rfl, g 3 7 _ (by decide) rfl, g 2 1 _ (by decide) rfl,
    g 1 1 _ (by decide) rfl, g 0 1 0 (by decide) rfl, ofNat_toNat_mod, b2n_beq, reduceIte, Nat.reduceEqDiff]

theorem shlImm (d : BitVec 7) (a : BitVec 7) (n : BitVec 5) (ua : Bool) :
    Statement (.shlImm d a n ua) := by
  refine fun _ => decodes_of (k := 1) (op := 0x11)
    (l := [(d.toNat, 7, 17), (a.toNat, 7, 10), (n.toNat, 5, 3), (b2n ua, 1, 2), (1, 1, 0)])
    (x := []) rfl rfl rfl (by decide) rfl rfl fun w g => ?_
  show (if bf w 0 1 = 1 then (if bf w 1 1 = 0 ∧ bf w 8 2 = 0 then if (0 : Nat) = 0 then .ok (.shlImm (.ofNat 7 (bf w 17 7)) (.ofNat 7 (bf w 10 7)) (.ofNat 5 (bf w 3 5)) (bf w 2 1 == 1)) else .error .lend else .error .field) else if (0 : Nat) = 0 then .ok (.shl (.ofNat 7 (bf w 17 7)) (.ofNat 7 (bf w 10 7)) (.ofNat 7 (bf w 3 7)) (bf w 2 1 == 1) (bf w 1 1 == 1)) else .error .lend : DecodeResult) = _
  simp only [g 17 7 _ (by decide) rfl, g 10 7 _ (by decide) rfl, g 8 2 0 (by decide) rfl, g 3 5 _ (by decide) rfl,
    g 2 1 _ (by decide) rfl, g 1 1 0 (by decide) rfl, g 0 1 1 (by decide) rfl, ofNat_toNat_mod, b2n_beq,
    reduceIte, and_self]

theorem shr (d : BitVec 7) (a : BitVec 7) (b : BitVec 7) (ua : Bool) (ub : Bool) :
    Statement (.shr d a b ua ub) := by
  refine fun _ => decodes_of (k := 1) (op := 0x12)
    (l := [(d.toNat, 7, 17), (a.toNat, 7, 10), (b.toNat, 7, 3), (b2n ua, 1, 2), (b2n ub, 1, 1)])
    (x := []) rfl rfl rfl (by decide) rfl rfl fun w g => ?_
  show (if bf w 0 1 = 1 then (if bf w 1 1 = 0 ∧ bf w 8 2 = 0 then if (0 : Nat) = 0 then .ok (.shrImm (.ofNat 7 (bf w 17 7)) (.ofNat 7 (bf w 10 7)) (.ofNat 5 (bf w 3 5)) (bf w 2 1 == 1)) else .error .lend else .error .field) else if (0 : Nat) = 0 then .ok (.shr (.ofNat 7 (bf w 17 7)) (.ofNat 7 (bf w 10 7)) (.ofNat 7 (bf w 3 7)) (bf w 2 1 == 1) (bf w 1 1 == 1)) else .error .lend : DecodeResult) = _
  simp only [g 17 7 _ (by decide) rfl, g 10 7 _ (by decide) rfl, g 3 7 _ (by decide) rfl, g 2 1 _ (by decide) rfl,
    g 1 1 _ (by decide) rfl, g 0 1 0 (by decide) rfl, ofNat_toNat_mod, b2n_beq, reduceIte, Nat.reduceEqDiff]

theorem shrImm (d : BitVec 7) (a : BitVec 7) (n : BitVec 5) (ua : Bool) :
    Statement (.shrImm d a n ua) := by
  refine fun _ => decodes_of (k := 1) (op := 0x12)
    (l := [(d.toNat, 7, 17), (a.toNat, 7, 10), (n.toNat, 5, 3), (b2n ua, 1, 2), (1, 1, 0)])
    (x := []) rfl rfl rfl (by decide) rfl rfl fun w g => ?_
  show (if bf w 0 1 = 1 then (if bf w 1 1 = 0 ∧ bf w 8 2 = 0 then if (0 : Nat) = 0 then .ok (.shrImm (.ofNat 7 (bf w 17 7)) (.ofNat 7 (bf w 10 7)) (.ofNat 5 (bf w 3 5)) (bf w 2 1 == 1)) else .error .lend else .error .field) else if (0 : Nat) = 0 then .ok (.shr (.ofNat 7 (bf w 17 7)) (.ofNat 7 (bf w 10 7)) (.ofNat 7 (bf w 3 7)) (bf w 2 1 == 1) (bf w 1 1 == 1)) else .error .lend : DecodeResult) = _
  simp only [g 17 7 _ (by decide) rfl, g 10 7 _ (by decide) rfl, g 8 2 0 (by decide) rfl, g 3 5 _ (by decide) rfl,
    g 2 1 _ (by decide) rfl, g 1 1 0 (by decide) rfl, g 0 1 1 (by decide) rfl, ofNat_toNat_mod, b2n_beq,
    reduceIte, and_self]

theorem sra (d : BitVec 7) (a : BitVec 7) (b : BitVec 7) (ua : Bool) (ub : Bool) :
    Statement (.sra d a b ua ub) := by
  refine fun _ => decodes_of (k := 1) (op := 0x13)
    (l := [(d.toNat, 7, 17), (a.toNat, 7, 10), (b.toNat, 7, 3), (b2n ua, 1, 2), (b2n ub, 1, 1)])
    (x := []) rfl rfl rfl (by decide) rfl rfl fun w g => ?_
  show (if bf w 0 1 = 1 then (if bf w 1 1 = 0 ∧ bf w 8 2 = 0 then if (0 : Nat) = 0 then .ok (.sraImm (.ofNat 7 (bf w 17 7)) (.ofNat 7 (bf w 10 7)) (.ofNat 5 (bf w 3 5)) (bf w 2 1 == 1)) else .error .lend else .error .field) else if (0 : Nat) = 0 then .ok (.sra (.ofNat 7 (bf w 17 7)) (.ofNat 7 (bf w 10 7)) (.ofNat 7 (bf w 3 7)) (bf w 2 1 == 1) (bf w 1 1 == 1)) else .error .lend : DecodeResult) = _
  simp only [g 17 7 _ (by decide) rfl, g 10 7 _ (by decide) rfl, g 3 7 _ (by decide) rfl, g 2 1 _ (by decide) rfl,
    g 1 1 _ (by decide) rfl, g 0 1 0 (by decide) rfl, ofNat_toNat_mod, b2n_beq, reduceIte, Nat.reduceEqDiff]

theorem sraImm (d : BitVec 7) (a : BitVec 7) (n : BitVec 5) (ua : Bool) :
    Statement (.sraImm d a n ua) := by
  refine fun _ => decodes_of (k := 1) (op := 0x13)
    (l := [(d.toNat, 7, 17), (a.toNat, 7, 10), (n.toNat, 5, 3), (b2n ua, 1, 2), (1, 1, 0)])
    (x := []) rfl rfl rfl (by decide) rfl rfl fun w g => ?_
  show (if bf w 0 1 = 1 then (if bf w 1 1 = 0 ∧ bf w 8 2 = 0 then if (0 : Nat) = 0 then .ok (.sraImm (.ofNat 7 (bf w 17 7)) (.ofNat 7 (bf w 10 7)) (.ofNat 5 (bf w 3 5)) (bf w 2 1 == 1)) else .error .lend else .error .field) else if (0 : Nat) = 0 then .ok (.sra (.ofNat 7 (bf w 17 7)) (.ofNat 7 (bf w 10 7)) (.ofNat 7 (bf w 3 7)) (bf w 2 1 == 1) (bf w 1 1 == 1)) else .error .lend : DecodeResult) = _
  simp only [g 17 7 _ (by decide) rfl, g 10 7 _ (by decide) rfl, g 8 2 0 (by decide) rfl, g 3 5 _ (by decide) rfl,
    g 2 1 _ (by decide) rfl, g 1 1 0 (by decide) rfl, g 0 1 1 (by decide) rfl, ofNat_toNat_mod, b2n_beq,
    reduceIte, and_self]

theorem rol (d : BitVec 7) (a : BitVec 7) (b : BitVec 7) (ua : Bool) (ub : Bool) :
    Statement (.rol d a b ua ub) := by
  refine fun _ => decodes_of (k := 1) (op := 0x14)
    (l := [(d.toNat, 7, 17), (a.toNat, 7, 10), (b.toNat, 7, 3), (b2n ua, 1, 2), (b2n ub, 1, 1)])
    (x := []) rfl rfl rfl (by decide) rfl rfl fun w g => ?_
  show (if bf w 0 1 = 1 then (if bf w 1 1 = 0 ∧ bf w 8 2 = 0 then if (0 : Nat) = 0 then .ok (.rolImm (.ofNat 7 (bf w 17 7)) (.ofNat 7 (bf w 10 7)) (.ofNat 5 (bf w 3 5)) (bf w 2 1 == 1)) else .error .lend else .error .field) else if (0 : Nat) = 0 then .ok (.rol (.ofNat 7 (bf w 17 7)) (.ofNat 7 (bf w 10 7)) (.ofNat 7 (bf w 3 7)) (bf w 2 1 == 1) (bf w 1 1 == 1)) else .error .lend : DecodeResult) = _
  simp only [g 17 7 _ (by decide) rfl, g 10 7 _ (by decide) rfl, g 3 7 _ (by decide) rfl, g 2 1 _ (by decide) rfl,
    g 1 1 _ (by decide) rfl, g 0 1 0 (by decide) rfl, ofNat_toNat_mod, b2n_beq, reduceIte, Nat.reduceEqDiff]

theorem rolImm (d : BitVec 7) (a : BitVec 7) (n : BitVec 5) (ua : Bool) :
    Statement (.rolImm d a n ua) := by
  refine fun _ => decodes_of (k := 1) (op := 0x14)
    (l := [(d.toNat, 7, 17), (a.toNat, 7, 10), (n.toNat, 5, 3), (b2n ua, 1, 2), (1, 1, 0)])
    (x := []) rfl rfl rfl (by decide) rfl rfl fun w g => ?_
  show (if bf w 0 1 = 1 then (if bf w 1 1 = 0 ∧ bf w 8 2 = 0 then if (0 : Nat) = 0 then .ok (.rolImm (.ofNat 7 (bf w 17 7)) (.ofNat 7 (bf w 10 7)) (.ofNat 5 (bf w 3 5)) (bf w 2 1 == 1)) else .error .lend else .error .field) else if (0 : Nat) = 0 then .ok (.rol (.ofNat 7 (bf w 17 7)) (.ofNat 7 (bf w 10 7)) (.ofNat 7 (bf w 3 7)) (bf w 2 1 == 1) (bf w 1 1 == 1)) else .error .lend : DecodeResult) = _
  simp only [g 17 7 _ (by decide) rfl, g 10 7 _ (by decide) rfl, g 8 2 0 (by decide) rfl, g 3 5 _ (by decide) rfl,
    g 2 1 _ (by decide) rfl, g 1 1 0 (by decide) rfl, g 0 1 1 (by decide) rfl, ofNat_toNat_mod, b2n_beq,
    reduceIte, and_self]

theorem bfx (d : BitVec 7) (a : BitVec 7) (b : BitVec 7) (ua : Bool) (ub : Bool) (x : Bool) :
    Statement (.bfx d a b ua ub x) := by
  refine fun _ => decodes_of (k := 1) (op := 0x15)
    (l := [(d.toNat, 7, 17), (a.toNat, 7, 10), (b.toNat, 7, 3), (b2n ua, 1, 2), (b2n ub, 1, 1), (b2n x, 1, 0)])
    (x := []) rfl rfl rfl (by decide) rfl rfl fun w g => ?_
  show (if (0 : Nat) = 0 then .ok (.bfx (.ofNat 7 (bf w 17 7)) (.ofNat 7 (bf w 10 7)) (.ofNat 7 (bf w 3 7)) (bf w 2 1 == 1) (bf w 1 1 == 1) (bf w 0 1 == 1)) else .error .lend : DecodeResult) = _
  simp only [g 17 7 _ (by decide) rfl, g 10 7 _ (by decide) rfl, g 3 7 _ (by decide) rfl, g 2 1 _ (by decide) rfl,
    g 1 1 _ (by decide) rfl, g 0 1 _ (by decide) rfl, ofNat_toNat_mod, b2n_beq, reduceIte]

theorem bfi (d : BitVec 7) (a : BitVec 7) (b : BitVec 7) (ua : Bool) (ub : Bool) (c : BitVec 6) (uc : Bool) :
    Statement (.bfi d a b ua ub c uc) := by
  refine fun _ => decodes_of_lend (k := 1) (op := 0x16)
    (l := [(d.toNat, 7, 17), (a.toNat, 7, 10), (b.toNat, 7, 3), (b2n ua, 1, 2), (b2n ub, 1, 1)])
    (x := [(c.toNat, 6, 1), (b2n uc, 1, 0)]) rfl rfl rfl (by decide) rfl rfl fun w x g h => ?_
  show (if bf w 0 1 = 0 then .ok (.bfi (.ofNat 7 (bf w 17 7)) (.ofNat 7 (bf w 10 7)) (.ofNat 7 (bf w 3 7)) (bf w 2 1 == 1) (bf w 1 1 == 1) (.ofNat 6 (bf x 1 6)) (bf x 0 1 == 1)) else .error .field : DecodeResult) = _
  simp only [g 17 7 _ (by decide) rfl, g 10 7 _ (by decide) rfl, g 3 7 _ (by decide) rfl, g 2 1 _ (by decide) rfl,
    g 1 1 _ (by decide) rfl, g 0 1 0 (by decide) rfl, h 1 6 _ (by decide) rfl, h 0 1 _ (by decide) rfl,
    ofNat_toNat_mod, b2n_beq, reduceIte]

theorem popc (d : BitVec 7) (a : BitVec 7) (ua : Bool) :
    Statement (.popc d a ua) := by
  refine fun _ => decodes_of (k := 1) (op := 0x17)
    (l := [(d.toNat, 7, 17), (a.toNat, 7, 10), (b2n ua, 1, 1)])
    (x := []) rfl rfl rfl (by decide) rfl rfl fun w g => ?_
  show (if bf w 0 1 = 0 ∧ bf w 2 8 = 0 then if (0 : Nat) = 0 then .ok (.popc (.ofNat 7 (bf w 17 7)) (.ofNat 7 (bf w 10 7)) (bf w 1 1 == 1)) else .error .lend else .error .field : DecodeResult) = _
  simp only [g 17 7 _ (by decide) rfl, g 10 7 _ (by decide) rfl, g 2 8 0 (by decide) rfl, g 1 1 _ (by decide) rfl,
    g 0 1 0 (by decide) rfl, ofNat_toNat_mod, b2n_beq, reduceIte, and_self]

theorem clz (d : BitVec 7) (a : BitVec 7) (ua : Bool) :
    Statement (.clz d a ua) := by
  refine fun _ => decodes_of (k := 1) (op := 0x18)
    (l := [(d.toNat, 7, 17), (a.toNat, 7, 10), (b2n ua, 1, 1)])
    (x := []) rfl rfl rfl (by decide) rfl rfl fun w g => ?_
  show (if bf w 0 1 = 0 ∧ bf w 2 8 = 0 then if (0 : Nat) = 0 then .ok (.clz (.ofNat 7 (bf w 17 7)) (.ofNat 7 (bf w 10 7)) (bf w 1 1 == 1)) else .error .lend else .error .field : DecodeResult) = _
  simp only [g 17 7 _ (by decide) rfl, g 10 7 _ (by decide) rfl, g 2 8 0 (by decide) rfl, g 1 1 _ (by decide) rfl,
    g 0 1 0 (by decide) rfl, ofNat_toNat_mod, b2n_beq, reduceIte, and_self]

theorem brev (d : BitVec 7) (a : BitVec 7) (ua : Bool) :
    Statement (.brev d a ua) := by
  refine fun _ => decodes_of (k := 1) (op := 0x19)
    (l := [(d.toNat, 7, 17), (a.toNat, 7, 10), (b2n ua, 1, 1)])
    (x := []) rfl rfl rfl (by decide) rfl rfl fun w g => ?_
  show (if bf w 0 1 = 0 ∧ bf w 2 8 = 0 then if (0 : Nat) = 0 then .ok (.brev (.ofNat 7 (bf w 17 7)) (.ofNat 7 (bf w 10 7)) (bf w 1 1 == 1)) else .error .lend else .error .field : DecodeResult) = _
  simp only [g 17 7 _ (by decide) rfl, g 10 7 _ (by decide) rfl, g 2 8 0 (by decide) rfl, g 1 1 _ (by decide) rfl,
    g 0 1 0 (by decide) rfl, ofNat_toNat_mod, b2n_beq, reduceIte, and_self]

theorem icmp (c : BitVec 4) (p : BitVec 3) (a : BitVec 7) (b : BitVec 7) (ua : Bool) (ub : Bool) (x : Bool) :
    Statement (.icmp c p a b ua ub x) := by
  refine fun _ => decodes_of (k := 1) (op := 0x1A)
    (l := [(c.toNat, 4, 20), (p.toNat, 3, 17), (a.toNat, 7, 10), (b.toNat, 7, 3), (b2n ua, 1, 2), (b2n ub, 1, 1), (b2n x, 1, 0)])
    (x := []) rfl rfl rfl (by decide) rfl rfl fun w g => ?_
  show (if (0 : Nat) = 0 then .ok (.icmp (.ofNat 4 (bf w 20 4)) (.ofNat 3 (bf w 17 3)) (.ofNat 7 (bf w 10 7)) (.ofNat 7 (bf w 3 7)) (bf w 2 1 == 1) (bf w 1 1 == 1) (bf w 0 1 == 1)) else .error .lend : DecodeResult) = _
  simp only [g 20 4 _ (by decide) rfl, g 17 3 _ (by decide) rfl, g 10 7 _ (by decide) rfl,
    g 3 7 _ (by decide) rfl, g 2 1 _ (by decide) rfl, g 1 1 _ (by decide) rfl, g 0 1 _ (by decide) rfl,
    ofNat_toNat_mod, b2n_beq, reduceIte]

theorem sel (d : BitVec 7) (a : BitVec 7) (b : BitVec 7) (ua : Bool) (ub : Bool) (p : BitVec 3) :
    Statement (.sel d a b ua ub p) := by
  refine fun _ => decodes_of_lend (k := 1) (op := 0x1B)
    (l := [(d.toNat, 7, 17), (a.toNat, 7, 10), (b.toNat, 7, 3), (b2n ua, 1, 2), (b2n ub, 1, 1)])
    (x := [(p.toNat, 3, 0)]) rfl rfl rfl (by decide) rfl rfl fun w x g h => ?_
  show (if bf w 0 1 = 0 then if bf x 3 4 = 0 then .ok (.sel (.ofNat 7 (bf w 17 7)) (.ofNat 7 (bf w 10 7)) (.ofNat 7 (bf w 3 7)) (bf w 2 1 == 1) (bf w 1 1 == 1) (.ofNat 3 (bf x 0 3))) else .error .lend else .error .field : DecodeResult) = _
  simp only [g 17 7 _ (by decide) rfl, g 10 7 _ (by decide) rfl, g 3 7 _ (by decide) rfl, g 2 1 _ (by decide) rfl,
    g 1 1 _ (by decide) rfl, g 0 1 0 (by decide) rfl, h 3 4 0 (by decide) rfl, h 0 3 _ (by decide) rfl,
    ofNat_toNat_mod, b2n_beq, reduceIte]

theorem mov (d : BitVec 7) (a : BitVec 7) (ua : Bool) :
    Statement (.mov d a ua) := by
  refine fun _ => decodes_of (k := 1) (op := 0x1C)
    (l := [(d.toNat, 7, 17), (a.toNat, 7, 10), (b2n ua, 1, 1)])
    (x := []) rfl rfl rfl (by decide) rfl rfl fun w g => ?_
  show (if bf w 0 1 = 0 ∧ bf w 2 8 = 0 then if (0 : Nat) = 0 then .ok (.mov (.ofNat 7 (bf w 17 7)) (.ofNat 7 (bf w 10 7)) (bf w 1 1 == 1)) else .error .lend else .error .field : DecodeResult) = _
  simp only [g 17 7 _ (by decide) rfl, g 10 7 _ (by decide) rfl, g 2 8 0 (by decide) rfl, g 1 1 _ (by decide) rfl,
    g 0 1 0 (by decide) rfl, ofNat_toNat_mod, b2n_beq, reduceIte, and_self]

theorem li (d : BitVec 7) (k : BitVec 17) :
    Statement (.li d k) := by
  refine fun _ => decodes_of (k := 1) (op := 0x1D)
    (l := [(d.toNat, 7, 17), (k.toNat, 17, 0)])
    (x := []) rfl rfl rfl (by decide) rfl rfl fun w g => ?_
  show (if (0 : Nat) = 0 then .ok (.li (.ofNat 7 (bf w 17 7)) (.ofNat 17 (bf w 0 17))) else .error .lend : DecodeResult) = _
  simp only [g 17 7 _ (by decide) rfl, g 0 17 _ (by decide) rfl, ofNat_toNat_mod, reduceIte]

theorem lih (d : BitVec 7) (k : BitVec 15) :
    Statement (.lih d k) := by
  refine fun _ => decodes_of (k := 1) (op := 0x1E)
    (l := [(d.toNat, 7, 17), (k.toNat, 15, 0)])
    (x := []) rfl rfl rfl (by decide) rfl rfl fun w g => ?_
  show (if bf w 15 2 = 0 then if (0 : Nat) = 0 then .ok (.lih (.ofNat 7 (bf w 17 7)) (.ofNat 15 (bf w 0 15))) else .error .lend else .error .field : DecodeResult) = _
  simp only [g 17 7 _ (by decide) rfl, g 15 2 0 (by decide) rfl, g 0 15 _ (by decide) rfl, ofNat_toNat_mod,
    reduceIte]

theorem iaddi (d : BitVec 7) (a : BitVec 7) (ua : Bool) (imm : BitVec 16) :
    Statement (.iaddi d a ua imm) := by
  refine fun _ => decodes_of (k := 1) (op := 0x1F)
    (l := [(d.toNat, 7, 17), (a.toNat, 7, 10), (imm.toNat, 9, 1), (b2n ua, 1, 0)])
    (x := [(imm.toNat / 512, 7, 0)]) rfl rfl rfl (by decide) rfl rfl fun w g => ?_
  show (.ok (.iaddi (.ofNat 7 (bf w 17 7)) (.ofNat 7 (bf w 10 7)) (bf w 0 1 == 1) (.ofNat 16 (place 0 [(imm.toNat / 512, 7, 0)] % 128 * 512 + bf w 1 9))) : DecodeResult) = _
  simp only [g 17 7 _ (by decide) rfl, g 10 7 _ (by decide) rfl, g 1 9 _ (by decide) rfl, g 0 1 _ (by decide) rfl,
    iaddi_imm, ofNat_toNat_mod, b2n_beq]

theorem tag (d : BitVec 7) (a : BitVec 7) (t : BitVec 4) (ua : Bool) :
    Statement (.tag d a t ua) := by
  refine fun _ => decodes_of (k := 1) (op := 0x20)
    (l := [(d.toNat, 7, 17), (a.toNat, 7, 10), (t.toNat, 4, 2), (b2n ua, 1, 1)])
    (x := []) rfl rfl rfl (by decide) rfl rfl fun w g => ?_
  show (if bf w 0 1 = 0 ∧ bf w 6 4 = 0 then if (0 : Nat) = 0 then .ok (.tag (.ofNat 7 (bf w 17 7)) (.ofNat 7 (bf w 10 7)) (.ofNat 4 (bf w 2 4)) (bf w 1 1 == 1)) else .error .lend else .error .field : DecodeResult) = _
  simp only [g 17 7 _ (by decide) rfl, g 10 7 _ (by decide) rfl, g 6 4 0 (by decide) rfl, g 2 4 _ (by decide) rfl,
    g 1 1 _ (by decide) rfl, g 0 1 0 (by decide) rfl, ofNat_toNat_mod, b2n_beq, reduceIte, and_self]

theorem pset (p : BitVec 3) (a : BitVec 7) (ua : Bool) :
    Statement (.pset p a ua) := by
  refine fun _ => decodes_of (k := 1) (op := 0x21)
    (l := [(p.toNat, 3, 17), (a.toNat, 7, 10), (b2n ua, 1, 1)])
    (x := []) rfl rfl rfl (by decide) rfl rfl fun w g => ?_
  show (if bf w 0 1 = 0 ∧ bf w 2 8 = 0 ∧ bf w 20 4 = 0 then if (0 : Nat) = 0 then .ok (.pset (.ofNat 3 (bf w 17 3)) (.ofNat 7 (bf w 10 7)) (bf w 1 1 == 1)) else .error .lend else .error .field : DecodeResult) = _
  simp only [g 20 4 0 (by decide) rfl, g 17 3 _ (by decide) rfl, g 10 7 _ (by decide) rfl,
    g 2 8 0 (by decide) rfl, g 1 1 _ (by decide) rfl, g 0 1 0 (by decide) rfl, ofNat_toNat_mod, b2n_beq,
    reduceIte, and_self]

theorem pget (d : BitVec 7) :
    Statement (.pget d) := by
  refine fun _ => decodes_of (k := 1) (op := 0x22)
    (l := [(d.toNat, 7, 17)])
    (x := []) rfl rfl rfl (by decide) rfl rfl fun w g => ?_
  show (if bf w 0 17 = 0 then if (0 : Nat) = 0 then .ok (.pget (.ofNat 7 (bf w 17 7))) else .error .lend else .error .field : DecodeResult) = _
  simp only [g 17 7 _ (by decide) rfl, g 0 17 0 (by decide) rfl, ofNat_toNat_mod, reduceIte]

theorem vfree (a : BitVec 7) :
    Statement (.vfree a) := by
  refine fun _ => decodes_of (k := 1) (op := 0x23)
    (l := [(a.toNat, 7, 10)])
    (x := []) rfl rfl rfl (by decide) rfl rfl fun w g => ?_
  show (if bf w 0 10 = 0 ∧ bf w 17 7 = 0 then if (0 : Nat) = 0 then .ok (.vfree (.ofNat 7 (bf w 10 7))) else .error .lend else .error .field : DecodeResult) = _
  simp only [g 17 7 0 (by decide) rfl, g 10 7 _ (by decide) rfl, g 0 10 0 (by decide) rfl, ofNat_toNat_mod,
    reduceIte, and_self]

theorem fadd (d : BitVec 7) (a : BitVec 7) (b : BitVec 7) (ua : Bool) (ub : Bool) :
    Statement (.fadd d a b ua ub) := by
  refine fun _ => decodes_of (k := 1) (op := 0x40)
    (l := [(d.toNat, 7, 17), (a.toNat, 7, 10), (b.toNat, 7, 3), (b2n ua, 1, 2), (b2n ub, 1, 1)])
    (x := []) rfl rfl rfl (by decide) rfl rfl fun w g => ?_
  show (if bf w 0 1 = 0 then if (0 : Nat) = 0 then .ok (.fadd (.ofNat 7 (bf w 17 7)) (.ofNat 7 (bf w 10 7)) (.ofNat 7 (bf w 3 7)) (bf w 2 1 == 1) (bf w 1 1 == 1)) else .error .lend else .error .field : DecodeResult) = _
  simp only [g 17 7 _ (by decide) rfl, g 10 7 _ (by decide) rfl, g 3 7 _ (by decide) rfl, g 2 1 _ (by decide) rfl,
    g 1 1 _ (by decide) rfl, g 0 1 0 (by decide) rfl, ofNat_toNat_mod, b2n_beq, reduceIte]

theorem fsub (d : BitVec 7) (a : BitVec 7) (b : BitVec 7) (ua : Bool) (ub : Bool) :
    Statement (.fsub d a b ua ub) := by
  refine fun _ => decodes_of (k := 1) (op := 0x41)
    (l := [(d.toNat, 7, 17), (a.toNat, 7, 10), (b.toNat, 7, 3), (b2n ua, 1, 2), (b2n ub, 1, 1)])
    (x := []) rfl rfl rfl (by decide) rfl rfl fun w g => ?_
  show (if bf w 0 1 = 0 then if (0 : Nat) = 0 then .ok (.fsub (.ofNat 7 (bf w 17 7)) (.ofNat 7 (bf w 10 7)) (.ofNat 7 (bf w 3 7)) (bf w 2 1 == 1) (bf w 1 1 == 1)) else .error .lend else .error .field : DecodeResult) = _
  simp only [g 17 7 _ (by decide) rfl, g 10 7 _ (by decide) rfl, g 3 7 _ (by decide) rfl, g 2 1 _ (by decide) rfl,
    g 1 1 _ (by decide) rfl, g 0 1 0 (by decide) rfl, ofNat_toNat_mod, b2n_beq, reduceIte]

theorem fmul (d : BitVec 7) (a : BitVec 7) (b : BitVec 7) (ua : Bool) (ub : Bool) :
    Statement (.fmul d a b ua ub) := by
  refine fun _ => decodes_of (k := 1) (op := 0x42)
    (l := [(d.toNat, 7, 17), (a.toNat, 7, 10), (b.toNat, 7, 3), (b2n ua, 1, 2), (b2n ub, 1, 1)])
    (x := []) rfl rfl rfl (by decide) rfl rfl fun w g => ?_
  show (if bf w 0 1 = 0 then if (0 : Nat) = 0 then .ok (.fmul (.ofNat 7 (bf w 17 7)) (.ofNat 7 (bf w 10 7)) (.ofNat 7 (bf w 3 7)) (bf w 2 1 == 1) (bf w 1 1 == 1)) else .error .lend else .error .field : DecodeResult) = _
  simp only [g 17 7 _ (by decide) rfl, g 10 7 _ (by decide) rfl, g 3 7 _ (by decide) rfl, g 2 1 _ (by decide) rfl,
    g 1 1 _ (by decide) rfl, g 0 1 0 (by decide) rfl, ofNat_toNat_mod, b2n_beq, reduceIte]

theorem ffma (d : BitVec 7) (a : BitVec 7) (b : BitVec 7) (ua : Bool) (ub : Bool) (c : BitVec 6) (uc : Bool) :
    Statement (.ffma d a b ua ub c uc) := by
  refine fun _ => decodes_of_lend (k := 1) (op := 0x43)
    (l := [(d.toNat, 7, 17), (a.toNat, 7, 10), (b.toNat, 7, 3), (b2n ua, 1, 2), (b2n ub, 1, 1)])
    (x := [(c.toNat, 6, 1), (b2n uc, 1, 0)]) rfl rfl rfl (by decide) rfl rfl fun w x g h => ?_
  show (if bf w 0 1 = 0 then .ok (.ffma (.ofNat 7 (bf w 17 7)) (.ofNat 7 (bf w 10 7)) (.ofNat 7 (bf w 3 7)) (bf w 2 1 == 1) (bf w 1 1 == 1) (.ofNat 6 (bf x 1 6)) (bf x 0 1 == 1)) else .error .field : DecodeResult) = _
  simp only [g 17 7 _ (by decide) rfl, g 10 7 _ (by decide) rfl, g 3 7 _ (by decide) rfl, g 2 1 _ (by decide) rfl,
    g 1 1 _ (by decide) rfl, g 0 1 0 (by decide) rfl, h 1 6 _ (by decide) rfl, h 0 1 _ (by decide) rfl,
    ofNat_toNat_mod, b2n_beq, reduceIte]

theorem fmin (d : BitVec 7) (a : BitVec 7) (b : BitVec 7) (ua : Bool) (ub : Bool) :
    Statement (.fmin d a b ua ub) := by
  refine fun _ => decodes_of (k := 1) (op := 0x44)
    (l := [(d.toNat, 7, 17), (a.toNat, 7, 10), (b.toNat, 7, 3), (b2n ua, 1, 2), (b2n ub, 1, 1)])
    (x := []) rfl rfl rfl (by decide) rfl rfl fun w g => ?_
  show (if bf w 0 1 = 0 then if (0 : Nat) = 0 then .ok (.fmin (.ofNat 7 (bf w 17 7)) (.ofNat 7 (bf w 10 7)) (.ofNat 7 (bf w 3 7)) (bf w 2 1 == 1) (bf w 1 1 == 1)) else .error .lend else .error .field : DecodeResult) = _
  simp only [g 17 7 _ (by decide) rfl, g 10 7 _ (by decide) rfl, g 3 7 _ (by decide) rfl, g 2 1 _ (by decide) rfl,
    g 1 1 _ (by decide) rfl, g 0 1 0 (by decide) rfl, ofNat_toNat_mod, b2n_beq, reduceIte]

theorem fmax (d : BitVec 7) (a : BitVec 7) (b : BitVec 7) (ua : Bool) (ub : Bool) :
    Statement (.fmax d a b ua ub) := by
  refine fun _ => decodes_of (k := 1) (op := 0x45)
    (l := [(d.toNat, 7, 17), (a.toNat, 7, 10), (b.toNat, 7, 3), (b2n ua, 1, 2), (b2n ub, 1, 1)])
    (x := []) rfl rfl rfl (by decide) rfl rfl fun w g => ?_
  show (if bf w 0 1 = 0 then if (0 : Nat) = 0 then .ok (.fmax (.ofNat 7 (bf w 17 7)) (.ofNat 7 (bf w 10 7)) (.ofNat 7 (bf w 3 7)) (bf w 2 1 == 1) (bf w 1 1 == 1)) else .error .lend else .error .field : DecodeResult) = _
  simp only [g 17 7 _ (by decide) rfl, g 10 7 _ (by decide) rfl, g 3 7 _ (by decide) rfl, g 2 1 _ (by decide) rfl,
    g 1 1 _ (by decide) rfl, g 0 1 0 (by decide) rfl, ofNat_toNat_mod, b2n_beq, reduceIte]

theorem fminn (d : BitVec 7) (a : BitVec 7) (b : BitVec 7) (ua : Bool) (ub : Bool) :
    Statement (.fminn d a b ua ub) := by
  refine fun _ => decodes_of (k := 1) (op := 0x46)
    (l := [(d.toNat, 7, 17), (a.toNat, 7, 10), (b.toNat, 7, 3), (b2n ua, 1, 2), (b2n ub, 1, 1)])
    (x := []) rfl rfl rfl (by decide) rfl rfl fun w g => ?_
  show (if bf w 0 1 = 0 then if (0 : Nat) = 0 then .ok (.fminn (.ofNat 7 (bf w 17 7)) (.ofNat 7 (bf w 10 7)) (.ofNat 7 (bf w 3 7)) (bf w 2 1 == 1) (bf w 1 1 == 1)) else .error .lend else .error .field : DecodeResult) = _
  simp only [g 17 7 _ (by decide) rfl, g 10 7 _ (by decide) rfl, g 3 7 _ (by decide) rfl, g 2 1 _ (by decide) rfl,
    g 1 1 _ (by decide) rfl, g 0 1 0 (by decide) rfl, ofNat_toNat_mod, b2n_beq, reduceIte]

theorem fmaxn (d : BitVec 7) (a : BitVec 7) (b : BitVec 7) (ua : Bool) (ub : Bool) :
    Statement (.fmaxn d a b ua ub) := by
  refine fun _ => decodes_of (k := 1) (op := 0x47)
    (l := [(d.toNat, 7, 17), (a.toNat, 7, 10), (b.toNat, 7, 3), (b2n ua, 1, 2), (b2n ub, 1, 1)])
    (x := []) rfl rfl rfl (by decide) rfl rfl fun w g => ?_
  show (if bf w 0 1 = 0 then if (0 : Nat) = 0 then .ok (.fmaxn (.ofNat 7 (bf w 17 7)) (.ofNat 7 (bf w 10 7)) (.ofNat 7 (bf w 3 7)) (bf w 2 1 == 1) (bf w 1 1 == 1)) else .error .lend else .error .field : DecodeResult) = _
  simp only [g 17 7 _ (by decide) rfl, g 10 7 _ (by decide) rfl, g 3 7 _ (by decide) rfl, g 2 1 _ (by decide) rfl,
    g 1 1 _ (by decide) rfl, g 0 1 0 (by decide) rfl, ofNat_toNat_mod, b2n_beq, reduceIte]

theorem fabs (d : BitVec 7) (a : BitVec 7) (ua : Bool) :
    Statement (.fabs d a ua) := by
  refine fun _ => decodes_of (k := 1) (op := 0x48)
    (l := [(d.toNat, 7, 17), (a.toNat, 7, 10), (b2n ua, 1, 1)])
    (x := []) rfl rfl rfl (by decide) rfl rfl fun w g => ?_
  show (if bf w 0 1 = 0 ∧ bf w 2 8 = 0 then if (0 : Nat) = 0 then .ok (.fabs (.ofNat 7 (bf w 17 7)) (.ofNat 7 (bf w 10 7)) (bf w 1 1 == 1)) else .error .lend else .error .field : DecodeResult) = _
  simp only [g 17 7 _ (by decide) rfl, g 10 7 _ (by decide) rfl, g 2 8 0 (by decide) rfl, g 1 1 _ (by decide) rfl,
    g 0 1 0 (by decide) rfl, ofNat_toNat_mod, b2n_beq, reduceIte, and_self]

theorem fneg (d : BitVec 7) (a : BitVec 7) (ua : Bool) :
    Statement (.fneg d a ua) := by
  refine fun _ => decodes_of (k := 1) (op := 0x49)
    (l := [(d.toNat, 7, 17), (a.toNat, 7, 10), (b2n ua, 1, 1)])
    (x := []) rfl rfl rfl (by decide) rfl rfl fun w g => ?_
  show (if bf w 0 1 = 0 ∧ bf w 2 8 = 0 then if (0 : Nat) = 0 then .ok (.fneg (.ofNat 7 (bf w 17 7)) (.ofNat 7 (bf w 10 7)) (bf w 1 1 == 1)) else .error .lend else .error .field : DecodeResult) = _
  simp only [g 17 7 _ (by decide) rfl, g 10 7 _ (by decide) rfl, g 2 8 0 (by decide) rfl, g 1 1 _ (by decide) rfl,
    g 0 1 0 (by decide) rfl, ofNat_toNat_mod, b2n_beq, reduceIte, and_self]

theorem fcmp (c : BitVec 4) (p : BitVec 3) (a : BitVec 7) (b : BitVec 7) (ua : Bool) (ub : Bool) (x : Bool) :
    Statement (.fcmp c p a b ua ub x) := by
  refine fun _ => decodes_of (k := 1) (op := 0x4A)
    (l := [(c.toNat, 4, 20), (p.toNat, 3, 17), (a.toNat, 7, 10), (b.toNat, 7, 3), (b2n ua, 1, 2), (b2n ub, 1, 1), (b2n x, 1, 0)])
    (x := []) rfl rfl rfl (by decide) rfl rfl fun w g => ?_
  show (if (0 : Nat) = 0 then .ok (.fcmp (.ofNat 4 (bf w 20 4)) (.ofNat 3 (bf w 17 3)) (.ofNat 7 (bf w 10 7)) (.ofNat 7 (bf w 3 7)) (bf w 2 1 == 1) (bf w 1 1 == 1) (bf w 0 1 == 1)) else .error .lend : DecodeResult) = _
  simp only [g 20 4 _ (by decide) rfl, g 17 3 _ (by decide) rfl, g 10 7 _ (by decide) rfl,
    g 3 7 _ (by decide) rfl, g 2 1 _ (by decide) rfl, g 1 1 _ (by decide) rfl, g 0 1 _ (by decide) rfl,
    ofNat_toNat_mod, b2n_beq, reduceIte]

theorem fclmp (d : BitVec 7) (a : BitVec 7) (b : BitVec 7) (ua : Bool) (ub : Bool) (c : BitVec 6) (uc : Bool) :
    Statement (.fclmp d a b ua ub c uc) := by
  refine fun _ => decodes_of_lend (k := 1) (op := 0x4B)
    (l := [(d.toNat, 7, 17), (a.toNat, 7, 10), (b.toNat, 7, 3), (b2n ua, 1, 2), (b2n ub, 1, 1)])
    (x := [(c.toNat, 6, 1), (b2n uc, 1, 0)]) rfl rfl rfl (by decide) rfl rfl fun w x g h => ?_
  show (if bf w 0 1 = 0 then .ok (.fclmp (.ofNat 7 (bf w 17 7)) (.ofNat 7 (bf w 10 7)) (.ofNat 7 (bf w 3 7)) (bf w 2 1 == 1) (bf w 1 1 == 1) (.ofNat 6 (bf x 1 6)) (bf x 0 1 == 1)) else .error .field : DecodeResult) = _
  simp only [g 17 7 _ (by decide) rfl, g 10 7 _ (by decide) rfl, g 3 7 _ (by decide) rfl, g 2 1 _ (by decide) rfl,
    g 1 1 _ (by decide) rfl, g 0 1 0 (by decide) rfl, h 1 6 _ (by decide) rfl, h 0 1 _ (by decide) rfl,
    ofNat_toNat_mod, b2n_beq, reduceIte]

theorem frnd (d : BitVec 7) (a : BitVec 7) (r : BitVec 3) (ua : Bool) :
    Statement (.frnd d a r ua) := by
  refine fun _ => decodes_of (k := 1) (op := 0x4C)
    (l := [(d.toNat, 7, 17), (a.toNat, 7, 10), (r.toNat, 3, 6), (b2n ua, 1, 1)])
    (x := []) rfl rfl rfl (by decide) rfl rfl fun w g => ?_
  show (if bf w 0 1 = 0 ∧ bf w 2 4 = 0 ∧ bf w 9 1 = 0 then if (0 : Nat) = 0 then .ok (.frnd (.ofNat 7 (bf w 17 7)) (.ofNat 7 (bf w 10 7)) (.ofNat 3 (bf w 6 3)) (bf w 1 1 == 1)) else .error .lend else .error .field : DecodeResult) = _
  simp only [g 17 7 _ (by decide) rfl, g 10 7 _ (by decide) rfl, g 9 1 0 (by decide) rfl, g 6 3 _ (by decide) rfl,
    g 2 4 0 (by decide) rfl, g 1 1 _ (by decide) rfl, g 0 1 0 (by decide) rfl, ofNat_toNat_mod, b2n_beq,
    reduceIte, and_self]

theorem ffrac (d : BitVec 7) (a : BitVec 7) (ua : Bool) :
    Statement (.ffrac d a ua) := by
  refine fun _ => decodes_of (k := 1) (op := 0x4D)
    (l := [(d.toNat, 7, 17), (a.toNat, 7, 10), (b2n ua, 1, 1)])
    (x := []) rfl rfl rfl (by decide) rfl rfl fun w g => ?_
  show (if bf w 0 1 = 0 ∧ bf w 2 8 = 0 then if (0 : Nat) = 0 then .ok (.ffrac (.ofNat 7 (bf w 17 7)) (.ofNat 7 (bf w 10 7)) (bf w 1 1 == 1)) else .error .lend else .error .field : DecodeResult) = _
  simp only [g 17 7 _ (by decide) rfl, g 10 7 _ (by decide) rfl, g 2 8 0 (by decide) rfl, g 1 1 _ (by decide) rfl,
    g 0 1 0 (by decide) rfl, ofNat_toNat_mod, b2n_beq, reduceIte, and_self]

theorem frcp (d : BitVec 7) (a : BitVec 7) (ua : Bool) :
    Statement (.frcp d a ua) := by
  refine fun _ => decodes_of (k := 1) (op := 0x4E)
    (l := [(d.toNat, 7, 17), (a.toNat, 7, 10), (b2n ua, 1, 1)])
    (x := []) rfl rfl rfl (by decide) rfl rfl fun w g => ?_
  show (if bf w 0 1 = 0 ∧ bf w 2 8 = 0 then if (0 : Nat) = 0 then .ok (.frcp (.ofNat 7 (bf w 17 7)) (.ofNat 7 (bf w 10 7)) (bf w 1 1 == 1)) else .error .lend else .error .field : DecodeResult) = _
  simp only [g 17 7 _ (by decide) rfl, g 10 7 _ (by decide) rfl, g 2 8 0 (by decide) rfl, g 1 1 _ (by decide) rfl,
    g 0 1 0 (by decide) rfl, ofNat_toNat_mod, b2n_beq, reduceIte, and_self]

theorem frsq (d : BitVec 7) (a : BitVec 7) (ua : Bool) :
    Statement (.frsq d a ua) := by
  refine fun _ => decodes_of (k := 1) (op := 0x4F)
    (l := [(d.toNat, 7, 17), (a.toNat, 7, 10), (b2n ua, 1, 1)])
    (x := []) rfl rfl rfl (by decide) rfl rfl fun w g => ?_
  show (if bf w 0 1 = 0 ∧ bf w 2 8 = 0 then if (0 : Nat) = 0 then .ok (.frsq (.ofNat 7 (bf w 17 7)) (.ofNat 7 (bf w 10 7)) (bf w 1 1 == 1)) else .error .lend else .error .field : DecodeResult) = _
  simp only [g 17 7 _ (by decide) rfl, g 10 7 _ (by decide) rfl, g 2 8 0 (by decide) rfl, g 1 1 _ (by decide) rfl,
    g 0 1 0 (by decide) rfl, ofNat_toNat_mod, b2n_beq, reduceIte, and_self]

theorem fsqrt (d : BitVec 7) (a : BitVec 7) (ua : Bool) :
    Statement (.fsqrt d a ua) := by
  refine fun _ => decodes_of (k := 1) (op := 0x50)
    (l := [(d.toNat, 7, 17), (a.toNat, 7, 10), (b2n ua, 1, 1)])
    (x := []) rfl rfl rfl (by decide) rfl rfl fun w g => ?_
  show (if bf w 0 1 = 0 ∧ bf w 2 8 = 0 then if (0 : Nat) = 0 then .ok (.fsqrt (.ofNat 7 (bf w 17 7)) (.ofNat 7 (bf w 10 7)) (bf w 1 1 == 1)) else .error .lend else .error .field : DecodeResult) = _
  simp only [g 17 7 _ (by decide) rfl, g 10 7 _ (by decide) rfl, g 2 8 0 (by decide) rfl, g 1 1 _ (by decide) rfl,
    g 0 1 0 (by decide) rfl, ofNat_toNat_mod, b2n_beq, reduceIte, and_self]

theorem fex2 (d : BitVec 7) (a : BitVec 7) (ua : Bool) :
    Statement (.fex2 d a ua) := by
  refine fun _ => decodes_of (k := 1) (op := 0x51)
    (l := [(d.toNat, 7, 17), (a.toNat, 7, 10), (b2n ua, 1, 1)])
    (x := []) rfl rfl rfl (by decide) rfl rfl fun w g => ?_
  show (if bf w 0 1 = 0 ∧ bf w 2 8 = 0 then if (0 : Nat) = 0 then .ok (.fex2 (.ofNat 7 (bf w 17 7)) (.ofNat 7 (bf w 10 7)) (bf w 1 1 == 1)) else .error .lend else .error .field : DecodeResult) = _
  simp only [g 17 7 _ (by decide) rfl, g 10 7 _ (by decide) rfl, g 2 8 0 (by decide) rfl, g 1 1 _ (by decide) rfl,
    g 0 1 0 (by decide) rfl, ofNat_toNat_mod, b2n_beq, reduceIte, and_self]

theorem flg2 (d : BitVec 7) (a : BitVec 7) (ua : Bool) :
    Statement (.flg2 d a ua) := by
  refine fun _ => decodes_of (k := 1) (op := 0x52)
    (l := [(d.toNat, 7, 17), (a.toNat, 7, 10), (b2n ua, 1, 1)])
    (x := []) rfl rfl rfl (by decide) rfl rfl fun w g => ?_
  show (if bf w 0 1 = 0 ∧ bf w 2 8 = 0 then if (0 : Nat) = 0 then .ok (.flg2 (.ofNat 7 (bf w 17 7)) (.ofNat 7 (bf w 10 7)) (bf w 1 1 == 1)) else .error .lend else .error .field : DecodeResult) = _
  simp only [g 17 7 _ (by decide) rfl, g 10 7 _ (by decide) rfl, g 2 8 0 (by decide) rfl, g 1 1 _ (by decide) rfl,
    g 0 1 0 (by decide) rfl, ofNat_toNat_mod, b2n_beq, reduceIte, and_self]

theorem fsin (d : BitVec 7) (a : BitVec 7) (ua : Bool) :
    Statement (.fsin d a ua) := by
  refine fun _ => decodes_of (k := 1) (op := 0x53)
    (l := [(d.toNat, 7, 17), (a.toNat, 7, 10), (b2n ua, 1, 1)])
    (x := []) rfl rfl rfl (by decide) rfl rfl fun w g => ?_
  show (if bf w 0 1 = 0 ∧ bf w 2 8 = 0 then if (0 : Nat) = 0 then .ok (.fsin (.ofNat 7 (bf w 17 7)) (.ofNat 7 (bf w 10 7)) (bf w 1 1 == 1)) else .error .lend else .error .field : DecodeResult) = _
  simp only [g 17 7 _ (by decide) rfl, g 10 7 _ (by decide) rfl, g 2 8 0 (by decide) rfl, g 1 1 _ (by decide) rfl,
    g 0 1 0 (by decide) rfl, ofNat_toNat_mod, b2n_beq, reduceIte, and_self]

theorem fcos (d : BitVec 7) (a : BitVec 7) (ua : Bool) :
    Statement (.fcos d a ua) := by
  refine fun _ => decodes_of (k := 1) (op := 0x54)
    (l := [(d.toNat, 7, 17), (a.toNat, 7, 10), (b2n ua, 1, 1)])
    (x := []) rfl rfl rfl (by decide) rfl rfl fun w g => ?_
  show (if bf w 0 1 = 0 ∧ bf w 2 8 = 0 then if (0 : Nat) = 0 then .ok (.fcos (.ofNat 7 (bf w 17 7)) (.ofNat 7 (bf w 10 7)) (bf w 1 1 == 1)) else .error .lend else .error .field : DecodeResult) = _
  simp only [g 17 7 _ (by decide) rfl, g 10 7 _ (by decide) rfl, g 2 8 0 (by decide) rfl, g 1 1 _ (by decide) rfl,
    g 0 1 0 (by decide) rfl, ofNat_toNat_mod, b2n_beq, reduceIte, and_self]

theorem fcvt (d : BitVec 7) (a : BitVec 7) (n : Bool) (r : BitVec 3) (t : BitVec 4) (ua : Bool) :
    Statement (.fcvt d a n r t ua) := by
  refine fun _ => decodes_of (k := 1) (op := 0x55)
    (l := [(d.toNat, 7, 17), (a.toNat, 7, 10), (b2n n, 1, 9), (r.toNat, 3, 6), (t.toNat, 4, 2), (b2n ua, 1, 1)])
    (x := []) rfl rfl rfl (by decide) rfl rfl fun w g => ?_
  show (if bf w 0 1 = 0 then if (0 : Nat) = 0 then .ok (.fcvt (.ofNat 7 (bf w 17 7)) (.ofNat 7 (bf w 10 7)) (bf w 9 1 == 1) (.ofNat 3 (bf w 6 3)) (.ofNat 4 (bf w 2 4)) (bf w 1 1 == 1)) else .error .lend else .error .field : DecodeResult) = _
  simp only [g 17 7 _ (by decide) rfl, g 10 7 _ (by decide) rfl, g 9 1 _ (by decide) rfl, g 6 3 _ (by decide) rfl,
    g 2 4 _ (by decide) rfl, g 1 1 _ (by decide) rfl, g 0 1 0 (by decide) rfl, ofNat_toNat_mod, b2n_beq, reduceIte]

theorem icvtf (d : BitVec 7) (a : BitVec 7) (r : BitVec 3) (t : BitVec 4) (ua : Bool) :
    Statement (.icvtf d a r t ua) := by
  refine fun _ => decodes_of (k := 1) (op := 0x56)
    (l := [(d.toNat, 7, 17), (a.toNat, 7, 10), (r.toNat, 3, 6), (t.toNat, 4, 2), (b2n ua, 1, 1)])
    (x := []) rfl rfl rfl (by decide) rfl rfl fun w g => ?_
  show (if bf w 0 1 = 0 ∧ bf w 9 1 = 0 then if (0 : Nat) = 0 then .ok (.icvtf (.ofNat 7 (bf w 17 7)) (.ofNat 7 (bf w 10 7)) (.ofNat 3 (bf w 6 3)) (.ofNat 4 (bf w 2 4)) (bf w 1 1 == 1)) else .error .lend else .error .field : DecodeResult) = _
  simp only [g 17 7 _ (by decide) rfl, g 10 7 _ (by decide) rfl, g 9 1 0 (by decide) rfl, g 6 3 _ (by decide) rfl,
    g 2 4 _ (by decide) rfl, g 1 1 _ (by decide) rfl, g 0 1 0 (by decide) rfl, ofNat_toNat_mod, b2n_beq,
    reduceIte, and_self]

theorem fcvti (d : BitVec 7) (a : BitVec 7) (r : BitVec 3) (t : BitVec 4) (ua : Bool) :
    Statement (.fcvti d a r t ua) := by
  refine fun _ => decodes_of (k := 1) (op := 0x57)
    (l := [(d.toNat, 7, 17), (a.toNat, 7, 10), (r.toNat, 3, 6), (t.toNat, 4, 2), (b2n ua, 1, 1)])
    (x := []) rfl rfl rfl (by decide) rfl rfl fun w g => ?_
  show (if bf w 0 1 = 0 ∧ bf w 9 1 = 0 then if (0 : Nat) = 0 then .ok (.fcvti (.ofNat 7 (bf w 17 7)) (.ofNat 7 (bf w 10 7)) (.ofNat 3 (bf w 6 3)) (.ofNat 4 (bf w 2 4)) (bf w 1 1 == 1)) else .error .lend else .error .field : DecodeResult) = _
  simp only [g 17 7 _ (by decide) rfl, g 10 7 _ (by decide) rfl, g 9 1 0 (by decide) rfl, g 6 3 _ (by decide) rfl,
    g 2 4 _ (by decide) rfl, g 1 1 _ (by decide) rfl, g 0 1 0 (by decide) rfl, ofNat_toNat_mod, b2n_beq,
    reduceIte, and_self]

theorem hadd2 (d : BitVec 7) (a : BitVec 7) (b : BitVec 7) (ua : Bool) (ub : Bool) :
    Statement (.hadd2 d a b ua ub) := by
  refine fun _ => decodes_of (k := 1) (op := 0x58)
    (l := [(d.toNat, 7, 17), (a.toNat, 7, 10), (b.toNat, 7, 3), (b2n ua, 1, 2), (b2n ub, 1, 1)])
    (x := []) rfl rfl rfl (by decide) rfl rfl fun w g => ?_
  show (if bf w 0 1 = 0 then if (0 : Nat) = 0 then .ok (.hadd2 (.ofNat 7 (bf w 17 7)) (.ofNat 7 (bf w 10 7)) (.ofNat 7 (bf w 3 7)) (bf w 2 1 == 1) (bf w 1 1 == 1)) else .error .lend else .error .field : DecodeResult) = _
  simp only [g 17 7 _ (by decide) rfl, g 10 7 _ (by decide) rfl, g 3 7 _ (by decide) rfl, g 2 1 _ (by decide) rfl,
    g 1 1 _ (by decide) rfl, g 0 1 0 (by decide) rfl, ofNat_toNat_mod, b2n_beq, reduceIte]

theorem hmul2 (d : BitVec 7) (a : BitVec 7) (b : BitVec 7) (ua : Bool) (ub : Bool) :
    Statement (.hmul2 d a b ua ub) := by
  refine fun _ => decodes_of (k := 1) (op := 0x59)
    (l := [(d.toNat, 7, 17), (a.toNat, 7, 10), (b.toNat, 7, 3), (b2n ua, 1, 2), (b2n ub, 1, 1)])
    (x := []) rfl rfl rfl (by decide) rfl rfl fun w g => ?_
  show (if bf w 0 1 = 0 then if (0 : Nat) = 0 then .ok (.hmul2 (.ofNat 7 (bf w 17 7)) (.ofNat 7 (bf w 10 7)) (.ofNat 7 (bf w 3 7)) (bf w 2 1 == 1) (bf w 1 1 == 1)) else .error .lend else .error .field : DecodeResult) = _
  simp only [g 17 7 _ (by decide) rfl, g 10 7 _ (by decide) rfl, g 3 7 _ (by decide) rfl, g 2 1 _ (by decide) rfl,
    g 1 1 _ (by decide) rfl, g 0 1 0 (by decide) rfl, ofNat_toNat_mod, b2n_beq, reduceIte]

theorem hfma2 (d : BitVec 7) (a : BitVec 7) (b : BitVec 7) (ua : Bool) (ub : Bool) (c : BitVec 6) (uc : Bool) :
    Statement (.hfma2 d a b ua ub c uc) := by
  refine fun _ => decodes_of_lend (k := 1) (op := 0x5A)
    (l := [(d.toNat, 7, 17), (a.toNat, 7, 10), (b.toNat, 7, 3), (b2n ua, 1, 2), (b2n ub, 1, 1)])
    (x := [(c.toNat, 6, 1), (b2n uc, 1, 0)]) rfl rfl rfl (by decide) rfl rfl fun w x g h => ?_
  show (if bf w 0 1 = 0 then .ok (.hfma2 (.ofNat 7 (bf w 17 7)) (.ofNat 7 (bf w 10 7)) (.ofNat 7 (bf w 3 7)) (bf w 2 1 == 1) (bf w 1 1 == 1) (.ofNat 6 (bf x 1 6)) (bf x 0 1 == 1)) else .error .field : DecodeResult) = _
  simp only [g 17 7 _ (by decide) rfl, g 10 7 _ (by decide) rfl, g 3 7 _ (by decide) rfl, g 2 1 _ (by decide) rfl,
    g 1 1 _ (by decide) rfl, g 0 1 0 (by decide) rfl, h 1 6 _ (by decide) rfl, h 0 1 _ (by decide) rfl,
    ofNat_toNat_mod, b2n_beq, reduceIte]

theorem fdot4 (d : BitVec 7) (a : BitVec 7) (b : BitVec 7) (ua : Bool) (ub : Bool) (c : BitVec 6) (uc : Bool) :
    Statement (.fdot4 d a b ua ub c uc) := by
  refine fun _ => decodes_of_lend (k := 1) (op := 0x5B)
    (l := [(d.toNat, 7, 17), (a.toNat, 7, 10), (b.toNat, 7, 3), (b2n ua, 1, 2), (b2n ub, 1, 1)])
    (x := [(c.toNat, 6, 1), (b2n uc, 1, 0)]) rfl rfl rfl (by decide) rfl rfl fun w x g h => ?_
  show (if bf w 0 1 = 0 then .ok (.fdot4 (.ofNat 7 (bf w 17 7)) (.ofNat 7 (bf w 10 7)) (.ofNat 7 (bf w 3 7)) (bf w 2 1 == 1) (bf w 1 1 == 1) (.ofNat 6 (bf x 1 6)) (bf x 0 1 == 1)) else .error .field : DecodeResult) = _
  simp only [g 17 7 _ (by decide) rfl, g 10 7 _ (by decide) rfl, g 3 7 _ (by decide) rfl, g 2 1 _ (by decide) rfl,
    g 1 1 _ (by decide) rfl, g 0 1 0 (by decide) rfl, h 1 6 _ (by decide) rfl, h 0 1 _ (by decide) rfl,
    ofNat_toNat_mod, b2n_beq, reduceIte]

theorem fdot8 (d : BitVec 7) (a : BitVec 7) (b : BitVec 7) (ua : Bool) (ub : Bool) (c : BitVec 6) (uc : Bool) :
    Statement (.fdot8 d a b ua ub c uc) := by
  refine fun _ => decodes_of_lend (k := 1) (op := 0x5C)
    (l := [(d.toNat, 7, 17), (a.toNat, 7, 10), (b.toNat, 7, 3), (b2n ua, 1, 2), (b2n ub, 1, 1)])
    (x := [(c.toNat, 6, 1), (b2n uc, 1, 0)]) rfl rfl rfl (by decide) rfl rfl fun w x g h => ?_
  show (if bf w 0 1 = 0 then .ok (.fdot8 (.ofNat 7 (bf w 17 7)) (.ofNat 7 (bf w 10 7)) (.ofNat 7 (bf w 3 7)) (bf w 2 1 == 1) (bf w 1 1 == 1) (.ofNat 6 (bf x 1 6)) (bf x 0 1 == 1)) else .error .field : DecodeResult) = _
  simp only [g 17 7 _ (by decide) rfl, g 10 7 _ (by decide) rfl, g 3 7 _ (by decide) rfl, g 2 1 _ (by decide) rfl,
    g 1 1 _ (by decide) rfl, g 0 1 0 (by decide) rfl, h 1 6 _ (by decide) rfl, h 0 1 _ (by decide) rfl,
    ofNat_toNat_mod, b2n_beq, reduceIte]

theorem pack (d : BitVec 7) (a : BitVec 7) (b : BitVec 7) (ua : Bool) (ub : Bool) (x : Bool) :
    Statement (.pack d a b ua ub x) := by
  refine fun _ => decodes_of (k := 1) (op := 0x5D)
    (l := [(d.toNat, 7, 17), (a.toNat, 7, 10), (b.toNat, 7, 3), (b2n ua, 1, 2), (b2n ub, 1, 1), (b2n x, 1, 0)])
    (x := []) rfl rfl rfl (by decide) rfl rfl fun w g => ?_
  show (if (0 : Nat) = 0 then .ok (.pack (.ofNat 7 (bf w 17 7)) (.ofNat 7 (bf w 10 7)) (.ofNat 7 (bf w 3 7)) (bf w 2 1 == 1) (bf w 1 1 == 1) (bf w 0 1 == 1)) else .error .lend : DecodeResult) = _
  simp only [g 17 7 _ (by decide) rfl, g 10 7 _ (by decide) rfl, g 3 7 _ (by decide) rfl, g 2 1 _ (by decide) rfl,
    g 1 1 _ (by decide) rfl, g 0 1 _ (by decide) rfl, ofNat_toNat_mod, b2n_beq, reduceIte]

theorem unpk (d : BitVec 7) (a : BitVec 7) (k : BitVec 3) (ua : Bool) :
    Statement (.unpk d a k ua) := by
  refine fun _ => decodes_of (k := 1) (op := 0x5E)
    (l := [(d.toNat, 7, 17), (a.toNat, 7, 10), (k.toNat, 3, 2), (b2n ua, 1, 1)])
    (x := []) rfl rfl rfl (by decide) rfl rfl fun w g => ?_
  show (if bf w 0 1 = 0 ∧ bf w 5 5 = 0 then if (0 : Nat) = 0 then .ok (.unpk (.ofNat 7 (bf w 17 7)) (.ofNat 7 (bf w 10 7)) (.ofNat 3 (bf w 2 3)) (bf w 1 1 == 1)) else .error .lend else .error .field : DecodeResult) = _
  simp only [g 17 7 _ (by decide) rfl, g 10 7 _ (by decide) rfl, g 5 5 0 (by decide) rfl, g 2 3 _ (by decide) rfl,
    g 1 1 _ (by decide) rfl, g 0 1 0 (by decide) rfl, ofNat_toNat_mod, b2n_beq, reduceIte, and_self]

theorem xshf (d : BitVec 7) (a : BitVec 7) (b : BitVec 7) (ua : Bool) (ub : Bool) (m : Bool) :
    Statement (.xshf d a b ua ub m) := by
  refine fun _ => decodes_of (k := 1) (op := 0x80)
    (l := [(d.toNat, 7, 17), (a.toNat, 7, 10), (b.toNat, 7, 3), (b2n ua, 1, 2), (b2n ub, 1, 1), (b2n m, 1, 0)])
    (x := []) rfl rfl rfl (by decide) rfl rfl fun w g => ?_
  show (if (0 : Nat) = 0 then .ok (.xshf (.ofNat 7 (bf w 17 7)) (.ofNat 7 (bf w 10 7)) (.ofNat 7 (bf w 3 7)) (bf w 2 1 == 1) (bf w 1 1 == 1) (bf w 0 1 == 1)) else .error .lend : DecodeResult) = _
  simp only [g 17 7 _ (by decide) rfl, g 10 7 _ (by decide) rfl, g 3 7 _ (by decide) rfl, g 2 1 _ (by decide) rfl,
    g 1 1 _ (by decide) rfl, g 0 1 _ (by decide) rfl, ofNat_toNat_mod, b2n_beq, reduceIte]

theorem xrot (d : BitVec 7) (a : BitVec 7) (b : BitVec 7) (ua : Bool) (ub : Bool) (m : Bool) :
    Statement (.xrot d a b ua ub m) := by
  refine fun _ => decodes_of (k := 1) (op := 0x81)
    (l := [(d.toNat, 7, 17), (a.toNat, 7, 10), (b.toNat, 7, 3), (b2n ua, 1, 2), (b2n ub, 1, 1), (b2n m, 1, 0)])
    (x := []) rfl rfl rfl (by decide) rfl rfl fun w g => ?_
  show (if (0 : Nat) = 0 then .ok (.xrot (.ofNat 7 (bf w 17 7)) (.ofNat 7 (bf w 10 7)) (.ofNat 7 (bf w 3 7)) (bf w 2 1 == 1) (bf w 1 1 == 1) (bf w 0 1 == 1)) else .error .lend : DecodeResult) = _
  simp only [g 17 7 _ (by decide) rfl, g 10 7 _ (by decide) rfl, g 3 7 _ (by decide) rfl, g 2 1 _ (by decide) rfl,
    g 1 1 _ (by decide) rfl, g 0 1 _ (by decide) rfl, ofNat_toNat_mod, b2n_beq, reduceIte]

theorem xbc (d : BitVec 7) (a : BitVec 7) (b : BitVec 7) (ua : Bool) (ub : Bool) (m : Bool) :
    Statement (.xbc d a b ua ub m) := by
  refine fun _ => decodes_of (k := 1) (op := 0x82)
    (l := [(d.toNat, 7, 17), (a.toNat, 7, 10), (b.toNat, 7, 3), (b2n ua, 1, 2), (b2n ub, 1, 1), (b2n m, 1, 0)])
    (x := []) rfl rfl rfl (by decide) rfl rfl fun w g => ?_
  show (if (0 : Nat) = 0 then .ok (.xbc (.ofNat 7 (bf w 17 7)) (.ofNat 7 (bf w 10 7)) (.ofNat 7 (bf w 3 7)) (bf w 2 1 == 1) (bf w 1 1 == 1) (bf w 0 1 == 1)) else .error .lend : DecodeResult) = _
  simp only [g 17 7 _ (by decide) rfl, g 10 7 _ (by decide) rfl, g 3 7 _ (by decide) rfl, g 2 1 _ (by decide) rfl,
    g 1 1 _ (by decide) rfl, g 0 1 _ (by decide) rfl, ofNat_toNat_mod, b2n_beq, reduceIte]

theorem xstep (d : BitVec 7) (a : BitVec 7) (b : BitVec 7) (ua : Bool) (ub : Bool) (m : Bool) :
    Statement (.xstep d a b ua ub m) := by
  refine fun _ => decodes_of (k := 1) (op := 0x83)
    (l := [(d.toNat, 7, 17), (a.toNat, 7, 10), (b.toNat, 7, 3), (b2n ua, 1, 2), (b2n ub, 1, 1), (b2n m, 1, 0)])
    (x := []) rfl rfl rfl (by decide) rfl rfl fun w g => ?_
  show (if (0 : Nat) = 0 then .ok (.xstep (.ofNat 7 (bf w 17 7)) (.ofNat 7 (bf w 10 7)) (.ofNat 7 (bf w 3 7)) (bf w 2 1 == 1) (bf w 1 1 == 1) (bf w 0 1 == 1)) else .error .lend : DecodeResult) = _
  simp only [g 17 7 _ (by decide) rfl, g 10 7 _ (by decide) rfl, g 3 7 _ (by decide) rfl, g 2 1 _ (by decide) rfl,
    g 1 1 _ (by decide) rfl, g 0 1 _ (by decide) rfl, ofNat_toNat_mod, b2n_beq, reduceIte]

theorem xred (d : BitVec 7) (a : BitVec 7) (o : BitVec 4) (ua : Bool) (m : Bool) :
    Statement (.xred d a o ua m) := by
  refine fun _ => decodes_of (k := 1) (op := 0x84)
    (l := [(d.toNat, 7, 17), (a.toNat, 7, 10), (o.toNat, 4, 3), (b2n ua, 1, 2), (b2n m, 1, 0)])
    (x := []) rfl rfl rfl (by decide) rfl rfl fun w g => ?_
  show (if bf w 1 1 = 0 ∧ bf w 7 3 = 0 then if (0 : Nat) = 0 then .ok (.xred (.ofNat 7 (bf w 17 7)) (.ofNat 7 (bf w 10 7)) (.ofNat 4 (bf w 3 4)) (bf w 2 1 == 1) (bf w 0 1 == 1)) else .error .lend else .error .field : DecodeResult) = _
  simp only [g 17 7 _ (by decide) rfl, g 10 7 _ (by decide) rfl, g 7 3 0 (by decide) rfl, g 3 4 _ (by decide) rfl,
    g 2 1 _ (by decide) rfl, g 1 1 0 (by decide) rfl, g 0 1 _ (by decide) rfl, ofNat_toNat_mod, b2n_beq,
    reduceIte, and_self]

theorem xscn (d : BitVec 7) (a : BitVec 7) (e : Bool) (o : BitVec 4) (ua : Bool) (m : Bool) :
    Statement (.xscn d a e o ua m) := by
  refine fun _ => decodes_of (k := 1) (op := 0x85)
    (l := [(d.toNat, 7, 17), (a.toNat, 7, 10), (b2n e, 1, 7), (o.toNat, 4, 3), (b2n ua, 1, 2), (b2n m, 1, 0)])
    (x := []) rfl rfl rfl (by decide) rfl rfl fun w g => ?_
  show (if bf w 1 1 = 0 ∧ bf w 8 2 = 0 then if (0 : Nat) = 0 then .ok (.xscn (.ofNat 7 (bf w 17 7)) (.ofNat 7 (bf w 10 7)) (bf w 7 1 == 1) (.ofNat 4 (bf w 3 4)) (bf w 2 1 == 1) (bf w 0 1 == 1)) else .error .lend else .error .field : DecodeResult) = _
  simp only [g 17 7 _ (by decide) rfl, g 10 7 _ (by decide) rfl, g 8 2 0 (by decide) rfl, g 7 1 _ (by decide) rfl,
    g 3 4 _ (by decide) rfl, g 2 1 _ (by decide) rfl, g 1 1 0 (by decide) rfl, g 0 1 _ (by decide) rfl,
    ofNat_toNat_mod, b2n_beq, reduceIte, and_self]

theorem xbal (d : BitVec 7) (a : BitVec 7) (h : Bool) (ua : Bool) (m : Bool) :
    Statement (.xbal d a h ua m) := by
  refine fun _ => decodes_of (k := 1) (op := 0x86)
    (l := [(d.toNat, 7, 17), (a.toNat, 7, 10), (b2n h, 1, 3), (b2n ua, 1, 2), (b2n m, 1, 0)])
    (x := []) rfl rfl rfl (by decide) rfl rfl fun w g => ?_
  show (if bf w 1 1 = 0 ∧ bf w 4 6 = 0 then if (0 : Nat) = 0 then .ok (.xbal (.ofNat 7 (bf w 17 7)) (.ofNat 7 (bf w 10 7)) (bf w 3 1 == 1) (bf w 2 1 == 1) (bf w 0 1 == 1)) else .error .lend else .error .field : DecodeResult) = _
  simp only [g 17 7 _ (by decide) rfl, g 10 7 _ (by decide) rfl, g 4 6 0 (by decide) rfl, g 3 1 _ (by decide) rfl,
    g 2 1 _ (by decide) rfl, g 1 1 0 (by decide) rfl, g 0 1 _ (by decide) rfl, ofNat_toNat_mod, b2n_beq,
    reduceIte, and_self]

theorem xcnt (d : BitVec 7) (a : BitVec 7) (ua : Bool) (m : Bool) :
    Statement (.xcnt d a ua m) := by
  refine fun _ => decodes_of (k := 1) (op := 0x87)
    (l := [(d.toNat, 7, 17), (a.toNat, 7, 10), (b2n ua, 1, 2), (b2n m, 1, 0)])
    (x := []) rfl rfl rfl (by decide) rfl rfl fun w g => ?_
  show (if bf w 1 1 = 0 ∧ bf w 3 7 = 0 then if (0 : Nat) = 0 then .ok (.xcnt (.ofNat 7 (bf w 17 7)) (.ofNat 7 (bf w 10 7)) (bf w 2 1 == 1) (bf w 0 1 == 1)) else .error .lend else .error .field : DecodeResult) = _
  simp only [g 17 7 _ (by decide) rfl, g 10 7 _ (by decide) rfl, g 3 7 0 (by decide) rfl, g 2 1 _ (by decide) rfl,
    g 1 1 0 (by decide) rfl, g 0 1 _ (by decide) rfl, ofNat_toNat_mod, b2n_beq, reduceIte, and_self]

theorem xfst (d : BitVec 7) (a : BitVec 7) (ua : Bool) (m : Bool) :
    Statement (.xfst d a ua m) := by
  refine fun _ => decodes_of (k := 1) (op := 0x88)
    (l := [(d.toNat, 7, 17), (a.toNat, 7, 10), (b2n ua, 1, 2), (b2n m, 1, 0)])
    (x := []) rfl rfl rfl (by decide) rfl rfl fun w g => ?_
  show (if bf w 1 1 = 0 ∧ bf w 3 7 = 0 then if (0 : Nat) = 0 then .ok (.xfst (.ofNat 7 (bf w 17 7)) (.ofNat 7 (bf w 10 7)) (bf w 2 1 == 1) (bf w 0 1 == 1)) else .error .lend else .error .field : DecodeResult) = _
  simp only [g 17 7 _ (by decide) rfl, g 10 7 _ (by decide) rfl, g 3 7 0 (by decide) rfl, g 2 1 _ (by decide) rfl,
    g 1 1 0 (by decide) rfl, g 0 1 _ (by decide) rfl, ofNat_toNat_mod, b2n_beq, reduceIte, and_self]

theorem rsvup (d : BitVec 7) (a : BitVec 7) (b : BitVec 7) (ua : Bool) (ub : Bool) (c : BitVec 6) (uc : Bool) :
    Statement (.rsvup d a b ua ub c uc) := by
  refine fun _ => decodes_of_lend (k := 1) (op := 0xA0)
    (l := [(d.toNat, 7, 17), (a.toNat, 7, 10), (b.toNat, 7, 3), (b2n ua, 1, 2), (b2n ub, 1, 1)])
    (x := [(c.toNat, 6, 1), (b2n uc, 1, 0)]) rfl rfl rfl (by decide) rfl rfl fun w x g h => ?_
  show (if bf w 0 1 = 0 then .ok (.rsvup (.ofNat 7 (bf w 17 7)) (.ofNat 7 (bf w 10 7)) (.ofNat 7 (bf w 3 7)) (bf w 2 1 == 1) (bf w 1 1 == 1) (.ofNat 6 (bf x 1 6)) (bf x 0 1 == 1)) else .error .field : DecodeResult) = _
  simp only [g 17 7 _ (by decide) rfl, g 10 7 _ (by decide) rfl, g 3 7 _ (by decide) rfl, g 2 1 _ (by decide) rfl,
    g 1 1 _ (by decide) rfl, g 0 1 0 (by decide) rfl, h 1 6 _ (by decide) rfl, h 0 1 _ (by decide) rfl,
    ofNat_toNat_mod, b2n_beq, reduceIte]

theorem rsvmrg (d : BitVec 7) (a : BitVec 7) (b : BitVec 7) (ua : Bool) (ub : Bool) :
    Statement (.rsvmrg d a b ua ub) := by
  refine fun _ => decodes_of (k := 1) (op := 0xA1)
    (l := [(d.toNat, 7, 17), (a.toNat, 7, 10), (b.toNat, 7, 3), (b2n ua, 1, 2), (b2n ub, 1, 1)])
    (x := []) rfl rfl rfl (by decide) rfl rfl fun w g => ?_
  show (if bf w 0 1 = 0 then if (0 : Nat) = 0 then .ok (.rsvmrg (.ofNat 7 (bf w 17 7)) (.ofNat 7 (bf w 10 7)) (.ofNat 7 (bf w 3 7)) (bf w 2 1 == 1) (bf w 1 1 == 1)) else .error .lend else .error .field : DecodeResult) = _
  simp only [g 17 7 _ (by decide) rfl, g 10 7 _ (by decide) rfl, g 3 7 _ (by decide) rfl, g 2 1 _ (by decide) rfl,
    g 1 1 _ (by decide) rfl, g 0 1 0 (by decide) rfl, ofNat_toNat_mod, b2n_beq, reduceIte]

theorem rsvfin (d : BitVec 7) (a : BitVec 7) (b : BitVec 7) (ua : Bool) (ub : Bool) :
    Statement (.rsvfin d a b ua ub) := by
  refine fun _ => decodes_of (k := 1) (op := 0xA2)
    (l := [(d.toNat, 7, 17), (a.toNat, 7, 10), (b.toNat, 7, 3), (b2n ua, 1, 2), (b2n ub, 1, 1)])
    (x := []) rfl rfl rfl (by decide) rfl rfl fun w g => ?_
  show (if bf w 0 1 = 0 then if (0 : Nat) = 0 then .ok (.rsvfin (.ofNat 7 (bf w 17 7)) (.ofNat 7 (bf w 10 7)) (.ofNat 7 (bf w 3 7)) (bf w 2 1 == 1) (bf w 1 1 == 1)) else .error .lend else .error .field : DecodeResult) = _
  simp only [g 17 7 _ (by decide) rfl, g 10 7 _ (by decide) rfl, g 3 7 _ (by decide) rfl, g 2 1 _ (by decide) rfl,
    g 1 1 _ (by decide) rfl, g 0 1 0 (by decide) rfl, ofNat_toNat_mod, b2n_beq, reduceIte]

theorem aadd (d : BitVec 7) (a : BitVec 7) (b : BitVec 7) (ua : Bool) (ub : Bool) :
    Statement (.aadd d a b ua ub) := by
  refine fun _ => decodes_of (k := 2) (op := 0x01)
    (l := [(d.toNat, 7, 17), (a.toNat, 7, 10), (b.toNat, 7, 3), (b2n ua, 1, 2), (b2n ub, 1, 1)])
    (x := []) rfl rfl rfl (by decide) rfl rfl fun w g => ?_
  show (if bf w 0 1 = 0 then if (0 : Nat) = 0 then .ok (.aadd (.ofNat 7 (bf w 17 7)) (.ofNat 7 (bf w 10 7)) (.ofNat 7 (bf w 3 7)) (bf w 2 1 == 1) (bf w 1 1 == 1)) else .error .lend else .error .field : DecodeResult) = _
  simp only [g 17 7 _ (by decide) rfl, g 10 7 _ (by decide) rfl, g 3 7 _ (by decide) rfl, g 2 1 _ (by decide) rfl,
    g 1 1 _ (by decide) rfl, g 0 1 0 (by decide) rfl, ofNat_toNat_mod, b2n_beq, reduceIte]

theorem ashl (d : BitVec 7) (a : BitVec 7) (b : BitVec 7) (ua : Bool) (ub : Bool) :
    Statement (.ashl d a b ua ub) := by
  refine fun _ => decodes_of (k := 2) (op := 0x02)
    (l := [(d.toNat, 7, 17), (a.toNat, 7, 10), (b.toNat, 7, 3), (b2n ua, 1, 2), (b2n ub, 1, 1)])
    (x := []) rfl rfl rfl (by decide) rfl rfl fun w g => ?_
  show (if bf w 0 1 = 1 then (if bf w 1 1 = 0 ∧ bf w 8 2 = 0 then if (0 : Nat) = 0 then .ok (.ashlImm (.ofNat 7 (bf w 17 7)) (.ofNat 7 (bf w 10 7)) (.ofNat 5 (bf w 3 5)) (bf w 2 1 == 1)) else .error .lend else .error .field) else if (0 : Nat) = 0 then .ok (.ashl (.ofNat 7 (bf w 17 7)) (.ofNat 7 (bf w 10 7)) (.ofNat 7 (bf w 3 7)) (bf w 2 1 == 1) (bf w 1 1 == 1)) else .error .lend : DecodeResult) = _
  simp only [g 17 7 _ (by decide) rfl, g 10 7 _ (by decide) rfl, g 3 7 _ (by decide) rfl, g 2 1 _ (by decide) rfl,
    g 1 1 _ (by decide) rfl, g 0 1 0 (by decide) rfl, ofNat_toNat_mod, b2n_beq, reduceIte, Nat.reduceEqDiff]

theorem ashlImm (d : BitVec 7) (a : BitVec 7) (n : BitVec 5) (ua : Bool) :
    Statement (.ashlImm d a n ua) := by
  refine fun _ => decodes_of (k := 2) (op := 0x02)
    (l := [(d.toNat, 7, 17), (a.toNat, 7, 10), (n.toNat, 5, 3), (b2n ua, 1, 2), (1, 1, 0)])
    (x := []) rfl rfl rfl (by decide) rfl rfl fun w g => ?_
  show (if bf w 0 1 = 1 then (if bf w 1 1 = 0 ∧ bf w 8 2 = 0 then if (0 : Nat) = 0 then .ok (.ashlImm (.ofNat 7 (bf w 17 7)) (.ofNat 7 (bf w 10 7)) (.ofNat 5 (bf w 3 5)) (bf w 2 1 == 1)) else .error .lend else .error .field) else if (0 : Nat) = 0 then .ok (.ashl (.ofNat 7 (bf w 17 7)) (.ofNat 7 (bf w 10 7)) (.ofNat 7 (bf w 3 7)) (bf w 2 1 == 1) (bf w 1 1 == 1)) else .error .lend : DecodeResult) = _
  simp only [g 17 7 _ (by decide) rfl, g 10 7 _ (by decide) rfl, g 8 2 0 (by decide) rfl, g 3 5 _ (by decide) rfl,
    g 2 1 _ (by decide) rfl, g 1 1 0 (by decide) rfl, g 0 1 1 (by decide) rfl, ofNat_toNat_mod, b2n_beq,
    reduceIte, and_self]

theorem aand (d : BitVec 7) (a : BitVec 7) (b : BitVec 7) (ua : Bool) (ub : Bool) :
    Statement (.aand d a b ua ub) := by
  refine fun _ => decodes_of (k := 2) (op := 0x03)
    (l := [(d.toNat, 7, 17), (a.toNat, 7, 10), (b.toNat, 7, 3), (b2n ua, 1, 2), (b2n ub, 1, 1)])
    (x := []) rfl rfl rfl (by decide) rfl rfl fun w g => ?_
  show (if bf w 0 1 = 0 then if (0 : Nat) = 0 then .ok (.aand (.ofNat 7 (bf w 17 7)) (.ofNat 7 (bf w 10 7)) (.ofNat 7 (bf w 3 7)) (bf w 2 1 == 1) (bf w 1 1 == 1)) else .error .lend else .error .field : DecodeResult) = _
  simp only [g 17 7 _ (by decide) rfl, g 10 7 _ (by decide) rfl, g 3 7 _ (by decide) rfl, g 2 1 _ (by decide) rfl,
    g 1 1 _ (by decide) rfl, g 0 1 0 (by decide) rfl, ofNat_toNat_mod, b2n_beq, reduceIte]

theorem amov (d : BitVec 7) (a : BitVec 7) (ua : Bool) :
    Statement (.amov d a ua) := by
  refine fun _ => decodes_of (k := 2) (op := 0x04)
    (l := [(d.toNat, 7, 17), (a.toNat, 7, 10), (b2n ua, 1, 1)])
    (x := []) rfl rfl rfl (by decide) rfl rfl fun w g => ?_
  show (if bf w 0 1 = 0 ∧ bf w 2 8 = 0 then if (0 : Nat) = 0 then .ok (.amov (.ofNat 7 (bf w 17 7)) (.ofNat 7 (bf w 10 7)) (bf w 1 1 == 1)) else .error .lend else .error .field : DecodeResult) = _
  simp only [g 17 7 _ (by decide) rfl, g 10 7 _ (by decide) rfl, g 2 8 0 (by decide) rfl, g 1 1 _ (by decide) rfl,
    g 0 1 0 (by decide) rfl, ofNat_toNat_mod, b2n_beq, reduceIte, and_self]

theorem ali (d : BitVec 7) (k : BitVec 17) :
    Statement (.ali d k) := by
  refine fun _ => decodes_of (k := 2) (op := 0x05)
    (l := [(d.toNat, 7, 17), (k.toNat, 17, 0)])
    (x := []) rfl rfl rfl (by decide) rfl rfl fun w g => ?_
  show (if (0 : Nat) = 0 then .ok (.ali (.ofNat 7 (bf w 17 7)) (.ofNat 17 (bf w 0 17))) else .error .lend : DecodeResult) = _
  simp only [g 17 7 _ (by decide) rfl, g 0 17 _ (by decide) rfl, ofNat_toNat_mod, reduceIte]

theorem aform (d : BitVec 7) (a : BitVec 7) (b : BitVec 7) (ua : Bool) (ub : Bool) (x : Bool) :
    Statement (.aform d a b ua ub x) := by
  refine fun _ => decodes_of (k := 2) (op := 0x06)
    (l := [(d.toNat, 7, 17), (a.toNat, 7, 10), (b.toNat, 7, 3), (b2n ua, 1, 2), (b2n ub, 1, 1), (b2n x, 1, 0)])
    (x := []) rfl rfl rfl (by decide) rfl rfl fun w g => ?_
  show (if (0 : Nat) = 0 then .ok (.aform (.ofNat 7 (bf w 17 7)) (.ofNat 7 (bf w 10 7)) (.ofNat 7 (bf w 3 7)) (bf w 2 1 == 1) (bf w 1 1 == 1) (bf w 0 1 == 1)) else .error .lend : DecodeResult) = _
  simp only [g 17 7 _ (by decide) rfl, g 10 7 _ (by decide) rfl, g 3 7 _ (by decide) rfl, g 2 1 _ (by decide) rfl,
    g 1 1 _ (by decide) rfl, g 0 1 _ (by decide) rfl, ofNat_toNat_mod, b2n_beq, reduceIte]

theorem ldB (t : BitVec 7) (s : BitVec 5) (o : BitVec 7) (ac : BitVec 2) (uo : Bool) (nt : Bool) (off : BitVec 7) :
    Statement (.ldB t s o ac uo nt off) := by
  refine fun _ => decodes_of_lend (k := 2) (op := 0x10)
    (l := [(t.toNat, 7, 17), (s.toNat, 5, 12), (o.toNat, 7, 5), (ac.toNat, 2, 3), (b2n uo, 1, 1), (b2n nt, 1, 0)])
    (x := [(off.toNat, 7, 0)]) rfl rfl rfl (by decide) rfl rfl fun w x g h => ?_
  show (if bf w 2 1 = 0 then .ok (.ldB (.ofNat 7 (bf w 17 7)) (.ofNat 5 (bf w 12 5)) (.ofNat 7 (bf w 5 7)) (.ofNat 2 (bf w 3 2)) (bf w 1 1 == 1) (bf w 0 1 == 1) (.ofNat 7 (bf x 0 7))) else .error .field : DecodeResult) = _
  simp only [g 17 7 _ (by decide) rfl, g 12 5 _ (by decide) rfl, g 5 7 _ (by decide) rfl, g 3 2 _ (by decide) rfl,
    g 2 1 0 (by decide) rfl, g 1 1 _ (by decide) rfl, g 0 1 _ (by decide) rfl, h 0 7 _ (by decide) rfl,
    ofNat_toNat_mod, b2n_beq, reduceIte]

theorem ldBs (t : BitVec 7) (s : BitVec 5) (o : BitVec 7) (ac : BitVec 2) (uo : Bool) (nt : Bool) (off : BitVec 7) :
    Statement (.ldBs t s o ac uo nt off) := by
  refine fun _ => decodes_of_lend (k := 2) (op := 0x11)
    (l := [(t.toNat, 7, 17), (s.toNat, 5, 12), (o.toNat, 7, 5), (ac.toNat, 2, 3), (b2n uo, 1, 1), (b2n nt, 1, 0)])
    (x := [(off.toNat, 7, 0)]) rfl rfl rfl (by decide) rfl rfl fun w x g h => ?_
  show (if bf w 2 1 = 0 then .ok (.ldBs (.ofNat 7 (bf w 17 7)) (.ofNat 5 (bf w 12 5)) (.ofNat 7 (bf w 5 7)) (.ofNat 2 (bf w 3 2)) (bf w 1 1 == 1) (bf w 0 1 == 1) (.ofNat 7 (bf x 0 7))) else .error .field : DecodeResult) = _
  simp only [g 17 7 _ (by decide) rfl, g 12 5 _ (by decide) rfl, g 5 7 _ (by decide) rfl, g 3 2 _ (by decide) rfl,
    g 2 1 0 (by decide) rfl, g 1 1 _ (by decide) rfl, g 0 1 _ (by decide) rfl, h 0 7 _ (by decide) rfl,
    ofNat_toNat_mod, b2n_beq, reduceIte]

theorem ldH (t : BitVec 7) (s : BitVec 5) (o : BitVec 7) (ac : BitVec 2) (uo : Bool) (nt : Bool) (off : BitVec 7) :
    Statement (.ldH t s o ac uo nt off) := by
  refine fun _ => decodes_of_lend (k := 2) (op := 0x12)
    (l := [(t.toNat, 7, 17), (s.toNat, 5, 12), (o.toNat, 7, 5), (ac.toNat, 2, 3), (b2n uo, 1, 1), (b2n nt, 1, 0)])
    (x := [(off.toNat, 7, 0)]) rfl rfl rfl (by decide) rfl rfl fun w x g h => ?_
  show (if bf w 2 1 = 0 then .ok (.ldH (.ofNat 7 (bf w 17 7)) (.ofNat 5 (bf w 12 5)) (.ofNat 7 (bf w 5 7)) (.ofNat 2 (bf w 3 2)) (bf w 1 1 == 1) (bf w 0 1 == 1) (.ofNat 7 (bf x 0 7))) else .error .field : DecodeResult) = _
  simp only [g 17 7 _ (by decide) rfl, g 12 5 _ (by decide) rfl, g 5 7 _ (by decide) rfl, g 3 2 _ (by decide) rfl,
    g 2 1 0 (by decide) rfl, g 1 1 _ (by decide) rfl, g 0 1 _ (by decide) rfl, h 0 7 _ (by decide) rfl,
    ofNat_toNat_mod, b2n_beq, reduceIte]

theorem ldHs (t : BitVec 7) (s : BitVec 5) (o : BitVec 7) (ac : BitVec 2) (uo : Bool) (nt : Bool) (off : BitVec 7) :
    Statement (.ldHs t s o ac uo nt off) := by
  refine fun _ => decodes_of_lend (k := 2) (op := 0x13)
    (l := [(t.toNat, 7, 17), (s.toNat, 5, 12), (o.toNat, 7, 5), (ac.toNat, 2, 3), (b2n uo, 1, 1), (b2n nt, 1, 0)])
    (x := [(off.toNat, 7, 0)]) rfl rfl rfl (by decide) rfl rfl fun w x g h => ?_
  show (if bf w 2 1 = 0 then .ok (.ldHs (.ofNat 7 (bf w 17 7)) (.ofNat 5 (bf w 12 5)) (.ofNat 7 (bf w 5 7)) (.ofNat 2 (bf w 3 2)) (bf w 1 1 == 1) (bf w 0 1 == 1) (.ofNat 7 (bf x 0 7))) else .error .field : DecodeResult) = _
  simp only [g 17 7 _ (by decide) rfl, g 12 5 _ (by decide) rfl, g 5 7 _ (by decide) rfl, g 3 2 _ (by decide) rfl,
    g 2 1 0 (by decide) rfl, g 1 1 _ (by decide) rfl, g 0 1 _ (by decide) rfl, h 0 7 _ (by decide) rfl,
    ofNat_toNat_mod, b2n_beq, reduceIte]

theorem ldW (t : BitVec 7) (s : BitVec 5) (o : BitVec 7) (ac : BitVec 2) (uo : Bool) (nt : Bool) (off : BitVec 7) :
    Statement (.ldW t s o ac uo nt off) := by
  refine fun _ => decodes_of_lend (k := 2) (op := 0x14)
    (l := [(t.toNat, 7, 17), (s.toNat, 5, 12), (o.toNat, 7, 5), (ac.toNat, 2, 3), (b2n uo, 1, 1), (b2n nt, 1, 0)])
    (x := [(off.toNat, 7, 0)]) rfl rfl rfl (by decide) rfl rfl fun w x g h => ?_
  show (if bf w 2 1 = 0 then .ok (.ldW (.ofNat 7 (bf w 17 7)) (.ofNat 5 (bf w 12 5)) (.ofNat 7 (bf w 5 7)) (.ofNat 2 (bf w 3 2)) (bf w 1 1 == 1) (bf w 0 1 == 1) (.ofNat 7 (bf x 0 7))) else .error .field : DecodeResult) = _
  simp only [g 17 7 _ (by decide) rfl, g 12 5 _ (by decide) rfl, g 5 7 _ (by decide) rfl, g 3 2 _ (by decide) rfl,
    g 2 1 0 (by decide) rfl, g 1 1 _ (by decide) rfl, g 0 1 _ (by decide) rfl, h 0 7 _ (by decide) rfl,
    ofNat_toNat_mod, b2n_beq, reduceIte]

theorem ldd (t : BitVec 7) (s : BitVec 5) (o : BitVec 7) (ac : BitVec 2) (uo : Bool) (nt : Bool) (off : BitVec 7) :
    Statement (.ldd t s o ac uo nt off) := by
  refine fun _ => decodes_of_lend (k := 2) (op := 0x15)
    (l := [(t.toNat, 7, 17), (s.toNat, 5, 12), (o.toNat, 7, 5), (ac.toNat, 2, 3), (b2n uo, 1, 1), (b2n nt, 1, 0)])
    (x := [(off.toNat, 7, 0)]) rfl rfl rfl (by decide) rfl rfl fun w x g h => ?_
  show (if bf w 2 1 = 0 then .ok (.ldd (.ofNat 7 (bf w 17 7)) (.ofNat 5 (bf w 12 5)) (.ofNat 7 (bf w 5 7)) (.ofNat 2 (bf w 3 2)) (bf w 1 1 == 1) (bf w 0 1 == 1) (.ofNat 7 (bf x 0 7))) else .error .field : DecodeResult) = _
  simp only [g 17 7 _ (by decide) rfl, g 12 5 _ (by decide) rfl, g 5 7 _ (by decide) rfl, g 3 2 _ (by decide) rfl,
    g 2 1 0 (by decide) rfl, g 1 1 _ (by decide) rfl, g 0 1 _ (by decide) rfl, h 0 7 _ (by decide) rfl,
    ofNat_toNat_mod, b2n_beq, reduceIte]

theorem ldq (t : BitVec 7) (s : BitVec 5) (o : BitVec 7) (ac : BitVec 2) (uo : Bool) (nt : Bool) (off : BitVec 7) :
    Statement (.ldq t s o ac uo nt off) := by
  refine fun _ => decodes_of_lend (k := 2) (op := 0x16)
    (l := [(t.toNat, 7, 17), (s.toNat, 5, 12), (o.toNat, 7, 5), (ac.toNat, 2, 3), (b2n uo, 1, 1), (b2n nt, 1, 0)])
    (x := [(off.toNat, 7, 0)]) rfl rfl rfl (by decide) rfl rfl fun w x g h => ?_
  show (if bf w 2 1 = 0 then .ok (.ldq (.ofNat 7 (bf w 17 7)) (.ofNat 5 (bf w 12 5)) (.ofNat 7 (bf w 5 7)) (.ofNat 2 (bf w 3 2)) (bf w 1 1 == 1) (bf w 0 1 == 1) (.ofNat 7 (bf x 0 7))) else .error .field : DecodeResult) = _
  simp only [g 17 7 _ (by decide) rfl, g 12 5 _ (by decide) rfl, g 5 7 _ (by decide) rfl, g 3 2 _ (by decide) rfl,
    g 2 1 0 (by decide) rfl, g 1 1 _ (by decide) rfl, g 0 1 _ (by decide) rfl, h 0 7 _ (by decide) rfl,
    ofNat_toNat_mod, b2n_beq, reduceIte]

theorem ldc (t : BitVec 7) (s : BitVec 5) (ac : BitVec 2) (nt : Bool) (off : BitVec 7) :
    Statement (.ldc t s ac nt off) := by
  refine fun _ => decodes_of_lend (k := 2) (op := 0x17)
    (l := [(t.toNat, 7, 17), (s.toNat, 5, 12), (ac.toNat, 2, 3), (b2n nt, 1, 0)])
    (x := [(off.toNat, 7, 0)]) rfl rfl rfl (by decide) rfl rfl fun w x g h => ?_
  show (if bf w 1 2 = 0 ∧ bf w 5 7 = 0 then .ok (.ldc (.ofNat 7 (bf w 17 7)) (.ofNat 5 (bf w 12 5)) (.ofNat 2 (bf w 3 2)) (bf w 0 1 == 1) (.ofNat 7 (bf x 0 7))) else .error .field : DecodeResult) = _
  simp only [g 17 7 _ (by decide) rfl, g 12 5 _ (by decide) rfl, g 5 7 0 (by decide) rfl, g 3 2 _ (by decide) rfl,
    g 1 2 0 (by decide) rfl, g 0 1 _ (by decide) rfl, h 0 7 _ (by decide) rfl, ofNat_toNat_mod, b2n_beq,
    reduceIte, and_self]

theorem ldu (t : BitVec 7) (s : BitVec 5) (ac : BitVec 2) (nt : Bool) (off : BitVec 7) :
    Statement (.ldu t s ac nt off) := by
  refine fun _ => decodes_of_lend (k := 2) (op := 0x18)
    (l := [(t.toNat, 7, 17), (s.toNat, 5, 12), (ac.toNat, 2, 3), (b2n nt, 1, 0)])
    (x := [(off.toNat, 7, 0)]) rfl rfl rfl (by decide) rfl rfl fun w x g h => ?_
  show (if bf w 1 2 = 0 ∧ bf w 5 7 = 0 then .ok (.ldu (.ofNat 7 (bf w 17 7)) (.ofNat 5 (bf w 12 5)) (.ofNat 2 (bf w 3 2)) (bf w 0 1 == 1) (.ofNat 7 (bf x 0 7))) else .error .field : DecodeResult) = _
  simp only [g 17 7 _ (by decide) rfl, g 12 5 _ (by decide) rfl, g 5 7 0 (by decide) rfl, g 3 2 _ (by decide) rfl,
    g 1 2 0 (by decide) rfl, g 0 1 _ (by decide) rfl, h 0 7 _ (by decide) rfl, ofNat_toNat_mod, b2n_beq,
    reduceIte, and_self]

theorem ldsB (t : BitVec 7) (s : BitVec 5) (o : BitVec 7) (ac : BitVec 2) (uo : Bool) (off : BitVec 7) :
    Statement (.ldsB t s o ac uo off) := by
  refine fun _ => decodes_of_lend (k := 2) (op := 0x19)
    (l := [(t.toNat, 7, 17), (s.toNat, 5, 12), (o.toNat, 7, 5), (ac.toNat, 2, 3), (b2n uo, 1, 1)])
    (x := [(off.toNat, 7, 0)]) rfl rfl rfl (by decide) rfl rfl fun w x g h => ?_
  show (if bf w 0 1 = 0 ∧ bf w 2 1 = 0 then .ok (.ldsB (.ofNat 7 (bf w 17 7)) (.ofNat 5 (bf w 12 5)) (.ofNat 7 (bf w 5 7)) (.ofNat 2 (bf w 3 2)) (bf w 1 1 == 1) (.ofNat 7 (bf x 0 7))) else .error .field : DecodeResult) = _
  simp only [g 17 7 _ (by decide) rfl, g 12 5 _ (by decide) rfl, g 5 7 _ (by decide) rfl, g 3 2 _ (by decide) rfl,
    g 2 1 0 (by decide) rfl, g 1 1 _ (by decide) rfl, g 0 1 0 (by decide) rfl, h 0 7 _ (by decide) rfl,
    ofNat_toNat_mod, b2n_beq, reduceIte, and_self]

theorem ldsBs (t : BitVec 7) (s : BitVec 5) (o : BitVec 7) (ac : BitVec 2) (uo : Bool) (off : BitVec 7) :
    Statement (.ldsBs t s o ac uo off) := by
  refine fun _ => decodes_of_lend (k := 2) (op := 0x1A)
    (l := [(t.toNat, 7, 17), (s.toNat, 5, 12), (o.toNat, 7, 5), (ac.toNat, 2, 3), (b2n uo, 1, 1)])
    (x := [(off.toNat, 7, 0)]) rfl rfl rfl (by decide) rfl rfl fun w x g h => ?_
  show (if bf w 0 1 = 0 ∧ bf w 2 1 = 0 then .ok (.ldsBs (.ofNat 7 (bf w 17 7)) (.ofNat 5 (bf w 12 5)) (.ofNat 7 (bf w 5 7)) (.ofNat 2 (bf w 3 2)) (bf w 1 1 == 1) (.ofNat 7 (bf x 0 7))) else .error .field : DecodeResult) = _
  simp only [g 17 7 _ (by decide) rfl, g 12 5 _ (by decide) rfl, g 5 7 _ (by decide) rfl, g 3 2 _ (by decide) rfl,
    g 2 1 0 (by decide) rfl, g 1 1 _ (by decide) rfl, g 0 1 0 (by decide) rfl, h 0 7 _ (by decide) rfl,
    ofNat_toNat_mod, b2n_beq, reduceIte, and_self]

theorem ldsH (t : BitVec 7) (s : BitVec 5) (o : BitVec 7) (ac : BitVec 2) (uo : Bool) (off : BitVec 7) :
    Statement (.ldsH t s o ac uo off) := by
  refine fun _ => decodes_of_lend (k := 2) (op := 0x1B)
    (l := [(t.toNat, 7, 17), (s.toNat, 5, 12), (o.toNat, 7, 5), (ac.toNat, 2, 3), (b2n uo, 1, 1)])
    (x := [(off.toNat, 7, 0)]) rfl rfl rfl (by decide) rfl rfl fun w x g h => ?_
  show (if bf w 0 1 = 0 ∧ bf w 2 1 = 0 then .ok (.ldsH (.ofNat 7 (bf w 17 7)) (.ofNat 5 (bf w 12 5)) (.ofNat 7 (bf w 5 7)) (.ofNat 2 (bf w 3 2)) (bf w 1 1 == 1) (.ofNat 7 (bf x 0 7))) else .error .field : DecodeResult) = _
  simp only [g 17 7 _ (by decide) rfl, g 12 5 _ (by decide) rfl, g 5 7 _ (by decide) rfl, g 3 2 _ (by decide) rfl,
    g 2 1 0 (by decide) rfl, g 1 1 _ (by decide) rfl, g 0 1 0 (by decide) rfl, h 0 7 _ (by decide) rfl,
    ofNat_toNat_mod, b2n_beq, reduceIte, and_self]

theorem ldsHs (t : BitVec 7) (s : BitVec 5) (o : BitVec 7) (ac : BitVec 2) (uo : Bool) (off : BitVec 7) :
    Statement (.ldsHs t s o ac uo off) := by
  refine fun _ => decodes_of_lend (k := 2) (op := 0x1C)
    (l := [(t.toNat, 7, 17), (s.toNat, 5, 12), (o.toNat, 7, 5), (ac.toNat, 2, 3), (b2n uo, 1, 1)])
    (x := [(off.toNat, 7, 0)]) rfl rfl rfl (by decide) rfl rfl fun w x g h => ?_
  show (if bf w 0 1 = 0 ∧ bf w 2 1 = 0 then .ok (.ldsHs (.ofNat 7 (bf w 17 7)) (.ofNat 5 (bf w 12 5)) (.ofNat 7 (bf w 5 7)) (.ofNat 2 (bf w 3 2)) (bf w 1 1 == 1) (.ofNat 7 (bf x 0 7))) else .error .field : DecodeResult) = _
  simp only [g 17 7 _ (by decide) rfl, g 12 5 _ (by decide) rfl, g 5 7 _ (by decide) rfl, g 3 2 _ (by decide) rfl,
    g 2 1 0 (by decide) rfl, g 1 1 _ (by decide) rfl, g 0 1 0 (by decide) rfl, h 0 7 _ (by decide) rfl,
    ofNat_toNat_mod, b2n_beq, reduceIte, and_self]

theorem ldsW (t : BitVec 7) (s : BitVec 5) (o : BitVec 7) (ac : BitVec 2) (uo : Bool) (off : BitVec 7) :
    Statement (.ldsW t s o ac uo off) := by
  refine fun _ => decodes_of_lend (k := 2) (op := 0x1D)
    (l := [(t.toNat, 7, 17), (s.toNat, 5, 12), (o.toNat, 7, 5), (ac.toNat, 2, 3), (b2n uo, 1, 1)])
    (x := [(off.toNat, 7, 0)]) rfl rfl rfl (by decide) rfl rfl fun w x g h => ?_
  show (if bf w 0 1 = 0 ∧ bf w 2 1 = 0 then .ok (.ldsW (.ofNat 7 (bf w 17 7)) (.ofNat 5 (bf w 12 5)) (.ofNat 7 (bf w 5 7)) (.ofNat 2 (bf w 3 2)) (bf w 1 1 == 1) (.ofNat 7 (bf x 0 7))) else .error .field : DecodeResult) = _
  simp only [g 17 7 _ (by decide) rfl, g 12 5 _ (by decide) rfl, g 5 7 _ (by decide) rfl, g 3 2 _ (by decide) rfl,
    g 2 1 0 (by decide) rfl, g 1 1 _ (by decide) rfl, g 0 1 0 (by decide) rfl, h 0 7 _ (by decide) rfl,
    ofNat_toNat_mod, b2n_beq, reduceIte, and_self]

theorem ldsc (t : BitVec 7) (s : BitVec 5) (ac : BitVec 2) (off : BitVec 7) :
    Statement (.ldsc t s ac off) := by
  refine fun _ => decodes_of_lend (k := 2) (op := 0x1E)
    (l := [(t.toNat, 7, 17), (s.toNat, 5, 12), (ac.toNat, 2, 3)])
    (x := [(off.toNat, 7, 0)]) rfl rfl rfl (by decide) rfl rfl fun w x g h => ?_
  show (if bf w 0 3 = 0 ∧ bf w 5 7 = 0 then .ok (.ldsc (.ofNat 7 (bf w 17 7)) (.ofNat 5 (bf w 12 5)) (.ofNat 2 (bf w 3 2)) (.ofNat 7 (bf x 0 7))) else .error .field : DecodeResult) = _
  simp only [g 17 7 _ (by decide) rfl, g 12 5 _ (by decide) rfl, g 5 7 0 (by decide) rfl, g 3 2 _ (by decide) rfl,
    g 0 3 0 (by decide) rfl, h 0 7 _ (by decide) rfl, ofNat_toNat_mod, reduceIte, and_self]

theorem stB (t : BitVec 7) (s : BitVec 5) (o : BitVec 7) (ac : BitVec 2) (ut : Bool) (uo : Bool) (nt : Bool) (off : BitVec 7) :
    Statement (.stB t s o ac ut uo nt off) := by
  refine fun _ => decodes_of_lend (k := 2) (op := 0x20)
    (l := [(t.toNat, 7, 17), (s.toNat, 5, 12), (o.toNat, 7, 5), (ac.toNat, 2, 3), (b2n ut, 1, 2), (b2n uo, 1, 1), (b2n nt, 1, 0)])
    (x := [(off.toNat, 7, 0)]) rfl rfl rfl (by decide) rfl rfl fun w x g h => ?_
  show (.ok (.stB (.ofNat 7 (bf w 17 7)) (.ofNat 5 (bf w 12 5)) (.ofNat 7 (bf w 5 7)) (.ofNat 2 (bf w 3 2)) (bf w 2 1 == 1) (bf w 1 1 == 1) (bf w 0 1 == 1) (.ofNat 7 (bf x 0 7))) : DecodeResult) = _
  simp only [g 17 7 _ (by decide) rfl, g 12 5 _ (by decide) rfl, g 5 7 _ (by decide) rfl, g 3 2 _ (by decide) rfl,
    g 2 1 _ (by decide) rfl, g 1 1 _ (by decide) rfl, g 0 1 _ (by decide) rfl, h 0 7 _ (by decide) rfl,
    ofNat_toNat_mod, b2n_beq]

theorem stH (t : BitVec 7) (s : BitVec 5) (o : BitVec 7) (ac : BitVec 2) (ut : Bool) (uo : Bool) (nt : Bool) (off : BitVec 7) :
    Statement (.stH t s o ac ut uo nt off) := by
  refine fun _ => decodes_of_lend (k := 2) (op := 0x21)
    (l := [(t.toNat, 7, 17), (s.toNat, 5, 12), (o.toNat, 7, 5), (ac.toNat, 2, 3), (b2n ut, 1, 2), (b2n uo, 1, 1), (b2n nt, 1, 0)])
    (x := [(off.toNat, 7, 0)]) rfl rfl rfl (by decide) rfl rfl fun w x g h => ?_
  show (.ok (.stH (.ofNat 7 (bf w 17 7)) (.ofNat 5 (bf w 12 5)) (.ofNat 7 (bf w 5 7)) (.ofNat 2 (bf w 3 2)) (bf w 2 1 == 1) (bf w 1 1 == 1) (bf w 0 1 == 1) (.ofNat 7 (bf x 0 7))) : DecodeResult) = _
  simp only [g 17 7 _ (by decide) rfl, g 12 5 _ (by decide) rfl, g 5 7 _ (by decide) rfl, g 3 2 _ (by decide) rfl,
    g 2 1 _ (by decide) rfl, g 1 1 _ (by decide) rfl, g 0 1 _ (by decide) rfl, h 0 7 _ (by decide) rfl,
    ofNat_toNat_mod, b2n_beq]

theorem stW (t : BitVec 7) (s : BitVec 5) (o : BitVec 7) (ac : BitVec 2) (ut : Bool) (uo : Bool) (nt : Bool) (off : BitVec 7) :
    Statement (.stW t s o ac ut uo nt off) := by
  refine fun _ => decodes_of_lend (k := 2) (op := 0x22)
    (l := [(t.toNat, 7, 17), (s.toNat, 5, 12), (o.toNat, 7, 5), (ac.toNat, 2, 3), (b2n ut, 1, 2), (b2n uo, 1, 1), (b2n nt, 1, 0)])
    (x := [(off.toNat, 7, 0)]) rfl rfl rfl (by decide) rfl rfl fun w x g h => ?_
  show (.ok (.stW (.ofNat 7 (bf w 17 7)) (.ofNat 5 (bf w 12 5)) (.ofNat 7 (bf w 5 7)) (.ofNat 2 (bf w 3 2)) (bf w 2 1 == 1) (bf w 1 1 == 1) (bf w 0 1 == 1) (.ofNat 7 (bf x 0 7))) : DecodeResult) = _
  simp only [g 17 7 _ (by decide) rfl, g 12 5 _ (by decide) rfl, g 5 7 _ (by decide) rfl, g 3 2 _ (by decide) rfl,
    g 2 1 _ (by decide) rfl, g 1 1 _ (by decide) rfl, g 0 1 _ (by decide) rfl, h 0 7 _ (by decide) rfl,
    ofNat_toNat_mod, b2n_beq]

theorem std (t : BitVec 7) (s : BitVec 5) (o : BitVec 7) (ac : BitVec 2) (ut : Bool) (uo : Bool) (nt : Bool) (off : BitVec 7) :
    Statement (.std t s o ac ut uo nt off) := by
  refine fun _ => decodes_of_lend (k := 2) (op := 0x23)
    (l := [(t.toNat, 7, 17), (s.toNat, 5, 12), (o.toNat, 7, 5), (ac.toNat, 2, 3), (b2n ut, 1, 2), (b2n uo, 1, 1), (b2n nt, 1, 0)])
    (x := [(off.toNat, 7, 0)]) rfl rfl rfl (by decide) rfl rfl fun w x g h => ?_
  show (.ok (.std (.ofNat 7 (bf w 17 7)) (.ofNat 5 (bf w 12 5)) (.ofNat 7 (bf w 5 7)) (.ofNat 2 (bf w 3 2)) (bf w 2 1 == 1) (bf w 1 1 == 1) (bf w 0 1 == 1) (.ofNat 7 (bf x 0 7))) : DecodeResult) = _
  simp only [g 17 7 _ (by decide) rfl, g 12 5 _ (by decide) rfl, g 5 7 _ (by decide) rfl, g 3 2 _ (by decide) rfl,
    g 2 1 _ (by decide) rfl, g 1 1 _ (by decide) rfl, g 0 1 _ (by decide) rfl, h 0 7 _ (by decide) rfl,
    ofNat_toNat_mod, b2n_beq]

theorem stq (t : BitVec 7) (s : BitVec 5) (o : BitVec 7) (ac : BitVec 2) (ut : Bool) (uo : Bool) (nt : Bool) (off : BitVec 7) :
    Statement (.stq t s o ac ut uo nt off) := by
  refine fun _ => decodes_of_lend (k := 2) (op := 0x24)
    (l := [(t.toNat, 7, 17), (s.toNat, 5, 12), (o.toNat, 7, 5), (ac.toNat, 2, 3), (b2n ut, 1, 2), (b2n uo, 1, 1), (b2n nt, 1, 0)])
    (x := [(off.toNat, 7, 0)]) rfl rfl rfl (by decide) rfl rfl fun w x g h => ?_
  show (.ok (.stq (.ofNat 7 (bf w 17 7)) (.ofNat 5 (bf w 12 5)) (.ofNat 7 (bf w 5 7)) (.ofNat 2 (bf w 3 2)) (bf w 2 1 == 1) (bf w 1 1 == 1) (bf w 0 1 == 1) (.ofNat 7 (bf x 0 7))) : DecodeResult) = _
  simp only [g 17 7 _ (by decide) rfl, g 12 5 _ (by decide) rfl, g 5 7 _ (by decide) rfl, g 3 2 _ (by decide) rfl,
    g 2 1 _ (by decide) rfl, g 1 1 _ (by decide) rfl, g 0 1 _ (by decide) rfl, h 0 7 _ (by decide) rfl,
    ofNat_toNat_mod, b2n_beq]

theorem stc (t : BitVec 7) (s : BitVec 5) (ac : BitVec 2) (ut : Bool) (nt : Bool) (off : BitVec 7) :
    Statement (.stc t s ac ut nt off) := by
  refine fun _ => decodes_of_lend (k := 2) (op := 0x25)
    (l := [(t.toNat, 7, 17), (s.toNat, 5, 12), (ac.toNat, 2, 3), (b2n ut, 1, 2), (b2n nt, 1, 0)])
    (x := [(off.toNat, 7, 0)]) rfl rfl rfl (by decide) rfl rfl fun w x g h => ?_
  show (if bf w 1 1 = 0 ∧ bf w 5 7 = 0 then .ok (.stc (.ofNat 7 (bf w 17 7)) (.ofNat 5 (bf w 12 5)) (.ofNat 2 (bf w 3 2)) (bf w 2 1 == 1) (bf w 0 1 == 1) (.ofNat 7 (bf x 0 7))) else .error .field : DecodeResult) = _
  simp only [g 17 7 _ (by decide) rfl, g 12 5 _ (by decide) rfl, g 5 7 0 (by decide) rfl, g 3 2 _ (by decide) rfl,
    g 2 1 _ (by decide) rfl, g 1 1 0 (by decide) rfl, g 0 1 _ (by decide) rfl, h 0 7 _ (by decide) rfl,
    ofNat_toNat_mod, b2n_beq, reduceIte, and_self]

theorem stsB (t : BitVec 7) (s : BitVec 5) (o : BitVec 7) (ac : BitVec 2) (ut : Bool) (uo : Bool) (off : BitVec 7) :
    Statement (.stsB t s o ac ut uo off) := by
  refine fun _ => decodes_of_lend (k := 2) (op := 0x26)
    (l := [(t.toNat, 7, 17), (s.toNat, 5, 12), (o.toNat, 7, 5), (ac.toNat, 2, 3), (b2n ut, 1, 2), (b2n uo, 1, 1)])
    (x := [(off.toNat, 7, 0)]) rfl rfl rfl (by decide) rfl rfl fun w x g h => ?_
  show (if bf w 0 1 = 0 then .ok (.stsB (.ofNat 7 (bf w 17 7)) (.ofNat 5 (bf w 12 5)) (.ofNat 7 (bf w 5 7)) (.ofNat 2 (bf w 3 2)) (bf w 2 1 == 1) (bf w 1 1 == 1) (.ofNat 7 (bf x 0 7))) else .error .field : DecodeResult) = _
  simp only [g 17 7 _ (by decide) rfl, g 12 5 _ (by decide) rfl, g 5 7 _ (by decide) rfl, g 3 2 _ (by decide) rfl,
    g 2 1 _ (by decide) rfl, g 1 1 _ (by decide) rfl, g 0 1 0 (by decide) rfl, h 0 7 _ (by decide) rfl,
    ofNat_toNat_mod, b2n_beq, reduceIte]

theorem stsH (t : BitVec 7) (s : BitVec 5) (o : BitVec 7) (ac : BitVec 2) (ut : Bool) (uo : Bool) (off : BitVec 7) :
    Statement (.stsH t s o ac ut uo off) := by
  refine fun _ => decodes_of_lend (k := 2) (op := 0x27)
    (l := [(t.toNat, 7, 17), (s.toNat, 5, 12), (o.toNat, 7, 5), (ac.toNat, 2, 3), (b2n ut, 1, 2), (b2n uo, 1, 1)])
    (x := [(off.toNat, 7, 0)]) rfl rfl rfl (by decide) rfl rfl fun w x g h => ?_
  show (if bf w 0 1 = 0 then .ok (.stsH (.ofNat 7 (bf w 17 7)) (.ofNat 5 (bf w 12 5)) (.ofNat 7 (bf w 5 7)) (.ofNat 2 (bf w 3 2)) (bf w 2 1 == 1) (bf w 1 1 == 1) (.ofNat 7 (bf x 0 7))) else .error .field : DecodeResult) = _
  simp only [g 17 7 _ (by decide) rfl, g 12 5 _ (by decide) rfl, g 5 7 _ (by decide) rfl, g 3 2 _ (by decide) rfl,
    g 2 1 _ (by decide) rfl, g 1 1 _ (by decide) rfl, g 0 1 0 (by decide) rfl, h 0 7 _ (by decide) rfl,
    ofNat_toNat_mod, b2n_beq, reduceIte]

theorem stsW (t : BitVec 7) (s : BitVec 5) (o : BitVec 7) (ac : BitVec 2) (ut : Bool) (uo : Bool) (off : BitVec 7) :
    Statement (.stsW t s o ac ut uo off) := by
  refine fun _ => decodes_of_lend (k := 2) (op := 0x28)
    (l := [(t.toNat, 7, 17), (s.toNat, 5, 12), (o.toNat, 7, 5), (ac.toNat, 2, 3), (b2n ut, 1, 2), (b2n uo, 1, 1)])
    (x := [(off.toNat, 7, 0)]) rfl rfl rfl (by decide) rfl rfl fun w x g h => ?_
  show (if bf w 0 1 = 0 then .ok (.stsW (.ofNat 7 (bf w 17 7)) (.ofNat 5 (bf w 12 5)) (.ofNat 7 (bf w 5 7)) (.ofNat 2 (bf w 3 2)) (bf w 2 1 == 1) (bf w 1 1 == 1) (.ofNat 7 (bf x 0 7))) else .error .field : DecodeResult) = _
  simp only [g 17 7 _ (by decide) rfl, g 12 5 _ (by decide) rfl, g 5 7 _ (by decide) rfl, g 3 2 _ (by decide) rfl,
    g 2 1 _ (by decide) rfl, g 1 1 _ (by decide) rfl, g 0 1 0 (by decide) rfl, h 0 7 _ (by decide) rfl,
    ofNat_toNat_mod, b2n_beq, reduceIte]

theorem stsc (t : BitVec 7) (s : BitVec 5) (ac : BitVec 2) (ut : Bool) (off : BitVec 7) :
    Statement (.stsc t s ac ut off) := by
  refine fun _ => decodes_of_lend (k := 2) (op := 0x29)
    (l := [(t.toNat, 7, 17), (s.toNat, 5, 12), (ac.toNat, 2, 3), (b2n ut, 1, 2)])
    (x := [(off.toNat, 7, 0)]) rfl rfl rfl (by decide) rfl rfl fun w x g h => ?_
  show (if bf w 0 2 = 0 ∧ bf w 5 7 = 0 then .ok (.stsc (.ofNat 7 (bf w 17 7)) (.ofNat 5 (bf w 12 5)) (.ofNat 2 (bf w 3 2)) (bf w 2 1 == 1) (.ofNat 7 (bf x 0 7))) else .error .field : DecodeResult) = _
  simp only [g 17 7 _ (by decide) rfl, g 12 5 _ (by decide) rfl, g 5 7 0 (by decide) rfl, g 3 2 _ (by decide) rfl,
    g 2 1 _ (by decide) rfl, g 0 2 0 (by decide) rfl, h 0 7 _ (by decide) rfl, ofNat_toNat_mod, b2n_beq,
    reduceIte, and_self]

theorem amo (t : BitVec 7) (s : BitVec 5) (o : BitVec 7) (ac : BitVec 2) (ut : Bool) (uo : Bool) (rv : Bool) (op : BitVec 4) :
    Statement (.amo t s o ac ut uo rv op) := by
  refine fun _ => decodes_of_lend (k := 2) (op := 0x30)
    (l := [(t.toNat, 7, 17), (s.toNat, 5, 12), (o.toNat, 7, 5), (ac.toNat, 2, 3), (b2n ut, 1, 2), (b2n uo, 1, 1), (b2n rv, 1, 0)])
    (x := [(op.toNat, 4, 0)]) rfl rfl rfl (by decide) rfl rfl fun w x g h => ?_
  show (if bf x 4 3 = 0 then .ok (.amo (.ofNat 7 (bf w 17 7)) (.ofNat 5 (bf w 12 5)) (.ofNat 7 (bf w 5 7)) (.ofNat 2 (bf w 3 2)) (bf w 2 1 == 1) (bf w 1 1 == 1) (bf w 0 1 == 1) (.ofNat 4 (bf x 0 4))) else .error .lend : DecodeResult) = _
  simp only [g 17 7 _ (by decide) rfl, g 12 5 _ (by decide) rfl, g 5 7 _ (by decide) rfl, g 3 2 _ (by decide) rfl,
    g 2 1 _ (by decide) rfl, g 1 1 _ (by decide) rfl, g 0 1 _ (by decide) rfl, h 4 3 0 (by decide) rfl,
    h 0 4 _ (by decide) rfl, ofNat_toNat_mod, b2n_beq, reduceIte]

theorem cas (t : BitVec 7) (s : BitVec 5) (o : BitVec 7) (ac : BitVec 2) (ut : Bool) (uo : Bool) (rv : Bool) (c : BitVec 6) (uc : Bool) :
    Statement (.cas t s o ac ut uo rv c uc) := by
  refine fun _ => decodes_of_lend (k := 2) (op := 0x31)
    (l := [(t.toNat, 7, 17), (s.toNat, 5, 12), (o.toNat, 7, 5), (ac.toNat, 2, 3), (b2n ut, 1, 2), (b2n uo, 1, 1), (b2n rv, 1, 0)])
    (x := [(c.toNat, 6, 1), (b2n uc, 1, 0)]) rfl rfl rfl (by decide) rfl rfl fun w x g h => ?_
  show (.ok (.cas (.ofNat 7 (bf w 17 7)) (.ofNat 5 (bf w 12 5)) (.ofNat 7 (bf w 5 7)) (.ofNat 2 (bf w 3 2)) (bf w 2 1 == 1) (bf w 1 1 == 1) (bf w 0 1 == 1) (.ofNat 6 (bf x 1 6)) (bf x 0 1 == 1)) : DecodeResult) = _
  simp only [g 17 7 _ (by decide) rfl, g 12 5 _ (by decide) rfl, g 5 7 _ (by decide) rfl, g 3 2 _ (by decide) rfl,
    g 2 1 _ (by decide) rfl, g 1 1 _ (by decide) rfl, g 0 1 _ (by decide) rfl, h 1 6 _ (by decide) rfl,
    h 0 1 _ (by decide) rfl, ofNat_toNat_mod, b2n_beq]

theorem amos (t : BitVec 7) (s : BitVec 5) (o : BitVec 7) (ac : BitVec 2) (ut : Bool) (uo : Bool) (rv : Bool) (op : BitVec 4) :
    Statement (.amos t s o ac ut uo rv op) := by
  refine fun _ => decodes_of_lend (k := 2) (op := 0x32)
    (l := [(t.toNat, 7, 17), (s.toNat, 5, 12), (o.toNat, 7, 5), (ac.toNat, 2, 3), (b2n ut, 1, 2), (b2n uo, 1, 1), (b2n rv, 1, 0)])
    (x := [(op.toNat, 4, 0)]) rfl rfl rfl (by decide) rfl rfl fun w x g h => ?_
  show (if bf x 4 3 = 0 then .ok (.amos (.ofNat 7 (bf w 17 7)) (.ofNat 5 (bf w 12 5)) (.ofNat 7 (bf w 5 7)) (.ofNat 2 (bf w 3 2)) (bf w 2 1 == 1) (bf w 1 1 == 1) (bf w 0 1 == 1) (.ofNat 4 (bf x 0 4))) else .error .lend : DecodeResult) = _
  simp only [g 17 7 _ (by decide) rfl, g 12 5 _ (by decide) rfl, g 5 7 _ (by decide) rfl, g 3 2 _ (by decide) rfl,
    g 2 1 _ (by decide) rfl, g 1 1 _ (by decide) rfl, g 0 1 _ (by decide) rfl, h 4 3 0 (by decide) rfl,
    h 0 4 _ (by decide) rfl, ofNat_toNat_mod, b2n_beq, reduceIte]

theorem cass (t : BitVec 7) (s : BitVec 5) (o : BitVec 7) (ac : BitVec 2) (ut : Bool) (uo : Bool) (rv : Bool) (c : BitVec 6) (uc : Bool) :
    Statement (.cass t s o ac ut uo rv c uc) := by
  refine fun _ => decodes_of_lend (k := 2) (op := 0x33)
    (l := [(t.toNat, 7, 17), (s.toNat, 5, 12), (o.toNat, 7, 5), (ac.toNat, 2, 3), (b2n ut, 1, 2), (b2n uo, 1, 1), (b2n rv, 1, 0)])
    (x := [(c.toNat, 6, 1), (b2n uc, 1, 0)]) rfl rfl rfl (by decide) rfl rfl fun w x g h => ?_
  show (.ok (.cass (.ofNat 7 (bf w 17 7)) (.ofNat 5 (bf w 12 5)) (.ofNat 7 (bf w 5 7)) (.ofNat 2 (bf w 3 2)) (bf w 2 1 == 1) (bf w 1 1 == 1) (bf w 0 1 == 1) (.ofNat 6 (bf x 1 6)) (bf x 0 1 == 1)) : DecodeResult) = _
  simp only [g 17 7 _ (by decide) rfl, g 12 5 _ (by decide) rfl, g 5 7 _ (by decide) rfl, g 3 2 _ (by decide) rfl,
    g 2 1 _ (by decide) rfl, g 1 1 _ (by decide) rfl, g 0 1 _ (by decide) rfl, h 1 6 _ (by decide) rfl,
    h 0 1 _ (by decide) rfl, ofNat_toNat_mod, b2n_beq]

theorem waita (t : BitVec 7) (s : BitVec 5) (o : BitVec 7) (ac : BitVec 2) (ut : Bool) (uo : Bool) (to_ : Bool) (cond : BitVec 2) (acq : Bool) (scope : BitVec 3) (ext : Bool) :
    Statement (.waita t s o ac ut uo to_ cond acq scope ext) := by
  refine fun _ => decodes_of_lend (k := 2) (op := 0x38)
    (l := [(t.toNat, 7, 17), (s.toNat, 5, 12), (o.toNat, 7, 5), (ac.toNat, 2, 3), (b2n ut, 1, 2), (b2n uo, 1, 1), (b2n to_, 1, 0)])
    (x := [(b2n ext, 1, 6), (scope.toNat, 3, 3), (b2n acq, 1, 2), (cond.toNat, 2, 0)]) rfl rfl rfl (by decide) rfl rfl fun w x g h => ?_
  show (.ok (.waita (.ofNat 7 (bf w 17 7)) (.ofNat 5 (bf w 12 5)) (.ofNat 7 (bf w 5 7)) (.ofNat 2 (bf w 3 2)) (bf w 2 1 == 1) (bf w 1 1 == 1) (bf w 0 1 == 1) (.ofNat 2 (bf x 0 2)) (bf x 2 1 == 1) (.ofNat 3 (bf x 3 3)) (bf x 6 1 == 1)) : DecodeResult) = _
  simp only [g 17 7 _ (by decide) rfl, g 12 5 _ (by decide) rfl, g 5 7 _ (by decide) rfl, g 3 2 _ (by decide) rfl,
    g 2 1 _ (by decide) rfl, g 1 1 _ (by decide) rfl, g 0 1 _ (by decide) rfl, h 6 1 _ (by decide) rfl,
    h 3 3 _ (by decide) rfl, h 2 1 _ (by decide) rfl, h 0 2 _ (by decide) rfl, ofNat_toNat_mod, b2n_beq]

theorem sig (t : BitVec 7) (s : BitVec 5) (o : BitVec 7) (ac : BitVec 2) (ut : Bool) (uo : Bool) (op : BitVec 2) (rel : Bool) (scope : BitVec 3) (ext : Bool) :
    Statement (.sig t s o ac ut uo op rel scope ext) := by
  refine fun _ => decodes_of_lend (k := 2) (op := 0x39)
    (l := [(t.toNat, 7, 17), (s.toNat, 5, 12), (o.toNat, 7, 5), (ac.toNat, 2, 3), (b2n ut, 1, 2), (b2n uo, 1, 1)])
    (x := [(b2n ext, 1, 6), (scope.toNat, 3, 3), (b2n rel, 1, 2), (op.toNat, 2, 0)]) rfl rfl rfl (by decide) rfl rfl fun w x g h => ?_
  show (if bf w 0 1 = 0 then .ok (.sig (.ofNat 7 (bf w 17 7)) (.ofNat 5 (bf w 12 5)) (.ofNat 7 (bf w 5 7)) (.ofNat 2 (bf w 3 2)) (bf w 2 1 == 1) (bf w 1 1 == 1) (.ofNat 2 (bf x 0 2)) (bf x 2 1 == 1) (.ofNat 3 (bf x 3 3)) (bf x 6 1 == 1)) else .error .field : DecodeResult) = _
  simp only [g 17 7 _ (by decide) rfl, g 12 5 _ (by decide) rfl, g 5 7 _ (by decide) rfl, g 3 2 _ (by decide) rfl,
    g 2 1 _ (by decide) rfl, g 1 1 _ (by decide) rfl, g 0 1 0 (by decide) rfl, h 6 1 _ (by decide) rfl,
    h 3 3 _ (by decide) rfl, h 2 1 _ (by decide) rfl, h 0 2 _ (by decide) rfl, ofNat_toNat_mod, b2n_beq, reduceIte]

theorem fence (kind : BitVec 2) (scope : BitVec 3) (ext : Bool) :
    Statement (.fence kind scope ext) := by
  refine fun _ => decodes_of_lend (k := 2) (op := 0x3A)
    (l := [])
    (x := [(b2n ext, 1, 6), (scope.toNat, 3, 3), (kind.toNat, 2, 0)]) rfl rfl rfl (by decide) rfl rfl fun w x g h => ?_
  show (if bf w 0 24 = 0 then if bf x 2 1 = 0 then .ok (.fence (.ofNat 2 (bf x 0 2)) (.ofNat 3 (bf x 3 3)) (bf x 6 1 == 1)) else .error .lend else .error .field : DecodeResult) = _
  simp only [g 0 24 0 (by decide) rfl, h 6 1 _ (by decide) rfl, h 3 3 _ (by decide) rfl, h 2 1 0 (by decide) rfl,
    h 0 2 _ (by decide) rfl, ofNat_toNat_mod, b2n_beq, reduceIte]

theorem lda (t : BitVec 7) (s : BitVec 5) (o : BitVec 7) (ac : BitVec 2) (uo : Bool) (scope : BitVec 3) (ext : Bool) :
    Statement (.lda t s o ac uo scope ext) := by
  refine fun _ => decodes_of_lend (k := 2) (op := 0x3B)
    (l := [(t.toNat, 7, 17), (s.toNat, 5, 12), (o.toNat, 7, 5), (ac.toNat, 2, 3), (b2n uo, 1, 1)])
    (x := [(b2n ext, 1, 6), (scope.toNat, 3, 3)]) rfl rfl rfl (by decide) rfl rfl fun w x g h => ?_
  show (if bf w 0 1 = 0 ∧ bf w 2 1 = 0 then if bf x 0 3 = 0 then .ok (.lda (.ofNat 7 (bf w 17 7)) (.ofNat 5 (bf w 12 5)) (.ofNat 7 (bf w 5 7)) (.ofNat 2 (bf w 3 2)) (bf w 1 1 == 1) (.ofNat 3 (bf x 3 3)) (bf x 6 1 == 1)) else .error .lend else .error .field : DecodeResult) = _
  simp only [g 17 7 _ (by decide) rfl, g 12 5 _ (by decide) rfl, g 5 7 _ (by decide) rfl, g 3 2 _ (by decide) rfl,
    g 2 1 0 (by decide) rfl, g 1 1 _ (by decide) rfl, g 0 1 0 (by decide) rfl, h 6 1 _ (by decide) rfl,
    h 3 3 _ (by decide) rfl, h 0 3 0 (by decide) rfl, ofNat_toNat_mod, b2n_beq, reduceIte, and_self]

theorem stl (t : BitVec 7) (s : BitVec 5) (o : BitVec 7) (ac : BitVec 2) (ut : Bool) (uo : Bool) (scope : BitVec 3) (ext : Bool) :
    Statement (.stl t s o ac ut uo scope ext) := by
  refine fun _ => decodes_of_lend (k := 2) (op := 0x3C)
    (l := [(t.toNat, 7, 17), (s.toNat, 5, 12), (o.toNat, 7, 5), (ac.toNat, 2, 3), (b2n ut, 1, 2), (b2n uo, 1, 1)])
    (x := [(b2n ext, 1, 6), (scope.toNat, 3, 3)]) rfl rfl rfl (by decide) rfl rfl fun w x g h => ?_
  show (if bf w 0 1 = 0 then if bf x 0 3 = 0 then .ok (.stl (.ofNat 7 (bf w 17 7)) (.ofNat 5 (bf w 12 5)) (.ofNat 7 (bf w 5 7)) (.ofNat 2 (bf w 3 2)) (bf w 2 1 == 1) (bf w 1 1 == 1) (.ofNat 3 (bf x 3 3)) (bf x 6 1 == 1)) else .error .lend else .error .field : DecodeResult) = _
  simp only [g 17 7 _ (by decide) rfl, g 12 5 _ (by decide) rfl, g 5 7 _ (by decide) rfl, g 3 2 _ (by decide) rfl,
    g 2 1 _ (by decide) rfl, g 1 1 _ (by decide) rfl, g 0 1 0 (by decide) rfl, h 6 1 _ (by decide) rfl,
    h 3 3 _ (by decide) rfl, h 0 3 0 (by decide) rfl, ofNat_toNat_mod, b2n_beq, reduceIte]

theorem pref (dc : Bool) (s : BitVec 5) (o : BitVec 7) (ac : BitVec 2) (uo : Bool) (off : BitVec 7) :
    Statement (.pref dc s o ac uo off) := by
  refine fun _ => decodes_of_lend (k := 2) (op := 0x3D)
    (l := [(b2n dc, 1, 17), (s.toNat, 5, 12), (o.toNat, 7, 5), (ac.toNat, 2, 3), (b2n uo, 1, 1)])
    (x := [(off.toNat, 7, 0)]) rfl rfl rfl (by decide) rfl rfl fun w x g h => ?_
  show (if bf w 0 1 = 0 ∧ bf w 2 1 = 0 ∧ bf w 18 6 = 0 then .ok (.pref (bf w 17 1 == 1) (.ofNat 5 (bf w 12 5)) (.ofNat 7 (bf w 5 7)) (.ofNat 2 (bf w 3 2)) (bf w 1 1 == 1) (.ofNat 7 (bf x 0 7))) else .error .field : DecodeResult) = _
  simp only [g 18 6 0 (by decide) rfl, g 17 1 _ (by decide) rfl, g 12 5 _ (by decide) rfl,
    g 5 7 _ (by decide) rfl, g 3 2 _ (by decide) rfl, g 2 1 0 (by decide) rfl, g 1 1 _ (by decide) rfl,
    g 0 1 0 (by decide) rfl, h 0 7 _ (by decide) rfl, ofNat_toNat_mod, b2n_beq, reduceIte, and_self]

theorem wbr (s : BitVec 5) (n : BitVec 7) :
    Statement (.wbr s n) := by
  refine fun _ => decodes_of (k := 2) (op := 0x3E)
    (l := [(s.toNat, 5, 12), (n.toNat, 7, 5)])
    (x := []) rfl rfl rfl (by decide) rfl rfl fun w g => ?_
  show (if bf w 0 5 = 0 ∧ bf w 17 7 = 0 then if (0 : Nat) = 0 then .ok (.wbr (.ofNat 5 (bf w 12 5)) (.ofNat 7 (bf w 5 7))) else .error .lend else .error .field : DecodeResult) = _
  simp only [g 17 7 0 (by decide) rfl, g 12 5 _ (by decide) rfl, g 5 7 _ (by decide) rfl, g 0 5 0 (by decide) rfl,
    ofNat_toNat_mod, reduceIte, and_self]

theorem invr (s : BitVec 5) (n : BitVec 7) :
    Statement (.invr s n) := by
  refine fun _ => decodes_of (k := 2) (op := 0x3F)
    (l := [(s.toNat, 5, 12), (n.toNat, 7, 5)])
    (x := []) rfl rfl rfl (by decide) rfl rfl fun w g => ?_
  show (if bf w 0 5 = 0 ∧ bf w 17 7 = 0 then if (0 : Nat) = 0 then .ok (.invr (.ofNat 5 (bf w 12 5)) (.ofNat 7 (bf w 5 7))) else .error .lend else .error .field : DecodeResult) = _
  simp only [g 17 7 0 (by decide) rfl, g 12 5 _ (by decide) rfl, g 5 7 _ (by decide) rfl, g 0 5 0 (by decide) rfl,
    ofNat_toNat_mod, reduceIte, and_self]

theorem trace (t : BitVec 7) (s : BitVec 5) (o : BitVec 7) (flags : BitVec 3) :
    Statement (.trace t s o flags) := by
  refine fun _ => decodes_of_lend (k := 2) (op := 0x40)
    (l := [(t.toNat, 7, 17), (s.toNat, 5, 12), (o.toNat, 7, 5)])
    (x := [(flags.toNat, 3, 0)]) rfl rfl rfl (by decide) rfl rfl fun w x g h => ?_
  show (if bf w 0 5 = 0 then if bf x 3 4 = 0 then .ok (.trace (.ofNat 7 (bf w 17 7)) (.ofNat 5 (bf w 12 5)) (.ofNat 7 (bf w 5 7)) (.ofNat 3 (bf x 0 3))) else .error .lend else .error .field : DecodeResult) = _
  simp only [g 17 7 _ (by decide) rfl, g 12 5 _ (by decide) rfl, g 5 7 _ (by decide) rfl, g 0 5 0 (by decide) rfl,
    h 3 4 0 (by decide) rfl, h 0 3 _ (by decide) rfl, ofNat_toNat_mod, reduceIte]

theorem tracec (t : BitVec 7) (s : BitVec 5) (o : BitVec 7) (flags : BitVec 3) (h : BitVec 4) :
    Statement (.tracec t s o flags h) := by
  refine fun _ => decodes_of_lend (k := 2) (op := 0x41)
    (l := [(t.toNat, 7, 17), (s.toNat, 5, 12), (o.toNat, 7, 5)])
    (x := [(h.toNat, 4, 3), (flags.toNat, 3, 0)]) rfl rfl rfl (by decide) rfl rfl fun w x g h => ?_
  show (if bf w 0 5 = 0 then .ok (.tracec (.ofNat 7 (bf w 17 7)) (.ofNat 5 (bf w 12 5)) (.ofNat 7 (bf w 5 7)) (.ofNat 3 (bf x 0 3)) (.ofNat 4 (bf x 3 4))) else .error .field : DecodeResult) = _
  simp only [g 17 7 _ (by decide) rfl, g 12 5 _ (by decide) rfl, g 5 7 _ (by decide) rfl, g 0 5 0 (by decide) rfl,
    h 3 4 _ (by decide) rfl, h 0 3 _ (by decide) rfl, ofNat_toNat_mod, reduceIte]

theorem visq (t : BitVec 7) (s : BitVec 5) (o : BitVec 7) (uo : Bool) (n : BitVec 5) :
    Statement (.visq t s o uo n) := by
  refine fun _ => decodes_of_lend (k := 2) (op := 0x42)
    (l := [(t.toNat, 7, 17), (s.toNat, 5, 12), (o.toNat, 7, 5), (b2n uo, 1, 1)])
    (x := [(n.toNat, 5, 0)]) rfl rfl rfl (by decide) rfl rfl fun w x g h => ?_
  show (if bf w 0 1 = 0 ∧ bf w 2 3 = 0 then if bf x 5 2 = 0 then .ok (.visq (.ofNat 7 (bf w 17 7)) (.ofNat 5 (bf w 12 5)) (.ofNat 7 (bf w 5 7)) (bf w 1 1 == 1) (.ofNat 5 (bf x 0 5))) else .error .lend else .error .field : DecodeResult) = _
  simp only [g 17 7 _ (by decide) rfl, g 12 5 _ (by decide) rfl, g 5 7 _ (by decide) rfl, g 2 3 0 (by decide) rfl,
    g 1 1 _ (by decide) rfl, g 0 1 0 (by decide) rfl, h 5 2 0 (by decide) rfl, h 0 5 _ (by decide) rfl,
    ofNat_toNat_mod, b2n_beq, reduceIte, and_self]

theorem tsamp (t : BitVec 7) (s : BitVec 5) (o : BitVec 7) (flt : BitVec 2) (adr : BitVec 2) (lod : Bool) :
    Statement (.tsamp t s o flt adr lod) := by
  refine fun _ => decodes_of_lend (k := 2) (op := 0x43)
    (l := [(t.toNat, 7, 17), (s.toNat, 5, 12), (o.toNat, 7, 5)])
    (x := [(b2n lod, 1, 4), (adr.toNat, 2, 2), (flt.toNat, 2, 0)]) rfl rfl rfl (by decide) rfl rfl fun w x g h => ?_
  show (if bf w 0 5 = 0 then if bf x 5 2 = 0 then .ok (.tsamp (.ofNat 7 (bf w 17 7)) (.ofNat 5 (bf w 12 5)) (.ofNat 7 (bf w 5 7)) (.ofNat 2 (bf x 0 2)) (.ofNat 2 (bf x 2 2)) (bf x 4 1 == 1)) else .error .lend else .error .field : DecodeResult) = _
  simp only [g 17 7 _ (by decide) rfl, g 12 5 _ (by decide) rfl, g 5 7 _ (by decide) rfl, g 0 5 0 (by decide) rfl,
    h 5 2 0 (by decide) rfl, h 4 1 _ (by decide) rfl, h 2 2 _ (by decide) rfl, h 0 2 _ (by decide) rfl,
    ofNat_toNat_mod, b2n_beq, reduceIte]

theorem tsize (t : BitVec 7) (s : BitVec 5) (l : BitVec 4) :
    Statement (.tsize t s l) := by
  refine fun _ => decodes_of_lend (k := 2) (op := 0x44)
    (l := [(t.toNat, 7, 17), (s.toNat, 5, 12)])
    (x := [(l.toNat, 4, 0)]) rfl rfl rfl (by decide) rfl rfl fun w x g h => ?_
  show (if bf w 0 12 = 0 then if bf x 4 3 = 0 then .ok (.tsize (.ofNat 7 (bf w 17 7)) (.ofNat 5 (bf w 12 5)) (.ofNat 4 (bf x 0 4))) else .error .lend else .error .field : DecodeResult) = _
  simp only [g 17 7 _ (by decide) rfl, g 12 5 _ (by decide) rfl, g 0 12 0 (by decide) rfl,
    h 4 3 0 (by decide) rfl, h 0 4 _ (by decide) rfl, ofNat_toNat_mod, reduceIte]

theorem mzero (m : Bool) (k : BitVec 2) :
    Statement (.mzero m k) := by
  refine fun _ => decodes_of (k := 3) (op := 0x01)
    (l := [(b2n m, 1, 23), (k.toNat, 2, 0)])
    (x := []) rfl rfl rfl (by decide) rfl rfl fun w g => ?_
  show (if bf w 2 21 = 0 then if (0 : Nat) = 0 then .ok (.mzero (bf w 23 1 == 1) (.ofNat 2 (bf w 0 2))) else .error .lend else .error .field : DecodeResult) = _
  simp only [g 23 1 _ (by decide) rfl, g 2 21 0 (by decide) rfl, g 0 2 _ (by decide) rfl, ofNat_toNat_mod,
    b2n_beq, reduceIte]

theorem mchb (m : Bool) (ord : Bool) (k : BitVec 2) :
    Statement (.mchb m ord k) := by
  refine fun _ => decodes_of (k := 3) (op := 0x02)
    (l := [(b2n m, 1, 23), (b2n ord, 1, 2), (k.toNat, 2, 0)])
    (x := []) rfl rfl rfl (by decide) rfl rfl fun w g => ?_
  show (if bf w 3 20 = 0 then if (0 : Nat) = 0 then .ok (.mchb (bf w 23 1 == 1) (bf w 2 1 == 1) (.ofNat 2 (bf w 0 2))) else .error .lend else .error .field : DecodeResult) = _
  simp only [g 23 1 _ (by decide) rfl, g 3 20 0 (by decide) rfl, g 2 1 _ (by decide) rfl, g 0 2 _ (by decide) rfl,
    ofNat_toNat_mod, b2n_beq, reduceIte]

theorem mche (m : Bool) (k : BitVec 2) :
    Statement (.mche m k) := by
  refine fun _ => decodes_of (k := 3) (op := 0x03)
    (l := [(b2n m, 1, 23), (k.toNat, 2, 0)])
    (x := []) rfl rfl rfl (by decide) rfl rfl fun w g => ?_
  show (if bf w 2 21 = 0 then if (0 : Nat) = 0 then .ok (.mche (bf w 23 1 == 1) (.ofNat 2 (bf w 0 2))) else .error .lend else .error .field : DecodeResult) = _
  simp only [g 23 1 _ (by decide) rfl, g 2 21 0 (by decide) rfl, g 0 2 _ (by decide) rfl, ofNat_toNat_mod,
    b2n_beq, reduceIte]

theorem mma (m : Bool) (a : BitVec 5) (b : BitVec 5) (c : BitVec 5) (fmt : BitVec 4) (k : BitVec 2) :
    Statement (.mma m a b c fmt k) := by
  refine fun _ => decodes_of (k := 3) (op := 0x04)
    (l := [(b2n m, 1, 23), (a.toNat, 5, 18), (b.toNat, 5, 13), (c.toNat, 5, 8), (fmt.toNat, 4, 2), (k.toNat, 2, 0)])
    (x := []) rfl rfl rfl (by decide) rfl rfl fun w g => ?_
  show (if bf w 6 2 = 0 then if (0 : Nat) = 0 then .ok (.mma (bf w 23 1 == 1) (.ofNat 5 (bf w 18 5)) (.ofNat 5 (bf w 13 5)) (.ofNat 5 (bf w 8 5)) (.ofNat 4 (bf w 2 4)) (.ofNat 2 (bf w 0 2))) else .error .lend else .error .field : DecodeResult) = _
  simp only [g 23 1 _ (by decide) rfl, g 18 5 _ (by decide) rfl, g 13 5 _ (by decide) rfl,
    g 8 5 _ (by decide) rfl, g 6 2 0 (by decide) rfl, g 2 4 _ (by decide) rfl, g 0 2 _ (by decide) rfl,
    ofNat_toNat_mod, b2n_beq, reduceIte]

theorem macl (m : Bool) (d : BitVec 7) (g : BitVec 4) (k : BitVec 2) :
    Statement (.macl m d g k) := by
  refine fun _ => decodes_of (k := 3) (op := 0x05)
    (l := [(b2n m, 1, 23), (d.toNat, 7, 16), (g.toNat, 4, 2), (k.toNat, 2, 0)])
    (x := []) rfl rfl rfl (by decide) rfl rfl fun w g => ?_
  show (if bf w 6 10 = 0 then if (0 : Nat) = 0 then .ok (.macl (bf w 23 1 == 1) (.ofNat 7 (bf w 16 7)) (.ofNat 4 (bf w 2 4)) (.ofNat 2 (bf w 0 2))) else .error .lend else .error .field : DecodeResult) = _
  simp only [g 23 1 _ (by decide) rfl, g 16 7 _ (by decide) rfl, g 6 10 0 (by decide) rfl,
    g 2 4 _ (by decide) rfl, g 0 2 _ (by decide) rfl, ofNat_toNat_mod, b2n_beq, reduceIte]

theorem mdst (m : Bool) (a : BitVec 5) (b : BitVec 5) (mem : Bool) (cvt : BitVec 2) (op : BitVec 2) (k : BitVec 2) :
    Statement (.mdst m a b mem cvt op k) := by
  refine fun _ => decodes_of (k := 3) (op := 0x06)
    (l := [(b2n m, 1, 23), (a.toNat, 5, 18), (b.toNat, 5, 13), (b2n mem, 1, 6), (cvt.toNat, 2, 4), (op.toNat, 2, 2), (k.toNat, 2, 0)])
    (x := []) rfl rfl rfl (by decide) rfl rfl fun w g => ?_
  show (if bf w 7 6 = 0 then if (0 : Nat) = 0 then .ok (.mdst (bf w 23 1 == 1) (.ofNat 5 (bf w 18 5)) (.ofNat 5 (bf w 13 5)) (bf w 6 1 == 1) (.ofNat 2 (bf w 4 2)) (.ofNat 2 (bf w 2 2)) (.ofNat 2 (bf w 0 2))) else .error .lend else .error .field : DecodeResult) = _
  simp only [g 23 1 _ (by decide) rfl, g 18 5 _ (by decide) rfl, g 13 5 _ (by decide) rfl,
    g 7 6 0 (by decide) rfl, g 6 1 _ (by decide) rfl, g 4 2 _ (by decide) rfl, g 2 2 _ (by decide) rfl,
    g 0 2 _ (by decide) rfl, ofNat_toNat_mod, b2n_beq, reduceIte]

theorem mstg (m : Bool) (a : BitVec 5) (b : BitVec 5) (c : BitVec 5) (fmt : BitVec 4) (k : BitVec 2) :
    Statement (.mstg m a b c fmt k) := by
  refine fun _ => decodes_of (k := 3) (op := 0x07)
    (l := [(b2n m, 1, 23), (a.toNat, 5, 18), (b.toNat, 5, 13), (c.toNat, 5, 8), (fmt.toNat, 4, 2), (k.toNat, 2, 0)])
    (x := []) rfl rfl rfl (by decide) rfl rfl fun w g => ?_
  show (if bf w 6 2 = 0 then if (0 : Nat) = 0 then .ok (.mstg (bf w 23 1 == 1) (.ofNat 5 (bf w 18 5)) (.ofNat 5 (bf w 13 5)) (.ofNat 5 (bf w 8 5)) (.ofNat 4 (bf w 2 4)) (.ofNat 2 (bf w 0 2))) else .error .lend else .error .field : DecodeResult) = _
  simp only [g 23 1 _ (by decide) rfl, g 18 5 _ (by decide) rfl, g 13 5 _ (by decide) rfl,
    g 8 5 _ (by decide) rfl, g 6 2 0 (by decide) rfl, g 2 4 _ (by decide) rfl, g 0 2 _ (by decide) rfl,
    ofNat_toNat_mod, b2n_beq, reduceIte]

theorem shp (m : Bool) (a : BitVec 5) (n : BitVec 3) :
    Statement (.shp m a n) := by
  refine fun _ => decodes_of (k := 3) (op := 0x10)
    (l := [(b2n m, 1, 23), (a.toNat, 5, 18), (n.toNat, 3, 0)])
    (x := []) rfl rfl rfl (by decide) rfl rfl fun w g => ?_
  show (if bf w 3 15 = 0 then if (0 : Nat) = 0 then .ok (.shp (bf w 23 1 == 1) (.ofNat 5 (bf w 18 5)) (.ofNat 3 (bf w 0 3))) else .error .lend else .error .field : DecodeResult) = _
  simp only [g 23 1 _ (by decide) rfl, g 18 5 _ (by decide) rfl, g 3 15 0 (by decide) rfl,
    g 0 3 _ (by decide) rfl, ofNat_toNat_mod, b2n_beq, reduceIte]

theorem cpy (m : Bool) (n : BitVec 3) :
    Statement (.cpy m n) := by
  refine fun _ => decodes_of (k := 3) (op := 0x11)
    (l := [(b2n m, 1, 23), (n.toNat, 3, 0)])
    (x := []) rfl rfl rfl (by decide) rfl rfl fun w g => ?_
  show (if bf w 3 20 = 0 then if (0 : Nat) = 0 then .ok (.cpy (bf w 23 1 == 1) (.ofNat 3 (bf w 0 3))) else .error .lend else .error .field : DecodeResult) = _
  simp only [g 23 1 _ (by decide) rfl, g 3 20 0 (by decide) rfl, g 0 3 _ (by decide) rfl, ofNat_toNat_mod,
    b2n_beq, reduceIte]

theorem cpym (m : Bool) (n : BitVec 3) :
    Statement (.cpym m n) := by
  refine fun _ => decodes_of (k := 3) (op := 0x12)
    (l := [(b2n m, 1, 23), (n.toNat, 3, 0)])
    (x := []) rfl rfl rfl (by decide) rfl rfl fun w g => ?_
  show (if bf w 3 20 = 0 then if (0 : Nat) = 0 then .ok (.cpym (bf w 23 1 == 1) (.ofNat 3 (bf w 0 3))) else .error .lend else .error .field : DecodeResult) = _
  simp only [g 23 1 _ (by decide) rfl, g 3 20 0 (by decide) rfl, g 0 3 _ (by decide) rfl, ofNat_toNat_mod,
    b2n_beq, reduceIte]

theorem owng (m : Bool) (a : BitVec 5) :
    Statement (.owng m a) := by
  refine fun _ => decodes_of (k := 3) (op := 0x13)
    (l := [(b2n m, 1, 23), (a.toNat, 5, 18)])
    (x := []) rfl rfl rfl (by decide) rfl rfl fun w g => ?_
  show (if bf w 0 18 = 0 then if (0 : Nat) = 0 then .ok (.owng (bf w 23 1 == 1) (.ofNat 5 (bf w 18 5))) else .error .lend else .error .field : DecodeResult) = _
  simp only [g 23 1 _ (by decide) rfl, g 18 5 _ (by decide) rfl, g 0 18 0 (by decide) rfl, ofNat_toNat_mod,
    b2n_beq, reduceIte]

theorem ownt (m : Bool) (a : BitVec 5) :
    Statement (.ownt m a) := by
  refine fun _ => decodes_of (k := 3) (op := 0x14)
    (l := [(b2n m, 1, 23), (a.toNat, 5, 18)])
    (x := []) rfl rfl rfl (by decide) rfl rfl fun w g => ?_
  show (if bf w 0 18 = 0 then if (0 : Nat) = 0 then .ok (.ownt (bf w 23 1 == 1) (.ofNat 5 (bf w 18 5))) else .error .lend else .error .field : DecodeResult) = _
  simp only [g 23 1 _ (by decide) rfl, g 18 5 _ (by decide) rfl, g 0 18 0 (by decide) rfl, ofNat_toNat_mod,
    b2n_beq, reduceIte]

theorem qcfg (m : Bool) (a : BitVec 5) (b : BitVec 5) (q : BitVec 4) :
    Statement (.qcfg m a b q) := by
  refine fun _ => decodes_of (k := 3) (op := 0x20)
    (l := [(b2n m, 1, 23), (a.toNat, 5, 18), (b.toNat, 5, 13), (q.toNat, 4, 0)])
    (x := []) rfl rfl rfl (by decide) rfl rfl fun w g => ?_
  show (if bf w 4 9 = 0 then if (0 : Nat) = 0 then .ok (.qcfg (bf w 23 1 == 1) (.ofNat 5 (bf w 18 5)) (.ofNat 5 (bf w 13 5)) (.ofNat 4 (bf w 0 4))) else .error .lend else .error .field : DecodeResult) = _
  simp only [g 23 1 _ (by decide) rfl, g 18 5 _ (by decide) rfl, g 13 5 _ (by decide) rfl,
    g 4 9 0 (by decide) rfl, g 0 4 _ (by decide) rfl, ofNat_toNat_mod, b2n_beq, reduceIte]

theorem qpush (m : Bool) (a : BitVec 5) (q : BitVec 4) :
    Statement (.qpush m a q) := by
  refine fun _ => decodes_of (k := 3) (op := 0x21)
    (l := [(b2n m, 1, 23), (a.toNat, 5, 18), (q.toNat, 4, 0)])
    (x := []) rfl rfl rfl (by decide) rfl rfl fun w g => ?_
  show (if bf w 4 14 = 0 then if (0 : Nat) = 0 then .ok (.qpush (bf w 23 1 == 1) (.ofNat 5 (bf w 18 5)) (.ofNat 4 (bf w 0 4))) else .error .lend else .error .field : DecodeResult) = _
  simp only [g 23 1 _ (by decide) rfl, g 18 5 _ (by decide) rfl, g 4 14 0 (by decide) rfl,
    g 0 4 _ (by decide) rfl, ofNat_toNat_mod, b2n_beq, reduceIte]

theorem qpop (m : Bool) (d : BitVec 7) (q : BitVec 4) :
    Statement (.qpop m d q) := by
  refine fun _ => decodes_of (k := 3) (op := 0x22)
    (l := [(b2n m, 1, 23), (d.toNat, 7, 16), (q.toNat, 4, 0)])
    (x := []) rfl rfl rfl (by decide) rfl rfl fun w g => ?_
  show (if bf w 4 12 = 0 then if (0 : Nat) = 0 then .ok (.qpop (bf w 23 1 == 1) (.ofNat 7 (bf w 16 7)) (.ofNat 4 (bf w 0 4))) else .error .lend else .error .field : DecodeResult) = _
  simp only [g 23 1 _ (by decide) rfl, g 16 7 _ (by decide) rfl, g 4 12 0 (by decide) rfl,
    g 0 4 _ (by decide) rfl, ofNat_toNat_mod, b2n_beq, reduceIte]

theorem qtry (m : Bool) (d : BitVec 7) (q : BitVec 4) :
    Statement (.qtry m d q) := by
  refine fun _ => decodes_of (k := 3) (op := 0x23)
    (l := [(b2n m, 1, 23), (d.toNat, 7, 16), (q.toNat, 4, 0)])
    (x := []) rfl rfl rfl (by decide) rfl rfl fun w g => ?_
  show (if bf w 4 12 = 0 then if (0 : Nat) = 0 then .ok (.qtry (bf w 23 1 == 1) (.ofNat 7 (bf w 16 7)) (.ofNat 4 (bf w 0 4))) else .error .lend else .error .field : DecodeResult) = _
  simp only [g 23 1 _ (by decide) rfl, g 16 7 _ (by decide) rfl, g 4 12 0 (by decide) rfl,
    g 0 4 _ (by decide) rfl, ofNat_toNat_mod, b2n_beq, reduceIte]

theorem tsub (m : Bool) (a : BitVec 5) :
    Statement (.tsub m a) := by
  refine fun _ => decodes_of (k := 3) (op := 0x30)
    (l := [(b2n m, 1, 23), (a.toNat, 5, 18)])
    (x := []) rfl rfl rfl (by decide) rfl rfl fun w g => ?_
  show (if bf w 0 18 = 0 then if (0 : Nat) = 0 then .ok (.tsub (bf w 23 1 == 1) (.ofNat 5 (bf w 18 5))) else .error .lend else .error .field : DecodeResult) = _
  simp only [g 23 1 _ (by decide) rfl, g 18 5 _ (by decide) rfl, g 0 18 0 (by decide) rfl, ofNat_toNat_mod,
    b2n_beq, reduceIte]

theorem tdep (m : Bool) (a : BitVec 5) :
    Statement (.tdep m a) := by
  refine fun _ => decodes_of (k := 3) (op := 0x31)
    (l := [(b2n m, 1, 23), (a.toNat, 5, 18)])
    (x := []) rfl rfl rfl (by decide) rfl rfl fun w g => ?_
  show (if bf w 0 18 = 0 then if (0 : Nat) = 0 then .ok (.tdep (bf w 23 1 == 1) (.ofNat 5 (bf w 18 5))) else .error .lend else .error .field : DecodeResult) = _
  simp only [g 23 1 _ (by decide) rfl, g 18 5 _ (by decide) rfl, g 0 18 0 (by decide) rfl, ofNat_toNat_mod,
    b2n_beq, reduceIte]

theorem emit (m : Bool) (a : BitVec 5) (i : BitVec 4) :
    Statement (.emit m a i) := by
  refine fun _ => decodes_of (k := 3) (op := 0x32)
    (l := [(b2n m, 1, 23), (a.toNat, 5, 18), (i.toNat, 4, 0)])
    (x := []) rfl rfl rfl (by decide) rfl rfl fun w g => ?_
  show (if bf w 4 14 = 0 then if (0 : Nat) = 0 then .ok (.emit (bf w 23 1 == 1) (.ofNat 5 (bf w 18 5)) (.ofNat 4 (bf w 0 4))) else .error .lend else .error .field : DecodeResult) = _
  simp only [g 23 1 _ (by decide) rfl, g 18 5 _ (by decide) rfl, g 4 14 0 (by decide) rfl,
    g 0 4 _ (by decide) rfl, ofNat_toNat_mod, b2n_beq, reduceIte]

theorem cont (m : Bool) (a : BitVec 5) (b : BitVec 5) (k : BitVec 2) :
    Statement (.cont m a b k) := by
  refine fun _ => decodes_of (k := 3) (op := 0x33)
    (l := [(b2n m, 1, 23), (a.toNat, 5, 18), (b.toNat, 5, 13), (k.toNat, 2, 0)])
    (x := []) rfl rfl rfl (by decide) rfl rfl fun w g => ?_
  show (if bf w 2 11 = 0 then if (0 : Nat) = 0 then .ok (.cont (bf w 23 1 == 1) (.ofNat 5 (bf w 18 5)) (.ofNat 5 (bf w 13 5)) (.ofNat 2 (bf w 0 2))) else .error .lend else .error .field : DecodeResult) = _
  simp only [g 23 1 _ (by decide) rfl, g 18 5 _ (by decide) rfl, g 13 5 _ (by decide) rfl,
    g 2 11 0 (by decide) rfl, g 0 2 _ (by decide) rfl, ofNat_toNat_mod, b2n_beq, reduceIte]

theorem keyrel (m : Bool) (a : BitVec 5) :
    Statement (.keyrel m a) := by
  refine fun _ => decodes_of (k := 3) (op := 0x34)
    (l := [(b2n m, 1, 23), (a.toNat, 5, 18)])
    (x := []) rfl rfl rfl (by decide) rfl rfl fun w g => ?_
  show (if bf w 0 18 = 0 then if (0 : Nat) = 0 then .ok (.keyrel (bf w 23 1 == 1) (.ofNat 5 (bf w 18 5))) else .error .lend else .error .field : DecodeResult) = _
  simp only [g 23 1 _ (by decide) rfl, g 18 5 _ (by decide) rfl, g 0 18 0 (by decide) rfl, ofNat_toNat_mod,
    b2n_beq, reduceIte]

theorem qsub (m : Bool) (d : BitVec 7) (a : BitVec 5) (b : BitVec 5) :
    Statement (.qsub m d a b) := by
  refine fun _ => decodes_of (k := 3) (op := 0x35)
    (l := [(b2n m, 1, 23), (d.toNat, 7, 16), (a.toNat, 5, 11), (b.toNat, 5, 6)])
    (x := []) rfl rfl rfl (by decide) rfl rfl fun w g => ?_
  show (if bf w 0 6 = 0 then if (0 : Nat) = 0 then .ok (.qsub (bf w 23 1 == 1) (.ofNat 7 (bf w 16 7)) (.ofNat 5 (bf w 11 5)) (.ofNat 5 (bf w 6 5))) else .error .lend else .error .field : DecodeResult) = _
  simp only [g 23 1 _ (by decide) rfl, g 16 7 _ (by decide) rfl, g 11 5 _ (by decide) rfl,
    g 6 5 _ (by decide) rfl, g 0 6 0 (by decide) rfl, ofNat_toNat_mod, b2n_beq, reduceIte]

theorem cred (m : Bool) (a : BitVec 5) (b : BitVec 5) (c : BitVec 5) (o : BitVec 3) (n : BitVec 3) :
    Statement (.cred m a b c o n) := by
  refine fun _ => decodes_of (k := 3) (op := 0x40)
    (l := [(b2n m, 1, 23), (a.toNat, 5, 18), (b.toNat, 5, 13), (c.toNat, 5, 8), (o.toNat, 3, 3), (n.toNat, 3, 0)])
    (x := []) rfl rfl rfl (by decide) rfl rfl fun w g => ?_
  show (if bf w 6 2 = 0 then if (0 : Nat) = 0 then .ok (.cred (bf w 23 1 == 1) (.ofNat 5 (bf w 18 5)) (.ofNat 5 (bf w 13 5)) (.ofNat 5 (bf w 8 5)) (.ofNat 3 (bf w 3 3)) (.ofNat 3 (bf w 0 3))) else .error .lend else .error .field : DecodeResult) = _
  simp only [g 23 1 _ (by decide) rfl, g 18 5 _ (by decide) rfl, g 13 5 _ (by decide) rfl,
    g 8 5 _ (by decide) rfl, g 6 2 0 (by decide) rfl, g 3 3 _ (by decide) rfl, g 0 3 _ (by decide) rfl,
    ofNat_toNat_mod, b2n_beq, reduceIte]

theorem cbc (m : Bool) (a : BitVec 5) (b : BitVec 5) (c : BitVec 5) (n : BitVec 3) :
    Statement (.cbc m a b c n) := by
  refine fun _ => decodes_of (k := 3) (op := 0x41)
    (l := [(b2n m, 1, 23), (a.toNat, 5, 18), (b.toNat, 5, 13), (c.toNat, 5, 8), (n.toNat, 3, 0)])
    (x := []) rfl rfl rfl (by decide) rfl rfl fun w g => ?_
  show (if bf w 3 5 = 0 then if (0 : Nat) = 0 then .ok (.cbc (bf w 23 1 == 1) (.ofNat 5 (bf w 18 5)) (.ofNat 5 (bf w 13 5)) (.ofNat 5 (bf w 8 5)) (.ofNat 3 (bf w 0 3))) else .error .lend else .error .field : DecodeResult) = _
  simp only [g 23 1 _ (by decide) rfl, g 18 5 _ (by decide) rfl, g 13 5 _ (by decide) rfl,
    g 8 5 _ (by decide) rfl, g 3 5 0 (by decide) rfl, g 0 3 _ (by decide) rfl, ofNat_toNat_mod, b2n_beq, reduceIte]

theorem cag (m : Bool) (a : BitVec 5) (b : BitVec 5) (c : BitVec 5) (n : BitVec 3) :
    Statement (.cag m a b c n) := by
  refine fun _ => decodes_of (k := 3) (op := 0x42)
    (l := [(b2n m, 1, 23), (a.toNat, 5, 18), (b.toNat, 5, 13), (c.toNat, 5, 8), (n.toNat, 3, 0)])
    (x := []) rfl rfl rfl (by decide) rfl rfl fun w g => ?_
  show (if bf w 3 5 = 0 then if (0 : Nat) = 0 then .ok (.cag (bf w 23 1 == 1) (.ofNat 5 (bf w 18 5)) (.ofNat 5 (bf w 13 5)) (.ofNat 5 (bf w 8 5)) (.ofNat 3 (bf w 0 3))) else .error .lend else .error .field : DecodeResult) = _
  simp only [g 23 1 _ (by decide) rfl, g 18 5 _ (by decide) rfl, g 13 5 _ (by decide) rfl,
    g 8 5 _ (by decide) rfl, g 3 5 0 (by decide) rfl, g 0 3 _ (by decide) rfl, ofNat_toNat_mod, b2n_beq, reduceIte]

theorem crs (m : Bool) (a : BitVec 5) (b : BitVec 5) (c : BitVec 5) (o : BitVec 3) (n : BitVec 3) :
    Statement (.crs m a b c o n) := by
  refine fun _ => decodes_of (k := 3) (op := 0x43)
    (l := [(b2n m, 1, 23), (a.toNat, 5, 18), (b.toNat, 5, 13), (c.toNat, 5, 8), (o.toNat, 3, 3), (n.toNat, 3, 0)])
    (x := []) rfl rfl rfl (by decide) rfl rfl fun w g => ?_
  show (if bf w 6 2 = 0 then if (0 : Nat) = 0 then .ok (.crs (bf w 23 1 == 1) (.ofNat 5 (bf w 18 5)) (.ofNat 5 (bf w 13 5)) (.ofNat 5 (bf w 8 5)) (.ofNat 3 (bf w 3 3)) (.ofNat 3 (bf w 0 3))) else .error .lend else .error .field : DecodeResult) = _
  simp only [g 23 1 _ (by decide) rfl, g 18 5 _ (by decide) rfl, g 13 5 _ (by decide) rfl,
    g 8 5 _ (by decide) rfl, g 6 2 0 (by decide) rfl, g 3 3 _ (by decide) rfl, g 0 3 _ (by decide) rfl,
    ofNat_toNat_mod, b2n_beq, reduceIte]

theorem coreIssueCycle (die : Nat) (core : Nat) : Statement (.coreIssueCycle die core) := fun h => nomatch h

theorem spillComplete (course : Nat) (v : Nat) : Statement (.spillComplete course v) := fun h => nomatch h

theorem fillComplete (course : Nat) (v : Nat) : Statement (.fillComplete course v) := fun h => nomatch h

theorem loadPerformed (course : Nat) (op : Nat) : Statement (.loadPerformed course op) := fun h => nomatch h

theorem storePerformed (course : Nat) (op : Nat) : Statement (.storePerformed course op) := fun h => nomatch h

theorem atomicPerformed (course : Nat) (op : Nat) : Statement (.atomicPerformed course op) := fun h => nomatch h

theorem faultRecordWrite (ctx : Nat) (fid : Nat) : Statement (.faultRecordWrite ctx fid) := fun h => nomatch h

theorem waitaWake (course : Nat) (lane : Nat) : Statement (.waitaWake course lane) := fun h => nomatch h

theorem waitaPoll (course : Nat) (lane : Nat) : Statement (.waitaPoll course lane) := fun h => nomatch h

theorem waitaTimeout (course : Nat) (lane : Nat) : Statement (.waitaTimeout course lane) := fun h => nomatch h

theorem preemptDeadlineExpiry (course : Nat) : Statement (.preemptDeadlineExpiry course) := fun h => nomatch h

theorem forcedSave (course : Nat) : Statement (.forcedSave course) := fun h => nomatch h

theorem courseResume (course : Nat) : Statement (.courseResume course) := fun h => nomatch h

theorem blockBind (die : Nat) (block : Nat) : Statement (.blockBind die block) := fun h => nomatch h

theorem blockAdmission (die : Nat) (core : Nat) : Statement (.blockAdmission die core) := fun h => nomatch h

theorem mmaComplete (die : Nat) (core : Nat) (k : Nat) : Statement (.mmaComplete die core k) := fun h => nomatch h

theorem mzeroComplete (die : Nat) (core : Nat) (k : Nat) : Statement (.mzeroComplete die core k) := fun h => nomatch h

theorem mcheComplete (die : Nat) (core : Nat) (k : Nat) : Statement (.mcheComplete die core k) := fun h => nomatch h

theorem mdstComplete (die : Nat) (core : Nat) (k : Nat) : Statement (.mdstComplete die core k) := fun h => nomatch h

theorem maclLanding (die : Nat) (core : Nat) (k : Nat) : Statement (.maclLanding die core k) := fun h => nomatch h

theorem copyStart (die : Nat) (core : Nat) (k : Nat) : Statement (.copyStart die core k) := fun h => nomatch h

theorem copyComplete (die : Nat) (core : Nat) (k : Nat) (target : Nat) : Statement (.copyComplete die core k target) := fun h => nomatch h

theorem stagingUnitArrival (die : Nat) (core : Nat) (k : Nat) : Statement (.stagingUnitArrival die core k) := fun h => nomatch h

theorem stagingUnitDrain (dir : Nat) (u : Nat) (target : Nat) : Statement (.stagingUnitDrain dir u target) := fun h => nomatch h

theorem collectiveStart (k : Nat) : Statement (.collectiveStart k) := fun h => nomatch h

theorem collectiveComplete (k : Nat) : Statement (.collectiveComplete k) := fun h => nomatch h

theorem taskGrant (task : Nat) : Statement (.taskGrant task) := fun h => nomatch h

theorem tdepDecrement (die : Nat) : Statement (.tdepDecrement die) := fun h => nomatch h

theorem keyrelEffect (die : Nat) (k : Nat) : Statement (.keyrelEffect die k) := fun h => nomatch h

theorem continuationWake (course : Nat) : Statement (.continuationWake course) := fun h => nomatch h

theorem graphBlockBind (die : Nat) (block : Nat) : Statement (.graphBlockBind die block) := fun h => nomatch h

theorem spireWindow (die : Nat) : Statement (.spireWindow die) := fun h => nomatch h

theorem waitPacketComplete (pkt : Nat) : Statement (.waitPacketComplete pkt) := fun h => nomatch h

theorem streamStart (pkt : Nat) (row : Nat) : Statement (.streamStart pkt row) := fun h => nomatch h

theorem quantumExpiry (block : Nat) : Statement (.quantumExpiry block) := fun h => nomatch h

theorem ageingStep (block : Nat) : Statement (.ageingStep block) := fun h => nomatch h

theorem watchdogFire (die : Nat) (ctx : Nat) : Statement (.watchdogFire die ctx) := fun h => nomatch h

theorem fixedFunctionRequestPerformed (course : Nat) (op : Nat) : Statement (.fixedFunctionRequestPerformed course op) := fun h => nomatch h

theorem scalarAccessPerformed (course : Nat) (op : Nat) : Statement (.scalarAccessPerformed course op) := fun h => nomatch h

theorem dispatcherResultWritten (course : Nat) : Statement (.dispatcherResultWritten course) := fun h => nomatch h

theorem rowSequencerIssue (die : Nat) (row : Nat) : Statement (.rowSequencerIssue die row) := fun h => nomatch h

theorem fairnessExpiry (course : Nat) : Statement (.fairnessExpiry course) := fun h => nomatch h

theorem resultLanding (course : Nat) (k : Nat) : Statement (.resultLanding course k) := fun h => nomatch h

theorem asyncTrapDelivery (course : Nat) : Statement (.asyncTrapDelivery course) := fun h => nomatch h

theorem portalWrite (ctx : Nat) (off : Nat) (bytes : List Byte) : Statement (.portalWrite ctx off bytes) := fun h => nomatch h

theorem queueCreate (ctx : Nat) (q : Nat) (k : Nat) (ring : DWord) : Statement (.queueCreate ctx q k ring) := fun h => nomatch h

theorem queueDestroy (ctx : Nat) (q : Nat) : Statement (.queueDestroy ctx q) := fun h => nomatch h

theorem bindRecordWrite (die : Nat) (slot : Nat) (w0 : DWord) (w1 : DWord) : Statement (.bindRecordWrite die slot w0 w1) := fun h => nomatch h

theorem ctxpdlWrite (die : Nat) (v : DWord) : Statement (.ctxpdlWrite die v) := fun h => nomatch h

theorem ktrepWrite (die : Nat) (v : DWord) : Statement (.ktrepWrite die v) := fun h => nomatch h

theorem tlbinvnWrite (v : DWord) : Statement (.tlbinvnWrite v) := fun h => nomatch h

theorem tlbinvWrite (v : DWord) : Statement (.tlbinvWrite v) := fun h => nomatch h

theorem fltrespRetry (ctx : Nat) (fid : BitVec 16) : Statement (.fltrespRetry ctx fid) := fun h => nomatch h

theorem fltrespFailUnmapped (ctx : Nat) (fid : BitVec 16) : Statement (.fltrespFailUnmapped ctx fid) := fun h => nomatch h

theorem fltrespFailPermission (ctx : Nat) (fid : BitVec 16) : Statement (.fltrespFailPermission ctx fid) := fun h => nomatch h

theorem govstepWrite (ctx : Nat) (v : DWord) : Statement (.govstepWrite ctx v) := fun h => nomatch h

theorem govdWrite (ctx : Nat) (v : DWord) : Statement (.govdWrite ctx v) := fun h => nomatch h

theorem registerWrite (reg : RegName) (v : DWord) : Statement (.registerWrite reg v) := fun h => nomatch h

theorem dieCacheWriteback (pa : Nat) (wr : Bool) : Statement (.dieCacheWriteback pa wr) := fun h => nomatch h

theorem hostBarAccess (wr : Bool) (off : Nat) (n : Nat) (bytes : List Byte) : Statement (.hostBarAccess wr off n bytes) := fun h => nomatch h

theorem pcieCompletion (req : Nat) (ok : Bool) (status : BitVec 8) (data : List Byte) : Statement (.pcieCompletion req ok status data) := fun h => nomatch h

theorem pcieRequestTimeout (req : Nat) : Statement (.pcieRequestTimeout req) := fun h => nomatch h

theorem softErrorCorrected (die : Nat) (src : SoftSrc) : Statement (.softErrorCorrected die src) := fun h => nomatch h

theorem uncorrectableError (course : Nat) (src : HweSrc) (addr : DWord) : Statement (.uncorrectableError course src addr) := fun h => nomatch h

theorem coreLoss (die : Nat) (core : Nat) : Statement (.coreLoss die core) := fun h => nomatch h

theorem mortarLaneFail (link : Nat) : Statement (.mortarLaneFail link) := fun h => nomatch h

theorem thermalStepUp (die : Nat) (sensor : Nat) (reading : BitVec 16) : Statement (.thermalStepUp die sensor reading) := fun h => nomatch h

theorem thermalStepDown (die : Nat) (reading : BitVec 16) : Statement (.thermalStepDown die reading) := fun h => nomatch h

theorem thermalStop (die : Nat) (sensor : Nat) (reading : BitVec 16) : Statement (.thermalStop die sensor reading) := fun h => nomatch h

theorem thermalResume (die : Nat) (reading : BitVec 16) : Statement (.thermalResume die reading) := fun h => nomatch h

theorem powerOn (a : List (List Byte)) (b : List (List Byte)) (ilv : Option Nat) : Statement (.powerOn a b ilv) := fun h => nomatch h

theorem negotiateAlgorithms (offered : List Byte) : Statement (.negotiateAlgorithms offered) := fun h => nomatch h

theorem getCertificate (slot : Nat) (off : Nat) (n : Nat) : Statement (.getCertificate slot off n) := fun h => nomatch h

theorem challenge (slot : Nat) (nonce : List Byte) : Statement (.challenge slot nonce) := fun h => nomatch h

theorem getMeasurements (idx : Nat) (nonce : List Byte) (sign : Bool) : Statement (.getMeasurements idx nonce sign) := fun h => nomatch h

theorem contextCreate (ctx : Nat) (cbase : DWord) : Statement (.contextCreate ctx cbase) := fun h => nomatch h

theorem contextReset (ctx : Nat) : Statement (.contextReset ctx) := fun h => nomatch h

theorem flitRead (f : Flit) : Statement (.flitRead f) := fun h => nomatch h

theorem flitWrite (f : Flit) : Statement (.flitWrite f) := fun h => nomatch h

theorem flitAtomic (f : Flit) : Statement (.flitAtomic f) := fun h => nomatch h

theorem flitReduce (f : Flit) : Statement (.flitReduce f) := fun h => nomatch h

theorem flitMessage (f : Flit) : Statement (.flitMessage f) := fun h => nomatch h

theorem flitResponse (f : Flit) : Statement (.flitResponse f) := fun h => nomatch h

theorem flitReceive (port : Nat) (bytes : List Byte) : Statement (.flitReceive port bytes) := fun h => nomatch h

theorem flitReplayTimeout (port : Nat) : Statement (.flitReplayTimeout port) := fun h => nomatch h

theorem linkTrainTimeout (port : Nat) : Statement (.linkTrainTimeout port) := fun h => nomatch h

theorem fabricRequestTimeout (tag : BitVec 16) : Statement (.fabricRequestTimeout tag) := fun h => nomatch h

theorem responseRetentionExpiry (src : BitVec 10) (tag : BitVec 16) : Statement (.responseRetentionExpiry src tag) := fun h => nomatch h

theorem linkTrained (port : Nat) (lanes : BitVec 8) : Statement (.linkTrained port lanes) := fun h => nomatch h

theorem unitFailure (kind : Nat) (die : Nat) (u : Nat) : Statement (.unitFailure kind die u) := fun h => nomatch h

theorem transportUnreachableTimeout (k : Nat) (member : Nat) : Statement (.transportUnreachableTimeout k member) := fun h => nomatch h

theorem nop :
    Statement (.nop) := by
  refine fun _ => decodes_of (k := 0) (op := 0x00)
    (l := [])
    (x := []) rfl rfl rfl (by decide) rfl rfl fun w g => ?_
  show (if bf w 0 24 = 0 then if (0 : Nat) = 0 then .ok (.nop) else .error .lend else .error .field : DecodeResult) = _
  simp only [g 0 24 0 (by decide) rfl, reduceIte]

theorem ret :
    Statement (.ret) := by
  refine fun _ => decodes_of (k := 0) (op := 0x07)
    (l := [])
    (x := []) rfl rfl rfl (by decide) rfl rfl fun w g => ?_
  show (if bf w 0 24 = 0 then if (0 : Nat) = 0 then .ok (.ret) else .error .lend else .error .field : DecodeResult) = _
  simp only [g 0 24 0 (by decide) rfl, reduceIte]

theorem yld :
    Statement (.yld) := by
  refine fun _ => decodes_of (k := 0) (op := 0x0C)
    (l := [])
    (x := []) rfl rfl rfl (by decide) rfl rfl fun w g => ?_
  show (if bf w 0 24 = 0 then if (0 : Nat) = 0 then .ok (.yld) else .error .lend else .error .field : DecodeResult) = _
  simp only [g 0 24 0 (by decide) rfl, reduceIte]

theorem exit :
    Statement (.exit) := by
  refine fun _ => decodes_of (k := 0) (op := 0x0D)
    (l := [])
    (x := []) rfl rfl rfl (by decide) rfl rfl fun w g => ?_
  show (if bf w 0 24 = 0 then if (0 : Nat) = 0 then .ok (.exit) else .error .lend else .error .field : DecodeResult) = _
  simp only [g 0 24 0 (by decide) rfl, reduceIte]

theorem eret :
    Statement (.eret) := by
  refine fun _ => decodes_of (k := 0) (op := 0x0F)
    (l := [])
    (x := []) rfl rfl rfl (by decide) rfl rfl fun w g => ?_
  show (if bf w 0 24 = 0 then if (0 : Nat) = 0 then .ok (.eret) else .error .lend else .error .field : DecodeResult) = _
  simp only [g 0 24 0 (by decide) rfl, reduceIte]

theorem pdone :
    Statement (.pdone) := by
  refine fun _ => decodes_of (k := 0) (op := 0x15)
    (l := [])
    (x := []) rfl rfl rfl (by decide) rfl rfl fun w g => ?_
  show (if bf w 0 24 = 0 then if (0 : Nat) = 0 then .ok (.pdone) else .error .lend else .error .field : DecodeResult) = _
  simp only [g 0 24 0 (by decide) rfl, reduceIte]

theorem tlbinvDone : Statement (.tlbinvDone) := fun h => nomatch h

theorem svnFuseRaise : Statement (.svnFuseRaise) := fun h => nomatch h

theorem getVersion : Statement (.getVersion) := fun h => nomatch h

theorem getCapabilities : Statement (.getCapabilities) := fun h => nomatch h

theorem getDigests : Statement (.getDigests) := fun h => nomatch h

theorem powerLoss : Statement (.powerLoss) := fun h => nomatch h

end Sys2Proof.Laws.Encodes
end

