-- ==== Sys2Proof/Laws/Release.lean ====
section
/-! SUPPORT. What the releases of an instruction do (R51, R62). -/

namespace Sys2Proof.Machine

/-! ## Releases (R51) -/

/-- An entry that has been released in some lanes is unmapped or live in none of them. -/
theorem VEntry.release_live (e : VEntry) (m : Mask) :
    (e.release m).st = .unmapped ∨ ∀ j, Mask.has m j = true → Mask.has (e.release m).live j = false := by
  unfold VEntry.release
  split
  · rename_i h; exact .inl (by simpa using h)
  · split
    · split
      · exact .inr fun j _ => by simp [Mask.has]
      · exact .inl rfl
    · refine .inr fun j hj => ?_
      have hj' : m.getLsbD j = true := hj
      show (e.live &&& ~~~m).getLsbD j = false
      simp [hj']

/-- A further release undoes none. -/
theorem VEntry.release_keeps {e : VEntry} {m : Mask} (k : Mask)
    (h : e.st = .unmapped ∨ ∀ j, Mask.has m j = true → Mask.has e.live j = false) :
    (e.release k).st = .unmapped ∨ ∀ j, Mask.has m j = true → Mask.has (e.release k).live j = false := by
  unfold VEntry.release
  split
  · exact h
  · rename_i hu
    rcases h with h | h
    · exact absurd (by simp [h]) hu
    · split
      · split
        · exact .inr fun j _ => by simp [Mask.has]
        · exact .inl rfl
      · refine .inr fun j hj => ?_
        have := h j hj
        have h' : e.live.getLsbD j = false := this
        show (e.live &&& ~~~k).getLsbD j = false
        simp [h']

/-- A release of one register releases it, and keeps every other release. -/
theorem State.releaseAt_released {s : State} {x : Course} (hx : s.course? s.iss.course = some x) (v : Nat) (m : Mask) :
    ∃ y, (s.releaseAt s.iss.course v m s.iss.mark).course? s.iss.course = some y ∧ Released s y v m ∧
      ∀ u k, Released s x u k → Released s y u k := by
  unfold State.releaseAt
  dsimp only
  rw [State.course_of_some hx]
  split
  · rename_i h; subst h
    exact ⟨x, hx, .inr (.inr fun j hj => by simp [Mask.has] at hj), fun _ _ h => h⟩
  · split
    · rename_i h
      have hx' : s.fresh.2.course? s.iss.course = some x := hx
      have mem : ∀ f ∈ x.flights, ∀ g, f ∈ (x.flights.takeWhile fun g => decide (g.id < s.iss.mark)) ++
          g :: x.flights.dropWhile fun g => decide (g.id < s.iss.mark) := fun f hf g => by
        rcases mem_takeWhile_or_dropWhile (fun g : Flight => decide (g.id < s.iss.mark)) hf with h | h
        · exact List.mem_append_left _ h
        · exact List.mem_append_right _ (List.mem_cons_of_mem _ h)
      refine ⟨_, State.course?_onCourse_self hx' _, .inl ⟨_, List.mem_append_right _ List.mem_cons_self, rfl, rfl, rfl, ?_⟩, ?_⟩
      · obtain ⟨e, he, hp⟩ := List.any_eq_true.1 h
        simp only [Bool.and_eq_true, beq_iff_eq, decide_eq_true_eq] at hp
        exact ⟨e, mem e he _, hp.1, hp.2⟩
      · rintro u k (⟨g, h1, h2, h3, h4, e, h5, h6⟩ | h)
        · exact .inl ⟨g, mem g h1 _, h2, h3, h4, e, mem e h5 _, h6⟩
        · exact .inr h
    · refine ⟨_, State.course?_onCourse_self hx _, .inr ?_, ?_⟩
      · by_cases hv : v < x.v.length
        · have : ({ x with v := modAt v (fun e => e.release m) x.v } : Course).ve v = (x.ve v).release m := getD_modAt_self hv _ _
          rw [this]; exact VEntry.release_live _ _
        · refine .inl ?_
          simp only [Course.ve, List.getD_eq_getElem?_getD]
          rw [List.getElem?_eq_none (by simp; omega)]
          rfl
      · rintro u k (h | h)
        · exact .inl h
        · refine .inr ?_
          by_cases hu : u = v
          · subst hu
            by_cases hv : u < x.v.length
            · have : ({ x with v := modAt u (fun e => e.release m) x.v } : Course).ve u = (x.ve u).release m := getD_modAt_self hv _ _
              rw [this]; exact VEntry.release_keeps m h
            · refine .inl ?_
              simp only [Course.ve, List.getD_eq_getElem?_getD]
              rw [List.getElem?_eq_none (by simp; omega)]
              rfl
          · have : ({ x with v := modAt v (fun e => e.release m) x.v } : Course).ve u = x.ve u := getD_modAt_ne hu _ _ _
            rw [this]; exact h

theorem Released.of_iss {s t : State} (h : t.iss.mark = s.iss.mark) {y : Course} {v : Nat} {m : Mask} :
    Released t y v m ↔ Released s y v m := by
  unfold Released; rw [h]

@[simp] theorem State.releaseAt_iss (s : State) (c v : Nat) (m : Mask) (n : Nat) : (s.releaseAt c v m n).iss = s.iss := by
  unfold State.releaseAt
  dsimp only
  split
  · rfl
  · split
    · rw [State.onCourse_frame]; rfl
    · rw [State.onCourse_frame]

/-- Releases in turn: each register is released, and no release is undone. -/
theorem State.releaseAll_released (c mark : Nat) (m : Mask) : ∀ (l : List Nat) (s : State) (x : Course), s.iss.course = c →
    s.iss.mark = mark → s.course? c = some x →
    ∃ y, (l.foldl (fun s v => s.releaseAt s.iss.course v m s.iss.mark) s).course? c = some y ∧
      (∀ v ∈ l, Released s y v m) ∧ ∀ u k, Released s x u k → Released s y u k := by
  intro l
  induction l with
  | nil => exact fun s x _ _ h => ⟨x, h, by simp, fun _ _ h => h⟩
  | cons v l ih =>
    intro s x hc hm hx
    subst hc
    obtain ⟨y, h1, h2, h3⟩ := State.releaseAt_released hx v m
    obtain ⟨z, k1, k2, k3⟩ := ih (s.releaseAt s.iss.course v m s.iss.mark) y (by simp) (by simp [hm]) h1
    have e : (s.releaseAt s.iss.course v m s.iss.mark).iss.mark = s.iss.mark := by simp
    refine ⟨z, k1, fun u hu => ?_, fun u k h => ?_⟩
    · rcases List.mem_cons.1 hu with rfl | hu
      · exact (Released.of_iss e).1 (k3 _ _ ((Released.of_iss e).2 h2))
      · exact (Released.of_iss e).1 (k2 u hu)
    · exact (Released.of_iss e).1 (k3 _ _ ((Released.of_iss e).2 (h3 u k h)))

/-- The releases of an instruction release the registers whose last-use bit it sets (R51). -/
theorem State.releases_released {s : State} {x : Course} (hx : s.course? s.iss.course = some x) (i : Instr) :
    ∃ y, (s.releases i).course? s.iss.course = some y ∧ ∀ v ∈ lastUses i, Released s y v (s.iss.mask (profile i).slot) := by
  obtain ⟨y, h1, h2, -⟩ := State.releaseAll_released s.iss.course s.iss.mark (s.iss.mask (profile i).slot)
    (lastUses i ++ (profile i).frees.map BitVec.toNat) s x rfl rfl hx
  exact ⟨y, h1, fun v hv => h2 v (List.mem_append_left _ hv)⟩

end Sys2Proof.Machine
end

