-- ==== Sys2Proof/Tests/Slice0.lean ====
section
/-! SUPPORT. Small tests: words of the manual decode to the instructions they stand for, fields that a row does not
allow are refused, single steps give what the manual's tables say, and for every statement with hypotheses a state and
operands that meet them. -/

namespace Sys2Proof.Tests

open Sys2Proof Sys2Proof.Machine

/-! ## Decoding: words written out from the encodings of R106 and R112 to R115, fields from the highest bit down -/

/-- op 0x01, disp21 = 2: the example of a branch two bundles on. -/
theorem test_decode_bra : decodeSlot 0 0b00000001_000_000000000000000000010#32 0 = .ok (.bra 2) := by rfl
theorem test_decode_brx : decodeSlot 0 0b00000100_00000_0001100_1_00000000000#32 0 = .ok (.brx 12 true) := by rfl
theorem test_decode_mfs : decodeSlot 0 0b00010001_00011_0000000000_000010110#32 0 = .ok (.mfs 3 0x16) := by rfl
theorem test_decode_sadd : decodeSlot 0 0b00100000_00001_00010_00011_000000000#32 0 = .ok (.sadd 1 2 3) := by rfl
theorem test_decode_sshl_imm : decodeSlot 0 0b00100111_00001_00010_00000_100_111111#32 0 = .ok (.sshlImm 1 2 63) := by rfl
theorem test_decode_vtos : decodeSlot 0 0b00110011_00011_0001000_1_000101_00000#32 0 = .ok (.vtos 3 8 true 5) := by rfl
theorem test_decode_iaddi : decodeSlot 1 0b00011111_0000010_0000011_000000101_1#32 0 = .ok (.iaddi 2 3 true 5) := by rfl
/-- The lend extends the nine bits of IADDI to sixteen (R105). -/
theorem test_decode_iaddi_lend : decodeSlot 1 0b00011111_0000010_0000011_000000101_1#32 0x7F =
    .ok (.iaddi 2 3 true 0xFE05) := by rfl
theorem test_decode_ffma : decodeSlot 1 0b01000011_0000001_0000010_0000011_0_1_0#32 0b000100_1 =
    .ok (.ffma 1 2 3 false true 4 true) := by rfl
theorem test_decode_fcvt : decodeSlot 1 0b01010101_0000001_0000010_1_001_1000_0_0#32 0 = .ok (.fcvt 1 2 true 1 8 false) := by
  rfl
theorem test_decode_xred : decodeSlot 1 0b10000100_0000001_0000010_000_0011_0_0_1#32 0 = .ok (.xred 1 2 3 false true) := by rfl
theorem test_decode_rsvfin : decodeSlot 1 0b10100010_0000001_0000100_0001000_0_0_0#32 0 = .ok (.rsvfin 1 4 8 false false) := by
  rfl
theorem test_decode_ali : decodeSlot 2 0b00000101_0000001_11111111111111111#32 0 = .ok (.ali 1 0x1FFFF) := by rfl
theorem test_decode_ldW : decodeSlot 2 0b00010100_0000111_00011_0001000_00_0_0_0#32 1 = .ok (.ldW 7 3 8 0 false false 1) := by
  rfl
theorem test_decode_stsB : decodeSlot 2 0b00100110_0000111_00011_0001000_10_1_0_0#32 0x7F =
    .ok (.stsB 7 3 8 2 true false 0x7F) := by rfl
theorem test_decode_fence : decodeSlot 2 0b00111010_000000000000000000000000#32 0b1_010_0_11 = .ok (.fence 3 2 true) := by rfl
theorem test_decode_tsamp : decodeSlot 2 0b01000011_0000111_00011_0001000_00000#32 0b00_1_10_01 =
    .ok (.tsamp 7 3 8 1 2 true) := by rfl
theorem test_decode_mma : decodeSlot 3 0b00000100_1_00001_00010_00011_00_0101_10#32 0 = .ok (.mma true 1 2 3 5 2) := by rfl
theorem test_decode_qpop : decodeSlot 3 0b00100010_0_0000111_000000000000_1111#32 0 = .ok (.qpop false 7 15) := by rfl
theorem test_decode_tsub : decodeSlot 3 0b00110000_0_00100_000000000000000000#32 0 = .ok (.tsub false 4) := by rfl
theorem test_decode_crs : decodeSlot 3 0b01000011_0_00100_00101_00110_00_010_010#32 0 = .ok (.crs false 4 5 6 2 2) := by rfl
/-- Bits 31 and 30 of slot 0 set: a header with guards and lends (R102). -/
theorem test_decode_header : decodeHeader 0b11_001_010_011_0000001_0000010_0000011#32 = ⟨1, 2, 3, 1, 2, 3⟩ := by rfl

/-! ## What the decoder refuses, each by its name -/

theorem test_refuse_opcode : decodeSlot 0 0x17000000#32 0 = .error .opcode := by rfl
theorem test_refuse_slot : decodeSlot 3 0x50000000#32 0 = .error .opcode := by rfl
theorem test_refuse_field : decodeSlot 0 0x0D000001#32 0 = .error .field := by rfl
theorem test_refuse_lend : decodeSlot 1 0x04000000#32 1 = .error .lend := by rfl
theorem test_refuse_short : (decodeBytes (List.replicate 15 0)).toOption = none := by rfl

/-! ## Ill-formed terms, which the check of well-formedness refuses -/

theorem test_ill_source : legal (.iadd 1 79 2 false false false) = false := by rfl
theorem test_ill_source_top : legal (.iadd 1 112 2 false false false) = false := by rfl
theorem test_ill_destination : legal (.iadd 72 1 2 false false false) = false := by rfl
theorem test_ill_last_use : legal (.iadd 1 64 2 true false false) = false := by rfl
theorem test_ill_group : legal (.rsvup 61 1 2 false false 3 false) = false := by rfl
theorem test_ill_source_group : legal (.rsvfin 1 61 2 false false) = false := by rfl
theorem test_ill_predicate : legal (.brp 0 1) = false := by rfl
theorem test_ill_special_read : legal (.mfs 1 0x1C) = false := by rfl
theorem test_ill_special_write : legal (.mts 1 0x00) = false := by rfl
theorem test_ill_condition : legal (.icmp 10 1 2 3 false false false) = false := by rfl
theorem test_ill_scalar_condition : legal (.scmp 1 2 3 10) = false := by rfl
theorem test_ill_float_condition : legal (.fcmp 8 1 2 3 false false false) = false := by rfl
theorem test_ill_tag : legal (.tag 1 2 15 false) = false := by rfl
theorem test_ill_release : legal (.vfree 64) = false := by rfl
theorem test_ill_format : legal (.fcvt 1 2 false 0 15 false) = false := by rfl
theorem test_ill_rounding : legal (.icvtf 1 2 1 3 false) = false := by rfl
theorem test_ill_reduction : legal (.xred 1 2 11 false false) = false := by rfl
theorem test_ill_atomic : legal (.amo 1 2 3 0 false false false 15) = false := by rfl
theorem test_ill_scope : legal (.fence 1 6 false) = false := by rfl
theorem test_ill_scope_unused : legal (.sig 1 2 3 0 false false 0 false 1 false) = false := by rfl
theorem test_ill_fence : legal (.fence 0 0 false) = false := by rfl
theorem test_ill_range : legal (.wbr 1 79) = false := by rfl
theorem test_ill_sampler : legal (.tsamp 1 2 3 3 0 false) = false := by rfl
theorem test_ill_matrix_format : legal (.mma false 1 2 3 9 0) = false := by rfl
theorem test_ill_matrix_store : legal (.mdst false 1 2 false 1 1 0) = false := by rfl
theorem test_ill_descriptor : legal (.shp false 25 0) = false := by rfl
theorem test_ill_continuation : legal (.cont false 1 2 3) = false := by rfl
theorem test_ill_collective : legal (.cred false 1 2 3 3 0) = false := by rfl

/-! ## States for the tests -/

/-- One course of one block on core 0 of die 0, all its lanes at a bundle of NOPs. -/
def sBase : State := State.reset.loadBundle (List.replicate 16 0)

/-- The same with course 0 changed. -/
def sCourse (x : Course) : State := { sBase with courses := [(0, x)] }

/-- A bundle of course x in issue, executing in the lanes m, which also pass the guards. -/
def sIssOf (x : Course) (m : Mask) : State :=
  { sCourse x with iss := { Issue.idle with valid := true, pass := true, exec := m, g1 := m, g2 := m, g3 := m,
                                            src := x, mark := sBase.uid } }

def sIss (m : Mask) : State := sIssOf loadCourse m

/-- The same with scalar register r holding v. -/
def sScalar (r : Nat) (v : DWord) (m : Mask) : State := sIssOf { loadCourse with sr := setAt r v loadCourse.sr } m

/-- Course 0 at the start of a test, with one operation under way. -/
def sOp (k : OpKind) (addr : DWord) (data : List Word) : Course :=
  { loadCourse with
    ops := [{ (sIss 1).iss.newOp .nop k 0 with id := 7, lanes := [⟨0, addr, data, 0, .pending, none⟩], act := 1 }] }

/-! ## Single steps, with the results that the manual's tables give -/

/-- What exec leaves, seen through f. -/
def after {α : Type} (i : Instr) (s : State) (f : State → α) : Option α :=
  match exec i s with
  | .next t => some (f t)
  | _ => none

/-- The V register that course 0 holds or has a write on its way to, lane 0. -/
def v0 (d : Nat) (t : State) : Option (Word × Tag) :=
  ((t.course 0).flights.find? fun f => f.v == some d).map fun f => (f.vals.getD 0 0, f.tag)

/-- The sum of two maximal words wraps (R156). -/
theorem test_sadd_wraps : after (.sadd 3 1 1) (sScalar 1 0xFFFFFFFFFFFFFFFF 1) (fun t => (t.course 0).s 3) =
    some 0xFFFFFFFFFFFFFFFE := by rfl
/-- -1 times -1 is 1, whose high half is 0 signed and 2^64 - 2 unsigned (R156). -/
theorem test_smulh_signed : after (.smulh 3 1 1 false) (sScalar 1 0xFFFFFFFFFFFFFFFF 1) (fun t => (t.course 0).s 3) =
    some 0 := by rfl
theorem test_smulh_unsigned : after (.smulh 3 1 1 true) (sScalar 1 0xFFFFFFFFFFFFFFFF 1) (fun t => (t.course 0).s 3) =
    some 0xFFFFFFFFFFFFFFFE := by rfl
theorem test_ssra_sign : after (.ssraImm 3 1 63) (sScalar 1 0x8000000000000000 1) (fun t => (t.course 0).s 3) =
    some 0xFFFFFFFFFFFFFFFF := by rfl
theorem test_slih_keeps : after (.slih 1 0x7FFFF) (sScalar 1 1 1) (fun t => (t.course 0).s 1) = some 0xFFFFF := by rfl
theorem test_sclz_zero : after (.sclz 3 1) (sScalar 1 0 1) (fun t => (t.course 0).s 3) = some 64 := by rfl
/-- 0x7FFFFFFF and 1: the plain sum wraps, the saturating form stays at the maximum (R167, R168). -/
theorem test_iadd_wraps : after (.iadd 1 81 82 false false false)
    (sIssOf { loadCourse with sr := setAt 1 0x7FFFFFFF (setAt 2 1 loadCourse.sr) } 1) (fun t => (v0 1 t).map (·.1)) =
    some (some 0x80000000) := by rfl
theorem test_imulhu : after (.imulhu 1 81 81 false false) (sScalar 1 0xFFFFFFFF 1) (fun t => (v0 1 t).map (·.1)) =
    some (some 0xFFFFFFFE) := by rfl
theorem test_iabs_minimum : after (.iabs 1 81 false) (sScalar 1 0x80000000 1) (fun t => (v0 1 t).map (·.1)) =
    some (some 0x80000000) := by rfl
theorem test_brev : after (.brev 1 81 false) (sScalar 1 1 1) (fun t => (v0 1 t).map (·.1)) = some (some 0x80000000) := by rfl
/-- 1.0 + 1.0 is 2.0, with tag F32 (R177). -/
theorem test_fadd : after (.fadd 1 81 81 false false) (sScalar 1 0x3F800000 1) (v0 1) =
    some (some (0x40000000, .f32)) := by rfl
theorem test_fsqrt_two : after (.fsqrt 1 81 false) (sScalar 1 0x40000000 1) (fun t => (v0 1 t).map (·.1)) =
    some (some 0x3FB504F3) := by decide +kernel
/-- A backward branch of one bundle from offset 0 wraps in the 32-bit offset (R131). -/
theorem test_bra_back : after (.bra 0x1FFFFF) (sIss 1) (fun t => ((t.course 0).lane 0).lpc) = some 0xFFFFFFF0 := by rfl
theorem test_bra_others_stay : after (.bra 0x1FFFFF) (sIss 1) (fun t => ((t.course 0).lane 1).lpc) = some 0 := by rfl
/-- LOOPI 0 leaves P4 at 0 and P0 at 1 (R137, R43). -/
theorem test_loopi_zero : after (.loopi 0) (sIss 1) (fun t => ((t.course 0).lane 0).pw) = some 1 := by rfl
theorem test_trap_code : after (.trap 5) (sIssOf { loadCourse with trap := { loadCourse.trap with tvec := 0x100 } } 1)
    (fun t => ((t.course 0).trap.tsa, fld (t.course 0).trap.tcause 0 8, ((t.course 0).lane 31).lpc)) =
    some (5, 0x0F, 0x100) := by rfl
/-- The last lane of a rejoin mask to arrive releases it (R25). -/
theorem test_jwait_releases : after (.jwait 0) (sIssOf { loadCourse with js := setAt 0 1 loadCourse.js } 1)
    (fun t => ((t.course 0).js.getD 0 7, ((t.course 0).lane 0).lpc, ((t.course 0).lane 0).st)) =
    some (0, 16, .ready) := by rfl
/-- The low two bytes of a stored word stand in the L1 line, and memory keeps what it had (R240, R263). -/
theorem test_store_bytes : after (.storePerformed 0 7) (sCourse (sOp (.store 2 1) 0x20000 [0x1234ABCD]))
    (fun t => ((t.core (0, 0)).l1.map fun l => (l.bytes.take 3).map (·.toNat), (t.readPa 0x20000 1).map (·.toNat))) =
    some ([[0xCD, 0xAB, 0]], [0]) := by rfl
/-- An atomic at memory adds at the home: all ones and 1 is 0 (R266). -/
theorem test_atomic_add : after (.atomicPerformed 0 7)
    { sCourse { sOp (.amo 0 false) 0x20000 [1] with ops := (sOp (.amo 0 false) 0x20000 [1]).ops.map fun o => { o with cnt := some 1 } } with
      mem := (sBase.writePa 0x20000 [0xFF, 0xFF, 0xFF, 0xFF]).mem }
    (fun t => (t.readPa 0x20000 5).map (·.toNat)) = some [0, 0, 0, 0, 0] := by rfl

/-! ## Witnesses: for each statement with hypotheses, a state and operands that meet them, clause by clause -/

/-- A pair whose first part is known. -/
theorem withFst {α β : Type} {p : α × β} {a : α} (h : p.1 = a) : p = (a, p.2) := by
  cases p
  cases h
  rfl

theorem issuing (m : Mask) : Issuing (sIss m) := ⟨rfl, rfl⟩
theorem running (m : Mask) : Running (sIss m) loadCourse := ⟨rfl, rfl, rfl, rfl, rfl, rfl⟩

theorem witness_DecodeEncode : SlotIns (.iaddi 78 111 false 0xFFFF) := ⟨rfl, rfl⟩
theorem witness_DecodedForms : decodeSlot 3 0x4310A612#32 0 = .ok (.crs false 4 5 6 2 2) ∧ SlotIns (.crs true 31 31 31 2 7) :=
  ⟨rfl, rfl, rfl⟩
theorem witness_StepRunsTheDecodedInstruction : (sIss 1).iss.valid = true ∧ isEvent ((sIss 1).iss.bundle.slot 0) = false ∧
    (sIss 1).iss.follower = false := ⟨rfl, rfl, rfl⟩
/-- An error in the register pool that the bundle's IADD meets, and its NOPs do not. -/
theorem witness_StepRunsTheDecodedInstruction_pool :
    let s : State := sIssOf { loadCourse with poolErr := some 5 } 1
    s.poolMet (.iadd 1 2 2 false false false) = some 5 ∧ s.poolMet .nop = none := by decide +kernel
/-- An opcode of slot 0 that no row has. -/
theorem witness_SelectionDecodesWhatItFetches_bad :
    ((State.reset.loadBundle (List.replicate 3 0 ++ 0x17 :: List.replicate 12 0)).fetchBytes 0 0).1 =
      some (List.replicate 3 0 ++ 0x17 :: List.replicate 12 0) ∧
    decodeBytes (List.replicate 3 0 ++ 0x17 :: List.replicate 12 0) = .error ⟨0, 0x17000000, .opcode⟩ := ⟨rfl, rfl⟩
theorem witness_SelectionDecodesWhatItFetches : (sBase.fetchBytes 0 0).1 = some (List.replicate 16 0) ∧
    (decodeBytes (List.replicate 16 0)).toOption = some Bundle.nops ∧
    (((sBase.fetchBytes 0 0).2).course 0).ill (wordsOf (List.replicate 16 0)) (.ok Bundle.nops) = none ∧
    bConv Bundle.nops = false := ⟨rfl, rfl, rfl, rfl⟩
/-- A bundle in issue with one instruction in slot 0. -/
def sSlot0 (i : Instr) (x : Course) (m : Mask) : State :=
  let s := sIssOf x m
  { s with iss := { s.iss with bundle := { Bundle.nops with i0 := i } } }

/-- An SLD to S3 is out and the bundle reads S3; a misaligned SLD; a WAITC whose counter stands above its bound; a bundle whose
counter is full. -/
theorem witness_AdmissionTraps :
    (let s := sSlot0 (.sadd 1 3 3) (sOp (.sld 3) 0x20000 []) 1; (bInstrs s.iss.bundle).any s.regBusy = true) ∧
    (let s := sSlot0 (.sld 3 1 0) { loadCourse with sr := setAt 1 4 loadCourse.sr } 1
     (bInstrs s.iss.bundle).any s.regBusy = false ∧ (firstTrap ((bInstrs s.iss.bundle).map s.trapsOf).flatten).isSome = true ∧
       (s.iss.src.s 1 + .ofInt 64 (8 * (0 : BitVec 9).toInt)).toNat % 8 ≠ 0 ∧ (s.iss.src.s 1).toNat % 64 ≠ 0) ∧
    (let s := sSlot0 (.waitc 0 0) { loadCourse with outs := [⟨7, 0, false⟩] } 1
     (bInstrs s.iss.bundle).any s.regBusy = false ∧ ((bInstrs s.iss.bundle).map s.trapsOf).flatten = [] ∧
       ((bInstrs s.iss.bundle).findSome? s.sleepOf).isSome = true) ∧
    (let s := sSlot0 (.govq 1) (sOp .sst 0x20000 [1, 2]) 1
     (bInstrs s.iss.bundle).any s.regBusy = false ∧ ((bInstrs s.iss.bundle).map s.trapsOf).flatten = [] ∧
       (bInstrs s.iss.bundle).findSome? s.sleepOf = none ∧ (bInstrs s.iss.bundle).any s.stallOf = true) :=
  ⟨by decide +kernel, by decide +kernel, by decide +kernel, by decide +kernel⟩
/-- A SAVE and a REST at 8, and a BRX of lane 0 to 8, which is no multiple of 16. -/
theorem witness_AdmissionTraps_alignment :
    let s : State := sIssOf { loadCourse with sr := setAt 1 8 loadCourse.sr } 1
    s.iss.src.info.row = none ∧ (∀ k, Mask.has s.iss.exec k = true → k < s.iss.src.w) ∧
      (∃ f, transferOf s (.brx 81 false) = some f ∧ (f 0).toNat % 16 ≠ 0) ∧ (s.qwWaits (.brx 81 false)).1 = false ∧
      Mask.has s.iss.exec 0 = true ∧ (s.iss.src.s 1).toNat % 64 ≠ 0 := by
  refine ⟨rfl, fun k hk => ?_, ⟨_, rfl, by decide +kernel⟩, by decide +kernel, rfl, by decide +kernel⟩
  have hb : (1 : Mask).getLsbD k = true := hk
  have h0 : k = 0 := by simpa [BitVec.getLsbD_one] using hb
  subst h0
  decide +kernel
theorem witness_StepKeepsMemoryForm : cellWfFrom 0 sBase.mem = true ∧ ∃ t, step sBase = .next t := ⟨rfl, _, rfl⟩

/-- Every one of the three transfers with a displacement; BRP with a lane that takes it and one that does not. -/
theorem witness_Transfers : (∃ f t, branchOf (sIss 3) (.bra 0x100000) = some (f, t)) ∧
    (∃ f t, branchOf (sIss 3) (.brp 1 0xFFFFF) = some (f, t) ∧ f 0 = false) ∧
    (∃ f t, branchOf (sIss 3) (.brs 0 0x40000) = some (f, t)) ∧ (sIss 3).iss.exec ≠ 0 ∧
    (∃ f, transferOf (sIss 3) (.call 1) = some f) ∧ (∃ f, transferOf (sIss 3) (.brx 0 false) = some f) ∧
    (∃ f, transferOf (sIss 3) (.callx 0 false) = some f) ∧ ∃ f, transferOf (sIss 3) .ret = some f :=
  ⟨⟨_, _, rfl⟩, ⟨_, _, rfl, rfl⟩, ⟨_, _, rfl⟩, by decide, ⟨_, rfl⟩, ⟨_, rfl⟩, ⟨_, rfl⟩, ⟨_, rfl⟩⟩

/-- LOOPI and LOOP need only a bundle in issue; so do JARM, JWAIT, TRAP, MFS, GOVQ, MTS and the scalar rows. -/
theorem witness_LoopInit : Issuing (sIss 1) ∧ Running (sIss 1) loadCourse := ⟨issuing 1, running 1⟩
theorem witness_LoopBack : Issuing (sIss 0xFFFFFFFF) ∧ Running (sIss 0xFFFFFFFF) loadCourse := ⟨issuing _, running _⟩
theorem witness_SoftwareTrap : Issuing (sIss 1) := issuing 1
theorem witness_SpecialReads : Issuing (sIss 1) ∧ Running (sIss 1) loadCourse ∧ (sIss 1).special 0x1A = 0 := ⟨issuing 1, running 1, rfl⟩
theorem witness_CounterReport : Issuing (sIss 1) ∧ Running (sIss 1) loadCourse := ⟨issuing 1, running 1⟩
theorem witness_SpecialWrites : Issuing (sScalar 1 0xFFFFFFFFFFFFFFFF 1) ∧
    Running (sScalar 1 0xFFFFFFFFFFFFFFFF 1) { loadCourse with sr := setAt 1 0xFFFFFFFFFFFFFFFF loadCourse.sr } ∧
    (sScalar 1 0xFFFFFFFFFFFFFFFF 1).iss.src.s 1 = 0xFFFFFFFFFFFFFFFF := ⟨⟨rfl, rfl⟩, ⟨rfl, rfl, rfl, rfl, rfl, rfl⟩, rfl⟩

/-- J0 names lane 31 alone, which waits at a JWAIT of it: complete; J7 names a lane that does not wait. -/
theorem witness_JoinBarriers : ∃ x : Course, x.js.length = 8 ∧ x.lanes.length = x.w ∧ x.js.getD 0 0 ≠ 0 ∧
    Mask.first (x.js.getD 0 0) = 31 ∧ (x.lane 31).st = .join ∧ (x.lane 31).wake = .join 0 ∧ x.js.getD 7 0 = 1 ∧
    (x.lane 0).st = .ready :=
  ⟨{ loadCourse with js := setAt 7 1 (setAt 0 0x80000000 loadCourse.js)
                     lanes := setAt 31 { Lane.start with st := .join, wake := .join 0 } loadCourse.lanes },
   rfl, rfl, by decide, rfl, rfl, rfl, rfl, rfl⟩

theorem witness_ExitRetires : (sIss 1).iss.src.info.row = none ∧ (loadCourse.live &&& ~~~(1 : Mask)) ≠ 0 := ⟨rfl, by decide⟩

/-- A course with a handler at 0x100. -/
def xHandler : Course := { loadCourse with trap := { loadCourse.trap with tvec := 0x100 } }

theorem witness_TrapEntry : (sCourse xHandler).course? 0 = some xHandler ∧ xHandler.hnd = false ∧ xHandler.handler ≠ 0 ∧
    xHandler.info.row = none ∧ xHandler.info.partner = none ∧ ∃ z, ((sCourse xHandler).landAll 0).course? 0 = some z :=
  ⟨rfl, rfl, by decide, rfl, rfl, _, rfl⟩

/-- A trap in the handler, and one without a handler. -/
theorem witness_TrapEntry_ends :
    (∃ x : Course, (sCourse x).course? 0 = some x ∧ x.hnd = true ∧ x.info.row = none ∧ x.info.partner = none ∧
      x.pres ≠ .ended ∧ x.pend = []) ∧
    (sCourse loadCourse).course? 0 = some loadCourse ∧ loadCourse.hnd = false ∧ loadCourse.handler = 0 ∧
    loadCourse.info.row = none ∧ loadCourse.info.partner = none :=
  ⟨⟨{ xHandler with trap := { xHandler.trap with tcause := 0x20000 } }, rfl, rfl, rfl, rfl, by decide, rfl⟩,
   rfl, rfl, rfl, rfl, rfl⟩

/-- A course in its handler. -/
def xFrame : Course := { xHandler with frame := some (xHandler.frameOf 0x0F) }

/-- The same with a lane of each kind in the frame, TLANES naming lane 1, S31 naming lane 2, and lane 5 retired. -/
def xReturn : Course :=
  { xFrame with
    frame := some { xHandler.frameOf 0x0F with
      lanes := [(.ready, 16, .none), (.ready, 16, .none), (.conv, 32, .conv true), (.conv, 32, .conv true),
                (.conv, 48, .conv false), (.ready, 16, .none), (.join, 64, .join 0)] ++ List.replicate 25 (.ready, 16, .none) }
    lanes := setAt 5 { Lane.start with st := .retired } xFrame.lanes
    trap := { xFrame.trap with tlanes := 2 }
    sr := setAt 31 4 xFrame.sr }

theorem witness_TrapReturn : Issuing (sIssOf xFrame 1) ∧
    ∃ f, xReturn.frame = some f ∧ xReturn.lanes.length = xReturn.w ∧ f.lanes.length = xReturn.w ∧
      (xReturn.lane 5).st = .retired ∧ ((xReturn.lane 1).st ≠ .retired ∧ Mask.has xReturn.trap.tlanes 1 = true) ∧
      (Mask.has xReturn.trap.tlanes 0 = false ∧ f.lanes[0]? = some (.ready, 16, .none)) ∧
      (f.lanes[4]? = some (.conv, 48, .conv false)) ∧ (f.lanes[2]? = some (.conv, 32, .conv true) ∧ Mask.has (xReturn.s 31) 2 = true) ∧
      (f.lanes[3]? = some (.conv, 32, .conv true) ∧ Mask.has (xReturn.s 31) 3 = false) ∧ f.lanes[6]? = some (.join, 64, .join 0) :=
  ⟨⟨rfl, rfl⟩, _, rfl, rfl, rfl, rfl, by decide, by decide, rfl, by decide, by decide, rfl⟩

/-- SADD, and VTOS of lane 31 and of the lowest executing lane. -/
theorem witness_ScalarResults : (∃ v, scalarResult (sIss 1) (.sadd 31 0 0) = some (31, v)) ∧
    (∃ a ua n, Instr.vtos 3 80 false 31 = .vtos 3 a ua n ∧ 31 = n.toNat) ∧
    ∃ a ua, Instr.vtosF 3 80 false = .vtosF 3 a ua := ⟨⟨_, rfl⟩, ⟨_, _, _, rfl, rfl⟩, _, _, rfl⟩
theorem witness_SlotZeroAccesses : Issuing (sIss 1) ∧ Running (sIss 1) loadCourse ∧ (sIss 1).iss.exec ≠ 0 :=
  ⟨issuing 1, running 1, by decide⟩

/-- A course of a Tower core with a frame, whose context area at 0x100000 is mapped. -/
def xTower : Course :=
  { xFrame with info := { loadInfo with die := 2 }, lanes := List.replicate 64 Lane.start }

theorem witness_PreemptDone : Issuing (sIss 1) ∧ ∀ x ∈ [xTower, xFrame], (sCourse x).course? 0 = some x ∧
    x.info.partner = none ∧ x.frame.isSome = true ∧
    ((sCourse x).areaReaches ((sCourse x).recordPlaces 0) .write).1 = some true :=
  ⟨⟨rfl, rfl⟩, by decide +kernel⟩

theorem witness_VectorResults : (∃ f, laneResult (sIss 3) (.iadd 63 80 81 false false true) = some f) ∧
    (sIss 3).iss.mask (profile (.iadd 63 80 81 false false true)).slot ≠ 0 ∧
    (sIss 0).iss.mask (profile (.iadd 63 80 81 false false true)).slot = 0 ∧
    (∃ f, laneResult (sIss 0) (.aadd 71 80 81 false false) = some f) := ⟨⟨_, rfl⟩, by decide, rfl, ⟨_, rfl⟩⟩
theorem witness_PredicateResults : Issuing (sIss 3) ∧ Running (sIss 3) loadCourse ∧ (sIss 3).iss.g1 ≠ 0 :=
  ⟨issuing 3, running 3, by decide⟩

/-- The highest record, and a release with and without an earlier write of its register on the way. -/
theorem witness_RegisterGroups : Issuing (sIss 3) ∧ Running (sIss 3) loadCourse ∧ (sIss 3).iss.g1 ≠ 0 ∧
    (60 : Code).toNat ≤ 60 ∧ (63 : Code).toNat < 64 ∧ loadCourse.flights = [] ∧
    ∃ x : Course, ∃ f ∈ x.flights, f.v = some 63 ∧ f.id < (sIssOf x 3).iss.mark + 1 :=
  ⟨issuing 3, running 3, by decide, by decide, by decide, rfl,
   { loadCourse with flights := [⟨0, some 63, false, 1, [], .und, 0, some 9, false, false, none⟩] }, _, List.mem_singleton_self _, rfl,
   by decide⟩
theorem witness_LandingMerges : ∃ (e : VEntry) (f : Flight), f.whole = false ∧ f.mask = 1 ∧ Mask.has f.mask 63 = false ∧
    e.tag = f.tag ∧ Mask.has e.live 63 = true ∧ Mask.has e.live 1 = false :=
  ⟨⟨.mapped, .none, [], .f32, 0x8000000000000001, 0⟩, ⟨0, some 0, false, 1, [], .f32, 0, none, true, false, none⟩,
   rfl, rfl, rfl, rfl, rfl, rfl⟩

theorem witness_MemoryRowsPost : (sIss 3).iss.g2 ≠ 0 ∧ ∃ k c nt, memoryRow (.ldW 7 3 8 0 false true 127) = some (k, c, nt) :=
  ⟨by decide, _, _, _, rfl⟩
/-- A memory row and a slot-3 instruction without a lane; a YLD of lane 0 with the others elsewhere; WAITC with its counter at
and above its bound; WAITA. -/
theorem witness_GuardedOffDoesNothing : (sIss 0).iss.g2 = 0 ∧ (∃ k, memoryRow (.stsc 7 3 8 false 127) = some k) ∧ (sIss 0).iss.g3 = 0 ∧
    SlotIns (.cont false 1 2 2) ∧ slotOf (.cont false 1 2 2) = 3 := ⟨rfl, ⟨_, rfl⟩, rfl, ⟨rfl, rfl⟩, rfl⟩
/-- Lane 0 at the bundle and every other lane one bundle on. -/
def xYield : Course := { loadCourse with lanes := Lane.start :: List.replicate 31 { Lane.start with lpc := 16 } }
theorem witness_GuardedOffDoesNothing_yield : (sSlot0 .yld xYield 1).course? 0 = some xYield ∧ (sSlot0 .yld xYield 1).iss.bundle.i0 = .yld ∧
    (sSlot0 .yld xYield 1).iss.exec ≠ 0 ∧ (sSlot0 .yld xYield 1).iss.lone = false ∧ (sSlot0 .yld xYield 1).iss.late = none ∧
    xYield.pres ≠ .ended ∧
    xYield.info.row = none ∧ xYield.ppr = true ∧ (sSlot0 .yld xYield 1).iss.src.ppr = true ∧
    ((sSlot0 .yld xYield 1).iss.src.maskOf fun l => l.st == .ready && l.lpc != (sSlot0 .yld xYield 1).iss.pc) ≠ 0 :=
  ⟨rfl, rfl, by decide, rfl, rfl, by decide, rfl, rfl, rfl, by decide +kernel⟩
theorem witness_GuardedOffDoesNothing_waits : (sIss 1).iss.exec ≠ 0 ∧ (sIss 1).iss.src.n 3 ≤ (0 : BitVec 7).toNat ∧
    ¬ ({ loadCourse with outs := [⟨7, 3, false⟩] } : Course).n 3 ≤ (0 : BitVec 7).toNat ∧ Issuing (sIss 3) ∧
    Running (sIss 3) loadCourse := ⟨by decide, by decide, by decide, issuing 3, running 3⟩
theorem witness_RangesAndFences : Issuing (sIss 3) ∧ Running (sIss 3) loadCourse ∧ (sIss 3).iss.g2 ≠ 0 :=
  ⟨issuing 3, running 3, by decide⟩
theorem witness_ClusterRequestsPost : Issuing (sIss 3) ∧ Running (sIss 3) loadCourse ∧ (sIss 3).iss.g2 ≠ 0 :=
  ⟨issuing 3, running 3, by decide⟩
theorem witness_HitRoutineCalls : Issuing (sIss 3) ∧ Running (sIss 3) loadCourse ∧ (sIss 3).iss.g2 ≠ 0 :=
  ⟨issuing 3, running 3, by decide⟩
theorem witness_MatrixCommands : Issuing (sIss 3) ∧ Running (sIss 3) loadCourse ∧ (sIss 3).iss.g3 ≠ 0 :=
  ⟨issuing 3, running 3, by decide⟩
theorem witness_ChainsAndStaging : Issuing (sIss 1) ∧ Running (sIss 1) loadCourse ∧ (sIss 1).iss.g3 ≠ 0 :=
  ⟨issuing 1, running 1, by decide⟩
theorem witness_DescriptorSets : Issuing (sIss 1) ∧ Running (sIss 1) loadCourse ∧ (sIss 1).iss.g3 ≠ 0 ∧
    loadCourse.d.length = 8 ∧ (24 : SReg).toNat ≤ 24 := ⟨issuing 1, running 1, by decide, rfl, by decide⟩

/-- Course 0 in a block with 8 slots and a named queue with one entry, on which nothing waits. -/
def sQueues (entries : List (Word × Nat)) (r : Nat) (v : DWord) : State :=
  { sScalar r v 1 with blocks := [(0, { loadBlock with mem := { loadBlock.mem with
      n := 8, queues := [⟨15, 0, 4, 4, entries, []⟩] } })] }

theorem witness_OwnerBits : (∃ b, (sQueues [] 1 0).block? 0 = some b) ∧ (∃ q, (sQueues [] 1 0).slotNamed 0 = some q) ∧
    (sQueues [] 1 0).slotNamed 0xFFFF = none ∧ (sQueues [] 1 0).iss.g3 ≠ 0 := ⟨⟨_, rfl⟩, ⟨_, rfl⟩, rfl, by decide⟩
theorem witness_NamedQueues : ((sQueues [] 1 0xFFFFFFFF).iss.src.s 1).setWidth 32 = 0xFFFFFFFF#32 ∧
    (∃ k, (sQueues [] 1 0).queue? loadCourse 15 = some k ∧ k.entries = []) ∧ (sQueues [] 1 0).queue? loadCourse 0 = none ∧
    (∃ k, (sQueues [(1, 0)] 1 0).queue? loadCourse 15 = some k ∧ k.entries = [(1, 0)] ∧ k.canPop 0 0 = true) ∧
    (∃ k, fld ((sQueues [] 1 0).iss.src.s 2) 0 11 = 0 ∧
      ((sQueues [] 1 0).blockMem 0).queues.find? (fun k => k.q == 15) = some k ∧ k.waiters = [] ∧
      k.entries = [] ∧ (sQueues [] 1 0).queueAwaited 0 15 = false) ∧
    ∃ k, ((sQueues [(1, 0)] 1 0).blockMem 0).queues.find? (fun k => k.q == 15) = some k ∧ k.entries ≠ [] :=
  ⟨rfl, ⟨_, rfl, rfl⟩, rfl, ⟨_, rfl, rfl, rfl⟩, ⟨_, rfl, rfl, rfl, rfl, rfl⟩, _, rfl, by decide⟩
/-- A configuration of 4 entries over a slot that the engines own is allowed, and one with an allowance of 0 is not. -/
theorem witness_NamedQueues_cfg : (∃ m : BlockMem, qcfgStatus m false 0 0x40004 15 = none) ∧
    qcfgStatus BlockMem.empty false 0 0x4 15 = some 3 ∧ fld (0x40004 : DWord) 0 11 ≠ 0 :=
  ⟨⟨{ BlockMem.empty with n := 8, owner := List.range 64 }, rfl⟩, rfl, by decide⟩
theorem witness_DispatcherRequests : Issuing (sIss 1) ∧ Running (sIss 1) loadCourse ∧ (sIss 1).iss.g3 ≠ 0 ∧
    fld ((sScalar 1 0xC0000000 1).iss.src.s 1) 30 2 < (sIss 1).dies.length ∧ (sIss 1).iss.src.info.die < (sIss 1).dies.length :=
  ⟨issuing 1, running 1, by decide, by decide, by decide⟩
theorem witness_ContinuationSuspends : ((sIss 0xFFFFFFFF).finishIssue.course 0).pres = .resident ∧
    (∃ x, (sIss 0xFFFFFFFF).course? 0 = some x ∧ x.live &&& ~~~(0xFFFFFFFF : Mask) = 0 ∧ x.pres = .resident) ∧
    (sIss 1).conts = [] ∧ (sIss 0xFFFFFFFF).iss.g3 ≠ 0 := ⟨rfl, ⟨_, rfl, rfl, rfl⟩, rfl, by decide⟩
theorem witness_CollectivesJoin : Issuing (sIss 1) ∧ Running (sIss 1) loadCourse ∧ (sIss 1).iss.g3 ≠ 0 :=
  ⟨issuing 1, running 1, by decide⟩

/-! ### Events -/

theorem witness_WriteChangesItsBytesOnly : cellWfFrom 0 sBase.mem = true := rfl

/-- A block whose allocation has 8 slots, so that offset 0 of the aperture is there. -/
def bSlots : Block := { loadBlock with mem := { loadBlock.mem with n := 8 } }

/-- The second GiB mapped to the fabric addresses of the own package, which no L1 holds. -/
def sFabric : State := sBase.writeQ 0x3008 (.ofNat 64 (0x1F7 + 4 * 2 ^ 52))

/-- A load and a store of one lane at an address. -/
def opLoad (scratch : Bool) : MemOp := { (sIss 1).iss.newOp .nop (.load 4 false 1) 0 with scratch := scratch }
def opStore (scratch : Bool) : MemOp := { (sIss 1).iss.newOp .nop (.store 4 1) 0 with scratch := scratch }
def lane0 (a : DWord) : LaneAcc := ⟨0, a, [], 0, .pending, none⟩

/-- Places in the scratchpad, past the L1, in memory with the line in the L1 and without, in a failed line, and an address that
no table may map. -/
def oLane : LaneAcc := lane0 0x20000
def sLine : State := sBase.onCore (0, 0) fun k => { k with l1 := [⟨0x20000, List.replicate 64 7, 0, []⟩] }
theorem witness_LaneAccesses_reads : (sCourse loadCourse).course? 0 = some loadCourse ∧
    (∃ u, ({ sBase with blocks := [(0, bSlots)] } : State).place 0 (opLoad true) (lane0 0) .read = (.scratch 0, u)) ∧
    (∃ u, sFabric.place 0 (opLoad false) (lane0 0x40000000) .read = (.mem 0 false, u) ∧ u.lineBad (0, 0) 0 = false) ∧
    (∃ u, sLine.place 0 (opLoad false) oLane .read = (.mem 0x20000 true, u) ∧ u.lineBad (0, 0) 0x20000 = false ∧
      (u.l1? (0, 0) (lineOf 0x20000)).isSome = true) ∧
    (∃ u, sBase.place 0 (opLoad false) oLane .read = (.mem 0x20000 true, u) ∧ u.lineBad (0, 0) 0x20000 = false ∧
      u.l1? (0, 0) (lineOf 0x20000) = none) ∧
    ∃ u, ({ sBase with failed := [0x20000] } : State).place 0 (opLoad false) oLane .read = (.mem 0x20000 true, u) ∧
      u.lineFailed (lineOf 0x20000) = true ∧ u.l1? (0, 0) (lineOf 0x20000) = none :=
  ⟨rfl, ⟨_, withFst (by decide +kernel)⟩, ⟨_, withFst (by decide +kernel), by decide +kernel⟩,
   ⟨_, withFst (by decide +kernel), by decide +kernel, by decide +kernel⟩,
   ⟨_, withFst (by decide +kernel), by decide +kernel, by decide +kernel⟩,
   _, withFst (by decide +kernel), by decide +kernel, by decide +kernel⟩
theorem witness_LaneAccesses_writes :
    (∃ u, ({ sBase with blocks := [(0, bSlots)] } : State).place 0 (opStore true) (lane0 0) .write = (.scratch 0, u)) ∧
    (∃ u, sFabric.place 0 (opStore false) (lane0 0x40000000) .write = (.mem 0 false, u) ∧ cellWfFrom 0 u.mem = true) ∧
    ∃ u, sBase.place 0 (opStore false) (lane0 0x8000000000000000) .write = (.fail 0, u) :=
  ⟨⟨_, withFst (by decide +kernel)⟩, ⟨_, withFst (by decide +kernel), by decide +kernel⟩, _, withFst (by decide +kernel)⟩

/-- Stores through the L1: the line is there or not, with a way and without, for a block without a task. -/
theorem witness_LaneAccesses_cached : (∀ s ∈ [sLine, sBase],
      (s.place 0 (opStore false) (lane0 0x20000) .write).1 = .mem 0x20000 true ∧
      cellWfFrom 0 (s.place 0 (opStore false) (lane0 0x20000) .write).2.mem = true ∧
      (s.place 0 (opStore false) (lane0 0x20000) .write).2.lent (0, 0) ≠ 0) ∧
    (sLine.l1? (0, 0) (lineOf 0x20000)).isSome = true ∧ sBase.l1? (0, 0) (lineOf 0x20000) = none ∧
    (∀ b, sBase.block? loadCourse.info.block = some b → b.task = none ∨ b.mem.tracker.length < 1024) ∧
    (sBase.onCore (0, 0) fun k => { k with heldWays := List.range 32 }).lent (0, 0) = 0 ∧ (opStore false).nt = false := by
  refine ⟨by decide +kernel, by decide +kernel, by decide +kernel, fun b h => .inl ?_, by decide +kernel, rfl⟩
  have : sBase.block? loadCourse.info.block = some loadBlock := by rfl
  rw [this] at h
  cases h
  rfl
/-- A dirty line in the way of a read at the home. -/
theorem witness_LaneAccesses_home : let s : State := sBase.onCore (0, 0) fun k =>
      { k with l1 := [⟨0x20000, List.replicate 64 7, 1, []⟩] }
    (s.place 0 (opLoad false) oLane .read).1 = .mem 0x20000 true ∧ cellWfFrom 0 s.mem = true ∧
    s.lineBad (0, 0) 0x20000 = false ∧
    (∃ ln, s.l1? (0, 0) (lineOf 0x20000) = some ln ∧ ln.dirty &&& byteMask (0x20000 % 64) 4 ≠ 0) ∧
    s.lent (0, 0) ≠ 0 ∧ ({ opLoad false with nt := true } : MemOp).nt = true :=
  ⟨by decide +kernel, by decide +kernel, by decide +kernel, ⟨_, rfl, by decide⟩, by decide +kernel, rfl⟩

/-- A course whose count stands at LIM, with the deadline of its pre-emption, one result that waits for its bound, and a
pending error. -/
def xEvents : Course :=
  { loadCourse with fairt := fairOf 64 64 false 0
                    flights := [⟨5, some 63, false, 1, [1], .uw, 0, some 0, false, false, none⟩]
                    pend := [⟨7, 0, 0, 0, false, false⟩] }

/-- The same error while a handler runs. -/
def xBusy : Course := { xFrame with trap := { xFrame.trap with tcause := 0x20000 }, pend := xEvents.pend }

theorem witness_CoreAndCourseEvents : ({ sBase with turn := sBase.nextTurn (0, 95) } : State).coreRuns (0, 95) = true ∧
    ({ sBase with turn := sBase.nextTurn (0, 96) } : State).coreRuns (0, 96) = false ∧
    ((sIssOf xEvents 1).course? 0 = some xEvents ∧ (sIssOf xEvents 1).iss.course = 0 ∧ (sIssOf xEvents 1).iss.src.ppr = true ∧
      xEvents.ppr = true ∧ xEvents.info.row = none ∧ fairCnt xEvents.fairt = fairLim xEvents.fairt) ∧
    (∃ f, xEvents.flights = [f] ∧ f.v = some 63 ∧ f.release = false ∧
      f.ready = false ∧ f.due.isSome = true) ∧ 0 < ({ sCourse xEvents with uid := 6 } : State).uid ∧
    xEvents.selectable = true ∧ (∃ e, xEvents.pend = [e]) ∧ xEvents.hnd = false ∧
    xBusy.selectable = true ∧ xBusy.info.row = none ∧ (∀ e ∈ xBusy.pend, e.hnd = false) ∧ xBusy.hnd = true :=
  ⟨rfl, rfl, ⟨rfl, rfl, rfl, rfl, rfl, rfl⟩, ⟨_, rfl, rfl, rfl, rfl, rfl⟩, by decide, rfl, ⟨_, rfl⟩, rfl, rfl, rfl, by decide, rfl⟩

/-- A result on its way whose bound has come, and one whose bound has not, of a course of core (0, 0) without matrix commands; a
trap of the partner that is pending; a request to leave the core. -/
def xDue (d : Nat) : Course :=
  { loadCourse with flights := [⟨5, some 63, false, 1, [1], .uw, 0, some d, false, false, none⟩] }
theorem witness_CoreAndCourseEvents_lands : (sCourse (xDue 0)).course? 0 = some (xDue 0) ∧ (xDue 0).coreKey = (0, 0) ∧
    (xDue 0).pres = .resident ∧ ((sCourse (xDue 0)).core (0, 0)).mq = [] ∧ 0 < (sCourse (xDue 0)).uid ∧
    (∃ f, (xDue 0).flights = [f] ∧ f.v = some 63 ∧ f.release = false ∧ f.ready = false ∧ f.due = some 0 ∧
      0 ≤ ((sCourse (xDue 0)).core (0, 0)).clk) ∧
    (∃ x, ((sCourse (xDue 9)).landCore (0, 0)).course? 0 = some x ∧ x.coreKey = (0, 0) ∧ x.pres = .resident ∧ x.flights ≠ []) ∧
    (({ loadCourse with pend := [⟨7, 0, 0, 0, false, true⟩] } : Course).pend.map (·.shared)) = [true] :=
  ⟨rfl, rfl, rfl, rfl, by decide, ⟨_, rfl, rfl, rfl, rfl, rfl, by decide⟩, ⟨_, rfl, by decide +kernel, by decide +kernel, by decide +kernel⟩, rfl⟩

def xPre : Course := { xHandler with pre := some ⟨100, true, false, false, false⟩ }
def xForce : Course := { xHandler with pre := some ⟨0, true, false, true, false⟩ }
def xAway : Course := { xFrame with pres := .away }

theorem witness_PreemptionEvents : (∃ p, xPre.pre = some p ∧ p.force = false ∧ p.met = false) ∧
    (∃ d, d ∈ (sCourse xPre).unit 0 ∧ ((sCourse xPre).course? d).isSome = true ∧ xPre.pres = .resident ∧
      ∀ p, ((sCourse xPre).course d).pre = some p → p.force = false) ∧
    (xForce.info.partner = none ∧ xForce.pres = .resident ∧ (∃ p, xForce.pre = some p ∧ p.force = true) ∧ xForce.settled = true ∧
      ((sCourse xForce).areaReach 0 xForce.info.ctxa xForce.info.areaSize .write).1 = some true) ∧
    (sCourse xAway).course? 0 = some xAway ∧ xAway.info.partner = none ∧ (sCourse xAway).resumable 0 = true ∧
    ((sCourse xAway).areaReach 0 xAway.info.ctxa xAway.info.areaSize .read).1 = some true ∧
    ((sCourse xAway).course? 0).isSome = true ∧ xAway.handler ≠ 0 :=
  ⟨⟨_, rfl, rfl, rfl⟩, ⟨0, by decide +kernel, rfl, rfl, by decide +kernel⟩,
   ⟨rfl, rfl, ⟨_, rfl, rfl⟩, rfl, by decide +kernel⟩, rfl, rfl, by decide +kernel, by decide +kernel, rfl, by decide⟩

/-- A request that is not taken yet, of a course alone with a handler. -/
theorem witness_CoreAndCourseEvents_leaves : (sCourse { xHandler with pre := some ⟨100, false, false, false, false⟩ }).course? 0 =
      some { xHandler with pre := some ⟨100, false, false, false, false⟩ } ∧ xHandler.pend = [] ∧ xHandler.hnd = false ∧
    xHandler.handler ≠ 0 ∧ xHandler.info.partner = none ∧ xHandler.selectable = true ∧ xHandler.info.row = none :=
  ⟨rfl, rfl, rfl, by decide, rfl, rfl, rfl⟩
/-- The record of a forced save of a running handler and of a course without one; a register that was mapped. -/
theorem witness_PreemptionEvents_resume :
    (∃ w, (sCourse xAway).makeRoom [0] = (true, w)) ∧
    (∃ y f, ((sCourse { xAway with pres := .forced }).useRecord 0).recall 0 = (y, f)) ∧
    (let x : Course := { xAway with v := setAt 63 ⟨.spilled, .spilling, [], .uw, 0, 0⟩ xAway.v }
     (sCourse x).course? 0 = some x ∧ x.v.length = 64 ∧ (x.ve 63).st = .spilled ∧ (x.ve 63).xfer = .spilling ∧
       0 < (sCourse x).poolFree x.coreKey) :=
  ⟨⟨_, withFst (by decide +kernel)⟩, ⟨_, _, rfl⟩, by decide +kernel⟩

/-- V63 on its way to its backing copy, and V0 on its way back. -/
def xSpill : Course :=
  { loadCourse with v := setAt 63 ⟨.mapped, .spilling, [], .uw, 1, 0⟩ (setAt 0 ⟨.spilled, .filling, [], .uw, 1, 0⟩ loadCourse.v) }

theorem witness_SpillsAndFills : (sCourse xSpill).course? 0 = some xSpill ∧ xSpill.v.length = 64 ∧ (xSpill.ve 63).st = .mapped ∧
    (xSpill.ve 63).xfer = .spilling ∧ (xSpill.ve 0).st = .spilled ∧ (xSpill.ve 0).xfer = .filling ∧ xSpill.pres = .resident ∧
    (∃ u, (sCourse xSpill).backReach (0, 63) .write = (some true, u)) ∧
    ∃ u, (sCourse xSpill).backReach (0, 0) .read = (some true, u) :=
  ⟨rfl, rfl, rfl, rfl, rfl, rfl, rfl, ⟨_, withFst (by decide +kernel)⟩, _, withFst (by decide +kernel)⟩

/-- The same where the backing copy lies in a failed line. -/
theorem witness_SpillsAndFills_failed :
    let s : State := { sCourse xSpill with failed := [0x101000] }
    (s.backReach (0, 0) .read).1 = some true ∧
      (s.backReach (0, 0) .read).2.areaBad xSpill.info.ctx ((s.backReach (0, 0) .read).2.backPlaces (0, 0)) = true := by
  decide +kernel

/-- A load all of whose lanes are over. -/
def opOver : MemOp :=
  { opLoad false with id := 7, cnt := some 0, dst := some 63, act := 1, lanes := [⟨0, 0x20000, [5], 0, .done, none⟩] }
def xOver : Course :=
  { loadCourse with ops := [opOver], outs := [⟨7, 0, false⟩]
                    flights := [⟨8, some 63, false, 1, [], .und, 0, none, false, false, some 7⟩] }
/-- An operation alone in its course, of each kind that an event performs. -/
def opKind (k : OpKind) (cnt : Option Nat) (l : LaneAcc) : MemOp :=
  { opStore false with id := 7, kind := k, cnt := cnt, lanes := [l], act := 1 }
def xOne (o : MemOp) : Course := { loadCourse with ops := [o] }
theorem witness_MemoryEvents : ∀ k ∈ [OpKind.load 4 false 1, .lda, .store 4 1, .save, .sig 0 false, .stl, .sig 0 true, .sld 3, .sst,
      .amo 9 false, .cas false, .tsize 15, .trace 0, .tsamp 0 0 false, .visq 16],
    let o := opKind k (some 1) oLane
    (sCourse (xOne o)).course? 0 = some (xOne o) ∧ (xOne o).op? o.id = some o ∧ (sCourse (xOne o)).mayPerform (xOne o) o = true ∧
      o.cnt = some 1 ∧ o.lanes.find? (sCourse (xOne o)).laneFree = some oLane ∧
      (o.lanes.filter fun l => l.open_ && true) = [oLane] := by decide +kernel
/-- The return of an atomic whose lanes are over. -/
theorem witness_MemoryEvents_returns : ∀ k ∈ [OpKind.amo 9 true, .cas true],
    let o := opKind k (some 0) { oLane with st := .done, data := [5] }
    (xOne o).op? o.id = some o ∧ (sCourse (xOne o)).mayPerform (xOne o) o = true ∧ o.lanes.all LaneAcc.over = true := by
  decide +kernel
/-- A load all of whose lanes are over, with its result on its way. -/
theorem witness_MemoryEvents_settle : ∃ f : Flight, (sCourse xOver).course? 0 = some xOver ∧ xOver.ops = [opOver] ∧
    opOver.kind = .load 4 false 1 ∧ (opOver.lanes.all LaneAcc.over) = true ∧ opOver.acc = none ∧ opOver.hwe = none ∧
    opOver.cnt = some 0 ∧ opOver.dst = some 63 ∧ (63 : Code).toNat < 64 ∧ xOver.flights = [f] ∧ f.id = opOver.id + 1 ∧
    f.v = some 63 ∧ f.release = false ∧ f.whole = false ∧ f.ready = false ∧ xOver.outs = [⟨opOver.id, 0, false⟩] ∧
    xOver.pres = .resident ∧ 0 < ({ sCourse xOver with uid := 9 } : State).uid ∧ xOver.v.length = 64 ∧ opOver.okMask ≠ 0 :=
  ⟨_, rfl, rfl, rfl, rfl, rfl, rfl, rfl, rfl, by decide, rfl, rfl, rfl, rfl, rfl, rfl, rfl, rfl, by decide, rfl, by decide⟩

/-- Atomics at an offset of the allocation, in memory with and without the line in the L1, and in a failed line. -/
theorem witness_MemoryEvents_atomics : ∀ k ∈ [OpKind.amo 9 true, .cas false, .sig 2 false],
    (({ sBase with blocks := [(0, bSlots)] } : State).place 0 { opKind k none oLane with scratch := true } (lane0 0) .write).1 =
        .scratch 0 ∧
      (({ sBase with blocks := [(0, bSlots)] } : State).place 0 { opKind k none oLane with scratch := true } (lane0 0)
        .write).2.block? 0 = some bSlots ∧
      (∀ s ∈ [sLine, sBase, ({ sBase with failed := [0x20000] } : State)],
        (s.place 0 (opKind k none oLane) oLane .write).1 = .mem 0x20000 true ∧
        cellWfFrom 0 (s.place 0 (opKind k none oLane) oLane .write).2.mem = true ∧
        (s.place 0 (opKind k none oLane) oLane .write).2.lineFailed 0x20000 = s.failed.contains 0x20000) := by
  decide +kernel

/-- Lane 31 asleep in WAITA, registered or not, with a deadline. -/
def xWait (reg : Bool) (t : Word) : Course :=
  { loadCourse with lanes := setAt 31 { Lane.start with st := .waita,
                                                        wa := some ⟨0x20000, 0, t, false, 0, false, some 50, reg, none, none, none, false⟩ }
                                    loadCourse.lanes }
theorem witness_WaitEvents : (∃ w, (sCourse (xWait true 0)).waiting? 0 31 = some w ∧ w.registered = true ∧ w.deadline = some 50) ∧
    ∃ w, (sCourse (xWait false 0)).waiting? 0 31 = some w ∧ w.registered = false := ⟨⟨_, rfl, rfl, rfl⟩, _, rfl, rfl⟩
/-- The word is 0, which differs from 1 and not from 0; the deadline has not come. -/
theorem witness_WaitEvents_reread : ∀ t ∈ [(0 : Word), 1], let x := xWait false t
    (sCourse x).course? 0 = some x ∧ x.info.row = none ∧ 31 < x.w ∧ 31 < x.lanes.length ∧ (x.lane 31).st = .waita ∧
    ∃ w, (x.lane 31).wa = some w ∧ w.got = none ∧ w.sent = none ∧ w.gaveUp = false ∧
      ((sCourse x).peek 0 w.va w.flt).1 = .word 0 ∧ ((sCourse x).peek 0 w.va w.flt).2.course? 0 = some x ∧
      waitCond w.cond 0 w.t = (t == 1) ∧ w.expired ((sCourse x).peek 0 w.va w.flt).2.time = false := by
  intro t h
  simp only [List.mem_cons, List.not_mem_nil, or_false] at h
  rcases h with rfl | rfl <;>
    exact ⟨by decide +kernel, rfl, by decide, by decide, rfl, _, rfl, rfl, rfl, rfl, by decide +kernel, by decide +kernel, by decide,
      by decide +kernel⟩

/-! #### Matrix, copies, collectives -/

/-- A command alone in the queue of core (2, 143), on tile 3 of a block whose 16 slots the engines own. -/
def mCmd (k : MKind) (args : MmaArgs) (stride : DWord) : MCmd :=
  { id := 9, seq := 9, kind := k, block := 0, course := 0, tile := 3, args := args, ord := false, rest := [], started := false,
    staged := none, stride := stride, op := 0, cvt := 0, toMem := true, row := 0, dst := 0, mask := 1, flight := [], flt := none }
def bEngine : Block :=
  { loadBlock with die := 2, core := 143, mem := { loadBlock.mem with n := 64, owner := List.range 64,
                                                                      tiles := List.replicate 4 [] } }
def sMatrix (m : MCmd) : State :=
  { sBase with blocks := [(0, bEngine)], cores := [((2, 143), { Core.reset with mq := [m] })] }
def gMma (k : Nat) : MmaArgs := ⟨3, 0, 0x10000, .ofNat 64 k, 0⟩

theorem witness_MatrixEvents :
    (∃ m u, (sMatrix (mCmd .mzero (gMma 0) 0)).readyCmd (2, 143) 9 .mzero = some m ∧
      (sMatrix (mCmd .mzero (gMma 0) 0)).takeTile (2, 143) m.block m.tile = (true, u) ∧ (u.block? m.block).isSome = true) ∧
    (∃ m, (sMatrix (mCmd .mche (gMma 0) 0)).readyCmd (2, 143) 9 .mche = some m) ∧
    (∃ m u, (sMatrix (mCmd .mma (gMma 32) 0)).readyCmd (2, 143) 9 .mma = some m ∧
      ((sMatrix (mCmd .mma (gMma 32) 0)).core (2, 143)).mq = [m] ∧ m.id = 9 ∧ m.started = false ∧ m.staged = none ∧
      mmaStatus ((sMatrix (mCmd .mma (gMma 32) 0)).blockMem m.block) true m.args = none ∧ m.args.k.toNat = kBlock m.args.fmt ∧
      (sMatrix (mCmd .mma (gMma 32) 0)).takeTile (2, 143) m.block m.tile = (true, u) ∧ (u.core (2, 143)).mq = [m] ∧
      (u.block? m.block).isSome = true ∧ m.tile < (u.blockMem m.block).tiles.length) ∧
    mmaStatus { bEngine.mem with owner := [] } true (gMma 32) = some 1 ∧
    (∃ m, (sMatrix (mCmd .mdst (gMma 0) 255)).readyCmd (2, 143) 9 .mdst = some m ∧ m.started = false ∧
      m.stride.toNat < Config.lanes true * mdstSize (.ofNat 2 m.cvt)) ∧
    (∃ m, (sMatrix (mCmd .mdst (gMma 0) 256)).readyCmd (2, 143) 9 .mdst = some m ∧ m.started = false ∧
      Config.lanes true * mdstSize (.ofNat 2 m.cvt) ≤ m.stride.toNat ∧ m.stride.toNat % mdstSize (.ofNat 2 m.cvt) = 0) ∧
    ∃ m u, (sMatrix (mCmd .macl (gMma 0) 0)).readyCmd (2, 143) 9 .macl = some m ∧
      (sMatrix (mCmd .macl (gMma 0) 0)).takeTile (2, 143) m.block m.tile = (true, u) :=
  ⟨⟨_, _, rfl, withFst (by decide +kernel), by decide +kernel⟩, ⟨_, rfl⟩,
   ⟨_, _, rfl, rfl, rfl, rfl, rfl, by decide +kernel, by decide +kernel, withFst (by decide +kernel), by decide +kernel,
     by decide +kernel, by decide +kernel⟩,
   by decide +kernel, ⟨_, rfl, by decide⟩, ⟨_, rfl, by decide, by decide, by decide⟩, _, _, rfl, withFst (by decide +kernel)⟩
/-- A tile that lies in its area, of which a page is not there. -/
theorem witness_MatrixEvents_fault :
    (({ sMatrix (mCmd .mzero (gMma 0) 0) with
        blocks := [(0, { bEngine with mem := { bEngine.mem with evicted := [3] } })]
        courses := [(0, { loadCourse with info := { loadInfo with ctxa := 0x40000000000 } })] } : State).takeTile (2, 143) 0 3).1 =
      false := by decide +kernel

/-- A tile whose area holds a failed line, and an MDST to memory and one to scratchpad under way. -/
theorem witness_MatrixEvents_failed :
    (∀ k ∈ [MKind.mma, .macl],
      let s : State := { sMatrix (mCmd k (gMma 32) 0) with
        blocks := [(0, { bEngine with mem := { bEngine.mem with evicted := [3] } })], failed := [0x114000] }
      s.tileBad 0 3 = true ∧ (s.readyCmd (2, 143) 9 k).isSome = true) ∧
    ∃ m, (sMatrix { mCmd .mdst (gMma 0) 256 with started := true }).readyCmd (2, 143) 9 .mdst = some m ∧ m.started = true :=
  ⟨by decide +kernel, _, rfl, rfl⟩

/-- A copy of one word from memory to memory, one to a core of the other Tower die, and one whose set no copy may have. -/
def cCopy (started : Bool) (w7 : DWord) : CopyCmd :=
  { id := 9, course := 0, block := 0, ctx := 0, die := 2, core := 143, dn := 0,
    w := [0x20000, 0x30000, .ofNat 64 (4 + 2 ^ 24 + 2 ^ 40 + 2 ^ 52), 0, 0, 0, 0, w7], cpym := false, mma := none,
    started := started, status := 0, targets := if started then [⟨3, 0, 1, 0, 0, 0, false⟩] else [], flt := none, reads := [],
    acks := [], drained := false, freed := false, signalled := false, counted := [] }
def wRemote : DWord := .ofNat 64 (2 * 2 ^ 40 + 2 ^ 43 + 2 ^ 48)
def sCopy (c : CopyCmd) : State :=
  { sBase with blocks := [(0, bEngine), (1, { bEngine with die := 3, core := 0 })],
               cores := [((2, 143), { Core.reset with copies := [c] })] }

/-- A unit of that copy in the staging buffer. -/
def uStag : StagUnit := ⟨9, (2, 143), 2, 0, [(0, 1)], [0]⟩

theorem witness_CopyAndCollectiveEvents_copies : (∃ l, ((sCopy (cCopy false 0)).core (2, 143)).copies = cCopy false 0 :: l) ∧
    (cCopy false (.ofNat 64 (3 * 2 ^ 32))).setStatus = some 6 ∧ (cCopy false 0).setStatus = none ∧
    (cCopy false 0).inOwn 64 = true ∧
    ((cCopy false 0).ownSlots.1 ++ (cCopy false 0).ownSlots.2).all bEngine.mem.engineOwned = true ∧
    (∃ ts, (sCopy (cCopy false 0)).targetsOf (cCopy false 0) = some ts) ∧
    (∃ t, (cCopy true 0).targets[0]? = some t ∧ t.done = false) ∧ (sCopy (cCopy true 0)).copyReady (cCopy true 0) = true ∧
    (sCopy (cCopy true wRemote)).copy? (2, 143) 9 = some (cCopy true wRemote) ∧ (cCopy true wRemote).remote = true ∧
    (cCopy true wRemote).tdie ≠ (cCopy true wRemote).die ∧
    (sCopy (cCopy true wRemote)).copyReady (cCopy true wRemote) = true ∧
    ((cCopy true wRemote).targets.all (·.done)) = false ∧
    (∃ u, (cCopy true wRemote).units[((cCopy true wRemote).targets.map (·.sent)).foldl max 0]? = some u) ∧
    256 ≤ (((List.range 256).map fun k => (k, uStag)).filter fun u => u.2.dir == (cCopy true wRemote).dir).length ∧
    tget 5 ({ sCopy (cCopy true wRemote) with staging := [(5, uStag)] } : State).staging = some uStag ∧ uStag.targets = [0] ∧
    (sCopy (cCopy true wRemote)).takes ⟨3, 0, 1, 0, 0, 0, false⟩ 0 = true :=
  ⟨⟨_, rfl⟩, rfl, rfl, rfl, rfl, ⟨_, rfl⟩, ⟨_, rfl, rfl⟩, rfl, rfl, rfl, by decide, rfl, rfl, ⟨_, rfl⟩, by decide +kernel, rfl, rfl, rfl⟩

/-- A unit of the copy to another die that finds room and its words. -/
theorem witness_CopyAndCollectiveEvents_units :
    (∃ q l, (cCopy true wRemote).units[0]? = some (q, l) ∧
      ∃ ws, ((sCopy (cCopy true wRemote)).copyRead (cCopy true wRemote) 0 l).1 = .words ws) ∧
    (sCopy (cCopy true wRemote)).staging = [] ∧ (cCopy true wRemote).key = (2, 143) ∧
    (sCopy (cCopy true wRemote)).copy? (cCopy true wRemote).key (cCopy true wRemote).id = some (cCopy true wRemote) :=
  ⟨⟨_, _, rfl, _, by rfl⟩, rfl, rfl, rfl⟩

/-- A reduction of one word over the package alone. -/
def cColl (started written : Bool) (n : DWord) : Coll :=
  { id := 9, op := 0, course := 0, block := 0, ctx := 0, die := 0, core := 0, dn := 0, cop := 0, src := 0x20000, dst := 0x30000,
    n := n, w := [], started := started, members := if started then [0] else [], rank := 0, written := written, flt := none,
    reads := [], acks := [], signalled := false, counted := [], old := [] }
def sColl (c : Coll) : State := { sBase with colls := [(9, c)] }
theorem witness_CopyAndCollectiveEvents_collectives : (sColl (cColl false false 1)).coll? 9 = some (cColl false false 1) ∧
    (sColl (cColl false false 1)).collDue (cColl false false 1) = true ∧
    (∃ e, ((sColl (cColl false false 0)).collCheck (cColl false false 0)).1 = .error e) ∧
    (∃ p, ((sColl (cColl false false 1)).collCheck (cColl false false 1)).1 = .ok [p]) ∧
    (cColl true false 1).wire = false ∧ (∃ xs u, ((sColl (cColl true false 1)).collRead (cColl true false 1) 1
      (wordsAt (cColl true false 1).src (cColl true false 1).sourceLen)).1 = .words xs ∧
      (((sColl (cColl true false 1)).collRead (cColl true false 1) 1
        (wordsAt (cColl true false 1).src (cColl true false 1).sourceLen)).2.collRead (cColl true false 1) 2 []) = (.words [], u)) ∧
    (cColl true true 1).written = true ∧
    ∃ n, n < ({ cColl true false 1 with members := [0, 1] } : Coll).members.length ∧ n ≠ (cColl true false 1).rank :=
  ⟨rfl, rfl, ⟨_, rfl⟩, ⟨_, rfl⟩, rfl, ⟨_, _, rfl, rfl⟩, rfl, 1, by decide, by decide⟩

/-! #### Dispatch -/

/-- Blocks of core (0, 0) in the states that the events meet. -/
def bState (st : BState) : Block := { loadBlock with state := st, courses := [] }
def sBlocks (l : List (Nat × Block)) : State := { sBase with blocks := l, courses := [] }

/-- A LAUNCH packet of which a block is still to be made. -/
def pLaunch : Packet :=
  { ctx := 0, q := 63, die := 0, slot := 0, kind := 1, idx := 0, seq := 0, lnch := 0, attr := loadAttr, nblk := 1,
    next := 0, prio := 0, cfirst := 0, ccnt := 1, rot := 0, alive := 0, faults := 0, status := 0, csig := 0, cval := 0,
    ctrl := 0, wait := none, graph := none, rows := [], fenced := 0, held := false }
def sLaunch : State := { sBlocks [] with pkts := [(6, pLaunch)] }
/-- A block that asks for a slot, with context areas and no way free. -/
def sRoom : State :=
  { sBlocks [(3, { bState .bound with mem := { loadBlock.mem with n := 1 } })] with
    ctxs := [(0, { Ctx.start with ctxpt := 0x1000, capbase := 0x100000, capsize := 1024 })] }
theorem witness_BlockEvents_bind : (sBlocks []).mayBind 0 3 = false ∧ (sBlocks [(3, bState .unbound)]).mayBind 0 3 = true ∧
    tget 3 (sBlocks [(3, bState .unbound)]).pkts = none ∧
    (∃ x, (sBlocks [(3, bState .unbound)]).block? 3 = some x ∧ x.die = 0 ∧ x.task = none) ∧
    sLaunch.mayBind 0 6 = true ∧ (∃ p, tget 6 sLaunch.pkts = some p) ∧ sLaunch.block? sLaunch.uid = none :=
  ⟨by decide +kernel, by decide +kernel, rfl, ⟨_, rfl, rfl, rfl⟩, by decide +kernel, ⟨_, rfl⟩, by decide +kernel⟩
/-- No head; a fenced core; a head that 4 holds back; one that 6 does; one that nothing does. -/
theorem witness_BlockEvents_admission : (sBlocks []).listHead 0 0 = none ∧
    (∃ b x, (sBlocks [(3, bState .bound)]).listHead 0 0 = some (b, x) ∧ ((sBlocks []).core (0, 0)).fenced = false ∧
      (Config.isTower 0 && (sBlocks []).inStream 0 0) = false ∧ (sBlocks [(3, bState .bound)]).unmet b x = some 4) ∧
    (∃ b x, (sBlocks [(3, bState .away)]).listHead 0 0 = some (b, x) ∧ (sBlocks [(3, bState .away)]).unmet b x = none) ∧
    (∃ b x, sRoom.listHead 0 0 = some (b, x) ∧ sRoom.unmet b x = some 6) ∧
    (({ sBlocks [] with cores := [((0, 0), { Core.reset with fenced := true })] } : State).core (0, 0)).fenced = true :=
  ⟨rfl, ⟨_, _, rfl, rfl, rfl, by decide +kernel⟩, ⟨_, _, rfl, by decide +kernel⟩, ⟨_, _, rfl, by decide +kernel⟩, rfl⟩
/-- A quantum that ends with nothing waiting, and one with a block that waits. -/
theorem witness_BlockEvents_quantum : (sBlocks [(3, bState .resident)]).block? 3 = some (bState .resident) ∧
    (bState .resident).sliced = true ∧
    ((sBlocks [(3, bState .resident)]).reachTime (bState .resident).quantumEnd).expiresFirst 3 (bState .resident) 1000000 = true ∧
    ((sBlocks [(3, bState .resident)]).reachTime (bState .resident).quantumEnd).time = 1000000 ∧
    ((sBlocks [(3, bState .resident)]).reachTime (bState .resident).quantumEnd).listHead 0 0 = none ∧
    (∃ h y, ((sBlocks [(3, bState .resident), (4, bState .bound)]).reachTime (bState .resident).quantumEnd).listHead 0 0 = some (h, y) ∧
      ((sBlocks [(3, bState .resident), (4, bState .bound)]).reachTime (bState .resident).quantumEnd).unmet h y = some 4 ∧
      (bState .resident).level ≤ y.level) :=
  ⟨rfl, rfl, by decide +kernel, by decide +kernel, by decide +kernel, _, _, rfl, by decide +kernel, by decide⟩
theorem witness_BlockEvents_times : (bState .away).level < 23 ∧ (sBlocks [(3, bState .away)]).block? 3 = some (bState .away) ∧
    (sBase.resCourses 0 0).isEmpty = false ∧ sBase.timerZero 0 0 = false ∧ sBase.timerHeld 0 0 = false :=
  ⟨by decide, rfl, by decide +kernel, by decide +kernel, by decide +kernel⟩
/-- A task that waits for its keys, one that waits for a decrement, and a graph block. -/
def tTask (st : TState) (dep : Nat) (graph : Option (Nat × Nat)) : Task :=
  { handle := 0x1000, ctx := 0, page := some 0, die := 0, state := st, dep := dep, prio := 0, keys := [⟨4, false, 64, 0x20000, false⟩],
    succ := [], csig := 0, cval := 0, ctrl := 0, attr := loadAttr, cfirst := 0, ccnt := 1, slot := none, block := none,
    pkt := none, graph := graph, emits := [], resv := 0, share := false, pageShare := none, born := 0, lnch := 0 }
def sTasks (tk : Task) (l : List (Nat × Key)) : State :=
  { sBase with tasks := [(5, tk)], dies := sBase.dies.map fun d => { d with keys := l } }
def kHeld : Key := ⟨0, 0, 0, 0, [], [5]⟩

/-- A decrement or a release that is on its way, behind operation 7 or behind nothing. -/
def onWay (after : List Nat) : OnWay := ⟨3, 0, 0, 0, (0, 0), 0, 4, after⟩
def sWay (x : Course) (after : List Nat) : State :=
  { sCourse x with dies := sBase.dies.map fun d => { d with tdeps := [onWay after], keyrels := [onWay after] } }

theorem witness_DispatchEvents_tasks :
    tget 5 (sTasks (tTask .keywait 0 none) [(1, kHeld)]).tasks = some (tTask .keywait 0 none) ∧
    (sTasks (tTask .keywait 0 none) [(1, kHeld)]).grantable 5 (tTask .keywait 0 none) = true ∧
    ((sTasks (tTask .keywait 0 none) [(1, kHeld)]).newLnch (tTask .keywait 0 none).die).isSome = true ∧
    (sTasks (tTask .pending 1 none) [(1, kHeld)]).grantable 5 (tTask .pending 1 none) = false ∧
    ((sTasks (tTask .pending 1 none) []).tasks.find? fun t => t.2.ctx == 0 && t.2.handle == 0x1000 && t.2.page.isSome &&
      t.2.graph.isNone) = some (5, tTask .pending 1 none) ∧ (tTask .pending 1 none).state = .pending :=
  ⟨rfl, by decide +kernel, by decide +kernel, by decide +kernel, by decide +kernel, rfl⟩
/-- A release behind operation 7 and one behind nothing, of a block whose task holds the key. -/
def sRelease : State :=
  { sWay loadCourse [] with
    blocks := [(0, { loadBlock with task := some 5 })]
    tasks := [(5, { tTask .running 0 none with keys := [⟨4, false, 64, 0x20000, true⟩] })] }
theorem witness_DispatchEvents_ways : ((sWay loadCourse []).die 0).tdeps = [onWay []] ∧ (sWay loadCourse []).allPerformed [] = true ∧
    (((sWay (sOp .sst 0 []) [7]).die 0).keyrels.find? fun w => w.id == 3) = some (onWay [7]) ∧
    (sWay (sOp .sst 0 []) [7]).allPerformed (onWay [7]).after = false ∧
    ((sRelease.die 0).keyrels.find? fun w => w.id == 3) = some (onWay []) ∧ sRelease.allPerformed (onWay []).after = true ∧
    ∃ b t tk e, (sRelease.onDie 0 fun d => { d with keyrels := d.keyrels.filter fun x => x.id != 3 }).block? (onWay []).block = some b ∧
      b.task = some t ∧ tget t (sRelease.onDie 0 fun d => { d with keyrels := d.keyrels.filter fun x => x.id != 3 }).tasks = some tk ∧
      (tk.keys.findIdx? fun e => e.held && e.key == (onWay []).arg.toNat) = some e :=
  ⟨rfl, rfl, by decide +kernel, by decide +kernel, by decide +kernel, by decide +kernel, _, _, _, _, rfl, rfl, rfl, rfl⟩

theorem witness_DispatchEvents_requests : (∃ x : Course, (sCourse x).course? 0 = some x ∧ x.req = some (0, .tsub 0) ∧ x.ops = []) ∧
    ∃ x : Course, (sCourse x).course? 0 = some x ∧ x.req = some (0, .qsub 0 0 63 1) ∧ x.ops ≠ [] :=
  ⟨⟨{ loadCourse with req := some (0, .tsub 0) }, rfl, rfl, rfl⟩,
   { sOp .sst 0 [] with req := some (0, .qsub 0 0 63 1) }, rfl, rfl, by decide⟩

/-- A node of one output with two pages, in a context of two records or of one. -/
def nNode : Node := ⟨loadAttr, 255, 8, [(0, 2)], 0, false⟩
def sGraph (n : Nat) : State :=
  { sBase with tasks := [(5, tTask .keywait 0 (some (1, 0)))], graphs := [(1, ⟨0, 0, 0, [nNode], 1⟩)],
               ctxs := [(0, { Ctx.start with rpsize := n })] }
theorem witness_DispatchEvents_graph : (sGraph 2).nextGraphBlock 0 = some (5, tTask .keywait 0 (some (1, 0))) ∧
    (sGraph 2).nodeOf (tTask .keywait 0 (some (1, 0))) = some nNode ∧ tget 5 (sGraph 2).tasks = some (tTask .keywait 0 (some (1, 0))) ∧
    (∃ x, (sGraph 2).ctx? 0 = some x) ∧
    (sGraph 1).nextGraphBlock 0 = some (5, tTask .keywait 0 (some (1, 0))) ∧
    (sGraph 1).reserveFrom (tTask .keywait 0 (some (1, 0))) = none ∧
    (sGraph 2).reserveFrom (tTask .keywait 0 (some (1, 0))) = some false ∧
    ((sGraph 2).boundList 0 ((sGraph 2).taskCore (tTask .keywait 0 (some (1, 0)))).1).length < 8 :=
  ⟨by decide +kernel, by decide +kernel, rfl, ⟨_, rfl⟩, by decide +kernel, by decide +kernel, by decide +kernel, by decide +kernel⟩

/-- A continuation over N2 that has not woken, and one that has, with room and without. -/
def kCont (woken : Option Nat) : Contn := ⟨0, 1, 0, none, 1, 0, 0, false, woken⟩
def sCont (woken : Option Nat) (n : Nat) : State :=
  { sCourse { loadCourse with pres := .parked, outs := List.replicate n ⟨7, 2, false⟩ } with conts := [(0, kCont woken)] }
theorem witness_DispatchEvents_continuations : tget 0 (sCont none 1).conts = some (kCont none) ∧
    (sCont none 1).readDesc 0 (kCont none) = sCont none 1 ∧ (∃ u, (sCont none 1).wakeStatus 0 (kCont none) = (none, u)) ∧
    (sCont (some 0) 0).readDesc 0 (kCont (some 0)) = sCont (some 0) 0 ∧ (kCont (some 0)).woken = some 0 ∧
    (∃ b, (sCont (some 0) 0).block? ((sCont (some 0) 0).course 0).info.block = some b ∧ b.state = .resident) ∧
    (∃ b, ({ sCont (some 0) 0 with blocks := [(0, { loadBlock with state := .ended })] } : State).block? loadCourse.info.block =
      some b ∧ b.state = .ended) ∧
    (sCont (some 0) 0).roomFor ((sCont (some 0) 0).course 0) = true ∧
    (sCont (some 0) 0).roomFor { loadCourse with info := { loadInfo with floor := 4096 } } = false ∧
    ((sCont (some 0) 0).areaReach 0 loadCourse.info.ctxa loadCourse.info.areaSize .read).1 = some true ∧
    (sCont (some 0) 0).blockLives ((sCont (some 0) 0).course 0).info.block = false ∧
    (let s : State := { sCont (some 0) 0 with courses := (sCont (some 0) 0).courses ++ [(1, loadCourse)] }
     s.blockLives (s.course 0).info.block = true ∧ s.roomFor (s.course 0) = true ∧
       (s.areaReach 0 loadCourse.info.ctxa loadCourse.info.areaSize .read).1 = some true ∧
       ((s.areaReach 0 loadCourse.info.ctxa loadCourse.info.areaSize .read).2.makeRoom [0]).1 = true) :=
  ⟨rfl, by decide +kernel, ⟨_, withFst (by decide +kernel)⟩, by decide +kernel, rfl, ⟨_, rfl, rfl⟩, ⟨_, rfl, rfl⟩, by decide +kernel,
   by decide +kernel, by decide +kernel, by decide +kernel, by decide +kernel⟩

/-! #### Queues -/

/-- Queue 63 of context 0 with wr packets submitted and rd taken. -/
def sQueue (st : QState) (wr rd : Nat) : State :=
  { sBase with ctxs := [(0, { Ctx.start with ctxpt := 0x1000, queues := [(63, ⟨4, 0x20000, wr, rd, st, [], none, none, none⟩)] })] }
/-- The same with slot 0 of die 0 bound to it. -/
def sSlot (st : QState) (wr rd : Nat) : State :=
  (sQueue st wr rd).onDie 0 fun d => { d with slots := setAt 0 (.ofNat 64 (1 + 63 * 2 ^ 32), 0x100) d.slots }

theorem witness_QueueEvents_portal : (sBase.boot.stage ≠ 15 ∧ (sQueue .bound 15 0).boot.stage ≠ 15) ∧ (∃ c, sBase.ctx? 0 = some c) ∧ ¬ ([1, 2, 3, 4] : List Byte).length = 64 ∧
    (∃ c, sBase.ctx? 0 = some c ∧ tget (0 / 64) c.queues = none) ∧
    (∃ c x, (sQueue .created 16 0).ctx? 0 = some c ∧ tget (4032 / 64) c.queues = some x ∧ 2 ^ x.k ≤ x.wr - x.rd) ∧
    (∃ c x u, (sQueue .bound 15 0).ctx? 0 = some c ∧ tget (4032 / 64) c.queues = some x ∧ x.wr - x.rd < 2 ^ x.k ∧
      x.state ≠ .draining ∧ x.state ≠ .error ∧
      (sQueue .bound 15 0).hwWrite 0 (x.ring + .ofNat 64 (64 * (x.wr % 2 ^ x.k))) (List.replicate 64 1) = (true, u)) :=
  ⟨by decide, ⟨_, rfl⟩, by decide, ⟨_, rfl, rfl⟩, ⟨_, _, rfl, rfl, by decide⟩, _, _, _, rfl, rfl, by decide, by decide, by decide, withFst (by decide +kernel)⟩
theorem witness_QueueEvents_queues : (∃ c, sBase.ctx? 0 = some c ∧ tget 63 c.queues = none) ∧
    (∃ c x, (sQueue .bound 3 3).ctx? 0 = some c ∧ tget 63 c.queues = some x ∧ (c.queues.map (·.1)).Nodup ∧ x.wr ≤ x.rd ∧
      x.open_ = []) ∧ 3 < sBase.dies.length :=
  ⟨⟨_, rfl, rfl⟩, ⟨_, _, rfl, rfl, by decide, by decide, rfl⟩, by decide⟩

/-- What the window of slot 0 leaves of a state before it decodes. -/
def wNext (s : State) : State := (s.onDie 0 fun d => { d with window := ((s.die 0).window + 1) % 64 }).applyBind 0 (s.die 0).window
theorem witness_QueueEvents_windows : ((wNext sBase).die 0).slots.getD 0 (0, 0) = (0, 0) ∧ (sBase.die 0).window = 0 ∧
    (∀ s ∈ [sSlot .bound 1 0, sSlot .bound 1 1],
      (((wNext s).die 0).slots.getD (s.die 0).window (0, 0)).1.getLsbD 0 = true ∧
      ((s.die 0).failed.any (fun f => f.1 == 6)) = false) ∧
    (let u := wNext (sSlot .bound 1 0)
     let n := slotUse 0 0 ((u.die 0).slots.getD 0 (0, 0))
     ∃ q, tget n.q (u.ctx n.ctx).queues = some q ∧ q.state = .bound ∧ q.rd < q.wr ∧
       ∃ bs v, u.hwRead n.ctx (q.ring + .ofNat 64 (64 * (q.rd % 2 ^ q.k))) 64 = (some bs, v)) ∧
    (let u := wNext (sSlot .bound 1 1)
     let n := slotUse 0 0 ((u.die 0).slots.getD 0 (0, 0))
     ∃ q, tget n.q (u.ctx n.ctx).queues = some q ∧ q.wr ≤ q.rd) :=
  ⟨by decide +kernel, rfl, by decide +kernel, ⟨_, rfl, rfl, by decide, _, _, withFst (by rfl)⟩, _, rfl, by decide⟩

/-- A WAIT packet, and a row stream that waits for its row, of packet 6. -/
def kPkt (w : Option WaitA) : Packet :=
  { ctx := 0, q := 63, die := 2, slot := 0, kind := if w.isSome then 6 else 2, idx := 0, seq := 0, lnch := 0, attr := loadAttr, nblk := 1,
    next := 1, prio := 0, cfirst := 0, ccnt := 1, rot := 0, alive := 1, faults := 0, status := 0, csig := 0, cval := 0,
    ctrl := 0, wait := w, graph := none, rows := [11], fenced := 0, held := false }
def rRow (started : Bool) : RowStream :=
  { id := 1, row := 11, lnch := 0, pkt := 6, ctx := 0, attr := loadAttr, skew := 0, ridx := 0, nrow := 1, pla := 0, pls := 0, pln := 0, prio := 0,
    courses := if started then [0] else [], started := started, visible := true, slot := 0, flt := none,
    reads := [] }
def wPkt : WaitA := ⟨0x20000, 0, 0, false, 0, false, none, false, none, none, none, false⟩
def sRow (started : Bool) : State :=
  { sBase with pkts := [(6, kPkt none)] }.onDie 2 fun d => { d with rows := [rRow started] }

def sWaitPkt (w : WaitA) : State := { sBase with pkts := [(6, kPkt (some w))] }
theorem witness_QueueEvents_packets : tget 6 (sWaitPkt wPkt).pkts = some (kPkt (some wPkt)) ∧
    (kPkt (some wPkt)).wait = some wPkt ∧ wPkt.got = none ∧ wPkt.sent = none ∧
    (∃ u, (sWaitPkt wPkt).peekPkt (kPkt (some wPkt)) wPkt = (.word 0, u)) ∧
    ({ wPkt with got := some 5 } : WaitA).got = some 5 ∧ waitCond wPkt.cond 5 wPkt.t = true ∧
    tget 6 (sRow false).pkts = some (kPkt none) ∧
    (((sRow false).die 2).rows.find? fun r => !r.started && r.row == 11 && r.pkt == 6) = some (rRow false) ∧
    ({ sRow false with cores := [((2, 143), { Core.reset with fenced := true })] } : State).rowFree 2 11 0 = false ∧
    (((sRow true).die 2).rows.find? fun r => r.started && r.row == 11) = some (rRow true) ∧ (rRow true).courses = [0] ∧
    ({ sRow true with courses := [(0, { loadCourse with pres := .away })] } : State).course 0 ≠ loadCourse ∧
    ((sRow true).course 0).pres = .resident :=
  ⟨rfl, rfl, rfl, rfl, ⟨_, withFst (by decide +kernel)⟩, rfl, by decide, rfl, by decide +kernel, by decide +kernel, by decide +kernel,
   rfl, by decide +kernel, rfl⟩

/-- Row 11 free, with areas for its 12 columns and nothing to preload. -/
def sStart : State := { sRow false with ctxs := [(0, { Ctx.start with ctxpt := 0x1000, capbase := 0x100000, capsize := 4096 })] }
theorem witness_QueueEvents_starts : sStart.rowFree 2 11 (slotsOf true loadAttr.spk) = true ∧
    (carve (sStart.ctx 0).capsize (areaPages 2 0 0) 12 (sStart.usedAreas 0)).isSome = true ∧
    (((rowCores 11).foldl (fun s c => s.acquireL1 (2, c)) sStart).preloads (rRow false) 2).1 = .bytes [] ∧
    ∀ k, State.reset.uid ≤ k → State.reset.course? k = none ∧ State.reset.block? k = none :=
  ⟨by decide +kernel, by decide +kernel, by decide +kernel, fun _ _ => ⟨rfl, rfl⟩⟩

/-- The stream runs: its course is at a bundle of NOPs, or at EXIT, which every column takes at one place. -/
def sStream (b : List Byte) : State :=
  { State.reset.loadBundle b with pkts := [(6, kPkt none)] }.onDie 2 fun d => { d with rows := [rRow true] }
def bExit : List Byte := [0, 0, 0, 0x0D] ++ List.replicate 12 0
theorem witness_QueueEvents_rows :
    (let u := (sStream (List.replicate 16 0)).rowTick 2 11
     let v := ([0].foldl (fun s c => s.onCourse c fun x => x.share (u.course 0)) u).rowWake [0]
     u.running 2 11 = [0] ∧ v.rowError [0] = none ∧ v.rowbuf = [] ∧ (v.course 0).ready ≠ 0) ∧
    (∀ b ∈ [List.replicate 16 0, bExit], let s := sStream b
      let f := (s.fetchBytes 0 0).2
      let d := decodeBytes b
      (s.fetchBytes 0 0).1 = some b ∧ (f.course 0).ill (wordsOf b) d = none ∧ d.toOption.isSome = true ∧
      ∀ k ∈ d.toOption, (((bInstrs k).map scalarsOf).flatten.any (f.course 0).sBusy) = false ∧
        rowTrap ((f.rowLatch [0] 0 k).2.rowSlot0 (f.rowLatch [0] 0 k).1 k ++ (f.rowLatch [0] 0 k).1) = none ∧
        rowSyncs k = decide (b = bExit) ∧
        (((f.rowLatch [0] 0 k).2.rowSlot0 (f.rowLatch [0] 0 k).1 k).all fun p => p.2.goes) = true) ∧
    (let i : Issue := (sIss 1).iss
     let r := (sIss 1).rowAdmit [(i, .go)]
     (sIss 1).collFull [] i = false ∧ r.1 = some true ∧ r.2.rowLost [(i, .go)] = false) :=
  ⟨by decide +kernel, by decide +kernel, by decide +kernel⟩

/-! #### Management, faults, health -/

/-- A load of course 0 on its way through a translation of context 0. -/
def sSent : State :=
  { sCourse { loadCourse with ops := [{ opLoad false with id := 7, lanes := [{ lane0 0x20000 with st := .sent }] }] } with
    regs := { sBase.regs with tlbBusy := some 0, tlbBusyN := 0 } }
theorem witness_ManagementEvents : (∃ x, sBase.ctx? (sBase.die 3).ctxsel = some x) ∧ 3 < sBase.dies.length ∧
    (sBase.key (fld (0x1FFFF : DWord) 0 16 * 4 + 3)).st ≠ 3 ∧
    ((sTasks (tTask .pending 0 none) [(1, { kHeld with st := 3 })]).key (fld (1 : DWord) 0 16 * 4)).st = 3 ∧
    sBase.regs.tlbHeld = [] ∧ sBase.regs.tlbBusy = none ∧
    sSent.regs.tlbHeld = [] ∧ sSent.regs.tlbBusy = some 0 ∧ sSent.oldAccess 0 sSent.regs.tlbBusyN.toNat = true ∧
    ({ sBase with regs := { sBase.regs with tlbBusy := some 1 } } : State).oldAccess 1 0 = false ∧
    sBase.ctx? 4095 = none ∧ (sBase.ctx? 0).isSome = true :=
  ⟨⟨_, rfl⟩, by decide, by decide, rfl, rfl, rfl, rfl, rfl, by decide +kernel, by decide +kernel, rfl, rfl⟩

/-- A page fault of context 0, its ring of 8 records full or not. -/
def fRec (written : Bool) : FaultRec := ⟨7, 0, 0x20000, 0, false, 0, 0, written⟩
def sFault (written : Bool) (tail : Nat) : State :=
  { sBase with faults := [fRec written],
               ctxs := [(0, { Ctx.start with ctxpt := 0x1000, frbase := 0x20000, frsize := 3, frtail := tail })] }
theorem witness_FaultEvents : (∃ c, (sFault false 7).ctx? 0 = some c ∧ (c.frtail + 1) % 2 ^ c.frsize = c.frhead % 2 ^ c.frsize) ∧
    ((sFault false 7).faults.find? fun g => g.ctx == 0 && g.uid % 2 ^ 16 == 7 && !g.written) = some (fRec false) ∧
    ((sFault false 6).faults.find? fun g => g.ctx == 0 && g.uid % 2 ^ 16 == 7 && !g.written) = some (fRec false) ∧
    (∃ c u, (sFault false 6).ctx? 0 = some c ∧ (c.frtail + 1) % 2 ^ c.frsize ≠ c.frhead % 2 ^ c.frsize ∧
      (sFault false 6).hwPa 0 (c.frbase + .ofNat 64 (32 * c.frtail)) .write = (some 0x200C0, u) ∧
      u.faults = (sFault false 6).faults ∧ u.ctxs = (sFault false 6).ctxs ∧ u.mem = (sFault false 6).mem) ∧
    ((sFault true 6).faults.find? fun g => g.ctx == 0 && g.uid % 2 ^ 16 == (7 : BitVec 16).toNat && g.written) = some (fRec true) :=
  ⟨⟨_, rfl, by decide⟩, rfl, rfl, ⟨_, _, rfl, by decide, withFst (by decide +kernel), by decide +kernel, by decide +kernel, by decide +kernel⟩, rfl⟩

theorem witness_HealthEvents : 3 < State.reset.dies.length ∧ (sCourse loadCourse).course? 0 = some loadCourse ∧
    loadCourse.flights = [] ∧ ((sCourse loadCourse).core loadCourse.coreKey).mq = [] ∧
    ((sCourse loadCourse).core loadCourse.coreKey).copies = [] ∧ (sCourse loadCourse).colls = [] ∧
    (∃ t l, sLine.translate 0 0x20000 .read = (.ok 0x20000, t) ∧ region 0x20000 ≤ 1 ∧
      sLine.l1? loadCourse.coreKey (lineOf 0x20000) = some l ∧ l.dirty = 0) ∧
    (let o : MemOp := { opLoad false with id := 7, lanes := [oLane] }
     ((xOne o).ops.find? fun o => o.reads && o.lanes.any fun l => l.open_) = some o ∧ o.fixedFn = false ∧ o.kind ≠ .rest) ∧
    State.reset.blocks = [] ∧ (State.reset.die 3).rows = [] ∧ 13 < State.reset.fab.ports.length :=
  ⟨by decide, rfl, rfl, rfl, rfl, rfl, ⟨_, _, withFst (by decide +kernel), by decide, rfl, rfl⟩, by decide +kernel, rfl, rfl, by decide⟩
/-- An error in the scratchpad under an open load, and an operation of the course that reads. -/
theorem witness_HealthEvents_reads : let o : MemOp := { opLoad true with id := 7, lanes := [lane0 0] }
    (xOne o).ops.find? (fun o => o.reads && o.lanes.any fun l => l.open_ && true) = some o ∧
      ((sCourse (xOne o)).failRead 0 1 fun _ _ => true).isSome = true := by decide +kernel

/-! #### Host, boot, fabric, links -/

/-- A request on PCI Express, and one on the fabric. -/
def rPcie : PcieReq := ⟨3, 3 * 2 ^ 52, 0, 4, [], 0, 7, 0, true, none, 0, 0, 0, 0⟩
def rFab : FabReq := ⟨3, 1, 0, 7, 0, 0, 4, none, 0⟩

theorem witness_HostEvents : ([1, 2] : List Byte).length = 2 ∧ 62 % 64 + 2 ≤ 64 ∧ (∃ pa, sBase.barPa 62 = some pa ∧
      sBase.lineFailed (lineOf pa) = false ∧ ({ sBase with failed := [lineOf pa] } : State).barPa 62 = some pa ∧
      ({ sBase with failed := [lineOf pa] } : State).lineFailed (lineOf pa) = true) ∧ 0x3FFFFFC + 4 ≤ 2 ^ 26 ∧
    tget 0 ({ sBase with dcache := [(0, true)] } : State).dcache = some true ∧ tget 0 sBase.dcache = none ∧
    ({ sBase with pcie := [rPcie] } : State).pcie = [rPcie] ∧ rPcie.open_ = true ∧ sBase.boot.stage ≠ 15 ∧
    (sBase.onBoot fun b => { b with stage := 15 }).boot.stage = 15 :=
  ⟨rfl, by decide, ⟨62, by decide +kernel, by decide +kernel, by decide +kernel, by decide +kernel⟩, by decide, rfl, by decide +kernel, rfl, rfl, by decide, rfl⟩

/-- No image at all has no signature word, which is the first reason; which image is accepted is opaque (log entry 14). -/
theorem witness_BootEvents : State.reset.boot.powered = false ∧ bankErr 0 [] ≠ 0 ∧
    (State.reset.onBoot fun b => { b with powered := true }).boot.powered = true ∧
    ({ State.reset.boot with todo := [[1], [2], [3], [4]] } : Boot).stage = 0 ∧ State.reset.boot.images = [] ∧
    State.reset.boot.todo = [] ∧ ({ State.reset.boot with stage := 5 } : Boot).todo = [] :=
  ⟨rfl, by decide +kernel, rfl, rfl, rfl, rfl, rfl⟩

/-- A package that has booted an image, and one that has not. -/
theorem witness_FusedVersion : ({ State.reset.boot with stage := 5, images := [[0]] } : Boot).stage = 5 ∧
    ({ State.reset.boot with stage := 5, images := [[0]] } : Boot).images ≠ [] ∧ State.reset.boot.stage ≠ 5 ∧
    State.reset.boot.images = [] := ⟨rfl, by decide, by decide, rfl⟩

/-- Requests for the own package, of each kind, for an address that is stored. -/
def fReq (kind : BitVec 3) (dst : BitVec 10) (rsp : Bool) : Flit :=
  { kind := kind, rsp := rsp, vc := 0, len := 4, dst := dst, src := 1, tag := 3, addr := 0x20000, op := 0, payload := [1, 0, 0, 0] }
theorem witness_FabricEvents : (∀ k ∈ [(0 : BitVec 3), 1, 2, 3, 4], (fReq k 0 false).dst.toNat = sBase.ownIdx ∧
      (fReq k 0 false).rsp = false ∧
      (sBase.fab.kept.find? fun q => q.1 == (fReq k 0 false).src && q.2.1 == (fReq k 0 false).tag) = none) ∧
    sBase.readableAt (fabLocal (fReq 2 0 false).addr.toNat) 4 = true ∧
    flitWords (fReq 2 0 false) = 1 ∧ flitOpOk (fReq 2 0 false) = true ∧ flitOpOk { fReq 2 0 false with op := 0x80 } = false ∧
    (∃ a, ((sBase.onFab fun x => { x with kept := [(1, 3, fReq 0 1 true)] }).fab.kept.find? fun k =>
      k.1 == (fReq 4 0 false).src && k.2.1 == (fReq 4 0 false).tag) = some ((fReq 4 0 false).src, (fReq 4 0 false).tag, a)) ∧
    (fReq 0 1 true).dst.toNat ≠ sBase.ownIdx ∧ (fReq 0 0 true).dst.toNat = sBase.ownIdx ∧
    (sBase.onFab fun x => { x with reqs := [rFab] }).fab.reqs = [rFab] ∧ rFab.tag = (fReq 0 0 true).tag ∧
    rFab.dst = (fReq 0 0 true).src :=
  ⟨by decide +kernel, by decide +kernel, rfl, by decide, by decide, ⟨_, rfl⟩, by decide +kernel, by decide +kernel,
   rfl, rfl, rfl⟩

/-- Port 5 in a state, with one flit that is not acknowledged. -/
def sPort (st : Nat) (un : List (List Byte)) : State :=
  State.reset.onPort 5 fun k => { k with st := st, nakSent := true, unacked := un, seqRx := 1 }
/-- A flit of 240 bytes, their check sequence and 8 bytes of counters passes the check. -/
theorem crc_framed (body seq : List Byte) (hb : body.length = 240) (hs : seq.length = 8) :
    let bs := body ++ leBytes 8 (crc64 (body ++ seq)).toNat ++ seq
    bs.length = 256 ∧ (crc64 (bs.take 240 ++ bs.drop 248)).toNat = leVal ((bs.drop 240).take 8) ∧ (bs.drop 248).take 8 = seq := by
  have hl := length_leBytes 8 (crc64 (body ++ seq)).toNat
  have h1 : (body ++ leBytes 8 (crc64 (body ++ seq)).toNat ++ seq).take 240 = body := by
    rw [List.append_assoc, ← hb, List.take_left]
  have h2 : (body ++ leBytes 8 (crc64 (body ++ seq)).toNat ++ seq).drop 248 = seq := List.drop_left' (by simp [hb])
  have h3 : ((body ++ leBytes 8 (crc64 (body ++ seq)).toNat ++ seq).drop 240).take 8 = leBytes 8 (crc64 (body ++ seq)).toNat := by
    rw [List.append_assoc, List.drop_left' hb, List.take_left' hl]
  refine ⟨by simp [hb, hs], ?_, ?_⟩
  · rw [h1, h2, h3, leVal_leBytes _ _ (by have := (crc64 (body ++ seq)).isLt; omega)]
  · rw [h2, ← hs, List.take_length]

/-- An idle flit, of KIND 7 and sequence number 1; its last eight bytes as another number n make one out of order. -/
def idleBody : List Byte := 7 :: List.replicate 239 0
def idleFlit (n : Nat) : List Byte := idleBody ++ leBytes 8 (crc64 (idleBody ++ leBytes 8 n)).toNat ++ leBytes 8 n
theorem witness_LinkEvents_flits (n : Nat) : (idleFlit n).length = 256 ∧
    (crc64 ((idleFlit n).take 240 ++ (idleFlit n).drop 248)).toNat = leVal (((idleFlit n).drop 240).take 8) ∧
    ((idleFlit n).drop 248).take 8 = leBytes 8 n := crc_framed _ _ (by decide +kernel) (length_leBytes 8 n)
theorem witness_LinkEvents_idle : (flitOf (idleFlit 1)).map (·.kind) = some 7 ∧ leVal (leBytes 8 1) / 2 ^ 50 = 0 ∧
    leVal (leBytes 8 1) % 2 ^ 24 = ((sPort 2 []).port 5).seqRx % 2 ^ 24 ∧
    leVal (leBytes 8 0) % 2 ^ 24 ≠ ((sPort 2 []).port 5).seqRx % 2 ^ 24 ∧
    (((sPort 2 []).onPort 5 fun k => k.accept (leVal (leBytes 8 1))).port 5).nak = false := by decide +kernel

theorem witness_LinkEvents : (sPort 2 []).fab.ports.length = 14 ∧ ((sPort 2 []).port 5).st = 2 ∧
    (List.replicate 255 0 : List Byte).length ≠ 256 ∧ ((sPort 2 []).port 5).nakSent = true ∧ ((sPort 2 []).port 5).nak = false ∧
    ((sPort 2 []).port 5).seqRx % 2 ^ 24 = 1 ∧
    ((sPort 2 [[]]).port 5).unacked ≠ [] ∧ ((sPort 1 []).port 5).st = 1 ∧ ((sPort 1 []).port 5).unacked = [] ∧
    (((sPort 2 []).onPort 5 fun k => { k with nakSent := false }).port 5).nakSent = false ∧
    (sPort 1 []).fab.sent = [] ∧ (sPort 1 []).fab.transit = [] ∧ (sPort 1 []).fab.reqs = [] ∧ (sPort 1 []).portUsed 5 = false ∧
    ((State.reset.port 6).st < 2 ∧ 6 < State.reset.fab.ports.length) ∧ ((sPort 2 []).port 5).unacked.length < 1024 ∧
    (({ sPort 1 [] with fab := { (sPort 1 []).fab with fabid := .ofNat 64 (7 * 2 ^ 31) } } : State).portUsed 5 = true) :=
  ⟨rfl, rfl, by decide +kernel, rfl, rfl, by decide +kernel, by decide,
   rfl, rfl, rfl, rfl, rfl, rfl, by decide +kernel, by decide +kernel, by decide +kernel, by decide +kernel⟩

end Sys2Proof.Tests
end

/-!
# Every step keeps memory canonical

Memory changes in one place only: `State.pokePa` puts bytes, and `cellWf_cellPuts` says that this keeps
the canonical form (log entry 3). Every other function of the model either leaves memory as it is
(`f_mem`) or reaches memory through functions that keep the form (`f_wf`). One lemma of the one kind or
the other stands here for each function a step calls, in the order of the model's files; `exec_wf`
collects them over the instructions and events, and `step_wf` over a whole step.
-/

namespace Sys2Proof.Machine

/-- Memory is in its canonical form (log entry 3). -/
@[simp] abbrev State.MemWf (s : State) : Prop := Memory.wf s.mem = true

/-- A state with the same memory. -/
theorem State.MemWf.of_mem {s t : State} (h : s.MemWf) (e : t.mem = s.mem) : t.MemWf := by
  rw [State.MemWf, e]; exact h

/-- A fold whose steps leave memory as it is leaves it as it is. -/
@[simp] theorem State.foldl_mem {α : Type} {f : State → α → State} (hf : ∀ t a, (f t a).mem = t.mem)
    (l : List α) (s : State) : (l.foldl f s).mem = s.mem := by
  induction l generalizing s with
  | nil => rfl
  | cons a l ih => rw [List.foldl_cons, ih, hf]

@[simp] theorem State.foldl_snd_mem {α β : Type} {f : β × State → α → β × State} (hf : ∀ p a, (f p a).2.mem = p.2.mem)
    (l : List α) (p : β × State) : (l.foldl f p).2.mem = p.2.mem := by
  induction l generalizing p with
  | nil => rfl
  | cons a l ih => rw [List.foldl_cons, ih, hf]

@[simp] theorem State.foldl_wf {α : Type} {f : State → α → State} (hf : ∀ t a, t.MemWf → (f t a).MemWf) (l : List α)
    (s : State) (h : s.MemWf) : (l.foldl f s).MemWf := by
  induction l generalizing s with
  | nil => exact h
  | cons a l ih => exact ih _ (hf s a h)

@[simp] theorem State.foldl_snd_wf {α β : Type} {f : β × State → α → β × State}
    (hf : ∀ p a, p.2.MemWf → (f p a).2.MemWf)
    (l : List α) (p : β × State) (h : p.2.MemWf) : (l.foldl f p).2.MemWf := by
  induction l generalizing p with
  | nil => exact h
  | cons a l ih => exact ih _ (hf p a h)

/-! ### Memory, translation and the caches (Machine/Mem) -/

@[simp] theorem State.dieLine_mem (s : State) (wr whole : Bool) (line : Nat) :
    (s.dieLine wr whole line).mem = s.mem := by
  unfold State.dieLine
  rfl

@[simp] theorem State.overwrote_mem (s : State) (ps : List (Nat × Nat)) : (s.overwrote ps).mem = s.mem := by
  simp [State.overwrote]

@[simp] theorem State.pokePa_wf {s : State} (h : s.MemWf) {pa : Nat} {bs : List Byte} : (s.pokePa pa bs).MemWf :=
  cellWf_cellPuts h

@[simp] theorem State.storePa_wf {s : State} (h : s.MemWf) {pa : Nat} {bs : List Byte} : (s.storePa pa bs).MemWf := by
  simp [State.storePa, State.writePa_wf, h]

@[simp] theorem State.homeRead_mem (s : State) (pa n : Nat) : (s.homeRead pa n).2.mem = s.mem := by
  simp [State.homeRead]

@[simp] theorem State.writeQ_wf {s : State} (h : s.MemWf) {pa : Nat} {v : DWord} : (s.writeQ pa v).MemWf := by
  simp [State.writeQ, State.writePa_wf, h]

@[simp] theorem State.lineReq_mem (s : State) (die pa : Nat) : (s.lineReq die pa).mem = s.mem := by simp [State.lineReq]

@[simp] theorem State.lineReqOnce_mem (s : State) (die pa : Nat) (again : Bool) :
    (s.lineReqOnce die pa again).mem = s.mem := by
  unfold State.lineReqOnce
  split <;> simp

@[simp] theorem State.entryAt_mem (s : State) (ctx level pa : Nat) (va : DWord) :
    (s.entryAt ctx level pa va).2.2.mem = s.mem := by
  unfold State.entryAt
  dsimp only
  (repeat' split) <;> simp

@[simp] theorem State.leafAt_wf {s : State} (h : s.MemWf) {level pa : Nat} {home e : DWord} {stale : Bool} {va : DWord}
    {use : Use} : (s.leafAt level pa home e stale va use).2.MemWf := by
  unfold State.leafAt
  extract_lets size deny bits s1 addr
  have h1 : s1.MemWf := by unfold s1; split <;> simp [h]
  split
  · exact h
  · clear_value deny
    (repeat' split) <;> exact h1

@[simp] theorem State.walk_wf {s : State} (h : s.MemWf) {ctx : Nat} {va : DWord} {use : Use} {cached : Bool}
    {lv table : Nat} : (s.walk ctx va use cached lv table).2.MemWf := by
  induction lv generalizing s table with
  | zero => exact h
  | succ lv ih =>
    rw [State.walk]
    extract_lets r e s1 base es all c g g' leaf
    have h1 : s1.MemWf := by unfold s1 r; split <;> simp [h]
    have hc : c.2.MemWf := by unfold c; split <;> simp [h1]
    split
    · exact h
    split
    · (repeat' split) <;> simp [hc]
    split
    · exact h1
    · (repeat' split) <;> simp [ih, h1]

@[simp] theorem State.walks_wf {s : State} (h : s.MemWf) {ctx : Nat} {va : DWord} {use : Use} {root : Nat} :
    (s.walks ctx va use root).2.MemWf := by
  unfold State.walks
  dsimp only
  split <;> simp [h]

@[simp] theorem State.translate_wf {s : State} (h : s.MemWf) {ctx : Nat} {va : DWord} {use : Use} :
    (s.translate ctx va use).2.MemWf := by
  unfold State.translate
  dsimp only
  (repeat' split) <;> simp [h]

@[simp] theorem State.pageFault_mem (s : State) (ctx : Nat) (va : DWord) (kind : Nat) (inWalk : Bool) (die : Nat)
    (lnch : Word) : (s.pageFault ctx va kind inWalk die lnch).2.mem = s.mem := by
  unfold State.pageFault
  dsimp only
  split <;> simp

@[simp] theorem State.reach_wf {s : State} (h : s.MemWf) {ctx : Nat} {va : DWord} {use : Use} {die : Nat} {lnch : Word}
    {flt : Option Nat} : (s.reach ctx va use die lnch flt).2.MemWf := by
  unfold State.reach
  dsimp only
  (repeat' split) <;> simp [h]

@[simp] theorem State.writeBack_wf {s : State} (h : s.MemWf) {k : Nat × Nat} {l : L1Line} :
    (s.writeBack k l).MemWf := by
  unfold State.writeBack
  dsimp only
  (repeat' split) <;> simp [h]

@[simp] theorem State.expose_wf {s : State} (h : s.MemWf) {k : Nat × Nat} {pa n : Nat} : (s.expose k pa n).MemWf := by
  unfold State.expose
  (repeat' split) <;> simp [h]

@[simp] theorem State.evict_wf {s : State} (h : s.MemWf) {k : Nat × Nat} {l : L1Line} : (s.evict k l).MemWf := by
  simp [State.evict, h]

@[simp] theorem State.evictLine_wf {s : State} (h : s.MemWf) {k : Nat × Nat} {line : Nat} :
    (s.evictLine k line).MemWf := by
  unfold State.evictLine
  split <;> simp [h]

@[simp] theorem State.engineWrite_wf {s : State} (h : s.MemWf) {k : Nat × Nat} {ws : List (Nat × List Byte)} :
    (s.engineWrite k ws).MemWf := by
  unfold State.engineWrite
  refine State.foldl_wf (fun t ln ht => by simp [ht]) _ _ ?_
  refine State.MemWf.of_mem ?_ (State.heal_mem _ _)
  refine State.foldl_wf (fun t p ht => State.pokePa_wf ht) _ _ ?_
  exact State.foldl_wf (fun t ln ht => by simp [ht]) _ _ h

@[simp] theorem State.allocLine_wf {s : State} (h : s.MemWf) {k : Nat × Nat} {line : Nat} :
    (s.allocLine k line).MemWf := by
  unfold State.allocLine
  dsimp only
  (repeat' split) <;> simp [h]

@[simp] theorem State.l1Load_wf {s : State} (h : s.MemWf) {k : Nat × Nat} {pa n : Nat} {nt again : Bool} :
    (s.l1Load k pa n nt again).2.MemWf := by
  unfold State.l1Load
  dsimp only
  (repeat' split) <;> simp [h]

@[simp] theorem State.l1Update_mem (s : State) (k : Nat × Nat) (pa : Nat) (bs : List Byte) (blk : Nat) :
    (s.l1Update k pa bs blk).mem = s.mem := by
  simp [State.l1Update]

@[simp] theorem State.l1Store_wf {s : State} (h : s.MemWf) {k : Nat × Nat} {pa : Nat} {bs : List Byte} {nt again : Bool}
    {blk : Nat} : (s.l1Store k pa bs nt again blk).MemWf := by
  unfold State.l1Store
  dsimp only
  (repeat' split) <;> simp [h]

@[simp] theorem State.releaseL1_wf {s : State} (h : s.MemWf) {k : Nat × Nat} {blk : Nat} :
    (s.releaseL1 k blk).MemWf := by
  unfold State.releaseL1
  exact State.foldl_wf (fun t a ht => by (repeat' split) <;> simp [ht]) _ _ h

@[simp] theorem State.freshLine_mem (s : State) (k : Nat × Nat) (l : L1Line) : (s.freshLine k l).mem = s.mem := by
  unfold State.freshLine
  split <;> simp

@[simp] theorem State.acquireL1_mem (s : State) (k : Nat × Nat) : (s.acquireL1 k).mem = s.mem := by
  simp [State.acquireL1]

@[simp] theorem State.inherit_mem (s : State) (k : Nat × Nat) (blk : Nat) : (s.inherit k blk).mem = s.mem := by
  simp [State.inherit]

@[simp] theorem State.release_wf {s : State} (h : s.MemWf) {k : Nat × Nat} {blk scope : Nat} :
    (s.release k blk scope).MemWf := by
  unfold State.release
  split <;> simp [h]

@[simp] theorem State.acquire_mem (s : State) (k : Nat × Nat) (blk scope : Nat) :
    (s.acquire k blk scope).mem = s.mem := by
  unfold State.acquire
  split <;> simp

@[simp] theorem State.reachAll_wf {s : State} (h : s.MemWf) {ctx : Nat} {va : DWord} {n : Nat} {use : Use} {die : Nat}
    {lnch : Word} {flt : Option Nat} : (s.reachAll ctx va n use die lnch flt).2.MemWf := by
  unfold State.reachAll
  exact State.foldl_snd_wf (fun t a ht => by dsimp only; (repeat' split) <;> simp [ht]) _ _ h

@[simp] theorem State.hwPa_wf {s : State} (h : s.MemWf) {ctx : Nat} {va : DWord} {use : Use} :
    (s.hwPa ctx va use).2.MemWf := by
  unfold State.hwPa
  dsimp only
  split <;> simp [h]

@[simp] theorem State.hwRead_wf {s : State} (h : s.MemWf) {ctx : Nat} {va : DWord} {n : Nat} :
    (s.hwRead ctx va n).2.MemWf := by
  unfold State.hwRead
  dsimp only
  (repeat' split) <;> simp [h]

@[simp] theorem State.hwWrite_wf {s : State} (h : s.MemWf) {ctx : Nat} {va : DWord} {bs : List Byte} :
    (s.hwWrite ctx va bs).2.MemWf := by
  unfold State.hwWrite
  dsimp only
  (repeat' split) <;> simp [State.writePa_wf, h]

@[simp] theorem State.hwWrites_wf {s : State} (h : s.MemWf) {ctx : Nat} {va : DWord} {pieces : List (Nat × List Byte)} :
    (s.hwWrites ctx va pieces).2.MemWf := by
  unfold State.hwWrites
  exact State.foldl_snd_wf (fun t a ht => by (repeat' split) <;> simp [ht]) _ _ h

/-! ### The register pool (Machine/Pool) -/

@[simp] theorem State.onLoc_mem (s : State) (l : Loc) (f : VEntry → VEntry) : (s.onLoc l f).mem = s.mem := by
  simp [State.onLoc]

@[simp] theorem State.spillOne_mem (s : State) (c : Nat) (cap : Bool) (excl : List Loc) :
    (s.spillOne c cap excl).mem = s.mem := by
  unfold State.spillOne
  split <;> simp

@[simp] theorem State.spillMany_mem (s : State) (c : Nat) (cap : Bool) (excl : List Loc) (n : Nat) :
    (s.spillMany c cap excl n).mem = s.mem := by
  induction n generalizing s with
  | zero => rfl
  | succ n ih => rw [State.spillMany]; simp [ih]

@[simp] theorem State.draw_mem (s : State) (c n : Nat) (excl : List Loc) : (s.draw c n excl).2.mem = s.mem := by
  unfold State.draw
  dsimp only
  (repeat' split) <;> simp

@[simp] theorem State.startFill_mem (s : State) (l : Loc) (excl : List Loc) : (s.startFill l excl).mem = s.mem := by
  unfold State.startFill
  dsimp only
  (repeat' split) <;> simp

@[simp] theorem State.areaReach_wf {s : State} (h : s.MemWf) {c : Nat} {va : DWord} {n : Nat} {use : Use} :
    (s.areaReach c va n use).2.MemWf := by
  unfold State.areaReach
  dsimp only
  split <;> simp [h]

@[simp] theorem State.areaReaches_wf {s : State} (h : s.MemWf) {l : List (Nat × DWord × Nat)} {use : Use} :
    (s.areaReaches l use).2.MemWf := by
  unfold State.areaReaches
  exact State.foldl_snd_wf (fun t a ht => by (repeat' split) <;> simp [ht]) _ _ h

@[simp] theorem State.areaReqs_mem (s : State) (die ctx : Nat) (l : List (DWord × Nat)) :
    (s.areaReqs die ctx l).mem = s.mem := by
  unfold State.areaReqs
  exact State.foldl_mem (fun t a => by (repeat' split) <;> simp) _ _

@[simp] theorem State.putBytes_wf {s : State} (h : s.MemWf) {ctx : Nat} {va : DWord} {bs : List Byte} :
    (s.putBytes ctx va bs).MemWf := by
  simp [State.putBytes, h]

@[simp] theorem State.useBytes_mem (s : State) (ctx : Nat) (va : DWord) (n : Nat) :
    (s.useBytes ctx va n).mem = s.mem := by
  unfold State.useBytes
  exact State.foldl_mem (fun t a => by (repeat' split) <;> simp) _ _

@[simp] theorem State.useBacking_mem (s : State) (l : Loc) : (s.useBacking l).mem = s.mem := by simp [State.useBacking]

@[simp] theorem State.putBacking_wf {s : State} (h : s.MemWf) {l : Loc} {e : VEntry} : (s.putBacking l e).MemWf := by
  simp [State.putBacking, h]

/-! ### Signals and errors (Machine/Signals) -/

@[simp] theorem State.rmwHome_wf {s : State} (h : s.MemWf) {k : Nat × Nat} {pa : Nat} {again : Bool} {f : Word → Word} :
    (s.rmwHome k pa again f).2.MemWf := by
  simp [State.rmwHome, State.writePa_wf, h]

@[simp] theorem State.rmwScratch_mem (s : State) (blk off : Nat) (f : Word → Word) :
    (s.rmwScratch blk off f).2.mem = s.mem := by
  simp [State.rmwScratch]

@[simp] theorem State.pcieFor_mem (s : State) (pa kind n : Nat) (data : List Byte) (course op lane : Nat)
    (isOpen : Bool) (ctx die core : Nat) (lnch : Word) :
    (s.pcieFor pa kind n data course op lane isOpen ctx die core lnch).mem = s.mem := by
  simp [State.pcieFor]

@[simp] theorem State.pcieSend_mem (s : State) (pa kind n : Nat) (data : List Byte) (course op lane : Nat)
    (isOpen : Bool) : (s.pcieSend pa kind n data course op lane isOpen).mem = s.mem := by
  simp [State.pcieSend]

@[simp] theorem State.pcieSignal_mem (s : State) (pa kind : Nat) (data : List Byte) (g : SigInfo) :
    (s.pcieSignal pa kind data g).mem = s.mem := by
  simp [State.pcieSignal]

@[simp] theorem State.fabRequest_mem (s : State) (pa : Nat) (kind : BitVec 3) (op : BitVec 8) (n : Nat)
    (data : List Byte) (course mop lane : Nat) (g : Option SigInfo) :
    (s.fabRequest pa kind op n data course mop lane g).mem = s.mem := by
  simp [State.fabRequest]

@[simp] theorem State.fabSend_mem (s : State) (pa : Nat) (kind : BitVec 3) (op : BitVec 8) (n : Nat) (data : List Byte)
    (course mop lane : Nat) : (s.fabSend pa kind op n data course mop lane).mem = s.mem := by
  simp [State.fabSend]

@[simp] theorem State.progress_mem (s : State) (die ctx : Nat) : (s.progress die ctx).mem = s.mem := by
  simp [State.progress]

@[simp] theorem State.elapse_mem (s : State) (n : Nat) : (s.elapse n).mem = s.mem := by
  unfold State.elapse
  rfl

@[simp] theorem State.reachTime_mem (s : State) (t : Nat) : (s.reachTime t).mem = s.mem := by simp [State.reachTime]

@[simp] theorem State.visible_mem (s : State) (blk : Nat) : (s.visible blk).mem = s.mem := by simp [State.visible]

@[simp] theorem State.errEntry_wf {s : State} (h : s.MemWf) {ctx die core : Nat} {lnch : Word} {code : Nat}
    {a b : DWord} : (s.errEntry ctx die core lnch code a b).MemWf := by
  unfold State.errEntry
  dsimp only
  (repeat' split) <;> simp [h]

@[simp] theorem State.engineSignal_wf {s : State} (h : s.MemWf) {course id : Nat} {k : Nat × Nat} {ctx : Nat}
    {lnch : Word} {va : DWord} {op : Nat} {v : Word} {flt : Option Nat} :
    (s.engineSignal course id k ctx lnch va op v flt).2.MemWf := by
  unfold State.engineSignal
  dsimp only
  (repeat' split) <;> simp [h]

@[simp] theorem State.completeSignal_wf {s : State} (h : s.MemWf) {ctx die : Nat} {lnch : Word} {csig : DWord}
    {cval ctrl : Word} {status count : Nat} : (s.completeSignal ctx die lnch csig cval ctrl status count).MemWf := by
  have local_ : ∀ {t : State} {pa q : Nat} {w l f}, t.MemWf →
      ((t.writePa q l).rmwHome (die, 0) pa w f).2.MemWf :=
    fun ht => State.rmwHome_wf (State.writePa_wf _ _ ht)
  unfold State.completeSignal
  dsimp only
  (repeat' split) <;> simp [local_, h]

@[simp] theorem State.completeOne_wf {s : State} (h : s.MemWf) {p status count : Nat} :
    (s.completeOne p status count).MemWf := by
  unfold State.completeOne
  split <;> simp [h]

@[simp] theorem State.completeHeld_wf {s : State} (h : s.MemWf) {ctx q : Nat} {n : Nat} :
    (s.completeHeld ctx q n).MemWf := by
  induction n generalizing s with
  | zero => exact h
  | succ n ih => rw [State.completeHeld]; (repeat' split) <;> simp [ih, h]

@[simp] theorem State.completePkt_wf {s : State} (h : s.MemWf) {p status count : Nat} :
    (s.completePkt p status count).MemWf := by
  unfold State.completePkt
  split <;> simp [h]

@[simp] theorem State.settlePkt_wf {s : State} (h : s.MemWf) {p : Nat} : (s.settlePkt p).MemWf := by
  unfold State.settlePkt
  (repeat' split) <;> simp [h]

/-! ### Blocks, courses and tasks (Machine/Sched) -/

theorem State.newLnch_mem {s t : State} {die : Nat} {l : Word} (e : s.newLnch die = some (l, t)) : t.mem = s.mem := by
  unfold State.newLnch at e
  split at e
  · cases e
  · cases e; simp

@[simp] theorem State.choosePage_mem (s : State) (ctx : Nat) (kept : Option Nat) :
    (s.choosePage ctx kept).2.mem = s.mem := by
  unfold State.choosePage
  dsimp only
  split <;> simp

theorem State.allocPage_mem {s t : State} {ctx j : Nat} {r : Bool} {kept : Option Nat}
    (e : s.allocPage ctx r kept = some (j, t)) : t.mem = s.mem := by
  unfold State.allocPage at e
  split at e
  · cases e
  · obtain ⟨_, _, e⟩ := Option.map_eq_some_iff.1 e
    cases e; simp

@[simp] theorem State.freePage_mem (s : State) (ctx j : Nat) : (s.freePage ctx j).mem = s.mem := by
  simp [State.freePage]

@[simp] theorem State.newBlock_mem (s : State) (ctx die core : Nat) (lnch blkid : Word) (attr : Attr)
    (cfirst ccnt : Nat) (slot : Option Nat) (prio : Nat) (pkt task : Option Nat) :
    (s.newBlock ctx die core lnch blkid attr cfirst ccnt slot prio pkt task).2.mem = s.mem := by
  simp [State.newBlock]

@[simp] theorem State.onKey_mem (s : State) (key : Nat) (f : Key → Key) : (s.onKey key f).mem = s.mem := by
  simp [State.onKey]

@[simp] theorem State.backLines_wf {s : State} (h : s.MemWf) {k : Nat × Nat} {lines : List Nat} :
    (s.backLines k lines).MemWf := by
  unfold State.backLines
  exact State.foldl_wf (fun t a ht => by (repeat' split) <;> simp [ht]) _ _ h

@[simp] theorem State.unhold_mem (s : State) (key : Nat) : (s.unhold key).mem = s.mem := by
  unfold State.unhold
  rfl

@[simp] theorem State.releaseKey_wf {s : State} (h : s.MemWf) {t e : Nat} {blk : Nat} {core : Nat} :
    (s.releaseKey t e blk core).MemWf := by
  unfold State.releaseKey
  dsimp only
  (repeat' split) <;> simp [h]

@[simp] theorem State.breakKey_wf {s : State} (h : s.MemWf) {t e : Nat} : (s.breakKey t e).MemWf := by
  unfold State.breakKey
  dsimp only
  (repeat' split) <;> simp [h]

@[simp] theorem State.invRange_wf {s : State} (h : s.MemWf) {k : Nat × Nat} {ctx : Nat} {base : DWord} {len : Nat} :
    (s.invRange k ctx base len).MemWf := by
  unfold State.invRange
  exact State.foldl_wf (fun t a ht => by dsimp only; (repeat' split) <;> simp [ht]) _ _ h

@[simp] theorem State.keyActions_wf {s : State} (h : s.MemWf) {tk : Task} {core : Nat} :
    (s.keyActions tk core).MemWf := by
  unfold State.keyActions
  exact State.foldl_wf (fun t a ht => by dsimp only; (repeat' split) <;> simp [ht]) _ _ h

@[simp] theorem State.bindNow_wf {s : State} (h : s.MemWf) {b : Nat} : (s.bindNow b).MemWf := by
  unfold State.bindNow
  dsimp only
  (repeat' split) <;> simp [h]

@[simp] theorem State.tryBind_wf {s : State} (h : s.MemWf) {b : Nat} : (s.tryBind b).MemWf := by
  unfold State.tryBind
  (repeat' split) <;> simp [h]

@[simp] theorem State.taskCore_mem (s : State) (tk : Task) : (s.taskCore tk).2.mem = s.mem := by
  unfold State.taskCore
  dsimp only
  (repeat' split) <;> simp

@[simp] theorem State.grant_wf {s : State} (h : s.MemWf) {t : Nat} : (s.grant t).MemWf := by
  unfold State.grant
  split
  · exact h
  split
  · exact h
  split
  · exact h
  next tk _ _ _ l s0 e =>
    have h0 : s0.MemWf := h.of_mem (State.newLnch_mem e)
    simp [h0]

@[simp] theorem State.grantAll_wf {s : State} (h : s.MemWf) {n : Nat} : (s.grantAll n).MemWf := by
  induction n generalizing s with
  | zero => exact h
  | succ n ih => rw [State.grantAll]; (repeat' split) <;> simp [ih, h]

@[simp] theorem State.grants_wf {s : State} (h : s.MemWf) : s.grants.MemWf := by simp [State.grants, h]

@[simp] theorem State.joinFifos_mem (s : State) (t : Nat) : (s.joinFifos t).mem = s.mem := by
  unfold State.joinFifos
  split <;> simp

@[simp] theorem State.enterKeywait_mem (s : State) (t : Nat) : (s.enterKeywait t).mem = s.mem := by
  simp [State.enterKeywait]

@[simp] theorem State.countDown_wf {s : State} (h : s.MemWf) {ctx die : Nat} {lnch : Word} {hd : BitVec 32}
    {stale : Bool} : (s.countDown ctx die lnch hd stale).2.MemWf := by
  unfold State.countDown
  split
  · simp [h]
  · (repeat' split) <;> simp [h]

@[simp] theorem State.decrement_wf {s : State} (h : s.MemWf) {ctx die : Nat} {lnch : Word} {k : BitVec 32}
    {stale : Bool} : (s.decrement ctx die lnch k stale).MemWf := by
  unfold State.decrement
  dsimp only
  split <;> simp [h]

@[simp] theorem State.decrements_wf {s : State} (h : s.MemWf) {ctx die : Nat} {lnch : Word} {hs : List (BitVec 32)} :
    (s.decrements ctx die lnch hs).MemWf := by
  unfold State.decrements
  extract_lets r handle
  have hr : r.2.MemWf := State.foldl_snd_wf (fun p e hp => by simp [hp]) _ _ h
  exact State.foldl_wf (fun u t hu => by simp [hu]) _ _ hr

@[simp] theorem State.onNode_mem (s : State) (g n : Nat) (f : Node → Node) : (s.onNode g n f).mem = s.mem := by
  unfold State.onNode
  split <;> simp

@[simp] theorem State.endGraphBlock_wf {s : State} (h : s.MemWf) {t : Nat} {tk : Task} {g node : Nat} {fault : Bool} :
    (s.endGraphBlock t tk g node fault).MemWf := by
  unfold State.endGraphBlock
  extract_lets s1 s2 s3
  have h1 : s1.MemWf := by unfold s1; split <;> simp [h]
  have h2 : s2.MemWf := by unfold s2; dsimp only; (repeat' split) <;> simp [h1]
  split
  · exact h2
  · dsimp only
    split <;> simp [s3, h2]

@[simp] theorem State.endTask_wf {s : State} (h : s.MemWf) {t blk core : Nat} {fault : Bool} :
    (s.endTask t blk core fault).MemWf := by
  unfold State.endTask
  split
  · exact h
  next tk _ =>
    extract_lets s1 s2 s2' s3 s4 s5 s6 s7
    have h1 : s1.MemWf := State.foldl_wf (fun t e ht => by split <;> simp [ht]) _ _ h
    have h2 : s2.MemWf := by unfold s2; (repeat' split) <;> simp [h1]
    have h3 : s2'.MemWf := by unfold s2'; split <;> simp [h2]
    split
    · simp [h3]
    · have h4 : s5.MemWf := by unfold s5; split <;> simp [s4, s3, h3]
      have h5 : s7.MemWf := by unfold s7; split <;> simp [s6, h4]
      simp [h5]

@[simp] theorem State.loseQueues_mem (s : State) (blk : Nat) : (s.loseQueues blk).mem = s.mem := by
  unfold State.loseQueues
  rfl

@[simp] theorem State.failTargets_mem (s : State) (gone : Nat → Bool) (status : Nat) :
    (s.failTargets gone status).mem = s.mem := by
  unfold State.failTargets
  rfl

@[simp] theorem State.freeCore_mem (s : State) (b : Nat) (x : Block) : (s.freeCore b x).mem = s.mem := by
  simp [State.freeCore]

@[simp] theorem State.endBlock_wf {s : State} (h : s.MemWf) {b : Nat} : (s.endBlock b).MemWf := by
  unfold State.endBlock
  dsimp only
  (repeat' split) <;> simp [h]

@[simp] theorem State.dissolve_mem (s : State) (b : Nat) (x : Block) : (s.dissolve b x).mem = s.mem := by
  simp [State.dissolve]

@[simp] theorem State.settleOne_wf {s : State} (h : s.MemWf) {b : Nat} : (s.settleOne b).MemWf := by
  unfold State.settleOne
  dsimp only
  (repeat' split) <;> simp [h]

@[simp] theorem State.settleBlock_wf {s : State} (h : s.MemWf) {b : Nat} : (s.settleBlock b).MemWf := by
  unfold State.settleBlock
  (repeat' split) <;> simp [h]

/-! ### Traps and control registers (Machine/Ops) -/

@[simp] theorem State.pushWindow_mem (s : State) (c : Nat) (f : Flight) : (s.pushWindow c f).mem = s.mem := by
  unfold State.pushWindow
  split <;> simp

@[simp] theorem State.switchReg_mem (s : State) (c v : Nat) (n : Nat) : (s.switchReg c v n).mem = s.mem := by
  induction n generalizing s with
  | zero => rfl
  | succ n ih => rw [State.switchReg]; (repeat' split) <;> simp [ih]

@[simp] theorem State.landFlight_mem (s : State) (c id : Nat) : (s.landFlight c id).mem = s.mem := by
  unfold State.landFlight
  dsimp only
  (repeat' split) <;> simp

@[simp] theorem State.withdraw_mem (s : State) (c id : Nat) : (s.withdraw c id).mem = s.mem := by
  unfold State.withdraw
  dsimp only
  (repeat' split) <;> simp

@[simp] theorem State.landMany_mem (s : State) (c : Nat) (ids : List Nat) : (s.landMany c ids).mem = s.mem := by
  simp [State.landMany]

@[simp] theorem State.landDue_mem (s : State) (c clk : Nat) : (s.landDue c clk).mem = s.mem := by simp [State.landDue]

@[simp] theorem State.landAll_mem (s : State) (c : Nat) : (s.landAll c).mem = s.mem := by simp [State.landAll]

@[simp] theorem State.releaseAt_mem (s : State) (c v : Nat) (m : Mask) (mark : Nat) :
    (s.releaseAt c v m mark).mem = s.mem := by
  unfold State.releaseAt
  dsimp only
  (repeat' split) <;> simp

@[simp] theorem State.releaseV_mem (s : State) (c v : Nat) (m : Mask) : (s.releaseV c v m).mem = s.mem := by
  simp [State.releaseV]

@[simp] theorem State.settleRow_wf {s : State} (h : s.MemWf) {die row : Nat} : (s.settleRow die row).MemWf := by
  unfold State.settleRow
  split
  · exact h
  next r _ =>
    extract_lets gone scope s1 s2 s3
    split
    · exact h
    · have h1 : s1.MemWf := State.foldl_wf (fun t c ht => by split <;> simp [ht]) _ _ h
      simp [s3, s2, h1]

@[simp] theorem State.settle_wf {s : State} (h : s.MemWf) {c : Nat} : (s.settle c).MemWf := by
  unfold State.settle
  (repeat' split) <;> simp [h]

@[simp] theorem State.opDone_wf {s : State} (h : s.MemWf) {c id : Nat} : (s.opDone c id).MemWf := by
  simp [State.opDone, h]

@[simp] theorem State.endCourse_wf {s : State} (h : s.MemWf) {c : Nat} : (s.endCourse c).MemWf := by
  unfold State.endCourse
  split
  · exact h
  split
  · exact h
  next x _ _ =>
    extract_lets s1 s2
    have h1 : s1.MemWf := State.foldl_wf (fun t e ht => State.errEntry_wf ht) _ _ h
    simp [s2, h1]

@[simp] theorem State.retire_wf {s : State} (h : s.MemWf) {c : Nat} {m : Mask} : (s.retire c m).MemWf := by
  unfold State.retire
  dsimp only
  split <;> simp [h]

@[simp] theorem State.endByFault_wf {s : State} (h : s.MemWf) {cs : List Nat} : (s.endByFault cs).MemWf :=
  State.foldl_wf (fun _ _ hu => State.endCourse_wf (by simp [hu])) _ _ h

@[simp] theorem State.fenceStream_wf {s : State} (h : s.MemWf) {die : Nat} {r : RowStream} {tsb : Nat} :
    (s.fenceStream die r tsb).MemWf := by
  unfold State.fenceStream
  split <;> simp [h]

@[simp] theorem State.fenceRow_wf {s : State} (h : s.MemWf) {die row tsb : Nat} : (s.fenceRow die row tsb).MemWf := by
  unfold State.fenceRow
  split <;> simp [h]

@[simp] theorem State.leaveQueues_mem (s : State) (c : Nat) : (s.leaveQueues c).mem = s.mem := by
  simp [State.leaveQueues]

@[simp] theorem State.enterTrap_mem (s : State) (c : Nat) (t : Trap) : (s.enterTrap c t).mem = s.mem := by
  simp [State.enterTrap]

@[simp] theorem State.dieByTrap_wf {s : State} (h : s.MemWf) {c entry : Nat} {a b : DWord} :
    (s.dieByTrap c entry a b).MemWf := by
  unfold State.dieByTrap
  dsimp only
  split <;> simp [h]

@[simp] theorem State.takeOne_wf {s : State} (h : s.MemWf) {c : Nat} {t : Trap} {double : Bool} :
    (s.takeOne c t double).MemWf := by
  unfold State.takeOne
  dsimp only
  (repeat' split) <;> simp [h]

@[simp] theorem State.rowPark_mem (s : State) (cs : List Nat) : (s.rowPark cs).mem = s.mem := by
  unfold State.rowPark
  rfl

@[simp] theorem State.rowUnpark_mem (s : State) (cs : List Nat) (tlpc : Word) : (s.rowUnpark cs tlpc).mem = s.mem := by
  unfold State.rowUnpark
  rfl

@[simp] theorem State.rowTakes_mem (s : State) (c : Nat) (t : Trap) : (s.rowTakes c t).mem = s.mem := by
  simp [State.rowTakes]

@[simp] theorem State.pendError_wf {s : State} (h : s.MemWf) {c : Nat} {e : PendErr} : (s.pendError c e).MemWf := by
  unfold State.pendError
  dsimp only
  (repeat' split) <;> simp [h]

@[simp] theorem State.partnerTakes_wf {s : State} (h : s.MemWf) {p : Nat} {t : Trap} : (s.partnerTakes p t).MemWf := by
  unfold State.partnerTakes
  (repeat' split) <;> simp [h]

@[simp] theorem State.takeTrap_wf {s : State} (h : s.MemWf) {c : Nat} {t : Trap} {double : Bool} :
    (s.takeTrap c t double).MemWf := by
  unfold State.takeTrap
  dsimp only
  (repeat' split) <;> simp [h]

@[simp] theorem State.asyncErr_wf {s : State} (h : s.MemWf) {c engine : Nat} {arg status : Nat} :
    (s.asyncErr c engine arg status).MemWf := by
  simp [State.asyncErr, h]

theorem State.deliver_wf {s t : State} (h : s.MemWf) {c : Nat} (e : s.deliver c = some t) : t.MemWf := by
  unfold State.deliver at e
  dsimp only at e
  split at e
  · cases e
  split at e
  · obtain rfl := Option.some.inj e
    split <;> simp [h]
  split at e
  · split at e
    · cases e
    · obtain rfl := Option.some.inj e
      simp [h]
  · cases e

/-! ### Operands (Machine/Operands) -/

@[simp] theorem State.addWrite_mem (s : State) (c v : Nat) (m : Mask) (vals : Lanes) (tag : Tag) (flags : DWord)
    (due op : Option Nat) : (s.addWrite c v m vals tag flags due op).2.mem = s.mem := by
  simp [State.addWrite]

@[simp] theorem State.addFlight_mem (s : State) (c v : Nat) (m : Mask) (vals : Lanes) (tag : Tag) (flags : DWord)
    (due : Option Nat) : (s.addFlight c v m vals tag flags due).2.mem = s.mem := by
  simp [State.addFlight]

@[simp] theorem State.addFlags_mem (s : State) (c : Nat) (flags : DWord) (due : Nat) :
    (s.addFlags c flags due).mem = s.mem := by
  unfold State.addFlags
  split <;> simp

@[simp] theorem State.writeReg_mem (s : State) (c code : Nat) (m : Mask) (vals : Lanes) (tag : Tag) (flags : DWord)
    (due : Nat) : (s.writeReg c code m vals tag flags due).mem = s.mem := by
  unfold State.writeReg
  dsimp only
  (repeat' split) <;> simp

@[simp] theorem State.writeAll_mem (s : State) (ins : Instr) (vals : List Lanes) (flags : DWord) :
    (s.writeAll ins vals flags).mem = s.mem := by
  unfold State.writeAll
  dsimp only
  split <;> simp

@[simp] theorem State.latchL_mem (s : State) (slot : Nat) (m : Mask) (vals : Lanes) (tag : Tag) :
    (s.latchL slot m vals tag).mem = s.mem := by
  unfold State.latchL
  dsimp only
  (repeat' split) <;> simp

@[simp] theorem State.releases_mem (s : State) (ins : Instr) : (s.releases ins).mem = s.mem := by simp [State.releases]

@[simp] theorem State.writePred_mem (s : State) (m : Mask) (p : Nat) (conj : Bool) (b : Nat → Bool) :
    (s.writePred m p conj b).mem = s.mem := by
  simp [State.writePred]

@[simp] theorem State.writeS_mem (s : State) (r : SReg) (v : DWord) : (s.writeS r v).mem = s.mem := by
  simp [State.writeS]

/-! ### What stands before an instruction (Machine/Gate) -/

@[simp] theorem State.drawFor_mem (s : State) (l : List Instr) : (s.drawFor l).2.mem = s.mem := by
  unfold State.drawFor
  split <;> simp

@[simp] theorem State.joinQueue_mem (s : State) (c : Nat) (pc : Word) (k : Wake) :
    (s.joinQueue c pc k).mem = s.mem := by
  unfold State.joinQueue
  split <;> simp

@[simp] theorem State.sleepLanes_mem (s : State) (st : LSt) (k : Wake) : (s.sleepLanes st k).mem = s.mem := by
  unfold State.sleepLanes
  split <;> simp

@[simp] theorem State.obey_wf {s : State} (h : s.MemWf) {v : Verdict} : (s.obey v).MemWf := by
  unfold State.obey
  split <;> simp [h]

/-! ### The device page (Machine/Mmio) -/

@[simp] theorem State.mmioWrite_wf {s : State} (h : s.MemWf) {off : Nat} {bs : List Byte} {sst : Bool} :
    (s.mmioWrite off bs sst).MemWf := by
  unfold State.mmioWrite
  split
  · exact h
  split
  · refine State.foldl_wf (fun t k ht => ?_) _ _ h
    extract_lets q
    split
    · exact ht.of_mem (State.onRegs_mem ..)
    · exact ht
  · (repeat' split) <;> simp [h]

/-! ### Failures and recovery (Machine/Recover) -/

@[simp] theorem State.dropWork_mem (s : State) (b : Nat) (x : Block) : (s.dropWork b x).mem = s.mem := by
  simp [State.dropWork]

@[simp] theorem State.redispatch_wf {s : State} (h : s.MemWf) {b : Nat} : (s.redispatch b).MemWf := by
  unfold State.redispatch
  dsimp only
  split
  · next y x _ _ =>
    refine State.tryBind_wf ?_
    rw [State.MemWf, State.setBlock_mem]
    exact State.foldl_wf (fun t f ht => by split <;> simp [ht]) _ _ (State.errEntry_wf h)
  · exact h

@[simp] theorem State.redispatchRow_mem (s : State) (die row : Nat) : (s.redispatchRow die row).mem = s.mem := by
  unfold State.redispatchRow
  split
  · rfl
  · rw [State.onDie_mem]
    exact State.foldl_mem (fun t b => by split <;> simp) _ _

@[simp] theorem State.hwError_wf {s : State} (h : s.MemWf) {c unit : Nat} {tsa : DWord} :
    (s.hwError c unit tsa).MemWf := by
  unfold State.hwError
  (repeat' split) <;> simp [h]

@[simp] theorem State.faultBlock_wf {s : State} (h : s.MemWf) {b : Nat} : (s.faultBlock b).MemWf := by
  unfold State.faultBlock
  extract_lets fam cs s1 s2 s3
  have h3 : s3.MemWf := by simp [s3, s2, s1, h]
  exact State.settleOne_wf (State.foldl_wf (fun t c ht => by (repeat' split) <;> simp [ht]) _ _ h3)

@[simp] theorem State.failPkt_mem (s : State) (p : Nat) : (s.failPkt p).mem = s.mem := by
  unfold State.failPkt
  split <;> simp

@[simp] theorem State.failQueue_mem (s : State) (b : Nat) : (s.failQueue b).mem = s.mem := by
  unfold State.failQueue
  split <;> simp

@[simp] theorem State.areaFault_wf {s : State} (h : s.MemWf) {c : Nat} : (s.areaFault c).MemWf := by
  unfold State.areaFault
  dsimp only
  (repeat' split) <;> simp [h]

/-! ### Waits (Machine/Wait) -/

@[simp] theorem State.peekHome_mem (s : State) (die pa : Nat) : (s.peekHome die pa).2.mem = s.mem := by
  unfold State.peekHome
  split <;> simp

@[simp] theorem State.peek_wf {s : State} (h : s.MemWf) {c : Nat} {va : DWord} {flt : Option Nat} :
    (s.peek c va flt).2.MemWf := by
  unfold State.peek
  dsimp only
  (repeat' split) <;> simp [h]

@[simp] theorem State.askWord_mem (s : State) (c i pa : Nat) : (s.askWord c i pa).2.mem = s.mem := by
  unfold State.askWord
  split <;> simp

@[simp] theorem State.testWait_wf {s : State} (h : s.MemWf) {c i : Nat} {w : WaitA} : (s.testWait c i w).2.MemWf := by
  unfold State.testWait
  dsimp only
  (repeat' split) <;> simp [h]

@[simp] theorem State.sleepWait_mem (s : State) (c i : Nat) (w : WaitA) (asleep : Bool) :
    (s.sleepWait c i w asleep).mem = s.mem := by
  simp [State.sleepWait]

@[simp] theorem State.accError_wf {s : State} (h : s.MemWf) {c sub : Nat} {addr : DWord} {pc : Word} {hnd : Bool} :
    (s.accError c sub addr pc hnd).MemWf := by
  simp [State.accError, h]

@[simp] theorem State.waitaTest_wf {s : State} (h : s.MemWf) {asleep : Bool} : (s.waitaTest asleep).2.MemWf := by
  unfold State.waitaTest
  split
  · next t _ _ _ _ _ _ cond acq scope ext _ =>
    extract_lets c o
    split
    · exact h
    extract_lets one r s1 s2 shown s3
    have h1 : s1.MemWf := by
      refine State.foldl_snd_wf (fun p i hp => ?_) _ _ h
      dsimp only [one]
      split <;> simp [hp]
    have h2 : s2.MemWf := by unfold s2; split <;> simp [h1]
    have h3 : s3.MemWf := by unfold s3; split <;> simp [h2]
    dsimp only
    split <;> simp [h3]
  · exact h

@[simp] theorem State.rewait_wf {s : State} (h : s.MemWf) {c i : Nat} : (s.rewait c i).MemWf := by
  unfold State.rewait
  dsimp only
  (repeat' split) <;> simp [h]

@[simp] theorem State.rewaits_wf {s : State} (h : s.MemWf) {c : Nat} {p : WaitA → Bool} : (s.rewaits c p).MemWf := by
  unfold State.rewaits
  exact State.foldl_wf (fun t a ht => by dsimp only; (repeat' split) <;> simp [ht]) _ _ h

/-! ### The choice of a course (Machine/Select) -/

@[simp] theorem State.resolve_mem (s : State) (x : Course) (v : Nat) : (s.resolve x v).2.2.mem = s.mem := by
  simp [State.resolve]

@[simp] theorem State.snapshot_mem (s : State) (c : Nat) (b : Bundle) : (s.snapshot c b).2.2.mem = s.mem := by
  unfold State.snapshot
  extract_lets y x
  exact List.foldlRecOn (motive := fun a : Course × List (Nat × List Tag) × State => a.2.2.mem = s.mem) _ _ rfl
    fun a ha v _ => by simp [ha]

@[simp] theorem State.selTrap_wf {s : State} (h : s.MemWf) {c : Nat} {t : Trap} : (s.selTrap c t).MemWf := by
  simp [State.selTrap, h]

@[simp] theorem State.checkState_wf {s : State} (h : s.MemWf) {c : Nat} : (s.checkState c).MemWf := by
  unfold State.checkState
  dsimp only
  (repeat' split) <;> simp [h]

@[simp] theorem State.latch_mem (s : State) (c : Nat) (pc : Word) (b : Bundle) (exec : Mask) (inner : Bool) :
    (s.latch c pc b exec inner).mem = s.mem := by
  unfold State.latch
  split <;> simp

@[simp] theorem State.fairSleep_mem (s : State) (c : Nat) (src : Course) (pc : Word) :
    (s.fairSleep c src pc).mem = s.mem := by
  simp [State.fairSleep]

@[simp] theorem State.goAhead_mem (s : State) : s.goAhead.mem = s.mem := by simp [State.goAhead]

@[simp] theorem State.admitWait_wf {s : State} (h : s.MemWf) : s.admitWait.MemWf := by
  unfold State.admitWait
  dsimp only
  (repeat' split) <;> simp [h]

@[simp] theorem State.areaOpen_wf {s : State} (h : s.MemWf) : s.areaOpen.2.MemWf := by
  unfold State.areaOpen
  dsimp only
  split
  · exact State.areaReaches_wf h
  -- The answer gets a name, so that the kernel compares names and does not evaluate the reach.
  obtain ⟨r, hr⟩ : ∃ r, r = s.areaReach s.iss.course (s.iss.src.info.ctxa + 0x1000)
      (backingSize s.iss.src.w) .read := ⟨_, rfl⟩
  rw [← hr]
  have h1 : r.2.MemWf := hr ▸ State.areaReach_wf h
  split
  · exact h1
  · exact h

@[simp] theorem State.meetPre_mem (s : State) : s.meetPre.mem = s.mem := by
  unfold State.meetPre
  split <;> simp

@[simp] theorem State.judge_wf {s : State} (h : s.MemWf) : s.judge.MemWf := by
  unfold State.judge
  dsimp only
  (repeat' split) <;> simp [h]

@[simp] theorem State.fetchBytes_wf {s : State} (h : s.MemWf) {c : Nat} {pc : Word} : (s.fetchBytes c pc).2.MemWf := by
  unfold State.fetchBytes
  dsimp only
  (repeat' split) <;> simp [h]

@[simp] theorem State.selectConv_wf {s : State} (h : s.MemWf) {c : Nat} {pc : Word} {b : Bundle} {lanes : Mask} :
    (s.selectConv c pc b lanes).MemWf := by
  unfold State.selectConv
  dsimp only
  (repeat' split) <;> simp [h]

@[simp] theorem State.wakeLanes_mem (s : State) (c : Nat) : (s.wakeLanes c).mem = s.mem := by simp [State.wakeLanes]

@[simp] theorem State.startFills_mem (s : State) (c : Nat) : (s.startFills c).mem = s.mem := by simp [State.startFills]

@[simp] theorem State.selectAt_wf {s : State} (h : s.MemWf) {c : Nat} {pc : Word} {lanes : Mask} {complete : Bool} :
    (s.selectAt c pc lanes complete).MemWf := by
  unfold State.selectAt
  dsimp only
  (repeat' split) <;> simp [h]

@[simp] theorem State.selectCourse_wf {s : State} (h : s.MemWf) {c : Nat} : (s.selectCourse c).MemWf := by
  unfold State.selectCourse
  split
  · exact h
  split
  · next e => exact State.deliver_wf h e
  extract_lets s1 x s2 y
  have h1 : s1.MemWf := by simp [s1, h]
  have h2 : s2.MemWf := by simp [s2, h1]
  split
  · exact State.selectAt_wf h1
  · split
    · exact h2
    · exact State.selectAt_wf h2

@[simp] theorem State.nextCourseFrom_wf {s : State} (h : s.MemWf) {l : List Nat} : (s.nextCourseFrom l).MemWf := by
  induction l generalizing s with
  | nil => exact h
  | cons a l ih => rw [State.nextCourseFrom]; dsimp only; (repeat' split) <;> simp [ih, h]

@[simp] theorem State.enterRow_mem (s : State) (i : Issue) : (s.enterRow i).mem = s.mem := by
  unfold State.enterRow
  split <;> simp

@[simp] theorem State.nextCourse_wf {s : State} (h : s.MemWf) : s.nextCourse.MemWf := by
  unfold State.nextCourse
  split <;> simp [h]

@[simp] theorem State.finishIssue_mem (s : State) : s.finishIssue.mem = s.mem := by simp [State.finishIssue]

@[simp] theorem State.finishBundle_wf {s : State} (h : s.MemWf) : s.finishBundle.MemWf := by
  unfold State.finishBundle
  split <;> simp [h]

@[simp] theorem State.close_wf {s : State} (h : s.MemWf) : s.close.MemWf := by
  unfold State.close
  split <;> simp [h]

/-! ### The row of courses (Machine/Row) -/

@[simp] theorem State.rowLatch_mem (s : State) (cs : List Nat) (pc : Word) (b : Bundle) :
    (s.rowLatch cs pc b).2.mem = s.mem := by
  simp [State.rowLatch]

@[simp] theorem State.rowSleep_mem (s : State) (l : List (Issue × Verdict)) (st : LSt) :
    (s.rowSleep l st).mem = s.mem := by
  unfold State.rowSleep
  exact State.foldl_mem (fun t a => by dsimp only; (repeat' split) <;> simp) _ _

@[simp] theorem State.rowWake_mem (s : State) (cs : List Nat) : (s.rowWake cs).mem = s.mem := by
  unfold State.rowWake
  split <;> simp

@[simp] theorem State.rowAdmit_wf {s : State} (h : s.MemWf) {l : List (Issue × Verdict)} : (s.rowAdmit l).2.MemWf := by
  unfold State.rowAdmit
  extract_lets d w
  have hd : d.2.MemWf := State.foldl_snd_wf (fun p e hp => by simp [hp]) _ _ h
  split
  · exact hd
  have hw : w.2.MemWf := State.foldl_snd_wf (fun p e hp => by simp [hp]) _ _ hd
  exact hw

@[simp] theorem State.rowTogether_wf {s : State} (h : s.MemWf) {l : List (Issue × Verdict)} {lead : Course} {pc : Word}
    {lanes : Mask} : (s.rowTogether l lead pc lanes).MemWf := by
  unfold State.rowTogether
  dsimp only
  (repeat' split) <;> simp [h]

@[simp] theorem State.rowApart_mem (s : State) (l : List (Issue × Verdict)) (held : List Nat) (lead : Course)
    (pc : Word) (lanes : Mask) : (s.rowApart l held lead pc lanes).mem = s.mem := by
  unfold State.rowApart
  extract_lets one r s1
  have h1 : r.2.mem = s.mem := by
    refine State.foldl_snd_mem (fun p a => ?_) _ _
    dsimp only [one]
    (repeat' split) <;> simp
  simp [s1, h1]

@[simp] theorem State.rowFill_mem (s : State) (l : List (Issue × Verdict)) : (s.rowFill l).mem = s.mem := by
  unfold State.rowFill
  exact State.foldl_mem (fun t a => by (repeat' split) <;> simp) _ _

@[simp] theorem State.rowSelect_wf {s : State} (h : s.MemWf) {cs held : List Nat} {c0 : Nat} {pc : Word}
    {lanes : Mask} : (s.rowSelect cs held c0 pc lanes).MemWf := by
  unfold State.rowSelect
  dsimp only
  (repeat' split) <;> simp [h]

@[simp] theorem State.rowAgain_mem (s : State) (i : Issue) : (s.rowAgain i).mem = s.mem := by simp [State.rowAgain]

@[simp] theorem State.rowMark_mem (s : State) (c : Nat) : (s.rowMark c).mem = s.mem := by
  unfold State.rowMark
  split <;> simp

@[simp] theorem State.rowDrain_mem (s : State) (cs : List Nat) : (s.rowDrain cs).2.mem = s.mem := by
  unfold State.rowDrain
  exact State.foldl_snd_mem (fun t a => by dsimp only; (repeat' split) <;> simp) _ _

@[simp] theorem State.rowIssue_wf {s : State} (h : s.MemWf) {die row : Nat} : (s.rowIssue die row).MemWf := by
  unfold State.rowIssue
  split
  · exact h
  extract_lets cs lead s2 held full d x
  have h2 : s2.MemWf := by simp [s2, h]
  have hd : d.2.MemWf := by simp [d, h2]
  split
  · next c _ =>
    cases e : s2.deliver c with
    | none => exact h2
    | some t => exact State.deliver_wf h2 e
  split
  · simp [h2]
  · split <;> simp [hd]

/-! ### Control instructions (Machine/Control) -/

@[simp] theorem State.jump_mem (s : State) (m : Mask) (target : Nat → Word) : (s.jump m target).mem = s.mem := by
  simp [State.jump]

@[simp] theorem State.raiseNow_mem (s : State) (f : DWord) : (s.raiseNow f).mem = s.mem := by simp [State.raiseNow]

@[simp] theorem State.link_mem (s : State) (ins : Instr) : (s.link ins).mem = s.mem := by simp [State.link]

/-! ### Scalar instructions (Machine/Scalar) -/

@[simp] theorem State.vtosLane_mem (s : State) (ins : Instr) (d : SReg) (lane : Nat) :
    (s.vtosLane ins d lane).mem = s.mem := by
  simp [State.vtosLane]

/-! ### Vector instructions (Machine/Vector) -/

@[simp] theorem State.vector_mem (s : State) (ins : Instr) (f : Reads → Nat → Word × DWord) :
    (s.vector ins f).mem = s.mem := by
  simp [State.vector]

/-! ### Float instructions (Machine/Float) -/

@[simp] theorem State.fcvtAll_mem (s : State) (ins : Instr) (n : Bool) (r : BitVec 3) (t : BitVec 4) :
    (s.fcvtAll ins n r t).mem = s.mem := by
  unfold State.fcvtAll
  dsimp only
  split <;> simp

@[simp] theorem State.recordResult_mem (s : State) (ins : Instr) (f : Reads → Nat → Rsv × DWord) :
    (s.recordResult ins f).mem = s.mem := by
  simp [State.recordResult]

/-! ### Cross-lane instructions (Machine/Cross) -/

@[simp] theorem State.cross_mem (s : State) (ins : Instr) (f : Reads → Lanes × DWord) :
    (s.cross ins f).mem = s.mem := by
  simp [State.cross]

/-! ### Posted accesses (Machine/Engine) -/

@[simp] theorem State.onOp_mem (s : State) (c id : Nat) (f : MemOp → MemOp) : (s.onOp c id f).mem = s.mem := by
  simp [State.onOp]

@[simp] theorem State.fenceActs_wf {s : State} (h : s.MemWf) {c : Nat} {n : Nat} : (s.fenceActs c n).MemWf := by
  induction n generalizing s with
  | zero => exact h
  | succ n ih => rw [State.fenceActs]; (repeat' split) <;> simp [ih, h]

@[simp] theorem State.fences_wf {s : State} (h : s.MemWf) {c : Nat} : (s.fences c).MemWf := by simp [State.fences, h]

@[simp] theorem State.placeVa_wf {s : State} (h : s.MemWf) {c : Nat} {va : DWord} {use : Use} {flt : Option Nat} :
    (s.placeVa c va use flt).2.MemWf := by
  unfold State.placeVa
  dsimp only
  split <;> simp [h]

@[simp] theorem State.place_wf {s : State} (h : s.MemWf) {c : Nat} {o : MemOp} {l : LaneAcc} {use : Use} :
    (s.place c o l use).2.MemWf := by
  unfold State.place
  dsimp only
  (repeat' split) <;> simp [h]

@[simp] theorem State.patchL1_mem (s : State) (k : Nat × Nat) (pa : Nat) (bs : List Byte) :
    (s.patchL1 k pa bs).mem = s.mem := by
  simp [State.patchL1]

@[simp] theorem State.writeBoth_wf {s : State} (h : s.MemWf) {k : Nat × Nat} {pa : Nat} {bs : List Byte} :
    (s.writeBoth k pa bs).MemWf := by
  simp [State.writeBoth, h]

@[simp] theorem State.trackStore_wf {s : State} (h : s.MemWf) {blk pa : Nat} {va : DWord} {bs : List Byte} :
    (s.trackStore blk pa va bs).MemWf := by
  unfold State.trackStore
  dsimp only
  (repeat' split) <;> simp [h]

@[simp] theorem State.storeMem_wf {s : State} (h : s.MemWf) {c : Nat} {va : DWord} {pa : Nat} {cached nt again : Bool}
    {bs : List Byte} : (s.storeMem c va pa cached nt again bs).MemWf := by
  unfold State.storeMem
  dsimp only
  (repeat' split) <;> simp [h]

@[simp] theorem State.storeThrough_wf {s : State} (h : s.MemWf) {c : Nat} {pa : Nat} {again : Bool} {bs : List Byte} :
    (s.storeThrough c pa again bs).MemWf := by
  simp [State.storeThrough, h]

@[simp] theorem State.laneFail_mem (s : State) (c id : Nat) (l : LaneAcc) (sub : Nat) :
    (s.laneFail c id l sub).mem = s.mem := by
  simp [State.laneFail]

@[simp] theorem State.laneBad_mem (s : State) (c id : Nat) (l : LaneAcc) (src : Nat) :
    (s.laneBad c id l src).mem = s.mem := by
  simp [State.laneBad]

@[simp] theorem State.laneRead_wf {s : State} (h : s.MemWf) {c : Nat} {o : MemOp} {l : LaneAcc} {again sx home : Bool} :
    (s.laneRead c o l again sx home).2.MemWf := by
  unfold State.laneRead
  extract_lets x n p
  have hp : p.2.MemWf := State.place_wf h
  split
  case h_2 pa cached _ =>
    extract_lets s1 r
    have h1 : s1.MemWf := by unfold s1; split <;> simp [hp]
    (repeat' split) <;> simp [r, h1]
  all_goals simp [hp]

@[simp] theorem State.laneWrite_wf {s : State} (h : s.MemWf) {c : Nat} {o : MemOp} {l : LaneAcc} {again : Bool}
    {bs : List Byte} {through : Bool} : (s.laneWrite c o l again bs through).2.MemWf := by
  unfold State.laneWrite
  dsimp only
  (repeat' split) <;> simp [h]

@[simp] theorem State.signed_mem (s : State) (x : Course) (k : OpKind) : (s.signed x k).mem = s.mem := by
  unfold State.signed
  split <;> simp

@[simp] theorem State.laneAtomic_wf {s : State} (h : s.MemWf) {c : Nat} {o : MemOp} {l : LaneAcc} {again : Bool} :
    (s.laneAtomic c o l again).2.MemWf := by
  unfold State.laneAtomic
  extract_lets x p operands
  have hp : p.2.MemWf := State.place_wf h
  split
  case h_2 pa cached _ =>
    extract_lets s1 r
    have h1 : s1.MemWf := State.evictLine_wf hp
    split <;> simp [r, h1]
  case h_4 => split <;> simp [hp]
  all_goals simp [hp]

@[simp] theorem State.laneStep_wf {s : State} (h : s.MemWf) {c : Nat} {o : MemOp} {l : LaneAcc} {again : Bool} :
    (s.laneStep c o l again).2.MemWf := by
  unfold State.laneStep
  split <;> simp [h]

@[simp] theorem State.putLane_mem (s : State) (c id : Nat) (l : LaneAcc) : (s.putLane c id l).mem = s.mem := by
  simp [State.putLane]

@[simp] theorem State.performLanes_wf {s : State} (h : s.MemWf) {c : Nat} {o : MemOp} {pick : LaneAcc → Bool} :
    (s.performLanes c o pick).MemWf := by
  unfold State.performLanes
  refine State.MemWf.of_mem ?_ (State.overwrote_mem _ _)
  exact List.foldlRecOn (motive := fun a : State × List (Nat × Nat) => a.1.MemWf) _ _ h
    fun a ha p _ => by simp [ha]

@[simp] theorem State.landOp_mem (s : State) (c fid : Nat) (m : Mask) (vals : Lanes) :
    (s.landOp c fid m vals).mem = s.mem := by
  simp [State.landOp]

@[simp] theorem State.writeDest_mem (s : State) (c : Nat) (o : MemOp) (n : Nat) (tag : Tag) (words : Nat → Lanes) :
    (s.writeDest c o n tag words).mem = s.mem := by
  unfold State.writeDest
  (repeat' split) <;> simp

@[simp] theorem State.closeOp_wf {s : State} (h : s.MemWf) {c : Nat} {o : MemOp} : (s.closeOp c o).MemWf := by
  unfold State.closeOp
  extract_lets s1 s2 s3
  have h2 : s2.MemWf := by unfold s2; split <;> simp [s1, h]
  have h3 : s3.MemWf := by
    refine State.settle_wf (State.fences_wf ?_)
    split <;> simp [h2]
  split <;> simp [h3]

@[simp] theorem State.settleOp_wf {s : State} (h : s.MemWf) {c id : Nat} : (s.settleOp c id).MemWf := by
  unfold State.settleOp
  dsimp only
  (repeat' split) <;> simp [h]

@[simp] theorem State.cleanRange_wf {s : State} (h : s.MemWf) {c : Nat} {base : DWord} {len : Nat} {inv : Bool} :
    (s.cleanRange c base len inv).MemWf := by
  unfold State.cleanRange
  exact State.foldl_wf (fun t a ht => by (repeat' split) <;> simp [ht]) _ _ h

@[simp] theorem State.restSteps_mem (s : State) (c id : Nat) (n : Nat) : (s.restSteps c id n).mem = s.mem := by
  induction n generalizing s with
  | zero => rfl
  | succ n ih => rw [State.restSteps]; dsimp only; (repeat' split) <;> simp [ih]

/-! ### Memory instructions (Machine/Memory) -/

@[simp] theorem State.openDests_mem (s : State) (ins : Instr) (m : Mask) (op : Nat) :
    (s.openDests ins m op).mem = s.mem := by
  simp [State.openDests]

@[simp] theorem State.readFlags_mem (s : State) (f : DWord) : (s.readFlags f).mem = s.mem := by simp [State.readFlags]

@[simp] theorem State.postOp_mem (s : State) (ins : Instr) (o : MemOp) : (s.postOp ins o).mem = s.mem := by
  unfold State.postOp
  split <;> simp

@[simp] theorem State.memRow_mem (s : State) (ins : Instr) (o : MemOp) : (s.memRow ins o).mem = s.mem := by
  simp [State.memRow]

@[simp] theorem State.prefetch_wf {s : State} (h : s.MemWf) {c : Nat} {dc : Bool} {va : DWord} :
    (s.prefetch c dc va).MemWf := by
  unfold State.prefetch
  dsimp only
  (repeat' split) <;> simp [h]

@[simp] theorem State.openRest_mem (s : State) (c op : Nat) (vs : List Nat) : (s.openRest c op vs).2.mem = s.mem := by
  simp [State.openRest]

@[simp] theorem State.performOp_wf {s : State} (h : s.MemWf) {c id : Nat} {want : MemOp → Bool} :
    (s.performOp c id want).MemWf := by
  unfold State.performOp
  split
  · exact h
  split
  · exact h
  extract_lets x s1 s2 s3
  have h1 : s1.MemWf := by unfold s1; split <;> simp [h]
  have h2 : s2.MemWf := State.performLanes_wf h1
  have h3 : s3.MemWf := h2.of_mem (State.restSteps_mem ..)
  clear_value s3
  split
  · (repeat' split) <;> simp [h3]
  all_goals simp [h2]

@[simp] theorem State.atomicStep_wf {s : State} (h : s.MemWf) {c id : Nat} : (s.atomicStep c id).MemWf := by
  unfold State.atomicStep
  dsimp only
  (repeat' split) <;> simp [h]

@[simp] theorem State.answerLane_wf {s : State} (h : s.MemWf) {c id lane : Nat} {r : Option (List Byte)} :
    (s.answerLane c id lane r).MemWf := by
  unfold State.answerLane
  dsimp only
  (repeat' split) <;> simp [h]

/-! ### Fixed-function units (Machine/FixedFn) -/

@[simp] theorem State.noteLine_mem (s : State) (c id : Nat) (va : DWord) (st : AccSt) (flt : Option Nat) :
    (s.noteLine c id va st flt).mem = s.mem := by
  simp [State.noteLine]

@[simp] theorem State.ffLine_wf {s : State} (h : s.MemWf) {c id : Nat} {va : DWord} : (s.ffLine c id va).2.MemWf := by
  unfold State.ffLine
  dsimp only
  (repeat' split) <;> simp [h]

@[simp] theorem State.ffRead_wf {s : State} (h : s.MemWf) {c id : Nat} {va : DWord} {n : Nat} :
    (s.ffRead c id va n).2.MemWf := by
  unfold State.ffRead
  extract_lets first r
  have hr : r.2.MemWf := by
    refine State.foldl_snd_wf (fun p k hp => ?_) _ _ h
    dsimp only
    (repeat' split) <;> simp [hp]
  split <;> exact hr

@[simp] theorem State.visitLeaf_wf {s : State} (h : s.MemWf) {c id : Nat} {r : Ray} {flags : BitVec 3} {p : DWord}
    {t : Trav} : (s.visitLeaf c id r flags p t).2.MemWf := by
  unfold State.visitLeaf
  dsimp only
  split <;> simp [h]

theorem State.visitNode_wf {c id : Nat} {r : Ray} {flags : BitVec 3} {n : Nat} {p : DWord} {a : Trav × State}
    (h : a.2.MemWf) : (State.visitNode c id r flags n p a).2.MemWf := by
  induction n generalizing p a with
  | zero => exact h
  | succ n ih =>
    rw [State.visitNode]
    split
    · exact h
    extract_lets d
    have hd : d.2.MemWf := State.ffRead_wf h
    split
    · split
      · exact hd
      refine State.foldl_snd_wf (fun b k hb => ?_) _ _ hd
      split
      · exact hb
      extract_lets go
      have hgo : go.2.MemWf := by unfold go; split <;> simp [hb]
      split
      · exact hgo
      split
      · exact State.visitLeaf_wf hgo
      · exact ih hgo
    · exact hd

@[simp] theorem State.queryEnd_mem (s : State) (flags : BitVec 3) (t : Trav) : (s.queryEnd flags t).2.mem = s.mem := by
  unfold State.queryEnd
  dsimp only
  (repeat' split) <;> simp

@[simp] theorem State.traceLane_wf {s : State} (h : s.MemWf) {c : Nat} {o : MemOp} {flags : BitVec 3} {i : Nat} :
    (s.traceLane c o flags i).2.MemWf := by
  unfold State.traceLane
  dsimp only
  split
  · exact h
  · simp [State.visitNode_wf, h]

@[simp] theorem State.readTaps_wf {s : State} (h : s.MemWf) {c id : Nat} {t : Tex} {l : List (DWord × Nat)} :
    (s.readTaps c id t l).2.MemWf := by
  unfold State.readTaps
  exact State.foldl_snd_wf (fun t a ht => by dsimp only; (repeat' split) <;> simp [ht]) _ _ h

@[simp] theorem State.lodLane_mem (s : State) (o : MemOp) (lod : Bool) (t : Tex) (i : Nat) :
    (s.lodLane o lod t i).2.mem = s.mem := by
  unfold State.lodLane
  dsimp only
  (repeat' split) <;> simp

@[simp] theorem State.sampleLane_wf {s : State} (h : s.MemWf) {c : Nat} {o : MemOp} {flt adr : BitVec 2} {lod : Bool}
    {i : Nat} : (s.sampleLane c o flt adr lod i).2.MemWf := by
  unfold State.sampleLane
  dsimp only
  (repeat' split) <;> simp [h]

@[simp] theorem State.sizeLane_wf {s : State} (h : s.MemWf) {c : Nat} {o : MemOp} {l : Nat} :
    (s.sizeLane c o l).2.MemWf := by
  unfold State.sizeLane
  dsimp only
  (repeat' split) <;> simp [h]

@[simp] theorem State.fixedLane_wf {s : State} (h : s.MemWf) {c : Nat} {o : MemOp} {l : LaneAcc} :
    (s.fixedLane c o l).2.MemWf := by
  unfold State.fixedLane
  (repeat' split) <;> simp [h]

@[simp] theorem State.giveLane_mem (s : State) (c id : Nat) (l : LaneAcc) (r : LRes) :
    (s.giveLane c id l r).mem = s.mem := by
  unfold State.giveLane
  split <;> simp

@[simp] theorem State.fixedStep_wf {s : State} (h : s.MemWf) {c id : Nat} {l : LaneAcc} :
    (s.fixedStep c id l).MemWf := by
  unfold State.fixedStep
  split <;> simp [h]

@[simp] theorem State.visqBatch_wf {s : State} (h : s.MemWf) {c : Nat} {o : MemOp} {n : Nat} {ls : List LaneAcc} :
    (s.visqBatch c o n ls).MemWf := by
  unfold State.visqBatch
  dsimp only
  (repeat' split) <;> simp [h]

@[simp] theorem State.withdrawDests_mem (s : State) (c id n : Nat) : (s.withdrawDests c id n).mem = s.mem := by
  simp [State.withdrawDests]

@[simp] theorem State.settleFixed_wf {s : State} (h : s.MemWf) {c id : Nat} : (s.settleFixed c id).MemWf := by
  unfold State.settleFixed
  dsimp only
  (repeat' split) <;> simp [h]

/-! ### The matrix unit (Machine/MatrixUnit) -/

@[simp] theorem State.onCmd_mem (s : State) (k : Nat × Nat) (id : Nat) (f : MCmd → MCmd) :
    (s.onCmd k id f).mem = s.mem := by
  simp [State.onCmd]

@[simp] theorem State.dropCmd_mem (s : State) (k : Nat × Nat) (id : Nat) : (s.dropCmd k id).mem = s.mem := by
  simp [State.dropCmd]

@[simp] theorem State.onTile_mem (s : State) (blk tile : Nat) (f : List Word → List Word) :
    (s.onTile blk tile f).mem = s.mem := by
  simp [State.onTile]

@[simp] theorem State.tileReach_wf {s : State} (h : s.MemWf) {b : Block} {va : DWord} {n : Nat} {use : Use} :
    (s.tileReach b va n use).2.MemWf := by
  unfold State.tileReach
  dsimp only
  split <;> simp [h]

@[simp] theorem State.saveStaging_wf {s : State} (h : s.MemWf) {b : Block} {va : DWord} :
    (s.saveStaging b va).2.MemWf := by
  unfold State.saveStaging
  dsimp only
  split
  · exact h
  obtain ⟨r, hr⟩ : ∃ r, r = s.tileReach b va 1024 .write := ⟨_, rfl⟩
  rw [← hr]
  have h1 : r.2.MemWf := hr ▸ State.tileReach_wf h
  split
  · exact h1
  · simp [h1]

@[simp] theorem State.evictTile_wf {s : State} (h : s.MemWf) {y tile : Nat} : (s.evictTile y tile).2.MemWf := by
  unfold State.evictTile
  split
  · exact h
  split
  · exact h
  extract_lets r t s1 q
  have hr : r.2.MemWf := State.tileReach_wf h
  split
  · exact hr
  · simp [q, s1, hr]

@[simp] theorem State.loadTile_wf {s : State} (h : s.MemWf) {x tile : Nat} : (s.loadTile x tile).2.MemWf := by
  unfold State.loadTile
  dsimp only
  (repeat' split) <;> simp [h]

@[simp] theorem State.takeTile_wf {s : State} (h : s.MemWf) {k : Nat × Nat} {blk tile : Nat} :
    (s.takeTile k blk tile).2.MemWf := by
  unfold State.takeTile
  dsimp only
  (repeat' split) <;> simp [h]

@[simp] theorem State.endCmd_wf {s : State} (h : s.MemWf) {k : Nat × Nat} {m : MCmd} {status : Option Nat} :
    (s.endCmd k m status).MemWf := by
  unfold State.endCmd
  dsimp only
  (repeat' split) <;> simp [h]

@[simp] theorem State.cmdBad_wf {s : State} (h : s.MemWf) {k : Nat × Nat} {m : MCmd} : (s.cmdBad k m).MemWf := by
  unfold State.cmdBad
  extract_lets w s1 s2
  have h2 : s2.MemWf := by simp [s2, s1, h]
  simp [h2]

@[simp] theorem State.startMma_wf {s : State} (h : s.MemWf) {k : Nat × Nat} {m : MCmd} : (s.startMma k m).MemWf := by
  unfold State.startMma
  dsimp only
  (repeat' split) <;> simp [h]

@[simp] theorem State.applyMma_wf {s : State} (h : s.MemWf) {k : Nat × Nat} {m : MCmd} {q : Nat} :
    (s.applyMma k m q).MemWf := by
  unfold State.applyMma
  split <;> simp [h]

@[simp] theorem State.startOthers_wf {s : State} (h : s.MemWf) {k : Nat × Nat} {l : List MCmd} :
    (s.startOthers k l).MemWf := by
  unfold State.startOthers
  exact State.foldl_wf (fun t a ht => by dsimp only; (repeat' split) <;> simp [ht]) _ _ h

@[simp] theorem State.runMma_wf {s : State} (h : s.MemWf) {k : Nat × Nat} {id n : Nat} : (s.runMma k id n).MemWf := by
  induction n generalizing s with
  | zero => exact h
  | succ n ih =>
    rw [State.runMma]
    split
    · exact h
    split
    · (repeat' split) <;> simp [ih, h]
    split
    · exact ih (State.startMma_wf h)
    extract_lets s1 opts q
    have hq : q.2.MemWf := by simp [q, s1, h]
    split
    · exact hq
    · exact ih (State.applyMma_wf hq)

/-! ### Matrix instructions (Machine/Matrix) -/

@[simp] theorem State.pushCmd_mem (s : State) (m : MCmd) : (s.pushCmd m).mem = s.mem := by
  unfold State.pushCmd
  split <;> simp

@[simp] theorem State.setChain_mem (s : State) (blk tile : Nat) (c : Chain) : (s.setChain blk tile c).mem = s.mem := by
  simp [State.setChain]

@[simp] theorem State.landRows_wf {s : State} (h : s.MemWf) {k : Nat × Nat} {m : MCmd} : (s.landRows k m).MemWf := by
  unfold State.landRows
  dsimp only
  (repeat' split) <;> simp [h]

@[simp] theorem State.landMacls_wf {s : State} (h : s.MemWf) {k : Nat × Nat} : (s.landMacls k).MemWf := by
  unfold State.landMacls
  exact State.foldl_wf (fun t a ht => by (repeat' split) <;> simp [ht]) _ _ h

@[simp] theorem State.landCore_wf {s : State} (h : s.MemWf) {k : Nat × Nat} : (s.landCore k).MemWf := by
  simp [State.landCore, h]

@[simp] theorem State.rowTick_wf {s : State} (h : s.MemWf) {die row : Nat} : (s.rowTick die row).MemWf :=
  State.foldl_wf (fun _ _ hu => State.landCore_wf (by simp [hu])) _ _ h

@[simp] theorem State.mdstFlips_wf {s : State} (h : s.MemWf) {k : Nat × Nat} {m : MCmd} : (s.mdstFlips k m).MemWf := by
  unfold State.mdstFlips
  split <;> simp [h]

@[simp] theorem State.mdstScratch_wf {s : State} (h : s.MemWf) {k : Nat × Nat} {m : MCmd} :
    (s.mdstScratch k m).MemWf := by
  unfold State.mdstScratch
  dsimp only
  (repeat' split) <;> simp [h]

@[simp] theorem State.mdstPlaces_wf {s : State} (h : s.MemWf) {m : MCmd} {ps : List (Nat × DWord × Nat × Nat)} :
    (s.mdstPlaces m ps).2.MemWf := by
  unfold State.mdstPlaces
  exact State.foldl_snd_wf (fun t a ht => by dsimp only; (repeat' split) <;> simp [ht]) _ _ h

@[simp] theorem State.mdstHome_wf {s : State} (h : s.MemWf) {k : Nat × Nat} {m : MCmd} {tile : List Word}
    {ps : List (Nat × Nat × DWord × Nat × Nat)} : (s.mdstHome k m tile ps).MemWf := by
  unfold State.mdstHome
  extract_lets w s1 s2
  have h1 : s1.MemWf := State.foldl_wf (fun t p ht => State.evictLine_wf ht) _ _ h
  have h2 : s2.MemWf := by unfold s2; split <;> simp [h1]
  exact State.engineWrite_wf h2

@[simp] theorem State.mdstSend_mem (s : State) (k : Nat × Nat) (m : MCmd) (tile : List Word) (i : Nat)
    (p : Nat × DWord × Nat × Nat) (pl : Place) : (s.mdstSend k m tile i p pl).mem = s.mem := by
  unfold State.mdstSend
  dsimp only
  (repeat' split) <;> simp

@[simp] theorem State.mdstMem_wf {s : State} (h : s.MemWf) {k : Nat × Nat} {m : MCmd} : (s.mdstMem k m).MemWf := by
  unfold State.mdstMem
  extract_lets w ps r t s1 tile
  have hr : r.2.MemWf := State.mdstPlaces_wf h
  split
  · exact hr
  · exact State.endCmd_wf hr
  split
  · exact State.cmdBad_wf hr
  have ht : t.2.MemWf := State.takeTile_wf hr
  split
  · exact ht
  extract_lets home s2 waits
  have h2 : s2.MemWf := by simp [s2, s1, ht]
  split <;> simp [h2]

@[simp] theorem State.answerCmd_wf {s : State} (h : s.MemWf) {k : Nat × Nat} {id piece : Nat} {ok : Bool} :
    (s.answerCmd k id piece ok).MemWf := by
  unfold State.answerCmd
  (repeat' split) <;> simp [h]

/-! ### The copy unit (Machine/CopyUnit) -/

@[simp] theorem State.onCopy_mem (s : State) (k : Nat × Nat) (id : Nat) (f : CopyCmd → CopyCmd) :
    (s.onCopy k id f).mem = s.mem := by
  simp [State.onCopy]

@[simp] theorem State.failStaged_wf {s : State} (h : s.MemWf) {c : CopyCmd} : (s.failStaged c).MemWf := by
  unfold State.failStaged
  (repeat' split) <;> simp [h]

@[simp] theorem State.endCopy_wf {s : State} (h : s.MemWf) {c : CopyCmd} {status : Nat} :
    (s.endCopy c status).MemWf := by
  unfold State.endCopy
  extract_lets s1 s2
  have h1 : s1.MemWf := by simp [s1, h]
  have h2 : s2.MemWf := by unfold s2; split <;> simp [h1]
  exact State.opDone_wf h2

@[simp] theorem State.sourceOver_mem (s : State) (c : CopyCmd) : (s.sourceOver c).mem = s.mem := by
  unfold State.sourceOver
  split <;> simp

@[simp] theorem State.slotsOver_mem (s : State) (c : CopyCmd) (failed : Bool) : (s.slotsOver c failed).mem = s.mem := by
  unfold State.slotsOver
  split <;> simp

@[simp] theorem State.crossed_mem (s : State) (a b n : Nat) : (s.crossed a b n).mem = s.mem := by
  unfold State.crossed
  exact State.foldl_mem (fun t a => by simp) _ _

@[simp] theorem State.copyWord_wf {s : State} (h : s.MemWf) {c : CopyCmd} {va : DWord} : (s.copyWord c va).2.MemWf := by
  unfold State.copyWord
  dsimp only
  (repeat' split) <;> simp [h]

@[simp] theorem State.engineLines_mem (s : State) (die : Nat) (l : List Nat) : (s.engineLines die l).mem = s.mem := by
  simp [State.engineLines]

@[simp] theorem State.copyCount_mem (s : State) (c : CopyCmd) (piece : Nat) (l : List Nat) :
    (s.copyCount c piece l).mem = s.mem := by
  unfold State.copyCount
  split <;> simp

@[simp] theorem State.copyRead_wf {s : State} (h : s.MemWf) {c : CopyCmd} {piece : Nat} {l : List (DWord × DWord)} :
    (s.copyRead c piece l).2.MemWf := by
  unfold State.copyRead
  split
  · exact h
  extract_lets r
  have hr : r.2.MemWf := by
    refine State.foldl_snd_wf (fun p a hp => ?_) _ _ h
    dsimp only
    (repeat' split) <;> simp [hp]
  split <;> simp [hr]

@[simp] theorem State.copyPlaces_wf {s : State} (h : s.MemWf) {c : CopyCmd} {l : List (DWord × DWord)} :
    (s.copyPlaces c l).2.MemWf := by
  unfold State.copyPlaces
  exact State.foldl_snd_wf (fun t a ht => by dsimp only; (repeat' split) <;> simp [ht]) _ _ h

@[simp] theorem State.copySend_mem (s : State) (c : CopyCmd) (i : Nat) (p : Place) (w : Word) :
    (s.copySend c i p w).mem = s.mem := by
  unfold State.copySend
  split <;> simp

@[simp] theorem State.copyOut_wf {s : State} (h : s.MemWf) {c : CopyCmd} {ps : List (Place × Word)} :
    (s.copyOut c ps).MemWf := by
  simp [State.copyOut, h]

@[simp] theorem State.targetSignal_wf {s : State} (h : s.MemWf) {c : CopyCmd} {t : Target} :
    (s.targetSignal c t).2.MemWf := by
  unfold State.targetSignal
  dsimp only
  (repeat' split) <;> simp [h]

@[simp] theorem State.copySignal_wf {s : State} (h : s.MemWf) {c : CopyCmd} : (s.copySignal c).2.MemWf := by
  unfold State.copySignal
  dsimp only
  (repeat' split) <;> simp [h]

@[simp] theorem State.sendStaged_mem (s : State) (c : CopyCmd) : (s.sendStaged c).mem = s.mem := by
  unfold State.sendStaged
  dsimp only
  (repeat' split) <;> simp

@[simp] theorem State.settleCopy_wf {s : State} (h : s.MemWf) {k : Nat × Nat} {id : Nat} :
    (s.settleCopy k id).MemWf := by
  unfold State.settleCopy
  dsimp only
  (repeat' split) <;> simp [h]

@[simp] theorem State.targetOver_mem (s : State) (c : CopyCmd) (i status : Nat) :
    (s.targetOver c i status).mem = s.mem := by
  simp [State.targetOver]

@[simp] theorem State.targetFinish_wf {s : State} (h : s.MemWf) {c : CopyCmd} {i : Nat} :
    (s.targetFinish c i).MemWf := by
  unfold State.targetFinish
  dsimp only
  (repeat' split) <;> simp [h]

@[simp] theorem State.slotHas_mem (s : State) (c : CopyCmd) (i q : Nat) : (s.slotHas c i q).mem = s.mem := by
  simp [State.slotHas]

@[simp] theorem State.slotDone_wf {s : State} (h : s.MemWf) {c : CopyCmd} {i q : Nat} : (s.slotDone c i q).MemWf := by
  simp [State.slotDone, h]

/-! ### Copies (Machine/Copy) -/

@[simp] theorem State.pushCopy_mem (s : State) (n : BitVec 3) (cpym : Bool) : (s.pushCopy n cpym).mem = s.mem := by
  unfold State.pushCopy
  dsimp only
  split <;> simp

@[simp] theorem State.startCopy_wf {s : State} (h : s.MemWf) {k : Nat × Nat} {id : Nat} : (s.startCopy k id).MemWf := by
  unfold State.startCopy
  dsimp only
  (repeat' split) <;> simp [h]

@[simp] theorem State.copyBad_wf {s : State} (h : s.MemWf) {c : CopyCmd} : (s.copyBad c).MemWf := by
  have h1 : ((s.slotsOver c true).failStaged c).MemWf := by simp [h]
  exact State.hwError_wf (State.endCopy_wf h1)

@[simp] theorem State.copyLocal_wf {s : State} (h : s.MemWf) {c : CopyCmd} : (s.copyLocal c).MemWf := by
  unfold State.copyLocal
  extract_lets r d
  have hr : r.2.MemWf := State.copyRead_wf h
  have hd : d.2.MemWf := State.copyPlaces_wf hr
  split
  · exact hr
  · exact State.copyBad_wf hr
  · simp [hr]
  · split
    · simp [hr]
    split
    · exact hd
    · simp [hd]
    · extract_lets s1
      have h1 : s1.MemWf := by simp [s1, hd]
      simp [h1]

@[simp] theorem State.meshOver_wf {s : State} (h : s.MemWf) {c : CopyCmd} : (s.meshOver c).MemWf := by
  unfold State.meshOver
  split
  · exact h
  extract_lets s1
  have h1 : s1.MemWf := by unfold s1; split <;> simp [h]
  exact State.settleCopy_wf (State.foldl_wf (fun t i ht => State.targetFinish_wf ht) _ _ h1)

@[simp] theorem State.copyMesh_wf {s : State} (h : s.MemWf) {c : CopyCmd} {i : Nat} {t : Target} :
    (s.copyMesh c i t).MemWf := by
  unfold State.copyMesh
  split
  · simp [h]
  · refine State.meshOver_wf (State.foldl_wf (fun t q ht => ?_) _ _ h)
    dsimp only
    (repeat' split) <;> simp [ht]

@[simp] theorem State.dropUnfit_mem (s : State) (c : CopyCmd) : (s.dropUnfit c).mem = s.mem := by
  unfold State.dropUnfit
  exact State.foldl_mem (fun t a => by (repeat' split) <;> simp) _ _

@[simp] theorem State.unitTaken_wf {s : State} (h : s.MemWf) {c : CopyCmd} : (s.unitTaken c).MemWf := by
  unfold State.unitTaken
  dsimp only
  (repeat' split) <;> simp [h]

@[simp] theorem State.unitArrives_wf {s : State} (h : s.MemWf) {c : CopyCmd} : (s.unitArrives c).MemWf := by
  unfold State.unitArrives
  dsimp only
  (repeat' split) <;> simp [h]

@[simp] theorem State.unitLess_mem (s : State) (u i : Nat) : (s.unitLess u i).mem = s.mem := by
  unfold State.unitLess
  split <;> simp

@[simp] theorem State.drainUnit_wf {s : State} (h : s.MemWf) {u i : Nat} {x : StagUnit} :
    (s.drainUnit u i x).MemWf := by
  unfold State.drainUnit
  dsimp only
  (repeat' split) <;> simp [h]

@[simp] theorem State.answerCopy_wf {s : State} (h : s.MemWf) {k : Nat × Nat} {id lane : Nat} {r : Option (List Byte)} :
    (s.answerCopy k id lane r).MemWf := by
  unfold State.answerCopy
  dsimp only
  (repeat' split) <;> simp [h]

@[simp] theorem State.slotError_wf {s : State} (h : s.MemWf) {v : DWord} : (s.slotError v).MemWf := by
  simp [State.slotError, h]

@[simp] theorem State.queueErr_wf {s : State} (h : s.MemWf) {q : BitVec 4} {status : Nat} :
    (s.queueErr q status).MemWf := by
  simp [State.queueErr, h]

@[simp] theorem State.onQueue_mem (s : State) (q : Nat) (f : NQueue → NQueue) : (s.onQueue q f).mem = s.mem := by
  simp [State.onQueue]

@[simp] theorem State.popQueue_wf {s : State} (h : s.MemWf) {ins : Instr} {q : BitVec 4} :
    (s.popQueue ins q).MemWf := by
  unfold State.popQueue
  dsimp only
  (repeat' split) <;> simp [h]

/-! ### Save and resume (Machine/Save) -/

@[simp] theorem State.putArea_wf {s : State} (h : s.MemWf) {c : Nat} {l : List (Nat × List Byte)} :
    (s.putArea c l).MemWf :=
  State.foldl_wf (fun _ _ hu => State.putBytes_wf hu) _ _ (by simp [h])

@[simp] theorem State.storeRecord_wf {s : State} (h : s.MemWf) {c : Nat} {f : Frame} : (s.storeRecord c f).MemWf := by
  simp [State.storeRecord, h]

@[simp] theorem State.parkWindow_wf {s : State} (h : s.MemWf) {c : Nat} : (s.parkWindow c).MemWf := by
  unfold State.parkWindow
  extract_lets x s1
  have h1 : s1.MemWf := State.foldl_wf (fun u e hu => State.putBacking_wf hu) _ _ h
  simp [h1]

@[simp] theorem State.blockLeaves_mem (s : State) (b : Nat) : (s.blockLeaves b).mem = s.mem := by
  unfold State.blockLeaves
  dsimp only
  split <;> simp

@[simp] theorem State.leave_wf {s : State} (h : s.MemWf) {c : Nat} {p : Presence} {v : List VEntry} {f : Option Frame} :
    (s.leave c p v f).MemWf := by
  simp [State.leave, h]

@[simp] theorem State.goAway_wf {s : State} (h : s.MemWf) {c : Nat} : (s.goAway c).MemWf := by
  unfold State.goAway
  split <;> simp [h]

@[simp] theorem State.pdone_wf {s : State} (h : s.MemWf) {c : Nat} {pc : Word} {exec : Mask} :
    (s.pdone c pc exec).MemWf := by
  unfold State.pdone
  extract_lets x q s1
  have hq : q.2.MemWf := State.areaReaches_wf h
  have h1 : s1.MemWf := by simp [s1, hq]
  split
  · split
    · simp [h1]
    · exact State.foldl_wf (fun u d hu => State.goAway_wf hu) _ _ h1
  · simp [hq]
  · simp [hq]

@[simp] theorem State.raisePre_mem (s : State) (c : Nat) : (s.raisePre c).mem = s.mem := by
  unfold State.raisePre
  dsimp only
  split <;> simp

@[simp] theorem State.deadline_mem (s : State) (c : Nat) : (s.deadline c).mem = s.mem := by
  unfold State.deadline
  dsimp only
  (repeat' split) <;> simp

@[simp] theorem State.backRegs_wf {s : State} (h : s.MemWf) {c : Nat} : (s.backRegs c).MemWf := by
  unfold State.backRegs
  exact State.foldl_wf (fun t a ht => by (repeat' split) <;> simp [ht]) _ _ h

@[simp] theorem State.forceSave_wf {s : State} (h : s.MemWf) {c : Nat} : (s.forceSave c).MemWf := by
  unfold State.forceSave
  refine State.leave_wf (State.storeRecord_wf (State.backRegs_wf ?_))
  simp [h]

@[simp] theorem State.makeRoom_mem (s : State) (cs : List Nat) : (s.makeRoom cs).2.mem = s.mem := by
  unfold State.makeRoom
  dsimp only
  (repeat' split) <;> simp

@[simp] theorem State.refill_wf {s : State} (h : s.MemWf) {c v : Nat} : (s.refill c v).MemWf := by
  unfold State.refill
  dsimp only
  split <;> simp [h]

@[simp] theorem State.enterResumed_wf {s : State} (h : s.MemWf) {c code : Nat} {x : Course} {f : Frame} {tsb : DWord} :
    (s.enterResumed c code x f tsb).MemWf := by
  unfold State.enterResumed
  split <;> simp [h]

@[simp] theorem State.useRecord_wf {s : State} (h : s.MemWf) {c : Nat} : (s.useRecord c).MemWf := by
  simp [State.useRecord, h]

@[simp] theorem State.resumeOne_wf {s : State} (h : s.MemWf) {c : Nat} : (s.resumeOne c).MemWf := by
  unfold State.resumeOne
  extract_lets forced s' r hnd s1
  have h' : s'.MemWf := State.useRecord_wf h
  have h1 : s1.MemWf := by unfold s1; (repeat' split) <;> simp [h']
  exact State.foldl_wf (fun t v ht => State.refill_wf ht) _ _ h1

/-! ### Tasks and queues (Machine/Tasks) -/

@[simp] theorem State.dispRead_wf {s : State} (h : s.MemWf) {ctx die : Nat} {lnch : Word} {va : DWord} {n : Nat}
    {use : Use} {flt : Option Nat} : (s.dispRead ctx die lnch va n use flt).2.MemWf := by
  unfold State.dispRead
  dsimp only
  (repeat' split) <;> simp [h]

@[simp] theorem State.takePage_wf {s : State} (h : s.MemWf) {ctx die : Nat} {lnch : Word} {fromReserve : Bool}
    {off : Nat} {bs : List Byte} {flt kept : Option Nat} :
    (s.takePage ctx die lnch fromReserve off bs flt kept).2.MemWf := by
  unfold State.takePage
  split
  · exact h
  · next j s1 e =>
    have h1 : s1.MemWf := h.of_mem (State.allocPage_mem e)
    dsimp only
    split <;> simp [h1]

@[simp] theorem State.submit_wf {s : State} (h : s.MemWf) {ctx home : Nat} {lnch : Word} {bs : List Byte}
    {cfirst ccnt : Nat} {slot : Option Nat} {pkt : Option Nat} {flt kept : Option Nat} :
    (s.submit ctx home lnch bs cfirst ccnt slot pkt flt kept).2.MemWf := by
  unfold State.submit
  dsimp only
  (repeat' split) <;> simp [h]

@[simp] theorem State.onQ_mem (s : State) (ctx q : Nat) (f : Queue → Queue) : (s.onQ ctx q f).mem = s.mem := by
  simp [State.onQ]

@[simp] theorem State.enqueue_wf {s : State} (h : s.MemWf) {ctx q : Nat} {bs : List Byte} :
    (s.enqueue ctx q bs).2.MemWf := by
  unfold State.enqueue
  dsimp only
  (repeat' split) <;> simp [h]

@[simp] theorem State.request_mem (s : State) (r : DReq) : (s.request r).mem = s.mem := by simp [State.request]

@[simp] theorem State.landTdep_wf {s : State} (h : s.MemWf) {die : Nat} : (s.landTdep die).MemWf := by
  unfold State.landTdep
  split <;> simp [h]

@[simp] theorem State.landKeyrel_wf {s : State} (h : s.MemWf) {die k : Nat} : (s.landKeyrel die k).MemWf := by
  unfold State.landKeyrel
  dsimp only
  (repeat' split) <;> simp [h]

@[simp] theorem State.answered_mem (s : State) (c : Nat) : (s.answered c).mem = s.mem := by simp [State.answered]

@[simp] theorem State.reqWaits_mem (s : State) (c u : Nat) : (s.reqWaits c u).mem = s.mem := by simp [State.reqWaits]

@[simp] theorem State.pageWaits_mem (s : State) (c u page : Nat) : (s.pageWaits c u page).mem = s.mem := by
  simp [State.pageWaits]

@[simp] theorem State.putResult_wf {s : State} (h : s.MemWf) {c : Nat} {addr : DWord} {bs : List Byte} :
    (s.putResult c addr bs).MemWf := by
  unfold State.putResult
  dsimp only
  split <;> simp [h]

@[simp] theorem State.doTsub_wf {s : State} (h : s.MemWf) {c : Nat} {pc : Word} {addr : DWord} :
    (s.doTsub c pc addr).MemWf := by
  unfold State.doTsub
  extract_lets x i r w set
  have hr : r.2.MemWf := State.dispRead_wf h
  have hw : w.2.MemWf := State.dispRead_wf hr
  split
  · simp [hr]
  · simp [hr]
  split
  · simp [hw]
  · simp [hw]
  extract_lets t
  have ht : t.2.MemWf := State.submit_wf hw
  split <;> simp [ht]

@[simp] theorem State.qsubResult_mem (s : State) (c : Nat) (d : Code) (m : Mask) (status : Nat) :
    (s.qsubResult c d m status).mem = s.mem := by
  unfold State.qsubResult
  dsimp only
  (repeat' split) <;> simp

@[simp] theorem State.doQsub_wf {s : State} (h : s.MemWf) {c : Nat} {pc : Word} {addr handle : DWord} {d : Code}
    {m : Mask} : (s.doQsub c pc addr handle d m).MemWf := by
  unfold State.doQsub
  dsimp only
  (repeat' split) <;> simp [h]

@[simp] theorem State.emitFails_wf {s : State} (h : s.MemWf) {c i status : Nat} : (s.emitFails c i status).MemWf := by
  simp [State.emitFails, h]

@[simp] theorem State.addGraphBlock_mem (s : State) (g : Nat) (t : Task) : (s.addGraphBlock g t).mem = s.mem := by
  unfold State.addGraphBlock
  dsimp only
  (repeat' split) <;> simp

@[simp] theorem State.doEmit_wf {s : State} (h : s.MemWf) {c : Nat} {addr : DWord} {i : Nat} :
    (s.doEmit c addr i).MemWf := by
  unfold State.doEmit
  extract_lets x f owner
  clear_value owner
  split
  · simp [h]
  split
  · simp [h]
  split
  · simp [h]
  extract_lets nd
  split
  · simp [h]
  split
  · simp [h]
  split
  · simp [h]
  extract_lets r
  have hr : r.2.MemWf := State.dispRead_wf h
  split
  · simp [hr]
  · simp [hr]
  extract_lets p u
  have hp : p.2.MemWf := State.takePage_wf hr
  split <;> simp [u, hp]

@[simp] theorem State.dispatch_wf {s : State} (h : s.MemWf) {c : Nat} : (s.dispatch c).MemWf := by
  unfold State.dispatch
  dsimp only
  (repeat' split) <;> simp [h]

@[simp] theorem State.bindGraphBlock_wf {s : State} (h : s.MemWf) {die id : Nat} : (s.bindGraphBlock die id).MemWf := by
  unfold State.bindGraphBlock
  dsimp only
  (repeat' split) <;> simp [h]

/-! ### Continuations (Machine/Contin) -/

@[simp] theorem State.onContn_mem (s : State) (c : Nat) (f : Contn → Contn) : (s.onContn c f).mem = s.mem := by
  unfold State.onContn
  split <;> simp

@[simp] theorem State.readDesc_wf {s : State} (h : s.MemWf) {c : Nat} {k : Contn} : (s.readDesc c k).MemWf := by
  unfold State.readDesc
  dsimp only
  (repeat' split) <;> simp [h]

@[simp] theorem State.park_wf {s : State} (h : s.MemWf) {c kind sreg : Nat} {obj named : DWord} {lanes : Mask}
    {resume : Word} : (s.park c kind sreg obj named lanes resume).MemWf := by
  unfold State.park
  extract_lets s0 out s1 x regs mask s2 k s3 s4
  have h0 : s0.MemWf := by simp [s0, h]
  have h1 : s1.MemWf := by unfold s1; split <;> simp [h0]
  split
  · exact h1
  have h2 : s2.MemWf := by simp [s2, h1]
  have h3 : s3.MemWf := State.leave_wf h2
  simp [s4, h3]

@[simp] theorem State.wakeStatus_wf {s : State} (h : s.MemWf) {c : Nat} {k : Contn} : (s.wakeStatus c k).2.MemWf := by
  unfold State.wakeStatus
  dsimp only
  (repeat' split) <;> simp [h]

@[simp] theorem State.unpark_wf {s : State} (h : s.MemWf) {c : Nat} {k : Contn} {status : Nat} :
    (s.unpark c k status).MemWf := by
  unfold State.unpark
  extract_lets s0 r x lim lane y u1 u2 u3 u4
  have h3 : u3.MemWf := by simp [u3, u2, u1, s0, h]
  have h4 : u4.MemWf := by unfold u4; (repeat' split) <;> simp [h3]
  exact State.foldl_wf (fun u v hu => State.refill_wf hu) _ _ h4

@[simp] theorem State.rehome_wf {s : State} (h : s.MemWf) {c b : Nat} {x : Block} : (s.rehome c b x).MemWf := by
  simp [State.rehome, h]

@[simp] theorem State.contWake_wf {s : State} (h : s.MemWf) {c : Nat} : (s.contWake c).MemWf := by
  unfold State.contWake
  split
  · exact h
  extract_lets s0
  have h0 : s0.MemWf := State.readDesc_wf h
  split
  · exact h0
  extract_lets w
  have hw : w.2.MemWf := by unfold w; split <;> simp [h0]
  split
  · exact hw
  · exact hw
  extract_lets s1 x r q
  have h1 : s1.MemWf := by simp [s1, hw]
  split
  · exact h1
  split
  · simp [h1]
  split
  · have hr : r.2.MemWf := State.areaReach_wf h1
    split
    · have hq : q.2.MemWf := by simp [q, hr]
      split <;> simp [hq]
    · exact hr
    · simp [hr]
  · exact h1

/-! ### Admission of blocks (Machine/Admit) -/

@[simp] theorem State.bind_wf {s : State} (h : s.MemWf) {die id : Nat} : (s.bind die id).MemWf := by
  unfold State.bind
  dsimp only
  (repeat' split) <;> simp [h]

@[simp] theorem State.trim_wf {s : State} (h : s.MemWf) {k : Nat × Nat} {n : Nat} : (s.trim k n).MemWf := by
  induction n generalizing s with
  | zero => exact h
  | succ n ih => rw [State.trim]; dsimp only; (repeat' split) <;> simp [ih, h]

@[simp] theorem State.reclaim_wf {s : State} (h : s.MemWf) {k : Nat × Nat} {n : Nat} : (s.reclaim k n).MemWf := by
  simp [State.reclaim, h]

@[simp] theorem State.startTimer_mem (s : State) (die ctx : Nat) : (s.startTimer die ctx).mem = s.mem := by
  unfold State.startTimer
  split <;> simp

@[simp] theorem State.takeWays_mem (s : State) (b : Nat) (x : Block) : (s.takeWays b x).mem = s.mem := by
  simp [State.takeWays]

@[simp] theorem State.admitBlock_wf {s : State} (h : s.MemWf) {b : Nat} {x : Block} : (s.admitBlock b x).MemWf := by
  unfold State.admitBlock
  dsimp only
  (repeat' split) <;> simp [h]

@[simp] theorem State.stopReclaim_mem (s : State) (k : Nat × Nat) : (s.stopReclaim k).mem = s.mem := by
  simp [State.stopReclaim]

@[simp] theorem State.admission_wf {s : State} (h : s.MemWf) {die core : Nat} : (s.admission die core).MemWf := by
  unfold State.admission
  (repeat' split) <;> simp [h]

@[simp] theorem State.startColumn_wf {s : State} (h : s.MemWf) {r : RowStream} {die col area : Nat} {data : List Byte} :
    (s.startColumn r die col area data).2.MemWf := by
  unfold State.startColumn
  dsimp only
  split <;> simp [h]

@[simp] theorem State.onRow_mem (s : State) (die id : Nat) (f : RowStream → RowStream) :
    (s.onRow die id f).mem = s.mem := by
  simp [State.onRow]

@[simp] theorem State.preloadHome_mem (s : State) (k : Nat × Nat) (pa : Nat) : (s.preloadHome k pa).2.mem = s.mem := by
  unfold State.preloadHome
  (repeat' split) <;> simp

@[simp] theorem State.preloadLine_wf {s : State} (h : s.MemWf) {r : RowStream} {k : Nat × Nat} {va : DWord} :
    (s.preloadLine r k va).2.MemWf := by
  unfold State.preloadLine
  dsimp only
  (repeat' split) <;> simp [h]

@[simp] theorem State.preload_wf {s : State} (h : s.MemWf) {r : RowStream} {die col n : Nat} :
    (s.preload r die col n).2.MemWf := by
  unfold State.preload
  split
  · exact h
  split
  · exact h
  · exact State.foldl_snd_wf (fun p i hp => by simp [hp]) _ _ h

@[simp] theorem State.preloads_wf {s : State} (h : s.MemWf) {r : RowStream} {die : Nat} :
    (s.preloads r die).2.MemWf := by
  unfold State.preloads
  exact State.foldl_snd_wf (fun p i hp => by simp [hp]) _ _ h

@[simp] theorem State.startStream_wf {s : State} (h : s.MemWf) {die : Nat} {r : RowStream} :
    (s.startStream die r).MemWf := by
  unfold State.startStream
  split
  · exact h
  split
  · exact h
  next areas _ =>
    extract_lets p n s0
    have hp : p.2.MemWf := by
      have h1 : ((rowCores r.row).foldl (fun s c => s.acquireL1 (die, c)) s).MemWf := by simp [h]
      exact State.preloads_wf h1
    split
    · simp [hp]
    · simp [hp]
    · simp [hp]
    have h0 : s0.MemWf := by simp [s0, hp]
    extract_lets t
    have ht : t.2.MemWf := State.foldl_snd_wf (fun a col ha => by simp [ha]) _ _ h0
    simp [ht]

@[simp] theorem State.answerRow_mem (s : State) (id lane : Nat) (r : Option (List Byte)) :
    (s.answerRow id lane r).mem = s.mem := by
  unfold State.answerRow
  rfl

@[simp] theorem State.quantumOver_mem (s : State) (b : Nat) : (s.quantumOver b).mem = s.mem := by
  unfold State.quantumOver
  split
  · rfl
  split
  · rfl
  extract_lets s1 want busy s2
  split
  · simp
  split
  · refine (State.foldl_mem (fun t c => by split <;> simp) _ _).trans ?_
    simp [s2, s1]
  · simp [s1]

@[simp] theorem State.age_mem (s : State) (b : Nat) : (s.age b).mem = s.mem := by
  unfold State.age
  (repeat' split) <;> simp

@[simp] theorem State.ungrant_wf {s : State} (h : s.MemWf) {t : Nat} {tk : Task} : (s.ungrant t tk).MemWf := by
  unfold State.ungrant
  split
  · exact h
  · exact State.foldl_wf (fun u e hu => State.releaseKey_wf hu) _ _ h

@[simp] theorem State.dropWaiting_wf {s : State} (h : s.MemWf) {p : Nat} {fault : Bool} :
    (s.dropWaiting p fault).MemWf := by
  unfold State.dropWaiting
  refine State.foldl_wf (fun t k ht => ?_) _ _ h
  extract_lets t0 s1 s2
  have h0 : t0.MemWf := State.ungrant_wf ht
  split
  · simp [h0]
  · have h2 : s2.MemWf := by unfold s2; split <;> simp [s1, h0]
    simp [h2]

@[simp] theorem State.faultPackets_wf {s : State} (h : s.MemWf) {die ctx : Nat} : (s.faultPackets die ctx).MemWf := by
  unfold State.faultPackets
  exact State.foldl_wf (fun t a ht => by simp [ht]) _ _ h

@[simp] theorem State.errorQueues_mem (s : State) (die : Option Nat) (ctx : Nat) :
    (s.errorQueues die ctx).mem = s.mem := by
  simp [State.errorQueues]

@[simp] theorem State.endContext_wf {s : State} (h : s.MemWf) {die ctx tsb : Nat} :
    (s.endContext die ctx tsb).MemWf := by
  unfold State.endContext
  extract_lets s1 s2 bs
  have h1 : s1.MemWf := State.faultPackets_wf h
  have h2 : s2.MemWf := State.foldl_wf (fun t r ht => State.fenceStream_wf ht) _ _ h1
  exact State.foldl_wf (fun t b ht => State.faultBlock_wf ht) _ _ h2

@[simp] theorem State.watchdog_wf {s : State} (h : s.MemWf) {die ctx : Nat} : (s.watchdog die ctx).MemWf := by
  unfold State.watchdog
  split <;> simp [h]

/-! ### Collectives (Machine/Collect) -/

@[simp] theorem State.pushColl_mem (s : State) (op : Nat) (a b c : SReg) (cop : BitVec 3) (n : BitVec 3) :
    (s.pushColl op a b c cop n).mem = s.mem := by
  simp [State.pushColl]

@[simp] theorem State.onColl_mem (s : State) (id : Nat) (f : Coll → Coll) : (s.onColl id f).mem = s.mem := by
  unfold State.onColl
  split <;> simp

@[simp] theorem State.collWord_wf {s : State} (h : s.MemWf) {c : Coll} {va : DWord} : (s.collWord c va).2.MemWf := by
  unfold State.collWord
  dsimp only
  (repeat' split) <;> simp [h]

@[simp] theorem State.collCount_mem (s : State) (c : Coll) (part : Nat) (l : List Nat) :
    (s.collCount c part l).mem = s.mem := by
  unfold State.collCount
  split <;> simp

@[simp] theorem State.collRead_wf {s : State} (h : s.MemWf) {c : Coll} {part : Nat} {l : List DWord} :
    (s.collRead c part l).2.MemWf := by
  unfold State.collRead
  extract_lets r
  have hr : r.2.MemWf := by
    refine State.foldl_snd_wf (fun p a hp => ?_) _ _ h
    dsimp only
    (repeat' split) <;> simp [hp]
  split <;> simp [hr]

@[simp] theorem State.collPlaces_wf {s : State} (h : s.MemWf) {c : Coll} {l : List DWord} :
    (s.collPlaces c l).2.MemWf := by
  unfold State.collPlaces
  exact State.foldl_snd_wf (fun t a ht => by dsimp only; (repeat' split) <;> simp [ht]) _ _ h

@[simp] theorem State.collSend_mem (s : State) (c : Coll) (i : Nat) (p : Place) (w : Word) :
    (s.collSend c i p w).mem = s.mem := by
  unfold State.collSend
  split <;> simp

@[simp] theorem State.collOut_wf {s : State} (h : s.MemWf) {c : Coll} {ps : List (Place × Word)} :
    (s.collOut c ps).MemWf := by
  simp [State.collOut, h]

@[simp] theorem State.freeWords_mem (s : State) (n : Nat) : (s.freeWords n).2.mem = s.mem := by
  unfold State.freeWords
  rfl

@[simp] theorem State.contributions_mem (s : State) (c : Coll) (mine : List Word) :
    (s.contributions c mine).2.mem = s.mem := by
  unfold State.contributions
  exact State.foldl_snd_mem (fun t a => by (repeat' split) <;> simp) _ _

@[simp] theorem State.undoColl_wf {s : State} (h : s.MemWf) {c : Coll} : (s.undoColl c).MemWf := by
  unfold State.undoColl
  refine State.foldl_wf (fun t p ht => ?_) _ _ h
  dsimp only
  split
  · simp [ht]
  · exact State.writePa_wf _ _ (by simp [ht])

@[simp] theorem State.endColl_wf {s : State} (h : s.MemWf) {c : Coll} {status : Nat} : (s.endColl c status).MemWf := by
  unfold State.endColl
  extract_lets s1 s2
  have h1 : s1.MemWf := h
  have h2 : s2.MemWf := by unfold s2; split <;> simp [h1]
  exact State.opDone_wf h2

@[simp] theorem State.collBad_wf {s : State} (h : s.MemWf) {c : Coll} : (s.collBad c).MemWf := by
  simp [State.collBad, h]

@[simp] theorem State.collStop_wf {s : State} (h : s.MemWf) {c : Coll} {r : CRead} : (s.collStop c r).MemWf := by
  unfold State.collStop
  split <;> simp [h]

@[simp] theorem State.mixColl_wf {s : State} (h : s.MemWf) {c : Coll} {l : List (DWord × Word)} :
    (s.mixColl c l).MemWf := by
  unfold State.mixColl
  exact State.foldl_wf (fun t a ht => by dsimp only; (repeat' split) <;> simp [ht]) _ _ h

@[simp] theorem State.mixUnknown_wf {s : State} (h : s.MemWf) {c : Coll} : (s.mixUnknown c).MemWf := by
  simp [State.mixUnknown, h]

@[simp] theorem State.collMembers_wf {s : State} (h : s.MemWf) {c : Coll} : (s.collMembers c).2.MemWf := by
  unfold State.collMembers
  dsimp only
  (repeat' split) <;> simp [h]

@[simp] theorem State.collCheck_wf {s : State} (h : s.MemWf) {c : Coll} : (s.collCheck c).2.MemWf := by
  unfold State.collCheck
  dsimp only
  (repeat' split) <;> simp [h]

@[simp] theorem State.startColl_wf {s : State} (h : s.MemWf) {c : Coll} : (s.startColl c).MemWf := by
  unfold State.startColl
  extract_lets r
  have hr : r.2.MemWf := State.collCheck_wf h
  split
  · simp [hr]
  extract_lets k
  have hk : k.2.MemWf := by unfold k; split <;> simp [hr]
  split <;> simp [hk]

@[simp] theorem State.collSignal_wf {s : State} (h : s.MemWf) {c : Coll} : (s.collSignal c).2.MemWf := by
  unfold State.collSignal
  dsimp only
  (repeat' split) <;> simp [h]

@[simp] theorem State.settleColl_wf {s : State} (h : s.MemWf) {id : Nat} : (s.settleColl id).MemWf := by
  unfold State.settleColl
  dsimp only
  (repeat' split) <;> simp [h]

@[simp] theorem State.collOutcome_mem (s : State) (c : Coll) (xs rs : List Word) :
    (s.collOutcome c xs rs).2.mem = s.mem := by
  simp [State.collOutcome]

@[simp] theorem State.writeColl_wf {s : State} (h : s.MemWf) {c : Coll} {xs rs : List Word} :
    (s.writeColl c xs rs).MemWf := by
  unfold State.writeColl
  extract_lets k d
  have hd : d.2.MemWf := by simp [d, k, h]
  split
  · exact hd
  · simp [hd]
  · extract_lets old s1
    have h1 : s1.MemWf := by simp [s1, hd]
    simp [h1]

@[simp] theorem State.collFails_wf {s : State} (h : s.MemWf) {c : Coll} {r : CRead} : (s.collFails c r).MemWf := by
  unfold State.collFails
  split <;> simp [h]

@[simp] theorem State.completeColl_wf {s : State} (h : s.MemWf) {c : Coll} : (s.completeColl c).MemWf := by
  unfold State.completeColl
  split
  · simp [h]
  extract_lets x
  have hx : x.2.MemWf := State.collRead_wf h
  split
  · extract_lets r
    have hr : r.2.MemWf := State.collRead_wf hx
    split <;> simp [hr]
  · simp [hx]

@[simp] theorem State.answerColl_wf {s : State} (h : s.MemWf) {id lane : Nat} {r : Option (List Byte)} :
    (s.answerColl id lane r).MemWf := by
  unfold State.answerColl
  dsimp only
  (repeat' split) <;> simp [h]

@[simp] theorem State.collLink_wf {s : State} (h : s.MemWf) {c : Coll} {member : Nat} :
    (s.collLink c member).MemWf := by
  unfold State.collLink
  dsimp only
  (repeat' split) <;> simp [h]

/-! ### The issue cycle (Machine/Cycle) -/

@[simp] theorem State.leaveLeft_wf {s : State} (h : s.MemWf) {c : Nat} : (s.leaveLeft c).MemWf := by
  unfold State.leaveLeft
  dsimp only
  (repeat' split) <;> simp [h]

@[simp] theorem State.cycle_wf {s : State} (h : s.MemWf) {k : Nat × Nat} : (s.cycle k).MemWf := by
  unfold State.cycle
  extract_lets s1 s0 s2
  split
  · exact h
  have h0 : s0.MemWf := State.landCore_wf (by simp [s1, h])
  exact State.foldl_wf (fun u c hu => by simp [hu]) _ _ h0

@[simp] theorem State.backReach_wf {s : State} (h : s.MemWf) {l : Loc} {use : Use} : (s.backReach l use).2.MemWf := by
  unfold State.backReach
  dsimp only
  split <;> simp [h]

@[simp] theorem State.spilled_wf {s : State} (h : s.MemWf) {l : Loc} : (s.spilled l).MemWf := by
  unfold State.spilled
  dsimp only
  (repeat' split) <;> simp [h]

@[simp] theorem State.filled_wf {s : State} (h : s.MemWf) {l : Loc} : (s.filled l).MemWf := by
  unfold State.filled
  dsimp only
  (repeat' split) <;> simp [h]

/-! ### Spires (Machine/Spire) -/

@[simp] theorem State.popRing_mem (s : State) (u : SlotUse) : (s.popRing u).mem = s.mem := by simp [State.popRing]

@[simp] theorem State.headWaits_mem (s : State) (u : SlotUse) (f : Nat) : (s.headWaits u f).mem = s.mem := by
  simp [State.headWaits]

@[simp] theorem State.reject_wf {s : State} (h : s.MemWf) {u : SlotUse} {bs : List Byte} {idx reason : Nat} :
    (s.reject u bs idx reason).MemWf := by
  unfold State.reject
  split <;> simp [h]

@[simp] theorem State.startAs_mem (s : State) (n : Nat) (u : SlotUse) (bs : List Byte) (idx : Nat) (lnch : Word)
    (f : Packet → Packet) : (s.startAs n u bs idx lnch f).mem = s.mem := by
  simp [State.startAs]

@[simp] theorem State.start_mem (s : State) (u : SlotUse) (bs : List Byte) (idx : Nat) (lnch : Word)
    (f : Packet → Packet) : (s.start u bs idx lnch f).2.mem = s.mem := by
  simp [State.start]

@[simp] theorem State.startLaunch_mem (s : State) (u : SlotUse) (bs : List Byte) (idx : Nat) :
    (s.startLaunch u bs idx).mem = s.mem := by
  unfold State.startLaunch
  split
  · rfl
  · next l s1 e => simp [State.newLnch_mem e]

@[simp] theorem State.startRows_mem (s : State) (u : SlotUse) (bs : List Byte) (idx : Nat) :
    (s.startRows u bs idx).mem = s.mem := by
  unfold State.startRows
  split
  · rfl
  · next l s1 e => simp [State.newLnch_mem e]

@[simp] theorem State.startGraph_wf {s : State} (h : s.MemWf) {u : SlotUse} {bs desc : List Byte} {idx : Nat} :
    (s.startGraph u bs desc idx).MemWf := by
  unfold State.startGraph
  extract_lets nodes root nin
  split
  · exact h
  split
  · exact h
  next l s1 e =>
    extract_lets g r gr u' s2
    have h1 : s1.MemWf := h.of_mem (State.newLnch_mem e)
    have h2 : s2.MemWf := by simp [s2, u', r, g, h1]
    split
    · exact h2
    extract_lets s3
    have h3 : s3.MemWf := State.foldl_wf (fun t b ht => by simp [ht]) _ _ h2
    split <;> simp [h3]

@[simp] theorem State.graphBytes_wf {s : State} (h : s.MemWf) {u : SlotUse} {gdesc : DWord} {flt : Option Nat} :
    (s.graphBytes u gdesc flt).2.MemWf := by
  unfold State.graphBytes
  dsimp only
  (repeat' split) <;> simp [h]

@[simp] theorem State.startKeytask_wf {s : State} (h : s.MemWf) {u : SlotUse} {bs : List Byte} {idx : Nat} {q : Queue} :
    (s.startKeytask u bs idx q).MemWf := by
  unfold State.startKeytask
  extract_lets va r w p
  have hr : r.2.MemWf := State.dispRead_wf h
  have hw : w.2.MemWf := State.dispRead_wf hr
  split
  · simp [h]
  split
  · simp [hr]
  · simp [hr]
  split
  · simp [hw]
  · simp [hw]
  extract_lets t
  have ht : t.2.MemWf := State.submit_wf (by simp [p, hw])
  split <;> simp [ht]

@[simp] theorem State.decodeHead_wf {s : State} (h : s.MemWf) {u : SlotUse} {q : Queue} {bs : List Byte} :
    (s.decodeHead u q bs).MemWf := by
  unfold State.decodeHead
  dsimp only
  (repeat' split) <;> simp [h]

@[simp] theorem State.unbound_mem (s : State) (w : DWord) : (s.unbound w).mem = s.mem := by
  unfold State.unbound
  split <;> simp

@[simp] theorem State.applyBind_mem (s : State) (die n : Nat) : (s.applyBind die n).mem = s.mem := by
  unfold State.applyBind
  split
  · rfl
  extract_lets s1 old v known s2 clear lower s3 s4 s5
  have h4 : s4.mem = s.mem := by unfold s4; split <;> simp [s3, s2, s1]
  have h5 : s5.mem = s.mem := by unfold s5; split <;> simp [h4]
  split
  · simp [s1]
  · split <;> simp [h5]

@[simp] theorem State.window_wf {s : State} (h : s.MemWf) {die : Nat} : (s.window die).MemWf := by
  unfold State.window
  dsimp only
  (repeat' split) <;> simp [h]

@[simp] theorem State.peekPkt_wf {s : State} (h : s.MemWf) {p : Packet} {w : WaitA} : (s.peekPkt p w).2.MemWf := by
  unfold State.peekPkt
  dsimp only
  (repeat' split) <;> simp [h]

@[simp] theorem State.setWait_mem (s : State) (p : Nat) (w : WaitA) : (s.setWait p w).mem = s.mem := by
  simp [State.setWait]

@[simp] theorem State.acquireDie_mem (s : State) (die scope : Nat) : (s.acquireDie die scope).mem = s.mem := by
  unfold State.acquireDie
  split <;> simp

@[simp] theorem State.waitFault_mem (s : State) (p : Packet) : (s.waitFault p).mem = s.mem := by simp [State.waitFault]

@[simp] theorem State.waitServed_mem (s : State) (p : Packet) : (s.waitServed p).mem = s.mem := by
  simp [State.waitServed]

@[simp] theorem State.finishWait_wf {s : State} (h : s.MemWf) {p : Nat} {x : Packet} {w : WaitA} {v : Word} :
    (s.finishWait p x w v).MemWf := by
  unfold State.finishWait
  split <;> simp [h]

@[simp] theorem State.failWait_wf {s : State} (h : s.MemWf) {p : Nat} {x : Packet} {w : WaitA} {sub : Nat} :
    (s.failWait p x w sub).MemWf := by
  simp [State.failWait, h]

@[simp] theorem State.tryWait_wf {s : State} (h : s.MemWf) {p : Nat} : (s.tryWait p).MemWf := by
  unfold State.tryWait
  dsimp only
  (repeat' split) <;> simp [h]

@[simp] theorem State.portalPush_wf {s : State} (h : s.MemWf) {ctx off : Nat} {bytes : List Byte} :
    (s.portalPush ctx off bytes).MemWf := by
  simp [State.portalPush, h]

@[simp] theorem State.abandonOne_wf {s : State} (h : s.MemWf) {ctx q : Nat} {x : Queue} {bs : List Byte} :
    (s.abandonOne ctx q x bs).MemWf := by
  unfold State.abandonOne
  dsimp only
  (repeat' split) <;> simp [h]

@[simp] theorem State.abandonRing_wf {s : State} (h : s.MemWf) {ctx q : Nat} {n : Nat} :
    (s.abandonRing ctx q n).MemWf := by
  induction n generalizing s with
  | zero => exact h
  | succ n ih =>
    rw [State.abandonRing]
    split
    · exact h
    split
    · exact h
    extract_lets r s1
    have hr : r.2.MemWf := State.hwRead_wf h
    have h1 : s1.MemWf := by unfold s1; split <;> simp [hr]
    exact ih (by simp [h1])

@[simp] theorem State.abandon_wf {s : State} (h : s.MemWf) {p : Nat} : (s.abandon p).MemWf := by
  unfold State.abandon
  split
  · exact h
  extract_lets s1 s2
  have h1 : s1.MemWf := State.foldl_wf (fun t r ht => State.fenceStream_wf ht) _ _ h
  simp [s2, h1]

/-! ### The fabric (Machine/Fabric) -/

@[simp] theorem State.routeAnswer_wf {s : State} (h : s.MemWf) {owner id lane : Nat} {r : Option (List Byte)} :
    (s.routeAnswer owner id lane r).MemWf := by
  unfold State.routeAnswer
  dsimp only
  (repeat' split) <;> simp [h]

@[simp] theorem State.csigFails_wf {s : State} (h : s.MemWf) {g : SigInfo} : (s.csigFails g).MemWf := by
  unfold State.csigFails
  split <;> simp [h]

@[simp] theorem State.xerr_wf {s : State} (h : s.MemWf) {r : PcieReq} {status : Nat} : (s.xerr r status).MemWf := by
  unfold State.xerr
  (repeat' split) <;> simp [h]

@[simp] theorem State.endPcie_wf {s : State} (h : s.MemWf) {r : PcieReq} {ok : Bool} {status : Nat} {data : List Byte} :
    (s.endPcie r ok status data).MemWf := by
  unfold State.endPcie
  dsimp only
  (repeat' split) <;> simp [h]

@[simp] theorem State.writeLines_wf {s : State} (h : s.MemWf) {n : Nat} {pa : Nat} {bs : List Byte} :
    (s.writeLines n pa bs).MemWf := by
  induction n generalizing s pa bs with
  | zero => exact h
  | succ n ih => rw [State.writeLines]; (repeat' split) <;> simp [ih, h]

@[simp] theorem State.performFlit_wf {s : State} (h : s.MemWf) {f : Flit} : (s.performFlit f).2.MemWf := by
  unfold State.performFlit
  dsimp only
  (repeat' split) <;> simp [State.writePa_wf, h]

@[simp] theorem State.dropReq_mem (s : State) (tag : BitVec 16) : (s.dropReq tag).mem = s.mem := by simp [State.dropReq]

@[simp] theorem State.sendFlit_mem (s : State) (f : Flit) : (s.sendFlit f).mem = s.mem := by simp [State.sendFlit]

@[simp] theorem State.takeRequest_wf {s : State} (h : s.MemWf) {f : Flit} : (s.takeRequest f).MemWf := by
  unfold State.takeRequest
  dsimp only
  (repeat' split) <;> simp [h]

@[simp] theorem State.takeResponse_wf {s : State} (h : s.MemWf) {f : Flit} : (s.takeResponse f).MemWf := by
  unfold State.takeResponse
  dsimp only
  (repeat' split) <;> simp [h]

@[simp] theorem State.takeFlit_wf {s : State} (h : s.MemWf) {f : Flit} : (s.takeFlit f).MemWf := by
  unfold State.takeFlit
  (repeat' split) <;> simp [h]

/-! ### Management (Machine/Manage) -/

@[simp] theorem State.writeRecord_wf {s : State} (h : s.MemWf) {ctx fid : Nat} : (s.writeRecord ctx fid).MemWf := by
  unfold State.writeRecord
  dsimp only
  (repeat' split) <;> simp [h]

@[simp] theorem State.answerFault_mem (s : State) (ctx : Nat) (fid : BitVec 16) (code : Nat) :
    (s.answerFault ctx fid code).mem = s.mem := by
  unfold State.answerFault
  split <;> simp

@[simp] theorem State.setGov_mem (s : State) (ctx : Nat) (f : Gov → Gov) : (s.setGov ctx f).mem = s.mem := by
  simp [State.setGov]

@[simp] theorem State.onHealth_mem (s : State) (die : Nat) (f : Health → Health) : (s.onHealth die f).mem = s.mem := by
  simp [State.onHealth]

@[simp] theorem State.setReg_mem (s : State) (r : RegName) (v : DWord) : (s.setReg r v).mem = s.mem := by
  unfold State.setReg
  dsimp only
  (repeat' split) <;> simp

@[simp] theorem State.barWrite_wf {s : State} (h : s.MemWf) {n off : Nat} {bs : List Byte} :
    (s.barWrite n off bs).MemWf := by
  induction n generalizing s off bs with
  | zero => exact h
  | succ n ih =>
    rw [State.barWrite]
    split
    · exact h
    refine ih ?_
    split
    · exact State.writePa_wf _ _ h
    · exact h

@[simp] theorem State.barRead_mem (s : State) (n : Nat) (a : Nat) (b : Nat) : (s.barRead n a b).2.mem = s.mem := by
  induction n generalizing s a b with
  | zero => rfl
  | succ n ih => rw [State.barRead]; (repeat' split) <;> simp [ih]

@[simp] theorem State.complete_mem (s : State) (bar off : Nat) (r : Option (List Byte)) :
    (s.complete bar off r).mem = s.mem := by
  unfold State.complete
  rfl

theorem State.failRead_wf {s t : State} (h : s.MemWf) {c src : Nat} {hit : MemOp → LaneAcc → Bool}
    (e : s.failRead c src hit = some t) : t.MemWf := by
  unfold State.failRead at e
  split at e
  · cases e
  · obtain rfl := Option.some.inj e
    (repeat' split) <;> simp [h]

@[simp] theorem State.failOr_wf {s : State} (h : s.MemWf) {c k : Nat} {src : HweSrc} {addr : DWord}
    {hit : MemOp → LaneAcc → Bool} : (s.failOr c src addr (s.failRead c k hit)).MemWf := by
  unfold State.failOr
  cases e : s.failRead c k hit with
  | none => exact State.hwError_wf h
  | some t => exact State.failRead_wf h e

@[simp] theorem State.lineLost_wf {s : State} (h : s.MemWf) {die ln : Nat} {ctxs : List Nat} :
    (s.lineLost die ln ctxs).MemWf := by
  unfold State.lineLost
  exact State.foldl_wf (fun t a ht => by simp [ht]) _ _ h

@[simp] theorem State.lineFails_wf {s : State} (h : s.MemWf) {x : Course} {pa : Nat} : (s.lineFails x pa).MemWf := by
  simp [State.lineFails, h]

@[simp] theorem State.memoryError_wf {s : State} (h : s.MemWf) {c : Nat} {x : Course} {addr : DWord} :
    (s.memoryError c x addr).MemWf := by
  unfold State.memoryError
  dsimp only
  (repeat' split) <;> simp [h]

@[simp] theorem State.engineError_wf {s : State} (h : s.MemWf) {c : Nat} {x : Course} : (s.engineError c x).MemWf := by
  unfold State.engineError
  dsimp only
  (repeat' split) <;> simp [h]

@[simp] theorem State.uncorrectable_wf {s : State} (h : s.MemWf) {c : Nat} {src : HweSrc} {addr : DWord} :
    (s.uncorrectable c src addr).MemWf := by
  unfold State.uncorrectable
  dsimp only
  (repeat' split) <;> simp [h]

@[simp] theorem State.poolFails_wf {s : State} (h : s.MemWf) {addr : DWord} : (s.poolFails addr).MemWf := by
  simp [State.poolFails, h]

@[simp] theorem State.ufence_wf {s : State} (h : s.MemWf) {kind die u : Nat} {ctxs : List Nat} :
    (s.ufence kind die u ctxs).MemWf := by
  unfold State.ufence
  exact State.foldl_wf (fun t a ht => by simp [ht]) _ _ h

@[simp] theorem State.loseCore_wf {s : State} (h : s.MemWf) {die core : Nat} : (s.loseCore die core).MemWf := by
  unfold State.loseCore
  extract_lets s1 s2 s3 row moved s3' s4 bs
  have h1 : s1.MemWf := State.ufence_wf h
  have h3 : s3.MemWf := by simp [s3, s2, h1]
  have h3' : s3'.MemWf := by unfold s3'; split <;> simp [h3]
  have h4 : s4.MemWf := by unfold s4 row; (repeat' split) <;> simp [h3']
  exact State.foldl_wf (fun t b ht => by (repeat' split) <;> simp [ht]) _ _ h4

@[simp] theorem State.laneSpared_mem (s : State) (link : Nat) : (s.laneSpared link).mem = s.mem := by
  simp [State.laneSpared]

@[simp] theorem State.loseSlice_wf {s : State} (h : s.MemWf) {die u : Nat} : (s.loseSlice die u).MemWf :=
  State.foldl_wf (fun _ _ hu => by split <;> simp [hu]) _ _ h

@[simp] theorem State.loseChannel_wf {s : State} (h : s.MemWf) {die u : Nat} : (s.loseChannel die u).MemWf :=
  State.foldl_wf (fun _ _ hu => State.lineLost_wf hu) _ _ h

/-! ### Links (Machine/Link) -/

@[simp] theorem State.onPort_mem (s : State) (p : Nat) (f : Port → Port) : (s.onPort p f).mem = s.mem := by
  simp [State.onPort]

@[simp] theorem State.transmit_mem (s : State) (p : Nat) (f : Flit) : (s.transmit p f).mem = s.mem := by
  simp [State.transmit]

@[simp] theorem State.pumpTransit_mem (s : State) : s.pumpTransit.mem = s.mem := by
  unfold State.pumpTransit
  exact State.foldl_mem (fun t a => by dsimp only; (repeat' split) <;> simp) _ _

@[simp] theorem State.pump_mem (s : State) : s.pump.mem = s.mem := by
  unfold State.pump
  extract_lets t
  have ht : t.mem = s.mem := by unfold t; split <;> simp
  split
  · exact ht
  · refine (State.foldl_mem (fun t f => by (repeat' split) <;> simp) _ _).trans ?_
    simp [ht]

@[simp] theorem State.sayIdle_mem (s : State) (p before : Nat) : (s.sayIdle p before).mem = s.mem := by
  unfold State.sayIdle
  dsimp only
  split <;> simp

@[simp] theorem State.passOn_wf {s : State} (h : s.MemWf) {p : Nat} {f : Flit} : (s.passOn p f).MemWf := by
  unfold State.passOn
  split <;> simp [h]

@[simp] theorem State.receive_wf {s : State} (h : s.MemWf) {p : Nat} {bs : List Byte} : (s.receive p bs).MemWf := by
  unfold State.receive
  dsimp only
  (repeat' split) <;> simp [h]

@[simp] theorem State.fenceLink_wf {s : State} (h : s.MemWf) {p : Nat} : (s.fenceLink p).MemWf := by
  simp [State.fenceLink, h]

/-! ### Start-up and attestation (Machine/Startup) -/

@[simp] theorem State.boots_mem (s : State) (a b : List (List Byte)) (ilv : Option Nat) :
    (s.boots a b ilv).mem = s.mem := by
  unfold State.boots
  dsimp only
  split <;> simp

@[simp] theorem State.onBoot_mem (s : State) (f : Boot → Boot) : (s.onBoot f).mem = s.mem := by
  unfold State.onBoot
  rfl

/-! ### What runs beside the courses (Machine/Background) -/

@[simp] theorem State.pick_mem (s : State) : s.pick.2.mem = s.mem := by
  unfold State.pick
  dsimp only
  (repeat' split) <;> simp

@[simp] theorem State.tick_mem (s : State) : s.tick.mem = s.mem := by simp [State.tick]

/-- An outcome that goes on does so with memory in its canonical form. -/
def Result.MemWf (r : Host.Outcome State Fault Refusal) : Prop := ∀ t, r = .next t → t.MemWf

theorem Result.memWf_next {s : State} (h : s.MemWf) : Result.MemWf (.next s) := by
  intro t e
  cases e
  exact h

/-- A slot word keeps memory canonical when its effect does: what stands before the effect writes no
memory, or takes a trap. -/
theorem gated_wf {s : State} (h : s.MemWf) {ins : Instr} {eff : State → State}
    (he : ∀ t : State, t.MemWf → (eff t).MemWf) : Result.MemWf (gated ins s eff) := by
  unfold gated
  split
  · exact Result.memWf_next h
  split
  · exact Result.memWf_next (he s h)
  split
  · dsimp only
    split
    · exact Result.memWf_next (he _ (by simp [h]))
    · exact Result.memWf_next (by simp [h])
  · exact Result.memWf_next (State.obey_wf h)

/-- A slot 3 word that may stand under a lane mask: its effect runs, or nothing happens. -/
theorem slot3_wf {s : State} (h : s.MemWf) {ins : Instr} {f : State → State} (hf : ∀ t : State, t.MemWf → (f t).MemWf) :
    Result.MemWf (slot3 ins s f) :=
  gated_wf h fun t ht => by split <;> simp [hf, ht]

theorem scalarOp_wf {s : State} (h : s.MemWf) {ins : Instr} {d : SReg} {f : State → DWord} :
    Result.MemWf (scalarOp ins d f s) :=
  gated_wf h fun t ht => by simp [ht]

theorem addSub_wf {s : State} (h : s.MemWf) {ins : Instr} {sub sat : Bool} : Result.MemWf (addSub ins sub sat s) :=
  gated_wf h fun t ht => by simp [ht]

theorem vecWord_wf {s : State} (h : s.MemWf) {ins : Instr} {f : Word → Word → Word → Word} :
    Result.MemWf (vecWord ins f s) :=
  gated_wf h fun t ht => by simp [ht]

theorem vecLane_wf {s : State} (h : s.MemWf) {ins : Instr} {f : Lane → Word → Word → Word} :
    Result.MemWf (vecLane ins f s) :=
  gated_wf h fun t ht => by simp [ht]

theorem vecPred_wf {s : State} (h : s.MemWf) {ins : Instr} {p : BitVec 3} {conj : Bool}
    {f : Course → Word → Word → Bool × DWord} : Result.MemWf (vecPred ins p conj f s) :=
  gated_wf h fun t ht => by simp [ht]

theorem vecFloat_wf {s : State} (h : s.MemWf) {ins : Instr} {f : RM → Bool → Nat → Nat → Nat → FR} :
    Result.MemWf (vecFloat ins f s) :=
  gated_wf h fun t ht => by simp [ht]

theorem vecConv_wf {s : State} (h : s.MemWf) {ins : Instr} {f : RM → Bool → Option Tag → Nat → Word × DWord} :
    Result.MemWf (vecConv ins f s) :=
  gated_wf h fun t ht => by simp [ht]

theorem vecHalf_wf {s : State} (h : s.MemWf) {ins : Instr} {f : Fmt → RM → Nat → Nat → Nat → FR} :
    Result.MemWf (vecHalf ins f s) :=
  gated_wf h fun t ht => by simp [ht]

theorem vecDot_wf {s : State} (h : s.MemWf) {ins : Instr} {n : Nat} {tags : Option Tag → Tag} :
    Result.MemWf (vecDot ins n tags s) :=
  gated_wf h fun t ht => by simp [ht]

theorem shuffle_wf {s : State} (h : s.MemWf) {ins : Instr} : Result.MemWf (shuffle ins s) :=
  gated_wf h fun t ht => by simp [ht]

theorem loadRow_wf {s : State} (h : s.MemWf) {ins : Instr} {bytes : Nat} {sx : Bool} {words : Nat} {ac : BitVec 2}
    {nt : Bool} : Result.MemWf (loadRow ins bytes sx words ac nt s) :=
  gated_wf h fun t ht => by simp [ht]

theorem storeRow_wf {s : State} (h : s.MemWf) {ins : Instr} {bytes words : Nat} {ac : BitVec 2} {nt : Bool} :
    Result.MemWf (storeRow ins bytes words ac nt s) :=
  gated_wf h fun t ht => by simp [ht]

theorem wordRow_wf {s : State} (h : s.MemWf) {ins : Instr} {kind : OpKind} {ac : BitVec 2} {scope : BitVec 3}
    {ext : Bool} : Result.MemWf (wordRow ins kind ac scope ext s) :=
  gated_wf h fun t ht => by simp [ht]

theorem rangeRow_wf {s : State} (h : s.MemWf) {ins : Instr} {kind : OpKind} {a : SReg} {n : Code} :
    Result.MemWf (rangeRow ins kind a n s) :=
  gated_wf h fun t ht => by simp [ht]

theorem scalarAccess_wf {s : State} (h : s.MemWf) {ins : Instr} {kind : OpKind} {a : SReg} {k : BitVec 9}
    {data : State → List Word} : Result.MemWf (scalarAccess ins kind a k data s) :=
  gated_wf h fun t ht => by simp [ht]

theorem flitEvent_wf {s : State} (h : s.MemWf) {kind : Nat} {f : Flit} : Result.MemWf (flitEvent kind f s) :=
  Result.memWf_next (by split <;> simp [h])

theorem spdm_wf {s : State} (h : s.MemWf) {f : Boot → Boot} : Result.MemWf (spdm s f) :=
  Result.memWf_next (by split <;> simp [h])

theorem execExit_wf {s : State} (h : s.MemWf) : Result.MemWf (execExit s) :=
  gated_wf h fun t ht => by
    split
    · exact State.foldl_wf (fun u c hu => State.retire_wf hu) _ _ ht
    · exact State.retire_wf ht

theorem execPref_wf {s : State} (h : s.MemWf) {dc : Bool} {s' : BitVec 5} {o : BitVec 7} {ac : BitVec 2} {uo : Bool}
    {off : BitVec 7} : Result.MemWf (execPref dc s' o ac uo off s) :=
  gated_wf h fun t ht => by
    extract_lets va t1
    have h1 : t1.MemWf := State.foldl_wf (fun u i hu => State.prefetch_wf hu) _ _ ht
    simp [h1]

theorem execFixedFunctionRequestPerformed_wf {s : State} (h : s.MemWf) {course op : Nat} :
    Result.MemWf (execFixedFunctionRequestPerformed course op s) := by
  refine Result.memWf_next ?_
  split
  · exact h
  split
  · exact h
  · refine State.settleFixed_wf ?_
    split
    · simp [h]
    · exact State.foldl_wf (fun t l ht => State.fixedStep_wf ht) _ _ h

theorem execForcedSave_wf {s : State} (h : s.MemWf) {course : Nat} : Result.MemWf (execForcedSave course s) := by
  refine Result.memWf_next ?_
  extract_lets cs due one r
  have hr : r.2.MemWf := State.foldl_snd_wf (fun p c hp => by simp [one, hp]) _ _ h
  split
  · exact h
  split
  · exact State.foldl_wf (fun t c ht => State.forceSave_wf ht) _ _ hr
  · exact hr
  · simp [hr]

theorem execCourseResume_wf {s : State} (h : s.MemWf) {course : Nat} : Result.MemWf (execCourseResume course s) := by
  refine Result.memWf_next ?_
  extract_lets cs one r q
  have hr : r.2.MemWf := State.foldl_snd_wf (fun p c hp => by simp [one, hp]) _ _ h
  split
  · have hq : q.2.MemWf := by simp [q, hr]
    split
    · exact State.foldl_wf (fun t c ht => State.resumeOne_wf ht) _ _ hq
    · exact hq
  · exact hr
  · simp [hr]

/-- A course whose delivery is none stays as it is. -/
theorem State.deliver_getD_wf {s : State} (h : s.MemWf) {c : Nat} : ((s.deliver c).getD s).MemWf := by
  cases e : s.deliver c with
  | none => exact h
  | some t => exact State.deliver_wf h e

theorem execAsyncTrapDelivery_wf {s : State} (h : s.MemWf) {course : Nat} :
    Result.MemWf (execAsyncTrapDelivery course s) := by
  refine Result.memWf_next ?_
  split
  · split
    · exact State.deliver_getD_wf h
    · exact h
  · split
    · exact State.deliver_getD_wf h
    · exact h

/-- Power loss leaves the memory of the reset state, which lists nothing. -/
theorem execPowerLoss_wf {s : State} : Result.MemWf (execPowerLoss s) :=
  Result.memWf_next rfl

theorem execUnitFailure_wf {s : State} (h : s.MemWf) {kind die u : Nat} :
    Result.MemWf (execUnitFailure kind die u s) := by
  have hu : ∀ p, (s.ufence kind die u (s.contextsOn die p)).MemWf := fun p => State.ufence_wf h
  unfold execUnitFailure
  dsimp only
  split
  case h_8 => intro t e; cases e
  all_goals exact Result.memWf_next (by simp [hu, h])

theorem execBrs_wf {s : State} (h : s.MemWf) {r : BitVec 5} {i : BitVec 19} : Result.MemWf (execBrs r i s) :=
  gated_wf h fun t ht => by split <;> simp [ht]

theorem execMfs_wf {s : State} (h : s.MemWf) {d : BitVec 5} {i : BitVec 9} : Result.MemWf (execMfs d i s) :=
  gated_wf h fun t ht => by split <;> simp [ht]

theorem execOwng_wf {s : State} (h : s.MemWf) {m : Bool} {a : BitVec 5} : Result.MemWf (execOwng m a s) :=
  slot3_wf h fun t ht => by split <;> simp [ht]

theorem execOwnt_wf {s : State} (h : s.MemWf) {m : Bool} {a : BitVec 5} : Result.MemWf (execOwnt m a s) :=
  slot3_wf h fun t ht => by split <;> simp [ht]

theorem execQcfg_wf {s : State} (h : s.MemWf) {m : Bool} {a b : BitVec 5} {q : BitVec 4} :
    Result.MemWf (execQcfg m a b q s) :=
  slot3_wf h fun t ht => by dsimp only; (repeat' split) <;> simp [ht]

theorem execQpush_wf {s : State} (h : s.MemWf) {m : Bool} {a : BitVec 5} {q : BitVec 4} :
    Result.MemWf (execQpush m a q s) :=
  slot3_wf h fun t ht => by dsimp only; (repeat' split) <;> simp [ht]

theorem execCont_wf {s : State} (h : s.MemWf) {m : Bool} {a b : BitVec 5} {k : BitVec 2} :
    Result.MemWf (execCont m a b k s) :=
  slot3_wf h fun t ht => by dsimp only; (repeat' split) <;> simp [ht]

theorem execQsub_wf {s : State} (h : s.MemWf) {m : Bool} {d : BitVec 7} {a b : BitVec 5} :
    Result.MemWf (execQsub m d a b s) :=
  slot3_wf h fun t ht => by split <;> simp [ht]

theorem execFairnessExpiry_wf {s : State} (h : s.MemWf) {course : Nat} : Result.MemWf (execFairnessExpiry course s) :=
  Result.memWf_next (by split <;> simp [h])

theorem execResultLanding_wf {s : State} (h : s.MemWf) {course k : Nat} : Result.MemWf (execResultLanding course k s) :=
  Result.memWf_next (by split <;> simp [h])

theorem execWaitaWake_wf {s : State} (h : s.MemWf) {course lane : Nat} : Result.MemWf (execWaitaWake course lane s) :=
  Result.memWf_next (by (repeat' split) <;> simp [h])

theorem execWaitaPoll_wf {s : State} (h : s.MemWf) {course lane : Nat} : Result.MemWf (execWaitaPoll course lane s) :=
  Result.memWf_next (by (repeat' split) <;> simp [h])

theorem execWaitaTimeout_wf {s : State} (h : s.MemWf) {course lane : Nat} :
    Result.MemWf (execWaitaTimeout course lane s) :=
  Result.memWf_next (by (repeat' split) <;> simp [h])

theorem execPreemptDeadlineExpiry_wf {s : State} (h : s.MemWf) {course : Nat} :
    Result.MemWf (execPreemptDeadlineExpiry course s) :=
  Result.memWf_next (by (repeat' split) <;> simp [h])

theorem execMmaComplete_wf {s : State} (h : s.MemWf) {die core k : Nat} : Result.MemWf (execMmaComplete die core k s) :=
  Result.memWf_next (by split <;> simp [h])

theorem execMzeroComplete_wf {s : State} (h : s.MemWf) {die core k : Nat} :
    Result.MemWf (execMzeroComplete die core k s) :=
  Result.memWf_next (by dsimp only; (repeat' split) <;> simp [h])

theorem execMcheComplete_wf {s : State} (h : s.MemWf) {die core k : Nat} :
    Result.MemWf (execMcheComplete die core k s) :=
  Result.memWf_next (by split <;> simp [h])

theorem execMdstComplete_wf {s : State} (h : s.MemWf) {die core k : Nat} :
    Result.MemWf (execMdstComplete die core k s) :=
  Result.memWf_next (by dsimp only; (repeat' split) <;> simp [h])

theorem execMaclLanding_wf {s : State} (h : s.MemWf) {die core k : Nat} : Result.MemWf (execMaclLanding die core k s) :=
  Result.memWf_next (by split <;> simp [h])

theorem execCopyComplete_wf {s : State} (h : s.MemWf) {die core k target : Nat} :
    Result.MemWf (execCopyComplete die core k target s) :=
  Result.memWf_next (by (repeat' split) <;> simp [h])

theorem execStagingUnitArrival_wf {s : State} (h : s.MemWf) {die core k : Nat} :
    Result.MemWf (execStagingUnitArrival die core k s) :=
  Result.memWf_next (by (repeat' split) <;> simp [h])

theorem execStagingUnitDrain_wf {s : State} (h : s.MemWf) {dir u target : Nat} :
    Result.MemWf (execStagingUnitDrain dir u target s) :=
  Result.memWf_next (by (repeat' split) <;> simp [h])

theorem execCollectiveStart_wf {s : State} (h : s.MemWf) {k : Nat} : Result.MemWf (execCollectiveStart k s) :=
  Result.memWf_next (by (repeat' split) <;> simp [h])

theorem execCollectiveComplete_wf {s : State} (h : s.MemWf) {k : Nat} : Result.MemWf (execCollectiveComplete k s) :=
  Result.memWf_next (by (repeat' split) <;> simp [h])

theorem execStreamStart_wf {s : State} (h : s.MemWf) {pkt row : Nat} : Result.MemWf (execStreamStart pkt row s) :=
  Result.memWf_next (by (repeat' split) <;> simp [h])

theorem execPortalWrite_wf {s : State} (h : s.MemWf) {ctx off : Nat} {bytes : List Byte} :
    Result.MemWf (execPortalWrite ctx off bytes s) :=
  Result.memWf_next (by (repeat' split) <;> simp [h])

theorem execQueueCreate_wf {s : State} (h : s.MemWf) {ctx q k : Nat} {ring : DWord} :
    Result.MemWf (execQueueCreate ctx q k ring s) :=
  Result.memWf_next (by split <;> simp [h])

theorem execQueueDestroy_wf {s : State} (h : s.MemWf) {ctx q : Nat} : Result.MemWf (execQueueDestroy ctx q s) := by
  refine Result.memWf_next ?_
  split
  · exact h
  next x _ =>
    extract_lets clear s1 s2 s3
    have h1 : s1.MemWf := State.abandonRing_wf (by simp [h])
    have h3 : s3.MemWf := State.foldl_wf (fun u e hu => State.abandon_wf hu) _ _ h1
    simp [h3]

theorem execBindRecordWrite_wf {s : State} (h : s.MemWf) {die slot : Nat} {w0 w1 : DWord} :
    Result.MemWf (execBindRecordWrite die slot w0 w1 s) :=
  Result.memWf_next (by split <;> simp [h])

theorem execKtrepWrite_wf {s : State} (h : s.MemWf) {die : Nat} {v : DWord} : Result.MemWf (execKtrepWrite die v s) :=
  Result.memWf_next (by dsimp only; (repeat' split) <;> simp [h])

theorem execTlbinvDone_wf {s : State} (h : s.MemWf) : Result.MemWf (execTlbinvDone s) :=
  Result.memWf_next (by dsimp only; (repeat' split) <;> simp [h])

theorem execDieCacheWriteback_wf {s : State} (h : s.MemWf) {pa : Nat} {wr : Bool} :
    Result.MemWf (execDieCacheWriteback pa wr s) :=
  Result.memWf_next (by dsimp only; (repeat' split) <;> simp [h])

theorem execHostBarAccess_wf {s : State} (h : s.MemWf) {wr : Bool} {off n : Nat} {bytes : List Byte} :
    Result.MemWf (execHostBarAccess wr off n bytes s) :=
  Result.memWf_next (by dsimp only; (repeat' split) <;> simp [h])

theorem execPcieCompletion_wf {s : State} (h : s.MemWf) {req : Nat} {ok : Bool} {status : BitVec 8} {data : List Byte} :
    Result.MemWf (execPcieCompletion req ok status data s) :=
  Result.memWf_next (by split <;> simp [h])

theorem execPcieRequestTimeout_wf {s : State} (h : s.MemWf) {req : Nat} : Result.MemWf (execPcieRequestTimeout req s) :=
  Result.memWf_next (by split <;> simp [h])

theorem execThermalStop_wf {s : State} (h : s.MemWf) {die sensor : Nat} {reading : BitVec 16} :
    Result.MemWf (execThermalStop die sensor reading s) := by
  refine Result.memWf_next ?_
  extract_lets s1 s2
  have h1 : s1.MemWf := by simp [s1, h]
  split
  · exact State.foldl_wf (fun u c hu => State.errEntry_wf hu) _ _ (by simp [s2, h1])
  · exact h1

theorem execPowerOn_wf {s : State} (h : s.MemWf) {a b : List (List Byte)} {ilv : Option Nat} :
    Result.MemWf (execPowerOn a b ilv s) :=
  Result.memWf_next (by split <;> simp [h])

theorem execSvnFuseRaise_wf {s : State} (h : s.MemWf) : Result.MemWf (execSvnFuseRaise s) :=
  Result.memWf_next (by dsimp only; (repeat' split) <;> simp [h])

theorem execContextCreate_wf {s : State} (h : s.MemWf) {ctx : Nat} {cbase : DWord} :
    Result.MemWf (execContextCreate ctx cbase s) :=
  Result.memWf_next (by split <;> simp [h])

theorem execContextReset_wf {s : State} (h : s.MemWf) {ctx : Nat} : Result.MemWf (execContextReset ctx s) := by
  refine Result.memWf_next ?_
  extract_lets k
  have hk : k.2.MemWf := by simp [k, h]
  have he : ((List.range 4).foldl (fun s d => s.endContext d ctx (1 + k.1)) k.2).MemWf :=
    State.foldl_wf (fun u d hu => State.endContext_wf hu) _ _ hk
  simp [he]

theorem execFlitResponse_wf {s : State} (h : s.MemWf) {f : Flit} : Result.MemWf (execFlitResponse f s) :=
  Result.memWf_next (by split <;> simp [h])

theorem execFlitReceive_wf {s : State} (h : s.MemWf) {port : Nat} {bytes : List Byte} :
    Result.MemWf (execFlitReceive port bytes s) :=
  Result.memWf_next (by dsimp only; (repeat' split) <;> simp [h])

theorem execFlitReplayTimeout_wf {s : State} (h : s.MemWf) {port : Nat} : Result.MemWf (execFlitReplayTimeout port s) :=
  Result.memWf_next (by (repeat' split) <;> simp [h])

theorem execLinkTrainTimeout_wf {s : State} (h : s.MemWf) {port : Nat} : Result.MemWf (execLinkTrainTimeout port s) :=
  Result.memWf_next (by split <;> simp [h])

theorem execFabricRequestTimeout_wf {s : State} (h : s.MemWf) {tag : BitVec 16} :
    Result.MemWf (execFabricRequestTimeout tag s) :=
  Result.memWf_next (by dsimp only; (repeat' split) <;> simp [h])

theorem execLinkTrained_wf {s : State} (h : s.MemWf) {port : Nat} {lanes : BitVec 8} :
    Result.MemWf (execLinkTrained port lanes s) :=
  Result.memWf_next (by dsimp only; (repeat' split) <;> simp [h])

theorem execTransportUnreachableTimeout_wf {s : State} (h : s.MemWf) {k member : Nat} :
    Result.MemWf (execTransportUnreachableTimeout k member s) :=
  Result.memWf_next (by split <;> simp [h])

/-- An instruction or event keeps memory canonical: a slot word by `gated_wf` and its effect, an event by
its effect alone. -/
theorem exec_wf {s : State} (h : s.MemWf) (i : Instr) : Result.MemWf (exec i s) := by
  unfold exec
  cases i with
  | nop | bra | brp | brx | call | callx | ret | loopi | loop | jarm | jwait | yld | trap | eret | waitc | mts
    | save | rest | pdone | govq | vtos | vtosF | vfree | fcvt | pack | xred | xscn | xbal | xcnt | xfst | rsvup
    | rsvmrg | rsvfin | waita | fence | lda | trace | tracec | visq | tsamp | tsize =>
    exact gated_wf h fun t ht => by simp [ht]
  | sadd | ssub | smul | smulh | sand | sor | sxor | sshl | sshlImm | sshr | sshrImm | ssra | ssraImm | smin | smax
    | scmp | saddi | sli | slih | ssel | sclz | spopc =>
    exact scalarOp_wf h
  | sld | sst =>
    exact scalarAccess_wf h
  | iadd | isub =>
    exact addSub_wf h
  | iaddc | imul | imulh | imulhu | imad | imin | imax | iminu | imaxu | iabs | and | or | xor | andn | shl | shlImm
    | shr | shrImm | sra | sraImm | rol | rolImm | bfx | bfi | popc | clz | brev | mov | li | lih | iaddi | tag
    | aadd | ashl | ashlImm | aand | amov | ali | aform =>
    exact vecWord_wf h
  | icmp | pset | fcmp =>
    exact vecPred_wf h
  | sel | pget =>
    exact vecLane_wf h
  | fadd | fsub | fmul | ffma | fmin | fmax | fminn | fmaxn | fabs | fneg | fclmp | frnd | ffrac | frcp | frsq
    | fsqrt | fex2 | flg2 | fsin | fcos =>
    exact vecFloat_wf h
  | icvtf | fcvti | unpk =>
    exact vecConv_wf h
  | hadd2 | hmul2 | hfma2 =>
    exact vecHalf_wf h
  | fdot4 | fdot8 =>
    exact vecDot_wf h
  | xshf | xrot | xbc | xstep =>
    exact shuffle_wf h
  | ldB | ldBs | ldH | ldHs | ldW | ldd | ldq | ldc | ldu | ldsB | ldsBs | ldsH | ldsHs | ldsW | ldsc =>
    exact loadRow_wf h
  | stB | stH | stW | std | stq | stc | stsB | stsH | stsW | stsc =>
    exact storeRow_wf h
  | amo | cas | amos | cass | sig | stl =>
    exact wordRow_wf h
  | wbr | invr =>
    exact rangeRow_wf h
  | mzero | mchb | mche | mma | macl | mdst | mstg | shp | cpy | cpym | qpop | qtry | tsub | tdep | emit | keyrel
    | cred | cbc | cag | crs =>
    exact slot3_wf h fun t ht => by simp [ht]
  | coreIssueCycle | spillComplete | fillComplete | loadPerformed | storePerformed | atomicPerformed
    | faultRecordWrite | blockBind | blockAdmission | copyStart | taskGrant | tdepDecrement | keyrelEffect
    | continuationWake | graphBlockBind | spireWindow | waitPacketComplete | quantumExpiry | ageingStep
    | watchdogFire | ctxpdlWrite | tlbinvnWrite | tlbinvWrite | fltrespRetry | fltrespFailUnmapped
    | fltrespFailPermission | govstepWrite | govdWrite | registerWrite | softErrorCorrected | uncorrectableError
    | coreLoss | mortarLaneFail | thermalStepUp | thermalStepDown | thermalResume | responseRetentionExpiry
    | scalarAccessPerformed | dispatcherResultWritten | rowSequencerIssue =>
    exact Result.memWf_next (by simp [h])
  | getVersion | getCapabilities | negotiateAlgorithms | getDigests | getCertificate | challenge | getMeasurements =>
    exact spdm_wf h
  | flitRead | flitWrite | flitAtomic | flitReduce | flitMessage =>
    exact flitEvent_wf h
  | brs => exact execBrs_wf h
  | exit => exact execExit_wf h
  | mfs => exact execMfs_wf h
  | pref => exact execPref_wf h
  | owng => exact execOwng_wf h
  | ownt => exact execOwnt_wf h
  | qcfg => exact execQcfg_wf h
  | qpush => exact execQpush_wf h
  | cont => exact execCont_wf h
  | qsub => exact execQsub_wf h
  | fairnessExpiry => exact execFairnessExpiry_wf h
  | resultLanding => exact execResultLanding_wf h
  | waitaWake => exact execWaitaWake_wf h
  | waitaPoll => exact execWaitaPoll_wf h
  | waitaTimeout => exact execWaitaTimeout_wf h
  | asyncTrapDelivery => exact execAsyncTrapDelivery_wf h
  | preemptDeadlineExpiry => exact execPreemptDeadlineExpiry_wf h
  | forcedSave => exact execForcedSave_wf h
  | courseResume => exact execCourseResume_wf h
  | mmaComplete => exact execMmaComplete_wf h
  | mzeroComplete => exact execMzeroComplete_wf h
  | mcheComplete => exact execMcheComplete_wf h
  | mdstComplete => exact execMdstComplete_wf h
  | maclLanding => exact execMaclLanding_wf h
  | copyComplete => exact execCopyComplete_wf h
  | stagingUnitArrival => exact execStagingUnitArrival_wf h
  | stagingUnitDrain => exact execStagingUnitDrain_wf h
  | collectiveStart => exact execCollectiveStart_wf h
  | collectiveComplete => exact execCollectiveComplete_wf h
  | streamStart => exact execStreamStart_wf h
  | portalWrite => exact execPortalWrite_wf h
  | queueCreate => exact execQueueCreate_wf h
  | queueDestroy => exact execQueueDestroy_wf h
  | bindRecordWrite => exact execBindRecordWrite_wf h
  | ktrepWrite => exact execKtrepWrite_wf h
  | tlbinvDone => exact execTlbinvDone_wf h
  | dieCacheWriteback => exact execDieCacheWriteback_wf h
  | hostBarAccess => exact execHostBarAccess_wf h
  | pcieCompletion => exact execPcieCompletion_wf h
  | pcieRequestTimeout => exact execPcieRequestTimeout_wf h
  | thermalStop => exact execThermalStop_wf h
  | powerOn => exact execPowerOn_wf h
  | svnFuseRaise => exact execSvnFuseRaise_wf h
  | contextCreate => exact execContextCreate_wf h
  | contextReset => exact execContextReset_wf h
  | flitResponse => exact execFlitResponse_wf h
  | flitReceive => exact execFlitReceive_wf h
  | flitReplayTimeout => exact execFlitReplayTimeout_wf h
  | linkTrainTimeout => exact execLinkTrainTimeout_wf h
  | fabricRequestTimeout => exact execFabricRequestTimeout_wf h
  | fixedFunctionRequestPerformed => exact execFixedFunctionRequestPerformed_wf h
  | linkTrained => exact execLinkTrained_wf h
  | unitFailure => exact execUnitFailure_wf h
  | transportUnreachableTimeout => exact execTransportUnreachableTimeout_wf h
  | powerLoss => exact execPowerLoss_wf

theorem andThen_wf {o : Result} {f : State → Result} (ho : Result.MemWf o)
    (hf : ∀ t : State, t.MemWf → Result.MemWf (f t)) : Result.MemWf (andThen o f) := by
  cases o with
  | next t => exact hf t (ho t rfl)
  | fault r => intro t e; cases e
  | refused r => intro t e; cases e

theorem runSlot_wf {s : State} (h : s.MemWf) {k : Nat} : Result.MemWf (runSlot k s) := by
  unfold runSlot
  dsimp only
  split
  · split
    · exact Result.memWf_next (State.poolFails_wf h)
    · exact exec_wf h _
  · exact Result.memWf_next h

theorem runSlots_wf {s : State} (h : s.MemWf) {l : List Nat} : Result.MemWf (runSlots l s) := by
  induction l generalizing s with
  | nil => exact Result.memWf_next h
  | cons k l ih => exact andThen_wf (runSlot_wf h) fun _ ht => ih ht

theorem runAll_wf {s : State} (h : s.MemWf) {n : Nat} : Result.MemWf (runAll n s) := by
  induction n generalizing s with
  | zero => exact Result.memWf_next h
  | succ n ih =>
    rw [runAll]
    split
    · exact andThen_wf (runSlots_wf h) fun _ ht => ih (State.close_wf ht)
    split
    · exact ih (State.nextCourse_wf h)
    · exact Result.memWf_next (State.nextCourse_wf h)

/-- A step is one instruction or event, the bundles of the courses that run on, and a tick. -/
theorem step_wf {s : State} (h : s.MemWf) : Result.MemWf (step s) := by
  have hp : s.pick.2.MemWf := h.of_mem (State.pick_mem s)
  refine andThen_wf (exec_wf hp _) fun t ht => andThen_wf (runAll_wf ht) fun u hu => ?_
  exact Result.memWf_next (hu.of_mem (State.tick_mem u))

/-- Settles O8: `step_wf` says it of every outcome that goes on, through every instruction, event and slot. -/
theorem stepKeepsMemoryForm : Obligations.StepKeepsMemoryForm :=
  fun _ t h e => step_wf h t e

/-- Settles O41: a write is a run of single bytes, each read back, and each leaving every other byte as it was. -/
theorem writeChangesItsBytesOnly : Obligations.WriteChangesItsBytesOnly :=
  fun _ pa b l h => State.cellGet_writePa pa b l h

end Sys2Proof.Machine

/-!
# Courses and lanes

Selection, the release of rejoin masks, retirement, return from a trap, writes of special registers, and the rows that
do nothing (R10 to R25, R103, R104, R117, R141 to R149, R213 to R218, R258, R271). The release of rejoin masks is said
once, by `Course.releaseJoins_spec`; JARM, JWAIT, EXIT and ERET all end in it.
-/

namespace Sys2Proof.Machine

/-! ### Selection (R10, R15, R116, R117) -/

/-- Bytes that decode to no bundle, or to one that is illegal for the course, raise ILL (R116, R117). -/
theorem State.selectAt_ill {s : State} {c : Nat} {pc : Word} {m : Mask} {complete : Bool} {bs : List Byte} {k w : Nat}
    (hf : (s.fetchBytes c pc).1 = some bs)
    (hi : ((s.fetchBytes c pc).2.course c).ill (wordsOf bs) (decodeBytes bs) = some (k, w)) :
    s.selectAt c pc m complete = (s.fetchBytes c pc).2.takeTrap c
      { code := illCode, tsa := .ofNat 64 k, tsb := .ofNat 64 w, tlpc := pc, tlanes := m } false := by
  simp only [State.selectAt, hf, hi, State.selTrap]

/-- A legal bundle in which no member waits, or whose members have all come, is put in issue and judged (R15, R28). -/
theorem State.selectAt_latch {s : State} {c : Nat} {pc : Word} {m : Mask} {complete : Bool} {bs : List Byte} {b : Bundle}
    (hf : (s.fetchBytes c pc).1 = some bs) (hd : decodeBytes bs = .ok b)
    (hi : ((s.fetchBytes c pc).2.course c).ill (wordsOf bs) (.ok b) = none) (hc : bConv b = false ∨ complete = true) :
    s.selectAt c pc m complete = ((s.fetchBytes c pc).2.latch c pc b m true).judge := by
  have hn : (bConv b && !complete) = false := by rcases hc with h | h <;> simp [h]
  simp [State.selectAt, hf, hd, hi, hn]

/-- Settles O5: bytes that decode to no bundle are illegal with the decoder's slot and word, and a legal bundle is put in
issue. -/
theorem selectionDecodesWhatItFetches : Obligations.SelectionDecodesWhatItFetches := by
  intro s c pc m complete bs hf
  refine ⟨fun e he => State.selectAt_ill hf ?_, fun b hd hi hc => State.selectAt_latch hf hd hi hc⟩
  rw [he, Course.ill]

/-! ### Writes of special registers (R18, R21, R43, R45, R149, R216 to R218) -/

theorem exec_mts_next {s : State} (h : Issuing s) (a : SReg) (i : BitVec 9) :
    exec (.mts a i) s = .next (s.onCourse s.iss.course fun x => x.setSpecial s.iss.exec i.toNat (s.sIn a)) := by
  rw [exec_mts, execMts, gated_next h]

/-- A write of MODE: clearing PPR resets the selector but for LIM (R21). -/
theorem Course.setMode_fairt (x : Course) (v : DWord) : (x.setMode v).fairt =
    if x.mode.getLsbD 5 = true ∧ v.getLsbD 5 = false then fairOf (fairLim x.fairt) 0 false 0 else x.fairt := by
  simp [Course.setMode, Course.ppr, fairReset, modeMask]

/-- A write of FAIRT stores LIM = 0 as 1 (R18). -/
theorem fairWrite_eq (v : DWord) : fairWrite v =
    fairOf (max 1 (fld v 0 16)) (fld v 16 16) (v.getLsbD 32) (.ofNat 32 (fld v 36 28 * 16)) := by
  have hm : (if fairLim v = 0 then 1 else fairLim v) = max 1 (fld v 0 16) := by
    unfold fairLim; split <;> omega
  rw [fairWrite, hm]; rfl

/-- Settles O20: one equation of `Course.setSpecial` for each register that may be written. -/
theorem specialWrites : Obligations.SpecialWrites := by
  intro s x a i v hi hr hv
  obtain ⟨hx, -⟩ := hr
  obtain ⟨hf, hy⟩ := State.onCourse_spec hx fun y => y.setSpecial s.iss.exec i.toNat (s.sIn a)
  have hs : s.sIn a = v := hv
  rw [hs] at hf hy
  refine ⟨_, _, by rw [exec_mts_next hi, hs], hf, hy, ?pw, ?lc, ?mode, ?fairt, ?flags, ?tvec, ?tcause, ?tlpc, ?tlanes,
    ?twait, ?tsa, ?tsb, ?spills⟩ <;> rintro rfl
  case mode => exact ⟨rfl, x.setMode_fairt v⟩
  case fairt => exact congrArg (fun f => { x with fairt := f }) (fairWrite_eq v)
  all_goals rfl

/-! ### Rejoin masks (R24, R25) -/

/-- A mask that is not 0 has its lowest lane. -/
theorem Mask.has_first {m : Mask} (h : m ≠ 0) : Mask.has m (Mask.first m) = true := by
  have hne : Mask.toList m ≠ [] := by
    intro he
    refine h ((Mask.eq_zero_iff m).2 fun j => ?_)
    by_cases hj : j < 64
    · simpa using List.filter_eq_nil_iff.1 he j (List.mem_range.2 hj)
    · exact BitVec.getLsbD_of_ge m j (by omega)
  have hmem : Mask.first m ∈ Mask.toList m := by
    rw [Mask.first, List.headD_eq_head?_getD, List.head?_eq_some_head hne]
    exact List.head_mem hne
  exact (List.mem_filter.1 hmem).2

/-- A rejoin mask is complete (R25): it is not empty, and all of its lanes wait at one JWAIT of it. -/
def Course.JoinComplete (x : Course) (j : Nat) : Prop :=
  x.js.getD j 0 ≠ 0 ∧ ∀ i, Mask.has (x.js.getD j 0) i = true →
    i < x.w ∧ (x.lane i).st = .join ∧ (x.lane i).wake = .join j ∧
      (x.lane i).lpc = (x.lane (Mask.first (x.js.getD j 0))).lpc

/-- A lane that its complete rejoin mask lets go: READY behind its JWAIT (R25). -/
def Lane.rejoined (l : Lane) : Lane := { l with lpc := l.lpc + 16, st := .ready, wake := .none }

/-- The course with one rejoin mask emptied and its lanes let go (R25). -/
def Course.rejoin (x : Course) (j : Nat) : Course :=
  { x.onLanes (x.js.getD j 0) fun _ l => l.rejoined with js := setAt j 0 x.js }

/-- The lanes that wait at one JWAIT of a mask. -/
theorem Course.has_joinAt (x : Course) (j : Nat) (a : Word) (i : Nat) : Mask.has (x.joinAt j a) i = true ↔
    i < x.w ∧ (x.lane i).st = .join ∧ (x.lane i).wake = .join j ∧ (x.lane i).lpc = a := by
  simp [Course.joinAt, Course.has_maskOf, and_assoc]

/-- The test that `Course.releaseJoins` makes of each mask. -/
theorem Course.joinComplete_iff (x : Course) (j : Nat) : x.JoinComplete j ↔
    (decide (x.js.getD j 0 ≠ 0) &&
      decide ((x.js.getD j 0 &&& ~~~(x.joinAt j (x.lane (Mask.first (x.js.getD j 0))).lpc)) = 0)) = true := by
  simp only [Course.JoinComplete, Bool.and_eq_true, decide_eq_true_eq, Mask.diff_zero_iff, Course.has_joinAt]

/-- One step of `Course.releaseJoins` (`Course.releaseJoins_eq`). -/
def Course.releaseJoin (x : Course) (j : Nat) : Course :=
  if x.js.getD j 0 ≠ 0 && (x.js.getD j 0 &&& ~~~(x.joinAt j (x.lane (Mask.first (x.js.getD j 0))).lpc)) = 0 then x.rejoin j
  else x

theorem Course.releaseJoins_eq (x : Course) : x.releaseJoins = (List.range 8).foldl Course.releaseJoin x := rfl

theorem Course.releaseJoin_of_complete {x : Course} {j : Nat} (h : x.JoinComplete j) : x.releaseJoin j = x.rejoin j :=
  if_pos ((x.joinComplete_iff j).1 h)

theorem Course.releaseJoin_of_not {x : Course} {j : Nat} (h : ¬ x.JoinComplete j) : x.releaseJoin j = x :=
  if_neg fun e => h ((x.joinComplete_iff j).2 e)

theorem Course.JoinComplete.st {x : Course} {j i : Nat} (h : x.JoinComplete j) (hi : Mask.has (x.js.getD j 0) i = true) :
    (x.lane i).st = .join := by
  obtain ⟨-, hst, -⟩ := h.2 i hi
  exact hst

theorem Course.JoinComplete.wake {x : Course} {j i : Nat} (h : x.JoinComplete j)
    (hi : Mask.has (x.js.getD j 0) i = true) : (x.lane i).wake = .join j := by
  obtain ⟨-, -, hw, -⟩ := h.2 i hi
  exact hw

/-- A complete mask stands among the masks of the course. -/
theorem Course.JoinComplete.lt {x : Course} {j : Nat} (h : x.JoinComplete j) : j < x.js.length := by
  refine Nat.lt_of_not_le fun hj => h.1 ?_
  rw [List.getD_eq_getElem?_getD, List.getElem?_eq_none hj]
  rfl

/-- The lanes of a complete mask are lanes that the course holds: they wait. -/
theorem Course.JoinComplete.lane_lt {x : Course} {j i : Nat} (h : x.JoinComplete j)
    (hi : Mask.has (x.js.getD j 0) i = true) : i < x.lanes.length := by
  refine Nat.lt_of_not_le fun hl => ?_
  have hst := h.st hi
  rw [x.lane_out hl] at hst
  exact absurd hst (by decide)

theorem Course.JoinComplete.rejoin_js_self {x : Course} {j : Nat} (h : x.JoinComplete j) : (x.rejoin j).js.getD j 0 = 0 :=
  getD_setAt_self h.lt 0 0

theorem Course.rejoin_js_ne (x : Course) {j k : Nat} (h : k ≠ j) : (x.rejoin j).js.getD k 0 = x.js.getD k 0 :=
  getD_setAt_ne h 0 x.js 0

theorem Course.JoinComplete.rejoin_lane {x : Course} {j i : Nat} (h : x.JoinComplete j)
    (hi : Mask.has (x.js.getD j 0) i = true) : (x.rejoin j).lane i = (x.lane i).rejoined :=
  (x.onLanes_lane (x.js.getD j 0) (fun _ l => l.rejoined) (h.lane_lt hi)).trans (if_pos hi)

theorem Course.rejoin_lane_out (x : Course) {j i : Nat} (hi : Mask.has (x.js.getD j 0) i = false) :
    (x.rejoin j).lane i = x.lane i := by
  rcases Nat.lt_or_ge i x.lanes.length with hl | hl
  · exact (x.onLanes_lane _ (fun _ l => l.rejoined) hl).trans (if_neg (by rw [hi]; decide))
  · exact (x.onLanes_lane_out (x.js.getD j 0) (fun _ l => l.rejoined) hl).trans (x.lane_out hl).symm

/-- No lane waits for two masks. -/
theorem Course.JoinComplete.apart {x : Course} {j k i : Nat} (h : x.JoinComplete j) (g : x.JoinComplete k) (hk : k ≠ j)
    (hi : Mask.has (x.js.getD k 0) i = true) : Mask.has (x.js.getD j 0) i = false := by
  refine eq_false_of_ne_true fun hn => ?_
  have hw : Wake.join j = .join k := (h.wake hn).symm.trans (g.wake hi)
  exact hk (Wake.join.inj hw).symm

/-- Rejoin masks whose lanes read the same are complete together. -/
theorem Course.JoinComplete.congr {x y : Course} {k : Nat} (hw : y.w = x.w) (hj : y.js.getD k 0 = x.js.getD k 0)
    (hl : ∀ i, Mask.has (x.js.getD k 0) i = true → y.lane i = x.lane i) (h : x.JoinComplete k) : y.JoinComplete k := by
  obtain ⟨h0, ha⟩ := h
  refine ⟨by rwa [hj], fun i hi => ?_⟩
  rw [hj] at hi ⊢
  rw [hw, hl i hi, hl _ (Mask.has_first h0)]
  exact ha i hi

/-- A complete mask that is let go leaves every other mask as complete as it was. -/
theorem Course.JoinComplete.rejoin_iff {x : Course} {j k : Nat} (h : x.JoinComplete j) (hk : k ≠ j) :
    (x.rejoin j).JoinComplete k ↔ x.JoinComplete k := by
  have hjs := x.rejoin_js_ne hk
  constructor
  · intro hc
    refine Course.JoinComplete.congr (x := x.rejoin j) (y := x) rfl hjs.symm (fun i hi => ?_) hc
    refine (x.rejoin_lane_out (eq_false_of_ne_true fun hn => ?_)).symm
    have hst := hc.st hi
    rw [h.rejoin_lane hn] at hst
    exact LSt.noConfusion hst
  · intro hc
    exact Course.JoinComplete.congr (x := x) (y := x.rejoin j) rfl hjs
      (fun i hi => x.rejoin_lane_out (h.apart hc hk hi)) hc

/-- What the release of the complete masks among some masks does (R25): each of them is emptied and its lanes are let go, and
every other mask and lane stays. -/
structure JoinsReleased (l : List Nat) (x y : Course) : Prop where
  only : y = { x with lanes := y.lanes, js := y.js }
  js_complete : ∀ j ∈ l, x.JoinComplete j → y.js.getD j 0 = 0
  js_other : ∀ j, (j ∈ l → ¬ x.JoinComplete j) → y.js.getD j 0 = x.js.getD j 0
  lane_complete : ∀ j ∈ l, x.JoinComplete j → ∀ i, Mask.has (x.js.getD j 0) i = true → y.lane i = (x.lane i).rejoined
  lane_other : ∀ i, (∀ j ∈ l, x.JoinComplete j → Mask.has (x.js.getD j 0) i = false) → y.lane i = x.lane i

theorem JoinsReleased.cons_other {l : List Nat} {x y : Course} {j : Nat} (hc : ¬ x.JoinComplete j)
    (r : JoinsReleased l x y) : JoinsReleased (j :: l) x y := by
  have mem : ∀ {k}, k ∈ j :: l → x.JoinComplete k → k ∈ l := fun hk hck =>
    (List.mem_cons.1 hk).resolve_left fun e => hc (e ▸ hck)
  exact ⟨r.only, fun k hk hck => r.js_complete k (mem hk hck) hck,
    fun k hk => r.js_other k fun h => hk (List.mem_cons_of_mem _ h),
    fun k hk hck => r.lane_complete k (mem hk hck) hck,
    fun i hi => r.lane_other i fun k hk => hi k (List.mem_cons_of_mem _ hk)⟩

theorem JoinsReleased.cons_complete {l : List Nat} {x y : Course} {j : Nat} (hc : x.JoinComplete j) (hj : j ∉ l)
    (r : JoinsReleased l (x.rejoin j) y) : JoinsReleased (j :: l) x y := by
  have ne : ∀ {k}, k ∈ l → k ≠ j := fun hk e => hj (e ▸ hk)
  refine ⟨by rw [r.only]; rfl, ?_, ?_, ?_, ?_⟩
  · intro k hk hck
    rcases List.mem_cons.1 hk with rfl | hk
    · rw [r.js_other k fun h => absurd h hj, hc.rejoin_js_self]
    · exact r.js_complete k hk ((hc.rejoin_iff (ne hk)).2 hck)
  · intro k hk
    have hkj : k ≠ j := fun e => hk (e ▸ List.mem_cons_self) (e ▸ hc)
    rw [r.js_other k fun h hck => hk (List.mem_cons_of_mem _ h) ((hc.rejoin_iff hkj).1 hck), x.rejoin_js_ne hkj]
  · intro k hk hck i hi
    rcases List.mem_cons.1 hk with rfl | hk
    · rw [r.lane_other i fun q hq hcq => ?_, hc.rejoin_lane hi]
      rw [x.rejoin_js_ne (ne hq)]
      exact ((hc.rejoin_iff (ne hq)).1 hcq).apart hc (ne hq).symm hi
    · rw [r.lane_complete k hk ((hc.rejoin_iff (ne hk)).2 hck) i (by rwa [x.rejoin_js_ne (ne hk)]),
        x.rejoin_lane_out (hc.apart hck (ne hk) hi)]
  · intro i hi
    rw [r.lane_other i fun k hk hck => ?_, x.rejoin_lane_out (hi j List.mem_cons_self hc)]
    rw [x.rejoin_js_ne (ne hk)]
    exact hi k (List.mem_cons_of_mem _ hk) ((hc.rejoin_iff (ne hk)).1 hck)

theorem Course.foldl_releaseJoin {l : List Nat} (hl : l.Nodup) (x : Course) :
    JoinsReleased l x (l.foldl Course.releaseJoin x) := by
  induction l generalizing x with
  | nil => exact ⟨rfl, by simp, fun _ _ => rfl, by simp, fun _ _ => rfl⟩
  | cons j l ih =>
    obtain ⟨hj, hl⟩ := List.nodup_cons.1 hl
    rw [List.foldl_cons]
    by_cases hc : x.JoinComplete j
    · rw [Course.releaseJoin_of_complete hc]
      exact (ih hl (x.rejoin j)).cons_complete hc hj
    · rw [Course.releaseJoin_of_not hc]
      exact (ih hl x).cons_other hc

/-- What `Course.releaseJoins` does (R25). -/
theorem Course.releaseJoins_spec (x : Course) : JoinsReleased (List.range 8) x x.releaseJoins := by
  rw [Course.releaseJoins_eq]
  exact Course.foldl_releaseJoin List.nodup_range x

/-- A lane that a rejoin mask lets go has waited at a join; every other lane stays (R25). -/
theorem Course.releaseJoins_lane (x : Course) (i : Nat) : x.releaseJoins.lane i = x.lane i ∨
    (x.lane i).st = .join ∧ x.releaseJoins.lane i = (x.lane i).rejoined := by
  by_cases h : ∃ j ∈ List.range 8, x.JoinComplete j ∧ Mask.has (x.js.getD j 0) i = true
  · obtain ⟨j, hj, hc, hi⟩ := h
    exact .inr ⟨hc.st hi, x.releaseJoins_spec.lane_complete j hj hc i hi⟩
  · exact .inl (x.releaseJoins_spec.lane_other i fun j hj hc => eq_false_of_ne_true fun hi => h ⟨j, hj, hc, hi⟩)

/-- A rejoin mask is emptied or stays (R25). -/
theorem Course.releaseJoins_js (x : Course) (j : Nat) :
    x.releaseJoins.js.getD j 0 = 0 ∨ x.releaseJoins.js.getD j 0 = x.js.getD j 0 := by
  by_cases h : j ∈ List.range 8 ∧ x.JoinComplete j
  · exact .inl (x.releaseJoins_spec.js_complete j h.1 h.2)
  · exact .inr (x.releaseJoins_spec.js_other j fun hj hc => h ⟨hj, hc⟩)

theorem exec_jarm_next {s : State} (h : Issuing s) (j : BitVec 3) :
    exec (.jarm j) s = .next (s.onCourse s.iss.course fun x =>
      ({ x with js := modAt j.toNat (fun m => m ||| s.iss.exec) x.js } : Course).releaseJoins) := by
  rw [exec_jarm, execJarm, gated_next h]

theorem exec_jwait_next {s : State} (h : Issuing s) (j : BitVec 3) :
    exec (.jwait j) s = .next (s.onCourse s.iss.course fun x => (x.onLanes (s.iss.exec &&& x.js.getD j.toNat 0) fun _ l =>
      { l with lpc := s.iss.pc, st := .join, wake := .join j.toNat }).releaseJoins) := by
  rw [exec_jwait, execJwait, gated_next h]

/-- Settles O13: JARM and JWAIT update the course and release its joins, which `Course.releaseJoins_spec` describes. -/
theorem joinBarriers : Obligations.JoinBarriers := by
  refine ⟨fun s x j hi ⟨hx, _⟩ => ⟨⟨_, exec_jarm_next hi j, State.onCourse_spec hx _⟩,
    ⟨_, exec_jwait_next hi j, State.onCourse_spec hx _⟩⟩, fun x _ _ => ?_⟩
  have r := x.releaseJoins_spec
  have mem : ∀ {j}, j < 8 → j ∈ List.range 8 := List.mem_range.2
  exact ⟨r.only, fun j hj hc => ⟨r.js_complete j (mem hj) hc, r.lane_complete j (mem hj) hc⟩,
    fun j _ hc => r.js_other j fun _ => hc, fun i _ hi => r.lane_other i fun j hj => hi j (List.mem_range.1 hj)⟩

/-! ### Retirement (R13, R141) -/

/-- A lane that has retired (R13). -/
def Lane.retired (l : Lane) : Lane := { l with st := .retired, wake := .none, wa := none }

/-- The course with lanes of a mask retired: they leave every rejoin mask (R13). -/
def Course.retireLanes (x : Course) (m : Mask) : Course :=
  { x.onLanes m fun _ l => l.retired with js := x.js.map fun j => j &&& ~~~m }

theorem Course.retireLanes_lane (x : Course) (m : Mask) {i : Nat} (h : i < x.lanes.length) :
    (x.retireLanes m).lane i = if Mask.has m i then (x.lane i).retired else x.lane i :=
  x.onLanes_lane m (fun _ l => l.retired) h

theorem Course.retireLanes_js (x : Course) (m : Mask) (j : Nat) :
    (x.retireLanes m).js.getD j 0 = x.js.getD j 0 &&& ~~~m := by
  simp only [Course.retireLanes, List.getD_eq_getElem?_getD, List.getElem?_map]
  cases x.js[j]? <;> simp

/-- The lanes that retire are live no more, every other live lane stays so. -/
theorem Course.retireLanes_live {x : Course} (hl : x.lanes.length = x.w) (m : Mask) :
    (x.retireLanes m).live = x.live &&& ~~~m := by
  refine BitVec.eq_of_getLsbD_eq fun i hi => ?_
  show Mask.has _ i = Mask.has _ i
  have hw : (x.retireLanes m).w = x.w := rfl
  have hn : Mask.has (~~~m) i = !Mask.has m i := by simp [Mask.has, hi]
  rw [Mask.has_and, hn, Course.live, Course.live, Course.has_maskOf, Course.has_maskOf, hw]
  by_cases hx : i < x.w
  · rw [x.retireLanes_lane m (hl ▸ hx)]
    cases Mask.has m i <;> simp [Lane.retired]
  · simp [hx]

theorem OnlyVectors.live {x y : Course} (h : OnlyVectors x y) : y.live = x.live := by rw [h]; rfl

/-- The releases of every register of the renamed file in some lanes. -/
theorem State.releaseEvery_keeps (s : State) (c : Nat) (m : Mask) (l : List Nat) :
    KeepsWrites c s (l.foldl (fun t v => t.releaseV c v m) s) :=
  KeepsWrites.foldl _ (fun t v => t.releaseAt_keeps c v m t.uid) l s

/-- What retirement does while another lane is left (R13): no memory changes, and the course with its lanes retired and
their registers released has its complete rejoin masks let go. -/
theorem State.retire_spec {s : State} {c : Nat} {x : Course} (hx : s.course? c = some x) (hl : x.lanes.length = x.w)
    {m : Mask} (hm : (x.live &&& ~~~m) ≠ 0) :
    (s.retire c m).mem = s.mem ∧
      ∃ z, (s.retire c m).course? c = some z.releaseJoins ∧ OnlyVectors (x.retireLanes m) z ∧ z.o = x.o := by
  have h1 := State.course?_onCourse_self hx fun y => y.retireLanes m
  have k := (s.onCourse c fun y => y.retireLanes m).releaseEvery_keeps c m (List.range 64)
  obtain ⟨z, hz, hv, ho, -⟩ := k.2.2 _ h1
  have hlive : z.live ≠ 0 := by rwa [hv.live, Course.retireLanes_live hl]
  have e : s.retire c m = (((List.range 64).foldl (fun t v => t.releaseV c v m)
      (s.onCourse c fun y => y.retireLanes m)).onCourse c Course.releaseJoins).progress z.info.die z.info.ctx := by
    rw [← State.course_of_some hz] at hlive ⊢
    exact if_neg hlive
  rw [e]
  refine ⟨?_, z, State.course?_onCourse_self hz _, hv, ho⟩
  rw [State.progress_mem, State.onCourse_frame]
  exact k.1.mem.trans (OnlyCourse.of_onCourse s c _).mem

theorem exec_exit_next {s : State} (h : Issuing s) (hrow : s.iss.src.info.row = none) :
    exec .exit s = .next (s.retire s.iss.course s.iss.exec) := by
  rw [exec_exit, execExit, gated_next h]
  simp [hrow]

/-- Lanes that a rejoin mask lets go have not retired, and do not retire (R25). -/
theorem Course.releaseJoins_retired (x : Course) (i : Nat) :
    (x.releaseJoins.lane i).st = .retired ↔ (x.lane i).st = .retired := by
  rcases x.releaseJoins_lane i with h | ⟨hst, h⟩
  · rw [h]
  · simp [h, hst, Lane.rejoined]

/-- Settles O14: EXIT retires the executing lanes (`State.retire_spec`), and no release of a join brings one back. -/
theorem exitRetires : Obligations.ExitRetires := by
  intro s x hi hr hrow
  obtain ⟨hx, -, hl, -⟩ := hr
  refine ⟨exec_exit_next hi hrow, fun hm => ?_⟩
  obtain ⟨hmem, z, hz, hv, ho⟩ := State.retire_spec hx hl hm
  have hlane : ∀ i, z.lane i = (x.retireLanes s.iss.exec).lane i := fun i => by rw [hv]; rfl
  have hjs : z.js = (x.retireLanes s.iss.exec).js := by rw [hv]
  have only := z.releaseJoins_spec.only
  refine ⟨fun a => by rw [hmem], _, hz, ?_, ?_, ?_, fun i hw he => ?_, fun i hw he => ?_, fun j => ?_⟩
  · rw [only, hv]; rfl
  · rw [only, hv]; rfl
  · rw [only]; exact ho
  · rw [Course.releaseJoins_retired, hlane, x.retireLanes_lane _ (hl ▸ hw), if_pos he]; rfl
  · rw [Course.releaseJoins_retired, hlane, x.retireLanes_lane _ (hl ▸ hw), if_neg (by simp [he])]
  · rcases z.releaseJoins_js j with h | h
    · rw [h]; exact BitVec.zero_and
    · rw [h, hjs, x.retireLanes_js, BitVec.and_assoc, BitVec.and_comm (~~~_)]
      simp

/-! ### Return from a trap (R144, R213) -/

theorem exec_eret_next {s : State} (h : Issuing s) : exec .eret s = .next
    (((if s.iss.src.info.row.isSome then s.together s.iss.course else [s.iss.course]).foldl
      (fun u c => u.onCourse c Course.eret)
      (s.finishIssue.rowUnpark (if s.iss.src.info.row.isSome then s.together s.iss.course else [s.iss.course])
        (.ofNat 32 (fld s.iss.src.trap.tlpc 4 28 * 16)))).checkState s.iss.course) := by
  rw [exec_eret, execEret, gated_next h]

/-- With no bundle held back in a row, none stands again. -/
theorem State.rowUnpark_of_nil {s : State} (h : s.rowbuf = []) (cs : List Nat) (a : Word) : s.rowUnpark cs a = s := by
  cases s
  subst h
  rfl

/-- A lane as ERET gives it back, joins apart (R213). -/
def Course.frameLane (x : Course) (f : Frame) (i : Nat) (l : Lane) : Lane :=
  if l.st == .retired then l
  else if Mask.has x.trap.tlanes i then
    { l with lpc := .ofNat 32 (fld x.trap.tlpc 4 28 * 16), st := .ready, wake := .none, wa := none }
  else match f.lanes.getD i (.ready, 0, .none) with
    | (.conv, a, .conv true) =>
      if Mask.has (x.s 31) i then { l with lpc := a, st := .conv, wake := .conv true, wa := none }
      else { l with lpc := a, st := .ready, wake := .none, wa := none }
    | (.retired, _, _) => l
    | (st, a, k) => { l with lpc := a, st := st, wake := k, wa := none }

/-- The course as ERET gives it back, joins apart (R213). -/
def Course.unframed (x : Course) (f : Frame) : Course :=
  let y : Course := { x with lanes := x.lanes.zipIdx.map fun p => x.frameLane f p.2 p.1 }
  { y with js := f.js.map fun j => j &&& y.live, fairt := f.fairt, frame := none, convs := y.convsNow,
           l := List.replicate 4 VReg.zero, trap := { y.trap with tcause := y.trap.tcause &&& ~~~0x20000#64 } }

theorem Course.eret_of_frame {x : Course} {f : Frame} (h : x.frame = some f) : x.eret = (x.unframed f).releaseJoins := by
  rw [Course.eret, h]; rfl

theorem Course.unframed_lane (x : Course) (f : Frame) {i : Nat} (h : i < x.lanes.length) :
    (x.unframed f).lane i = x.frameLane f i (x.lane i) := by
  simp [Course.lane, Course.unframed, List.getD_eq_getElem?_getD, h]

section frameLane
variable {x : Course} {f : Frame} {i : Nat} {l : Lane}

theorem Course.frameLane_retired (h : l.st = .retired) : x.frameLane f i l = l := by simp [Course.frameLane, h]

theorem Course.frameLane_tlanes (h : l.st ≠ .retired) (ht : Mask.has x.trap.tlanes i = true) :
    x.frameLane f i l =
      { l with lpc := .ofNat 32 (fld x.trap.tlpc 4 28 * 16), st := .ready, wake := .none, wa := none } := by
  simp [Course.frameLane, h, ht]

/-- A lane that the frame records at a bundle, or READY, goes back to what the frame says, unless S31 has a say. -/
theorem Course.frameLane_frame (h : l.st ≠ .retired) (ht : Mask.has x.trap.tlanes i = false) {st : LSt} {a : Word} {k : Wake}
    (hf : f.lanes[i]? = some (st, a, k)) (hst : st ≠ .retired) (hk : st = .conv → k ≠ .conv true) :
    x.frameLane f i l = { l with lpc := a, st := st, wake := k, wa := none } := by
  have hg : f.lanes.getD i (.ready, 0, .none) = (st, a, k) := by rw [List.getD_eq_getElem?_getD, hf]; rfl
  simp only [Course.frameLane, beq_iff_eq, h, if_false, ht, Bool.false_eq_true, hg]

/-- A lane recorded at a bundle with an explicit mask waits there when S31 names it (R213). -/
theorem Course.frameLane_explicit (h : l.st ≠ .retired) (ht : Mask.has x.trap.tlanes i = false) {a : Word}
    (hf : f.lanes[i]? = some (.conv, a, .conv true)) : x.frameLane f i l =
      if Mask.has (x.s 31) i then { l with lpc := a, st := .conv, wake := .conv true, wa := none }
      else { l with lpc := a, st := .ready, wake := .none, wa := none } := by
  have hg : f.lanes.getD i (.ready, 0, .none) = (.conv, a, .conv true) := by rw [List.getD_eq_getElem?_getD, hf]; rfl
  simp only [Course.frameLane, beq_iff_eq, h, if_false, ht, Bool.false_eq_true, hg]

end frameLane

/-- A lane that ERET does not give back to a JWAIT is not let go from one. -/
theorem Course.eret_lane {x : Course} {f : Frame} (h : x.frame = some f) {i : Nat} (hi : i < x.lanes.length) :
    x.eret.lane i = x.frameLane f i (x.lane i) ∨
      (x.frameLane f i (x.lane i)).st = .join ∧ x.eret.lane i = (x.frameLane f i (x.lane i)).rejoined := by
  rw [Course.eret_of_frame h, ← x.unframed_lane f hi]
  exact (x.unframed f).releaseJoins_lane i

/-- One that ERET does not give back to a JWAIT stays as ERET gives it back. -/
theorem Course.eret_lane_of_ne {x : Course} {f : Frame} (h : x.frame = some f) {i : Nat} (hi : i < x.lanes.length) {l : Lane}
    (hl : x.frameLane f i (x.lane i) = l) (hst : l.st ≠ .join) : x.eret.lane i = l := by
  subst hl
  exact (Course.eret_lane h hi).resolve_right fun e => hst e.1

theorem Course.eret_only {x : Course} {f : Frame} (h : x.frame = some f) :
    x.eret = { x.unframed f with lanes := x.eret.lanes, js := x.eret.js } := by
  rw [Course.eret_of_frame h]; exact (x.unframed f).releaseJoins_spec.only

/-- ERET ends handler state (R217). -/
theorem Course.eret_hnd {x : Course} {f : Frame} (h : x.frame = some f) : x.eret.hnd = false := by
  rw [Course.hnd, congrArg Course.trap (Course.eret_only h)]
  show (x.trap.tcause &&& ~~~0x20000#64).getLsbD 17 = false
  simp

/-- Settles O17: a lane comes back as `Course.frameLane` says, and is let go only from a JWAIT. -/
theorem trapReturn : Obligations.TrapReturn := by
  refine ⟨fun s hi => exec_eret_next hi, fun s cs a h => State.rowUnpark_of_nil h cs a, fun x f hf hl _ => ?_⟩
  have only := Course.eret_only hf
  refine ⟨Course.eret_hnd hf, (congrArg Course.trap only :), (congrArg Course.fairt only :), (congrArg Course.frame only :),
    (congrArg Course.l only :), (congrArg Course.v only :), (congrArg Course.o only :), (congrArg Course.sr only :),
    (congrArg Course.mode only :), (congrArg Course.flags only :), fun i hw => ?_⟩
  have hi : i < x.lanes.length := hl ▸ hw
  refine ⟨fun hr => ?_, fun hr ht => ?_, fun hr ht a k => ⟨fun hk => ?_, fun hk => ?_, fun hk => ?_, fun hk => ?_⟩⟩
  · exact Course.eret_lane_of_ne hf hi (Course.frameLane_retired hr) (by rw [hr]; decide)
  · exact Course.eret_lane_of_ne hf hi (Course.frameLane_tlanes hr ht) nofun
  · exact Course.eret_lane_of_ne hf hi (Course.frameLane_frame hr ht hk nofun nofun) nofun
  · exact Course.eret_lane_of_ne hf hi (Course.frameLane_frame hr ht hk nofun fun _ => by decide) nofun
  · refine Course.eret_lane_of_ne hf hi (Course.frameLane_explicit hr ht hk) ?_
    split <;> nofun
  · have hb := Course.frameLane_frame hr ht hk nofun nofun
    rcases Course.eret_lane hf hi with h | ⟨-, h⟩
    · exact .inl (h.trans hb)
    · exact .inr (h.trans (congrArg Lane.rejoined hb))

/-! ### Rows that do nothing (R19, R22, R103, R104, R147, R258, R271) -/

theorem exec_waits_next {s : State} (h : Issuing s) :
    exec .nop s = .next s ∧ exec .yld s = .next s ∧ ∀ n t, exec (.waitc n t) s = .next s := by
  refine ⟨?_, ?_, fun n t => ?_⟩
  · rw [exec_nop, execNop, gated_next h]
  · rw [exec_yld, execYld, gated_next h]
  · rw [exec_waitc, execWaitc, gated_next h]

/-! #### YLD (R19, R22) -/

/-- A YLD that has met a READY lane at another address takes the expiry step (R19, R22). -/
theorem Course.fair_yield {x src : Course} {a : Word} {exec : Mask} (he : exec ≠ 0) (hrow : x.info.row = none)
    (hx : x.ppr = true) (hs : src.ppr = true) (ho : (src.maskOf fun l => l.st == .ready && l.lpc != a) ≠ 0) :
    x.fair src a exec true = { x with fairt := expireFair x.fairt src a } := by
  unfold Course.fair
  rw [if_neg (by simp [hrow, hx, hs])]
  exact if_pos (by rw [bne_iff_ne.2 he, bne_iff_ne.2 ho]; rfl)

/-- What follows the bundle of a course that runs by itself, and goes on (R19, R32, R41). -/
theorem State.finishIssue_course? {s : State} {x : Course} (hx : s.course? s.iss.course = some x)
    (hl : s.iss.lone = false) (hn : s.iss.late = none) (hp : x.pres ≠ .ended) :
    s.finishIssue.course? s.iss.course = some
      (({ x.shiftL s.iss.r1 s.iss.r2 with qin := if s.iss.pops then x.qin.tail else x.qin } : Course).fair s.iss.src s.iss.pc
        s.iss.exec (isYld s.iss.bundle.i0)) := by
  have hd : s.finishIssue.course? s.iss.course = _ := State.course?_onCourse_self hx _
  rw [hd]
  simp only [hl, hn, Bool.false_eq_true, if_false]
  cases s.iss.pops <;> simp [Course.shiftL, hp]

theorem State.finishIssue_yield {s : State} {x : Course} (hx : s.course? s.iss.course = some x) (hy : s.iss.bundle.i0 = .yld)
    (he : s.iss.exec ≠ 0) (hl : s.iss.lone = false) (hn : s.iss.late = none) (hp : x.pres ≠ .ended)
    (hrow : x.info.row = none) (hxp : x.ppr = true) (hsp : s.iss.src.ppr = true)
    (ho : (s.iss.src.maskOf fun l => l.st == .ready && l.lpc != s.iss.pc) ≠ 0) :
    ∃ y, s.finishIssue.course? s.iss.course = some y ∧ y.fairt = expireFair x.fairt s.iss.src s.iss.pc := by
  refine ⟨_, State.finishIssue_course? hx hl hn hp, ?_⟩
  rw [hy]
  refine (congrArg Course.fairt (Course.fair_yield he ?_ ?_ hsp ho)).trans rfl
  · exact hrow
  · exact hxp

/-! #### WAITC (R147) -/

/-- WAITC reads and writes no register of the renamed file, so it waits for its counter alone. -/
theorem State.waitc_waits {s : State} (he : s.iss.exec ≠ 0) (n : BitVec 2) (t : BitVec 7) :
    s.stallOf (.waitc n t) = false ∧ s.sleepOf (.waitc n t) =
      if s.iss.src.n n.toNat ≤ t.toNat then none else some (.waitc, .counter n.toNat t.toNat) := by
  constructor
  · simp [State.stallOf, isMatrix, isCollective, State.needSlots]
  · have hm : s.iss.mask (profile (.waitc n t)).slot ≠ 0 := he
    have hq : s.qwWaits (.waitc n t) = (false, false) := rfl
    have hf : s.fillsOf (.waitc n t) = [] := rfl
    rw [State.sleepOf, if_neg hm]
    simp [hq, hf]

/-! #### Rows that no lane executes (R103, R104, R258) -/

@[simp] theorem State.releaseAt_zero (s : State) (c v mark : Nat) : s.releaseAt c v 0 mark = s := by simp [State.releaseAt]

/-- An instruction that no lane executes releases nothing (R51). -/
theorem State.releases_of_idle {s : State} {i : Instr} (h : s.iss.mask (profile i).slot = 0) : s.releases i = s := by
  unfold State.releases
  simp only [h, State.releaseAt_zero]
  generalize (_ ++ _ : List Nat) = l
  induction l with
  | nil => rfl
  | cons v l ih => exact ih

/-- Operands that raise no flag raise none together. -/
theorem foldl_or_zero {α : Type} {l : List (α × DWord)} (h : ∀ p ∈ l, p.2 = 0) :
    l.foldl (fun a p => a ||| p.2) 0 = 0 := by
  induction l with
  | nil => rfl
  | cons p l ih =>
    rw [List.foldl_cons, h p List.mem_cons_self]
    exact ih fun q hq => h q (List.mem_cons_of_mem _ hq)

/-- A read that no lane makes raises no flag (R52, R55). -/
theorem Issue.readReg_flags_zero (i : Issue) (ins : Instr) (code : Nat) (e : Expect) (rrd : Bool) :
    (i.readReg ins 0 code e rrd).2 = 0 := by
  refine foldl_or_zero fun p hp => ?_
  obtain ⟨j, -, rfl⟩ := List.mem_map.1 hp
  simp [Mask.has]

theorem Issue.reads_flags_zero {i : Issue} {ins : Instr} (h : ∀ r ∈ i.regsRead ins, r.2.2 = 0) :
    (i.reads ins).flags = 0 := by
  refine foldl_or_zero fun p hp => ?_
  obtain ⟨r, hr, rfl⟩ := List.mem_map.1 hp
  rw [h r hr, Issue.readReg_flags_zero]

/-- The lanes in which an instruction reads its registers, where each source is read in every executing lane. -/
theorem Issue.regsRead_mask {i : Issue} {ins : Instr} (h : ∀ k m, i.readMask ins k m = m) :
    ∀ r ∈ i.regsRead ins, r.2.2 = i.mask (profile ins).slot := by
  intro r hr
  simp only [Issue.regsRead, List.mem_flatten, List.mem_map] at hr
  obtain ⟨_, ⟨p, -, rfl⟩, hr⟩ := hr
  obtain ⟨j, -, rfl⟩ := List.mem_map.1 hr
  exact h _ _

/-- A memory row that no lane executes leaves the state as it is (R103, R258). -/
theorem State.memRow_of_idle {s : State} {i : Instr} {o : MemOp} (hm : s.iss.mask (profile i).slot = 0) (ho : o.act = 0)
    (hr : ∀ k m, s.iss.readMask i k m = m) : s.memRow i o = s := by
  have hf : (s.iss.reads i).flags = 0 := Issue.reads_flags_zero fun r h => (Issue.regsRead_mask hr r h).trans hm
  have hp : s.postOp i o = s := if_pos ho
  have ha : s.readFlags 0 = s := by rw [State.readFlags, State.addFlags, if_pos rfl]
  rw [State.memRow, hp, hf, ha, State.releases_of_idle hm]

/-- Each memory row posts one operation, for the lanes of slot 2, in which it reads its sources (R258, R261 to R278). -/
theorem exec_memoryRow {i : Instr} {k : OpKind × BitVec 2 × Bool} (h : memoryRow i = some k) :
    (profile i).slot = 2 ∧ (∀ (x : Issue) (n : Nat) (m : Mask), x.readMask i n m = m) ∧
      ∃ f : State → MemOp, (∀ u, (f u).act = u.iss.mask (profile i).slot) ∧
        ∀ s, exec i s = gated i s fun u => u.memRow i (f u) := by
  cases i with
  | ldB | ldBs | ldH | ldHs | ldW | ldd | ldq | ldc | ldu | ldsB | ldsBs | ldsH | ldsHs | ldsW | ldsc | stB | stH | stW
  | std | stq | stc | stsB | stsH | stsW | stsc | amo | amos | cas | cass | sig | stl | lda =>
    exact ⟨rfl, fun _ _ _ => rfl, _, fun _ => rfl, fun _ => rfl⟩
  | _ => exact nomatch h

theorem exec_memoryRow_of_idle {s : State} {i : Instr} {k : OpKind × BitVec 2 × Bool} (hs : Issuing s) (hg : s.iss.g2 = 0)
    (hi : memoryRow i = some k) : exec i s = .next s := by
  obtain ⟨h2, hr, f, ha, he⟩ := exec_memoryRow hi
  have hm : s.iss.mask (profile i).slot = 0 := by rw [h2]; exact hg
  rw [he, gated_next hs, State.memRow_of_idle hm ((ha s).trans hm) (hr s.iss)]

/-- Every instruction of slot 3 acts under its guard (R104). -/
theorem exec_slot3 {i : Instr} (h : slotOf i = 3) :
    ∃ f : State → State, ∀ s, exec i s = gated i s fun u => if u.iss.g3 = 0 then u else f u := by
  cases i with
  | mzero | mchb | mche | mma | macl | mdst | mstg | shp | cpy | cpym | owng | ownt | qcfg | qpush | qpop | qtry | tsub
  | tdep | emit | cont | keyrel | qsub | cred | cbc | cag | crs => exact ⟨_, fun _ => rfl⟩
  | _ => exact absurd h (Nat.ne_of_beq_eq_false rfl)

theorem exec_slot3_of_idle {s : State} {i : Instr} (hs : Issuing s) (hg : s.iss.g3 = 0) (hi : slotOf i = 3) :
    exec i s = .next s := by
  obtain ⟨f, hf⟩ := exec_slot3 hi
  rw [hf, gated_next hs, if_pos hg]

/-! #### WAITA (R271) -/

/-- The reads of a memory row and its releases lose no write. -/
theorem State.readsDone_keeps (s : State) (f : DWord) (i : Instr) :
    KeepsWrites s.iss.course s ((s.readFlags f).releases i) := by
  have k := s.addFlags_keeps s.iss.course f (s.clkOf s.iss.course + 2)
  have r := (s.readFlags f).releases_keeps i
  have hc : (s.readFlags f).iss.course = s.iss.course := by rw [State.readFlags, k.1.1]
  rw [hc] at r
  exact k.trans r

/-- The reads of a memory row raise their flags later, and its last-use sources are released (R51). -/
theorem State.readsDone_spec {s : State} {x : Course} (hx : s.course? s.iss.course = some x) (f : DWord) (i : Instr) :
    OnlyCourse s ((s.readFlags f).releases i) s.iss.course ∧
      ∃ y, ((s.readFlags f).releases i).course? s.iss.course = some y ∧ OnlyVectors x y ∧ y.o = x.o ∧
        ∀ v ∈ lastUses i, Released s y v (s.iss.mask (profile i).slot) := by
  have all := s.readsDone_keeps f i
  obtain ⟨y, hy, hv, ho, -⟩ := all.2.2 x hx
  refine ⟨all.1, y, hy, hv, ho, ?_⟩
  have k := s.addFlags_keeps s.iss.course f (s.clkOf s.iss.course + 2)
  obtain ⟨z, hz, -⟩ := k.2.2 x hx
  have e : (s.readFlags f).iss = { s.iss with r1 := (s.readFlags f).iss.r1, r2 := (s.readFlags f).iss.r2 } :=
    congrArg State.iss k.1.1
  have hc : (s.readFlags f).iss.course = s.iss.course := by rw [e]
  have hmark : (s.readFlags f).iss.mark = s.iss.mark := by rw [e]
  have hmask : (s.readFlags f).iss.mask (profile i).slot = s.iss.mask (profile i).slot := by rw [e]; rfl
  have hz' : (s.readFlags f).course? (s.readFlags f).iss.course = some z := by rw [hc]; exact hz
  obtain ⟨w, hw, hr⟩ := State.releases_released hz' i
  rw [hc, hy] at hw
  cases hw
  rw [hmask] at hr
  exact fun v hv => (Released.of_iss hmark).1 (hr v hv)

/-- WAITA raises the flags of its reads and releases its operands; its lanes have passed their test (R271). -/
theorem exec_waita_next {s : State} {i : Instr} (hs : Issuing s)
    (hi : ∃ t r o ac ut uo tm cond acq scope ext, i = .waita t r o ac ut uo tm cond acq scope ext) :
    (profile i).slot = 2 ∧ exec i s = .next ((s.readFlags (s.iss.reads i).flags).releases i) := by
  obtain ⟨t, r, o, ac, ut, uo, tm, cond, acq, scope, ext, rfl⟩ := hi
  exact ⟨rfl, by rw [exec_waita, execWaita, gated_next hs]⟩

/-- Settles O29: NOP, YLD, WAITC and WAITA one by one, and the rows of slots 2 and 3 through what each row is. -/
theorem guardedOffDoesNothing : Obligations.GuardedOffDoesNothing := by
  refine ⟨fun s hs => exec_waits_next hs, fun s x hx hy he hl hn hp hrow hxp hsp ho =>
    State.finishIssue_yield hx hy he hl hn hp hrow hxp hsp ho, fun s n t he => State.waitc_waits he n t, ?_,
    fun s i k hs hg hi => exec_memoryRow_of_idle hs hg hi, fun s i hs _ hi hg => exec_slot3_of_idle hs hg hi⟩
  intro s x i hs ⟨hx, _⟩ hi
  obtain ⟨hslot, he⟩ := exec_waita_next hs hi
  obtain ⟨only, y, hy, hv, ho, hr⟩ := State.readsDone_spec hx (s.iss.reads i).flags i
  rw [hslot] at hr
  exact ⟨_, y, he, only, hy, hv, ho, hr⟩

end Sys2Proof.Machine

/-!
# Reservoir records, FCVT and VFREE

The results of slot 1 that are more than one word for each lane, and the release that is an instruction of its own (R51,
R53, R81, R95, R96, R176, R186, R357). A run of writes of the renamed file is described once, by
`State.foldl_writeReg_written`, and the releases that end an instruction of fixed latency once, by `State.latch_released`.
-/

namespace Sys2Proof.Machine

/-! ### The bundle in issue, while one course changes -/

section OnlyCourse
variable {s t : State} {c : Nat}

theorem OnlyCourse.iss_course (h : OnlyCourse s t c) : t.iss.course = s.iss.course := by rw [h.1]

theorem OnlyCourse.iss_mark (h : OnlyCourse s t c) : t.iss.mark = s.iss.mark := by rw [h.1]

theorem OnlyCourse.iss_mask (h : OnlyCourse s t c) (slot : Nat) : t.iss.mask slot = s.iss.mask slot := by
  rw [h.1]; rfl

end OnlyCourse

/-! ### Results of fixed latency (R41, R50, R51, R54) -/

/-- A write that has been issued later has been issued since the earlier state. -/
theorem Written.of_uid_le {s t : State} {y : Course} {d : Nat} {m : Mask} {tag : Tag} {fl : DWord} {val : Nat → Word}
    (h : Written t y d m tag fl val) (hu : s.uid ≤ t.uid) : Written s y d m tag fl val := by
  refine ⟨fun hd => ?_, h.2⟩
  obtain ⟨f, hf, hv, hr, hm, ht, hfl, hid, hval⟩ := h.1 hd
  exact ⟨f, hf, hv, hr, hm, ht, hfl, Nat.le_trans hu hid, hval⟩

/-- A write depends on the values of the executing lanes alone. -/
theorem Written.congr {s : State} {y : Course} {d : Nat} {m : Mask} {tag : Tag} {fl : DWord} {val val' : Nat → Word}
    (h : Written s y d m tag fl val) (e : ∀ j, j < y.w → val j = val' j) : Written s y d m tag fl val' := by
  refine ⟨fun hd => ?_, fun hd => ?_⟩
  · obtain ⟨f, hf, hv, hr, hm, ht, hfl, hid, hval⟩ := h.1 hd
    exact ⟨f, hf, hv, hr, hm, ht, hfl, hid, fun j hj hmj => (hval j hj hmj).trans (e j hj)⟩
  · obtain ⟨ht, hval⟩ := h.2 hd
    exact ⟨ht, fun j hj hmj => (hval j hj hmj).trans (e j hj)⟩

/-- A write of the renamed file joins the writes on their way, and none of them is lost. -/
theorem State.writeReg_keeps (s : State) (c : Nat) {d : Nat} (hd : d < 64) (m : Mask) (vals : Lanes) (tag : Tag) (fl : DWord)
    (due : Nat) : KeepsWrites c s (s.writeReg c d m vals tag fl due) := by
  unfold State.writeReg
  split
  · exact KeepsWrites.refl c s
  · rw [if_pos (by simp [hd])]
    exact s.addWrite_keeps c d m vals tag fl (some due) none

/-- A run of writes of the renamed file: each is on its way at the end, and no earlier write is lost. -/
theorem State.foldl_writeReg_written {c : Nat} {m : Mask} (hm : m ≠ 0) (d : Nat → Nat) (vals : Nat → Lanes) (tag : Nat → Tag)
    (fl : Nat → DWord) (due : Nat) {ks : List Nat} (hd : ∀ k ∈ ks, d k < 64) (s : State) {x : Course}
    (hx : s.course? c = some x) (ho : x.o.length = 8) :
    KeepsWrites c s (ks.foldl (fun t k => t.writeReg c (d k) m (vals k) (tag k) (fl k) due) s) ∧
      ∃ y, (ks.foldl (fun t k => t.writeReg c (d k) m (vals k) (tag k) (fl k) due) s).course? c = some y ∧
        ∀ k ∈ ks, Written s y (d k) m (tag k) (fl k) fun j => (vals k).getD j 0 := by
  induction ks generalizing s x with
  | nil => exact ⟨KeepsWrites.refl c s, x, hx, fun k hk => absurd hk List.not_mem_nil⟩
  | cons k ks ih =>
    obtain ⟨hk, hks⟩ := List.forall_mem_cons.1 hd
    have first := s.writeReg_keeps c hk m (vals k) (tag k) (fl k) due
    obtain ⟨-, y, hy, -, hwritten⟩ := State.writeReg_spec (d := d k) hx ho hm (vals k) (tag k) (fl k) due
    obtain ⟨y', hy', -, hyo, -⟩ := first.2.2 x hx
    obtain rfl : y' = y := Option.some.inj (hy'.symm.trans hy)
    obtain ⟨rest, z, hz, hrest⟩ := ih hks _ hy (hyo ▸ ho)
    obtain ⟨z', hz', -, hfirst⟩ := Written.keep rest hy hwritten
    obtain rfl : z' = z := Option.some.inj (hz'.symm.trans hz)
    exact ⟨first.trans rest, z', hz, List.forall_mem_cons.2
      ⟨hfirst, fun j hj => (hrest j hj).of_uid_le first.2.1⟩⟩

/-- An instruction whose destinations are registers of the renamed file issues one write for each, and its flags go with
the first. -/
theorem State.writeAll_written {s : State} {x : Course} (hx : s.course? s.iss.course = some x) (ho : x.o.length = 8)
    {i : Instr} (hm : s.iss.mask (profile i).slot ≠ 0) (hd : ∀ d ∈ (profile i).written, d < 64) (vals : List Lanes)
    (fl : DWord) :
    KeepsWrites s.iss.course s (s.writeAll i vals fl) ∧
      ∃ y, (s.writeAll i vals fl).course? s.iss.course = some y ∧ ∀ k, k < (profile i).written.length →
        Written s y ((profile i).written.getD k 0) (s.iss.mask (profile i).slot) ((s.iss.resultTags i).getD k .und)
          (if k = 0 then fl else 0) fun j => (vals.getD k []).getD j 0 := by
  unfold State.writeAll
  simp only [if_neg hm]
  have code : ∀ k ∈ List.range (profile i).written.length, (profile i).written.getD k 0 < 64 := by
    intro k hk
    rw [← List.getElem_eq_getD (h := List.mem_range.1 hk)]
    exact hd _ (List.getElem_mem _)
  obtain ⟨keeps, y, hy, hw⟩ := State.foldl_writeReg_written hm (fun k => (profile i).written.getD k 0) (fun k => vals.getD k [])
    (fun k => (s.iss.resultTags i).getD k .und) (fun k => if k = 0 then fl else 0)
    (s.clkOf s.iss.course + boundOf i (s.course s.iss.course).tower) code s hx ho
  exact ⟨keeps, y, hy, fun k hk => hw k (List.mem_range.2 hk)⟩

/-- An instruction of fixed latency ends with its last-use releases, once its results have been issued (R51). -/
theorem State.latch_released {s t : State} {y : Course} (only : OnlyCourse s t s.iss.course)
    (hy : t.course? s.iss.course = some y) (i : Instr) (slot : Nat) (m : Mask) (vals : Lanes) (tag : Tag) :
    ∃ z, ((t.latchL slot m vals tag).releases i).course? s.iss.course = some z ∧
      ∀ v ∈ lastUses i, Released s z v (s.iss.mask (profile i).slot) := by
  have latch := t.latchL_keeps slot m vals tag s.iss.course
  have all := only.trans latch.1
  obtain ⟨u, hu, -⟩ := latch.2.2 y hy
  rw [← all.iss_course] at hu
  obtain ⟨z, hz, hr⟩ := State.releases_released hu i
  rw [all.iss_course] at hz
  rw [all.iss_mask] at hr
  exact ⟨z, hz, fun v hv => (Released.of_iss all.iss_mark).1 (hr v hv)⟩

/-- An instruction with one destination writes that register alone. -/
theorem State.writeAll_of_written {s : State} {i : Instr} {d : Nat} (hd : (profile i).written = [d])
    (hm : s.iss.mask (profile i).slot ≠ 0) (vals : Lanes) (fl : DWord) :
    s.writeAll i [vals] fl = s.writeReg s.iss.course d (s.iss.mask (profile i).slot) vals ((s.iss.resultTags i).getD 0 .und) fl
      (s.clkOf s.iss.course + boundOf i (s.course s.iss.course).tower) := by
  rw [State.writeAll, if_neg hm, hd]
  rfl

/-- An instruction of fixed latency with one destination releases the registers whose last-use bit it sets (R51). -/
theorem State.vector_released {s : State} {x : Course} (hx : s.course? s.iss.course = some x) (ho : x.o.length = 8)
    {i : Instr} {d : Nat} (hd : (profile i).written = [d]) (hm : s.iss.mask (profile i).slot ≠ 0)
    (f : Reads → Nat → Word × DWord) :
    ∃ y, (s.vector i f).course? s.iss.course = some y ∧
      ∀ v ∈ lastUses i, Released s y v (s.iss.mask (profile i).slot) := by
  unfold State.vector
  dsimp only
  rw [State.writeAll_of_written hd hm]
  obtain ⟨only, y, hy, -⟩ := State.writeReg_spec (d := d) hx ho hm _ _ _ _
  exact State.latch_released only hy i _ _ _ _

/-! ### Reservoir records (R95, R96, R357) -/

/-- The tag of each register of a record (R357). -/
def recordTag (k : Nat) : Tag := if k < 2 then .f32 else .uw

/-- Word k of a record for each lane of a course. -/
def recordLanes (w : Nat) (g : Nat → Rsv × DWord) (k : Nat) : Lanes := (List.range w).map fun j => (g j).1.word k

/-- A record result issues one list of lanes for each of its four words. -/
theorem State.recordResult_eq (s : State) (i : Instr) (f : Reads → Nat → Rsv × DWord) :
    s.recordResult i f = ((s.writeAll i ((List.range 4).map (recordLanes s.iss.src.w (f (s.iss.reads i))))
      ((s.iss.reads i).flags ||| orFlags s.iss.g1 (((List.range s.iss.src.w).map (f (s.iss.reads i))).map (·.2)))).latchL 1
        s.iss.g1 (recordLanes s.iss.src.w (f (s.iss.reads i)) 0) .f32).releases i := by
  have word : ∀ k, ((List.range s.iss.src.w).map (f (s.iss.reads i))).map (fun p => p.1.word k) =
      recordLanes s.iss.src.w (f (s.iss.reads i)) k := fun _ => List.map_map
  unfold State.recordResult
  simp only [word]
  rfl

/-- A record result is issued to its four registers, its sources are released, and nothing else moves. -/
theorem State.recordResult_spec {s : State} {x : Course} (hr : Running s x) (hg : s.iss.g1 ≠ 0) {i : Instr} {d : Nat}
    (hd : d ≤ 60) (hslot : (profile i).slot = 1) (hw : (profile i).written = (List.range 4).map fun k => d + k)
    (ht : s.iss.resultTags i = (List.range 4).map recordTag) (f : Reads → Nat → Rsv × DWord) :
    OnlyCourse s (s.recordResult i f) s.iss.course ∧
      ∃ y, (s.recordResult i f).course? s.iss.course = some y ∧ OnlyVectors x y ∧ y.o = x.o ∧
        (∀ k, k < 4 → ∃ fl, Written s y (d + k) s.iss.g1 (recordTag k) fl fun j => (f (s.iss.reads i) j).1.word k) ∧
        ∀ v ∈ lastUses i, Released s y v s.iss.g1 := by
  obtain ⟨hx, hwidth, -, -, ho, -⟩ := hr
  have hmask : s.iss.mask (profile i).slot = s.iss.g1 := by rw [hslot]; rfl
  have hcodes : ∀ c ∈ (profile i).written, c < 64 := by
    rw [hw]
    intro c hc
    obtain ⟨k, hk, rfl⟩ := List.mem_map.1 hc
    have := List.mem_range.1 hk
    omega
  rw [State.recordResult_eq]
  generalize (s.iss.reads i).flags ||| _ = fl
  obtain ⟨keeps, y, hy, hwritten⟩ := State.writeAll_written hx ho (by rwa [hmask]) hcodes
    ((List.range 4).map (recordLanes s.iss.src.w (f (s.iss.reads i)))) fl
  have latch := State.latch_release_keeps keeps.1.iss_course 1 s.iss.g1
    (recordLanes s.iss.src.w (f (s.iss.reads i)) 0) .f32 i
  have all := keeps.trans latch
  obtain ⟨z, hz, hv, hzo, -⟩ := all.2.2 x hx
  obtain ⟨z', hz', hreleased⟩ := State.latch_released keeps.1 hy i 1 s.iss.g1
    (recordLanes s.iss.src.w (f (s.iss.reads i)) 0) .f32
  obtain rfl : z' = z := Option.some.inj (hz'.symm.trans hz)
  refine ⟨all.1, z', hz, hv, hzo, fun k hk => ?_, hmask ▸ hreleased⟩
  have one := hwritten k (by simpa [hw] using hk)
  rw [hmask, hw, ht, getD_map_range hk, getD_map_range hk, getD_map_range hk] at one
  obtain ⟨u, hu, -, hwu⟩ := Written.keep latch hy one
  obtain rfl : u = z' := Option.some.inj (hu.symm.trans hz)
  exact ⟨_, hwu.congr fun j hj => getD_map_range (by rwa [hwidth, ← hv.w]) _ 0⟩

theorem exec_rsvup_next {s : State} (h : Issuing s) (d a b : Code) (ua ub : Bool) (c : BitVec 6) (uc : Bool) :
    exec (.rsvup d a b ua ub c uc) s = .next (s.recordResult (.rsvup d a b ua ub c uc) fun r j =>
      rsvUp (r.record 3 j) (r.v 0 j).toNat (r.v 1 j).toNat (r.v 2 j).toNat) := by
  rw [exec_rsvup, execRsvup, gated_next h]

theorem exec_rsvmrg_next {s : State} (h : Issuing s) (d a b : Code) (ua ub : Bool) :
    exec (.rsvmrg d a b ua ub) s = .next (s.recordResult (.rsvmrg d a b ua ub) fun r j =>
      rsvMrg (r.record 5 j) (r.record 0 j) (r.v 4 j).toNat) := by
  rw [exec_rsvmrg, execRsvmrg, gated_next h]

/-! ### FCVT (R81, R186) -/

theorem exec_fcvt_next {s : State} (h : Issuing s) (d a : Code) (n : Bool) (r : BitVec 3) (tg : BitVec 4) (ua : Bool) :
    exec (.fcvt d a n r tg ua) s = .next (s.fcvtAll (.fcvt d a n r tg ua) n r tg) := by
  rw [exec_fcvt, execFcvt, gated_next h]

/-- What FCVT gives a lane: the word, the next SRS and the flags (R81, R186). -/
def State.fcvtRow (s : State) (i : Instr) (n : Bool) (r : BitVec 3) (tg : BitVec 4) (q : Reads) (j : Nat) :
    Word × Word × DWord :=
  fcvtLane (floatTag (s.iss.usedTag i 0 j)) (tagOf tg.toNat) (if r == 1 then RM.rne else rmoMode r (RM.decode s.iss.src.rm))
    (r == 1 && s.iss.src.sre) n s.iss.src.ftz (s.iss.src.lane j).srs (q.v 0 j).toNat

/-- The course with the SRS that a stochastic conversion leaves in its executing lanes (R81). -/
def Course.withSrs (x : Course) (m : Mask) (srs : Nat → Word) : Course := x.onLanes m fun j l => { l with srs := srs j }

/-- The lanes of a stochastic conversion take their SRS, and every other lane stays (R81). -/
theorem Course.withSrs_lane (x : Course) (m : Mask) (srs : Nat → Word) {j : Nat} (h : j < x.lanes.length) :
    (x.withSrs m srs).lane j = if Mask.has m j = true then { x.lane j with srs := srs j } else x.lane j :=
  x.onLanes_lane m _ h

/-- FCVT is a vector result, and the stochastic form then advances the SRS of the executing lanes. -/
theorem State.fcvtAll_eq (s : State) (i : Instr) (n : Bool) (r : BitVec 3) (tg : BitVec 4) :
    s.fcvtAll i n r tg =
      let t := s.vector i fun q j => ((s.fcvtRow i n r tg q j).1, (s.fcvtRow i n r tg q j).2.2)
      if (r == 1 && s.iss.src.sre) = true
        then t.onCourse s.iss.course fun y => y.withSrs s.iss.g1 fun j => (s.fcvtRow i n r tg (s.iss.reads i) j).2.1
        else t := rfl

/-- FCVT writes its words and flags and releases its source; the stochastic form also advances the SRS of the executing
lanes. -/
theorem State.fcvtAll_spec {s : State} {x : Course} (hr : Running s x) (hg : s.iss.g1 ≠ 0) {d a : Code} {n : Bool}
    {r : BitVec 3} {tg : BitVec 4} {ua : Bool} {i : Instr} (hi : i = .fcvt d a n r tg ua) {f : Nat → Word × Word × DWord}
    (hf : s.fcvtRow i n r tg (s.iss.reads i) = f) :
    OnlyCourse s (s.fcvtAll i n r tg) s.iss.course ∧ ∃ y,
      (s.fcvtAll i n r tg).course? s.iss.course = some
        (if (r == 1 && s.iss.src.sre) = true then y.withSrs s.iss.g1 fun j => (f j).2.1 else y) ∧
      OnlyVectors x y ∧
      Written s y d.toNat s.iss.g1 (tagOf tg.toNat)
        ((s.iss.reads i).flags ||| orFlags s.iss.g1 ((List.range x.w).map fun j => (f j).2.2)) (fun j => (f j).1) ∧
      ∀ v ∈ lastUses i, Released s y v s.iss.g1 := by
  obtain ⟨hx, hwidth, -, -, ho, -⟩ := hr
  have hmask : s.iss.mask (profile i).slot = s.iss.g1 := by rw [hi]; rfl
  have hwr : (profile i).written = [d.toNat] := by rw [hi]; rfl
  have htag : (s.iss.resultTags i).getD 0 .und = tagOf tg.toNat := by rw [hi]; rfl
  have hm : s.iss.mask (profile i).slot ≠ 0 := by rwa [hmask]
  obtain ⟨only, y, hy, hv, hwritten⟩ := State.vector_spec hx ho hwidth hwr hm fun q j =>
    ((s.fcvtRow i n r tg q j).1, (s.fcvtRow i n r tg q j).2.2)
  obtain ⟨y', hy', hreleased⟩ := State.vector_released hx ho hwr hm fun q j =>
    ((s.fcvtRow i n r tg q j).1, (s.fcvtRow i n r tg q j).2.2)
  obtain rfl : y' = y := Option.some.inj (hy'.symm.trans hy)
  rw [hmask, htag, hwidth, hf] at hwritten
  rw [hmask] at hreleased
  rw [State.fcvtAll_eq, hf]
  by_cases hsr : (r == 1 && s.iss.src.sre) = true
  · simp only [if_pos hsr]
    exact ⟨only.trans (OnlyCourse.of_onCourse _ _ _), y', State.course?_onCourse_self hy _, hv, hwritten, hreleased⟩
  · simp only [if_neg hsr]
    exact ⟨only, y', hy, hv, hwritten, hreleased⟩

/-! ### VFREE (R51, R53, R176) -/

/-- VFREE is the release of its one register. -/
theorem exec_vfree_next {s : State} (h : Issuing s) (a : Code) :
    exec (.vfree a) s = .next (s.releaseAt s.iss.course a.toNat s.iss.g1 s.iss.mark) := by
  rw [exec_vfree, execVfree, gated_next h]
  rfl

/-- With no earlier write of the register on its way, a release acts at once (R51). -/
theorem State.releaseAt_now {s : State} {c v mark : Nat} {m : Mask} {x : Course} (hx : s.course? c = some x) (hm : m ≠ 0)
    (h : ∀ f ∈ x.flights, ¬ (f.v = some v ∧ f.id < mark)) :
    (s.releaseAt c v m mark).course? c = some { x with v := modAt v (fun e => e.release m) x.v } := by
  have hnone : ¬ (x.flights.any fun f => f.v == some v && decide (f.id < mark)) = true := by
    simpa [List.any_eq_true] using h
  simp only [State.releaseAt, State.course_of_some hx, if_neg hm, if_neg hnone]
  exact State.course?_onCourse_self hx _

/-- Behind an earlier write of the register, a release takes its place among what is on its way (R51). -/
theorem State.releaseAt_behind {s : State} {c v mark : Nat} {m : Mask} {x : Course} (hx : s.course? c = some x) (hm : m ≠ 0)
    (h : ∃ f ∈ x.flights, f.v = some v ∧ f.id < mark) :
    ∃ y, (s.releaseAt c v m mark).course? c = some y ∧ y.v = x.v ∧
      ∃ g ∈ y.flights, g.v = some v ∧ g.release = true ∧ g.mask = m := by
  have hsome : (x.flights.any fun f => f.v == some v && decide (f.id < mark)) = true := by
    simpa [List.any_eq_true] using h
  simp only [State.releaseAt, State.course_of_some hx, if_neg hm, if_pos hsome]
  have hx' : s.fresh.2.course? c = some x := hx
  exact ⟨_, State.course?_onCourse_self hx' _, rfl, _, List.mem_append_right _ List.mem_cons_self, rfl, rfl, rfl⟩

/-! ### The obligation -/

/-- RSVUP and RSVMRG are record results, in the lanes of slot 1, with the tags of a record (R357). -/
theorem exec_rsv_next {s : State} (hs : Issuing s) {i : Instr} {d : Code} {f : Nat → Rsv × DWord}
    (hi : (∃ a b ua ub c uc, i = .rsvup d a b ua ub c uc ∧ f = fun j => rsvUp ((s.iss.reads i).record 3 j)
         ((s.iss.reads i).v 0 j).toNat ((s.iss.reads i).v 1 j).toNat ((s.iss.reads i).v 2 j).toNat) ∨
       (∃ a b ua ub, i = .rsvmrg d a b ua ub ∧ f = fun j => rsvMrg ((s.iss.reads i).record 5 j)
         ((s.iss.reads i).record 0 j) ((s.iss.reads i).v 4 j).toNat)) :
    ∃ g : Reads → Nat → Rsv × DWord, g (s.iss.reads i) = f ∧ exec i s = .next (s.recordResult i g) ∧
      (profile i).slot = 1 ∧ (profile i).written = (List.range 4).map (fun k => d.toNat + k) ∧
      s.iss.resultTags i = (List.range 4).map recordTag := by
  rcases hi with ⟨a, b, ua, ub, c, uc, rfl, rfl⟩ | ⟨a, b, ua, ub, rfl, rfl⟩
  · exact ⟨_, rfl, exec_rsvup_next hs d a b ua ub c uc, rfl, rfl, rfl⟩
  · exact ⟨_, rfl, exec_rsvmrg_next hs d a b ua ub, rfl, rfl, rfl⟩

/-- Settles O26: the two reservoir rows are one record result, FCVT is a vector result with its SRS, and VFREE is one
release. -/
theorem registerGroups : Obligations.RegisterGroups := by
  refine ⟨?_, ?_, ?_⟩
  · intro s x i d f hs hr hg hd hi
    obtain ⟨g, rfl, hexec, hslot, hwritten, htags⟩ := exec_rsv_next hs hi
    obtain ⟨only, y, hy, hv, ho, hrec, hreleased⟩ := State.recordResult_spec hr hg hd hslot hwritten htags g
    refine ⟨_, y, hexec, only, hy, hv, ho, fun k hk => ?_, hreleased⟩
    obtain ⟨fl, hwk, -⟩ := hrec k hk
    obtain ⟨w, hw, hreg, hrel, hmask, htag, -, -, hval⟩ := hwk (.inl (by omega))
    exact ⟨w, hw, hreg, hrel, hmask, htag, fun j hj => hval j (by rwa [hv.w])⟩
  · intro s x d a n r tg ua f hs hr hg i sr hf
    obtain ⟨only, y, hy, hv, hwritten, hreleased⟩ := State.fcvtAll_spec hr hg (i := i) rfl hf.symm
    have hexec := exec_fcvt_next hs d a n r tg ua
    obtain ⟨-, -, hlen, -⟩ := hr
    have hlane : ∀ j, y.lane j = x.lane j := fun j => by rw [hv]; rfl
    have hlanes : y.lanes = x.lanes := by rw [hv]
    by_cases hsr : sr = true
    · rw [if_pos hsr] at hy
      refine ⟨_, _, hexec, only, hy, by rw [hv]; rfl, hwritten, fun j hj => ?_, hreleased⟩
      rw [y.withSrs_lane _ _ (by rwa [hlanes, hlen]), hlane]
      simp only [hsr, true_and]
    · rw [if_neg hsr] at hy
      refine ⟨_, y, hexec, only, hy, by rw [hv], hwritten, fun j _ => ?_, hreleased⟩
      rw [if_neg fun h => hsr h.1, hlane]
  · intro s x a hs hr hg _
    obtain ⟨hx, -⟩ := hr
    obtain ⟨only, -, keeps⟩ := s.releaseAt_keeps s.iss.course a.toNat s.iss.g1 s.iss.mark
    obtain ⟨y, hy, hv, ho, -⟩ := keeps x hx
    refine ⟨_, y, exec_vfree_next hs a, only, hy, hv, ho, fun hnow => ?_, fun hbehind => ?_⟩
    · obtain rfl := Option.some.inj (hy.symm.trans (State.releaseAt_now hx hg hnow))
      exact ⟨rfl, rfl⟩
    · obtain ⟨z, hz, hbehind⟩ := State.releaseAt_behind hx hg hbehind
      obtain rfl := Option.some.inj (hy.symm.trans hz)
      exact hbehind

end Sys2Proof.Machine

/-!
# Loops, the software trap, the counters and the accesses of slot 0

LOOPI and LOOP lane by lane, TRAP, the read of NCNT, and the accesses that slot 0 posts (R129, R136 to R138, R143, R146, R151
to R153, R158). An operation that writes no register through its row is posted by `State.postOp_of_no_dests`; the writes
that REST opens for itself are described by `State.foldl_openRestOne`.
-/

namespace Sys2Proof.Machine

/-! ### Loop counters and the stage window (R136) -/

@[simp] theorem lcCnt_lcOf (c e : Nat) : lcCnt (lcOf c e) = c % 2 ^ 30 := by
  simp only [lcCnt, lcOf, BitVec.toNat_ofNat]; omega

@[simp] theorem lcEpi_lcOf (c e : Nat) : lcEpi (lcOf c e) = e % 4 := by
  simp only [lcEpi, lcOf, BitVec.toNat_ofNat]; omega

theorem lcCnt_lt (lc : Word) : lcCnt lc < 2 ^ 30 := Nat.mod_lt _ (by decide)

theorem lcEpi_lt (lc : Word) : lcEpi lc < 4 := by
  have := lc.isLt
  unfold lcEpi; omega

/-- A pass takes one from CNT, while any is left. -/
theorem lcCnt_loopStep (lc : Word) : lcCnt (loopStep lc) = lcCnt lc - 1 := by
  have := lcCnt_lt lc
  unfold loopStep
  split
  · rw [lcCnt_lcOf]; omega
  · split
    · rw [lcCnt_lcOf]; omega
    · omega

/-- A pass takes one from EPI, while any is left, once CNT is 0. -/
theorem lcEpi_loopStep (lc : Word) : lcEpi (loopStep lc) = if lcCnt lc = 0 then lcEpi lc - 1 else lcEpi lc := by
  have := lcEpi_lt lc
  unfold loopStep
  split
  next h => rw [lcEpi_lcOf, if_neg (Nat.ne_of_gt h)]; omega
  next h =>
    rw [if_pos (Nat.eq_zero_of_not_pos h)]
    split
    · rw [lcEpi_lcOf]; omega
    · omega

/-- P4 to P7 are the stages, and the predicates below them stay. -/
theorem stageWindow_getLsbD (pw : BitVec 8) (p4 p5 p6 p7 : Bool) {p : Nat} (h : p < 8) :
    (stageWindow pw p4 p5 p6 p7).getLsbD p = if p < 4 then pw.getLsbD p else [p4, p5, p6, p7].getD (p - 4) false := by
  have bit : ∀ (b : Bool) (m : BitVec 8), (if b then m else 0).getLsbD p = (b && m.getLsbD p) := by
    intro b m; cases b <;> simp
  simp only [stageWindow, BitVec.getLsbD_or, BitVec.getLsbD_and, bit]
  match p, h with
  | 0, _ | 1, _ | 2, _ | 3, _ | 4, _ | 5, _ | 6, _ | 7, _ => simp

/-! ### LOOPI (R137) -/

theorem exec_loopi_next {s : State} (h : Issuing s) (n : BitVec 19) :
    exec (.loopi n) s = .next (s.onCourse s.iss.course fun x => x.onLanes s.iss.exec fun _ l =>
      { l with lc := lcOf n.toNat (lcEpi l.lc), pw := stageWindow l.pw (n != 0) false false false }) := by
  rw [exec_loopi, execLoopi, gated_next h]

/-- The words of LOOPI are those that the encoder gives. -/
theorem decodeSlot_loopi (n : BitVec 19) : decodeSlot 0 (0x08000000#32 + n.setWidth 32) 0 = .ok (.loopi n) := by
  have hw : 0x08000000#32 + n.setWidth 32 = (encode (.loopi n)).1 := by
    refine BitVec.eq_of_toNat_eq ?_
    simp only [encode, encodeWord, place, BitVec.toNat_add, BitVec.toNat_setWidth, BitVec.toNat_ofNat]
    omega
  rw [hw]
  exact Laws.Encodes.loopi n rfl rfl

/-- Settles O11: each executing lane takes the count under its EPI, and the stage window of the first pass. -/
theorem loopInit : Obligations.LoopInit := by
  refine ⟨decodeSlot_loopi, fun s x n hs ⟨hx, _, hl, _⟩ => ?_⟩
  obtain ⟨only, hy⟩ := State.onCourse_spec hx fun x => x.onLanes s.iss.exec fun _ l =>
    { l with lc := lcOf n.toNat (lcEpi l.lc), pw := stageWindow l.pw (n != 0) false false false }
  refine ⟨_, _, exec_loopi_next hs n, only, hy, rfl, fun j hj => ?_⟩
  rw [x.onLanes_lane _ _ (hl ▸ hj)]
  refine ⟨fun he => if_neg (by simp [he]), fun he => ?_⟩
  rw [if_pos he]
  refine ⟨rfl, ?_, ?_, fun p hp => ?_⟩
  · exact (lcCnt_lcOf _ _).trans (Nat.mod_eq_of_lt (by have := n.isLt; omega))
  · exact (lcEpi_lcOf _ _).trans (Nat.mod_eq_of_lt (lcEpi_lt _))
  · refine (stageWindow_getLsbD _ _ _ _ _ hp).trans ?_
    match p, hp with
    | 0, _ | 1, _ | 2, _ | 3, _ | 4, _ | 5, _ | 6, _ | 7, _ => rfl

/-! ### LOOP (R138) -/

theorem exec_loop_next {s : State} (h : Issuing s) (d : BitVec 21) :
    exec (.loop d) s = .next (s.onCourse s.iss.course fun x => x.onLanes s.iss.exec fun _ l =>
      l.loop s.iss.pc (relTarget s.iss.pc d.toInt)) := by
  rw [exec_loop, execLoop, gated_next h]

/-- The words of LOOP are those that the encoder gives. -/
theorem decodeSlot_loop (d : BitVec 21) : decodeSlot 0 (0x09000000#32 + d.setWidth 32) 0 = .ok (.loop d) := by
  have hw : 0x09000000#32 + d.setWidth 32 = (encode (.loop d)).1 := by
    refine BitVec.eq_of_toNat_eq ?_
    simp only [encode, encodeWord, place, BitVec.toNat_add, BitVec.toNat_setWidth, BitVec.toNat_ofNat]
    omega
  rw [hw]
  exact Laws.Encodes.loop d rfl rfl

/-- P4 says whether CNT is left after the pass, and each stage moves up by one. -/
theorem Lane.loop_pw (l : Lane) (pc target : Word) {p : Nat} (h : p < 8) : (l.loop pc target).pw.getLsbD p =
    if p < 4 then l.pw.getLsbD p else if p = 4 then decide (1 < lcCnt l.lc) else l.pw.getLsbD (p - 1) := by
  have left : decide (0 < lcCnt (loopStep l.lc)) = decide (1 < lcCnt l.lc) := by
    rw [lcCnt_loopStep]; exact decide_eq_decide.2 (by omega)
  refine (stageWindow_getLsbD _ _ _ _ _ h).trans ?_
  rw [left]
  match p, h with
  | 0, _ | 1, _ | 2, _ | 3, _ | 4, _ | 5, _ | 6, _ | 7, _ => rfl

/-- The lane goes round while either count is left after the pass. -/
theorem Lane.loop_lpc (l : Lane) (pc target : Word) : (l.loop pc target).lpc =
    if 1 < lcCnt l.lc ∨ (lcCnt l.lc = 0 ∧ 1 < lcEpi l.lc) ∨ (0 < lcCnt l.lc ∧ 0 < lcEpi l.lc) then target else pc + 16 := by
  refine ite_congr (propext ?_) (fun _ => rfl) fun _ => rfl
  rw [Bool.or_eq_true, decide_eq_true_eq, decide_eq_true_eq, lcCnt_loopStep, lcEpi_loopStep]
  split <;> omega

/-- Settles O12: `loopStep` counts, and `Lane.loop_pw` and `Lane.loop_lpc` say what follows from the counts. -/
theorem loopBack : Obligations.LoopBack := by
  refine ⟨decodeSlot_loop, fun s x d hs ⟨hx, _, hl, _⟩ => ?_⟩
  obtain ⟨only, hy⟩ := State.onCourse_spec hx fun x => x.onLanes s.iss.exec fun _ l =>
    l.loop s.iss.pc (relTarget s.iss.pc d.toInt)
  refine ⟨_, _, exec_loop_next hs d, only, hy, rfl, fun j hj => ?_⟩
  rw [x.onLanes_lane _ _ (hl ▸ hj)]
  refine ⟨fun he => if_neg (by simp [he]), fun he => ?_⟩
  rw [if_pos he]
  exact ⟨rfl, lcCnt_loopStep _, lcEpi_loopStep _, fun p hp => Lane.loop_pw _ _ _ hp, Lane.loop_lpc _ _ _⟩

/-! ### TRAP (R143) -/

/-- Settles O15: the effect of TRAP is the end of its bundle and the entry of SWT. -/
theorem softwareTrap : Obligations.SoftwareTrap := by
  intro s k hs
  rw [exec_trap, execTrap, gated_next hs]
  rfl

/-! ### NCNT (R146) -/

/-- Each counter stands in its own 16 bits of NCNT. -/
theorem Course.fld_ncnt (x : Course) {k : Nat} (h : k < 4) : fld x.ncnt (16 * k) 16 = x.n k % 2 ^ 16 := by
  simp only [fld, Course.ncnt, BitVec.toNat_ofNat]
  match k, h with
  | 0, _ | 1, _ | 2, _ | 3, _ => omega

theorem exec_mfs_next {s : State} (h : Issuing s) (d : SReg) {i : BitVec 9} (hi : i ≠ 0x14#9) :
    exec (.mfs d i) s = .next (s.writeS d (s.special i.toNat)) := by
  rw [exec_mfs, execMfs, gated_next h]
  simp [hi]

/-- Settles O19: the special register at 0x1B is NCNT of the course as the bundle found it. -/
theorem counterReport : Obligations.CounterReport := by
  intro s x d hs ⟨hx, _, _, _, _, hsr⟩
  obtain ⟨-, y, hy, -, hv, -⟩ := State.writeS_spec hx hsr d (s.special 0x1B)
  refine ⟨_, y, exec_mfs_next hs d (by decide), hy, fun k hk => ?_⟩
  rw [hv]
  exact Course.fld_ncnt _ hk

/-! ### Accesses of slot 0 (R151 to R153, R158) -/

/-- The course with one more operation, under a number, and its count where it has one (R145). -/
def Course.withOp (x : Course) (o : MemOp) (id : Nat) : Course :=
  { (match o.cnt with | some k => x.count id k | none => x) with ops := x.ops ++ [{ o with id := id }] }

theorem Course.withOp_uncounted (x : Course) {o : MemOp} (h : o.cnt = none) (id : Nat) :
    x.withOp o id = { x with ops := x.ops ++ [{ o with id := id }] } := by
  rw [Course.withOp, h]

theorem Course.withOp_counted (x : Course) {o : MemOp} {k : Nat} (h : o.cnt = some k) (id : Nat) :
    x.withOp o id = { x with ops := x.ops ++ [{ o with id := id }], outs := x.outs ++ [⟨id, k, false⟩] } := by
  rw [Course.withOp, h]; rfl

/-- An operation whose row names no register to write joins the operations of its course, and does nothing else. -/
theorem State.postOp_of_no_dests {s : State} {x : Course} (hx : s.course? s.iss.course = some x) {i : Instr}
    (hi : (profile i).written = []) {o : MemOp} (ha : o.act ≠ 0) :
    OnlyCourse s (s.postOp i o) s.iss.course ∧
      (s.postOp i o).course? s.iss.course = some (x.withOp o s.uid) := by
  have hopen : ∀ (t : State) (m : Mask) (n : Nat), t.openDests i m n = t := fun t m n => by
    rw [State.openDests, hi]; rfl
  have hx' : s.fresh.2.course? s.iss.course = some x := hx
  have e : s.postOp i o = s.fresh.2.onCourse s.iss.course fun y => y.withOp o s.uid := by
    rw [State.postOp, if_neg ha, hopen]
    rfl
  rw [e]
  exact ⟨(KeepsWrites.bump _ s).1.trans (OnlyCourse.of_onCourse _ _ _), State.course?_onCourse_self hx' _⟩

/-- SLD and SST post one access of slot 0, which no counter counts and no register of the renamed file waits for. -/
theorem exec_scalarAccess_next {s : State} (hs : Issuing s) {i : Instr} {kind : OpKind} {a : SReg} {k : BitVec 9}
    {data : List Word}
    (hi : (∃ d : SReg, i = .sld d a k ∧ kind = .sld d.toNat ∧ data = []) ∨
      (∃ b : SReg, i = .sst a b k ∧ kind = .sst ∧
        data = [(s.iss.src.s b.toNat).setWidth 32, (s.iss.src.s b.toNat >>> 32).setWidth 32])) :
    ∃ o, exec i s = .next (s.postOp i o) ∧ (profile i).written = [] ∧ o.act = s.iss.exec ∧ o.cnt = none ∧ o.kind = kind ∧
      o.cls = 0 ∧ o.lanes = [⟨0, s.iss.src.s a.toNat + .ofInt 64 (8 * k.toInt), data, 0, .pending, none⟩] := by
  rcases hi with ⟨d, rfl, rfl, rfl⟩ | ⟨b, rfl, rfl, rfl⟩
  · exact ⟨_, by rw [exec_sld, execSld, scalarAccess, gated_next hs], rfl, rfl, rfl, rfl, rfl, rfl⟩
  · exact ⟨_, by rw [exec_sst, execSst, scalarAccess, gated_next hs], rfl, rfl, rfl, rfl, rfl, rfl⟩

/-- SAVE posts the pieces of the registers that its mask names, as the bundle found them (R151, R152). -/
theorem exec_save_next {s : State} (hs : Issuing s) (a b : SReg) :
    ∃ o, exec (.save a b) s = .next (s.postOp (.save a b) o) ∧ o.act = s.iss.exec ∧ o.cnt = some 1 ∧ o.kind = .save ∧
      o.cls = 0 ∧ o.lanes = ((namedRegs (s.iss.src.s b.toNat)).map fun v =>
        savePieces s.iss.src.w (s.iss.src.s a.toNat) v (s.iss.src.ve v)).flatten :=
  ⟨_, by rw [exec_save, execSave, gated_next hs], rfl, rfl, rfl, rfl, rfl⟩

/-! #### REST (R153) -/

/-- The write by which REST, the operation op, restores register v (R153). -/
def Flight.restore (id v op : Nat) : Flight :=
  { id := id, v := some v, release := false, mask := 0, vals := [], tag := .und, flags := 0, due := none, ready := false,
    whole := true, op := some op }

/-- One step of `State.openRest` (`State.openRest_eq`). -/
def State.openRestOne (c op : Nat) (p : List (Nat × VEntry) × State) (v : Nat) : List (Nat × VEntry) × State :=
  (p.1 ++ [(v, { VEntry.empty with stamp := p.2.uid })],
    p.2.fresh.2.onCourse c fun x => { x with flights := x.flights ++ [Flight.restore p.2.uid v op] })

theorem State.openRest_eq (s : State) (c op : Nat) (vs : List Nat) :
    s.openRest c op vs = vs.foldl (State.openRestOne c op) ([], s) := rfl

/-- REST opens one write of the whole register for each register that it restores, behind those on their way. -/
theorem State.foldl_openRestOne {c : Nat} (op : Nat) (vs : List Nat) (p : List (Nat × VEntry) × State) {x : Course}
    (hx : p.2.course? c = some x) :
    OnlyCourse p.2 (vs.foldl (State.openRestOne c op) p).2 c ∧ ∃ fs, (vs.foldl (State.openRestOne c op) p).2.course? c =
      some { x with flights := x.flights ++ fs } ∧ ∀ v ∈ vs, ∃ id, Flight.restore id v op ∈ fs := by
  induction vs generalizing p x with
  | nil => exact ⟨OnlyCourse.refl p.2 c, [], by simpa using hx, by simp⟩
  | cons v vs ih =>
    have hx' : p.2.fresh.2.course? c = some x := hx
    have first : OnlyCourse p.2 (State.openRestOne c op p v).2 c :=
      (KeepsWrites.bump c p.2).1.trans (OnlyCourse.of_onCourse p.2.fresh.2 c _)
    obtain ⟨rest, fs, hy, hfs⟩ := ih (State.openRestOne c op p v) (State.course?_onCourse_self hx' _)
    refine ⟨first.trans rest, Flight.restore p.2.uid v op :: fs, by simpa using hy,
      List.forall_mem_cons.2 ⟨⟨p.2.uid, List.mem_cons_self⟩, fun u hu => ?_⟩⟩
    obtain ⟨id, hid⟩ := hfs u hu
    exact ⟨id, List.mem_cons_of_mem _ hid⟩

/-- REST opens the writes of the registers that its mask names, and posts the pieces of their area (R151, R153). -/
theorem exec_rest_next {s : State} (hs : Issuing s) (a b : SReg) :
    ∃ op o, exec (.rest a b) s =
        .next ((s.openRest s.iss.course op (namedRegs (s.iss.src.s b.toNat))).2.postOp (.rest a b) o) ∧
      o.act = s.iss.exec ∧ o.cnt = some 0 ∧ o.kind = .rest ∧ o.cls = 0 ∧
      o.lanes = ((namedRegs (s.iss.src.s b.toNat)).map fun v =>
        areaPieces s.iss.src.w (s.iss.src.s a.toNat) v (fun _ => 0) [0, 0, 0, 0]).flatten :=
  ⟨_, _, by rw [exec_rest, execRest, gated_next hs]; rfl, rfl, rfl, rfl, rfl, rfl⟩

/-- Settles O22: each of the four is one posted operation; REST first opens the writes of the registers it restores. -/
theorem slotZeroAccesses : Obligations.SlotZeroAccesses := by
  refine ⟨fun s x i kind a k data hs ⟨hx, _⟩ he hi => ?_, fun s x a b hs ⟨hx, _⟩ he => ?_, fun s x a b hs ⟨hx, _⟩ he => ?_⟩
  · obtain ⟨o, hexec, hw, hact, hcnt, hkind, hcls, hlanes⟩ := exec_scalarAccess_next hs hi
    obtain ⟨only, hy⟩ := State.postOp_of_no_dests hx hw (hact ▸ he)
    rw [x.withOp_uncounted hcnt] at hy
    exact ⟨_, _, _, hexec, only, hy, rfl, rfl, rfl, rfl, rfl, hkind, hcls, hlanes⟩
  · obtain ⟨o, hexec, hact, hcnt, hkind, hcls, hlanes⟩ := exec_save_next hs a b
    obtain ⟨only, hy⟩ := State.postOp_of_no_dests hx (i := .save a b) rfl (hact ▸ he)
    rw [x.withOp_counted hcnt] at hy
    exact ⟨_, _, { o with id := s.uid }, hexec, only, hy, rfl, hkind, hcls, hlanes⟩
  · obtain ⟨op, o, hexec, hact, hcnt, hkind, hcls, hlanes⟩ := exec_rest_next hs a b
    obtain ⟨opened, fs, hz, hfs⟩ := State.foldl_openRestOne op (namedRegs (s.iss.src.s b.toNat)) ([], s) hx
    rw [← State.openRest_eq] at opened hz
    generalize s.openRest _ _ _ = r at hexec opened hz
    rw [← opened.iss_course] at hz
    obtain ⟨posted, hy⟩ := State.postOp_of_no_dests hz (i := .rest a b) rfl (hact ▸ he)
    rw [opened.iss_course] at posted hy
    rw [Course.withOp_counted _ hcnt] at hy
    refine ⟨_, _, _, hexec, opened.trans posted, hy, rfl, rfl, rfl, rfl, hkind, hcls, hlanes,
      fun f hf => List.mem_append_left _ hf, fun v hv => ?_⟩
    obtain ⟨id, hid⟩ := hfs v hv
    exact ⟨_, List.mem_append_right _ hid, rfl, rfl, rfl⟩

end Sys2Proof.Machine

/-!
# PDONE

The context area is reached and written without touching a course, so the course that leaves is the one whose results have
landed (R60, R66, R154, R227). `f_courses` says of a function of the model that it leaves every course as it is;
`State.KeepsUnit` says of one that it leaves a course in its unit and its frame.
-/

namespace Sys2Proof.Machine

/-! ### What leaves the courses as they are: memory, translation and the context area -/

theorem State.foldl_courses {α : Type} {f : State → α → State} (hf : ∀ t a, (f t a).courses = t.courses) (l : List α)
    (s : State) : (l.foldl f s).courses = s.courses := by
  induction l generalizing s with
  | nil => rfl
  | cons a l ih => rw [List.foldl_cons, ih, hf]

theorem State.foldl_snd_courses {α β : Type} {f : β × State → α → β × State}
    (hf : ∀ p a, (f p a).2.courses = p.2.courses) (l : List α) (p : β × State) : (l.foldl f p).2.courses = p.2.courses := by
  induction l generalizing p with
  | nil => rfl
  | cons a l ih => rw [List.foldl_cons, ih, hf]

@[simp] theorem State.writeQ_courses (s : State) (pa : Nat) (v : DWord) : (s.writeQ pa v).courses = s.courses := by
  simp [State.writeQ]

@[simp] theorem State.lineReq_courses (s : State) (die pa : Nat) : (s.lineReq die pa).courses = s.courses := by
  simp [State.lineReq]

@[simp] theorem State.entryAt_courses (s : State) (ctx level pa : Nat) (va : DWord) :
    (s.entryAt ctx level pa va).2.2.courses = s.courses := by
  unfold State.entryAt
  extract_lets e s1 olds c pick s2 known
  have h2 : s2.courses = s.courses := by simp [s2, c, s1]
  split <;> exact h2

@[simp] theorem State.leafAt_courses (s : State) (level pa : Nat) (home e : DWord) (stale : Bool) (va : DWord) (use : Use) :
    (s.leafAt level pa home e stale va use).2.courses = s.courses := by
  unfold State.leafAt
  extract_lets size deny bits s1 addr
  have h1 : s1.courses = s.courses := by unfold s1; split <;> simp
  split
  · rfl
  · clear_value deny
    (repeat' split) <;> exact h1

@[simp] theorem State.walk_courses (s : State) (ctx : Nat) (va : DWord) (use : Use) (cached : Bool) (lv table : Nat) :
    (s.walk ctx va use cached lv table).2.courses = s.courses := by
  induction lv generalizing s table with
  | zero => rfl
  | succ lv ih =>
    rw [State.walk]
    extract_lets r e s1 base es all c g g' leaf
    have h1 : s1.courses = s.courses := by unfold s1 r; split <;> simp
    have hc : c.2.courses = s.courses := by unfold c; split <;> simp [h1]
    split
    · rfl
    split
    · (repeat' split) <;> simp [hc]
    split
    · exact h1
    · (repeat' split) <;> simp [ih, h1]

@[simp] theorem State.walks_courses (s : State) (ctx : Nat) (va : DWord) (use : Use) (root : Nat) :
    (s.walks ctx va use root).2.courses = s.courses := by
  unfold State.walks
  dsimp only
  split <;> simp

@[simp] theorem State.translate_courses (s : State) (ctx : Nat) (va : DWord) (use : Use) :
    (s.translate ctx va use).2.courses = s.courses := by
  unfold State.translate
  dsimp only
  (repeat' split) <;> simp

@[simp] theorem State.pageFault_courses (s : State) (ctx : Nat) (va : DWord) (kind : Nat) (inWalk : Bool) (die : Nat)
    (lnch : Word) : (s.pageFault ctx va kind inWalk die lnch).2.courses = s.courses := by
  unfold State.pageFault
  dsimp only
  split <;> rfl

@[simp] theorem State.reach_courses (s : State) (ctx : Nat) (va : DWord) (use : Use) (die : Nat) (lnch : Word)
    (flt : Option Nat) : (s.reach ctx va use die lnch flt).2.courses = s.courses := by
  unfold State.reach
  extract_lets x go
  have hgo : go.2.courses = s.courses := by unfold go; split <;> simp [x]
  clear_value go
  split
  · exact hgo
  · split
    · rfl
    · exact hgo
    · rfl
    · rfl

@[simp] theorem State.reachAll_courses (s : State) (ctx : Nat) (va : DWord) (n : Nat) (use : Use) (die : Nat) (lnch : Word)
    (flt : Option Nat) : (s.reachAll ctx va n use die lnch flt).2.courses = s.courses := by
  unfold State.reachAll
  refine State.foldl_snd_courses (fun p i => ?_) _ _
  dsimp only
  (repeat' split) <;> simp

@[simp] theorem State.hwPa_courses (s : State) (ctx : Nat) (va : DWord) (use : Use) :
    (s.hwPa ctx va use).2.courses = s.courses := by
  unfold State.hwPa
  dsimp only
  split <;> simp

@[simp] theorem State.hwWrite_courses (s : State) (ctx : Nat) (va : DWord) (bs : List Byte) :
    (s.hwWrite ctx va bs).2.courses = s.courses := by
  unfold State.hwWrite
  dsimp only
  split <;> simp

@[simp] theorem State.putBytes_courses (s : State) (ctx : Nat) (va : DWord) (bs : List Byte) :
    (s.putBytes ctx va bs).courses = s.courses := by
  unfold State.putBytes State.hwWrites
  refine State.foldl_snd_courses (fun p a => ?_) _ _
  split <;> simp

@[simp] theorem State.areaReqs_courses (s : State) (die ctx : Nat) (l : List (DWord × Nat)) :
    (s.areaReqs die ctx l).courses = s.courses := by
  unfold State.areaReqs
  refine State.foldl_courses (fun t va => ?_) _ _
  split <;> simp

@[simp] theorem State.putBacking_courses (s : State) (l : Loc) (e : VEntry) : (s.putBacking l e).courses = s.courses := by
  simp [State.putBacking]

@[simp] theorem State.storeRecord_courses (s : State) (c : Nat) (f : Frame) : (s.storeRecord c f).courses = s.courses := by
  unfold State.storeRecord State.putArea
  dsimp only
  rw [State.foldl_courses fun t p => State.putBytes_courses ..]
  simp

@[simp] theorem State.blockLeaves_courses (s : State) (b : Nat) : (s.blockLeaves b).courses = s.courses := by
  unfold State.blockLeaves
  dsimp only
  split <;> simp

/-! ### What leaves a course in its unit, with its frame -/

/-- A course that stands goes on standing, in its unit and with its frame. -/
def State.KeepsUnit (c : Nat) (s t : State) : Prop :=
  ∀ x, s.course? c = some x → ∃ y, t.course? c = some y ∧ y.info = x.info ∧ y.frame = x.frame

theorem State.KeepsUnit.refl (c : Nat) (s : State) : State.KeepsUnit c s s := fun x h => ⟨x, h, rfl, rfl⟩

theorem State.KeepsUnit.trans {c : Nat} {s t u : State} (h : State.KeepsUnit c s t) (k : State.KeepsUnit c t u) :
    State.KeepsUnit c s u := fun x hx => by
  obtain ⟨y, hy, yi, yf⟩ := h x hx
  obtain ⟨z, hz, zi, zf⟩ := k y hy
  exact ⟨z, hz, zi.trans yi, zf.trans yf⟩

theorem State.KeepsUnit.of_courses {c : Nat} {s t : State} (h : t.courses = s.courses) : State.KeepsUnit c s t :=
  fun x hx => ⟨x, by rw [State.course?, h]; exact hx, rfl, rfl⟩

theorem State.KeepsUnit.onCourse (c : Nat) (s : State) (d : Nat) {g : Course → Course} (hi : ∀ x, (g x).info = x.info)
    (hf : ∀ x, (g x).frame = x.frame) : State.KeepsUnit c s (s.onCourse d g) := fun x hx => by
  by_cases hd : c = d
  · subst hd
    exact ⟨g x, State.course?_onCourse_self hx g, hi x, hf x⟩
  · exact ⟨x, (State.course?_onCourse_ne hd g).trans hx, rfl, rfl⟩

theorem State.KeepsUnit.foldl {α : Type} {c : Nat} {f : State → α → State} (h : ∀ s a, State.KeepsUnit c s (f s a))
    (l : List α) (s : State) : State.KeepsUnit c s (l.foldl f s) := by
  induction l generalizing s with
  | nil => exact State.KeepsUnit.refl c s
  | cons a l ih => exact (h s a).trans (ih _)

theorem State.pushWindow_keepsUnit (c : Nat) (s : State) (d : Nat) (f : Flight) :
    State.KeepsUnit c s (s.pushWindow d f) := by
  unfold State.pushWindow
  split
  · exact State.KeepsUnit.refl c s
  · exact State.KeepsUnit.onCourse c s _ (fun _ => rfl) fun _ => rfl

theorem State.switchReg_keepsUnit (c : Nat) (s : State) (d v n : Nat) : State.KeepsUnit c s (s.switchReg d v n) := by
  induction n generalizing s with
  | zero => exact State.KeepsUnit.refl c s
  | succ n ih =>
    rw [State.switchReg]
    dsimp only
    split
    · exact State.KeepsUnit.refl c s
    next f _ =>
      have taken := State.KeepsUnit.onCourse c s d (g := fun y =>
        ({ y with flights := y.flights.filter fun g => g.id != f.id } : Course).drain) (fun _ => rfl) fun _ => rfl
      split
      · exact State.KeepsUnit.refl c s
      refine (taken.trans ?_).trans (ih _)
      split
      · exact State.pushWindow_keepsUnit c _ d f
      · exact State.KeepsUnit.onCourse c _ d (fun _ => rfl) fun _ => rfl

theorem State.landFlight_keepsUnit (c : Nat) (s : State) (d id : Nat) : State.KeepsUnit c s (s.landFlight d id) := by
  unfold State.landFlight
  split
  · exact State.KeepsUnit.refl c s
  next f _ =>
    have raised := State.KeepsUnit.onCourse c s d (g := fun y =>
      { y.raise f.flags with flights := y.flights.map fun g => if g.id = id then { g with ready := true } else g })
      (fun _ => rfl) fun _ => rfl
    dsimp only
    split
    · exact raised.trans (State.KeepsUnit.onCourse c _ d (fun _ => rfl) fun _ => rfl)
    · exact raised.trans (State.switchReg_keepsUnit c _ d _ _)

/-- The landing of a course's results changes no unit and no frame (R66, R150). -/
theorem State.landAll_keepsUnit (c : Nat) (s : State) (d : Nat) : State.KeepsUnit c s (s.landAll d) :=
  State.KeepsUnit.foldl (fun t i => State.landFlight_keepsUnit c t d i) _ s

theorem State.areaReach_keepsUnit (c : Nat) (s : State) (d : Nat) (va : DWord) (n : Nat) (use : Use) :
    State.KeepsUnit c s (s.areaReach d va n use).2 := by
  have reached : ∀ flt, State.KeepsUnit c s
      (s.reachAll (s.course d).info.ctx va n use (s.course d).info.die (s.course d).info.lnch flt).2 :=
    fun flt => State.KeepsUnit.of_courses (State.reachAll_courses ..)
  unfold State.areaReach
  dsimp only
  split
  · exact (reached _).trans (State.KeepsUnit.onCourse c _ d (fun _ => rfl) fun _ => rfl)
  · exact (reached _).trans (State.KeepsUnit.onCourse c _ d (fun _ => rfl) fun _ => rfl)
  · exact reached _

/-- Accesses of the hardware to the context area change no unit and no frame (R533). -/
theorem State.areaReaches_keepsUnit (c : Nat) (s : State) (l : List (Nat × DWord × Nat)) (use : Use) :
    State.KeepsUnit c s (s.areaReaches l use).2 := by
  unfold State.areaReaches
  generalize some true = r
  induction l generalizing r s with
  | nil => exact State.KeepsUnit.refl c s
  | cons p l ih =>
    rw [List.foldl_cons]
    dsimp only
    split
    · exact (State.areaReach_keepsUnit c s _ _ _ _).trans (ih _ _)
    · exact ih s r

/-! ### The course leaves (R154, R223) -/

/-- A course alone in its unit leaves alone. -/
theorem State.leavers_alone {s : State} {c : Nat} {x : Course} (hx : s.course? c = some x) (hp : x.info.partner = none) :
    s.leavers c = [c] := by
  simp [State.leavers, State.unit, State.course_of_some hx, hp]

/-- A course alone in its unit has no partner to wait for (R223). -/
theorem State.partnerStays_alone {s : State} {c : Nat} {x : Course} (hx : s.course? c = some x)
    (hp : x.info.partner = none) : s.partnerStays c = false := by
  simp [State.partnerStays, State.course_of_some hx, hp]

/-- A course with a frame stores its record and goes away with its registers freed (R154). -/
theorem State.goAway_of_frame {s : State} {c : Nat} {x : Course} {f : Frame} (hx : s.course? c = some x)
    (hf : x.frame = some f) :
    s.goAway c = (s.storeRecord c f).leave c .away (List.replicate 64 VEntry.empty) (some f) := by
  simp only [State.goAway, State.course_of_some hx, hf]

/-- PDONE of a course alone in its unit, with its area there: the results land, the record is stored and the course
leaves. -/
theorem State.pdone_alone {s u : State} {c : Nat} {x y : Course} {f : Frame} (hx : s.course? c = some x)
    (hp : x.info.partner = none) (hu : s.areaReaches (s.recordPlaces c) .write = (some true, u))
    (hy : (u.landAll c).course? c = some y) (hyp : y.info.partner = none) (hyf : y.frame = some f) (pc : Word) (m : Mask) :
    s.pdone c pc m = ((u.landAll c).storeRecord c f).leave c .away (List.replicate 64 VEntry.empty) (some f) := by
  have places : ((s.leavers c).map s.recordPlaces).flatten = s.recordPlaces c := by
    rw [State.leavers_alone hx hp, List.map_singleton, List.flatten_singleton]
  unfold State.pdone
  rw [places, hu]
  dsimp only
  rw [State.partnerStays_alone hy hyp, Bool.and_false, if_neg Bool.false_ne_true, State.leavers_alone hy hyp]
  exact State.goAway_of_frame hy hyf

/-- The course as its area is reached and its results land: it stays in its unit, with its frame. -/
theorem State.landed_keepsUnit {s u : State} {c : Nat}
    (hu : s.areaReaches (s.recordPlaces c) .write = (some true, u)) : State.KeepsUnit c s (u.landAll c) := by
  have reached := State.areaReaches_keepsUnit c s (s.recordPlaces c) .write
  rw [hu] at reached
  exact reached.trans (State.landAll_keepsUnit c u c)

/-- A course as it stands when it has left its core (R154, R226). -/
def Course.left (x : Course) (p : Presence) (v : List VEntry) (f : Option Frame) : Course :=
  { x with qin := x.qin.map fun e => (e.1, { e.2 with st := .spilled, xfer := .none }), pres := p, v := v, flights := [],
           convs := [], pre := none, frame := f, recErrs := x.pend.length, fetch := none, area := none }

theorem State.leave_course? {s : State} {c : Nat} {x : Course} (hx : s.course? c = some x) (p : Presence)
    (v : List VEntry) (f : Option Frame) : (s.leave c p v f).course? c = some (x.left p v f) := by
  have hpark : (s.parkWindow c).course? c = some
      { x with qin := x.qin.map fun e => (e.1, { e.2 with st := .spilled, xfer := .none }) } := by
    refine State.course?_onCourse_self ?_ _
    rw [State.course?, State.foldl_courses fun t e => State.putBacking_courses ..]
    exact hx
  unfold State.leave
  rw [State.course?, State.blockLeaves_courses]
  exact State.course?_onCourse_self hpark _

/-- Settles O23: PDONE ends in `State.leave` of the course whose results have landed, which `State.leave_course?`
describes. -/
theorem preemptDone : Obligations.PreemptDone := by
  refine ⟨fun s hs => by rw [exec_pdone, execPdone, gated_next hs], fun s u z c x f pc m hx hp hf hu hz => ?_⟩
  subst hz
  obtain ⟨y, hy, hinfo, hframe⟩ := State.landed_keepsUnit hu x hx
  have hdone := State.pdone_alone hx hp hu hy (by rw [hinfo, hp]) (hframe.trans hf) pc m
  have hstored : ((u.landAll c).storeRecord c f).course? c = some y := by
    rw [State.course?, State.storeRecord_courses]; exact hy
  have hleft := State.leave_course? hstored .away (List.replicate 64 VEntry.empty) (some f)
  rw [← hdone] at hleft
  refine ⟨hdone, _, hleft, rfl, rfl, rfl, rfl, ?_, ?_⟩
  · rw [State.course_of_some hy]; rfl
  · rw [State.course_of_some hy]; rfl

end Sys2Proof.Machine

/-!
# The access of one lane

What a read and a write of one lane do to memory and to the L1 of the core (R220, R240, R254, R257, R262 to R265, R278, R406).
A line of an L1 is looked up by `State.l1?`, and the lemmas about it say what each action of the cache makes of that
lookup; `SameMemory`, `BytesWritten` and `WrittenBack` speak of memory alone, so each follows from what an action makes of
the list of cells.
-/

namespace Sys2Proof.Machine

/-! ### Frames of memory -/

theorem SameMemory.of_mem {s t : State} (h : t.mem = s.mem) : SameMemory s t := fun a => by rw [h]

theorem BytesWritten.of_cellPuts {s t : State} {pa : Nat} {bs : List Byte} (wf : s.MemWf) (h : t.mem = cellPuts pa bs s.mem) :
    BytesWritten s t pa bs := fun a => by
  rw [h]; exact cellGet_cellPuts wf

theorem WrittenBack.congr {s t s' t' : State} {l : L1Line} (h : WrittenBack s t l) (hs : s'.mem = s.mem)
    (ht : t'.mem = t.mem) : WrittenBack s' t' l := by
  unfold WrittenBack BytesWritten at h ⊢
  rwa [hs, ht]

theorem MayEvict.congr {s t s' t' : State} {k : Nat × Nat} (h : MayEvict s t k) (hs : s'.mem = s.mem)
    (hc : s'.core k = s.core k) (ht : t'.mem = t.mem) : MayEvict s' t' k := by
  rcases h with same | ⟨l, hl, back⟩
  · exact .inl fun a => by rw [hs, ht]; exact same a
  · exact .inr ⟨l, hc ▸ hl, back.congr hs ht⟩

/-! ### What the actions of the caches leave as it is -/

@[simp] theorem State.storePa_mem (s : State) (pa : Nat) (bs : List Byte) : (s.storePa pa bs).mem = cellPuts pa bs s.mem := rfl
@[simp] theorem State.storePa_cores (s : State) (pa : Nat) (bs : List Byte) : (s.storePa pa bs).cores = s.cores := rfl
@[simp] theorem State.storePa_blocks (s : State) (pa : Nat) (bs : List Byte) : (s.storePa pa bs).blocks = s.blocks := rfl

@[simp] theorem State.lineReqOnce_cores (s : State) (die pa : Nat) (again : Bool) :
    (s.lineReqOnce die pa again).cores = s.cores := by
  unfold State.lineReqOnce; split <;> rfl

@[simp] theorem State.lineReqOnce_blocks (s : State) (die pa : Nat) (again : Bool) :
    (s.lineReqOnce die pa again).blocks = s.blocks := by
  unfold State.lineReqOnce; split <;> rfl

@[simp] theorem State.writeBack_blocks (s : State) (k : Nat × Nat) (l : L1Line) : (s.writeBack k l).blocks = s.blocks := by
  unfold State.writeBack
  split
  · rfl
  · rw [State.onCore_blocks]
    split <;> simp [State.lineReq]

@[simp] theorem State.allocLine_blocks (s : State) (k : Nat × Nat) (line : Nat) : (s.allocLine k line).blocks = s.blocks := by
  unfold State.allocLine
  extract_lets same c s1
  have h1 : s1.blocks = s.blocks := by
    unfold s1
    split
    · rfl
    · split <;> simp [State.evict, c]
  rw [State.onCore_blocks, State.dieUse_blocks, h1]

@[simp] theorem State.l1Update_blocks (s : State) (k : Nat × Nat) (pa : Nat) (bs : List Byte) (blk : Nat) :
    (s.l1Update k pa bs blk).blocks = s.blocks := rfl

@[simp] theorem State.l1Store_blocks (s : State) (k : Nat × Nat) (pa : Nat) (bs : List Byte) (nt again : Bool) (blk : Nat) :
    (s.l1Store k pa bs nt again blk).blocks = s.blocks := by
  unfold State.l1Store
  split
  · rfl
  · dsimp only
    split <;> simp

@[simp] theorem State.visible_cores (s : State) (blk : Nat) : (s.visible blk).cores = s.cores := by simp [State.visible]

/-! ### The lookup of a line (R240) -/

theorem State.core_of_cores {s t : State} (h : t.cores = s.cores) (k : Nat × Nat) : t.core k = s.core k := by
  unfold State.core; rw [h]

theorem State.l1?_of_core {s t : State} {k : Nat × Nat} (h : t.core k = s.core k) (line : Nat) :
    t.l1? k line = s.l1? k line := by
  unfold State.l1?; rw [h]

theorem State.lent_of_core {s t : State} {k : Nat × Nat} (h : t.core k = s.core k) : t.lent k = s.lent k := by
  unfold State.lent; rw [h]

theorem State.l1?_line {s : State} {k : Nat × Nat} {line : Nat} {l : L1Line} (h : s.l1? k line = some l) : l.line = line := by
  simpa using List.find?_some h

/-- An action on the lines of an L1 that keeps their addresses acts on the line that is looked up. -/
theorem State.l1?_onCore_map (s : State) (k : Nat × Nat) {f : L1Line → L1Line} (hf : ∀ l, (f l).line = l.line) (line : Nat) :
    (s.onCore k fun c => { c with l1 := c.l1.map f }).l1? k line = (s.l1? k line).map f := by
  have same : ((fun l : L1Line => l.line == line) ∘ f) = fun l : L1Line => l.line == line := by
    funext l; simp [hf]
  simp only [State.l1?, State.core_onCore_self, List.find?_map, same]

@[simp] theorem State.l1?_l1Update (s : State) (k : Nat × Nat) (pa : Nat) (bs : List Byte) (blk : Nat) :
    (s.l1Update k pa bs blk).l1? k (lineOf pa) = (s.l1? k (lineOf pa)).map fun l => l.put (pa % 64) bs blk := by
  refine (State.l1?_onCore_map s k (fun l => by split <;> rfl) _).trans ?_
  refine Option.map_congr fun l hl => if_pos (State.l1?_line hl)

/-- The copy of a line after bytes of it were written at its home (R278, R406). -/
def L1Line.patched (l : L1Line) (off : Nat) (bs : List Byte) : L1Line :=
  { l.cleaned off bs.length with bytes := putBytes l.bytes off bs }

@[simp] theorem State.l1?_patchL1 (s : State) (k : Nat × Nat) (pa : Nat) (bs : List Byte) :
    (s.patchL1 k pa bs).l1? k (lineOf pa) = (s.l1? k (lineOf pa)).map fun l => l.patched (pa % 64) bs := by
  refine (State.l1?_onCore_map s k (fun l => by split <;> rfl) _).trans ?_
  refine Option.map_congr fun l hl => if_pos (State.l1?_line hl)

theorem State.l1?_writeBoth (s : State) (k : Nat × Nat) (pa : Nat) (bs : List Byte) :
    (s.writeBoth k pa bs).l1? k (lineOf pa) = (s.l1? k (lineOf pa)).map fun l => l.patched (pa % 64) bs :=
  (s.storePa pa bs).l1?_patchL1 k pa bs

@[simp] theorem State.writeBoth_mem (s : State) (k : Nat × Nat) (pa : Nat) (bs : List Byte) :
    (s.writeBoth k pa bs).mem = cellPuts pa bs s.mem := rfl

/-- Bytes put twice at one place of a line are put once. -/
theorem putBytes_putBytes (l : List Byte) (off : Nat) (bs : List Byte) :
    putBytes (putBytes l off bs) off bs = putBytes l off bs := by
  refine List.ext_getElem (by simp [putBytes]) fun i _ _ => ?_
  simp only [putBytes, List.getElem_map, List.getElem_zipIdx]
  split <;> rfl

/-! ### Writing back and driving out (R240) -/

theorem getD_mergeDirty (m : Mask) (new old : List Byte) {i : Nat} (h : i < 64) :
    (mergeDirty m new old).getD i 0 = if Mask.has m i then new.getD i 0 else old.getD i 0 :=
  getD_map_range h _ 0

/-- The dirty bytes of a line put over the bytes of its home. -/
theorem cellGet_mergeDirty {m : List Host.Cell} (wf : Memory.wf m = true) (line : Nat) (d : Mask) (bs : List Byte) (a : Nat) :
    cellGet a (cellPuts line (mergeDirty d bs (cellGets m line 64)) m) =
      if line ≤ a ∧ a < line + 64 ∧ Mask.has d (a - line) = true then bs.getD (a - line) 0 else cellGet a m := by
  have len : (mergeDirty d bs (cellGets m line 64)).length = 64 := by simp [mergeDirty]
  rw [cellGet_cellPuts wf, len]
  by_cases h : line ≤ a ∧ a < line + 64
  · have hi : a - line < 64 := by omega
    have old : (cellGets m line 64).getD (a - line) 0 = cellGet a m := by
      rw [cellGets, getD_map_range hi, Nat.add_sub_cancel' h.1]
    simp only [h, getD_mergeDirty d _ _ hi, old, true_and, and_self, if_true]
  · rw [if_neg h, if_neg fun g => h ⟨g.1, g.2.1⟩]

theorem State.writeBack_mem (s : State) (k : Nat × Nat) (l : L1Line) :
    (s.writeBack k l).mem = if l.dirty = 0 then s.mem else if l.dirty = L1Line.full then cellPuts l.line l.bytes s.mem
      else cellPuts l.line (mergeDirty l.dirty l.bytes (cellGets s.mem l.line 64)) s.mem := by
  unfold State.writeBack
  split
  · rfl
  · rw [State.onCore_mem]
    split <;> simp [State.readPa, State.pokePa]

/-- A write-back is what its name says, of a clean line as well. -/
theorem State.writeBack_writtenBack {s : State} (wf : s.MemWf) (k : Nat × Nat) (l : L1Line) :
    WrittenBack s (s.writeBack k l) l := by
  unfold WrittenBack
  by_cases full : l.dirty = L1Line.full
  · have dirty : l.dirty ≠ 0 := by rw [full]; decide
    rw [if_pos full]
    refine BytesWritten.of_cellPuts wf ?_
    rw [State.writeBack_mem, if_neg dirty, if_pos full]
  · rw [if_neg full, State.writeBack_mem, if_neg full]
    intro a
    by_cases clean : l.dirty = 0
    · rw [if_pos clean, if_neg]
      simp [clean, Mask.has]
    · rw [if_neg clean]
      exact cellGet_mergeDirty wf l.line l.dirty l.bytes a

theorem State.writeBack_l1?_none {s : State} {k : Nat × Nat} {line : Nat} (h : s.l1? k line = none) (l : L1Line) :
    (s.writeBack k l).l1? k line = none := by
  unfold State.writeBack
  split
  · exact h
  · rw [State.l1?_onCore_map _ _ (fun x => by split <;> rfl), Option.map_eq_none_iff,
      State.l1?_of_core (State.core_of_cores (s := s) ?_ k), h]
    split <;> simp [State.lineReq]

@[simp] theorem State.evict_mem (s : State) (k : Nat × Nat) (l : L1Line) : (s.evict k l).mem = (s.writeBack k l).mem := rfl

theorem State.evict_l1?_none {s : State} {k : Nat × Nat} {line : Nat} (h : s.l1? k line = none) (l : L1Line) :
    (s.evict k l).l1? k line = none := by
  have back := State.writeBack_l1?_none h l
  unfold State.evict
  rw [State.l1?, State.core_onCore_self]
  rw [State.l1?, List.find?_eq_none] at back
  exact List.find?_eq_none.mpr fun x hx => back x (List.mem_filter.mp hx).1

/-- A line that is brought in stands clean, with the bytes of its home, and at most one other line was driven out. -/
theorem State.allocLine_spec {s : State} (wf : s.MemWf) {k : Nat × Nat} {line : Nat} (h : s.l1? k line = none) :
    MayEvict s (s.allocLine k line) k ∧
      (s.allocLine k line).l1? k line = some ⟨line, (s.allocLine k line).readPa line 64, 0, []⟩ := by
  unfold State.allocLine
  extract_lets same c s1
  obtain ⟨evicted, gone⟩ : MayEvict s s1 k ∧ s1.l1? k line = none := by
    unfold s1
    split
    · exact ⟨.inl fun _ => rfl, h⟩
    · have hmem : c.2.mem = s.mem := by simp [c]
      have hcore : c.2.core k = s.core k := State.core_of_cores (by simp [c]) k
      have habs : c.2.l1? k line = none := (State.l1?_of_core hcore line).trans h
      split
      next v hv =>
        have hv : v ∈ (s.core k).l1 := (List.mem_filter.mp (List.mem_of_getElem? hv)).1
        exact ⟨.inr ⟨v, hv, (State.writeBack_writtenBack (State.MemWf.of_mem wf hmem) k v).congr hmem.symm rfl⟩,
          State.evict_l1?_none habs v⟩
      · exact ⟨.inl (.of_mem hmem), habs⟩
  refine ⟨evicted.congr rfl rfl (by rw [State.onCore_mem, State.dieUse_mem]), ?_⟩
  rw [State.l1?, State.core_onCore_self, List.find?_append]
  have gone' : ((s1.dieUse false line 64).core k).l1.find? (fun l => l.line == line) = none := gone
  rw [gone']
  simp [State.readPa]

/-- The core's own dirty bytes among some reach their home before those are read there (log entry 26). -/
theorem State.expose_of_clean {s : State} {k : Nat × Nat} {pa n : Nat}
    (h : ∀ l, ¬ (s.l1? k (lineOf pa) = some l ∧ l.dirty &&& byteMask (pa % 64) n ≠ 0)) : s.expose k pa n = s := by
  unfold State.expose
  split
  next l hl => exact if_pos (Decidable.not_not.mp fun dirty => h l ⟨hl, dirty⟩)
  · rfl

theorem State.expose_of_dirty {s : State} {k : Nat × Nat} {pa n : Nat} {l : L1Line} (hl : s.l1? k (lineOf pa) = some l)
    (dirty : l.dirty &&& byteMask (pa % 64) n ≠ 0) : s.expose k pa n = s.writeBack k l := by
  unfold State.expose
  rw [hl]
  exact if_neg dirty

/-! ### Stores of a course (R240, R265, R406) -/

section l1Store
variable {s : State} {k : Nat × Nat} {pa : Nat} {bs : List Byte} {nt again : Bool} {blk : Nat}

theorem State.l1Store_hit {l : L1Line} (h : s.l1? k (lineOf pa) = some l) :
    s.l1Store k pa bs nt again blk = s.l1Update k pa bs blk := by
  rw [State.l1Store, h]

theorem State.l1Store_past (h : s.l1? k (lineOf pa) = none) (past : nt = true ∨ s.lent k = 0) :
    s.l1Store k pa bs nt again blk = (s.lineReqOnce k.1 pa again).storePa pa bs := by
  rw [State.l1Store, h]
  exact if_pos (by simpa using past)

theorem State.l1Store_miss (h : s.l1? k (lineOf pa) = none) (hnt : nt = false) (hlent : s.lent k ≠ 0) :
    s.l1Store k pa bs nt again blk = ((s.lineReqOnce k.1 pa again).allocLine k (lineOf pa)).l1Update k pa bs blk := by
  rw [State.l1Store, h]
  exact if_neg (by simp [hnt, hlent])

end l1Store

/-- The tracker of a block's task, where it has one, takes another line (R406). -/
def State.TrackerRoom (s : State) (blk : Nat) : Prop :=
  ∀ b, s.block? blk = some b → b.task = none ∨ b.mem.tracker.length < 1024

/-- The tracker changes neither memory nor a core, or it is full and the store is written through as well. -/
theorem State.trackStore_cases (s : State) (blk pa : Nat) (va : DWord) (bs : List Byte) :
    ((s.trackStore blk pa va bs).mem = s.mem ∧ (s.trackStore blk pa va bs).cores = s.cores) ∨
      ∃ b, s.block? blk = some b ∧ b.task ≠ none ∧ 1024 ≤ b.mem.tracker.length ∧
        s.trackStore blk pa va bs = s.writeBoth (b.die, b.core) pa bs := by
  cases hb : s.block? blk with
  | none => exact .inl (by simp [State.trackStore, hb])
  | some b =>
    cases ht : b.task with
    | none => exact .inl (by simp [State.trackStore, hb, ht])
    | some t =>
      cases htk : tget t s.tasks with
      | none => exact .inl (by simp [State.trackStore, hb, ht, htk])
      | some tk =>
        simp only [State.trackStore, hb, ht, htk]
        split
        · exact .inl ⟨rfl, rfl⟩
        split
        · exact .inl (by simp)
        split
        · exact .inl (by simp)
        next full => exact .inr ⟨b, rfl, by simp [ht], by omega, rfl⟩

theorem State.trackStore_of_room {s : State} {blk : Nat} (room : s.TrackerRoom blk) (pa : Nat) (va : DWord) (bs : List Byte) :
    (s.trackStore blk pa va bs).mem = s.mem ∧ (s.trackStore blk pa va bs).cores = s.cores := by
  refine (s.trackStore_cases blk pa va bs).resolve_right ?_
  rintro ⟨b, hb, task, full, -⟩
  have := (room b hb).resolve_left task
  omega

theorem State.TrackerRoom.of_blocks {s t : State} {blk : Nat} (h : s.TrackerRoom blk) (e : t.blocks = s.blocks) :
    t.TrackerRoom blk := by
  unfold State.TrackerRoom State.block? at *
  rwa [e]

theorem State.TrackerRoom.visible {s : State} {blk : Nat} (h : s.TrackerRoom blk) : (s.visible blk).TrackerRoom blk := by
  cases hb : s.block? blk with
  | none => exact h.of_blocks (by rw [State.block?] at hb; simp [State.visible, State.onBlock, hb])
  | some b =>
    intro b' hb'
    rw [State.visible, State.block?_onBlock_self hb, Option.some_inj] at hb'
    subst hb'
    exact h b hb

section storeMem
variable {s : State} {c : Nat} {x : Course} (hx : s.course? c = some x) (va : DWord) (pa : Nat) (nt again : Bool)
  (bs : List Byte)
include hx

/-- A store through the L1: the line, then the tracker where the L1 holds the line. -/
theorem State.storeMem_cached : s.storeMem c va pa true nt again bs =
    let s2 := (s.visible x.info.block).l1Store x.coreKey pa bs nt again x.info.block
    if (s2.l1? x.coreKey (lineOf pa)).isSome then s2.trackStore x.info.block pa va bs else s2 := by
  unfold State.storeMem
  rw [State.course_of_some hx]
  rfl

/-- A store into a line that the L1 holds, as the tracker finds room or not. -/
theorem State.storeMem_hit {t : State} (ht : s.storeMem c va pa true nt again bs = t) {ln : L1Line}
    (hl : s.l1? x.coreKey (lineOf pa) = some ln) :
    ∃ n, t.l1? x.coreKey (lineOf pa) = some n ∧ n.bytes = Sys2Proof.Machine.putBytes ln.bytes (pa % 64) bs ∧
      (s.TrackerRoom x.info.block → n.dirty = ln.dirty ||| byteMask (pa % 64) bs.length ∧ t.mem = s.mem) ∧
      (t.mem = s.mem ∨ t.mem = cellPuts pa bs s.mem) := by
  have hl' : (s.visible x.info.block).l1? x.coreKey (lineOf pa) = some ln :=
    (State.l1?_of_core (State.core_of_cores (s.visible_cores _) _) _).trans hl
  obtain ⟨s2, hs2⟩ : ∃ s2, s2 = (s.visible x.info.block).l1Update x.coreKey pa bs x.info.block := ⟨_, rfl⟩
  have line2 : s2.l1? x.coreKey (lineOf pa) = some (ln.put (pa % 64) bs x.info.block) := by
    rw [hs2, State.l1?_l1Update, hl']; rfl
  have mem2 : s2.mem = s.mem := by simp [hs2]
  have tracked : s2.trackStore x.info.block pa va bs = t := by
    rw [← ht, State.storeMem_cached hx, State.l1Store_hit hl', ← hs2]
    exact (if_pos (by rw [line2]; rfl)).symm
  subst tracked
  rcases s2.trackStore_cases x.info.block pa va bs with ⟨hmem, hcores⟩ | ⟨b, hb, task, full, written⟩
  · exact ⟨_, (State.l1?_of_core (State.core_of_cores hcores _) _).trans line2, rfl, fun _ => ⟨rfl, hmem.trans mem2⟩,
      .inl (hmem.trans mem2)⟩
  · have noRoom : ¬ s.TrackerRoom x.info.block := fun room => by
      have := ((room.visible.of_blocks (by simp [hs2]) : s2.TrackerRoom _) b hb).resolve_left task
      omega
    rw [written]
    have hmem : (s2.writeBoth (b.die, b.core) pa bs).mem = cellPuts pa bs s.mem := by rw [State.writeBoth_mem, mem2]
    by_cases hk : (b.die, b.core) = x.coreKey
    · rw [hk] at hmem ⊢
      rw [State.l1?_writeBoth, line2]
      exact ⟨_, rfl, putBytes_putBytes .., fun room => absurd room noRoom, .inr hmem⟩
    · have other : (s2.writeBoth (b.die, b.core) pa bs).core x.coreKey = s2.core x.coreKey :=
        State.core_onCore_ne (Ne.symm hk) _
      exact ⟨_, (State.l1?_of_core other _).trans line2, rfl, fun room => absurd room noRoom, .inr hmem⟩

/-- A store that finds no line and takes none in is a write at the home (R265). -/
theorem State.storeMem_past (hl : s.l1? x.coreKey (lineOf pa) = none) (past : nt = true ∨ s.lent x.coreKey = 0) :
    (s.storeMem c va pa true nt again bs).mem = cellPuts pa bs s.mem := by
  have hcore : (s.visible x.info.block).core x.coreKey = s.core x.coreKey := State.core_of_cores (s.visible_cores _) _
  rw [State.storeMem_cached hx, State.l1Store_past ((State.l1?_of_core hcore _).trans hl)
    (past.imp_right (State.lent_of_core hcore).trans)]
  have none2 : (((s.visible x.info.block).lineReqOnce x.coreKey.1 pa again).storePa pa bs).l1? x.coreKey (lineOf pa) = none :=
    (State.l1?_of_core (State.core_of_cores (by simp) _) _).trans hl
  dsimp only
  rw [none2]
  simp

/-- A store that finds no line and takes it in: the line holds its home's bytes with the store's, and those are dirty. -/
theorem State.storeMem_miss {t : State} (ht : s.storeMem c va pa true false again bs = t) (wf : s.MemWf)
    (hl : s.l1? x.coreKey (lineOf pa) = none) (hlent : s.lent x.coreKey ≠ 0) (room : s.TrackerRoom x.info.block) :
    MayEvict s t x.coreKey ∧ ∃ n, t.l1? x.coreKey (lineOf pa) = some n ∧ n.dirty = byteMask (pa % 64) bs.length ∧
      n.bytes = Sys2Proof.Machine.putBytes (t.readPa (lineOf pa) 64) (pa % 64) bs := by
  obtain ⟨s1, hs1⟩ : ∃ s1, s1 = (s.visible x.info.block).lineReqOnce x.coreKey.1 pa again := ⟨_, rfl⟩
  have mem1 : s1.mem = s.mem := by simp [hs1]
  have core1 : s1.core x.coreKey = s.core x.coreKey := State.core_of_cores (by simp [hs1]) _
  have core0 : (s.visible x.info.block).core x.coreKey = s.core x.coreKey := State.core_of_cores (s.visible_cores _) _
  obtain ⟨evicted, line⟩ := State.allocLine_spec (State.MemWf.of_mem wf mem1) ((State.l1?_of_core core1 _).trans hl)
  obtain ⟨s2, hs2⟩ : ∃ s2, s2 = (s1.allocLine x.coreKey (lineOf pa)).l1Update x.coreKey pa bs x.info.block := ⟨_, rfl⟩
  have mem2 : s2.mem = (s1.allocLine x.coreKey (lineOf pa)).mem := by simp [hs2]
  have line2 : s2.l1? x.coreKey (lineOf pa) = some
      (L1Line.put ⟨lineOf pa, s2.readPa (lineOf pa) 64, 0, []⟩ (pa % 64) bs x.info.block) := by
    rw [State.readPa, mem2, hs2, State.l1?_l1Update, line]; rfl
  have tracked : s2.trackStore x.info.block pa va bs = t := by
    rw [← ht, State.storeMem_cached hx, State.l1Store_miss ((State.l1?_of_core core0 _).trans hl) rfl
      (by rwa [State.lent_of_core core0]), ← hs1, ← hs2]
    exact (if_pos (by rw [line2]; rfl)).symm
  obtain ⟨hmem, hcores⟩ := State.trackStore_of_room (s := s2) (room.visible.of_blocks (by simp [hs2, hs1])) pa va bs
  rw [tracked] at hmem hcores
  refine ⟨evicted.congr mem1.symm core1.symm (hmem.trans mem2), _,
    (State.l1?_of_core (State.core_of_cores hcores _) _).trans line2, by simp [L1Line.put], ?_⟩
  rw [State.readPa, State.readPa, hmem]; rfl

theorem State.storeMem_uncached : s.storeMem c va pa false nt again bs =
    ((s.visible x.info.block).lineReqOnce x.info.die pa again).writeBoth x.coreKey pa bs := by
  unfold State.storeMem
  rw [State.course_of_some hx]
  rfl

theorem State.storeThrough_eq : s.storeThrough c pa again bs =
    ((s.visible x.info.block).lineReqOnce x.info.die pa again).writeBoth x.coreKey pa bs := by
  unfold State.storeThrough
  rw [State.course_of_some hx]

end storeMem

/-! ### Loads through the L1 (R240, R265) -/

/-- A load through the L1 of a line that it holds takes the line's bytes (R240). -/
theorem State.l1Load_hit {s : State} {k : Nat × Nat} {pa : Nat} {l : L1Line} (h : s.l1? k (lineOf pa) = some l) (n : Nat)
    (nt again : Bool) : s.l1Load k pa n nt again = ((List.range n).map fun i => l.bytes.getD (pa % 64 + i) 0, s) := by
  rw [State.l1Load, h]

/-- A load through the L1 of a line that it does not hold takes the home's bytes, and takes the line in or not. -/
theorem State.l1Load_miss {s : State} {k : Nat × Nat} {pa : Nat} (h : s.l1? k (lineOf pa) = none) (n : Nat)
    (nt again : Bool) : s.l1Load k pa n nt again = (s.readPa pa n,
      if nt || s.lent k = 0 then (s.lineReqOnce k.1 pa again).dieUse false pa n
      else (s.lineReqOnce k.1 pa again).allocLine k (lineOf pa)) := by
  rw [State.l1Load, h]

/-! ### The place of an access -/

@[simp] theorem State.place_courses (s : State) (c : Nat) (o : MemOp) (l : LaneAcc) (use : Use) :
    (s.place c o l use).2.courses = s.courses := by
  unfold State.place State.placeVa
  dsimp only
  (repeat' split) <;> simp

theorem State.course?_of_place {s u : State} {c : Nat} {o : MemOp} {l : LaneAcc} {use : Use} {p : Place} {x : Course}
    (hx : s.course? c = some x) (hp : s.place c o l use = (p, u)) : u.course? c = some x := by
  have hu : u.courses = s.courses := by rw [← s.place_courses c o l use, hp]
  rw [State.course?, hu]
  exact hx

section laneAccess
variable {s u : State} {c : Nat} {x : Course} {o : MemOp} {l : LaneAcc} (hx : s.course? c = some x)
include hx

/-! ### Reads of one lane (R262) -/

theorem State.laneRead_scratch {off : Nat} (hp : s.place c o l .read = (.scratch off, u)) (again sx home : Bool) :
    s.laneRead c o l again sx home = (l.ok (toWords sx ((s.blockMem x.info.block).read off (o.size l))), u) := by
  simp only [State.laneRead, hp, State.course_of_some hx]

/-- A read at the home, with the core's own dirty bytes written back first. -/
theorem State.laneRead_home {pa : Nat} {cached home : Bool} (hp : s.place c o l .read = (.mem pa cached, u))
    (past : cached = false ∨ home = true) (again sx : Bool)
    (good : (u.expose x.coreKey pa (o.size l)).lineBad x.coreKey pa = false) :
    s.laneRead c o l again sx home = (l.ok (toWords sx ((u.expose x.coreKey pa (o.size l)).readPa pa (o.size l))),
      ((u.expose x.coreKey pa (o.size l)).lineReqOnce x.info.die pa again).dieUse false pa (o.size l)) := by
  have exposes : (home || !cached) = true := by rcases past with rfl | rfl <;> simp
  have homes : (cached && !home) = false := by rcases past with rfl | rfl <;> simp
  simp [State.laneRead, hp, State.course_of_some hx, exposes, homes, good]

/-- A read through the L1. -/
theorem State.laneRead_cached {pa : Nat} (hp : s.place c o l .read = (.mem pa true, u)) (again sx : Bool)
    (good : u.lineBad x.coreKey pa = false) :
    s.laneRead c o l again sx false = (l.ok (toWords sx (u.l1Load x.coreKey pa (o.size l) o.nt again).1),
      (u.l1Load x.coreKey pa (o.size l) o.nt again).2) := by
  simp [State.laneRead, hp, State.course_of_some hx, good]

/-- A failed line of which the core has no copy fails the lane (R220, R455). -/
theorem State.laneRead_failed {pa : Nat} {cached : Bool} (hp : s.place c o l .read = (.mem pa cached, u))
    (failed : u.lineFailed (lineOf pa) = true) (none : u.l1? x.coreKey (lineOf pa) = none) (again sx home : Bool) :
    (s.laneRead c o l again sx home).1 = l.fail := by
  have exposed : u.expose x.coreKey pa (o.size l) = u := State.expose_of_clean fun ln h => by simp [none] at h
  have bad : u.lineBad x.coreKey pa = true := by simp [State.lineBad, failed, none]
  simp [State.laneRead, hp, State.course_of_some hx, exposed, bad]

/-! ### Writes of one lane (R263 to R265, R278) -/

theorem State.laneWrite_scratch {off : Nat} (hp : s.place c o l .write = (.scratch off, u)) (again through : Bool)
    (bs : List Byte) :
    s.laneWrite c o l again bs through = (l.ok l.data, u.onBlockMem x.info.block fun m => m.write off bs) := by
  simp only [State.laneWrite, hp, State.course_of_some hx]

omit hx in
theorem State.laneWrite_cached {pa : Nat} (hp : s.place c o l .write = (.mem pa true, u)) (again : Bool) (bs : List Byte) :
    s.laneWrite c o l again bs false = (l.ok l.data, u.storeMem c (o.va l) pa true o.nt again bs) := by
  simp [State.laneWrite, hp]

/-- A write at the home, and into the copy of the L1. -/
theorem State.laneWrite_home {pa : Nat} {cached through : Bool} (hp : s.place c o l .write = (.mem pa cached, u))
    (past : cached = false ∨ through = true) (again : Bool) (bs : List Byte) :
    s.laneWrite c o l again bs through = (l.ok l.data,
      ((u.visible x.info.block).lineReqOnce x.info.die pa again).writeBoth x.coreKey pa bs) := by
  have hu := State.course?_of_place hx hp
  simp only [State.laneWrite, hp]
  cases cached with
  | false => rw [Bool.false_and, if_neg Bool.false_ne_true, State.storeMem_uncached hu]
  | true =>
    rw [past.resolve_left nofun, Bool.true_and, if_pos rfl, State.storeThrough_eq hu]

omit hx in
theorem State.laneWrite_fail {sub : Nat} (hp : s.place c o l .write = (.fail sub, u)) (again through : Bool) (bs : List Byte) :
    s.laneWrite c o l again bs through = (l.fail, u.laneFail c o.id l sub) := by
  simp only [State.laneWrite, hp]

end laneAccess

/-- Settles O42, place by place: a scratchpad, the home, the L1, a failed line or a failed address. -/
theorem laneAccesses : Obligations.LaneAccesses := by
  intro s u c x o l bs hx
  refine ⟨?readScratch, ?readHome, ?readCached, ?readFailed, ?writeScratch, ?writeCached, ?writeHome, ?writeFail⟩
  case readScratch => exact fun off sx home again hp => State.laneRead_scratch hx hp again sx home
  case readHome =>
    intro pa cached sx home again hp past wf meets
    refine ⟨_, rfl, State.expose_of_clean, fun ln hln => ?_, fun good => ?_⟩
    · rw [State.expose_of_dirty hln.1 hln.2]
      exact State.writeBack_writtenBack wf x.coreKey ln
    · rw [State.laneRead_home hx hp past again sx good]
      exact ⟨rfl, by simp⟩
  case readCached =>
    intro pa sx again hp good
    rw [State.laneRead_cached hx hp again sx good]
    refine ⟨fun ln hln => by rw [State.l1Load_hit hln], fun hnone wf => ?_⟩
    rw [State.l1Load_miss hnone]
    refine ⟨_, rfl, fun past => ?_, fun hnt hlent => ?_⟩
    · rw [if_pos (by simpa using past)]
      exact .of_mem (by simp)
    · have mem1 : (u.lineReqOnce x.coreKey.1 pa again).mem = u.mem := by simp
      have core1 : (u.lineReqOnce x.coreKey.1 pa again).core x.coreKey = u.core x.coreKey := State.core_of_cores (by simp) _
      obtain ⟨evicted, line⟩ := State.allocLine_spec (State.MemWf.of_mem wf mem1) ((State.l1?_of_core core1 _).trans hnone)
      rw [if_neg (by simp [hnt, hlent])]
      exact ⟨evicted.congr mem1.symm core1.symm rfl, _, line, rfl, rfl⟩
  case readFailed => exact fun pa cached sx home again hp failed hnone => State.laneRead_failed hx hp failed hnone again sx home
  case writeScratch => exact fun off again through hp => State.laneWrite_scratch hx hp again through bs
  case writeCached =>
    intro pa again hp wf room m
    have hu := State.course?_of_place hx hp
    refine ⟨_, State.laneWrite_cached hp again bs, fun ln hln => ?_, fun hnone past => ?_, fun hnone hnt hlent hroom => ?_⟩
    · obtain ⟨n, line, bytes, roomy, written⟩ := State.storeMem_hit hu (o.va l) pa o.nt again bs rfl hln
      exact ⟨n, line, bytes, fun hroom => (roomy hroom).imp_right .of_mem, written.imp .of_mem (.of_cellPuts wf)⟩
    · exact .of_cellPuts wf (State.storeMem_past hu (o.va l) pa o.nt again bs hnone past)
    · rw [hnt]
      exact State.storeMem_miss hu (o.va l) pa again bs rfl wf hnone hlent hroom
  case writeHome =>
    intro pa cached again through hp past wf
    refine ⟨_, State.laneWrite_home hx hp past again bs, .of_cellPuts wf (by simp), fun ln hln => ?_⟩
    rw [State.l1?_writeBoth, State.l1?_of_core (State.core_of_cores (s := u) (by simp) _), hln]
    exact ⟨_, rfl, rfl, rfl⟩
  case writeFail =>
    intro sub again through hp
    rw [State.laneWrite_fail hp]
    exact ⟨rfl, by simp [State.laneFail, State.onOp]⟩

end Sys2Proof.Machine

/-!
# Deadlines, forced saves and resumption

What ends and begins the residence of a course: its deadline, the forced save and the resume (R60, R221 to R226). The results
that land before a save change no more of a course than its flags, its vectors, its counts and the writes on their way
(`Course.OnlyLanded`), so the frame and the trap that the save records are those of the course as it came to rest. The
course that leaves is described by `State.leave_course?`.
-/

namespace Sys2Proof.Machine

/-! ### The deadline (R221, R223) -/

/-- A course that is marked to be force-saved (R223). -/
def Course.overdue (deadline : Nat) (y : Course) : Course :=
  { y with pre := match y.pre with
             | some q => some { q with force := true }
             | none => if y.pres == .resident then some ⟨deadline, true, false, true, false⟩ else none }

theorem Course.overdue_overdue (deadline : Nat) (y : Course) :
    (y.overdue deadline).overdue deadline = y.overdue deadline := by
  unfold Course.overdue
  cases y.pre with
  | some q => rfl
  | none => by_cases here : y.pres == .resident <;> simp [here]

/-- What the mark says of a resident course (R223). -/
theorem Course.overdue_resident (deadline : Nat) {z : Course} (h : z.pres = .resident) :
    ∃ q, q.force = true ∧ (∀ r, z.pre = some r → q = { r with force := true }) ∧
      z.overdue deadline = { z with pre := some q } := by
  unfold Course.overdue
  cases z.pre with
  | some r => exact ⟨{ r with force := true }, rfl, fun _ e => by cases e; rfl, rfl⟩
  | none => exact ⟨⟨deadline, true, false, true, false⟩, rfl, nofun, by simp [h]⟩

/-- An update that does no more when it is made twice reaches every course of a list once. -/
theorem State.foldl_onCourse_of_idem {g : Course → Course} (hg : ∀ z, g (g z) = g z) (l : List Nat) (s : State) {d : Nat}
    {z : Course} (hz : s.course? d = some z) :
    (l.foldl (fun t e => t.onCourse e g) s).course? d = some (if d ∈ l then g z else z) := by
  induction l generalizing s z with
  | nil => exact hz
  | cons e l ih =>
    rw [List.foldl_cons]
    by_cases hd : d = e
    · subst hd
      rw [ih _ (State.course?_onCourse_self hz g), hg]
      simp
    · rw [ih _ ((State.course?_onCourse_ne hd g).trans hz)]
      simp [hd]

theorem State.foldl_onCourse_time {g : Course → Course} (l : List Nat) (s : State) :
    (l.foldl (fun t e => t.onCourse e g) s).time = s.time := by
  induction l generalizing s with
  | nil => rfl
  | cons e l ih => rw [List.foldl_cons, ih, State.onCourse_time]

/-- A deadline that has come marks every course of the unit. -/
theorem State.deadline_eq {s : State} {c : Nat} {x : Course} {p : PreReq} (hx : s.course? c = some x) (hp : x.pre = some p)
    (hforce : p.force = false) (hmet : p.met = false) (late : p.deadline ≤ s.time) :
    s.deadline c = (s.unit c).foldl (fun t d => t.onCourse d (Course.overdue p.deadline)) s := by
  have go : (p.force || p.met || decide (s.time < p.deadline)) = false := by simp [hforce, hmet, late]
  unfold State.deadline
  rw [State.course_of_some hx, hp]
  exact if_neg (by rw [go]; nofun)

theorem exec_preemptDeadlineExpiry_next {s : State} {c : Nat} {x : Course} {p : PreReq} (hx : s.course? c = some x)
    (hp : x.pre = some p) (hforce : p.force = false) (hmet : p.met = false) :
    exec (.preemptDeadlineExpiry c) s = .next ((s.reachTime p.deadline).deadline c) := by
  rw [exec_preemptDeadlineExpiry, execPreemptDeadlineExpiry, State.course_of_some hx, hp]
  simp [hforce, hmet]

@[simp] theorem State.reachTime_course? (s : State) (t c : Nat) : (s.reachTime t).course? c = s.course? c := rfl

@[simp] theorem State.reachTime_unit (s : State) (t c : Nat) : (s.reachTime t).unit c = s.unit c := rfl

theorem State.reachTime_time (s : State) (t : Nat) : (s.reachTime t).time = s.time + (t - s.time) := rfl

/-! ### What lands before a save (R50, R60, R66) -/

/-- Of a course nothing has changed but what a landing result changes: flags, vectors, counts and writes on their way. -/
def Course.OnlyLanded (x y : Course) : Prop :=
  y = { x with flags := y.flags, v := y.v, outs := y.outs, flights := y.flights }

theorem Course.OnlyLanded.trans {x y z : Course} (h : x.OnlyLanded y) (k : y.OnlyLanded z) : x.OnlyLanded z := by
  unfold Course.OnlyLanded at h k ⊢
  rw [k, h]

/-- A course alone in its unit has changed by landing results only. -/
def State.LandsIn (c : Nat) (s t : State) : Prop :=
  ∀ x, s.course? c = some x → x.info.partner = none → ∃ y, t.course? c = some y ∧ x.OnlyLanded y

theorem State.LandsIn.refl (c : Nat) (s : State) : State.LandsIn c s s := fun x h _ => ⟨x, h, rfl⟩

theorem State.LandsIn.trans {c : Nat} {s t u : State} (h : State.LandsIn c s t) (k : State.LandsIn c t u) :
    State.LandsIn c s u := fun x hx hp => by
  obtain ⟨y, hy, only⟩ := h x hx hp
  obtain ⟨z, hz, only'⟩ := k y hy (by rw [only]; exact hp)
  exact ⟨z, hz, only.trans only'⟩

theorem State.LandsIn.onCourse (c : Nat) (s : State) {g : Course → Course} (hg : ∀ x : Course, x.OnlyLanded (g x)) :
    State.LandsIn c s (s.onCourse c g) := fun x hx _ => ⟨g x, State.course?_onCourse_self hx g, hg x⟩

theorem State.LandsIn.foldl {α : Type} {c : Nat} {f : State → α → State} (h : ∀ s a, State.LandsIn c s (f s a))
    (l : List α) (s : State) : State.LandsIn c s (l.foldl f s) := by
  induction l generalizing s with
  | nil => exact State.LandsIn.refl c s
  | cons a l ih => exact (h s a).trans (ih _)

/-- A course alone has no window to push into (R32). -/
theorem State.pushWindow_landsIn (c : Nat) (s : State) (f : Flight) : State.LandsIn c s (s.pushWindow c f) := fun x hx hp => by
  have same : s.pushWindow c f = s := by rw [State.pushWindow, State.course_of_some hx, hp]
  exact ⟨x, by rw [same, hx], rfl⟩

theorem State.switchReg_landsIn (c : Nat) (s : State) (v n : Nat) : State.LandsIn c s (s.switchReg c v n) := by
  induction n generalizing s with
  | zero => exact State.LandsIn.refl c s
  | succ n ih =>
    rw [State.switchReg]
    dsimp only
    split
    · exact State.LandsIn.refl c s
    next f _ =>
      have taken := State.LandsIn.onCourse c s (g := fun y =>
        ({ y with flights := y.flights.filter fun g => g.id != f.id } : Course).drain) fun _ => rfl
      split
      · exact State.LandsIn.refl c s
      refine (taken.trans ?_).trans (ih _)
      split
      · exact State.pushWindow_landsIn c _ f
      · exact State.LandsIn.onCourse c _ fun _ => rfl

theorem State.landFlight_landsIn (c : Nat) (s : State) (id : Nat) : State.LandsIn c s (s.landFlight c id) := by
  unfold State.landFlight
  split
  · exact State.LandsIn.refl c s
  next f _ =>
    have raised := State.LandsIn.onCourse c s (g := fun y =>
      { y.raise f.flags with flights := y.flights.map fun g => if g.id = id then { g with ready := true } else g })
      fun _ => rfl
    dsimp only
    split
    · exact raised.trans (State.LandsIn.onCourse c _ fun _ => rfl)
    · exact raised.trans (State.switchReg_landsIn c _ _ _)

theorem State.landAll_landsIn (c : Nat) (s : State) : State.LandsIn c s (s.landAll c) :=
  State.LandsIn.foldl (fun t i => State.landFlight_landsIn c t i) _ s

/-! ### The context area is reached (R533) -/

theorem State.areaReach_course? {s u : State} {c : Nat} {x : Course} {va : DWord} {n : Nat} {use : Use}
    (hx : s.course? c = some x) (h : s.areaReach c va n use = (some true, u)) : u.course? c = some { x with area := none } := by
  unfold State.areaReach at h
  dsimp only at h
  split at h
  · rw [← (Prod.mk.injEq ..).mp h |>.2]
    refine State.course?_onCourse_self ?_ _
    rw [State.course?, State.reachAll_courses]
    exact hx
  · cases h
  · cases h

theorem State.unit_alone {s : State} {c : Nat} {x : Course} (hx : s.course? c = some x) (hp : x.info.partner = none) :
    s.unit c = [c] := by
  simp [State.unit, State.course_of_some hx, hp]

/-! ### The forced save (R60, R225, R226) -/

/-- The frame that a forced save records (R226). -/
def Course.savedFrame (y : Course) : Frame :=
  match y.frame with
  | some f => if y.hnd && y.handler != 0 then f else y.frameOf 0
  | none => y.frameOf 0

theorem Course.savedFrame_of_handler {y : Course} {f : Frame} (hf : y.frame = some f) (hnd : y.hnd = true)
    (hh : y.handler ≠ 0) : y.savedFrame = f := by
  unfold Course.savedFrame
  rw [hf]
  exact if_pos (by simpa [hnd] using hh)

theorem Course.savedFrame_of_running {y : Course} (h : y.frame = none ∨ y.hnd = false ∨ y.handler = 0) :
    y.savedFrame = y.frameOf 0 := by
  unfold Course.savedFrame
  cases hf : y.frame with
  | none => rfl
  | some f => exact if_neg (by rcases h with h | h | h <;> simp_all)

/-- The course keeps the frame of a handler that goes on by itself (R226). -/
def Course.keepsUnder (y : Course) : Course := { y with under := if y.hnd && y.handler == 0 then y.frame else none }

theorem State.forceSave_eq (s : State) (c : Nat) {y : Course} (hy : (s.landAll c).course? c = some y) :
    s.forceSave c = ((((s.landAll c).onCourse c Course.keepsUnder).backRegs c).storeRecord c y.savedFrame).leave c .forced
      (y.v.map VEntry.saved) (some y.savedFrame) := by
  obtain rfl := State.course_of_some hy
  rfl

/-- A unit in which a resident course has not come to rest stays (R226). -/
theorem exec_forcedSave_waits {s : State} {c d : Nat} (hd : d ∈ s.unit c) (here : (s.course d).pres = .resident)
    (notDue : ∀ p, (s.course d).pre = some p → p.force = false ∨ (s.course d).settled = false) :
    exec (.forcedSave c) s = .next s := by
  rw [exec_forcedSave, execForcedSave]
  refine congrArg _ (if_pos ?_)
  rw [Bool.or_eq_true, Bool.not_eq_true', List.all_eq_false]
  refine .inr ⟨d, List.mem_filter.mpr ⟨hd, by simp [here]⟩, ?_⟩
  cases hp : (s.course d).pre with
  | none => simp
  | some p => rcases notDue p hp with h | h <;> simp [h]

/-- The forced save of a course alone in its unit, with its area there. -/
theorem exec_forcedSave_alone {s u : State} {c : Nat} {x : Course} {p : PreReq} (hx : s.course? c = some x)
    (alone : x.info.partner = none) (here : x.pres = .resident) (hp : x.pre = some p) (force : p.force = true)
    (rest : x.settled = true) (hu : s.areaReach c x.info.ctxa x.info.areaSize .write = (some true, u)) :
    exec (.forcedSave c) s = .next (u.forceSave c) := by
  rw [exec_forcedSave, execForcedSave, State.unit_alone hx alone]
  simp [State.course_of_some hx, here, hp, force, rest, hu]

theorem State.backRegs_courses (s : State) (c : Nat) : (s.backRegs c).courses = s.courses := by
  unfold State.backRegs
  refine State.foldl_courses (fun t p => ?_) _ _
  split <;> simp

/-- The registers are written back one by one, from V0 to V63 (R60). -/
theorem State.backRegs_eq {s : State} {c : Nat} {x : Course} (hx : s.course? c = some x) (hv : x.v.length = 64) :
    s.backRegs c =
      (List.range 64).foldl (fun t v => if (x.ve v).st = .mapped then t.putBacking (c, v) (x.ve v) else t) s := by
  have entries : x.v.zipIdx = (List.range 64).map fun v => (x.ve v, v) := by
    refine List.ext_getElem (by simp [hv]) fun i hi _ => ?_
    have hi : i < x.v.length := by simpa using hi
    simp [Course.ve, List.getElem?_eq_getElem hi]
  unfold State.backRegs
  dsimp only
  rw [State.course_of_some hx, entries, List.foldl_map]
  simp

/-- A course with no entry in its window leaves memory as it is when it leaves. -/
theorem State.leave_mem_of_no_window {s : State} {c : Nat} {x : Course} (hx : s.course? c = some x) (hq : x.qin = [])
    (p : Presence) (v : List VEntry) (f : Option Frame) : (s.leave c p v f).mem = s.mem := by
  have parked : (s.parkWindow c).mem = s.mem := by simp [State.parkWindow, State.course_of_some hx, hq]
  rw [State.leave, State.blockLeaves_mem, State.onCourse_mem, parked]

/-- The course that a forced save leaves behind, and the memory it leaves (R60, R226). -/
theorem State.forceSave_spec {u t w : State} {c : Nat} {y : Course} (hy : (u.landAll c).course? c = some y)
    (hw : w = (u.landAll c).onCourse c Course.keepsUnder) (ht : u.forceSave c = t) :
    t = ((w.backRegs c).storeRecord c y.savedFrame).leave c .forced (y.v.map VEntry.saved) (some y.savedFrame) ∧
      t.course? c = some (y.keepsUnder.left .forced (y.v.map VEntry.saved) (some y.savedFrame)) ∧
      (y.qin = [] → t.mem = ((w.backRegs c).storeRecord c y.savedFrame).mem) := by
  have hwc : w.course? c = some y.keepsUnder := by rw [hw, State.course?_onCourse_self hy]
  have stored : ((w.backRegs c).storeRecord c y.savedFrame).course? c = some y.keepsUnder := by
    rw [State.course?, State.storeRecord_courses, State.backRegs_courses]; exact hwc
  rw [State.forceSave_eq u c hy, ← hw] at ht
  subst ht
  exact ⟨rfl, State.leave_course? stored _ _ _, fun hq => State.leave_mem_of_no_window stored hq _ _ _⟩

theorem VEntry.saved_of_mapped {e : VEntry} (h : e.st = .mapped) : e.saved = { e with st := .spilled, xfer := .spilling } := by
  rw [VEntry.saved, h]

theorem VEntry.saved_of_spilled {e : VEntry} (h : e.st = .spilled) : e.saved = { e with xfer := .none } := by
  rw [VEntry.saved, h]

theorem VEntry.saved_of_unmapped {e : VEntry} (h : e.st = .unmapped) : e.saved = e := by
  rw [VEntry.saved, h]

/-! ### The resume (R224, R226) -/

/-- The resume of a course alone in its unit, with its area there: it waits for room, or is loaded again (log entry 114). -/
theorem exec_courseResume_alone {s u w : State} {c : Nat} {x : Course} {room : Bool} (hx : s.course? c = some x)
    (alone : x.info.partner = none) (back : s.resumable c = true)
    (hu : s.areaReach c x.info.ctxa x.info.areaSize .read = (some true, u)) (hw : u.makeRoom [c] = (room, w)) :
    exec (.courseResume c) s = .next (if room then w.resumeOne c else w) := by
  rw [exec_courseResume, execCourseResume, State.unit_alone hx alone]
  simp [State.course_of_some hx, back, hu, hw]

section resumeOne
variable {s : State} {c : Nat} {x y : Course} {f : Frame} (hx : s.course? c = some x)
  (hr : (s.useRecord c).recall c = (y, f))
include hx hr

theorem State.resumeOne_of_pdone (hp : x.pres ≠ .forced) : s.resumeOne c =
    (List.range 64).foldl (fun t v => t.refill c v) ((s.useRecord c).enterResumed c 0x11 y f y.trap.tsb) := by
  simp [State.resumeOne, State.course_of_some hx, hr, hp, resumeCode]

theorem State.resumeOne_of_handler (hp : x.pres = .forced) (hnd : y.hnd = true) (hh : y.handler ≠ 0)
    (hunder : y.under = none) : s.resumeOne c =
      (List.range 64).foldl (fun t v => t.refill c v)
        ((s.useRecord c).enterResumed c 0x12 y f (.ofNat 64 (f.cause % 256))) := by
  have again : (y.hnd && y.handler != 0 && y.under.isNone) = true := by simpa [hnd, hunder] using hh
  simp only [State.resumeOne, State.course_of_some hx, hr, hp, again]
  rfl

theorem State.resumeOne_of_running (hp : x.pres = .forced) (h : y.hnd = false ∨ y.handler = 0 ∨ y.under ≠ none) :
    s.resumeOne c = (List.range 64).foldl (fun t v => t.refill c v) ((s.useRecord c).setCourse c (y.continued f)) := by
  have on : (y.hnd && y.handler != 0 && y.under.isNone) = false := by
    rcases h with h | h | h
    · simp [h]
    · simp [h]
    · rw [Option.isNone_eq_false_iff.mpr (Option.isSome_iff_ne_none.mpr h), Bool.and_false]
  simp only [State.resumeOne, State.course_of_some hx, hr, hp, on]
  rfl

end resumeOne

/-- A course that goes on has the trap registers of its record and the frame of a handler that goes on (R226). -/
theorem Course.continued_spec (y : Course) (f : Frame) : (y.continued f).pres = .resident ∧ (y.continued f).trap = y.trap ∧
    (y.continued f).frame = y.under ∧ (y.continued f).v = y.v ∧ (y.continued f).sr = y.sr ∧
    (y.continued f).flags = y.flags := by
  have only := Course.eret_only (x := { y with frame := some f, trap := { y.trap with tlanes := 0 } }) rfl
  simp only [Course.continued, true_and]
  exact ⟨(congrArg Course.v only :), (congrArg Course.sr only :), (congrArg Course.flags only :)⟩

/-! ### The register that a resume brings back (R226) -/

theorem State.useBytes_courses (s : State) (ctx : Nat) (va : DWord) (n : Nat) :
    (s.useBytes ctx va n).courses = s.courses := by
  unfold State.useBytes
  refine State.foldl_courses (fun t i => ?_) _ _
  split <;> simp

theorem State.useBacking_courses (s : State) (l : Loc) : (s.useBacking l).courses = s.courses := by
  simp [State.useBacking, State.useBytes_courses]

theorem State.refill_of_unmarked {s : State} {c v : Nat} {x : Course} (hx : s.course? c = some x)
    (h : (x.ve v).st ≠ .spilled ∨ (x.ve v).xfer ≠ .spilling) : s.refill c v = s := by
  unfold State.refill
  rw [State.course_of_some hx]
  exact if_pos (by simpa using h)

/-- A register as its backing copy holds it, mapped again. -/
def State.refilled (s : State) (c v : Nat) (x : Course) : VEntry :=
  { x.ve v with
    st := .mapped, xfer := .none, stamp := s.clkOf c
    vals := (List.range x.w).map fun i =>
      .ofNat 32 (leVal (s.getBytes x.info.ctx ((s.backing (c, v)).1 + .ofNat 64 (4 * i)) 4))
    live := .ofNat 64 (leVal (s.getBytes x.info.ctx (s.backing (c, v)).2 8))
    tag := tagOf (leVal (s.getBytes x.info.ctx ((s.backing (c, v)).2 + 8) 1) % 16) }

theorem State.refill_of_marked {s : State} {c v : Nat} {x : Course} (hx : s.course? c = some x)
    (hst : (x.ve v).st = .spilled) (hxfer : (x.ve v).xfer = .spilling) (free : 0 < s.poolFree x.coreKey) :
    s.refill c v = (s.useBacking (c, v)).onCourse c fun y => { y with v := setAt v (s.refilled c v x) y.v } := by
  unfold State.refill
  simp only [State.course_of_some hx, hst, hxfer, free, if_true]
  rfl

/-! ### The handler of a resumed course (R154, R224, R226) -/

@[simp] theorem fld_tcauseOf_code (code sub : Nat) (ovf : Bool) : fld (tcauseOf code sub ovf) 0 8 = code % 256 := by
  simp only [fld, tcauseOf, BitVec.toNat_ofNat]
  split <;> omega

@[simp] theorem tcauseOf_hnd (code sub : Nat) (ovf : Bool) : (tcauseOf code sub ovf).getLsbD 17 = true := by
  have fits : code % 256 + sub % 256 * 256 + (if ovf then 2 ^ 16 else 0) < 2 ^ 17 := by split <;> omega
  simp only [tcauseOf, BitVec.getLsbD_ofNat]
  rw [testBit_add_pow fits]
  simp

/-- A course that enters its handler again, with a cause, a TSB and the frame of its trap (R226). -/
def Course.reentered (x : Course) (tcause tsb : DWord) (f : Frame) : Course :=
  { x.atHandler x.handler with
    pres := .resident, frame := some f, lost := false, trap := { x.trap with tcause := tcause, tsb := tsb } }

theorem Course.reentered_spec (x : Course) (tcause tsb : DWord) (f : Frame) :
    (x.reentered tcause tsb f).pres = .resident ∧ (x.reentered tcause tsb f).frame = some f ∧
      (x.reentered tcause tsb f).trap = { x.trap with tcause := tcause, tsb := tsb } := ⟨rfl, rfl, rfl⟩

/-- The registers of a trap, all but the cause and TSB as they were. -/
theorem TrapRegs.recaused (r : TrapRegs) (tcause tsb : DWord) {t : TrapRegs}
    (h : t = { r with tcause := tcause, tsb := tsb }) : t.tcause = tcause ∧ t.tsb = tsb ∧ t.tsa = r.tsa ∧
      t.tlpc = r.tlpc ∧ t.tlanes = r.tlanes ∧ t.twait = r.twait := by
  subst h; exact ⟨rfl, rfl, rfl, rfl, rfl, rfl⟩

theorem State.enterResumed_course? (s : State) (c code : Nat) {x : Course} (f : Frame) (tsb : DWord) (hh : x.handler ≠ 0) :
    (s.enterResumed c code x f tsb).course? c =
      some (x.reentered (tcauseOf code 0 x.lost) tsb { f with cause := code }) := by
  rw [State.enterResumed, if_neg hh, State.course?_setCourse_self, Course.reentered]

/-- Settles O44: the deadline, the save of what has come to rest, and the resume, each by what it makes of the course. -/
theorem preemptionEvents : Obligations.PreemptionEvents := by
  refine ⟨?deadline, ?waits, ⟨?save, fun s c x => State.backRegs_eq,
    fun e => ⟨VEntry.saved_of_mapped, VEntry.saved_of_spilled, VEntry.saved_of_unmapped⟩⟩,
    ⟨?resume, ?load, ?refill⟩, ?handler⟩
  case deadline =>
    intro s c x p hx hp hforce hmet
    have late : p.deadline ≤ (s.reachTime p.deadline).time := by rw [State.reachTime_time]; omega
    have marked := State.deadline_eq (s := s.reachTime p.deadline) hx hp hforce hmet late
    refine ⟨_, exec_preemptDeadlineExpiry_next hx hp hforce hmet, ?_, ?_, ?_, fun d hd z hz here => ?_⟩
    · rwa [marked, State.foldl_onCourse_time]
    · rw [marked, State.foldl_onCourse_time, State.reachTime_time]
      omega
    · rw [marked, State.foldl_mem fun t d => State.onCourse_mem .., State.reachTime_mem]
    · obtain ⟨q, force, kept, overdue⟩ := Course.overdue_resident p.deadline here
      refine ⟨q, force, kept, ?_⟩
      rw [marked, ← overdue]
      exact (State.foldl_onCourse_of_idem (Course.overdue_overdue p.deadline) _ (s.reachTime p.deadline) hz).trans
        (congrArg some (if_pos hd))
  case waits =>
    rintro s c ⟨d, hd, here, notDue⟩
    exact exec_forcedSave_waits hd here notDue
  case save =>
    intro s u z w c x p hx alone here hp force rest hu hz hw
    subst hz
    obtain ⟨y, hy, only⟩ := State.landAll_landsIn c u _ (State.areaReach_course? hx hu) alone
    obtain ⟨left, course, mem⟩ := State.forceSave_spec hy hw rfl
    have frame : y.frame = x.frame := (congrArg Course.frame only :)
    have trap : y.trap = x.trap := (congrArg Course.trap only :)
    have hnd : y.hnd = x.hnd := by rw [Course.hnd, trap]; rfl
    have handler : y.handler = x.handler := by rw [Course.handler, trap]; rfl
    have qin : y.qin = x.qin := (congrArg Course.qin only :)
    rw [State.course_of_some hy]
    refine ⟨y.savedFrame, _, _, fun h hh g hg => ?_, fun h => ?_, exec_forcedSave_alone hx alone here hp force rest hu, left,
      fun hq => mem (qin.trans hq), course, rfl, rfl, rfl, rfl, rfl, rfl⟩
    · exact Course.savedFrame_of_handler (frame.trans hg) (hnd.trans h) (by rwa [handler])
    · exact Course.savedFrame_of_running (by rwa [frame, hnd, handler])
  case resume =>
    intro s u w c x hx alone back hu
    exact ⟨exec_courseResume_alone hx alone back hu, exec_courseResume_alone hx alone back hu⟩
  case load =>
    exact fun s c x y f hx hr => ⟨State.resumeOne_of_pdone hx hr, State.resumeOne_of_handler hx hr,
      fun hp h => ⟨State.resumeOne_of_running hx hr hp h, y.continued_spec f⟩⟩
  case refill =>
    intro s c v x hx hv hlen
    refine ⟨State.refill_of_unmarked hx, fun hst hxfer free => ?_⟩
    have found : (s.useBacking (c, v)).course? c = some x := by
      rw [State.course?, State.useBacking_courses]; exact hx
    have this : ({ x with v := setAt v (s.refilled c v x) x.v } : Course).ve v = s.refilled c v x :=
      getD_setAt_self (by omega) _ _
    rw [State.refill_of_marked hx hst hxfer free]
    refine ⟨_, State.course?_onCourse_self found _, by simp, rfl, fun k hk => getD_setAt_ne hk _ _ _, ?_⟩
    rw [this]
    exact ⟨rfl, rfl, rfl, rfl, rfl⟩
  case handler =>
    intro s c code x f tsb _ hh
    obtain ⟨pres, frame, trap⟩ := x.reentered_spec (tcauseOf code 0 x.lost) tsb { f with cause := code }
    obtain ⟨tcause, registers⟩ := TrapRegs.recaused x.trap (tcauseOf code 0 x.lost) tsb trap
    refine ⟨_, s.enterResumed_course? c code f tsb hh, pres, ?_, ?_, ?_⟩
    · rw [Course.hnd, tcause, tcauseOf_hnd]
    · rw [tcause, fld_tcauseOf_code]
    · obtain ⟨htsb, htsa, htlpc, htlanes, htwait⟩ := registers
      exact ⟨htsb, htsa, htlpc, htlanes, htwait, frame⟩

end Sys2Proof.Machine

/-!
# Owner bits

What OWNG and OWNT do to the owner bits of a block (R234, R238, R314). Each is one update of the block's allocation when its
operand names a slot, and one asynchronous access error when it names none. The reasoning rules for an update of an
allocation come first.
-/

namespace Sys2Proof.Machine

/-! ### One allocation changes -/

section BlockMem
variable {s : State} {b : Nat}

theorem State.blockMem_of_some {x : Block} (h : s.block? b = some x) : s.blockMem b = x.mem := by
  rw [State.block?] at h
  rw [State.blockMem, h]

theorem State.block?_onBlock_ne {j : Nat} (h : j ≠ b) (f : Block → Block) : (s.onBlock b f).block? j = s.block? j := by
  unfold State.onBlock
  split
  · exact tget_tset_ne h _ _
  · rfl

theorem State.onBlock_frame (s : State) (b : Nat) (f : Block → Block) :
    s.onBlock b f = { s with blocks := (s.onBlock b f).blocks } := by
  unfold State.onBlock
  split <;> rfl

theorem State.blockMem_onBlockMem_self {x : Block} (h : s.block? b = some x) (f : BlockMem → BlockMem) :
    (s.onBlockMem b f).blockMem b = f x.mem :=
  State.blockMem_of_some (State.block?_onBlock_self h _)

theorem OnlyBlockMem.of_onBlockMem (s : State) (b : Nat) (f : BlockMem → BlockMem) :
    OnlyBlockMem s (s.onBlockMem b f) b := by
  refine ⟨s.onBlock_frame b _, fun j hj => State.block?_onBlock_ne hj _, fun x hx => ?_⟩
  rw [State.blockMem_onBlockMem_self hx]
  exact State.block?_onBlock_self hx _

end BlockMem

/-! ### The two hand-overs -/

/-- The allocation after OWNG of slot q by course c: a slot of the threads becomes the engines', and the accesses of the
course numbered below mark come before those of the engines (R238). -/
def BlockMem.handOver (q c mark : Nat) (b : BlockMem) : BlockMem :=
  if b.engineOwned q then b
  else { b.setOwner q true with given := (b.given.filter fun g => g.1 != q) ++ [(q, c, mark)] }

theorem BlockMem.handOver_bytes (q c mark : Nat) (b : BlockMem) : (b.handOver q c mark).bytes = b.bytes := by
  unfold BlockMem.handOver
  split <;> rfl

theorem BlockMem.handOver_owner (q c mark : Nat) (b : BlockMem) :
    (b.handOver q c mark).owner = if b.engineOwned q then b.owner else (b.setOwner q true).owner := by
  unfold BlockMem.handOver
  split <;> rfl

section Exec
variable {s : State} {m : Bool} {a : SReg} (hs : Issuing s) (hg : s.iss.g3 ≠ 0)
include hs hg

theorem exec_owng_named {q : Nat} (hq : s.slotNamed (s.sIn a) = some q) :
    exec (.owng m a) s = .next (s.onBlockMem s.iss.src.info.block (BlockMem.handOver q s.iss.course s.iss.mark)) := by
  rw [exec_owng, execOwng, slot3_next hs hg, hq]
  rfl

theorem exec_ownt_named {q : Nat} (hq : s.slotNamed (s.sIn a) = some q) :
    exec (.ownt m a) s = .next (s.onBlockMem s.iss.src.info.block fun b => b.setOwner q false) := by
  rw [exec_ownt, execOwnt, slot3_next hs hg, hq]

theorem exec_owng_unnamed (hq : s.slotNamed (s.sIn a) = none) :
    exec (.owng m a) s = .next (s.slotError (s.sIn a)) := by
  rw [exec_owng, execOwng, slot3_next hs hg, hq]

theorem exec_ownt_unnamed (hq : s.slotNamed (s.sIn a) = none) :
    exec (.ownt m a) s = .next (s.slotError (s.sIn a)) := by
  rw [exec_ownt, execOwnt, slot3_next hs hg, hq]

end Exec

/-- Settles O36: OWNG of a named slot is `BlockMem.handOver` and OWNT is `BlockMem.setOwner`, each on the block's allocation
alone (`OnlyBlockMem.of_onBlockMem`); without a named slot either is `State.slotError`. -/
theorem ownerBits : Obligations.OwnerBits := by
  unfold Obligations.OwnerBits
  intro s m a b hs hg hb
  refine ⟨fun q hq => ⟨?owng, ?ownt⟩, fun hq => ⟨exec_owng_unnamed hs hg hq, exec_ownt_unnamed hs hg hq⟩⟩
  case owng =>
    refine ⟨_, exec_owng_named hs hg hq, OnlyBlockMem.of_onBlockMem .., ?_, ?_⟩
    · rw [State.blockMem_onBlockMem_self hb, BlockMem.handOver_bytes]
    · rw [State.blockMem_onBlockMem_self hb, BlockMem.handOver_owner]
  case ownt =>
    exact ⟨_, exec_ownt_named hs hg hq, OnlyBlockMem.of_onBlockMem .., State.blockMem_onBlockMem_self hb _⟩

end Sys2Proof.Machine

/-!
# Prefetches, range operations and fences

What PREF, WBR, INVR and FENCE do where their bundle has passed its checks (R277, R280, R281).
-/

namespace Sys2Proof.Machine

/-! ### PREF (R280) -/

/-- The address of one lane of PREF (R280). -/
def Issue.prefVa (i : Issue) (r : SReg) (o : Code) (off : BitVec 7) (j : Nat) : DWord :=
  i.src.s r.toNat + .ofInt 64 (64 * off.toInt) + (i.offset o j).signExtend 64

/-- The lanes prefetch one after another, and the reads end as those of a memory row. -/
theorem exec_pref_next {s : State} (h : Issuing s) (dc : Bool) (r : SReg) (o : Code) (ac : BitVec 2) (uo : Bool)
    (off : BitVec 7) :
    exec (.pref dc r o ac uo off) s = .next ((((Mask.toList s.iss.g2).foldl
      (fun u j => u.prefetch s.iss.course dc (s.iss.prefVa r o off j)) s).readFlags
        (s.iss.reads (.pref dc r o ac uo off)).flags).releases (.pref dc r o ac uo off)) := by
  have scale : offOf off 64 = 64 * off.toInt := Int.mul_comm _ _
  rw [exec_pref, execPref, gated_next h, scale]
  rfl

/-! ### WBR and INVR (R281) -/

/-- The bytes of a range that begins at base, cut at the top of the address space (R281). -/
def rangeLen (base len : DWord) : DWord := .ofNat 64 (min len.toNat (2 ^ 64 - 1 - base.toNat))

theorem rangeLen_toNat (base len : DWord) : (rangeLen base len).toNat = min len.toNat (2 ^ 64 - 1 - base.toNat) := by
  rw [rangeLen, BitVec.toNat_ofNat, Nat.mod_eq_of_lt]
  omega

/-- WBR and INVR post one operation over their range, which N1 counts. -/
theorem exec_range_next {s : State} (hs : Issuing s) {i : Instr} {kind : OpKind} {a : SReg} {n : Code}
    (hi : (i = .wbr a n ∧ kind = .wbr) ∨ (i = .invr a n ∧ kind = .invr)) :
    ∃ o, exec i s = .next (s.memRow i o) ∧ o.act = s.iss.g2 ∧ o.cnt = some 1 ∧ o.kind = kind ∧ o.lanes = [] ∧
      o.base = s.iss.src.s a.toNat ∧ o.len = rangeLen (s.iss.src.s a.toNat) (s.iss.src.s (n.toNat - 80)) := by
  rcases hi with ⟨rfl, rfl⟩ | ⟨rfl, rfl⟩
  · exact ⟨_, by rw [exec_wbr, execWbr, rangeRow, gated_next hs], rfl, rfl, rfl, rfl, rfl, rfl⟩
  · exact ⟨_, by rw [exec_invr, execInvr, rangeRow, gated_next hs], rfl, rfl, rfl, rfl, rfl, rfl⟩

/-- Settles O30: PREF and FENCE are their own meanings, and WBR and INVR are one posted operation (`State.memRow_spec`). -/
theorem rangesAndFences : Obligations.RangesAndFences := by
  refine ⟨fun s dc r o ac uo off hs => exec_pref_next hs dc r o ac uo off,
    fun s x i kind a n hs ⟨hx, _⟩ hg hi => ?_, fun s kind scope ext hs => ?_⟩
  · obtain ⟨o, hexec, hact, hcnt, hkind, hlanes, hbase, hlen⟩ := exec_range_next hs hi
    obtain ⟨y, posts⟩ := State.memRow_spec hx i o (hact ▸ hg)
    refine ⟨_, y, _, hexec, posts.only, posts.at_, posts.posted, posts.ops, ?_, hkind, hlanes, hbase, ?_⟩
    · rw [posts.outs, hcnt]
    · rw [hlen, rangeLen_toNat]
  · rw [exec_fence, execFence, gated_next hs]

end Sys2Proof.Machine

/-!
# WAITA after it went to sleep

What wakes the lanes of a course that sleep in WAITA, and what the second reading of their word decides (R270 to R272).
-/

namespace Sys2Proof.Machine

/-! ### The three events -/

section events
variable {s : State} {c lane : Nat} {w : WaitA} (hw : s.waiting? c lane = some w)
include hw

theorem exec_waitaWake_registered (hr : w.registered = true) :
    exec (.waitaWake c lane) s = .next (s.rewaits c fun v => v.registered && v.sameLine w) := by
  rw [exec_waitaWake, execWaitaWake, hw]
  exact congrArg _ (if_pos hr)

theorem exec_waitaPoll_unregistered (hr : w.registered = false) :
    exec (.waitaPoll c lane) s = .next (s.rewaits c fun v => !v.registered && v.sameLine w) := by
  rw [exec_waitaPoll, execWaitaPoll, hw]
  exact congrArg _ (if_neg (by rw [hr]; decide))

theorem exec_waitaTimeout_deadline {d : Nat} (hd : w.deadline = some d) : exec (.waitaTimeout c lane) s =
    .next ((s.reachTime d).rewaits c fun v => v.expired (s.reachTime d).time) := by
  rw [exec_waitaTimeout, execWaitaTimeout, hw]
  simp only [hd]

end events

theorem State.le_reachTime (s : State) (d : Nat) : d ≤ (s.reachTime d).time := by
  rw [State.reachTime_time]
  omega

/-! ### The second reading (R270, R272) -/

/-- A wait that has asked for nothing and finds its word passes when the word meets its condition or its time has passed. -/
theorem State.testWait_word {s u : State} {c : Nat} {w : WaitA} {v : Word} (hgot : w.got = none) (hsent : w.sent = none)
    (hgave : w.gaveUp = false) (hp : s.peek c w.va w.flt = (.word v, u)) (i : Nat) :
    s.testWait c i w = if waitCond w.cond v w.t || w.expired u.time then (.pass, u)
      else (.sleep { w with flt := none, got := none }, u) := by
  simp [State.testWait, hgot, hsent, hgave, hp]

section rewait
variable {s u : State} {c i : Nat} {x : Course} {w : WaitA} (hx : s.course? c = some x) (hst : (x.lane i).st = .waita)
  (hwa : (x.lane i).wa = some w)
include hx hst hwa

/-- Outside a stream a lane that passes its test becomes READY (R270). -/
theorem State.rewait_pass (hrow : x.info.row = none) (ht : s.testWait c i w = (.pass, u)) : s.rewait c i =
    u.onCourse c fun y => y.onLanes (Mask.one i) fun _ l => { l with st := .ready, wake := .none } := by
  simp [State.rewait, State.course_of_some hx, hst, hwa, ht, hrow]

theorem State.rewait_sleep {w' : WaitA} (ht : s.testWait c i w = (.sleep w', u)) :
    s.rewait c i = u.sleepWait c i w' true := by
  simp [State.rewait, State.course_of_some hx, hst, hwa, ht]

end rewait

theorem Mask.has_one {i : Nat} (h : i < 64) : Mask.has (Mask.one i) i = true := by simp [Mask.has, Mask.one, h]

/-- A lane that goes on sleeping stays at its WAITA. -/
theorem State.sleepWait_lane {u : State} {c i : Nat} {x : Course} (hx : u.course? c = some x) (hi : i < 64)
    (hl : i < x.lanes.length) (w : WaitA) : ∃ y, (u.sleepWait c i w true).course? c = some y ∧ (y.lane i).st = .waita ∧
      (y.lane i).lpc = (x.lane i).lpc := by
  refine ⟨_, State.course?_onCourse_self hx _, ?_⟩
  rw [Course.onLanes_lane _ _ _ hl, if_pos (Mask.has_one hi)]
  exact ⟨rfl, rfl⟩

/-- Settles O47: each event evaluates the lanes that its test picks again, and `State.testWait_word` says what becomes of a
lane. -/
theorem waitEvents : Obligations.WaitEvents := by
  refine ⟨fun s c lane w hw => ⟨exec_waitaWake_registered hw, exec_waitaPoll_unregistered hw, fun d hd =>
    ⟨_, rfl, s.le_reachTime d, exec_waitaTimeout_deadline hw hd⟩⟩, ?_⟩
  intro s u c i x w v hx hrow hi hl hst hwa hgot hsent hgave hp hux
  have test := State.testWait_word hgot hsent hgave hp i
  refine ⟨fun pass => ?_, fun unmet early => ?_⟩
  · rw [if_pos (by simpa using pass)] at test
    rw [State.rewait_pass hx hst hwa hrow test]
    exact State.course?_onCourse_self hux _
  · rw [if_neg (by simp [unmet, early])] at test
    rw [State.rewait_sleep hx hst hwa test]
    exact State.sleepWait_lane hux (Nat.lt_of_lt_of_le hi x.w_le) hl _

end Sys2Proof.Machine

/-!
# Operations of the memory engine

What the events that perform operations do, what an atomic or a signal does to its word, and how a load ends (R145, R244,
R257, R258, R262 to R268, R274, R275, R335). An operation of a course that its order admits is performed by
`State.performOp_of_due`; what stands in memory after an atomic follows from `State.rmwHome_of_absent`, since its line has
left the L1 (`State.evictLine_spec`); the one write of a load is landed by `State.landFlight_alone`.
-/

namespace Sys2Proof.Machine

/-! ### The events (R244, R258, R268, R275, R335) -/

/-- The operations whose lanes are all that they perform: any but REST, WBR and INVR. -/
def OpKind.byLanes : OpKind → Bool
  | .rest | .wbr | .invr => false
  | _ => true

/-- Every open lane performed, and the operation ended where all lanes are over. -/
def State.performAll (s : State) (c : Nat) (o : MemOp) : State := (s.performLanes c o fun _ => true).settleOp c o.id

section due
variable {s : State} {c : Nat} {x : Course} {o : MemOp} (hx : s.course? c = some x) (ho : x.op? o.id = some o)
  (due : s.mayPerform x o = true)
include hx ho due

/-- An operation whose order admits it is performed, behind the release that it may be. -/
theorem State.performOp_of_due {want : MemOp → Bool} (hw : want o = true) (hk : o.kind.byLanes = true) :
    s.performOp c o.id want =
      (if o.releasing then s.release x.coreKey x.info.block (extScope o.ext o.scope) else s).performAll c o := by
  unfold State.performOp
  simp only [State.course_of_some hx, ho, hw, due]
  cases hkind : o.kind with
  | rest | wbr | invr => rw [hkind] at hk; exact absurd hk (by decide)
  | _ => rfl

/-- LOAD_PERFORMED performs loads and LDA, and takes the returns of an atomic whose lanes are over. -/
theorem exec_loadPerformed_due (hk : (∃ b sx n, o.kind = .load b sx n) ∨ o.kind = .lda ∨
    ((∃ op, o.kind = .amo op true) ∨ o.kind = .cas true) ∧ o.lanes.all LaneAcc.over = true) :
    exec (.loadPerformed c o.id) s = .next (s.performAll c o) := by
  have like : o.loadLike = true ∧ o.kind.byLanes = true ∧ o.releasing = false := by
    rcases hk with ⟨b, sx, n, hk⟩ | hk | ⟨hk, hover⟩
    · simp [MemOp.loadLike, OpKind.byLanes, MemOp.releasing, hk]
    · simp [MemOp.loadLike, OpKind.byLanes, MemOp.releasing, hk]
    · rcases hk with ⟨op, hk⟩ | hk <;> simp only [MemOp.loadLike, OpKind.byLanes, MemOp.releasing, hk, hover, and_self]
  obtain ⟨hw, hb, hr⟩ := like
  rw [exec_loadPerformed, execLoadPerformed, State.performOp_of_due hx ho due hw hb, if_neg (by simp [hr])]

theorem exec_storePerformed_due (hk : (∃ b n, o.kind = .store b n) ∨ o.kind = .save ∨ ∃ op, o.kind = .sig op false) :
    exec (.storePerformed c o.id) s = .next (s.performAll c o) := by
  have like : o.storeLike = true ∧ o.kind.byLanes = true ∧ o.releasing = false := by
    rcases hk with ⟨b, n, hk⟩ | hk | ⟨op, hk⟩ <;> simp [MemOp.storeLike, OpKind.byLanes, MemOp.releasing, hk]
  obtain ⟨hw, hb, hr⟩ := like
  rw [exec_storePerformed, execStorePerformed, State.performOp_of_due hx ho due hw hb, if_neg (by simp [hr])]

/-- STL and the releasing SIG are performed behind the release that they are (R275). -/
theorem exec_storePerformed_releasing (hk : o.kind = .stl ∨ ∃ op, o.kind = .sig op true) :
    exec (.storePerformed c o.id) s =
      .next ((s.release x.coreKey x.info.block (extScope o.ext o.scope)).performAll c o) := by
  have like : o.storeLike = true ∧ o.kind.byLanes = true ∧ o.releasing = true := by
    rcases hk with hk | ⟨op, hk⟩ <;> simp [MemOp.storeLike, OpKind.byLanes, MemOp.releasing, hk]
  obtain ⟨hw, hb, hr⟩ := like
  rw [exec_storePerformed, execStorePerformed, State.performOp_of_due hx ho due hw hb, if_pos hr]

theorem exec_scalarAccessPerformed_due (hk : (∃ d, o.kind = .sld d) ∨ o.kind = .sst) :
    exec (.scalarAccessPerformed c o.id) s = .next (s.performAll c o) := by
  have scalar : o.scalar = true ∧ o.kind.byLanes = true ∧ o.releasing = false := by
    rcases hk with ⟨d, hk⟩ | hk <;> simp [MemOp.scalar, OpKind.byLanes, MemOp.releasing, hk]
  obtain ⟨hw, hb, hr⟩ := scalar
  rw [exec_scalarAccessPerformed, execScalarAccessPerformed, State.performOp_of_due hx ho due hw hb, if_neg (by simp [hr])]

/-- The lanes of one word of an atomic are performed together. -/
theorem exec_atomicPerformed_due (hk : (∃ op rv, o.kind = .amo op rv) ∨ ∃ rv, o.kind = .cas rv) (hcnt : o.cnt = some 1)
    {l : LaneAcc} (hl : o.lanes.find? s.laneFree = some l) :
    exec (.atomicPerformed c o.id) s = .next ((s.performLanes c o fun k =>
      s.sameByte x.info.ctx ((o.va k).toNat, 4) ((o.va l).toNat, 4)).settleOp c o.id) := by
  have atomic : o.atomic = true := by rcases hk with ⟨op, rv, hk⟩ | ⟨rv, hk⟩ <;> simp [MemOp.atomic, hk]
  rw [exec_atomicPerformed, execAtomicPerformed]
  simp [State.atomicStep, State.course_of_some hx, ho, due, atomic, hcnt, hl]

/-- TSIZE, TRACE and TSAMP perform their lanes one after another. -/
theorem exec_fixedFunctionRequestPerformed_lanes
    (hk : (∃ n, o.kind = .tsize n) ∨ (∃ f, o.kind = .trace f) ∨ ∃ f a d, o.kind = .tsamp f a d) :
    exec (.fixedFunctionRequestPerformed c o.id) s =
      .next (((o.lanes.filter fun l => l.open_ && l.lane < 64).foldl (fun s l => s.fixedStep c o.id l) s).settleFixed c
        o.id) := by
  rw [exec_fixedFunctionRequestPerformed, execFixedFunctionRequestPerformed]
  rcases hk with ⟨n, hk⟩ | ⟨f, hk⟩ | ⟨f, a, d, hk⟩ <;> simp [State.course_of_some hx, ho, due, MemOp.fixedFn, hk]

/-- VISQ performs its lanes together (R341). -/
theorem exec_fixedFunctionRequestPerformed_visq {n : Nat} (hk : o.kind = .visq n) :
    exec (.fixedFunctionRequestPerformed c o.id) s =
      .next ((s.visqBatch c o n (o.lanes.filter fun l => l.open_ && l.lane < 64)).settleFixed c o.id) := by
  rw [exec_fixedFunctionRequestPerformed, execFixedFunctionRequestPerformed]
  simp [State.course_of_some hx, ho, due, MemOp.fixedFn, hk]

end due

/-! ### One lane of an operation -/

/-- One open lane alone: it is performed, kept with its operation, and may heal a failed line (R455). -/
theorem State.performLanes_one {s : State} {c : Nat} {o : MemOp} {l : LaneAcc} {p : LaneAcc → Bool}
    (h : (o.lanes.filter fun k => k.open_ && p k) = [l]) : s.performLanes c o p =
      ((s.laneStep c o l false).2.putLane c o.id (s.laneStep c o l false).1).overwrote
        (s.landing c o l (s.laneStep c o l false).2) := by
  unfold State.performLanes
  rw [h]
  rfl

/-- The access of a lane is that of its operation's kind (R262, R265, R268). -/
theorem State.laneStep_of_kind (s : State) (c : Nat) (o : MemOp) (l : LaneAcc) (again : Bool) :
    (∀ b sx n, o.kind = .load b sx n → s.laneStep c o l again = s.laneRead c o l again sx false) ∧
    (∀ b, o.kind = .store b 1 → s.laneStep c o l again = s.laneWrite c o l again (bytesOf b (l.data.headD 0)) false) ∧
    (∀ op rv, o.kind = .amo op rv → s.laneStep c o l again = s.laneAtomic c o l again) ∧
    (∀ op rel, o.kind = .sig op rel → s.laneStep c o l again = s.laneAtomic c o l again) ∧
    (o.kind = .sst → s.laneStep c o l again = s.laneWrite c o l again ((l.data.map (bytesOf 4)).flatten) false) := by
  refine ⟨fun _ _ _ h => ?_, fun _ h => ?_, fun _ _ h => ?_, fun _ _ h => ?_, fun h => ?_⟩ <;> simp only [State.laneStep, h]

/-! ### The word of an atomic (R266, R267, R274) -/

/-- The signed minimum and maximum of AMO are those of the numbers that the words stand for. -/
theorem slt_select (w v : Word) :
    (if w.slt v then w else v) = .ofInt 32 (min w.toInt v.toInt) ∧
      (if w.slt v then v else w) = .ofInt 32 (max w.toInt v.toInt) := by
  by_cases h : w.toInt < v.toInt
  · have below : w.slt v = true := BitVec.slt_iff_toInt_lt.mpr h
    rw [if_pos below, if_pos below, Int.min_eq_left (Int.le_of_lt h), Int.max_eq_right (Int.le_of_lt h)]
    exact ⟨(BitVec.ofInt_toInt).symm, (BitVec.ofInt_toInt).symm⟩
  · have above : ¬ w.slt v = true := fun g => h (BitVec.slt_iff_toInt_lt.mp g)
    rw [if_neg above, if_neg above, Int.min_eq_right (Int.not_lt.mp h), Int.max_eq_left (Int.not_lt.mp h)]
    exact ⟨(BitVec.ofInt_toInt).symm, (BitVec.ofInt_toInt).symm⟩

/-- The unsigned minimum and maximum of AMO are those of the numbers that the words stand for. -/
theorem ult_select (w v : Word) :
    (if w.ult v then w else v) = .ofNat 32 (min w.toNat v.toNat) ∧
      (if w.ult v then v else w) = .ofNat 32 (max w.toNat v.toNat) := by
  by_cases h : w.toNat < v.toNat
  · have below : w.ult v = true := BitVec.ult_iff_lt.mpr h
    rw [if_pos below, if_pos below, Nat.min_eq_left (Nat.le_of_lt h), Nat.max_eq_right (Nat.le_of_lt h)]
    simp only [BitVec.ofNat_toNat, BitVec.setWidth_eq, and_self]
  · have above : ¬ w.ult v = true := fun g => h (BitVec.ult_iff_lt.mp g)
    rw [if_neg above, if_neg above, Nat.min_eq_right (Nat.not_lt.mp h), Nat.max_eq_left (Nat.not_lt.mp h)]
    simp only [BitVec.ofNat_toNat, BitVec.setWidth_eq, and_self]

theorem word_add_eq_ofNat (w v : Word) : w + v = .ofNat 32 (w.toNat + v.toNat) := by simp [BitVec.ofNat_add]

/-- What an atomic or a signal writes is what its table gives. -/
theorem OpKind.update_eq (k : OpKind) (l : LaneAcc) (w : Word) : k.update l w = newWord k w (l.data.headD 0) l.cmp := by
  cases k with
  | amo op rv =>
    simp only [OpKind.update, newWord]
    generalize op.toNat = n
    match n with
    | 0 => exact word_add_eq_ofNat _ _
    | 1 | 2 | 3 | 8 => rfl
    | 4 => exact (slt_select _ _).1
    | 5 => exact (slt_select _ _).2
    | 6 => exact (ult_select _ _).1
    | 7 => exact (ult_select _ _).2
    | _ + 9 => rfl
  | sig op rel =>
    simp only [OpKind.update, newWord]
    generalize op.toNat = n
    match n with
    | 0 => exact word_add_eq_ofNat _ _
    | 1 => rfl
    | _ + 2 => rfl
  | _ => rfl

/-! ### What an atomic leaves (R247, R268) -/

@[simp] theorem State.signed_cores (s : State) (x : Course) (k : OpKind) : (s.signed x k).cores = s.cores := by
  unfold State.signed
  split <;> rfl

@[simp] theorem State.signed_blocks (s : State) (x : Course) (k : OpKind) : (s.signed x k).blocks = s.blocks := by
  unfold State.signed
  split <;> rfl

/-- A line that an L1 gives up leaves it, and its dirty bytes reach their home (R240). -/
theorem State.evictLine_spec {s : State} (wf : s.MemWf) (k : Nat × Nat) (line : Nat) :
    (s.l1? k line = none → s.evictLine k line = s) ∧
      (∀ l, s.l1? k line = some l → WrittenBack s (s.evictLine k line) l) ∧ (s.evictLine k line).l1? k line = none := by
  unfold State.evictLine
  cases hl : s.l1? k line with
  | none => exact ⟨fun _ => rfl, nofun, hl⟩
  | some l =>
    refine ⟨nofun, fun _ e => ?_, ?_⟩
    · cases e
      exact (State.writeBack_writtenBack wf k l).congr rfl (State.evict_mem s k l)
    · simp [State.evict, State.l1?, State.l1?_line hl]

/-- A word that is read and written at its home, once its line has left the L1 of the core. -/
theorem State.rmwHome_of_absent {s : State} {k : Nat × Nat} {pa : Nat} (h : s.l1? k (lineOf pa) = none) (again : Bool)
    (f : Word → Word) :
    (s.rmwHome k pa again f).1 = wordOf (s.readPa pa 4) ∧
      (s.rmwHome k pa again f).2.mem = cellPuts pa (leBytes 4 (f (wordOf (s.readPa pa 4))).toNat) s.mem ∧
      (s.rmwHome k pa again f).2.cores = s.cores := by
  have stays : s.evictLine k (lineOf pa) = s := by rw [State.evictLine, h]
  have read : (s.lineReqOnce k.1 pa again).readPa pa 4 = s.readPa pa 4 := by simp [State.readPa]
  unfold State.rmwHome
  dsimp only
  rw [stays, read]
  refine ⟨rfl, ?_, by simp⟩
  simp [State.writePa, State.pokePa]

section laneAtomic
variable {s u : State} {c : Nat} {x : Course} {o : MemOp} {l : LaneAcc} (hx : s.course? c = some x)
include hx

/-- An atomic of a word of the allocation (R247). -/
theorem State.laneAtomic_scratch {off : Nat} {b : Block} (hp : s.place c o l .write = (.scratch off, u))
    (hb : u.block? x.info.block = some b) (again : Bool) :
    (s.laneAtomic c o l again).1 = l.ok [wordOf (b.mem.read off 4)] ∧ (s.laneAtomic c o l again).2.mem = u.mem ∧
      ((s.laneAtomic c o l again).2.blockMem x.info.block).bytes =
        cellPuts off (leBytes 4 (o.kind.update l (wordOf (b.mem.read off 4))).toNat) b.mem.bytes := by
  have e : s.laneAtomic c o l again = (l.ok [wordOf (b.mem.read off 4)],
      (u.onBlockMem x.info.block fun m => m.write off (leBytes 4 (o.kind.update l (wordOf (b.mem.read off 4))).toNat)).signed
        x o.kind) := by
    simp only [State.laneAtomic, hp, State.course_of_some hx, State.rmwScratch, State.blockMem_of_some hb]
  rw [e]
  refine ⟨rfl, by simp, ?_⟩
  rw [State.blockMem, State.signed_blocks]
  exact congrArg BlockMem.bytes (State.blockMem_onBlockMem_self hb _)

/-- An atomic that meets a failed line at its home fails its lane (R220, R455). -/
theorem State.laneAtomic_failed {pa : Nat} {cached : Bool} (hp : s.place c o l .write = (.mem pa cached, u))
    (failed : (u.evictLine x.coreKey (lineOf pa)).lineFailed (lineOf pa) = true) (again : Bool) :
    s.laneAtomic c o l again = (l.fail, (u.evictLine x.coreKey (lineOf pa)).laneBad c o.id l 0) := by
  simp [State.laneAtomic, hp, State.course_of_some hx, failed]

/-- An atomic of a word in memory: the word at its home changes, and the L1 holds its line no longer (R268). -/
theorem State.laneAtomic_home {pa : Nat} {cached : Bool} (hp : s.place c o l .write = (.mem pa cached, u)) (wf : u.MemWf)
    {v : State} (hv : v = u.evictLine x.coreKey (lineOf pa)) (good : v.lineFailed (lineOf pa) = false) (again : Bool) :
    (s.laneAtomic c o l again).1 = l.ok [wordOf (v.readPa pa 4)] ∧
      BytesWritten v (s.laneAtomic c o l again).2 pa
        (leBytes 4 (o.kind.update l (wordOf (v.readPa pa 4))).toNat) ∧
      (s.laneAtomic c o l again).2.l1? x.coreKey (lineOf pa) = none := by
  have wfv : v.MemWf := by rw [hv]; exact State.evictLine_wf wf
  have gone : v.l1? x.coreKey (lineOf pa) = none := by
    obtain ⟨-, -, gone⟩ := State.evictLine_spec wf x.coreKey (lineOf pa)
    rw [hv]; exact gone
  have gone' : (v.visible x.info.block).l1? x.coreKey (lineOf pa) = none :=
    (State.l1?_of_core (State.core_of_cores (v.visible_cores _) _) _).trans gone
  obtain ⟨word, mem, cores⟩ := State.rmwHome_of_absent gone' again (o.kind.update l)
  have read : (v.visible x.info.block).readPa pa 4 = v.readPa pa 4 := by simp [State.readPa]
  rw [read] at word mem
  have e : s.laneAtomic c o l again =
      (l.ok [((v.visible x.info.block).rmwHome x.coreKey pa again (o.kind.update l)).1],
        ((v.visible x.info.block).rmwHome x.coreKey pa again (o.kind.update l)).2.signed x o.kind) := by
    subst hv
    simp [State.laneAtomic, hp, State.course_of_some hx, good]
  rw [e]
  refine ⟨by rw [word], .of_cellPuts wfv (by simp [mem]), ?_⟩
  rw [State.l1?_of_core (State.core_of_cores (State.signed_cores ..) _), State.l1?_of_core (State.core_of_cores cores _)]
  exact gone'

end laneAtomic

/-! ### The end of a load (R50, R145, R258, R262) -/

theorem State.switchReg_of_none {s : State} {c v : Nat} {x : Course} (hx : s.course? c = some x) (hf : x.flights = [])
    (n : Nat) : s.switchReg c v n = s := by
  cases n with
  | zero => rfl
  | succ n => simp [State.switchReg, State.course_of_some hx, hf]

/-- The course without a write that was on its way (R50, R145). -/
def Course.shed (x : Course) (id : Nat) : Course :=
  ({ x with flights := x.flights.filter fun g => g.id != id } : Course).drain

/-- The course with a write merged into register v (R54). -/
def Course.merged (x : Course) (f : Flight) (v stamp : Nat) : Course :=
  { x with v := modAt v (fun e => e.land x.w f stamp) x.v }

/-- The first write of a register on its way that is ready switches the map, and the next ones follow (R50). -/
theorem State.switchReg_ready {s : State} {c v : Nat} {x : Course} {f : Flight} (hx : s.course? c = some x)
    (hf : (x.flights.find? fun g => g.v == some v) = some f) (hready : f.ready = true) (hr : f.release = false)
    (hq : v ≠ qwCode) (n : Nat) : s.switchReg c v (n + 1) =
      ((s.onCourse c fun y => y.shed f.id).onCourse c fun y => y.merged f v (s.core y.coreKey).clk).switchReg c v n := by
  rw [State.switchReg]
  simp only [State.course_of_some hx, hf, hready, hr, if_neg hq, State.core_onCourse]
  rfl

/-- The course with the flags of a write raised, and the write ready to switch the map (R50, R166). -/
def Course.arrived (x : Course) (f : Flight) : Course :=
  { x.raise f.flags with flights := x.flights.map fun g => if g.id = f.id then { g with ready := true } else g }

theorem Course.arrived_flights {x : Course} {f : Flight} (h : x.flights = [f]) :
    (x.arrived f).flights = [{ f with ready := true }] := by
  simp [Course.arrived, h]

theorem Course.shed_flights {x : Course} {f : Flight} (h : x.flights = [f]) : (x.shed f.id).flights = [] := by
  show (x.flights.filter fun g => g.id != f.id) = []
  simp [h]

/-- The course once its only write on its way has landed in register v (R50, R54, R166). -/
def Course.landAlone (x : Course) (f : Flight) (v stamp : Nat) : Course := ((x.arrived f).shed f.id).merged f v stamp

/-- What the landing leaves of the course. -/
theorem Course.landAlone_spec {x : Course} {f : Flight} (hf : x.flights = [f]) (v stamp : Nat) :
    (x.landAlone f v stamp).flights = [] ∧ (x.landAlone f v stamp).ops = x.ops ∧ (x.landAlone f v stamp).pres = x.pres ∧
      (∀ id k, x.outs = [⟨id, k, false⟩] → (x.landAlone f v stamp).outs = x.outs) ∧
      (v < x.v.length → (x.landAlone f v stamp).ve v = (x.ve v).land x.w f stamp) := by
  refine ⟨Course.shed_flights (f := { f with ready := true }) (Course.arrived_flights hf), rfl, rfl, fun id k ho => ?_,
    fun hv => getD_modAt_self hv _ _⟩
  show settleOuts _ x.outs [] = x.outs
  rw [ho]
  rfl

/-- The only write on its way of a course lands. -/
theorem State.landFlight_alone {s : State} {c v : Nat} {x : Course} {f : Flight} (hx : s.course? c = some x)
    (hf : x.flights = [f]) (hv : f.v = some v) (hr : f.release = false) (hq : v ≠ qwCode) (hu : 0 < s.uid) :
    (s.landFlight c f.id).course? c = some (x.landAlone f v (s.core x.coreKey).clk) := by
  obtain ⟨n, hn⟩ : ∃ n, s.uid = n + 1 := ⟨s.uid - 1, by omega⟩
  have arrived := State.course?_onCourse_self hx fun y => y.arrived f
  have flights := Course.arrived_flights hf
  have merged := State.course?_onCourse_self (State.course?_onCourse_self arrived fun y => y.shed f.id) fun y =>
    y.merged { f with ready := true } v (s.core y.coreKey).clk
  have e : s.landFlight c f.id = (s.onCourse c fun y => y.arrived f).switchReg c v (n + 1) := by
    unfold State.landFlight
    simp only [State.course_of_some hx, hf, List.find?_cons, beq_self_eq_true, hv, State.onCourse_uid, hn]
    rfl
  rw [e, State.switchReg_ready arrived (f := { f with ready := true }) (by simp [flights, hv]) rfl hr hq]
  simp only [State.core_onCourse]
  rwa [State.switchReg_of_none merged (Course.shed_flights (f := { f with ready := true }) flights)]

/-- A write that lands in some lane gives the register its tag, and its own lanes their words (R54). -/
theorem VEntry.land_spec {e : VEntry} {w : Nat} {f : Flight} (hm : f.mask ≠ 0) (stamp : Nat) :
    (e.land w f stamp).tag = f.tag ∧
      ∀ j, j < w → Mask.has f.mask j = true → (e.land w f stamp).vals.getD j 0 = f.vals.getD j 0 := by
  have mapped : ∀ k : Mask, f.mask ||| k ≠ 0 := fun k h => hm (BitVec.or_eq_zero_iff.1 h).1
  unfold VEntry.land
  simp only [if_neg (mapped _)]
  refine ⟨trivial, fun j hj hmj => ?_⟩
  rw [getD_map_range hj, if_pos hmj]

/-- The write of an operation's one result, with the lanes and words that it lands with. -/
def Flight.filled (f : Flight) (m : Mask) (vals : Lanes) : Flight := { f with mask := m, vals := vals }

/-- The result of an operation whose write stands alone lands with its lanes and words (R50, R262). -/
theorem State.landOp_alone {s : State} {c v : Nat} {x : Course} {f : Flight} (hx : s.course? c = some x)
    (hf : x.flights = [f]) (hv : f.v = some v) (hr : f.release = false) (hq : v ≠ qwCode) (hu : 0 < s.uid) (m : Mask)
    (vals : Lanes) : ∃ stamp, (s.landOp c f.id m vals).course? c =
      some (({ x with flights := [f.filled m vals] } : Course).landAlone (f.filled m vals) v stamp) := by
  have filled := State.course?_onCourse_self hx fun y =>
    { y with flights := y.flights.map fun g => if g.id = f.id then { g with mask := m, vals := vals } else g }
  have flights : (x.flights.map fun g => if g.id = f.id then { g with mask := m, vals := vals } else g) =
      [f.filled m vals] := by simp [hf, Flight.filled]
  rw [flights] at filled
  exact ⟨_, State.landFlight_alone (f := f.filled m vals) filled rfl hv hr hq (by simpa using hu)⟩

/-- A result of one register of the renamed file is written by the operation's first write. -/
theorem State.writeDest_one {o : MemOp} {d : Code} (hd : o.dst = some d) (hlt : d.toNat < 64) (s : State) (c : Nat) (tag : Tag)
    (words : Nat → Lanes) : s.writeDest c o 1 tag words = s.landOp c (o.id + 1) o.okMask (words 0) := by
  have hO : isO d = false := by simp [isO]; omega
  simp [State.writeDest, hd, hO]

/-! #### The operation leaves the engine (R145, R258) -/

/-- A course that is resident does not end its block (R142). -/
theorem State.settle_resident {s : State} {c : Nat} {x : Course} (hx : s.course? c = some x) (hp : x.pres = .resident) :
    s.settle c = s := by
  simp [State.settle, hx, hp]

theorem State.fences_of_no_ops {s : State} {c : Nat} {x : Course} (hx : s.course? c = some x) (ho : x.ops = []) :
    s.fences c = s := by
  simp [State.fences, State.course_of_some hx, ho, State.fenceActs]

/-- The count of an operation of a resident course goes down (R145). -/
theorem State.opDone_course? {s : State} {c : Nat} {x : Course} (hx : s.course? c = some x) (hp : x.pres = .resident)
    (id : Nat) : (s.opDone c id).course? c = some (x.complete id) := by
  have done := State.course?_onCourse_self hx fun y => y.complete id
  have counted : ((s.onCourse c fun y => y.complete id).progress (s.course c).info.die (s.course c).info.ctx).course? c =
      some (x.complete id) := done
  rw [State.opDone, State.settle_resident counted hp]
  exact counted

/-- The only operation of a resident course, which has met no error, leaves the engine and counts down. -/
theorem State.closeOp_alone {s : State} {c : Nat} {x : Course} {o : MemOp} (hx : s.course? c = some x) (hops : x.ops = [o])
    (hp : x.pres = .resident) (hacc : o.acc = none) (hhwe : o.hwe = none) {k : Nat} (hcnt : o.cnt = some k) :
    (s.closeOp c o).course? c = some (({ x with ops := [] } : Course).complete o.id) := by
  have left := State.course?_onCourse_self hx fun y => { y with ops := y.ops.filter fun p => p.id != o.id }
  have empty : (x.ops.filter fun p => p.id != o.id) = [] := by simp [hops]
  rw [empty] at left
  have done := State.opDone_course? left hp o.id
  unfold State.closeOp
  simp only [hacc, hhwe, hcnt, Option.isSome_some, if_true]
  rw [State.fences_of_no_ops done rfl, State.settle_resident done hp]
  exact done

/-- The only operation of a course is the one of its number. -/
theorem Course.op?_alone {x : Course} {o : MemOp} (h : x.ops = [o]) : x.op? o.id = some o := by
  simp [Course.op?, h]

/-- The count of the only operation goes away with it, once no write of it is on its way (R145, R147). -/
theorem Course.complete_outs {x : Course} {id k : Nat} (hf : x.flights = []) (ho : x.outs = [⟨id, k, false⟩]) :
    (x.complete id).outs = [] := by
  simp [Course.complete, Course.drain, Course.holdsResult, hf, ho, settleOuts]

/-- The only load of a resident course, all of whose lanes are over, lands its words and goes (R145, R258, R262). -/
theorem State.settleOp_load {s : State} {c : Nat} {x : Course} {o : MemOp} {f : Flight} {d : Code} {k : Nat}
    (hx : s.course? c = some x) (hops : x.ops = [o]) (hk : o.kind = .load 4 false 1) (hover : o.lanes.all LaneAcc.over = true)
    (hacc : o.acc = none) (hhwe : o.hwe = none) (hcnt : o.cnt = some k) (hdst : o.dst = some d) (hd : d.toNat < 64)
    (hf : x.flights = [f]) (hid : f.id = o.id + 1) (hv : f.v = some d.toNat) (hr : f.release = false)
    (hp : x.pres = .resident) (hu : 0 < s.uid) :
    ∃ y stamp, (s.settleOp c o.id).course? c = some (({ y with ops := [] } : Course).complete o.id) ∧
      y = ({ x with flights := [f.filled o.okMask (o.words x.w 0)] } : Course).landAlone
        (f.filled o.okMask (o.words x.w 0)) d.toNat stamp := by
  obtain ⟨stamp, landed⟩ :=
    State.landOp_alone hx hf hv hr (Nat.ne_of_lt (Nat.lt_of_lt_of_le hd (by decide))) hu o.okMask (o.words x.w 0)
  have e : s.settleOp c o.id = (s.landOp c f.id o.okMask (o.words x.w 0)).closeOp c o := by
    unfold State.settleOp
    simp only [State.course_of_some hx, Course.op?_alone hops, hover, hk]
    rw [State.writeDest_one hdst hd, hid]
    rfl
  rw [e]
  exact ⟨_, stamp, State.closeOp_alone landed hops hp hacc hhwe hcnt, rfl⟩

/-- Settles O46: the events are `State.performAll` or their own lanes, an atomic is `State.laneAtomic_scratch` or
`State.laneAtomic_home`, and a load ends by `State.settleOp_load`. -/
theorem memoryEvents : Obligations.MemoryEvents := by
  refine ⟨⟨fun s c x o hx ho due => ⟨exec_loadPerformed_due hx ho due, exec_storePerformed_due hx ho due,
      exec_storePerformed_releasing hx ho due, exec_scalarAccessPerformed_due hx ho due,
      fun l hk hcnt hl => exec_atomicPerformed_due hx ho due hk hcnt hl, exec_fixedFunctionRequestPerformed_lanes hx ho due,
      fun n hk => exec_fixedFunctionRequestPerformed_visq hx ho due hk⟩,
    fun s c o l p h => State.performLanes_one h, fun s c o l again => s.laneStep_of_kind c o l again⟩,
    fun s u c x o l again hx _ => ⟨?scratch, ?home⟩, ?settle⟩
  case scratch =>
    rintro off b w hp hb rfl
    simpa only [OpKind.update_eq] using State.laneAtomic_scratch hx hp hb again
  case home =>
    intro pa cached hp wf
    obtain ⟨stays, back, -⟩ := State.evictLine_spec wf x.coreKey (lineOf pa)
    refine ⟨_, rfl, stays, back, fun failed => ?_, fun good w hw => ?_⟩
    · rw [State.laneAtomic_failed hx hp failed]
      exact ⟨rfl, State.laneBad_mem ..⟩
    · subst hw
      simpa only [OpKind.update_eq] using State.laneAtomic_home hx hp wf rfl good again
  case settle =>
    intro s c x o f d hx hops hk hover hacc hhwe hcnt hdst hd hf hid hv hr hwhole hready houts hp hu hlen hmask
    obtain ⟨y, stamp, hy, e⟩ := State.settleOp_load hx hops hk hover hacc hhwe hcnt hdst hd hf hid hv hr hp hu
    obtain ⟨flights, -, -, outs, reg⟩ := Course.landAlone_spec
      (x := { x with flights := [f.filled o.okMask (o.words x.w 0)] }) rfl d.toNat stamp
    rw [← e] at flights outs reg
    have gone := Course.complete_outs (x := { y with ops := [] }) flights ((outs o.id 0 houts).trans houts)
    obtain ⟨tag, words⟩ := VEntry.land_spec (e := x.ve d.toNat) (w := x.w) (f := f.filled o.okMask (o.words x.w 0)) hmask stamp
    have landed : y.ve d.toNat = (x.ve d.toNat).land x.w (f.filled o.okMask (o.words x.w 0)) stamp := reg (hlen ▸ hd)
    rw [← landed] at tag words
    exact ⟨_, hy, rfl, gone, flights, by rw [Course.n, gone]; rfl, tag, words⟩

end Sys2Proof.Machine

/-!
# The commands that a core has received

No function that counts an operation down or reports an error adds a command to the queue of a matrix engine; the end of a
block takes commands away (R294, R304).
-/

namespace Sys2Proof.Machine

/-! ### The queue of a core -/

/-- The commands that the matrix engine of a core has received (R287). -/
def mqIn (cores : List ((Nat × Nat) × Core)) (k : Nat × Nat) : List MCmd := ((tget k cores).getD Core.reset).mq

theorem State.core_mq (s : State) (k : Nat × Nat) : (s.core k).mq = mqIn s.cores k := rfl

theorem mqIn_onCore_self (s : State) (k : Nat × Nat) (f : Core → Core) :
    mqIn (s.onCore k f).cores k = (f (s.core k)).mq := by
  rw [← State.core_mq, State.core_onCore_self]

theorem mqIn_onCore_ne (s : State) {j k : Nat × Nat} (h : j ≠ k) (f : Core → Core) :
    mqIn (s.onCore k f).cores j = mqIn s.cores j := by
  rw [← State.core_mq, State.core_onCore_ne h, State.core_mq]

/-- An update of a core that keeps its commands. -/
@[simp] theorem mqIn_onCore (s : State) (j k : Nat × Nat) {f : Core → Core} (hf : ∀ c, (f c).mq = c.mq) :
    mqIn (s.onCore k f).cores j = mqIn s.cores j := by
  by_cases h : j = k
  · subst h
    rw [mqIn_onCore_self, hf, State.core_mq]
  · exact mqIn_onCore_ne s h f

/-- What every step of a fold keeps, the fold keeps. -/
theorem State.foldl_keeps {α γ : Type} (g : State → γ) {f : State → α → State} (hf : ∀ t a, g (f t a) = g t)
    (l : List α) (s : State) : g (l.foldl f s) = g s := by
  induction l generalizing s with
  | nil => rfl
  | cons a l ih => rw [List.foldl_cons, ih, hf]

theorem State.foldl_snd_keeps {α β γ : Type} (g : State → γ) {f : β × State → α → β × State}
    (hf : ∀ p a, g (f p a).2 = g p.2) (l : List α) (p : β × State) : g (l.foldl f p).2 = g p.2 := by
  induction l generalizing p with
  | nil => rfl
  | cons a l ih => rw [List.foldl_cons, ih, hf]

/-! ### What leaves every core as it is -/

@[simp] theorem State.writeQ_cores (s : State) (pa : Nat) (v : DWord) : (s.writeQ pa v).cores = s.cores := rfl

@[simp] theorem State.lineReq_cores (s : State) (die pa : Nat) : (s.lineReq die pa).cores = s.cores := rfl

@[simp] theorem State.entryAt_cores (s : State) (ctx level pa : Nat) (va : DWord) :
    (s.entryAt ctx level pa va).2.2.cores = s.cores := by
  unfold State.entryAt
  extract_lets e s1 olds c pick s2 known
  have h2 : s2.cores = s.cores := by simp [s2, c, s1]
  split <;> exact h2

@[simp] theorem State.leafAt_cores (s : State) (level pa : Nat) (home e : DWord) (stale : Bool) (va : DWord) (use : Use) :
    (s.leafAt level pa home e stale va use).2.cores = s.cores := by
  unfold State.leafAt
  extract_lets size deny bits s1 addr
  have h1 : s1.cores = s.cores := by unfold s1; split <;> rfl
  split
  · rfl
  · clear_value deny
    (repeat' split) <;> exact h1

@[simp] theorem State.walk_cores (s : State) (ctx : Nat) (va : DWord) (use : Use) (cached : Bool) (lv table : Nat) :
    (s.walk ctx va use cached lv table).2.cores = s.cores := by
  induction lv generalizing s table with
  | zero => rfl
  | succ lv ih =>
    rw [State.walk]
    extract_lets r e s1 base es all c g g' leaf
    have h1 : s1.cores = s.cores := by unfold s1 r; split <;> simp
    have hc : c.2.cores = s.cores := by unfold c; split <;> simp [h1]
    split
    · rfl
    split
    · (repeat' split) <;> simp [hc]
    · (repeat' split) <;> simp [ih, h1]

@[simp] theorem State.translate_cores (s : State) (ctx : Nat) (va : DWord) (use : Use) :
    (s.translate ctx va use).2.cores = s.cores := by
  unfold State.translate State.walks
  dsimp only
  (repeat' split) <;> simp

@[simp] theorem State.hwWrite_cores (s : State) (ctx : Nat) (va : DWord) (bs : List Byte) :
    (s.hwWrite ctx va bs).2.cores = s.cores := by
  unfold State.hwWrite State.hwPa
  dsimp only
  (repeat' split) <;> simp

@[simp] theorem State.errEntry_cores (s : State) (ctx die core : Nat) (lnch : Word) (code : Nat) (a b : DWord) :
    (s.errEntry ctx die core lnch code a b).cores = s.cores := by
  unfold State.errEntry
  dsimp only
  (repeat' split) <;> simp

@[simp] theorem State.progress_cores (s : State) (die ctx : Nat) : (s.progress die ctx).cores = s.cores := rfl

@[simp] theorem State.onKey_cores (s : State) (key : Nat) (f : Key → Key) : (s.onKey key f).cores = s.cores := rfl

@[simp] theorem State.freePage_cores (s : State) (ctx j : Nat) : (s.freePage ctx j).cores = s.cores := by
  simp [State.freePage]

@[simp] theorem State.taskCore_cores (s : State) (tk : Task) : (s.taskCore tk).2.cores = s.cores := by
  unfold State.taskCore
  dsimp only
  (repeat' split) <;> simp

theorem State.newLnch_cores {s t : State} {die : Nat} {l : Word} (e : s.newLnch die = some (l, t)) : t.cores = s.cores := by
  unfold State.newLnch at e
  split at e
  · cases e
  · cases e; rfl

@[simp] theorem State.joinFifos_cores (s : State) (t : Nat) : (s.joinFifos t).cores = s.cores := by
  unfold State.joinFifos
  split
  · rfl
  · exact State.foldl_keeps State.cores (fun t e => State.onKey_cores ..) _ _

@[simp] theorem State.countDown_cores (s : State) (ctx die : Nat) (lnch : Word) (h : BitVec 32) (stale : Bool) :
    (s.countDown ctx die lnch h stale).2.cores = s.cores := by
  unfold State.countDown
  (repeat' split) <;> simp

@[simp] theorem State.decrements_cores (s : State) (ctx die : Nat) (lnch : Word) (hs : List (BitVec 32)) :
    (s.decrements ctx die lnch hs).cores = s.cores := by
  unfold State.decrements
  extract_lets r handle
  have counted : r.2.cores = s.cores := State.foldl_snd_keeps State.cores (fun p h => by simp) _ _
  exact (State.foldl_keeps State.cores State.joinFifos_cores _ _).trans counted

@[simp] theorem State.onNode_cores (s : State) (g n : Nat) (f : Node → Node) : (s.onNode g n f).cores = s.cores := by
  unfold State.onNode
  split <;> rfl

@[simp] theorem State.breakKey_cores (s : State) (t e : Nat) : (s.breakKey t e).cores = s.cores := by
  unfold State.breakKey
  dsimp only
  (repeat' split) <;> simp

@[simp] theorem State.asyncErr_cores (s : State) (c engine arg status : Nat) :
    (s.asyncErr c engine arg status).cores = s.cores := by
  unfold State.asyncErr State.pendError
  dsimp only
  (repeat' split) <;> simp

/-! ### What keeps the commands of every core -/

section keeps
variable (s : State) (j : Nat × Nat)

@[simp] theorem State.writeBack_mq (k : Nat × Nat) (l : L1Line) : mqIn (s.writeBack k l).cores j = mqIn s.cores j := by
  unfold State.writeBack
  dsimp only
  (repeat' split) <;> simp

@[simp] theorem State.evict_mq (k : Nat × Nat) (l : L1Line) : mqIn (s.evict k l).cores j = mqIn s.cores j := by
  simp [State.evict]

@[simp] theorem State.evictLine_mq (k : Nat × Nat) (line : Nat) : mqIn (s.evictLine k line).cores j = mqIn s.cores j := by
  unfold State.evictLine
  split <;> simp

@[simp] theorem State.release_mq (k : Nat × Nat) (blk scope : Nat) :
    mqIn (s.release k blk scope).cores j = mqIn s.cores j := by
  unfold State.release State.releaseL1
  split
  · exact State.foldl_keeps (fun t => mqIn t.cores j) (fun t l => by split <;> simp) _ _
  · rfl

@[simp] theorem State.rmwHome_mq (k : Nat × Nat) (pa : Nat) (again : Bool) (f : Word → Word) :
    mqIn (s.rmwHome k pa again f).2.cores j = mqIn s.cores j := by
  simp [State.rmwHome]

@[simp] theorem State.completeSignal_mq (ctx die : Nat) (lnch : Word) (csig : DWord) (cval ctrl : Word)
    (status count : Nat) : mqIn (s.completeSignal ctx die lnch csig cval ctrl status count).cores j = mqIn s.cores j := by
  unfold State.completeSignal
  dsimp only
  (repeat' split) <;> simp [State.pcieSignal, State.fabRequest]

@[simp] theorem State.completeOne_mq (p status count : Nat) :
    mqIn (s.completeOne p status count).cores j = mqIn s.cores j := by
  unfold State.completeOne
  split <;> simp

@[simp] theorem State.completeHeld_mq (ctx q n : Nat) : mqIn (s.completeHeld ctx q n).cores j = mqIn s.cores j := by
  induction n generalizing s with
  | zero => rfl
  | succ n ih => rw [State.completeHeld]; (repeat' split) <;> simp [ih]

@[simp] theorem State.settlePkt_mq (p : Nat) : mqIn (s.settlePkt p).cores j = mqIn s.cores j := by
  unfold State.settlePkt State.completePkt
  (repeat' split) <;> simp

@[simp] theorem State.backLines_mq (k : Nat × Nat) (lines : List Nat) :
    mqIn (s.backLines k lines).cores j = mqIn s.cores j := by
  unfold State.backLines
  exact State.foldl_keeps (fun t => mqIn t.cores j) (fun t l => by split <;> simp) _ _

@[simp] theorem State.releaseKey_mq (t e blk core : Nat) : mqIn (s.releaseKey t e blk core).cores j = mqIn s.cores j := by
  unfold State.releaseKey
  dsimp only
  (repeat' split) <;> simp

@[simp] theorem State.invRange_mq (k : Nat × Nat) (ctx : Nat) (base : DWord) (len : Nat) :
    mqIn (s.invRange k ctx base len).cores j = mqIn s.cores j := by
  unfold State.invRange
  exact State.foldl_keeps (fun t => mqIn t.cores j) (fun t l => by dsimp only; split <;> simp) _ _

@[simp] theorem State.keyActions_mq (tk : Task) (core : Nat) : mqIn (s.keyActions tk core).cores j = mqIn s.cores j := by
  unfold State.keyActions
  exact State.foldl_keeps (fun t => mqIn t.cores j) (fun t e => by dsimp only; split <;> simp) _ _

@[simp] theorem State.tryBind_mq (b : Nat) : mqIn (s.tryBind b).cores j = mqIn s.cores j := by
  unfold State.tryBind State.bindNow
  dsimp only
  (repeat' split) <;> simp

@[simp] theorem State.grant_mq (t : Nat) : mqIn (s.grant t).cores j = mqIn s.cores j := by
  unfold State.grant
  split
  · rfl
  split
  · rfl
  split
  · rfl
  next tk _ _ _ l s0 e =>
    extract_lets s1 c b s2
    have keyed : s1.cores = s0.cores := State.foldl_keeps State.cores (fun t e => State.onKey_cores ..) _ _
    simp [s2, b, c, State.newBlock, keyed, State.newLnch_cores e]

@[simp] theorem State.grants_mq : mqIn s.grants.cores j = mqIn s.cores j := by
  unfold State.grants
  generalize s.tasks.length = n
  induction n generalizing s with
  | zero => rfl
  | succ n ih => rw [State.grantAll]; split <;> simp [ih]

@[simp] theorem State.endGraphBlock_mq (t : Nat) (tk : Task) (g node : Nat) (fault : Bool) :
    mqIn (s.endGraphBlock t tk g node fault).cores j = mqIn s.cores j := by
  unfold State.endGraphBlock
  extract_lets s1 s2 s3
  have h1 : s1.cores = s.cores := by unfold s1; split <;> simp
  have h2 : s2.cores = s.cores := by unfold s2; dsimp only; (repeat' split) <;> simp [h1]
  dsimp only
  (repeat' split) <;> simp [s3, h2]

@[simp] theorem State.endTask_mq (t blk core : Nat) (fault : Bool) :
    mqIn (s.endTask t blk core fault).cores j = mqIn s.cores j := by
  unfold State.endTask
  split
  · rfl
  next tk _ =>
    extract_lets s1 s2 s2' s3 s4 s5 s6 s7
    have h1 : mqIn s1.cores j = mqIn s.cores j :=
      State.foldl_keeps (fun t => mqIn t.cores j) (fun t e => by split <;> simp) _ _
    have h2 : mqIn s2.cores j = mqIn s.cores j := by unfold s2; (repeat' split) <;> simp [h1]
    have h3 : mqIn s2'.cores j = mqIn s.cores j := by unfold s2'; split <;> simp [h2]
    split
    · simp [h3]
    · have h5 : mqIn s5.cores j = mqIn s.cores j := by unfold s5; split <;> simp [s4, s3, h3]
      have h7 : mqIn s7.cores j = mqIn s.cores j := by unfold s7; split <;> simp [s6, h5]
      simp [h7]

/-- The targets of copies fail, and the commands of the matrix engines stay. -/
@[simp] theorem State.failTargets_mq (gone : Nat → Bool) (status : Nat) :
    mqIn (s.failTargets gone status).cores j = mqIn s.cores j := by
  unfold State.failTargets mqIn
  dsimp only
  induction s.cores with
  | nil => rfl
  | cons p l ih =>
    by_cases h : j = p.1
    · simp [tget, h]
    · simpa [tget, h] using ih

end keeps

/-! ### What adds no command -/

/-- The engine of a core has received no command of a number, or it is over. -/
def State.NoCmd (s : State) (j : Nat × Nat) (id : Nat) : Prop := ∀ m ∈ mqIn s.cores j, m.id ≠ id

theorem State.cmd?_eq_none {s : State} {j : Nat × Nat} {id : Nat} (h : s.NoCmd j id) : s.cmd? j id = none := by
  rw [State.cmd?, State.core_mq, List.find?_eq_none]
  intro m hm
  simpa using h m hm

section noCmd
variable {s : State} {j : Nat × Nat} {id : Nat}

theorem State.NoCmd.of_mq {t : State} (h : s.NoCmd j id) (e : mqIn t.cores j = mqIn s.cores j) : t.NoCmd j id := by
  rw [State.NoCmd, e]; exact h

/-- A core that loses some of its commands. -/
theorem State.NoCmd.onCore (h : s.NoCmd j id) (k : Nat × Nat) {f : Core → Core} (hf : ∀ c, (f c).mq ⊆ c.mq) :
    (s.onCore k f).NoCmd j id := by
  by_cases e : j = k
  · subst e
    rw [State.NoCmd, mqIn_onCore_self]
    exact fun m hm => h m (hf _ hm)
  · exact h.of_mq (mqIn_onCore_ne s e f)

theorem State.NoCmd.freeCore (h : s.NoCmd j id) (b : Nat) (x : Block) : (s.freeCore b x).NoCmd j id :=
  State.NoCmd.onCore h _ fun _ _ hm => (List.mem_filter.1 hm).1

theorem State.NoCmd.endBlock (h : s.NoCmd j id) (b : Nat) : (s.endBlock b).NoCmd j id := by
  unfold State.endBlock
  split
  · exact h
  next x _ =>
    extract_lets k s0 s1 s2
    have h1 : s1.NoCmd j id := by
      refine h.of_mq ?_
      unfold s1
      dsimp only
      (repeat' split) <;> simp [s0, State.loseQueues]
    exact (State.NoCmd.freeCore h1 b x).of_mq (State.failTargets_mq ..)

theorem State.NoCmd.settleOne (h : s.NoCmd j id) (b : Nat) : (s.settleOne b).NoCmd j id := by
  unfold State.settleOne
  (repeat' split)
  · exact h
  · exact h
  · exact h
  · exact (State.NoCmd.freeCore (s := s.loseQueues b) h b _).of_mq (State.failTargets_mq ..)
  · exact h.endBlock b

theorem State.NoCmd.settleRow (h : s.NoCmd j id) (die row : Nat) : (s.settleRow die row).NoCmd j id := by
  unfold State.settleRow
  split
  · exact h
  next r _ =>
    extract_lets gone scope s1 s2 s3
    split
    · exact h
    · have ended : s1.NoCmd j id := List.foldlRecOn (motive := (State.NoCmd · j id)) _ _ h fun t ht c _ => by
        split
        · exact State.NoCmd.endBlock (ht.of_mq (State.release_mq ..)) _
        · exact ht
      exact ended.of_mq (by simp [s3, s2])

theorem State.NoCmd.settleBlock (h : s.NoCmd j id) (b : Nat) : (s.settleBlock b).NoCmd j id := by
  unfold State.settleBlock
  (repeat' split)
  · exact h
  · exact (h.settleOne _).settleOne _
  · exact h.settleOne _

theorem State.NoCmd.settle (h : s.NoCmd j id) (c : Nat) : (s.settle c).NoCmd j id := by
  unfold State.settle
  (repeat' split)
  · exact h
  · exact h
  · exact h.settleRow _ _
  · exact h.settleBlock _

theorem State.NoCmd.opDone (h : s.NoCmd j id) (c op : Nat) : (s.opDone c op).NoCmd j id :=
  State.NoCmd.settle (h.of_mq (by simp)) c

end noCmd

/-- A command that is over stands in the queue no more (R304). -/
theorem State.endCmd_noCmd (s : State) (k : Nat × Nat) (m : MCmd) (status : Option Nat) :
    (s.endCmd k m status).NoCmd k m.id := by
  have dropped : (s.dropCmd k m.id).NoCmd k m.id := by
    rw [State.NoCmd, State.dropCmd, mqIn_onCore_self]
    intro x hx
    simpa using (List.mem_filter.1 hx).2
  have released := dropped.of_mq (t := (s.dropCmd k m.id).onBlockMem m.block fun b => b.letGo m.id []) (by simp)
  unfold State.endCmd
  dsimp only
  (repeat' split)
  · exact released.of_mq (by simp)
  · exact released
  · exact State.NoCmd.opDone (released.of_mq (by simp)) _ _
  · exact State.NoCmd.opDone released _ _

end Sys2Proof.Machine

/-!
# Chains and staging of the matrix unit

MCHB and MCHE set the chain of a tile, and MSTG leaves its arguments with the course (R292, R303).
-/

namespace Sys2Proof.Machine

section Exec
variable {s : State} (hs : Issuing s) (hg : s.iss.g3 ≠ 0)
include hs hg

theorem exec_mchb_next (m ord : Bool) (k : BitVec 2) :
    exec (.mchb m ord k) s = .next (s.setChain s.iss.src.info.block k.toNat ⟨true, ord || s.iss.src.det⟩) := by
  rw [exec_mchb, execMchb, slot3_next hs hg]

theorem exec_mche_next (m : Bool) (k : BitVec 2) :
    exec (.mche m k) s = .next ((s.pushCmd (MCmd.new s.iss .mche k.toNat)).setChain s.iss.src.info.block k.toNat
      ⟨false, false⟩) := by
  rw [exec_mche, execMche, slot3_next hs hg]

theorem exec_mstg_next (m : Bool) (a b c : SReg) (fmt : BitVec 4) (k : BitVec 2) :
    exec (.mstg m a b c fmt k) s = .next (s.onCourse s.iss.course fun x =>
      { x with staging := some (s.mmaArgs a b c fmt k) }) := by
  rw [exec_mstg, execMstg, slot3_next hs hg]

end Exec

/-- Settles O34: MCHB is `State.setChain` alone, MCHE does so after `State.pushCmd`, and MSTG updates its course. -/
theorem chainsAndStaging : Obligations.ChainsAndStaging := by
  unfold Obligations.ChainsAndStaging
  refine ⟨fun s m ord k hs hg => exec_mchb_next hs hg m ord k, fun s x m k hs ⟨hx, _⟩ hg => ?mche,
    fun s x m a b c fmt k hs ⟨hx, _⟩ hg => ?mstg⟩
  case mche =>
    obtain ⟨only, queued, counted⟩ := State.pushCmd_spec (MCmd.new s.iss .mche k.toNat) hx
    exact ⟨_, exec_mche_next hs hg m k, only, _, queued, rfl, rfl, counted⟩
  case mstg =>
    obtain ⟨only, staged⟩ := State.onCourse_spec hx fun x => { x with staging := some (s.mmaArgs a b c fmt k) }
    exact ⟨_, exec_mstg_next hs hg m a b c fmt k, only, staged⟩

end Sys2Proof.Machine

/-!
# Events of the matrix unit

A command is performed when its turn has come: on its tile, once it has taken its physical tile, or with the status of the
check that it fails (R284, R290, R296 to R305).
-/

namespace Sys2Proof.Machine

theorem State.readyCmd_spec {s : State} {k : Nat × Nat} {id : Nat} {kind : MKind} {m : MCmd}
    (h : s.readyCmd k id kind = some m) : s.cmd? k id = some m ∧ m.kind = kind ∧ s.canRun k m = true := by
  unfold State.readyCmd at h
  split at h
  · cases h
  · next x found =>
    split at h
    · next turn =>
      obtain rfl := Option.some.inj h
      obtain ⟨kind, turn⟩ := Bool.and_eq_true_iff.1 turn
      exact ⟨found, eq_of_beq kind, turn⟩
    · cases h

/-! ### A tile changes -/

theorem State.blockMem_onTile {s : State} {b : Nat} (hb : (s.block? b).isSome = true) (tile : Nat)
    (f : List Word → List Word) :
    (s.onTile b tile f).blockMem b = { s.blockMem b with tiles := modAt tile f (s.blockMem b).tiles } := by
  obtain ⟨x, hx⟩ := Option.isSome_iff_exists.1 hb
  rw [State.onTile, State.blockMem_onBlockMem_self hx, State.blockMem_of_some hx]

/-- A tile that lists nothing has 0 in every place, and so has one that the block does not have. -/
theorem getD_modAt_nil (tile : Nat) (l : List (List Word)) (i : Nat) :
    ((modAt tile (fun _ => []) l).getD tile []).getD i 0 = 0 := by
  rw [List.getD_eq_getElem?_getD (l := modAt tile _ l), getElem?_modAt_self]
  cases l[tile]? <;> rfl

/-! ### MZERO, MCHE and MACL (R296, R298, R299) -/

section events
variable {s : State} {die core k : Nat} {m : MCmd}

theorem exec_mzeroComplete_ready (h : s.readyCmd (die, core) k .mzero = some m) {u : State} {b : Bool}
    (taken : s.takeTile (die, core) m.block m.tile = (b, u)) :
    exec (.mzeroComplete die core k) s =
      .next (if b then (u.onTile m.block m.tile fun _ => []).endCmd (die, core) m none else u) := by
  rw [exec_mzeroComplete, execMzeroComplete, h]
  simp only [taken]

theorem exec_mcheComplete_ready (h : s.readyCmd (die, core) k .mche = some m) :
    exec (.mcheComplete die core k) s = .next (s.endCmd (die, core) m none) := by
  rw [exec_mcheComplete, execMcheComplete, h]

theorem exec_maclLanding_ready (h : s.readyCmd (die, core) k .macl = some m) :
    exec (.maclLanding die core k) s = .next (s.landRows (die, core) m) := by
  rw [exec_maclLanding, execMaclLanding, h]

theorem State.landRows_bad {key : Nat × Nat} (bad : s.tileBad m.block m.tile = true) :
    s.landRows key m = s.cmdBad key m := by
  rw [State.landRows, if_pos bad]

theorem State.landRows_good {key : Nat × Nat} {u : State} {b : Bool} (good : s.tileBad m.block m.tile = false)
    (taken : s.takeTile key m.block m.tile = (b, u)) :
    s.landRows key m = if b then (List.range 4).foldl (fun t j =>
      t.landOp m.course (m.flight.getD j 0) m.mask ((List.range (Config.lanes (Config.isTower key.1))).map fun i =>
        ((u.blockMem m.block).tiles.getD m.tile []).getD
          ((4 * m.row + j) * Config.lanes (Config.isTower key.1) + i) 0)) (u.dropCmd key m.id)
      else u := by
  rw [State.landRows, if_neg (Bool.eq_false_iff.1 good)]
  simp only [taken]
  cases b <;> rfl

/-! ### MDST (R300 to R302) -/

theorem exec_mdstComplete_ready (h : s.readyCmd (die, core) k .mdst = some m) :
    exec (.mdstComplete die core k) s = .next (
      if m.started then (if m.toMem then s else s.mdstFlips (die, core) m)
      else if m.stride.toNat < Config.lanes (Config.isTower die) * mdstSize (.ofNat 2 m.cvt) ∨
          m.stride.toNat % mdstSize (.ofNat 2 m.cvt) ≠ 0 then s.endCmd (die, core) m (some 4)
      else if m.toMem then s.mdstMem (die, core) m else s.mdstScratch (die, core) m) := by
  rw [exec_mdstComplete, execMdstComplete, h]
  simp

end events

/-! ### An MMA that stands alone (R89, R290, R297) -/

/-- An MMA that stands alone is its own chain. -/
theorem Core.chainOf_alone {c : Core} {m : MCmd} (alone : c.mq = [m]) (hk : m.kind = .mma) (hs : m.staged = none) :
    c.chainOf m = [m] := by
  simp [Core.chainOf, alone, MCmd.sameTile, hk, hs]

theorem State.cmd?_alone {s : State} {k : Nat × Nat} {m : MCmd} (alone : (s.core k).mq = [m]) : s.cmd? k m.id = some m := by
  simp [State.cmd?, alone]

theorem State.runMma_of_none {s : State} {k : Nat × Nat} {id : Nat} (h : s.cmd? k id = none) (n : Nat) :
    s.runMma k id n = s := by
  cases n with
  | zero => rfl
  | succ n => rw [State.runMma, h]

section alone
variable {s : State} {k : Nat × Nat} {m : MCmd} (alone : (s.core k).mq = [m]) (hk : m.kind = .mma)
  (hstaged : m.staged = none)
include alone hk hstaged

/-- It enters the array first, whether its chain is ordered or not. -/
theorem State.runMma_start (hm : m.started = false) (n : Nat) :
    s.runMma k m.id (n + 1) = (s.startMma k m).runMma k m.id n := by
  have chain := Core.chainOf_alone alone hk hstaged
  rw [State.runMma, State.cmd?_alone alone]
  cases order : m.ord with
  | true => simp [chain, order, hm]
  | false => simp [order, hm]

/-- Its only k-block that is left is the next that is applied. -/
theorem State.runMma_block (hm : m.started = true) {q : Nat} (hq : m.rest = [q]) (n : Nat) :
    s.runMma k m.id (n + 1) = (s.applyMma k m q).runMma k m.id n := by
  have chain := Core.chainOf_alone alone hk hstaged
  have no_others : s.startOthers k [m] = s := by simp [State.startOthers, hm]
  rw [State.runMma, State.cmd?_alone alone]
  cases order : m.ord with
  | true => simp [chain, order, hm, hq]
  | false => simp [chain, order, no_others, hm, hq, State.choose]

end alone

/-- Once a command is over, there is nothing left to run. -/
theorem State.runMma_endCmd (s : State) (k : Nat × Nat) (m : MCmd) (status : Option Nat) (n : Nat) :
    (s.endCmd k m status).runMma k m.id n = s.endCmd k m status :=
  State.runMma_of_none (State.cmd?_eq_none (State.endCmd_noCmd s k m status)) n

/-! ### An MMA enters the array (R291, R304, R305) -/

/-- The slots of the scratchpad that a command of a core touches (R301, R315). -/
def MCmd.slots (m : MCmd) (tower : Bool) : List Nat := slotsOfRanges tower (m.ranges (Config.lanes tower))

/-- An MMA in the array, with all of its k-blocks to come. -/
def MCmd.entered (m : MCmd) : MCmd := { m with started := true, rest := List.range (m.args.k.toNat / kBlock m.args.fmt) }

theorem MCmd.entered_block (m : MCmd) : m.entered.block = m.block := rfl

/-- The state in which an MMA that has its tile enters the array: it holds the slots of its operands (R315). -/
def State.enterMma (u : State) (k : Nat × Nat) (m : MCmd) : State :=
  (u.onBlockMem m.block fun b => b.take m.id (m.slots (Config.isTower k.1))).onCmd k m.id fun x =>
    { x with started := true, rest := m.entered.rest }

section startMma
variable {s : State} {k : Nat × Nat} {m : MCmd} (hm : m.started = false) (turn : s.canRun k m = true)
include hm turn

theorem State.startMma_status {e : Nat} (he : mmaStatus (s.blockMem m.block) (Config.isTower k.1) m.args = some e) :
    s.startMma k m = s.endCmd k m (some e) := by
  simp [State.startMma, hm, turn, he]

variable (ok : mmaStatus (s.blockMem m.block) (Config.isTower k.1) m.args = none)
include ok

theorem State.startMma_bad (bad : s.tileBad m.block m.tile = true) : s.startMma k m = s.cmdBad k m := by
  simp [State.startMma, hm, turn, ok, bad]

theorem State.startMma_enter (good : s.tileBad m.block m.tile = false) {u : State}
    (taken : s.takeTile k m.block m.tile = (true, u)) : s.startMma k m = u.enterMma k m := by
  rw [State.startMma, if_neg (by simp [hm, turn]), ok]
  simp only [good, taken]
  rfl

end startMma

/-! ### The only k-block of an MMA (R86, R297) -/

/-- The holds on slots are not among what the products are made of. -/
theorem applyBlock_take (b : BlockMem) (id : Nat) (slots : List Nat) : applyBlock (b.take id slots) = applyBlock b := rfl

theorem kBlock_pos (fmt : Nat) : 0 < kBlock fmt := by
  unfold kBlock
  split
  · decide
  · split <;> decide

theorem MCmd.entered_rest {m : MCmd} (one : m.args.k.toNat = kBlock m.args.fmt) : m.entered.rest = [0] := by
  rw [MCmd.entered, one, Nat.div_self (kBlock_pos _)]
  rfl

section enterMma
variable {u : State} {k : Nat × Nat} {m : MCmd}

theorem State.enterMma_mq (alone : (u.core k).mq = [m]) : ((u.enterMma k m).core k).mq = [m.entered] := by
  have kept (f : BlockMem → BlockMem) : ((u.onBlockMem m.block f).core k).mq = [m] := by
    rw [State.core_of_cores (State.onBlockMem_cores ..), alone]
  rw [State.enterMma, State.onCmd, State.core_onCore_self, kept]
  simp [MCmd.entered]

theorem State.enterMma_block {x : Block} (hx : u.block? m.block = some x) :
    ((u.enterMma k m).block? m.block).isSome = true := by
  rw [State.enterMma]
  exact (congrArg Option.isSome (State.block?_onBlock_self hx _)).trans rfl

theorem State.enterMma_blockMem {x : Block} (hx : u.block? m.block = some x) :
    (u.enterMma k m).blockMem m.block = (u.blockMem m.block).take m.id (m.slots (Config.isTower k.1)) := by
  rw [State.blockMem_of_some hx]
  exact State.blockMem_onBlockMem_self hx _

end enterMma

/-- The state in which the products of a k-block stand in the tile of an MMA (R297). -/
def State.addKBlock (t : State) (k : Nat × Nat) (m : MCmd) (q : Nat) : State :=
  (t.onTile m.block m.tile (applyBlock (t.blockMem m.block) (Config.lanes (Config.isTower k.1)) m.args q)).onCmd k m.id
    fun x => { x with rest := x.rest.erase q }

/-- The k-block that is left ends the command. -/
theorem State.applyMma_last {t : State} {k : Nat × Nat} {m : MCmd} {q : Nat} (hq : m.rest = [q]) :
    t.applyMma k m q = (t.addKBlock k m q).endCmd k m none := by
  rw [State.applyMma, hq, if_pos (by simp)]
  rfl

theorem State.addKBlock_tile {t : State} {m : MCmd} (hb : (t.block? m.block).isSome = true)
    (htile : m.tile < (t.blockMem m.block).tiles.length) (k : Nat × Nat) (q : Nat) :
    ((t.addKBlock k m q).blockMem m.block).tiles.getD m.tile [] =
      applyBlock (t.blockMem m.block) (Config.lanes (Config.isTower k.1)) m.args q
        ((t.blockMem m.block).tiles.getD m.tile []) := by
  show ((t.onTile m.block m.tile _).blockMem m.block).tiles.getD m.tile [] = _
  rw [State.blockMem_onTile hb]
  exact getD_modAt_self htile _ _

/-- An MMA of one k-block that stands alone and has its tile runs to its end. -/
theorem State.runMma_enterMma {u : State} {k : Nat × Nat} {m : MCmd} (alone : (u.core k).mq = [m]) (hk : m.kind = .mma)
    (hstaged : m.staged = none) (one : m.args.k.toNat = kBlock m.args.fmt) (n : Nat) :
    (u.enterMma k m).runMma k m.id (n + 1) = ((u.enterMma k m).addKBlock k m.entered 0).endCmd k m.entered none := by
  have rest := MCmd.entered_rest one
  have block := State.runMma_block (State.enterMma_mq (k := k) alone) hk hstaged rfl rest n
  rw [State.applyMma_last rest, State.runMma_endCmd] at block
  exact block

/-- Its tile then has the products of its k-block added to what it held. -/
theorem State.enterMma_addKBlock_tile {u : State} {m : MCmd} (hb : (u.block? m.block).isSome = true)
    (htile : m.tile < (u.blockMem m.block).tiles.length) (k : Nat × Nat) :
    (((u.enterMma k m).addKBlock k m.entered 0).blockMem m.block).tiles.getD m.tile [] =
      applyBlock (u.blockMem m.block) (Config.lanes (Config.isTower k.1)) m.args 0
        ((u.blockMem m.block).tiles.getD m.tile []) := by
  obtain ⟨x, hx⟩ := Option.isSome_iff_exists.1 hb
  have mem := State.enterMma_blockMem (k := k) hx
  have held : m.entered.tile < ((u.enterMma k m).blockMem m.entered.block).tiles.length := by
    rw [m.entered_block, mem]
    exact htile
  refine (State.addKBlock_tile (State.enterMma_block hx) held k 0).trans ?_
  rw [mem, applyBlock_take]
  rfl

theorem exec_mmaComplete_ready {s : State} {die core k : Nat} {m : MCmd} (h : s.readyCmd (die, core) k .mma = some m) :
    exec (.mmaComplete die core k) s =
      .next (s.runMma (die, core) k (1100 * (((s.core (die, core)).chainOf m).length + 1))) := by
  rw [exec_mmaComplete, execMmaComplete, h]

/-- MMA_COMPLETE of an MMA that stands alone begins with its entry into the array. -/
theorem exec_mmaComplete_alone {s : State} {die core : Nat} {m : MCmd} (h : s.readyCmd (die, core) m.id .mma = some m)
    (alone : (s.core (die, core)).mq = [m]) (hm : m.started = false) (hstaged : m.staged = none) :
    exec (.mmaComplete die core m.id) s = .next ((s.startMma (die, core) m).runMma (die, core) m.id 2199) := by
  obtain ⟨-, kind, -⟩ := State.readyCmd_spec h
  rw [exec_mmaComplete_ready h, Core.chainOf_alone alone kind hstaged]
  exact congrArg _ (State.runMma_start alone kind hstaged hm 2199)

/-- Settles O48: each event is the action of its command once `State.readyCmd` gives it; an MMA that stands alone enters the
array by `State.startMma` and ends by `State.runMma_enterMma`, as no command comes back after its end
(`State.endCmd_noCmd`). -/
theorem matrixEvents : Obligations.MatrixEvents := by
  unfold Obligations.MatrixEvents
  intro s u die core k m
  refine ⟨fun ready => ⟨fun taken hb => ⟨exec_mzeroComplete_ready ready taken, fun i => ?zero⟩,
    fun taken => exec_mzeroComplete_ready ready taken⟩, exec_mcheComplete_ready, ?mma, fun ready fresh => ⟨?stride, ?fits⟩,
    fun ready started => ?flips, fun ready bad => ?bad, fun ready good => ⟨fun taken => ?lands, fun taken => ?waits⟩⟩
  case zero =>
    rw [State.blockMem_onTile hb]
    exact getD_modAt_nil ..
  case mma =>
    rintro ready alone rfl fresh hstaged
    obtain ⟨-, kind, turn⟩ := State.readyCmd_spec ready
    have starts := exec_mmaComplete_alone ready alone fresh hstaged
    refine ⟨fun e he => ?_, fun ok bad => ⟨2199, ?_⟩, fun ok one good taken alone' hb htile => ?_⟩
    · rw [starts, State.startMma_status fresh turn he, State.runMma_endCmd]
    · rw [starts, State.startMma_bad fresh turn ok bad]
    · refine ⟨_, m.entered, ?_, rfl, rfl, rfl, kind, State.enterMma_addKBlock_tile hb htile (die, core)⟩
      rw [starts, State.startMma_enter fresh turn ok good taken, State.runMma_enterMma alone' kind hstaged one]
  case stride =>
    intro misfit
    rw [exec_mdstComplete_ready ready, if_neg (Bool.eq_false_iff.1 fresh), if_pos misfit]
  case fits =>
    intro wide whole
    rw [exec_mdstComplete_ready ready, if_neg (Bool.eq_false_iff.1 fresh),
      if_neg (not_or.2 ⟨Nat.not_lt.2 wide, fun uneven => uneven whole⟩)]
  case flips => rw [exec_mdstComplete_ready ready, if_pos started, State.mdstFlips]
  case bad => rw [exec_maclLanding_ready ready, State.landRows_bad bad]
  case lands => rw [exec_maclLanding_ready ready, State.landRows_good good taken, if_pos rfl]
  case waits => rw [exec_maclLanding_ready ready, State.landRows_good good taken, if_neg Bool.false_ne_true]

end Sys2Proof.Machine

/-!
# Descriptor sets

SHP fills a set when its bundle issues, and CPY and CPYM take the words of theirs with them (R303, R309, R317).
-/

namespace Sys2Proof.Machine

/-- Every word of every set is 0 when a course starts. -/
theorem Course.start_word (info : CourseInfo) {n w : Nat} (hn : n < 8) (hw : w < 8) (d : DWord) :
    ((Course.start info).d.getD n []).getD w d = 0 := by
  have set : (Course.start info).d.getD n [] = List.replicate 8 0 := by
    rw [Course.start, List.getD_eq_getElem?_getD, List.getElem?_replicate_of_lt hn]
    rfl
  rw [set, List.getD_eq_getElem?_getD, List.getElem?_replicate_of_lt hw]
  rfl

/-- Up to S24 the eight registers of SHP are S[a] to S[a + 7]. -/
theorem shpRegs_map_sIn (s : State) {a : SReg} (h : a.toNat ≤ 24) :
    (shpRegs a).map s.sIn = (List.range 8).map fun q => s.iss.src.s (a.toNat + q) := by
  rw [shpRegs, List.map_map]
  refine List.map_congr_left fun q hq => ?_
  have hq8 : q < 8 := List.mem_range.1 hq
  have reg : (a + .ofNat 5 q : SReg).toNat = a.toNat + q := by
    rw [BitVec.toNat_add, BitVec.toNat_ofNat]
    omega
  exact congrArg s.iss.src.s reg

section exec
variable {s : State} (hs : Issuing s) (hg : s.iss.g3 ≠ 0)
include hs hg

theorem exec_shp_next (m : Bool) (a : SReg) (n : BitVec 3) :
    exec (.shp m a n) s = .next (s.onCourse s.iss.course fun x =>
      { x with d := setAt n.toNat ((shpRegs a).map s.sIn) x.d }) := by
  rw [exec_shp, execShp, slot3_next hs hg]

theorem exec_cpy_next (m : Bool) (n : BitVec 3) : exec (.cpy m n) s = .next (s.pushCopy n false) := by
  rw [exec_cpy, execCpy, slot3_next hs hg]

theorem exec_cpym_next (m : Bool) (n : BitVec 3) : exec (.cpym m n) s = .next (s.pushCopy n true) := by
  rw [exec_cpym, execCpym, slot3_next hs hg]

end exec

/-! ### A copy joins its engine -/

theorem State.pushCmd_copies (s : State) (m : MCmd) :
    ((s.pushCmd m).core s.iss.src.coreKey).copies = (s.core s.iss.src.coreKey).copies := by
  unfold State.pushCmd
  dsimp only
  split
  · rw [State.core_onCore_self]; rfl
  · rw [State.core_onCourse, State.core_onCore_self]; rfl

/-- What stands before a copy in its engine's list when it joins: at most a staged MMA has joined the matrix engine, and the
list of copies and the sets of the course are as they were (R303). -/
def BeforeCopy (s u : State) (x : Course) : Prop :=
  OnlyCourseCore s u s.iss.course s.iss.src.coreKey ∧
    (u.core s.iss.src.coreKey).copies = (s.core s.iss.src.coreKey).copies ∧
    ∃ y, u.course? s.iss.course = some y ∧ y.d = x.d

/-- A copy stands last in the list of its engine, and its course counts it. -/
def State.joinCopy (u : State) (k : Nat × Nat) (c : Nat) (q : CopyCmd) (g : Course → Course) : State :=
  (u.onCore k fun x => { x with copies := x.copies ++ [q] }).onCourse c g

section join
variable {s : State} {x : Course} (hx : s.course? s.iss.course = some x)
include hx

theorem BeforeCopy.fresh : BeforeCopy s s.fresh.2 x := ⟨OnlyCourseCore.fresh .., rfl, x, hx, rfl⟩

theorem BeforeCopy.staged (a : MmaArgs) : BeforeCopy s (s.fresh.2.pushCmd (s.fresh.2.newMma a (some s.uid))) x := by
  obtain ⟨only, -, counted⟩ := State.pushCmd_spec (s := s.fresh.2) (s.fresh.2.newMma a (some s.uid)) hx
  exact ⟨(OnlyCourseCore.fresh ..).trans only, State.pushCmd_copies s.fresh.2 _, x.count _ 3, counted, rfl⟩

omit hx in
theorem BeforeCopy.joinCopy {u : State} (h : BeforeCopy s u x) (q : CopyCmd) {g : Course → Course}
    (sets : ∀ y, (g y).d = y.d) :
    let t := u.joinCopy s.iss.src.coreKey s.iss.course q g
    OnlyCourseCore s t s.iss.course s.iss.src.coreKey ∧
      (t.core s.iss.src.coreKey).copies = (s.core s.iss.src.coreKey).copies ++ [q] ∧
      ∃ y, t.course? s.iss.course = some (g y) ∧ (g y).d = x.d := by
  obtain ⟨only, copies, y, hy, hd⟩ := h
  refine ⟨only.trans ((OnlyCourseCore.onCore ..).trans (OnlyCourseCore.onCourse ..)), ?_,
    y, State.course?_onCourse_self (s := u.onCore _ _) hy g, (sets y).trans hd⟩
  rw [State.joinCopy, State.core_onCourse, State.core_onCore_self, ← copies]

/-- A copy joins with the words of its set as the bundle read them, not started yet (R309, R317). -/
theorem State.pushCopy_spec (n : BitVec 3) (cpym : Bool) :
    ∃ c y, OnlyCourseCore s (s.pushCopy n cpym) s.iss.course s.iss.src.coreKey ∧
      ((s.pushCopy n cpym).core s.iss.src.coreKey).copies = (s.core s.iss.src.coreKey).copies ++ [c] ∧
      c.w = s.iss.src.d.getD n.toNat [] ∧ c.dn = n.toNat ∧ c.started = false ∧
      (s.pushCopy n cpym).course? s.iss.course = some y ∧ ⟨c.id, 2, false⟩ ∈ y.outs ∧ y.d = x.d := by
  unfold State.pushCopy
  extract_lets i u g s1 c
  clear_value g
  have before : BeforeCopy s s1 x := by
    unfold s1
    split
    · exact BeforeCopy.staged hx _
    · exact BeforeCopy.fresh hx
  obtain ⟨only, copies, y, hy, sets⟩ := before.joinCopy c
    (g := fun y => { y.count u.1 2 with staging := if cpym then none else y.staging }) fun _ => rfl
  exact ⟨c, _, only, copies, rfl, rfl, rfl, hy, List.mem_append_right _ (List.mem_singleton.2 rfl), sets⟩

end join

/-- Settles O35: SHP writes one set of its course (`exec_shp_next`), and a copy joins by `State.pushCopy_spec` with the words
that its bundle read. -/
theorem descriptorSets : Obligations.DescriptorSets := by
  unfold Obligations.DescriptorSets
  refine ⟨fun info n w hn hw => Course.start_word info hn hw 1, fun s x m a n hs ⟨hx, _⟩ hg hd ha => ?shp,
    fun s x i n hs ⟨hx, _⟩ hg hi => ?copy⟩
  case shp =>
    have hn : n.toNat < x.d.length := by rw [hd]; exact n.isLt
    obtain ⟨only, written⟩ := State.onCourse_spec hx fun x => { x with d := setAt n.toNat ((shpRegs a).map s.sIn) x.d }
    refine ⟨_, _, exec_shp_next hs hg m a n, only, written, rfl, ?_, fun k hk => getD_setAt_ne hk _ _ _⟩
    rw [← shpRegs_map_sIn s ha]
    exact getD_setAt_self hn _ _
  case copy =>
    obtain ⟨m, rfl⟩ | ⟨m, rfl⟩ := hi
    · obtain ⟨c, y, copy⟩ := State.pushCopy_spec hx n false
      exact ⟨_, y, c, exec_cpy_next hs hg m n, copy⟩
    · obtain ⟨c, y, copy⟩ := State.pushCopy_spec hx n true
      exact ⟨_, y, c, exec_cpym_next hs hg m n, copy⟩

end Sys2Proof.Machine

/-!
# Named queues

Pushes and pops change one queue of the issuing block, and QCFG makes a queue or takes one away (R324 to R329).
-/

namespace Sys2Proof.Machine

theorem State.queue?_onBlockMem {s : State} {x : Course} {b : Block} (hb : s.block? x.info.block = some b)
    (f : BlockMem → BlockMem) (q : Nat) :
    (s.onBlockMem x.info.block f).queue? x q = (f b.mem).queues.find? fun k => k.q == q := by
  rw [State.queue?, State.blockMem_onBlockMem_self hb]

/-! ### Pushes and pops -/

section exec
variable {s : State} {m : Bool} {q : BitVec 4} (hs : Issuing s) (hg : s.iss.g3 ≠ 0)
include hs hg

section push
variable {a : SReg}

theorem exec_qpush_reserved (ones : (s.sIn a).setWidth 32 = 0xFFFFFFFF#32) :
    exec (.qpush m a q) s = .next (s.asyncErr s.iss.course 2 q.toNat 6) := by
  rw [exec_qpush, execQpush, slot3_next hs hg]
  simp only [if_pos ones, State.queueErr]

variable (word : (s.sIn a).setWidth 32 ≠ 0xFFFFFFFF#32)
include word

theorem exec_qpush_queue {k : NQueue} (hk : s.queue? s.iss.src q.toNat = some k) :
    exec (.qpush m a q) s = .next (s.onQueue q.toNat fun k =>
      { k with entries := k.entries ++ [((s.sIn a).setWidth 32, s.iss.course)] }) := by
  rw [exec_qpush, execQpush, slot3_next hs hg]
  simp only [if_neg word, hk]

theorem exec_qpush_noQueue (hk : s.queue? s.iss.src q.toNat = none) :
    exec (.qpush m a q) s = .next (s.asyncErr s.iss.course 2 q.toNat 4) := by
  rw [exec_qpush, execQpush, slot3_next hs hg]
  simp only [if_neg word, hk, State.queueErr]

end push

theorem exec_qpop_next (d : Code) : exec (.qpop m d q) s = .next (s.popQueue (.qpop m d q) q) := by
  rw [exec_qpop, execQpop, slot3_next hs hg]

theorem exec_qtry_next (d : Code) : exec (.qtry m d q) s = .next (s.popQueue (.qtry m d q) q) := by
  rw [exec_qtry, execQtry, slot3_next hs hg]

end exec

section popQueue
variable {s : State} {q : BitVec 4} {k : NQueue} (hk : s.queue? s.iss.src q.toNat = some k)
include hk

/-- The oldest entry is taken where no earlier waiter is to have it (R326). -/
theorem State.popQueue_entry {e : Word × Nat} {l : List (Word × Nat)} (entries : k.entries = e :: l)
    (can : k.canPop s.iss.course s.iss.pc = true) (i : Instr) :
    s.popQueue i q = (s.writeAll i [List.replicate s.iss.src.w e.1] 0).onQueue q.toNat fun k =>
      { k with entries := l, waiters := k.waiters.filter (· != (s.iss.course, s.iss.pc)) } := by
  rw [State.popQueue, hk]
  simp only [entries, if_pos can]

theorem State.popQueue_empty (entries : k.entries = []) (i : Instr) :
    s.popQueue i q = s.writeAll i [List.replicate s.iss.src.w 0xFFFFFFFF#32] 0 := by
  rw [State.popQueue, hk]
  simp only [entries]

end popQueue

/-- A push or a pop changes the entries of its queue alone. -/
theorem State.onQueue_queues {s : State} {b : Block} (hb : s.block? s.iss.src.info.block = some b) (q : Nat)
    (f : NQueue → NQueue) :
    ((s.onQueue q f).blockMem s.iss.src.info.block).queues = b.mem.queues.map fun k => if k.q = q then f k else k :=
  congrArg BlockMem.queues (State.blockMem_onBlockMem_self hb fun m =>
    { m with queues := m.queues.map fun k => if k.q = q then f k else k })

/-! ### Configuration (R324) -/

/-- A block without a queue. -/
def BlockMem.dropQueue (b : BlockMem) (q : Nat) : BlockMem :=
  { b.letGo (portHold q) [] with queues := b.queues.filter fun k => k.q != q }

/-- A block with one more queue, whose slots its port holds. -/
def BlockMem.addQueue (b : BlockMem) (tower : Bool) (k : NQueue) : BlockMem :=
  { b.take (portHold k.q) (slotsOfRanges tower [(k.base.toNat, 64 + 4 * k.cap)]) with queues := b.queues ++ [k] }

theorem BlockMem.find?_dropQueue (b : BlockMem) (q : Nat) : (b.dropQueue q).queues.find? (fun k => k.q == q) = none := by
  rw [List.find?_eq_none]
  intro k hk
  have other : (k.q != q) = true := (List.mem_filter.1 hk).2
  simpa using other

theorem BlockMem.find?_addQueue {b : BlockMem} {k : NQueue} {q : Nat} (fresh : (b.queues.any fun x => x.q == q) = false)
    (hk : k.q = q) (tower : Bool) : (b.addQueue tower k).queues.find? (fun x => x.q == q) = some k := by
  have old : b.queues.find? (fun x => x.q == q) = none := by
    rw [List.find?_eq_none]
    exact fun x hx => List.any_eq_false.1 fresh x hx
  show (b.queues ++ [k]).find? _ = some k
  simp [List.find?_append, old, hk]

/-- What may be created does not exist yet. -/
theorem qcfgStatus_fresh {m : BlockMem} {tower : Bool} {base cfg : DWord} {q : Nat}
    (h : qcfgStatus m tower base cfg q = none) : (m.queues.any fun k => k.q == q) = false := by
  unfold qcfgStatus at h
  dsimp only at h
  split at h
  · cases h
  split at h
  · cases h
  split at h
  · cases h
  split at h
  · cases h
  · next fresh => exact Bool.eq_false_iff.2 fresh

section qcfg
variable {s : State} {m : Bool} {a b : SReg} {q : BitVec 4} {blk : Block} (hs : Issuing s) (hg : s.iss.g3 ≠ 0)
  (hb : s.block? s.iss.src.info.block = some blk)
include hs hg hb

section remove
variable {k : NQueue} (zero : fld (s.sIn b) 0 11 = 0) (hk : (blk.mem.queues.find? fun k => k.q == q.toNat) = some k)
include zero hk

theorem exec_qcfg_remove (noEntry : k.entries = []) (noWaiter : k.waiters = [])
    (notAwaited : s.queueAwaited s.iss.src.info.block q.toNat = false) :
    exec (.qcfg m a b q) s = .next (s.onBlockMem s.iss.src.info.block fun b => b.dropQueue q.toNat) := by
  rw [exec_qcfg, execQcfg, slot3_next hs hg]
  simp only [State.blockMem_of_some hb, zero, hk, noEntry, noWaiter, notAwaited]
  rfl

theorem exec_qcfg_busy
    (busy : k.entries ≠ [] ∨ k.waiters ≠ [] ∨ s.queueAwaited s.iss.src.info.block q.toNat = true) :
    exec (.qcfg m a b q) s = .next (s.asyncErr s.iss.course 2 q.toNat 5) := by
  have held : (!k.entries.isEmpty || !k.waiters.isEmpty || s.queueAwaited s.iss.src.info.block q.toNat) = true := by
    simpa [or_assoc] using busy
  rw [exec_qcfg, execQcfg, slot3_next hs hg]
  simp only [State.blockMem_of_some hb, zero, hk, if_pos held]
  rfl

end remove

variable (room : fld (s.sIn b) 0 11 ≠ 0)
include room

theorem exec_qcfg_create (ok : qcfgStatus blk.mem s.iss.src.tower (s.sIn a) (s.sIn b) q.toNat = none) :
    exec (.qcfg m a b q) s = .next (s.onBlockMem s.iss.src.info.block fun x => x.addQueue s.iss.src.tower
      ⟨q.toNat, s.sIn a, fld (s.sIn b) 0 11, fld (s.sIn b) 16 11, [], []⟩) := by
  rw [exec_qcfg, execQcfg, slot3_next hs hg]
  simp only [State.blockMem_of_some hb, if_neg room, ok]
  rfl

theorem exec_qcfg_status {n : Nat} (fails : qcfgStatus blk.mem s.iss.src.tower (s.sIn a) (s.sIn b) q.toNat = some n) :
    exec (.qcfg m a b q) s = .next (s.asyncErr s.iss.course 2 q.toNat n) := by
  rw [exec_qcfg, execQcfg, slot3_next hs hg]
  simp only [State.blockMem_of_some hb, if_neg room, fails]
  rfl

end qcfg

/-- Settles O37: a push or a pop is `State.onQueue` (`State.onQueue_queues`), and QCFG is `BlockMem.addQueue` or
`BlockMem.dropQueue` on the block's allocation alone. -/
theorem namedQueues : Obligations.NamedQueues := by
  unfold Obligations.NamedQueues
  refine ⟨fun s m q hs hg => ⟨fun a => exec_qpush_reserved hs hg, fun a k word => exec_qpush_queue hs hg word,
    fun a word => exec_qpush_noQueue hs hg word, fun d i k e l hi hk entries can => ?pop, fun d k hk entries => ?empty⟩,
    fun s f q b hb _ => State.onQueue_queues hb q f,
    fun s m a b q blk hs hg hb => ⟨fun k zero hk => ⟨fun noEntry noWaiter notAwaited => ?remove,
      exec_qcfg_busy hs hg hb zero hk⟩, fun room ok => ?create, fun n room => exec_qcfg_status hs hg hb room⟩⟩
  case pop =>
    obtain rfl | rfl := hi
    · rw [exec_qpop_next hs hg, State.popQueue_entry hk entries can]
    · rw [exec_qtry_next hs hg, State.popQueue_entry hk entries can]
  case empty => rw [exec_qtry_next hs hg, State.popQueue_empty hk entries]
  case remove =>
    refine ⟨_, exec_qcfg_remove hs hg hb zero hk noEntry noWaiter notAwaited, OnlyBlockMem.of_onBlockMem .., ?_⟩
    rw [State.queue?_onBlockMem hb, BlockMem.find?_dropQueue]
  case create =>
    refine ⟨_, exec_qcfg_create hs hg hb room ok, OnlyBlockMem.of_onBlockMem .., ?_⟩
    rw [State.queue?_onBlockMem hb]
    exact BlockMem.find?_addQueue (qcfgStatus_fresh ok) rfl _

end Sys2Proof.Machine

/-!
# Copies and staging units proceed

The checks of a copy that starts, the payload of one that has started, and the units of the staging buffers (R315 to R323,
R475 to R479).
-/

namespace Sys2Proof.Machine

/-! ### COPY_START (R317) -/

section startCopy
variable {s : State} {k : Nat × Nat} {c : CopyCmd} (oldest : ((s.core k).copies.find? fun c => !c.started) = some c)
include oldest

theorem State.startCopy_set {e : Nat} (bad : c.setStatus = some e) : s.startCopy k c.id = s.endCopy c e := by
  simp [State.startCopy, oldest, bad]

variable (valid : c.setStatus = none)
include valid

theorem State.startCopy_outside (outside : c.inOwn (s.blockMem c.block).n = false) :
    s.startCopy k c.id = s.endCopy c 2 := by
  simp [State.startCopy, oldest, valid, outside]

variable (inside : c.inOwn (s.blockMem c.block).n = true)
include inside

theorem State.startCopy_threads
    (threads : (c.ownSlots.1 ++ c.ownSlots.2).all (s.blockMem c.block).engineOwned = false) :
    s.startCopy k c.id = s.endCopy c 1 := by
  rw [State.startCopy, oldest]
  simp only [bne_self_eq_false, valid, inside, threads]
  rfl

variable (engines : (c.ownSlots.1 ++ c.ownSlots.2).all (s.blockMem c.block).engineOwned = true)
include engines

theorem State.startCopy_noTarget (noTarget : s.targetsOf c = none) : s.startCopy k c.id = s.endCopy c 7 := by
  rw [State.startCopy, oldest]
  simp only [bne_self_eq_false, valid, inside, engines, noTarget]
  rfl

/-- It takes the slots of its own block and gets its targets. -/
theorem State.startCopy_starts {ts : List Target} (targets : s.targetsOf c = some ts) :
    s.startCopy k c.id = (s.onBlockMem c.block fun m => m.take c.id (c.ownSlots.1 ++ c.ownSlots.2)).onCopy k c.id fun x =>
      { x with started := true, targets := ts } := by
  rw [State.startCopy, oldest]
  simp only [bne_self_eq_false, valid, inside, engines, targets]
  rfl

end startCopy

/-! ### COPY_COMPLETE (R318 to R323) -/

section completeCopy
variable {s : State} {die core k n : Nat} {c : CopyCmd} {t : Target} (copy : s.copy? (die, core) k = some c)
  (target : c.targets[n]? = some t) (started : c.started = true) (ready : s.copyReady c = true)
include copy target started ready

theorem exec_copyComplete_done (done : t.done = true) :
    exec (.copyComplete die core k n) s = .next (s.settleCopy (die, core) k) := by
  rw [exec_copyComplete, execCopyComplete]
  simp [copy, target, started, ready, done]

variable (going : t.done = false)
include going

theorem exec_copyComplete_local (home : c.remote = false) :
    exec (.copyComplete die core k n) s = .next (s.copyLocal c) := by
  rw [exec_copyComplete, execCopyComplete]
  simp [copy, target, started, ready, going, home]

theorem exec_copyComplete_remote (remote : c.remote = true) :
    exec (.copyComplete die core k n) s = .next (
      if c.slots.all t.has then s.meshOver c else if t.die = c.die then s.copyMesh c n t
      else if s.targetFits c t then s else (s.targetOver c n 2).meshOver c) := by
  rw [exec_copyComplete, execCopyComplete]
  cases fits : s.targetFits c t
  · simp [copy, target, started, ready, going, remote, fits]
  · simp [copy, target, started, ready, going, remote, fits]

end completeCopy

theorem State.meshOver_of_some {s : State} {c x : CopyCmd} (hx : s.copy? c.key c.id = some x) :
    s.meshOver c = ((List.range x.targets.length).foldl (fun s i => s.targetFinish x i)
      (if x.targets.all fun t => t.done || x.slots.all t.has then s.sourceOver x else s)).settleCopy c.key c.id := by
  rw [State.meshOver, hx]

/-- The words of a source in the own scratchpad are there to read (R319). -/
theorem State.copyRead_own {c : CopyCmd} (own : c.sk = 1) (s : State) (piece : Nat) (l : List (DWord × DWord)) :
    s.copyRead c piece l = (.words (l.map fun p => wordOf ((s.blockMem c.block).read p.1.toNat 4)), s) := by
  rw [State.copyRead, if_pos own]

/-- A copy within the scratchpad writes the words that it has read. -/
theorem State.copyLocal_own {c : CopyCmd} (source : c.sk = 1) (dest : c.dk = 1) (s : State) :
    s.copyLocal c = ((((s.onBlockMem c.block fun m => c.pairs.foldl (fun m p =>
      m.write p.2.toNat (bytesOf 4 (wordOf ((s.blockMem c.block).read p.1.toNat 4)))) m).sourceOver c).sendStaged
        c).targetOver c 0 0).settleCopy c.key c.id := by
  rw [State.copyLocal, State.copyRead_own source]
  simp only [if_pos dest, ← List.map_prod_left_eq_zip, List.foldl_map]

/-! ### STAGING_UNIT_ARRIVAL (R475 to R479) -/

theorem exec_stagingUnitArrival_arrives {s : State} {die core k : Nat} {c : CopyCmd}
    (copy : s.copy? (die, core) k = some c) (started : c.started = true) (remote : c.remote = true) (away : c.tdie ≠ c.die)
    (ready : s.copyReady c = true) (going : c.targets.all (·.done) = false) :
    exec (.stagingUnitArrival die core k) s = .next (s.unitArrives c) := by
  rw [exec_stagingUnitArrival, execStagingUnitArrival]
  simp [copy, started, remote, away, ready, going]

theorem State.copy?_id {s : State} {k : Nat × Nat} {id : Nat} {c : CopyCmd} (copy : s.copy? k id = some c) : c.id = id :=
  eq_of_beq (List.find?_some (p := fun c : CopyCmd => c.id == id) copy)

/-- Where every target has room for its bytes none fails. -/
theorem State.dropUnfit_fits {s : State} {c : CopyCmd} (fits : ∀ t ∈ c.targets, s.targetFits c t = true) :
    s.dropUnfit c = s := by
  refine List.foldlRecOn (motive := (· = s)) _ _ rfl fun u same i _ => ?_
  subst same
  split
  · next t ht => rw [if_pos (fits t (List.mem_of_getElem? ht))]
  · rfl

theorem State.unitArrives_fits {s : State} {c : CopyCmd} (copy : s.copy? c.key c.id = some c)
    (fits : ∀ t ∈ c.targets, s.targetFits c t = true) (going : c.targets.all (·.done) = false) :
    s.unitArrives c = s.unitTaken c := by
  simp [State.unitArrives, State.dropUnfit_fits fits, copy, going]

/-- The targets that a unit is for: those that are still to take bytes and have room for them (R318, R476). -/
def State.openTargets (s : State) (c : CopyCmd) : List Nat :=
  (List.range c.targets.length).filter fun i =>
    match c.targets[i]? with | some t => !t.done && s.targetFits c t | none => false

theorem State.mem_openTargets {s : State} {c : CopyCmd} {i : Nat} :
    i ∈ s.openTargets c ↔ ∃ t, c.targets[i]? = some t ∧ t.done = false ∧ s.targetFits c t = true := by
  rw [State.openTargets, List.mem_filter, List.mem_range]
  by_cases hi : i < c.targets.length
  · simp [hi]
  · simp [hi]

/-- A unit of a copy: the words of one slot that its bytes end with, for the open targets (R311, R475, R476). -/
def State.unitOf (s : State) (c : CopyCmd) (slot : Nat) (l : List (DWord × DWord)) (ws : List Word) : StagUnit :=
  ⟨c.id, c.key, c.dir, slot, ((l.zip ws).filter fun p => (c.winners slot).contains p.1).map fun p => (p.1.2.toNat, p.2),
    s.openTargets c⟩

@[simp] theorem State.crossed_staging (s : State) (a b n : Nat) : (s.crossed a b n).staging = s.staging := by
  unfold State.crossed
  exact State.foldl_keeps State.staging (fun _ _ => State.onRegs_staging ..) _ _

@[simp] theorem State.visible_staging (s : State) (blk : Nat) : (s.visible blk).staging = s.staging := by
  simp [State.visible]

@[simp] theorem State.onCopy_staging (s : State) (k : Nat × Nat) (id : Nat) (f : CopyCmd → CopyCmd) :
    (s.onCopy k id f).staging = s.staging := rfl

@[simp] theorem State.sourceOver_staging (s : State) (c : CopyCmd) : (s.sourceOver c).staging = s.staging := by
  unfold State.sourceOver
  split <;> simp

section unitTaken
variable {s : State} {c : CopyCmd} {q : Nat} {l : List (DWord × DWord)}
  (unit : c.units[(c.targets.map (·.sent)).foldl max 0]? = some (q, l))
include unit

theorem State.unitTaken_full (full : 256 ≤ (s.staging.filter fun u => u.2.dir == c.dir).length) :
    s.unitTaken c = s.onRegs fun r => r.addMb 2 c.dir 1 := by
  rw [State.unitTaken]
  simp only [unit, if_pos full]

/-- A unit that has been read stands last in staging, and memory is as it was. -/
theorem State.unitTaken_words (room : (s.staging.filter fun u => u.2.dir == c.dir).length < 256) {ws : List Word} {v : State}
    (read : s.copyRead c ((c.targets.map (·.sent)).foldl max 0) l = (.words ws, v)) :
    (s.unitTaken c).staging = v.staging ++ [(v.uid, s.unitOf c q l ws)] ∧ (s.unitTaken c).mem = v.mem := by
  rw [State.unitTaken]
  simp only [unit, if_neg (Nat.not_le.2 room), read, apply_ite State.staging, apply_ite State.mem, State.sourceOver_staging,
    State.onCopy_staging, State.visible_staging, State.onRegs_staging, State.crossed_staging, State.sourceOver_mem,
    State.onCopy_mem, State.visible_mem, State.onRegs_mem, State.crossed_mem, ite_self]
  exact ⟨rfl, rfl⟩

end unitTaken

/-! ### STAGING_UNIT_DRAIN (R475, R476) -/

theorem exec_stagingUnitDrain_drains {s : State} {u n : Nat} {x : StagUnit} (unit : tget u s.staging = some x)
    (target : x.targets.contains n = true) : exec (.stagingUnitDrain x.dir u n) s = .next (s.drainUnit u n x) := by
  rw [exec_stagingUnitDrain, execStagingUnitDrain]
  simp only [unit, target, decide_true, Bool.and_self, if_true]

/-- A unit leaves its bytes in the slot of a target. -/
def State.drained (s : State) (t : Target) (u n : Nat) (x : StagUnit) : State :=
  (s.onBlockMem t.block fun m => x.data.foldl (fun m p => m.write p.1 (bytesOf 4 p.2)) m).unitLess u n

section drainUnit
variable {s : State} {n : Nat} {x : StagUnit} {c : CopyCmd} {t : Target} (copy : s.copy? x.core x.copy = some c)
  (target : c.targets[n]? = some t) (going : t.done = false)
include copy target going

theorem State.drainUnit_waits (u : Nat) (shut : s.takes t x.slot = false) : s.drainUnit u n x = s := by
  simp [State.drainUnit, copy, target, going, shut]

theorem State.drainUnit_takes (u : Nat) (takes : s.takes t x.slot = true) :
    s.drainUnit u n x = s.drained t u n x ∨
      s.drainUnit u n x = ((s.drained t u n x).slotDone c n x.slot).settleCopy x.core x.copy := by
  rw [State.drainUnit]
  simp only [copy, target, going, takes, Bool.not_true, Bool.false_eq_true, if_false]
  split
  · exact .inr rfl
  · exact .inl rfl

end drainUnit

end Sys2Proof.Machine

/-!
# Collectives proceed

A collective starts where its checks hold and its members match, completes once it has read what it reads, and fails with a
mix of old and new bytes (R520 to R528, R532).
-/

namespace Sys2Proof.Machine

/-! ### COLLECTIVE_START (R520 to R523, R527, R528) -/

/-- A collective that goes on, with its members by rank (R521). -/
def State.goColl (s : State) (c : Coll) (own : Nat) (l : List Nat) : State :=
  s.onColl c.id fun x => { x with started := true, members := l, rank := (l.idxOf? own).getD 0, flt := none }

section start
variable {s : State} {k : Nat} {c : Coll}

theorem exec_collectiveStart_due (coll : s.coll? k = some c) (fresh : c.started = false) (due : s.collDue c = true) :
    exec (.collectiveStart k) s = .next (s.startColl c) := by
  rw [exec_collectiveStart, execCollectiveStart, coll]
  simp only [fresh, due, Bool.not_true, Bool.or_false, Bool.false_eq_true, if_false]

theorem State.startColl_error {e : CRead} (fails : (s.collCheck c).1 = .error e) :
    s.startColl c = (s.collCheck c).2.collStop c e := by
  unfold State.startColl
  simp only [fails]

variable {l : List Nat} (ok : (s.collCheck c).1 = .ok l)
include ok

/-- A collective of one member waits for no other. -/
theorem State.startColl_alone (alone : l.length = 1) :
    s.startColl c = ((s.collCheck c).2.release c.key c.block 4).goColl c (ownId s.fab.fabid) l := by
  unfold State.startColl
  simp only [ok, if_pos alone]
  rfl

/-- What the other members have issued is free: it matches, it disagrees, or an address of another member fails (log entry
13). -/
theorem State.startColl_members (others : l.length ≠ 1) :
    let t := ((s.collCheck c).2.choose 3).2
    s.startColl c = (t.release c.key c.block 4).goColl c (ownId s.fab.fabid) l ∨ s.startColl c = t.endColl c 5 ∨
      s.startColl c = (t.mixUnknown { c with members := l }).endColl c 3 := by
  unfold State.startColl
  simp only [ok, if_neg others]
  split
  · exact .inl rfl
  · exact .inr (.inl rfl)
  · exact .inr (.inr rfl)

end start

/-! ### COLLECTIVE_COMPLETE and TRANSPORT_UNREACHABLE_TIMEOUT (R524 to R528, R532) -/

section complete
variable {s : State} {k : Nat} {c : Coll} (coll : s.coll? k = some c) (started : c.started = true)
include coll started

theorem exec_collectiveComplete_started : exec (.collectiveComplete k) s = .next (s.completeColl c) := by
  rw [exec_collectiveComplete, execCollectiveComplete, coll]
  simp only [if_pos started]

theorem exec_transportUnreachableTimeout_other {n : Nat} (member : n < c.members.length) (other : n ≠ c.rank) :
    exec (.transportUnreachableTimeout k n) s =
      .next ((if c.written = true then s else s.mixUnknown c).endColl c 6) := by
  rw [exec_transportUnreachableTimeout, execTransportUnreachableTimeout, coll]
  simp [State.collLink, started, member, other]

end complete

theorem State.completeColl_written {s : State} {c : Coll} (written : c.written = true) :
    s.completeColl c = s.settleColl c.id := by
  rw [State.completeColl, if_pos written]

section unwritten
variable {s t : State} {c : Coll} (unwritten : c.written = false)
include unwritten

theorem State.completeColl_words {xs rs : List Word} {u : State}
    (source : s.collRead c 1 (wordsAt c.src c.sourceLen) = (.words xs, t))
    (residuals : t.collRead c 2 (if c.wire then wordsAt c.res xs.length else []) = (.words rs, u)) :
    s.completeColl c = u.writeColl c xs rs := by
  rw [State.completeColl, if_neg (Bool.eq_false_iff.1 unwritten)]
  simp only [source, residuals]

theorem State.completeColl_status {n : Nat} (source : s.collRead c 1 (wordsAt c.src c.sourceLen) = (.status n, t)) :
    s.completeColl c = (t.mixUnknown c).endColl c n := by
  rw [State.completeColl, if_neg (Bool.eq_false_iff.1 unwritten)]
  simp only [source, State.collFails]

end unwritten

/-- Settles O49: each event is the action of its copy, its unit or its collective, taken by the branch whose conditions hold;
the unit that arrives is `State.unitOf`, and the one that drains leaves `State.drained`. -/
theorem copyAndCollectiveEvents : Obligations.CopyAndCollectiveEvents := by
  unfold Obligations.CopyAndCollectiveEvents
  refine ⟨⟨?copyStart, ?copyComplete, fun s c x => State.meshOver_of_some,
    fun s c source dest => State.copyLocal_own source dest s, ?arrival, ?unit, ?drain⟩,
    fun s k c coll => ⟨fun fresh due => ?collStart, fun started unwritten => ?collComplete,
      fun started written => ?written, fun n started => exec_transportUnreachableTimeout_other coll started⟩⟩
  case copyStart =>
    rintro s die core k c oldest rfl
    simp only [exec_copyStart, execCopyStart]
    exact ⟨fun e bad => congrArg _ (State.startCopy_set oldest bad), fun valid =>
      ⟨fun outside => congrArg _ (State.startCopy_outside oldest valid outside),
        fun inside threads => congrArg _ (State.startCopy_threads oldest valid inside threads), fun inside engines =>
        ⟨fun noTarget => congrArg _ (State.startCopy_noTarget oldest valid inside engines noTarget),
          fun ts targets => congrArg _ (State.startCopy_starts oldest valid inside engines targets)⟩⟩⟩
  case copyComplete =>
    intro s die core k n c t copy target started ready
    exact ⟨exec_copyComplete_done copy target started ready, exec_copyComplete_local copy target started ready,
      exec_copyComplete_remote copy target started ready⟩
  case arrival =>
    intro s die core k c copy key started remote away ready going
    refine ⟨exec_stagingUnitArrival_arrives copy started remote away ready going, fun fits => ?_⟩
    obtain rfl := State.copy?_id copy
    exact State.unitArrives_fits (key ▸ copy) fits going
  case unit =>
    rintro s c sent q l rfl unit
    refine ⟨State.unitTaken_full unit, fun room ws v read => ?_⟩
    obtain ⟨staged, mem⟩ := State.unitTaken_words unit room read
    exact ⟨s.unitOf c q l ws, staged, mem, rfl, rfl, rfl, rfl, rfl, fun i => State.mem_openTargets⟩
  case drain =>
    rintro s dir u n x unit rfl target
    exact ⟨exec_stagingUnitDrain_drains unit target, fun c t copy place going =>
      ⟨State.drainUnit_waits copy place going u, fun takes => ⟨_, rfl, State.drainUnit_takes copy place going u takes⟩⟩⟩
  case collStart =>
    rw [exec_collectiveStart_due coll fresh due]
    exact ⟨fun e fails => congrArg _ (State.startColl_error fails), fun l ok =>
      ⟨fun alone => congrArg _ (State.startColl_alone ok alone), fun others =>
        ⟨_, rfl, (State.startColl_members ok others).imp (congrArg _) (Or.imp (congrArg _) (congrArg _))⟩⟩⟩
  case collComplete =>
    rw [exec_collectiveComplete_started coll started]
    exact ⟨fun xs t rs u source residuals => congrArg _ (State.completeColl_words unwritten source residuals),
      fun n t source => congrArg _ (State.completeColl_status unwritten source)⟩
  case written => rw [exec_collectiveComplete_started coll started, State.completeColl_written written]

end Sys2Proof.Machine

/-!
# Nothing stops but the failure of an unknown unit

Every slot word goes through the gate and every event answers with a next state (R207, log entry 1). UNIT_FAILURE alone can stop
the machine, for a kind that the table of R494 does not list (log entry 90).
-/

namespace Sys2Proof.Machine

/-! ### The shared operations go on -/

/-- The machine goes on. -/
def Result.GoesOn (o : Host.Outcome State Fault Refusal) : Prop := ∃ t, o = .next t

theorem next_goesOn (t : State) : Result.GoesOn (.next t) := ⟨t, rfl⟩

section goesOn
variable {i : Instr} {s : State}

theorem gated_goesOn {f : State → State} : Result.GoesOn (gated i s f) := gated_isNext i s f
theorem scalarOp_goesOn {d : SReg} {f : State → DWord} : Result.GoesOn (scalarOp i d f s) := gated_goesOn
theorem scalarAccess_goesOn {k : OpKind} {a : SReg} {n : BitVec 9} {l : State → List Word} :
    Result.GoesOn (scalarAccess i k a n l s) := gated_goesOn
theorem addSub_goesOn {sub sat : Bool} : Result.GoesOn (addSub i sub sat s) := gated_goesOn
theorem vecWord_goesOn {f : Word → Word → Word → Word} : Result.GoesOn (vecWord i f s) := gated_goesOn
theorem vecLane_goesOn {f : Lane → Word → Word → Word} : Result.GoesOn (vecLane i f s) := gated_goesOn
theorem vecPred_goesOn {p : BitVec 3} {conj : Bool} {f : Course → Word → Word → Bool × DWord} :
    Result.GoesOn (vecPred i p conj f s) := gated_goesOn
theorem vecFloat_goesOn {f : RM → Bool → Nat → Nat → Nat → FR} : Result.GoesOn (vecFloat i f s) := gated_goesOn
theorem vecConv_goesOn {f : RM → Bool → Option Tag → Nat → Word × DWord} : Result.GoesOn (vecConv i f s) := gated_goesOn
theorem vecHalf_goesOn {f : Fmt → RM → Nat → Nat → Nat → FR} : Result.GoesOn (vecHalf i f s) := gated_goesOn
theorem vecDot_goesOn {n : Nat} {f : Option Tag → Tag} : Result.GoesOn (vecDot i n f s) := gated_goesOn
theorem shuffle_goesOn : Result.GoesOn (shuffle i s) := gated_goesOn
theorem loadRow_goesOn {b w : Nat} {sx nt : Bool} {ac : BitVec 2} : Result.GoesOn (loadRow i b sx w ac nt s) := gated_goesOn
theorem storeRow_goesOn {b w : Nat} {nt : Bool} {ac : BitVec 2} : Result.GoesOn (storeRow i b w ac nt s) := gated_goesOn
theorem wordRow_goesOn {k : OpKind} {ac : BitVec 2} {scope : BitVec 3} {ext : Bool} :
    Result.GoesOn (wordRow i k ac scope ext s) := gated_goesOn
theorem rangeRow_goesOn {k : OpKind} {a : SReg} {n : Code} : Result.GoesOn (rangeRow i k a n s) := gated_goesOn
theorem slot3_goesOn {f : State → State} : Result.GoesOn (slot3 i s f) := gated_goesOn
theorem spdm_goesOn {f : Boot → Boot} : Result.GoesOn (spdm s f) := next_goesOn _
theorem flitEvent_goesOn {k : Nat} {f : Flit} : Result.GoesOn (flitEvent k f s) := next_goesOn _

end goesOn

/-- A failure of a kind of the table of R494 has its consequences, and one of any other kind is fatal. -/
theorem execUnitFailure_goesOn (kind die u : Nat) (s : State) :
    Result.GoesOn (execUnitFailure kind die u s) ∨ 6 < kind ∧ execUnitFailure kind die u s = .fault .aerFatal := by
  unfold execUnitFailure
  match kind with
  | 0 | 1 | 2 | 3 | 4 | 5 | 6 => exact .inl (next_goesOn _)
  | n + 7 => exact .inr ⟨by omega, rfl⟩

theorem exec_goesOn (i : Instr) (s : State) (listed : ∀ kind die u, i ≠ .unitFailure kind die u) :
    Result.GoesOn (exec i s) := by
  unfold exec
  cases i with
  | nop | bra | brp | brs | brx | call | callx | ret | loopi | loop | jarm | jwait | yld | exit | trap | eret | waitc | mfs
    | mts | save | rest | pdone | govq | vtos | vtosF | vfree | fcvt | pack | xred | xscn | xbal | xcnt | xfst | rsvup
    | rsvmrg | rsvfin | waita | fence | lda | pref | trace | tracec | visq | tsamp | tsize =>
    exact gated_goesOn
  | sadd | ssub | smul | smulh | sand | sor | sxor | sshl | sshlImm | sshr | sshrImm | ssra | ssraImm | smin | smax
    | scmp | saddi | sli | slih | ssel | sclz | spopc =>
    exact scalarOp_goesOn
  | sld | sst => exact scalarAccess_goesOn
  | iadd | isub => exact addSub_goesOn
  | iaddc | imul | imulh | imulhu | imad | imin | imax | iminu | imaxu | iabs | and | or | xor | andn | shl | shlImm
    | shr | shrImm | sra | sraImm | rol | rolImm | bfx | bfi | popc | clz | brev | mov | li | lih | iaddi | tag
    | aadd | ashl | ashlImm | aand | amov | ali | aform =>
    exact vecWord_goesOn
  | icmp | pset | fcmp => exact vecPred_goesOn
  | sel | pget => exact vecLane_goesOn
  | fadd | fsub | fmul | ffma | fmin | fmax | fminn | fmaxn | fabs | fneg | fclmp | frnd | ffrac | frcp | frsq
    | fsqrt | fex2 | flg2 | fsin | fcos =>
    exact vecFloat_goesOn
  | icvtf | fcvti | unpk => exact vecConv_goesOn
  | hadd2 | hmul2 | hfma2 => exact vecHalf_goesOn
  | fdot4 | fdot8 => exact vecDot_goesOn
  | xshf | xrot | xbc | xstep => exact shuffle_goesOn
  | ldB | ldBs | ldH | ldHs | ldW | ldd | ldq | ldc | ldu | ldsB | ldsBs | ldsH | ldsHs | ldsW | ldsc =>
    exact loadRow_goesOn
  | stB | stH | stW | std | stq | stc | stsB | stsH | stsW | stsc => exact storeRow_goesOn
  | amo | cas | amos | cass | sig | stl => exact wordRow_goesOn
  | wbr | invr => exact rangeRow_goesOn
  | mzero | mchb | mche | mma | macl | mdst | mstg | shp | cpy | cpym | owng | ownt | qcfg | qpush | qpop | qtry | tsub
    | tdep | emit | cont | keyrel | qsub | cred | cbc | cag | crs =>
    exact slot3_goesOn
  | coreIssueCycle | fairnessExpiry | resultLanding | spillComplete | fillComplete | loadPerformed | storePerformed
    | atomicPerformed | faultRecordWrite | waitaWake | waitaPoll | waitaTimeout | asyncTrapDelivery
    | preemptDeadlineExpiry | forcedSave | courseResume | blockBind | blockAdmission | mmaComplete | mzeroComplete
    | mcheComplete | mdstComplete | maclLanding | copyStart | copyComplete | stagingUnitArrival | stagingUnitDrain
    | collectiveStart | collectiveComplete | taskGrant | tdepDecrement | keyrelEffect | continuationWake | graphBlockBind
    | spireWindow | waitPacketComplete | streamStart | portalWrite | quantumExpiry | ageingStep | watchdogFire
    | queueCreate | queueDestroy | bindRecordWrite | ctxpdlWrite | ktrepWrite | tlbinvnWrite | tlbinvWrite | tlbinvDone
    | fltrespRetry | fltrespFailUnmapped | fltrespFailPermission | govstepWrite | govdWrite | registerWrite
    | dieCacheWriteback | hostBarAccess | pcieCompletion | pcieRequestTimeout | softErrorCorrected | uncorrectableError
    | coreLoss | mortarLaneFail | thermalStepUp | thermalStepDown | thermalStop | thermalResume | powerOn | svnFuseRaise
    | contextCreate | contextReset | flitResponse | flitReceive | flitReplayTimeout | linkTrainTimeout
    | fabricRequestTimeout | responseRetentionExpiry | fixedFunctionRequestPerformed | scalarAccessPerformed
    | dispatcherResultWritten | rowSequencerIssue | linkTrained | transportUnreachableTimeout | powerLoss =>
    exact next_goesOn _
  | getVersion | getCapabilities | negotiateAlgorithms | getDigests | getCertificate | challenge | getMeasurements =>
    exact spdm_goesOn
  | flitRead | flitWrite | flitAtomic | flitReduce | flitMessage => exact flitEvent_goesOn
  | unitFailure kind die u => exact absurd rfl (listed kind die u)

/-- Settles O7: UNIT_FAILURE by its kind (`execUnitFailure_goesOn`), and everything else by the operation that it shares. -/
theorem onlyAnUnknownUnitStops : Obligations.OnlyAnUnknownUnitStops := by
  intro i s
  by_cases unit : ∃ kind die u, i = .unitFailure kind die u
  · obtain ⟨kind, die, u, rfl⟩ := unit
    refine (execUnitFailure_goesOn kind die u s).imp id fun ⟨unknown, stops⟩ => ⟨kind, die, u, rfl, unknown, stops⟩
  · exact .inl (exec_goesOn i s fun kind die u e => unit ⟨kind, die, u, e⟩)

end Sys2Proof.Machine

/-!
# Links

What a link keeps of what it discards, when it sends idle flits, and how it replays, retrains, trains and is fenced (R508, R509,
R516, R517). Whatever a link sends or receives for itself changes the fabric alone (`OnlyFab`).
-/

namespace Sys2Proof.Machine

/-! ### Only the fabric changes -/

/-- Nothing but the fabric has changed. -/
def OnlyFab (s t : State) : Prop := t = { s with fab := t.fab }

theorem OnlyFab.refl (s : State) : OnlyFab s s := rfl

theorem OnlyFab.trans {s t u : State} (h : OnlyFab s t) (k : OnlyFab t u) : OnlyFab s u := by
  refine Eq.trans k ?_
  rw [h]

theorem OnlyFab.of_onFab (s : State) (f : Fabric → Fabric) : OnlyFab s (s.onFab f) := rfl

theorem OnlyFab.foldl {α : Type} {f : State → α → State} (step : ∀ s a, OnlyFab s (f s a)) (l : List α) (s : State) :
    OnlyFab s (l.foldl f s) := by
  induction l generalizing s with
  | nil => exact .refl s
  | cons a l ih => exact (step s a).trans (ih _)

theorem OnlyFab.boot {s t : State} (h : OnlyFab s t) : t.boot = s.boot := by rw [h]

theorem State.transmit_onlyFab (s : State) (p : Nat) (f : Flit) : OnlyFab s (s.transmit p f) := rfl

theorem State.pumpTransit_onlyFab (s : State) : OnlyFab s s.pumpTransit := by
  refine (OnlyFab.of_onFab s _).trans (OnlyFab.foldl (fun t a => ?_) _ _)
  extract_lets q
  split
  · exact t.transmit_onlyFab _ _
  · exact .of_onFab t _

/-- The pump moves flits from the lists of those that wait to the links. -/
theorem State.pump_onlyFab (s : State) : OnlyFab s s.pump := by
  unfold State.pump
  extract_lets t
  have transit : OnlyFab s t := by
    unfold t
    split
    · exact .refl s
    · exact s.pumpTransit_onlyFab
  split
  · exact transit
  · refine transit.trans ((OnlyFab.of_onFab t _).trans (OnlyFab.foldl (fun u f => ?_) _ _))
    split
    · split
      · exact u.transmit_onlyFab _ _
      · exact .of_onFab u _
    · split
      · exact .refl u
      · exact .of_onFab u _

/-- With no flit that waits the pump does nothing. -/
theorem State.pump_empty {s : State} (sent : s.fab.sent = []) (transit : s.fab.transit = []) : s.pump = s := by
  simp [State.pump, sent, transit]

/-! ### One port -/

/-- Two updates that agree on the element that stands at a position give one list. -/
theorem modAt_congr {α : Type} {n : Nat} {f g : α → α} {l : List α} (agree : ∀ x, l[n]? = some x → f x = g x) :
    modAt n f l = modAt n g l := by
  refine List.ext_getElem? fun k => ?_
  by_cases here : k = n
  · subst here
    rw [getElem?_modAt_self, getElem?_modAt_self]
    cases at_ : l[k]? with
    | none => rfl
    | some x => exact congrArg some (agree x at_)
  · rw [getElem?_modAt_ne here, getElem?_modAt_ne here]

theorem modAt_id {α : Type} {n : Nat} {f : α → α} {l : List α} (same : ∀ x, l[n]? = some x → f x = x) : modAt n f l = l := by
  refine List.ext_getElem? fun k => ?_
  by_cases here : k = n
  · subst here
    rw [getElem?_modAt_self]
    cases at_ : l[k]? with
    | none => rfl
    | some x => exact congrArg some (same x at_)
  · rw [getElem?_modAt_ne here]

section port
variable {s : State} {p : Nat}

/-- A port that the table does not list reads the record of reset. -/
theorem State.port_of_getElem? {k : Port} (at_ : s.fab.ports[p]? = some k) : s.port p = k := by
  simp [State.port, List.getD, at_]

/-- A link that is up stands in the table: the record of reset is one of a link that is down. -/
theorem State.port_lt (up : (s.port p).st = 2) : p < s.fab.ports.length := by
  by_contra out
  rw [State.port, List.getD, List.getElem?_eq_none (by omega)] at up
  cases up

theorem State.port_onPort (listed : p < s.fab.ports.length) (f : Port → Port) : (s.onPort p f).port p = f (s.port p) :=
  getD_modAt_self listed f _

theorem State.port_onPort_ne {q : Nat} (other : q ≠ p) (f : Port → Port) : (s.onPort p f).port q = s.port q :=
  getD_modAt_ne other f _ _

theorem State.onPort_congr {f g : Port → Port} (agree : f (s.port p) = g (s.port p)) : s.onPort p f = s.onPort p g := by
  have ports : modAt p f s.fab.ports = modAt p g s.fab.ports :=
    modAt_congr fun k at_ => by rwa [← State.port_of_getElem? at_]
  rw [State.onPort, State.onPort, State.onFab, State.onFab, ports]

theorem State.onPort_id {f : Port → Port} (same : f (s.port p) = s.port p) : s.onPort p f = s := by
  have ports : modAt p f s.fab.ports = s.fab.ports := modAt_id fun k at_ => by rwa [← State.port_of_getElem? at_]
  rw [State.onPort, State.onFab, ports]

/-! ### Idle flits (R516) -/

theorem State.sayIdle_quiet {before : Nat} (quiet : (s.port p).st ≠ 2 ∨ (s.port p).seqTx ≠ before) :
    s.sayIdle p before = s := by
  rcases quiet with h | h <;> simp [State.sayIdle, h]

/-- An idle flit goes out: it takes a SEQ, carries what was to be answered, and is kept until it is acknowledged. -/
theorem State.sayIdle_sends (up : (s.port p).st = 2) (room : (s.port p).unacked.length < 1024) :
    (s.sayIdle p (s.port p).seqTx).port p = (s.port p).send idleFlit := by
  simp only [State.sayIdle, up, room, decide_true, Bool.and_self, if_true]
  exact State.port_onPort (State.port_lt up) _

theorem State.sayIdle_port_ne {q before : Nat} (other : q ≠ p) : (s.sayIdle p before).port q = s.port q := by
  unfold State.sayIdle
  dsimp only
  split
  · exact State.port_onPort_ne other _
  · rfl

/-- An idle flit raises no NAK. -/
theorem State.sayIdle_nak {before : Nat} (answered : (s.port p).nak = false) : ((s.sayIdle p before).port p).nak = false := by
  unfold State.sayIdle
  dsimp only
  split
  next sends =>
    simp only [Bool.and_eq_true, decide_eq_true_eq] at sends
    rw [State.port_onPort (State.port_lt sends.1.1)]
    rfl
  · exact answered

theorem State.sayIdle_st_lanes {before : Nat} :
    ((s.sayIdle p before).port p).st = (s.port p).st ∧ ((s.sayIdle p before).port p).lanes = (s.port p).lanes := by
  unfold State.sayIdle
  dsimp only
  split
  next sends =>
    simp only [Bool.and_eq_true, decide_eq_true_eq] at sends
    rw [State.port_onPort (State.port_lt sends.1.1)]
    exact ⟨rfl, rfl⟩
  · exact ⟨rfl, rfl⟩

/-! ### FLIT_RECEIVE (R516, R517) -/

/-- The checks of a flit that has arrived hold: 256 bytes with the CRC that they carry. -/
def FlitIntact (bs : List Byte) : Prop :=
  bs.length = 256 ∧ (crc64 (bs.take 240 ++ bs.drop 248)).toNat = leVal ((bs.drop 240).take 8)

theorem State.receive_crc {bs : List Byte} (bad : ¬ FlitIntact bs) : s.receive p bs = s.onPort p fun k => k.discard true := by
  refine if_pos ?_
  simpa only [FlitIntact, Bool.or_eq_true, bne_iff_ne, ← not_and_or] using bad

section intact
variable {bs : List Byte} (intact : FlitIntact bs)
include intact

theorem State.receive_order (order : leVal ((bs.drop 248).take 8) % 2 ^ 24 ≠ (s.port p).seqRx % 2 ^ 24) :
    s.receive p bs = s.onPort p fun k => k.discard false := by
  unfold State.receive
  dsimp only
  rw [if_neg (by simp [intact.1, intact.2]), if_pos (by simpa [seqMod] using order)]

theorem State.receive_idle {f : Flit} (order : leVal ((bs.drop 248).take 8) % 2 ^ 24 = (s.port p).seqRx % 2 ^ 24)
    (reserved : leVal ((bs.drop 248).take 8) / 2 ^ 50 = 0) (flit : flitOf bs = some f) (idle : f.kind = 7) :
    s.receive p bs = (s.onPort p fun k => k.accept (leVal ((bs.drop 248).take 8))).sayIdle p (s.port p).seqTx := by
  unfold State.receive
  dsimp only
  rw [if_neg (by simp [intact.1, intact.2]), if_neg (by simpa [seqMod] using order), flit]
  dsimp only
  rw [if_neg (by simpa using reserved), if_pos (by simp [idle])]

end intact

section up
variable (scaleUp : p < 6) (up : (s.port p).st = 2)
include scaleUp up

/-- After the link has taken or discarded a flit, a NAK that is still to be sent goes in an idle flit. -/
theorem exec_flitReceive_up (bs : List Byte) : exec (.flitReceive p bs) s = .next
    (if ((s.receive p bs).port p).nak = true then (s.receive p bs).sayIdle p ((s.receive p bs).port p).seqTx
      else s.receive p bs) := by
  rw [exec_flitReceive, execFlitReceive, if_neg (by simp [up]; omega)]

theorem exec_flitReceive_answered {bs : List Byte} (answered : ((s.receive p bs).port p).nak = false) :
    exec (.flitReceive p bs) s = .next (s.receive p bs) := by
  rw [exec_flitReceive_up scaleUp up, if_neg (by simp [answered])]

/-- Of several discards only the first is answered: a further one of a bad CRC is counted. -/
theorem exec_flitReceive_crc {bs : List Byte} (bad : ¬ FlitIntact bs) (sent : (s.port p).nakSent = true)
    (answered : (s.port p).nak = false) : exec (.flitReceive p bs) s =
      .next (s.onPort p fun k => { k with crcerr := min (k.crcerr + 1) (2 ^ 32 - 1) }) := by
  have counts : s.receive p bs = s.onPort p fun k => { k with crcerr := min (k.crcerr + 1) (2 ^ 32 - 1) } :=
    (State.receive_crc bad).trans (State.onPort_congr (by simp [Port.discard, satAdd, sent, answered]))
  have quiet : ((s.receive p bs).port p).nak = false := by rw [counts, State.port_onPort (State.port_lt up)]; exact answered
  rw [exec_flitReceive_answered scaleUp up quiet, counts]

section order
variable {bs : List Byte} (intact : FlitIntact bs)
  (order : leVal ((bs.drop 248).take 8) % 2 ^ 24 ≠ (s.port p).seqRx % 2 ^ 24)
include intact order

theorem exec_flitReceive_order (sent : (s.port p).nakSent = true) (answered : (s.port p).nak = false) :
    exec (.flitReceive p bs) s = .next s := by
  have same : s.receive p bs = s := (State.receive_order intact order).trans <| State.onPort_id <| by
    simp only [Port.discard, Bool.false_eq_true, if_false, sent, Bool.not_true, Bool.or_false]
    rw [← sent]
  rw [exec_flitReceive_answered scaleUp up (by rw [same]; exact answered), same]

theorem exec_flitReceive_firstDiscard (fresh : (s.port p).nakSent = false) (room : (s.port p).unacked = []) :
    ∃ t, exec (.flitReceive p bs) s = .next t ∧ t.port p = ((s.port p).discard false).send idleFlit := by
  have here : (s.receive p bs).port p = (s.port p).discard false := by
    rw [State.receive_order intact order, State.port_onPort (State.port_lt up)]
  have nak : ((s.port p).discard false).nak = true := by simp [Port.discard, fresh]
  refine ⟨_, exec_flitReceive_up scaleUp up bs, ?_⟩
  rw [here, if_pos nak, ← here, State.sayIdle_sends, here]
  · rw [here]; exact up
  · rw [here]; simp [Port.discard, room]

end order

theorem exec_flitReceive_idle {bs : List Byte} {f : Flit} (intact : FlitIntact bs)
    (order : leVal ((bs.drop 248).take 8) % 2 ^ 24 = (s.port p).seqRx % 2 ^ 24)
    (reserved : leVal ((bs.drop 248).take 8) / 2 ^ 50 = 0) (flit : flitOf bs = some f) (idle : f.kind = 7)
    (answered : ((s.onPort p fun k => k.accept (leVal ((bs.drop 248).take 8))).port p).nak = false) :
    exec (.flitReceive p bs) s =
      .next ((s.onPort p fun k => k.accept (leVal ((bs.drop 248).take 8))).sayIdle p (s.port p).seqTx) := by
  have taken := State.receive_idle intact order reserved flit idle
  rw [exec_flitReceive_answered scaleUp up (by rw [taken]; exact State.sayIdle_nak answered), taken]

/-! ### FLIT_REPLAY_TIMEOUT (R517) -/

theorem exec_flitReplayTimeout_idle (empty : (s.port p).unacked = []) :
    exec (.flitReplayTimeout p) s = .next (s.sayIdle p (s.port p).seqTx) := by
  rw [exec_flitReplayTimeout, execFlitReplayTimeout, if_neg (by simp [up]; omega), if_pos (by simp [empty])]

theorem exec_flitReplayTimeout_replays (kept : (s.port p).unacked ≠ []) :
    exec (.flitReplayTimeout p) s = .next (s.onPort p Port.replay) := by
  rw [exec_flitReplayTimeout, execFlitReplayTimeout, if_neg (by simp [up]; omega), if_neg (by simp [kept])]

end up

/-! ### LINK_TRAIN_TIMEOUT and LINK_TRAINED (R508, R509, R517) -/

theorem exec_linkTrainTimeout_unused (unused : s.portUsed p = false) : exec (.linkTrainTimeout p) s = .next s := by
  rw [exec_linkTrainTimeout, execLinkTrainTimeout, if_pos (by simp [unused])]

theorem exec_linkTrainTimeout_fences (used : s.portUsed p = true) (training : (s.port p).st = 1) :
    exec (.linkTrainTimeout p) s = .next (s.fenceLink p) := by
  rw [exec_linkTrainTimeout, execLinkTrainTimeout, if_neg (by simp [used, training])]

/-- A link that holds nothing, of a package that has nothing to send, is fenced and nothing moves. -/
theorem State.fenceLink_empty (kept : (s.port p).unacked = []) (sent : s.fab.sent = []) (transit : s.fab.transit = [])
    (reqs : s.fab.reqs = []) : s.fenceLink p = s.onPort p fun k =>
      { k with st := 3, lanes := 0, unacked := [], replays := 0, nak := false, nakSent := false } := by
  have noContexts : s.fabContexts = [] := by simp [State.fabContexts, reqs]
  have nothing (k : Port → Port) : ((s.onPort p k).onFab fun x => { x with transit := [] ++ x.transit, oldWay := [] ++ x.oldWay }) =
      s.onPort p k := rfl
  simp only [State.fenceLink, kept, reqs, noContexts, List.filterMap_nil, List.filter_nil, List.map_nil, nothing]
  exact State.pump_empty sent transit

theorem exec_linkTrained_absent {l : BitVec 8} (unused : s.portUsed p = false) (other : p < 6 ∨ 14 ≤ p) :
    exec (.linkTrained p l) s = .next s := by
  rw [exec_linkTrained, execLinkTrained, if_pos]
  simp only [unused, Bool.false_or, Bool.or_eq_true, Bool.not_eq_true', Bool.and_eq_false_iff, decide_eq_false_iff_not]
  omega

/-- A link that comes up keeps its lanes, and has nothing but an idle flit to send. -/
theorem exec_linkTrained_up {l : BitVec 8} (sent : s.fab.sent = []) (transit : s.fab.transit = [])
    (used : s.portUsed p = true ∨ (6 ≤ p ∧ p < 14)) (down : (s.port p).st < 2) (few : l.toNat ≤ 16) :
    ∃ u : State, u = (s.onPort p fun k => { k with st := 2, lanes := l.toNat, replays := 0 }) ∧
      exec (.linkTrained p l) s = .next (if 6 ≤ p then u else u.sayIdle p (s.port p).seqTx) := by
  refine ⟨_, rfl, ?_⟩
  rw [exec_linkTrained, execLinkTrained, if_neg]
  · simp only [State.pump_empty (s := s.onPort p _) sent transit]
  · simp only [Bool.or_eq_true, Bool.not_eq_true', Bool.or_eq_false_iff, Bool.and_eq_false_iff, decide_eq_true_eq,
      decide_eq_false_iff_not, not_or, not_and]
    refine ⟨⟨fun unused => ?_, by omega⟩, by omega⟩
    rcases used with h | h
    · simp [h] at unused
    · omega

end port

/-- Settles O60: what each event of a link makes of its port; an idle flit that goes out is `Port.send`, and `FlitIntact` is the
check of R516. -/
theorem linkEvents : Obligations.LinkEvents := by
  refine ⟨fun s p bs scaleUp ports up bad sent answered => ?crc, fun s p bs scaleUp ports up len crc order => ?order,
    fun s p bs f scaleUp up len crc order reserved flit idle answered =>
      exec_flitReceive_idle scaleUp up ⟨len, crc⟩ order reserved flit idle answered,
    fun s p before => ⟨State.sayIdle_quiet, ?sayIdle⟩,
    fun s p scaleUp up empty => exec_flitReplayTimeout_idle scaleUp up empty,
    fun s p scaleUp listed up kept => ?replay, fun s p => ⟨exec_linkTrainTimeout_unused, ?fence⟩,
    fun s p l listed sent transit => ⟨?trained, exec_linkTrained_absent⟩⟩
  case crc =>
    refine exec_flitReceive_crc scaleUp up (fun intact => ?_) sent answered
    exact bad.elim (fun h => h intact.1) (fun h => h intact.2)
  case order =>
    refine ⟨exec_flitReceive_order scaleUp up ⟨len, crc⟩ order, fun fresh room => ?_⟩
    obtain ⟨t, next, port⟩ := exec_flitReceive_firstDiscard scaleUp up ⟨len, crc⟩ order fresh room
    exact ⟨t, next, by rw [port]; rfl, by rw [port]; rfl, by rw [port]; rfl⟩
  case sayIdle =>
    rintro - up rfl room
    rw [State.sayIdle_sends up room]
    exact ⟨rfl, rfl, by simp [Port.send]⟩
  case replay =>
    refine ⟨_, exec_flitReplayTimeout_replays scaleUp up kept, ?_, fun q other => State.port_onPort_ne other _⟩
    rw [State.port_onPort listed, Port.replay, if_neg (by simp [kept])]
    rfl
  case fence =>
    intro used listed training kept sent transit reqs
    refine ⟨_, exec_linkTrainTimeout_fences used training, ?_⟩
    rw [State.fenceLink_empty kept sent transit reqs, State.port_onPort listed]
    exact ⟨rfl, rfl, fun q other => State.port_onPort_ne other _⟩
  case trained =>
    intro used down few
    obtain ⟨u, rfl, next⟩ := exec_linkTrained_up sent transit used down few
    refine ⟨_, next, ?_⟩
    split
    · rw [State.port_onPort listed]
      exact ⟨rfl, rfl, fun q other => State.port_onPort_ne other _⟩
    · rw [State.sayIdle_st_lanes.1, State.sayIdle_st_lanes.2, State.port_onPort listed]
      exact ⟨rfl, rfl, fun q other => (State.sayIdle_port_ne other).trans (State.port_onPort_ne other _)⟩

end Sys2Proof.Machine

/-!
# Requests and responses on the fabric

A request of another package is performed once and answered from then on with what is kept; a response or a timeout ends a request
of this package (R511 to R515, log entries 71, 72 and 102).
-/

namespace Sys2Proof.Machine

/-! ### Chunks of a list -/

theorem length_flatten_map {α β : Type} {g : α → List β} {k : Nat} (len : ∀ a, (g a).length = k) (l : List α) :
    (l.map g).flatten.length = k * l.length := by
  simp [List.length_flatten, Function.comp_def, len, Nat.mul_comm]

/-- Of chunks of one length put together, each is read back at its place. -/
theorem chunk_flatten_map {α β : Type} {g : α → List β} {k : Nat} (len : ∀ a, (g a).length = k) {l : List α} {i : Nat}
    (h : i < l.length) : ((l.map g).flatten.drop (k * i)).take k = g l[i] := by
  induction l generalizing i with
  | nil => simp at h
  | cons a l ih =>
    cases i with
    | zero => simp [len]
    | succ i =>
      have skip : k * (i + 1) = (g a).length + k * i := by rw [len, Nat.mul_succ, Nat.add_comm]
      rw [List.map_cons, List.flatten_cons, skip, ← List.drop_drop, List.drop_left]
      exact ih (by simpa using h)

theorem length_bytesOf (n : Nat) (w : Word) : (bytesOf n w).length = n := length_leBytes n _

theorem wordOf_bytesOf (w : Word) : wordOf (bytesOf 4 w) = w := by
  rw [wordOf, bytesOf, leVal_leBytes 4 _ w.isLt, BitVec.ofNat_toNat, BitVec.setWidth_eq]

/-! ### Requests of other packages (R511 to R515) -/

/-- A request is answered, and its answer is kept for when the request comes again. -/
def State.answerWith (s : State) (f : Flit) (own : Nat) (bs : List Byte) : State :=
  (s.onFab fun x => { x with kept := x.kept ++ [(f.src, f.tag, answerFlit f own bs)] }).sendFlit (answerFlit f own bs)

section request
variable {s : State} {f : Flit} (here : f.dst.toNat = s.ownIdx) (request : f.rsp = false)
include here request

/-- A request for this package is taken. -/
theorem flitEvent_takes {k : Nat} (kind : f.kind.toNat = k) (known : k ≤ 4) : flitEvent k f s = .next (s.takeRequest f) := by
  simp [flitEvent, State.takeFlit, here, request, kind, known]

theorem flitEvent_again {k : Nat} {a : Flit} (kind : f.kind.toNat = k) (known : k ≤ 4)
    (kept : (s.fab.kept.find? fun k => k.1 == f.src && k.2.1 == f.tag) = some (f.src, f.tag, a)) :
    flitEvent k f s = .next (s.sendFlit a) := by
  rw [flitEvent_takes here request kind known, State.takeRequest, kept]

section new
variable (new : (s.fab.kept.find? fun k => k.1 == f.src && k.2.1 == f.tag) = none)
include new

theorem flitEvent_answered {k : Nat} {bs : List Byte} {t : State} (kind : f.kind.toNat = k) (known : k ≤ 4)
    (performed : s.performFlit f = (some bs, t)) : flitEvent k f s = .next (t.answerWith f s.ownIdx bs) := by
  rw [flitEvent_takes here request kind known, State.takeRequest, new]
  simp only [performed]
  rfl

theorem flitEvent_unanswered {k : Nat} {t : State} (kind : f.kind.toNat = k) (known : k ≤ 4)
    (performed : s.performFlit f = (none, t)) : flitEvent k f s = .next t := by
  rw [flitEvent_takes here request kind known, State.takeRequest, new]
  simp only [performed]

end new
end request

section perform
variable {s : State} {f : Flit}

theorem State.performFlit_read (kind : f.kind.toNat = 0) : s.performFlit f =
    if s.readableAt (fabLocal f.addr.toNat) f.len.toNat then
      (some (s.readPa (fabLocal f.addr.toNat) f.len.toNat), s.dieUse false (fabLocal f.addr.toNat) f.len.toNat)
    else (none, s) := by
  simp only [State.performFlit, kind]

theorem State.performFlit_write (kind : f.kind.toNat = 1) : s.performFlit f =
    if stored s.regs.hbmilv (fabLocal f.addr.toNat) then
      (some [], s.writeLines 5 (fabLocal f.addr.toNat) (padTo f.len.toNat f.payload))
    else (none, s) := by
  simp only [State.performFlit, kind]

section atomic
variable (kind : f.kind.toNat = 2)
include kind

theorem State.performFlit_atomic_fails
    (bad : s.readableAt (fabLocal f.addr.toNat) (4 * flitWords f) = false ∨ flitOpOk f = false) :
    s.performFlit f = (none, s) := by
  simp only [State.performFlit, kind]
  exact if_pos (by rcases bad with h | h <;> simp [h])

theorem State.performFlit_atomic (readable : s.readableAt (fabLocal f.addr.toNat) (4 * flitWords f) = true)
    (op : flitOpOk f = true) : s.performFlit f =
      (some (if f.op.getLsbD 6 then s.readPa (fabLocal f.addr.toNat) (4 * flitWords f) else []),
        (s.dieUse false (fabLocal f.addr.toNat) (4 * flitWords f)).writePa (fabLocal f.addr.toNat)
          (flitBytes f (s.readPa (fabLocal f.addr.toNat) (4 * flitWords f)))) := by
  simp only [State.performFlit, kind]
  exact if_neg (by simp [readable, op])

end atomic

theorem State.performFlit_reduce (kind : f.kind.toNat = 3) :
    s.performFlit f = (some [], s.onFab fun x => { x with reduces := x.reduces ++ [f] }) := by
  simp only [State.performFlit, kind]

theorem State.performFlit_message (kind : f.kind.toNat = 4) :
    s.performFlit f = (some [], s.onFab fun x => { x with messages := x.messages ++ [f] }) := by
  simp only [State.performFlit, kind]

theorem length_flitBytes (f : Flit) (old : List Byte) : (flitBytes f old).length = 4 * flitWords f := by
  rw [flitBytes, length_flatten_map (fun _ => length_bytesOf 4 _), List.length_range]

/-- Each word of an atomic flit takes its update. -/
theorem wordOf_flitBytes {f : Flit} {i : Nat} (h : i < flitWords f) (old : List Byte) :
    wordOf (((flitBytes f old).drop (4 * i)).take 4) = flitUpdate f i (wordOf ((old.drop (4 * i)).take 4)) := by
  rw [flitBytes, chunk_flatten_map (fun _ => length_bytesOf 4 _) (by simpa using h), List.getElem_range, wordOf_bytesOf]

end perform

/-! ### Responses and timeouts (R513) -/

section responses
variable {s : State} {f : Flit} {r : FabReq}

theorem exec_flitResponse_passes (response : f.rsp = true) (away : f.dst.toNat ≠ s.ownIdx) :
    exec (.flitResponse f) s = .next (s.sendFlit f) := by
  simp [exec_flitResponse, execFlitResponse, State.takeFlit, response, away]

theorem State.dropReq_alone (alone : s.fab.reqs = [r]) :
    s.dropReq r.tag = s.onFab fun x => { x with reqs := [], oldWay := x.oldWay.filter fun o => o.2 != r.tag } := by
  simp [State.dropReq, State.onFab, alone]

theorem exec_flitResponse_ends (response : f.rsp = true) (here : f.dst.toNat = s.ownIdx) (alone : s.fab.reqs = [r])
    (tag : r.tag = f.tag) (source : r.dst = f.src) : exec (.flitResponse f) s = .next (if r.sig.isSome = true
      then s.dropReq r.tag
      else (s.dropReq r.tag).routeAnswer r.course r.op r.lane
        (some (if f.payload = [] then [0, 0, 0, 0] else f.payload))) := by
  simp [exec_flitResponse, execFlitResponse, State.takeFlit, State.takeResponse, response, here, alone, tag, source]

theorem exec_fabricRequestTimeout_ends (alone : s.fab.reqs = [r]) : exec (.fabricRequestTimeout r.tag) s =
    .next (match r.sig with
      | some g => (s.dropReq r.tag).csigFails g
      | none => (s.dropReq r.tag).routeAnswer r.course r.op r.lane none) := by
  simp [exec_fabricRequestTimeout, execFabricRequestTimeout, alone] <;> rfl

end responses

/-- Settles O59: a request is performed by its kind (`State.performFlit_read` and its like) and answered (`flitEvent_answered`),
and a response or a timeout ends the one open request. -/
theorem fabricEvents : Obligations.FabricEvents := by
  refine ⟨fun s f here request new => ⟨fun kind => ?read, fun kind => ?write, fun kind => ?atomic, fun kind => ?reduce,
      fun kind => ?message⟩,
    fun s f a i here request kept which => ?again, fun s f => exec_flitResponse_passes,
    fun s f r response here alone tag source => ⟨_, State.dropReq_alone alone, ?response⟩,
    fun s r alone => ⟨_, State.dropReq_alone alone, exec_fabricRequestTimeout_ends alone⟩,
    fun s src tag => ⟨_, rfl, rfl, fun k => ?expiry⟩⟩
  case read =>
    have zero : f.kind.toNat = 0 := by rw [kind]; rfl
    have performed := State.performFlit_read (s := s) zero
    split at performed
    next readable =>
      rw [if_pos readable]
      exact flitEvent_answered here request new zero (by decide) performed
    next unreadable =>
      rw [if_neg unreadable]
      exact flitEvent_unanswered here request new zero (by decide) performed
  case write =>
    have one : f.kind.toNat = 1 := by rw [kind]; rfl
    have performed := State.performFlit_write (s := s) one
    split at performed
    next inStore =>
      rw [if_pos inStore]
      exact flitEvent_answered here request new one (by decide) performed
    next outside =>
      rw [if_neg outside]
      exact flitEvent_unanswered here request new one (by decide) performed
  case atomic =>
    have two : f.kind.toNat = 2 := by rw [kind]; rfl
    refine ⟨_, rfl, fun bad => ?_, fun readable op => ⟨_, _, rfl, ?_, length_flitBytes f _, fun i h =>
      ⟨_, _, rfl, rfl, wordOf_flitBytes h _⟩⟩⟩
    · exact flitEvent_unanswered here request new two (by decide) (State.performFlit_atomic_fails two bad)
    · exact flitEvent_answered here request new two (by decide) (State.performFlit_atomic two readable op)
  case reduce =>
    have three : f.kind.toNat = 3 := by rw [kind]; rfl
    exact flitEvent_answered here request new three (by decide) (State.performFlit_reduce three)
  case message =>
    have four : f.kind.toNat = 4 := by rw [kind]; rfl
    exact flitEvent_answered here request new four (by decide) (State.performFlit_message four)
  case again =>
    rcases which with ⟨kind, rfl⟩ | ⟨kind, rfl⟩ | ⟨kind, rfl⟩ | ⟨kind, rfl⟩ | ⟨kind, rfl⟩ <;>
      exact flitEvent_again here request (by rw [kind]; rfl) (by decide) kept
  case response => exact exec_flitResponse_ends response here alone tag source
  case expiry => simp [State.onFab, ← not_and_or]

end Sys2Proof.Machine

/-!
# Reset, boot and attestation

What reset leaves, how the four images of a bank start one after another, what a loss of power keeps, how the fused security
version rises, and the answers of the responder (R458, R490 to R493).
-/

namespace Sys2Proof.Machine

/-! ### Reset (R388, R458, R465, R468, R491, R498, R508) -/

theorem State.reset_die (d : Nat) : State.reset.die d = Die.reset := List.getElem?_getD_replicate_default_eq _ 5 d

theorem State.reset_port (p : Nat) : State.reset.port p = Port.reset := List.getElem?_getD_replicate_default_eq _ 14 p

/-- Settles O9: the tables of reset are empty, and every core, die and port reads its reset record. -/
theorem resetState : Obligations.ResetState := by
  refine ⟨⟨rfl, fun _ => rfl⟩, rfl, rfl, rfl, rfl, rfl, rfl, rfl, rfl, fun _ => ⟨rfl, rfl, rfl, rfl, rfl⟩, fun d => ?die,
    fun p => ?port, rfl, rfl, rfl, rfl, rfl, rfl, rfl, rfl, rfl, rfl⟩
  case die =>
    rw [State.reset_die]
    refine ⟨rfl, rfl, rfl, fun l used => ?_, fun n => List.getElem?_getD_replicate_default_eq _ 64 n, rfl, rfl, rfl⟩
    exact List.getD_replicate _ used
  case port => rw [State.reset_port]; rfl

/-! ### The fused security version (R492) -/

theorem minBy_eq_none {α : Type} {f : α → Nat} {l : List α} : minBy f l = none ↔ l = [] := by
  cases l with
  | nil => simp [minBy]
  | cons a l => rw [minBy]; split <;> (try split) <;> simp

/-- The least element of a list by a measure lies in the list, and no element is less. -/
theorem minBy_spec {α : Type} {f : α → Nat} {l : List α} {x : α} (h : minBy f l = some x) :
    x ∈ l ∧ ∀ y ∈ l, f x ≤ f y := by
  induction l generalizing x with
  | nil => cases h
  | cons a l ih =>
    rw [minBy] at h
    cases least : minBy f l with
    | none =>
      obtain rfl := minBy_eq_none.1 least
      simp_all [minBy]
    | some y =>
      obtain ⟨mem, le⟩ := ih least
      simp only [least] at h
      by_cases lt : f y < f a
      · obtain rfl : y = x := by simpa [lt] using h
        exact ⟨.tail _ mem, List.forall_mem_cons.2 ⟨lt.le, le⟩⟩
      · obtain rfl : a = x := by simpa [lt] using h
        exact ⟨.head _, List.forall_mem_cons.2 ⟨le_rfl, fun z hz => (not_lt.1 lt).trans (le z hz)⟩⟩

/-- Settles O57: the version that the fuses are raised to is the least of the images by `minBy_spec`. -/
theorem fusedVersion : Obligations.FusedVersion := by
  intro s
  rw [exec_svnFuseRaise, execSvnFuseRaise]
  cases low : minBy id (s.boot.images.map fun i => byteAt i 6 2) with
  | none =>
    have none_ : s.boot.images = [] := List.map_eq_nil_iff.1 (minBy_eq_none.1 low)
    exact ⟨s, rfl, rfl, le_rfl, fun _ => rfl, fun _ => rfl, fun _ some_ => absurd none_ some_⟩
  | some n =>
    obtain ⟨mem, least⟩ := minBy_spec low
    obtain ⟨img, running, rfl⟩ := List.mem_map.1 mem
    have some_ : s.boot.images ≠ [] := List.ne_nil_of_mem running
    by_cases booted : s.boot.stage = 5
    · simp only [if_pos booted]
      exact ⟨_, rfl, rfl, le_max_left _ _, fun n => absurd booted n, fun n => absurd n some_, fun _ _ =>
        ⟨img, running, fun j hj => least _ (List.mem_map_of_mem hj), rfl⟩⟩
    · simp only [if_neg booted]
      exact ⟨s, rfl, rfl, le_rfl, fun _ => rfl, fun _ => rfl, fun n => absurd n booted⟩

/-! ### Power-on and the loss of power (R458, R490 to R492) -/

section boots
variable {s : State} {a b : List (List Byte)} {ilv : Option Nat}

theorem exec_powerOn_powered (on : s.boot.powered = true) : exec (.powerOn a b ilv) s = .next s := by
  rw [exec_powerOn, execPowerOn, if_pos on]

theorem exec_powerOn_boots (off : s.boot.powered = false) : exec (.powerOn a b ilv) s = .next (s.boots a b ilv) := by
  rw [exec_powerOn, execPowerOn, if_neg (Bool.eq_false_iff.1 off)]

/-- A boot gives the package power and leaves the fuses. -/
theorem State.boots_fuses : (s.boots a b ilv).boot.powered = true ∧ (s.boots a b ilv).boot.fsvn = s.boot.fsvn := by
  unfold State.boots
  dsimp only
  split <;> exact ⟨rfl, rfl⟩

/-- Bank A is accepted, and its images are still to start. -/
theorem State.boots_bankA (ok : bankErr s.boot.fsvn a = 0) :
    (s.boots a b ilv).boot.stage = 0 ∧ (s.boots a b ilv).boot.images = [] ∧ (s.boots a b ilv).boot.todo = a.take 4 ∧
      (s.boots a b ilv).boot.bankb = false := by
  simp [State.boots, ok]

/-- Bank A is not accepted, and bank B is. -/
theorem State.boots_bankB (bad : bankErr s.boot.fsvn a ≠ 0) (ok : bankErr s.boot.fsvn b = 0) :
    (s.boots a b ilv).boot.stage = 0 ∧ (s.boots a b ilv).boot.images = [] ∧ (s.boots a b ilv).boot.todo = b.take 4 ∧
      (s.boots a b ilv).boot.bankb = true := by
  simp [State.boots, bad, ok]

/-- Neither bank is accepted: recovery, with the reason of bank B (log entry 12). -/
theorem State.boots_recovery (badA : bankErr s.boot.fsvn a ≠ 0) (badB : bankErr s.boot.fsvn b ≠ 0) :
    (s.boots a b ilv).boot.stage = 15 ∧ (s.boots a b ilv).boot.err = bankErr s.boot.fsvn b ∧
      (s.boots a b ilv).boot.images = [] ∧ (s.boots a b ilv).boot.todo = [] := by
  simp [State.boots, badA, badB]

end boots

/-! ### The images start one after another (R490) -/

theorem Boot.advance_starts {b : Boot} {i : List Byte} {l : List (List Byte)} (todo : b.todo = i :: l) :
    b.advance = { b with stage := b.stage + 1, images := b.images ++ [i], todo := l } := by
  rw [Boot.advance, todo]

theorem Boot.advance_ready {b : Boot} (todo : b.todo = []) (started : 1 ≤ b.stage ∧ b.stage ≤ 4) :
    b.advance = { b with stage := 5 } := by
  rw [Boot.advance, todo]
  simp [started]

theorem Boot.advance_rests {b : Boot} (todo : b.todo = []) (rests : b.stage = 0 ∨ 5 ≤ b.stage) : b.advance = b := by
  rw [Boot.advance, todo]
  refine if_neg ?_
  simp only [Bool.and_eq_true, decide_eq_true_eq]
  omega

/-- A step ends with the next image of a boot, whatever the links send. -/
theorem State.tick_boot (s : State) : s.tick.boot = s.boot.advance := congrArg Boot.advance s.pump_onlyFab.boot

/-! ### The responder (R493) -/

theorem spdm_powered {s : State} (on : s.boot.powered = true) (f : Boot → Boot) : spdm s f = .next (s.onBoot f) := by
  rw [spdm, if_pos on]

theorem spdm_unpowered {s : State} (off : s.boot.powered = false) (f : Boot → Boot) : spdm s f = .next s := by
  rw [spdm, if_neg (Bool.eq_false_iff.1 off)]

/-- Settles O58: power-on by the banks it accepts, the start of the images one by one, and the responder by whether it has
power. -/
theorem bootEvents : Obligations.BootEvents := by
  refine ⟨fun s a b ilv => ⟨exec_powerOn_powered, fun off => ?powerOn⟩, ?images, fun b => Boot.advance_rests, State.tick_boot,
    fun s => ⟨_, rfl, rfl, rfl, rfl⟩, fun s => ⟨fun off i request => ?unpowered, fun on => ?responder⟩⟩
  case powerOn =>
    obtain ⟨powered, fuses⟩ := State.boots_fuses (s := s) (a := a) (b := b) (ilv := ilv)
    exact ⟨_, exec_powerOn_boots off, powered, fuses, State.boots_bankA, State.boots_bankB, State.boots_recovery⟩
  case images =>
    intro b i j k l stage images todo
    have one := Boot.advance_starts todo
    rw [stage, images] at one
    have two : b.advance.advance = { b with stage := 2, images := [i, j], todo := [k, l] } := by
      rw [one, Boot.advance_starts rfl]; rfl
    have three : b.advance.advance.advance = { b with stage := 3, images := [i, j, k], todo := [l] } := by
      rw [two, Boot.advance_starts rfl]; rfl
    have four : b.advance.advance.advance.advance = { b with stage := 4, images := [i, j, k, l], todo := [] } := by
      rw [three, Boot.advance_starts rfl]; rfl
    refine ⟨one, two, three, four, ?_⟩
    rw [four, Boot.advance_ready rfl ⟨Nat.one_le_ofNat, le_rfl⟩]
  case unpowered =>
    rcases request with rfl | rfl | rfl | ⟨l, rfl⟩ | ⟨k, o, n, rfl⟩ | ⟨k, l, rfl⟩ | ⟨k, l, g, rfl⟩ <;>
      exact spdm_unpowered off _
  case responder =>
    refine ⟨spdm_powered on _, spdm_powered on _, fun l => spdm_powered on _, spdm_powered on _,
      fun o n => spdm_powered on _, fun k o n other => ?certificate, fun l => spdm_powered on _, fun k l other => ?challenge,
      fun k l => ⟨spdm_powered on _, spdm_powered on _⟩⟩
    case certificate => simp only [exec_getCertificate, execGetCertificate, if_neg other, spdm_powered on]
    case challenge => simp only [exec_challenge, execChallenge, if_neg other, spdm_powered on]

end Sys2Proof.Machine

/-!
# The host and the die caches

Lines that go between a die cache and its stack, the accesses of the host through BAR2 and BAR0, and the end of a request on PCI
Express (R454, R455, R474, R485 to R487, R491, R535).
-/

namespace Sys2Proof.Machine

/-! ### DIE_CACHE_WRITEBACK (R454, R474) -/

section writeback
variable {s : State} {pa : Nat}

/-- A dirty line is written back, counted for its stack, and stays clean. -/
theorem exec_dieCacheWriteback_dirty (dirty : tget (lineOf pa) s.dcache = some true) :
    exec (.dieCacheWriteback pa true) s =
      .next { s with dcache := tset (lineOf pa) false s.dcache, regs := s.regs.hbm (lineOf pa) true } := by
  rw [exec_dieCacheWriteback, execDieCacheWriteback]
  simp only [dirty, if_true]

theorem exec_dieCacheWriteback_clean (clean : tget (lineOf pa) s.dcache ≠ some true) :
    exec (.dieCacheWriteback pa true) s = .next s := by
  rw [exec_dieCacheWriteback, execDieCacheWriteback]
  simp only [if_neg clean, if_true]

theorem exec_dieCacheWriteback_refill :
    exec (.dieCacheWriteback pa false) s = .next (s.dieLine false false (lineOf pa)) := rfl

/-- A read of a line that the die cache holds moves nothing. -/
theorem State.dieLine_held {line : Nat} (held : (tget line s.dcache).isSome = true) : s.dieLine false false line = s := by
  have same : dieTouch false false line (s.dcache, s.regs) = (s.dcache, s.regs) := by
    obtain ⟨d, at_⟩ := Option.isSome_iff_exists.1 held
    unfold dieTouch
    split
    · rfl
    · simp [at_]
  rw [State.dieLine, same]

end writeback

/-! ### HOST_BAR_ACCESS (R455, R485, R486, R491) -/

section bar
variable {s : State} {off n : Nat} {bs : List Byte}

/-- In recovery nothing answers but BOOTST. -/
theorem exec_hostBarAccess_recovery {wr : Bool} (recovery : s.boot.stage = 15)
    (other : wr = true ∨ off < 2 ^ 63 ∨ 2 ^ 63 + 8 < off + n) : exec (.hostBarAccess wr off n bs) s = .next s := by
  have silent : s.answersBar wr off n = false := by
    simp only [State.answersBar, recovery, bne_self_eq_false, Bool.false_or, Bool.and_eq_false_iff, Bool.not_eq_false',
      decide_eq_false_iff_not]
    unfold bar0At
    exact (or_assoc.2 other).imp (Or.imp id (by omega)) (by omega)
  rw [exec_hostBarAccess, execHostBarAccess, silent]
  rfl

/-- A read within one line of BAR2 reads the home of that line, unless it has failed. -/
theorem State.barRead_line {pa : Nat} (k : Nat) (some_ : 0 < n) (line : off % 64 + n ≤ 64) (place : s.barPa off = some pa) :
    s.barRead (k + 2) off n =
      if s.lineFailed (lineOf pa) then (none, s) else (some (s.readPa pa n), s.dieUse false pa n) := by
  have whole : min n (64 - off % 64) = n := by omega
  unfold State.barRead
  simp only [Nat.ne_of_gt some_, if_false, place, whole, Nat.sub_self]
  split
  · rfl
  · simp [State.barRead, State.homeRead]

theorem State.barWrite_nil (k off : Nat) : s.barWrite k off [] = s := by cases k <;> rfl

/-- A write within one line of BAR2 goes to the home of that line. -/
theorem State.barWrite_line {pa : Nat} (k : Nat) (some_ : 0 < bs.length) (line : off % 64 + bs.length ≤ 64)
    (place : s.barPa off = some pa) : s.barWrite (k + 1) off bs = s.writePa pa bs := by
  have fits : bs.length ≤ 64 - off % 64 := by omega
  have bytes : bs ≠ [] := List.ne_nil_of_length_pos some_
  rw [State.barWrite, if_neg (by simpa using bytes)]
  simp only [place, List.take_of_length_le fits, List.drop_of_length_le fits, State.barWrite_nil]

section answers
variable (running : s.boot.stage ≠ 15)
include running

theorem State.answersBar_running (wr : Bool) : s.answersBar wr off n = true := by simp [State.answersBar, running]

section bar2
variable (bar2 : off < 2 ^ 63)
include bar2

theorem exec_hostBarAccess_read2 : exec (.hostBarAccess false off n bs) s =
    .next ((s.barRead (n / 64 + 2) off n).2.complete 2 off (s.barRead (n / 64 + 2) off n).1) := by
  have below : ¬ bar0At ≤ off := by simpa [bar0At] using bar2
  simp only [exec_hostBarAccess, execHostBarAccess, State.answersBar_running running, if_neg below, Bool.not_true,
    Bool.false_eq_true, if_false]

theorem exec_hostBarAccess_write2 : exec (.hostBarAccess true off n bs) s =
    .next (s.barWrite (min n bs.length / 64 + 2) off (bs.take n)) := by
  have below : ¬ bar0At ≤ off := by simpa [bar0At] using bar2
  simp only [exec_hostBarAccess, execHostBarAccess, State.answersBar_running running, if_neg below, Bool.not_true,
    Bool.false_eq_true, if_false, if_true]

end bar2
end answers

/-- BAR0 gives the register behind the offset. -/
theorem exec_hostBarAccess_read0 (inside : off + n ≤ 2 ^ 26) (answers : s.boot.stage ≠ 15 ∨ off + n ≤ 8) :
    exec (.hostBarAccess false (2 ^ 63 + off) n bs) s = .next (s.complete 0 off (some (s.mmioRead off n))) := by
  have heard : s.answersBar false (2 ^ 63 + off) n = true := by
    rcases answers with h | h
    · exact State.answersBar_running h _
    · simp only [State.answersBar, Bool.or_eq_true, Bool.and_eq_true, decide_eq_true_eq]
      unfold bar0At
      exact .inr ⟨⟨rfl, by omega⟩, by omega⟩
  have bar0 : bar0At ≤ 2 ^ 63 + off := by simp [bar0At]
  have within : ¬ bar0At + 2 ^ 26 < 2 ^ 63 + off + n := by simp only [bar0At]; omega
  have place : 2 ^ 63 + off - bar0At = off := by simp [bar0At]
  simp only [exec_hostBarAccess, execHostBarAccess, heard, if_pos bar0, if_neg within, place, Bool.not_true,
    Bool.false_eq_true, if_false]

theorem exec_hostBarAccess_write0 (inside : off + n ≤ 2 ^ 26) (running : s.boot.stage ≠ 15) :
    exec (.hostBarAccess true (2 ^ 63 + off) n bs) s = .next (s.mmioWrite off (bs.take n) false) := by
  have bar0 : bar0At ≤ 2 ^ 63 + off := by simp [bar0At]
  have within : ¬ bar0At + 2 ^ 26 < 2 ^ 63 + off + n := by simp only [bar0At]; omega
  have place : 2 ^ 63 + off - bar0At = off := by simp [bar0At]
  simp only [exec_hostBarAccess, execHostBarAccess, State.answersBar_running running, if_pos bar0, if_neg within, place,
    Bool.not_true, Bool.false_eq_true, if_false, if_true]

end bar

/-! ### Requests on PCI Express (R487, R535) -/

section pcie
variable {s : State} {r : PcieReq} (alone : s.pcie = [r])
include alone

section answered
variable (open_ : r.open_ = true)
include open_

theorem State.openPcie_alone : s.openPcie r.id = some r := by simp [State.openPcie, alone, open_]

theorem exec_pcieCompletion_ends (ok : Bool) (st : BitVec 8) (data : List Byte) :
    exec (.pcieCompletion r.id ok st data) s = .next (s.endPcie r ok st.toNat data) := by
  rw [exec_pcieCompletion, execPcieCompletion, State.openPcie_alone alone open_]

theorem exec_pcieRequestTimeout_ends : exec (.pcieRequestTimeout r.id) s = .next (s.endPcie r false 0xFF []) := by
  rw [exec_pcieRequestTimeout, execPcieRequestTimeout, State.openPcie_alone alone open_]

end answered

theorem State.endPcie_ok (st : Nat) (data : List Byte) : s.endPcie r true st data =
    if r.sig.isSome = true then { s with pcie := [] } else { s with pcie := [] }.routeAnswer r.course r.op r.lane
      (some (padTo (if r.kind = 0 then r.n else 4) data)) := by
  simp [State.endPcie, alone]

theorem State.endPcie_failed (st : Nat) (data : List Byte) : s.endPcie r false st data =
    if r.sig.isSome = true then { s with pcie := [] }.xerr r st
    else ({ s with pcie := [] }.xerr r st).routeAnswer r.course r.op r.lane none := by
  simp [State.endPcie, alone]

end pcie

/-- Settles O56: a line that goes to its stack or comes back, an access of the host by its BAR, and the end of the one request
that is open. -/
theorem hostEvents : Obligations.HostEvents := by
  refine ⟨fun s pa wr => ?writeback, fun s wr off n bs => exec_hostBarAccess_recovery,
    fun s off n pa bs running bar2 some_ line place => ?bar2, fun s off n bs inside =>
      ⟨exec_hostBarAccess_read0 inside, exec_hostBarAccess_write0 inside⟩, fun s r alone open_ => ?pcie⟩
  case writeback =>
    cases wr with
    | false => exact ⟨_, exec_dieCacheWriteback_refill, rfl, nofun, fun _ => State.dieLine_held⟩
    | true =>
      by_cases dirty : tget (lineOf pa) s.dcache = some true
      · exact ⟨_, exec_dieCacheWriteback_dirty dirty, rfl,
          fun _ => ⟨fun _ => ⟨tget_tset_self _ _ _, rfl⟩, fun clean => absurd dirty clean⟩, nofun⟩
      · exact ⟨s, exec_dieCacheWriteback_clean dirty, rfl, fun _ => ⟨fun h => absurd h dirty, fun _ => rfl⟩, nofun⟩
  case bar2 =>
    have read := State.barRead_line (n / 64) some_ line place
    refine ⟨fun failed => ?_, fun good => ⟨_, exec_hostBarAccess_read2 running bar2, ?_⟩, fun len => ?_⟩
    · rw [exec_hostBarAccess_read2 running bar2, read, if_pos failed]
      rfl
    · rw [read, if_neg (Bool.eq_false_iff.1 good)]
      exact ⟨rfl, rfl⟩
    · subst len
      rw [exec_hostBarAccess_write2 running bar2, List.take_length, State.barWrite_line _ some_ line place]
  case pcie =>
    refine ⟨fun st data => ⟨?_, ?_⟩, ?_⟩
    · rw [exec_pcieCompletion_ends alone open_, State.endPcie_ok alone]
    · rw [exec_pcieCompletion_ends alone open_, State.endPcie_failed alone]
    · rw [exec_pcieRequestTimeout_ends alone open_, State.endPcie_failed alone]

end Sys2Proof.Machine

/-!
# Management and faults

The registers that management writes, translation invalidation, contexts, and the fault records with their answers (R388, R409,
R465 to R468, R480, R481, R491, R499, R538).
-/

namespace Sys2Proof.Machine

/-! ### Updates of one die or of one context -/

theorem OnlyDie.of_onDie (s : State) (d : Nat) (f : Die → Die) : OnlyDie s (s.onDie d f) d :=
  ⟨rfl, fun _ other => getD_modAt_ne other f _ _⟩

theorem State.die_onDie {s : State} {d : Nat} (listed : d < s.dies.length) (f : Die → Die) :
    (s.onDie d f).die d = f (s.die d) :=
  getD_modAt_self listed f _

theorem State.onCtx_frame (s : State) (c : Nat) (f : Ctx → Ctx) : s.onCtx c f = { s with ctxs := (s.onCtx c f).ctxs } := by
  unfold State.onCtx
  split <;> rfl

theorem OnlyCtx.of_onCtx (s : State) (c : Nat) (f : Ctx → Ctx) : OnlyCtx s (s.onCtx c f) c :=
  ⟨s.onCtx_frame c f, fun _ other => State.ctx_onCtx_ne other f⟩

theorem State.ctx_of_some {s : State} {c : Nat} {x : Ctx} (h : s.ctx? c = some x) : s.ctx c = x :=
  congrArg (Option.getD · Ctx.start) h

/-- An update of a context that exists. -/
theorem State.onCtx_spec {s : State} {c : Nat} {x : Ctx} (h : s.ctx? c = some x) (f : Ctx → Ctx) :
    OnlyCtx s (s.onCtx c f) c ∧ (s.onCtx c f).ctx c = f x :=
  ⟨.of_onCtx s c f, State.ctx_onCtx_self h f⟩

/-- An update of a die that exists. -/
theorem State.onDie_spec {s : State} {d : Nat} (h : d < s.dies.length) (f : Die → Die) :
    OnlyDie s (s.onDie d f) d ∧ (s.onDie d f).die d = f (s.die d) :=
  ⟨.of_onDie s d f, State.die_onDie h f⟩

/-- A free choice is one of its outcomes (log entry 4). -/
theorem State.choose_lt (s : State) {n : Nat} (some_ : 0 < n) : (s.choose n).1 < n := by
  unfold State.choose
  split
  · exact some_
  · exact Nat.mod_lt _ some_

/-! ### KTREP (R409) -/

section ktrep
variable {s : State} {die key : Nat} {v : DWord} (place : key = fld v 0 16 * 4 + die)
include place

theorem exec_ktrepWrite_sound (sound : (s.key key).st ≠ 3) : exec (.ktrepWrite die v) s = .next s := by
  subst place
  rw [exec_ktrepWrite, execKtrepWrite]
  exact congrArg _ (if_pos sound)

theorem exec_ktrepWrite_broken (broken : (s.key key).st = 3) : exec (.ktrepWrite die v) s =
    .next ((((if v.getLsbD 16 = true then s.backLines (die, (s.key key).rcore) (s.key key).lines else s).unhold key).onKey key
      fun k => { k with st := 0, nsh := 0, lines := [] }).grants) := by
  subst place
  rw [exec_ktrepWrite, execKtrepWrite]
  exact congrArg _ (if_neg (not_not.2 broken))

end ktrep

/-! ### TLBINVN, TLBINV and TLBINV_DONE (R465) -/

/-- While an invalidation works, held writes wait. -/
theorem releaseHeld_busy {r : Regs} (busy : r.tlbBusy.isSome = true) (k : Nat) : releaseHeld r k = r := by
  cases k with
  | zero => rfl
  | succ k => rw [releaseHeld, if_pos busy]

theorem releaseHeld_nil {r : Regs} (nothing : r.tlbHeld = []) (k : Nat) : releaseHeld r k = r := by
  cases k with
  | zero => rfl
  | succ k => simp [releaseHeld, nothing]

section tlb
variable {s : State} (nothing : s.regs.tlbHeld = []) (v : DWord)
include nothing

theorem Regs.tlbWrite_busy {w : DWord} (busy : s.regs.tlbBusy = some w) (count : Bool) :
    s.regs.tlbWrite count v = { s.regs with tlbHeld := [(count, v)] } := by
  rw [Regs.tlbWrite, releaseHeld_busy (by rw [busy]; rfl), nothing]
  rfl

theorem Regs.tlbWrite_count (idle : s.regs.tlbBusy = none) :
    s.regs.tlbWrite true v = { s.regs with tlbN := v.setWidth 32 } := by
  simp [Regs.tlbWrite, releaseHeld, nothing, idle]

theorem Regs.tlbWrite_start (idle : s.regs.tlbBusy = none) :
    s.regs.tlbWrite false v = { s.regs with tlbBusy := some v, tlbBusyN := s.regs.tlbN } := by
  simp [Regs.tlbWrite, releaseHeld, nothing, idle]

end tlb

section done
variable {s : State}

theorem exec_tlbinvDone_idle (idle : s.regs.tlbBusy = none) : exec .tlbinvDone s = .next s := by
  rw [exec_tlbinvDone, execTlbinvDone, idle]

theorem exec_tlbinvDone_waits {w : DWord} (busy : s.regs.tlbBusy = some w)
    (old : s.oldAccess w s.regs.tlbBusyN.toNat = true) : exec .tlbinvDone s = .next s := by
  simp only [exec_tlbinvDone, execTlbinvDone, busy, if_pos old]

/-- The invalidation is over: the entries that it covers are gone. -/
theorem exec_tlbinvDone_ends {w : DWord} (busy : s.regs.tlbBusy = some w) (nothing : s.regs.tlbHeld = [])
    (free : s.oldAccess w s.regs.tlbBusyN.toNat = false) : exec .tlbinvDone s =
      .next { s with tlb := s.tlb.filter fun t => !covered w s.regs.tlbBusyN.toNat t,
                     regs := { s.regs with tlbBusy := none } } := by
  simp only [exec_tlbinvDone, execTlbinvDone, busy, if_neg (Bool.eq_false_iff.1 free), State.onRegs,
    releaseHeld_nil (r := { s.regs with tlbBusy := none }) nothing]

end done

/-! ### CONTEXT_CREATE and CONTEXT_RESET (R392, R468, R491, R499) -/

section contextCreate
variable {s : State} {c : Nat} {b : DWord}

theorem exec_contextCreate_fails (bad : 4096 ≤ c ∨ (s.ctx? c).isSome = true ∨ s.boot.stage = 15) :
    exec (.contextCreate c b) s = .next s := by
  rw [exec_contextCreate, execContextCreate, if_pos (by simpa [or_assoc] using bad)]

theorem exec_contextCreate_starts (few : c < 4096) (new : s.ctx? c = none) (running : s.boot.stage ≠ 15) :
    exec (.contextCreate c b) s = .next { s with ctxs := s.ctxs ++ [(c, { Ctx.start with cbase := b })] } := by
  rw [exec_contextCreate, execContextCreate, if_neg (by simpa [new, running] using few)]

/-- A context that joins the table stands there, and no other moves. -/
theorem State.addCtx_spec (new : s.ctx? c = none) (x : Ctx) :
    OnlyCtx s { s with ctxs := s.ctxs ++ [(c, x)] } c ∧ ({ s with ctxs := s.ctxs ++ [(c, x)] } : State).ctx c = x :=
  ⟨⟨rfl, fun _ other => congrArg (Option.getD · Ctx.start) (tget_append_old other s.ctxs)⟩,
    congrArg (Option.getD · Ctx.start) (tget_append_new (x := x) new)⟩

end contextCreate

/-- Settles O53: a register of a die or of a context by `State.onDie_spec` and `State.onCtx_spec`, an invalidation by what it
finds under way, and a context by whether it may start. -/
theorem managementEvents : Obligations.ManagementEvents := by
  refine ⟨fun s die v x h => ⟨_, rfl, State.onCtx_spec h _⟩,
    fun s die v h => ⟨⟨_, rfl, State.onDie_spec h _⟩, fun l => ⟨_, rfl, State.onDie_spec h _⟩, ⟨_, rfl, State.onDie_spec h _⟩⟩,
    fun s r v => ⟨rfl, fun a => by rw [State.setReg_mem]⟩, fun s c v x h => ?gov,
    fun s die key v place => ⟨exec_ktrepWrite_sound place, exec_ktrepWrite_broken place⟩, fun s v nothing => ?tlb,
    fun s c b => ⟨fun few new running => ?create, exec_contextCreate_fails⟩,
    fun s c => ⟨_, s.choose_lt (by decide), _, rfl, rfl⟩⟩
  case gov =>
    obtain ⟨only, ctx⟩ := State.onCtx_spec h fun y => { y with gov := y.gov.step s.time v }
    exact ⟨⟨_, rfl, only, by rw [ctx]; rfl, by rw [ctx]; rfl, by rw [ctx]; rfl, by rw [ctx]; rfl, by rw [ctx]; rfl⟩,
      ⟨_, rfl, State.onCtx_spec h _⟩⟩
  case tlb =>
    simp only [exec_tlbinvnWrite, execTlbinvnWrite, exec_tlbinvWrite, execTlbinvWrite, State.onRegs]
    refine ⟨fun idle => ⟨?_, ?_, exec_tlbinvDone_idle idle⟩, fun w busy => ⟨?_, ?_, exec_tlbinvDone_waits busy, fun free =>
      ⟨_, exec_tlbinvDone_ends busy nothing free, rfl, rfl, fun e => ?_⟩⟩⟩
    · rw [Regs.tlbWrite_count nothing v idle]
    · rw [Regs.tlbWrite_start nothing v idle]
    · rw [Regs.tlbWrite_busy nothing v busy]
    · rw [Regs.tlbWrite_busy nothing v busy]
    · simp
  case create =>
    obtain ⟨only, ctx⟩ := State.addCtx_spec new { Ctx.start with cbase := b }
    exact ⟨_, exec_contextCreate_starts few new running, only, ctx, by rw [ctx]; rfl, by rw [ctx]; rfl, by rw [ctx]; rfl⟩

/-! ### Fault records (R466, R467) -/

section faults
variable {s : State} {ctx : Nat} {f : FaultRec} {c : Ctx}

/-- The place of a fault record (R466), byte for byte. -/
def State.recordBytes (s : State) (f : FaultRec) : List Byte :=
  leBytes 8 f.va.toNat ++ leBytes 2 f.uid ++ leBytes 1 (f.kind + if f.inWalk then 128 else 0) ++ leBytes 1 f.die ++
    leBytes 4 (if s.lnchLive f.lnch then f.lnch.toNat else 0) ++ leBytes 8 s.time ++ leBytes 8 0

theorem State.mem_writePa (s : State) (pa : Nat) (bs : List Byte) : (s.writePa pa bs).mem = cellPuts pa bs s.mem := rfl

section record
variable {fid : Nat} (live : s.ctx? ctx = some c)
  (fault : (s.faults.find? fun g => g.ctx == ctx && g.uid % 2 ^ 16 == fid && !g.written) = some f)
include live fault

theorem State.writeRecord_full (full : (c.frtail + 1) % 2 ^ c.frsize = c.frhead % 2 ^ c.frsize) :
    s.writeRecord ctx fid = s := by
  obtain rfl := State.ctx_of_some live
  simp only [State.writeRecord, fault, if_pos full]

/-- A record that finds room is written at the tail of the ring, and the tail moves on. -/
theorem State.writeRecord_room (room : (c.frtail + 1) % 2 ^ c.frsize ≠ c.frhead % 2 ^ c.frsize) {pa : Nat} {u : State}
    (place : s.hwPa ctx (c.frbase + .ofNat 64 (32 * c.frtail)) .write = (some pa, u)) :
    s.writeRecord ctx fid =
      State.onCtx { u.writePa pa (s.recordBytes f) with
          faults := u.faults.map fun g => if g.uid = f.uid then { g with written := true } else g }
        ctx fun x => { x with frtail := (x.frtail + 1) % 2 ^ c.frsize } := by
  obtain rfl := State.ctx_of_some live
  have written : s.hwWrite ctx ((s.ctx ctx).frbase + .ofNat 64 (32 * (s.ctx ctx).frtail)) (s.recordBytes f) =
      (true, u.writePa pa (s.recordBytes f)) := by simp only [State.hwWrite, place]
  rw [State.writeRecord, fault]
  dsimp only
  rw [if_neg room, ← State.recordBytes, written]
  dsimp only
  rw [if_neg (by decide), State.writePa_faults]

end record

theorem State.answerFault_answers {fid : BitVec 16} (code : Nat)
    (fault : (s.faults.find? fun g => g.ctx == ctx && g.uid % 2 ^ 16 == fid.toNat && g.written) = some f) :
    s.answerFault ctx fid code =
      { s with faults := s.faults.filter fun g => g.uid != f.uid, answers := s.answers ++ [(f.uid, code)] } := by
  rw [State.answerFault, fault]

end faults

/-- Settles O54: a record is `State.writeRecord_room` where its ring has space, and an answer is `State.answerFault_answers`. -/
theorem faultEvents : Obligations.FaultEvents := by
  refine fun s ctx f c live => ⟨fun fid fault => ⟨fun full => congrArg _ (State.writeRecord_full live fault full),
    fun room pa u place faults ctxs mem => ⟨_, rfl, ?_⟩⟩, fun fid fault =>
    ⟨congrArg _ (State.answerFault_answers 0 fault), congrArg _ (State.answerFault_answers 1 fault),
      congrArg _ (State.answerFault_answers 2 fault)⟩⟩
  rw [State.writeRecord_room live fault room place]
  have live' : ∀ l, ({ u.writePa pa (s.recordBytes f) with faults := l } : State).ctx? ctx = some c := fun l => by
    rw [← live, State.ctx?, State.ctx?, State.writePa_ctxs, ctxs]
  refine ⟨by rw [State.ctx_onCtx_self (live' _)], ?_, ?_⟩
  · rw [State.onCtx_faults, faults]
  · rw [State.onCtx_mem, ← mem, State.mem_writePa, State.recordBytes]

end Sys2Proof.Machine

/-!
# Errors, failed units and the thermal throttle

The counters of errors, what an uncorrectable error meets, which units a failure fences, and the throttle of a die (R220, R250,
R494, R498, R500). With no resident block no context is concerned, and a failure reports to none (`State.ufence_noBlocks`).
-/

namespace Sys2Proof.Machine

/-! ### Health of a die (R498, R500) -/

theorem State.onHealth_spec {s : State} {d : Nat} (h : d < s.dies.length) (f : Health → Health) :
    OnlyDie s (s.onHealth d f) d ∧ ((s.onHealth d f).die d).health = f (s.die d).health :=
  ⟨.of_onDie s d _, by rw [State.onHealth, State.die_onDie h]⟩

/-- The counter of the source of a corrected error goes up, saturating. -/
def Health.corrected (h : Health) (src : SoftSrc) : Health :=
  match src with
  | .sram => { h with cesr := sat32 h.cesr }
  | .dieCache => { h with cedc := sat32 h.cedc }
  | .hbm => { h with cehb := sat32 h.cehb }

theorem exec_softErrorCorrected_counts (s : State) (die : Nat) (src : SoftSrc) :
    exec (.softErrorCorrected die src) s = .next (s.onHealth die fun h => h.corrected src) := rfl

/-! ### UNCORRECTABLE_ERROR (R220, R250) -/

section uncorrectable
variable {s u : State} {c : Nat} {x : Course} {a : DWord}

section counted
variable (course : s.course? c = some x) (counted : u = s.onHealth x.info.die fun h => { h with ue := (h.ue + 1) % 2 ^ 32 })
include course counted

theorem exec_uncorrectableError_scratchpad : exec (.uncorrectableError c .scratchpad a) s =
    .next ((u.failRead c 1 fun o l =>
      inAperture (o.va l) && meets ((apertureOff (o.va l)).toNat, o.size l) (a.toNat / 4 * 4, 4)).getD (u.hwError c 1 a)) := by
  subst counted
  simp only [exec_uncorrectableError, execUncorrectableError, State.uncorrectable, course]
  rfl

theorem exec_uncorrectableError_pool : exec (.uncorrectableError c .registerPool a) s =
    .next (u.onCourse c fun y => { y with poolErr := some a }) := by
  subst counted
  simp only [exec_uncorrectableError, execUncorrectableError, State.uncorrectable, course]

theorem exec_uncorrectableError_intersection : exec (.uncorrectableError c .intersection a) s =
    .next ((u.failRead c 3 fun o _ => match o.kind with | .trace _ | .visq _ => true | _ => false).getD (u.hwError c 3 a)) := by
  subst counted
  simp only [exec_uncorrectableError, execUncorrectableError, State.uncorrectable, course]
  rfl

theorem exec_uncorrectableError_engine :
    exec (.uncorrectableError c .engine a) s = .next (u.engineError c x) := by
  subst counted
  simp only [exec_uncorrectableError, execUncorrectableError, State.uncorrectable, course]

theorem exec_uncorrectableError_memory :
    exec (.uncorrectableError c .memoryLine a) s = .next (u.memoryError c x a) := by
  subst counted
  simp only [exec_uncorrectableError, execUncorrectableError, State.uncorrectable, course]

end counted

/-- Engines that hold no command read nothing, and the course takes the error. -/
theorem State.engineError_idle (mq : (s.core x.coreKey).mq = []) (copies : (s.core x.coreKey).copies = [])
    (colls : s.colls = []) : s.engineError c x = s.hwError c 4 0 := by
  simp [State.engineError, mq, copies, colls]

/-- A clean line of the L1 is dropped, and nothing has read the error (R250). -/
theorem State.memoryError_clean {t : State} {pa : Nat} {l : L1Line}
    (place : s.translate x.info.ctx a .read = (.ok pa, t)) (inMemory : region pa ≤ 1)
    (line : s.l1? x.coreKey (lineOf pa) = some l) (clean : l.dirty = 0) : s.memoryError c x a =
      s.onCore x.coreKey fun k => { k with l1 := k.l1.filter fun l => l.line != lineOf pa } := by
  simp only [State.memoryError, place, if_neg (Nat.not_lt.2 inMemory), line, if_pos clean]

/-- The open lanes of the oldest read that meets the error fail, and the read is settled. -/
theorem State.failRead_some {src : Nat} {p : MemOp → LaneAcc → Bool} {o : MemOp}
    (oldest : (s.course c).ops.find? (fun o => o.reads && o.lanes.any fun l => l.open_ && p o l) = some o)
    (memory : o.fixedFn = false) (noRest : o.kind ≠ .rest) : s.failRead c src p =
      some (((o.lanes.filter fun l => l.open_ && p o l).foldl (fun s l => (s.laneBad c o.id l src).putLane c o.id l.fail)
        s).settleOp c o.id) := by
  rw [State.failRead, oldest]
  dsimp only
  rw [if_neg (Bool.eq_false_iff.1 memory)]
  split
  · contradiction
  · rfl

end uncorrectable

/-! ### Failed units (R494) -/

section noBlocks
variable {s : State} (noBlocks : s.blocks = [])
include noBlocks

theorem State.contextsOn_noBlocks (die : Nat) (p : Nat → Bool) : s.contextsOn die p = [] := by
  simp [State.contextsOn, noBlocks]

theorem State.ufence_noBlocks (kind die u : Nat) (p : Nat → Bool) : s.ufence kind die u (s.contextsOn die p) = s := by
  rw [State.contextsOn_noBlocks noBlocks]
  rfl

end noBlocks

/-- A lost line of which no context is told only joins the failed lines. -/
theorem State.lineLost_nil (s : State) (die ln : Nat) :
    s.lineLost die ln [] = { s with failed := if s.failed.contains ln then s.failed else ln :: s.failed } := rfl

/-- A core is fenced, and listed in the health of its die. -/
def State.fenceCore (s : State) (die core : Nat) : State :=
  (s.onCore (die, core) fun c => { c with fenced := true }).onHealth die
    fun h => { h with fcore := if h.fcore.contains core then h.fcore else h.fcore ++ [core] }

section fenceCore
variable (s : State) (die core : Nat)

theorem State.fenceCore_eq : s.fenceCore die core = (s.onCore (die, core) fun c => { c with fenced := true }).onHealth die
    fun h => { h with fcore := if h.fcore.contains core then h.fcore else h.fcore ++ [core] } := rfl

theorem State.fenceCore_fenced : ((s.fenceCore die core).core (die, core)).fenced = true := by
  rw [State.fenceCore, State.onHealth]
  exact congrArg Core.fenced (s.core_onCore_self (die, core) fun c => { c with fenced := true })

theorem State.mem_fcore_fenceCore (listed : die < s.dies.length) : core ∈ ((s.fenceCore die core).die die).health.fcore := by
  rw [State.fenceCore, (State.onHealth_spec (by exact listed) _).2]
  dsimp only
  split
  next there => simpa using there
  · simp

end fenceCore

/-- The loss of a core of a die on which nothing runs fences it, and nothing else moves. -/
theorem State.loseCore_idle {s : State} {die core : Nat} (noBlocks : s.blocks = []) (noRows : (s.die die).rows = [])
    (listed : die < s.dies.length) : s.loseCore die core = s.fenceCore die core := by
  have rows : ((s.fenceCore die core).die die).rows = [] := by
    rw [← noRows, State.fenceCore, State.onHealth, State.die_onDie (by exact listed)]
    rfl
  have same (f : RowStream → RowStream) :
      (s.fenceCore die core).onDie die (fun d => { d with rows := d.rows.map f }) = s.fenceCore die core := by
    have dies : modAt die (fun d : Die => { d with rows := d.rows.map f }) (s.fenceCore die core).dies =
        (s.fenceCore die core).dies := modAt_id fun d at_ => by
      have here : (s.fenceCore die core).die die = d := by simp [State.die, List.getD, at_]
      rw [here] at rows
      rw [rows, List.map_nil, ← rows]
    rw [State.onDie, dies]
  have blocks : (s.fenceCore die core).blocks = [] := noBlocks
  unfold State.loseCore
  simp only [State.ufence_noBlocks noBlocks, ← State.fenceCore_eq, rows, List.find?_nil, same, ite_self, blocks, List.filter_nil, List.map_nil, List.foldl_nil]

theorem exec_coreLoss_idle {s : State} {die core : Nat} (noBlocks : s.blocks = []) (noRows : (s.die die).rows = [])
    (listed : die < s.dies.length) : exec (.coreLoss die core) s = .next (s.fenceCore die core) := by
  rw [exec_coreLoss, execCoreLoss, State.loseCore_idle noBlocks noRows listed]

/-- A unit joins the failed units of its die. -/
def State.listFailed (s : State) (kind die u : Nat) : State :=
  s.onDie die fun d => { d with failed := if d.failed.contains (kind, u) then d.failed else d.failed ++ [(kind, u)] }

theorem State.mem_listFailed {s : State} {kind die u : Nat} (listed : die < s.dies.length) :
    (kind, u) ∈ ((s.listFailed kind die u).die die).failed ∧
      ∀ p ∈ (s.die die).failed, p ∈ ((s.listFailed kind die u).die die).failed := by
  rw [State.listFailed, State.die_onDie listed]
  dsimp only
  split
  next there => exact ⟨by simpa using there, fun _ => id⟩
  · exact ⟨by simp, fun p => List.mem_append_left _⟩

/-- What the lost lines of a unit leave of the machine when no context is told: all but the failed lines. -/
theorem State.foldl_lineLost_dies (die : Nat) (l : List Nat) (s : State) :
    (l.foldl (fun s n => s.lineLost die n []) s).dies = s.dies := by
  induction l generalizing s with
  | nil => rfl
  | cons n l ih => exact ih _

theorem State.loseChannel_dies {s : State} (noBlocks : s.blocks = []) (die u : Nat) : (s.loseChannel die u).dies = s.dies := by
  simp only [State.loseChannel, State.contextsOn_noBlocks noBlocks]
  rw [State.foldl_lineLost_dies]

section unitFailure
variable {s : State} {die u : Nat} (noBlocks : s.blocks = [])
include noBlocks

theorem exec_unitFailure_lists {kind : Nat} (listed : kind = 1 ∨ kind = 3 ∨ kind = 6) :
    ∃ t, exec (.unitFailure kind die u) s = .next t ∧ t.dies = (s.listFailed kind die u).dies := by
  have alone (kind : Nat) (p : Nat → Bool) := State.ufence_noBlocks noBlocks kind die u p
  rcases listed with rfl | rfl | rfl
  · exact ⟨_, rfl, by beta_reduce; rw [alone]; rfl⟩
  · refine ⟨_, rfl, ?_⟩
    beta_reduce
    rw [alone]
    exact State.loseChannel_dies (s := s.listFailed 3 die u) noBlocks die u
  · exact ⟨_, rfl, by beta_reduce; rw [alone]; rfl⟩

end unitFailure

/-- What a slice loses of its lines: a clean one is refilled, and a dirty one has failed. -/
def State.loseLine (s : State) (die : Nat) (l : Nat × Bool) : State :=
  if l.2 then ({ s with dcache := tdel l.1 s.dcache } : State).lineLost die l.1 []
  else { s with regs := s.regs.hbm l.1 false }

theorem State.mem_failed_loseLine (s : State) (die : Nat) (l : Nat × Bool) (n : Nat) :
    n ∈ (s.loseLine die l).failed ↔ n ∈ s.failed ∨ (n, true) = l := by
  obtain ⟨line, dirty⟩ := l
  cases dirty with
  | false => simp [State.loseLine]
  | true =>
    simp only [State.loseLine, if_true, State.lineLost_nil, Prod.mk.injEq, and_true]
    split
    next there => exact ⟨.inl, fun h => h.elim id fun e => by simpa [e] using there⟩
    · rw [List.mem_cons, or_comm]

theorem State.loseLine_mem (s : State) (die : Nat) (l : Nat × Bool) : (s.loseLine die l).mem = s.mem := by
  unfold State.loseLine
  split <;> rfl

theorem State.mem_failed_foldl_loseLine (die n : Nat) (l : List (Nat × Bool)) (s : State) :
    n ∈ (l.foldl (fun s l => s.loseLine die l) s).failed ↔ n ∈ s.failed ∨ (n, true) ∈ l := by
  induction l generalizing s with
  | nil => simp
  | cons a l ih => rw [List.foldl_cons, ih, State.mem_failed_loseLine, List.mem_cons, or_assoc]

theorem State.loseSlice_noBlocks {s : State} (noBlocks : s.blocks = []) (die u : Nat) : s.loseSlice die u =
    (s.dcache.filter fun l => homeDie l.1 == die && Config.sliceOf l.1 % 32 == u).foldl (fun s l => s.loseLine die l) s := by
  simp only [State.loseSlice, State.contextsOn_noBlocks noBlocks]
  rfl

theorem exec_unitFailure_slice {s : State} (noBlocks : s.blocks = []) (die u : Nat) :
    exec (.unitFailure 2 die u) s = .next (s.loseSlice die u) :=
  congrArg (fun t : State => Host.Outcome.next (t.loseSlice die u)) (State.ufence_noBlocks noBlocks 2 die u fun _ => true)

/-- A link that is up goes down, and trains again. -/
theorem exec_unitFailure_link (s : State) (die u : Nat) : exec (.unitFailure 5 die u) s =
    .next (s.onPort u fun p => if p.st = 2 then { p with st := 1, replays := 0 } else p) := rfl

/-! ### THERMAL_STOP (R500) -/

section thermalStop
variable {s : State} {die sensor : Nat} {r : BitVec 16}

theorem State.onHealth_onHealth (s : State) (die : Nat) (f g : Health → Health) :
    (s.onHealth die f).onHealth die g = s.onHealth die fun h => g (f h) := by
  have twice (f g : Die → Die) (l : List Die) : modAt die g (modAt die f l) = modAt die (fun d => g (f d)) l := by
    refine List.ext_getElem? fun k => ?_
    by_cases here : k = die
    · subst here
      simp [getElem?_modAt_self, Function.comp_def]
    · simp [getElem?_modAt_ne here]
  simp only [State.onHealth, State.onDie, twice]

variable (listed : die < s.dies.length)
include listed

/-- A die at the last step that is too hot stops; with no resident block no context is told. -/
theorem exec_thermalStop_hot (noBlocks : s.blocks = []) (hot : 1150 < r.toNat ∧ (s.die die).health.step = 8) :
    exec (.thermalStop die sensor r) s =
      .next (s.onHealth die fun h => { h.sense sensor r.toNat with stopped := true }) := by
  have step : ((s.onHealth die fun h => h.sense sensor r.toNat).die die).health.step = 8 := by
    rw [(State.onHealth_spec listed _).2]
    exact hot.2
  have twice := s.onHealth_onHealth die (fun h => h.sense sensor r.toNat) fun h => { h with stopped := true }
  simp only [exec_thermalStop, execThermalStop, step, hot.1, decide_true, Bool.and_self, if_true, twice,
    State.contextsOn_noBlocks (s := s.onHealth die _) noBlocks, List.foldl_nil]

theorem exec_thermalStop_cool (cool : ¬ (1150 < r.toNat ∧ (s.die die).health.step = 8)) :
    exec (.thermalStop die sensor r) s = .next (s.onHealth die fun h => h.sense sensor r.toNat) := by
  have step : ((s.onHealth die fun h => h.sense sensor r.toNat).die die).health.step = (s.die die).health.step := by
    rw [(State.onHealth_spec listed _).2]
    rfl
  rw [exec_thermalStop, execThermalStop]
  exact congrArg _ (if_neg (by simpa only [step, Bool.and_eq_true, decide_eq_true_eq] using cool))

end thermalStop

/-- Settles O55: an uncorrectable error by its source, a failure by its unit where no block runs, and the throttle through
`State.onHealth_spec`. -/
theorem healthEvents : Obligations.HealthEvents := by
  refine ⟨fun s die src listed => ?soft, fun s u c x a course counted => ?uncorrectable,
    fun s die core => ⟨rfl, fun noBlocks noRows listed => ?core⟩, fun s l => ⟨rfl, fun _ => rfl⟩,
    fun s kind die u units listed noBlocks => ?unit, fun s u die listed => ⟨_, exec_unitFailure_link s die u, ?link⟩,
    fun s die u noBlocks => ⟨_, exec_unitFailure_slice noBlocks die u, ?slice⟩, fun s die sensor r h listed health => ?thermal⟩
  case soft =>
    obtain ⟨only, counter⟩ := State.onHealth_spec listed fun h => h.corrected src
    exact ⟨_, _, exec_softErrorCorrected_counts s die src, only, rfl, by rw [counter]; cases src <;> rfl⟩
  case uncorrectable =>
    refine ⟨exec_uncorrectableError_scratchpad course counted, exec_uncorrectableError_pool course counted,
      exec_uncorrectableError_intersection course counted, fun mq copies colls => ?_,
      fun pa t l place inMemory line clean => ?_, fun src p o => State.failRead_some⟩
    · rw [exec_uncorrectableError_engine course counted, State.engineError_idle mq copies colls]
    · rw [exec_uncorrectableError_memory course counted, State.memoryError_clean place inMemory line clean]
  case core =>
    refine ⟨_, exec_coreLoss_idle noBlocks noRows listed, s.fenceCore_fenced die core,
      s.mem_fcore_fenceCore die core listed, fun _ => rfl⟩
  case unit =>
    obtain ⟨t, next, dies⟩ := exec_unitFailure_lists (die := die) (u := u) noBlocks units
    refine ⟨t, next, ?_⟩
    rw [State.die, dies]
    exact State.mem_listFailed listed
  case link =>
    rw [State.port_onPort listed]
    split <;> rfl
  case slice =>
    rw [State.loseSlice_noBlocks noBlocks]
    refine ⟨State.foldl_mem (fun t a => t.loseLine_mem die a) _ s, fun l => ?_⟩
    rw [State.mem_failed_foldl_loseLine, List.mem_filter]
    simp only [Bool.and_eq_true, beq_iff_eq]
    exact or_congr_right (by rw [and_comm, and_assoc])
  case thermal =>
    subst health
    refine ⟨?up, ?down, ?resume, fun noBlocks => ?stop⟩
    case up =>
      refine ⟨_, rfl, (State.onHealth_spec listed _).1, ?_⟩
      rw [(State.onHealth_spec listed _).2]
      dsimp only
      split <;> exact ⟨rfl, rfl, rfl⟩
    case down =>
      refine ⟨_, rfl, (State.onHealth_spec listed _).1, ?_⟩
      rw [(State.onHealth_spec listed _).2]
      dsimp only
      split <;> rfl
    case resume =>
      refine ⟨_, rfl, (State.onHealth_spec listed _).1, ?_⟩
      rw [(State.onHealth_spec listed _).2]
      dsimp only
      split
      next cool => simp [cool]
      next hot => simp [hot, Health.senseAll]
    case stop =>
      obtain ⟨only, sensed⟩ := State.onHealth_spec listed fun h => h.sense sensor r.toNat
      by_cases hot : 1150 < r.toNat ∧ (s.die die).health.step = 8
      · refine ⟨_, exec_thermalStop_hot listed noBlocks hot, (State.onHealth_spec listed _).1, ?_⟩
        rw [(State.onHealth_spec listed _).2]
        simp [hot]
      · refine ⟨_, exec_thermalStop_cool listed hot, only, ?_⟩
        rw [sensed, decide_eq_false hot, Bool.or_false]
        rfl

end Sys2Proof.Machine

/-!
# Requests to the dispatcher

TSUB, EMIT and QSUB, which wait for an answer, and TDEP and KEYREL, which send something off (R416, R417, R419, R422).
-/

namespace Sys2Proof.Machine

theorem OnlyCourse.fresh (s : State) (c : Nat) : OnlyCourse s s.fresh.2 c := ⟨rfl, fun _ _ => rfl⟩

/-- A write on its way is appended to its course, and nothing else changes. -/
theorem State.addFlight_onlyCourse (s : State) (c v : Nat) (m : Mask) (vals : Lanes) (tag : Tag) (flags : DWord)
    (due : Option Nat) : OnlyCourse s (s.addFlight c v m vals tag flags due).2 c :=
  (OnlyCourse.fresh s c).trans (.of_onCourse _ c _)

theorem Course.selectable_of_req {x : Course} (waiting : x.req ≠ none) : x.selectable = false := by
  have held : x.req.isNone = false := Option.isNone_eq_false_iff.mpr (Option.isSome_iff_ne_none.mpr waiting)
  simp [Course.selectable, held]

section request
variable {s : State} {x : Course} (present : s.course? s.iss.course = some x)
include present

/-- A request holds its course, and nothing else changes (R417). -/
theorem State.request_spec (r : DReq) : OnlyCourse s (s.request r) s.iss.course ∧
    (s.request r).course? s.iss.course = some { x with req := some (s.iss.pc, r) } :=
  State.onCourse_spec present _

end request

section exec
variable {s : State} (issuing : Issuing s) (bundle : s.iss.g3 ≠ 0)
include issuing bundle

theorem exec_tsub_next (m : Bool) (a : SReg) : exec (.tsub m a) s = .next (s.request (.tsub (s.iss.src.s a.toNat))) := by
  rw [exec_tsub, execTsub, slot3_next issuing bundle]
  rfl

theorem exec_emit_next (m : Bool) (a : SReg) (k : BitVec 4) :
    exec (.emit m a k) s = .next (s.request (.emit (s.iss.src.s a.toNat) k.toNat)) := by
  rw [exec_emit, execEmit, slot3_next issuing bundle]
  rfl

/-- QSUB opens the write of a destination in the renamed file, and requests (R417). -/
theorem exec_qsub_next (m : Bool) (d : Code) (a b : SReg) : exec (.qsub m d a b) s =
    .next ((if d.toNat < 64 then (s.addFlight s.iss.course d.toNat s.iss.g3 [] .uw 0 none).2 else s).request
      (.qsub (s.iss.src.s a.toNat) (s.iss.src.s b.toNat) d s.iss.g3)) := by
  rw [exec_qsub, execQsub, slot3_next issuing bundle]
  rfl

theorem exec_tdep_next (m : Bool) (a : SReg) : exec (.tdep m a) s =
    .next (s.fresh.2.onDie (fld (s.iss.src.s a.toNat) 30 2) fun d => { d with tdeps := d.tdeps ++
      [s.onWay (s.iss.src.s a.toNat) ((s.course s.iss.course).ops.map (·.id))] }) := by
  rw [exec_tdep, execTdep, slot3_next issuing bundle]
  rfl

theorem exec_keyrel_next (m : Bool) (a : SReg) : exec (.keyrel m a) s =
    .next ((s.fresh.2.visible s.iss.src.info.block).onDie s.iss.src.info.die fun d => { d with keyrels := d.keyrels ++
      [s.onWay (s.iss.src.s a.toNat) (s.blockAccesses s.iss.src.info.block)] }) := by
  rw [exec_keyrel, execKeyrel, slot3_next issuing bundle]
  rfl

end exec

/-- What holding a course says: its request waits, its writes stay, and it cannot be selected (R417). -/
theorem request_holds {s : State} {x : Course} (present : s.course? s.iss.course = some x) (r : DReq) :
    ∃ y, OnlyCourse s (s.request r) s.iss.course ∧ (s.request r).course? s.iss.course = some y ∧
      y = { x with req := some (s.iss.pc, r), flights := y.flights } ∧ (∀ f ∈ x.flights, f ∈ y.flights) ∧
      y.selectable = false :=
  ⟨_, (State.request_spec present r).1, (State.request_spec present r).2, rfl, fun _ listed => listed,
    Course.selectable_of_req (Option.some_ne_none _)⟩

/-- The same where the destination's write is opened first. -/
theorem addFlight_request_holds {s : State} {x : Course} (present : s.course? s.iss.course = some x) (r : DReq) (v : Nat)
    (m : Mask) : ∃ y,
      let t := (s.addFlight s.iss.course v m [] .uw 0 none).2.request r
      OnlyCourse s t s.iss.course ∧ t.course? s.iss.course = some y ∧
      y = { x with req := some (s.iss.pc, r), flights := y.flights } ∧ (∀ f ∈ x.flights, f ∈ y.flights) ∧
      y.selectable = false := by
  obtain ⟨-, -, -, opened⟩ := State.addFlight_spec present v m [] .uw 0 none s.iss.src.coreKey
  have only := s.addFlight_onlyCourse s.iss.course v m [] .uw 0 none
  have same : (s.addFlight s.iss.course v m [] .uw 0 none).2.iss = s.iss := State.onCourse_iss _ _ _
  have held := State.request_spec (s := (s.addFlight s.iss.course v m [] .uw 0 none).2) (by rw [same]; exact opened) r
  rw [same] at held
  exact ⟨_, only.trans held.1, held.2, rfl, fun _ listed => List.mem_append_left _ listed,
    Course.selectable_of_req (Option.some_ne_none _)⟩

/-- Settles O38: TSUB, EMIT and QSUB are `State.request` (`request_holds`), and TDEP and KEYREL append to their die's list. -/
theorem dispatcherRequests : Obligations.DispatcherRequests := by
  unfold Obligations.DispatcherRequests
  refine ⟨fun s x i r issuing running bundle named => ?_, fun s m a issuing bundle listed => ?_,
    fun s m a issuing bundle listed => ?_⟩
  · have present := running.1
    obtain ⟨m, a, rfl, rfl⟩ | ⟨m, a, k, rfl, rfl⟩ | ⟨m, d, a, b, rfl, rfl⟩ := named
    · exact ⟨_, _, exec_tsub_next issuing bundle m a, (request_holds present _).choose_spec⟩
    · exact ⟨_, _, exec_emit_next issuing bundle m a k, (request_holds present _).choose_spec⟩
    · rw [exec_qsub_next issuing bundle]
      split
      · exact ⟨_, _, rfl, (addFlight_request_holds present _ _ _).choose_spec⟩
      · exact ⟨_, _, rfl, (request_holds present _).choose_spec⟩
  · refine ⟨_, s.onWay (s.iss.src.s a.toNat) ((s.course s.iss.course).ops.map (·.id)), exec_tdep_next issuing bundle m a, rfl, ?_, rfl, rfl, rfl⟩
    rw [State.die_onDie (s := s.fresh.2) listed]
    rfl
  · have dies : (s.fresh.2.visible s.iss.src.info.block).dies = s.dies := State.onBlock_dies _ _ _
    refine ⟨_, s.onWay (s.iss.src.s a.toNat) (s.blockAccesses s.iss.src.info.block), exec_keyrel_next issuing bundle m a, State.onBlock_courses _ _ _, ?_, rfl, rfl, rfl⟩
    rw [State.die_onDie (by rw [dies]; exact listed)]
    dsimp only
    rw [State.die, dies]
    rfl

end Sys2Proof.Machine

/-!
# What memory traffic leaves as it is

The tables of work - courses, blocks, tasks and waiting continuations - are one view of a state; translation, the caches,
the rings and the keys leave it as it is. `f_work` says so of a function of the model.
-/

namespace Sys2Proof.Machine

/-- The tables of the work in hand: courses, blocks, tasks and continuations. -/
def State.work (s : State) : List (Nat × Course) × List (Nat × Block) × List (Nat × Task) × List (Nat × Contn) :=
  (s.courses, s.blocks, s.tasks, s.conts)

theorem State.courses_of_work {s t : State} (h : t.work = s.work) : t.courses = s.courses := congrArg Prod.fst h
theorem State.blocks_of_work {s t : State} (h : t.work = s.work) : t.blocks = s.blocks := congrArg (·.2.1) h
theorem State.tasks_of_work {s t : State} (h : t.work = s.work) : t.tasks = s.tasks := congrArg (·.2.2.1) h
theorem State.conts_of_work {s t : State} (h : t.work = s.work) : t.conts = s.conts := congrArg (·.2.2.2) h

section work
variable (s : State)

/-! ### Updates of one part of the state -/

@[simp] theorem State.fresh_work : s.fresh.2.work = s.work := rfl
@[simp] theorem State.onCore_work (k : Nat × Nat) (f : Core → Core) : (s.onCore k f).work = s.work := rfl
@[simp] theorem State.onDie_work (d : Nat) (f : Die → Die) : (s.onDie d f).work = s.work := rfl
@[simp] theorem State.onFab_work (f : Fabric → Fabric) : (s.onFab f).work = s.work := rfl
@[simp] theorem State.dieUse_work (wr : Bool) (a n : Nat) : (s.dieUse wr a n).work = s.work := rfl
@[simp] theorem State.writePa_work (a : Nat) (l : List Byte) : (s.writePa a l).work = s.work := rfl
@[simp] theorem State.pokePa_work (a : Nat) (l : List Byte) : (s.pokePa a l).work = s.work := rfl
@[simp] theorem State.storePa_work (a : Nat) (l : List Byte) : (s.storePa a l).work = s.work := rfl
@[simp] theorem State.writeQ_work (a : Nat) (v : DWord) : (s.writeQ a v).work = s.work := rfl
@[simp] theorem State.lineReq_work (die a : Nat) : (s.lineReq die a).work = s.work := rfl
@[simp] theorem State.progress_work (die ctx : Nat) : (s.progress die ctx).work = s.work := rfl
@[simp] theorem State.onKey_work (key : Nat) (f : Key → Key) : (s.onKey key f).work = s.work := rfl

@[simp] theorem State.onCtx_work (c : Nat) (f : Ctx → Ctx) : (s.onCtx c f).work = s.work := by
  unfold State.onCtx; split <;> rfl

@[simp] theorem State.onPkt_work (p : Nat) (f : Packet → Packet) : (s.onPkt p f).work = s.work := by
  unfold State.onPkt; split <;> rfl

@[simp] theorem State.choose_work (n : Nat) : (s.choose n).2.work = s.work := by
  unfold State.choose; split <;> rfl

@[simp] theorem State.lineReqOnce_work (die a : Nat) (again : Bool) : (s.lineReqOnce die a again).work = s.work := by
  unfold State.lineReqOnce; split <;> rfl

/-! ### Translation and the accesses of the hardware -/

@[simp] theorem State.entryAt_work (ctx level pa : Nat) (va : DWord) :
    (s.entryAt ctx level pa va).2.2.work = s.work := by
  unfold State.entryAt
  extract_lets e s1 olds c pick s2 known
  have h2 : s2.work = s.work := by simp [s2, c, s1]
  split <;> exact h2

@[simp] theorem State.leafAt_work (level pa : Nat) (home e : DWord) (stale : Bool) (va : DWord) (use : Use) :
    (s.leafAt level pa home e stale va use).2.work = s.work := by
  unfold State.leafAt
  extract_lets size deny bits s1 addr
  have h1 : s1.work = s.work := by unfold s1; split <;> rfl
  split
  · rfl
  · clear_value deny
    (repeat' split) <;> exact h1

@[simp] theorem State.walk_work (ctx : Nat) (va : DWord) (use : Use) (cached : Bool) (lv table : Nat) :
    (s.walk ctx va use cached lv table).2.work = s.work := by
  induction lv generalizing s table with
  | zero => rfl
  | succ lv ih =>
    rw [State.walk]
    extract_lets r e s1 base es all c g g' leaf
    have h1 : s1.work = s.work := by unfold s1 r; split <;> simp
    have hc : c.2.work = s.work := by unfold c; split <;> simp [h1]
    split
    · rfl
    split
    · (repeat' split) <;> simp [hc]
    · (repeat' split) <;> simp [ih, h1]

@[simp] theorem State.translate_work (ctx : Nat) (va : DWord) (use : Use) : (s.translate ctx va use).2.work = s.work := by
  unfold State.translate State.walks
  dsimp only
  (repeat' split) <;> simp

@[simp] theorem State.pageFault_work (ctx : Nat) (va : DWord) (kind : Nat) (inWalk : Bool) (die : Nat)
    (lnch : Word) : (s.pageFault ctx va kind inWalk die lnch).2.work = s.work := by
  unfold State.pageFault
  dsimp only
  split <;> rfl

@[simp] theorem State.reach_work (ctx : Nat) (va : DWord) (use : Use) (die : Nat) (lnch : Word) (flt : Option Nat) :
    (s.reach ctx va use die lnch flt).2.work = s.work := by
  unfold State.reach
  extract_lets x go
  have hgo : go.2.work = s.work := by unfold go; split <;> simp [x]
  clear_value go
  split
  · exact hgo
  · split
    · rfl
    · exact hgo
    · rfl
    · rfl

@[simp] theorem State.reachAll_work (ctx : Nat) (va : DWord) (n : Nat) (use : Use) (die : Nat) (lnch : Word)
    (flt : Option Nat) : (s.reachAll ctx va n use die lnch flt).2.work = s.work := by
  unfold State.reachAll
  refine State.foldl_snd_keeps State.work (fun p i => ?_) _ _
  dsimp only
  (repeat' split) <;> simp

@[simp] theorem State.hwPa_work (ctx : Nat) (va : DWord) (use : Use) : (s.hwPa ctx va use).2.work = s.work := by
  unfold State.hwPa
  dsimp only
  split <;> simp

@[simp] theorem State.hwWrite_work (ctx : Nat) (va : DWord) (bs : List Byte) : (s.hwWrite ctx va bs).2.work = s.work := by
  unfold State.hwWrite
  dsimp only
  split <;> simp

@[simp] theorem State.putBytes_work (ctx : Nat) (va : DWord) (bs : List Byte) : (s.putBytes ctx va bs).work = s.work := by
  unfold State.putBytes State.hwWrites
  refine State.foldl_snd_keeps State.work (fun p a => ?_) _ _
  split <;> simp

@[simp] theorem State.useBytes_work (ctx : Nat) (va : DWord) (n : Nat) : (s.useBytes ctx va n).work = s.work := by
  unfold State.useBytes
  refine State.foldl_keeps State.work (fun t i => ?_) _ _
  split <;> simp

@[simp] theorem State.areaReqs_work (die ctx : Nat) (l : List (DWord × Nat)) : (s.areaReqs die ctx l).work = s.work := by
  unfold State.areaReqs
  refine State.foldl_keeps State.work (fun t va => ?_) _ _
  split <;> simp

@[simp] theorem State.putBacking_work (l : Loc) (e : VEntry) : (s.putBacking l e).work = s.work := by
  simp [State.putBacking]

@[simp] theorem State.putArea_work (c : Nat) (l : List (Nat × List Byte)) : (s.putArea c l).work = s.work := by
  unfold State.putArea
  exact (State.foldl_keeps State.work (fun t p => State.putBytes_work ..) _ _).trans (State.areaReqs_work ..)

@[simp] theorem State.backRegs_work (c : Nat) : (s.backRegs c).work = s.work := by
  unfold State.backRegs
  exact State.foldl_keeps State.work (fun t p => by split <;> simp) _ _

@[simp] theorem State.dispRead_work (ctx die : Nat) (lnch : Word) (va : DWord) (n : Nat) (use : Use) (flt : Option Nat) :
    (s.dispRead ctx die lnch va n use flt).2.work = s.work := by
  unfold State.dispRead
  dsimp only
  (repeat' split) <;> simp

/-! ### The caches of a core -/

@[simp] theorem State.writeBack_work (k : Nat × Nat) (l : L1Line) : (s.writeBack k l).work = s.work := by
  unfold State.writeBack
  dsimp only
  (repeat' split) <;> simp

@[simp] theorem State.evict_work (k : Nat × Nat) (l : L1Line) : (s.evict k l).work = s.work := by
  simp [State.evict]

@[simp] theorem State.evictLine_work (k : Nat × Nat) (line : Nat) : (s.evictLine k line).work = s.work := by
  unfold State.evictLine
  split <;> simp

@[simp] theorem State.release_work (k : Nat × Nat) (blk scope : Nat) : (s.release k blk scope).work = s.work := by
  unfold State.release State.releaseL1
  split
  · exact State.foldl_keeps State.work (fun t l => by split <;> simp) _ _
  · rfl

@[simp] theorem State.freshLine_work (k : Nat × Nat) (l : L1Line) : (s.freshLine k l).work = s.work := by
  unfold State.freshLine
  split <;> rfl

@[simp] theorem State.acquireL1_work (k : Nat × Nat) : (s.acquireL1 k).work = s.work := by
  unfold State.acquireL1
  exact State.foldl_keeps State.work (fun t l => State.freshLine_work ..) _ _

@[simp] theorem State.acquire_work (k : Nat × Nat) (blk scope : Nat) : (s.acquire k blk scope).work = s.work := by
  unfold State.acquire State.inherit
  dsimp only
  split <;> simp

@[simp] theorem State.rmwHome_work (k : Nat × Nat) (pa : Nat) (again : Bool) (f : Word → Word) :
    (s.rmwHome k pa again f).2.work = s.work := by
  simp [State.rmwHome]

@[simp] theorem State.backLines_work (k : Nat × Nat) (lines : List Nat) : (s.backLines k lines).work = s.work := by
  unfold State.backLines
  exact State.foldl_keeps State.work (fun t l => by split <;> simp) _ _

@[simp] theorem State.invRange_work (k : Nat × Nat) (ctx : Nat) (base : DWord) (len : Nat) :
    (s.invRange k ctx base len).work = s.work := by
  unfold State.invRange
  exact State.foldl_keeps State.work (fun t l => by dsimp only; split <;> simp) _ _

/-! ### The rings, the pages and the keys -/

@[simp] theorem State.errEntry_work (ctx die core : Nat) (lnch : Word) (code : Nat) (a b : DWord) :
    (s.errEntry ctx die core lnch code a b).work = s.work := by
  unfold State.errEntry
  dsimp only
  (repeat' split) <;> simp

@[simp] theorem State.completeSignal_work (ctx die : Nat) (lnch : Word) (csig : DWord) (cval ctrl : Word)
    (status count : Nat) : (s.completeSignal ctx die lnch csig cval ctrl status count).work = s.work := by
  have sent : ∀ (t : State) pa kind data g, (t.pcieSignal pa kind data g).work = t.work := fun _ _ _ _ _ => rfl
  have asked : ∀ (t : State) pa kind op n data c m l g, (t.fabRequest pa kind op n data c m l g).work = t.work :=
    fun _ _ _ _ _ _ _ _ _ _ => rfl
  unfold State.completeSignal
  dsimp only
  (repeat' split) <;> simp [sent, asked]

@[simp] theorem State.freePage_work (ctx j : Nat) : (s.freePage ctx j).work = s.work := by
  simp [State.freePage]

@[simp] theorem State.completeOne_work (p status count : Nat) : (s.completeOne p status count).work = s.work := by
  unfold State.completeOne
  split
  · rfl
  · exact (State.onCtx_work ..).trans (State.completeSignal_work ..)

@[simp] theorem State.completeHeld_work (ctx q n : Nat) : (s.completeHeld ctx q n).work = s.work := by
  induction n generalizing s with
  | zero => rfl
  | succ n ih => rw [State.completeHeld]; (repeat' split) <;> simp [ih]

@[simp] theorem State.settlePkt_work (p : Nat) : (s.settlePkt p).work = s.work := by
  unfold State.settlePkt State.completePkt
  (repeat' split) <;> simp

@[simp] theorem State.taskCore_work (tk : Task) : (s.taskCore tk).2.work = s.work := by
  unfold State.taskCore
  dsimp only
  (repeat' split) <;> simp

theorem State.newLnch_work {t : State} {die : Nat} {l : Word} (e : s.newLnch die = some (l, t)) : t.work = s.work := by
  unfold State.newLnch at e
  split at e
  · cases e
  · cases e; rfl

@[simp] theorem State.joinFifos_work (t : Nat) : (s.joinFifos t).work = s.work := by
  unfold State.joinFifos
  split
  · rfl
  · exact State.foldl_keeps State.work (fun t e => State.onKey_work ..) _ _

@[simp] theorem State.keyActions_work (tk : Task) (core : Nat) : (s.keyActions tk core).work = s.work := by
  unfold State.keyActions
  exact State.foldl_keeps State.work (fun t e => by dsimp only; split <;> simp) _ _

@[simp] theorem State.onNode_work (g n : Nat) (f : Node → Node) : (s.onNode g n f).work = s.work := by
  unfold State.onNode
  split <;> rfl

end work

end Sys2Proof.Machine

/-!
# CONT

A course that suspends itself leaves one continuation behind (R421). The end of its block, which may follow, can mark
continuations as lost and read their descriptors, and nothing else of them: `f_conts` says of a function that it leaves every
continuation as it is, and `State.contWakes` is what is kept of them throughout.
-/

namespace Sys2Proof.Machine

section conts
variable (s : State)

@[simp] theorem State.errEntry_conts (ctx die core : Nat) (lnch : Word) (code : Nat) (a b : DWord) :
    (s.errEntry ctx die core lnch code a b).conts = s.conts := State.conts_of_work (s.errEntry_work ..)
@[simp] theorem State.release_conts (k : Nat × Nat) (blk scope : Nat) : (s.release k blk scope).conts = s.conts :=
  State.conts_of_work (s.release_work ..)
@[simp] theorem State.backLines_conts (k : Nat × Nat) (lines : List Nat) : (s.backLines k lines).conts = s.conts :=
  State.conts_of_work (s.backLines_work ..)
@[simp] theorem State.onKey_conts (key : Nat) (f : Key → Key) : (s.onKey key f).conts = s.conts := rfl
@[simp] theorem State.freePage_conts (ctx j : Nat) : (s.freePage ctx j).conts = s.conts :=
  State.conts_of_work (s.freePage_work ..)
@[simp] theorem State.onNode_conts (g n : Nat) (f : Node → Node) : (s.onNode g n f).conts = s.conts :=
  State.conts_of_work (s.onNode_work ..)
@[simp] theorem State.completeSignal_conts (ctx die : Nat) (lnch : Word) (csig : DWord) (cval ctrl : Word)
    (status count : Nat) : (s.completeSignal ctx die lnch csig cval ctrl status count).conts = s.conts :=
  State.conts_of_work (s.completeSignal_work ..)
@[simp] theorem State.settlePkt_conts (p : Nat) : (s.settlePkt p).conts = s.conts :=
  State.conts_of_work (s.settlePkt_work ..)
@[simp] theorem State.joinFifos_conts (t : Nat) : (s.joinFifos t).conts = s.conts :=
  State.conts_of_work (s.joinFifos_work ..)
@[simp] theorem State.taskCore_conts (tk : Task) : (s.taskCore tk).2.conts = s.conts :=
  State.conts_of_work (s.taskCore_work ..)
@[simp] theorem State.keyActions_conts (tk : Task) (core : Nat) : (s.keyActions tk core).conts = s.conts :=
  State.conts_of_work (s.keyActions_work ..)

/-! ### Tasks and their ends -/

@[simp] theorem State.countDown_conts (ctx die : Nat) (lnch : Word) (h : BitVec 32) (stale : Bool) :
    (s.countDown ctx die lnch h stale).2.conts = s.conts := by
  unfold State.countDown
  (repeat' split) <;> simp

@[simp] theorem State.decrements_conts (ctx die : Nat) (lnch : Word) (hs : List (BitVec 32)) :
    (s.decrements ctx die lnch hs).conts = s.conts := by
  unfold State.decrements
  extract_lets r handle
  have counted : r.2.conts = s.conts := State.foldl_snd_keeps State.conts (fun p h => by simp) _ _
  exact (State.foldl_keeps State.conts State.joinFifos_conts _ _).trans counted

@[simp] theorem State.breakKey_conts (t e : Nat) : (s.breakKey t e).conts = s.conts := by
  unfold State.breakKey
  dsimp only
  (repeat' split) <;> simp

@[simp] theorem State.releaseKey_conts (t e blk core : Nat) : (s.releaseKey t e blk core).conts = s.conts := by
  unfold State.releaseKey
  dsimp only
  (repeat' split) <;> simp

@[simp] theorem State.tryBind_conts (b : Nat) : (s.tryBind b).conts = s.conts := by
  unfold State.tryBind State.bindNow
  dsimp only
  (repeat' split) <;> simp

@[simp] theorem State.grant_conts (t : Nat) : (s.grant t).conts = s.conts := by
  unfold State.grant
  split
  · rfl
  split
  · rfl
  split
  · rfl
  next tk _ _ _ l s0 e =>
    extract_lets s1 c b s2
    have keyed : s1.conts = s0.conts := State.foldl_keeps State.conts (fun t e => State.onKey_conts ..) _ _
    simp [s2, b, c, State.newBlock, keyed, State.conts_of_work (s.newLnch_work e)]

@[simp] theorem State.grants_conts : s.grants.conts = s.conts := by
  unfold State.grants
  generalize s.tasks.length = n
  induction n generalizing s with
  | zero => rfl
  | succ n ih => rw [State.grantAll]; split <;> simp [ih]

@[simp] theorem State.endGraphBlock_conts (t : Nat) (tk : Task) (g node : Nat) (fault : Bool) :
    (s.endGraphBlock t tk g node fault).conts = s.conts := by
  unfold State.endGraphBlock
  extract_lets s1 s2 s3
  have h1 : s1.conts = s.conts := by unfold s1; split <;> simp
  have h2 : s2.conts = s.conts := by unfold s2; dsimp only; (repeat' split) <;> simp [h1]
  dsimp only
  (repeat' split) <;> simp [s3, h2]

@[simp] theorem State.endTask_conts (t blk core : Nat) (fault : Bool) : (s.endTask t blk core fault).conts = s.conts := by
  unfold State.endTask
  split
  · rfl
  next tk _ =>
    extract_lets s1 s2 s2' s3 s4 s5 s6 s7
    have h1 : s1.conts = s.conts :=
      State.foldl_keeps State.conts (fun t e => by split <;> simp) _ _
    have h2 : s2.conts = s.conts := by unfold s2; (repeat' split) <;> simp [h1]
    have h3 : s2'.conts = s.conts := by unfold s2'; split <;> simp [h2]
    split
    · simp [h3]
    · have h5 : s5.conts = s.conts := by unfold s5; split <;> simp [s4, s3, h3]
      have h7 : s7.conts = s.conts := by unfold s7; split <;> simp [s6, h5]
      simp [h7]

/-! ### The results of a course, and its leaving -/

@[simp] theorem State.pushWindow_conts (d : Nat) (f : Flight) : (s.pushWindow d f).conts = s.conts := by
  unfold State.pushWindow
  split <;> simp

@[simp] theorem State.switchReg_conts (d v n : Nat) : (s.switchReg d v n).conts = s.conts := by
  induction n generalizing s with
  | zero => rfl
  | succ n ih =>
    rw [State.switchReg]
    dsimp only
    (repeat' split) <;> simp [ih]

@[simp] theorem State.landFlight_conts (d id : Nat) : (s.landFlight d id).conts = s.conts := by
  unfold State.landFlight
  dsimp only
  (repeat' split) <;> simp

@[simp] theorem State.landAll_conts (d : Nat) : (s.landAll d).conts = s.conts :=
  State.foldl_keeps State.conts (fun t i => State.landFlight_conts t d i) _ s

@[simp] theorem State.leave_conts (c : Nat) (p : Presence) (v : List VEntry) (f : Option Frame) :
    (s.leave c p v f).conts = s.conts := by
  have parked : (s.parkWindow c).conts = s.conts := (State.onCourse_conts ..).trans
    (State.foldl_keeps State.conts (fun t e => State.conts_of_work (State.putBacking_work ..)) _ _)
  unfold State.leave State.blockLeaves
  dsimp only
  split <;> simp [parked]

end conts

/-! ### What is kept of the continuations -/

/-- Of a continuation: its course, its wake object and where it goes on. -/
def wakeOf (k : Nat × Contn) : Nat × Nat × DWord × Mask × Word × Nat :=
  (k.1, k.2.kind, k.2.obj, k.2.mask, k.2.resume, k.2.sreg)

/-- The continuations with their wake objects. -/
def State.contWakes (s : State) : List (Nat × Nat × DWord × Mask × Word × Nat) := s.conts.map wakeOf

theorem State.contWakes_of_conts {s t : State} (h : t.conts = s.conts) : t.contWakes = s.contWakes := congrArg (List.map wakeOf) h

@[simp] theorem State.loseQueues_contWakes (s : State) (blk : Nat) : (s.loseQueues blk).contWakes = s.contWakes := by
  unfold State.loseQueues State.contWakes
  rw [List.map_map]
  refine List.map_congr_left fun k _ => ?_
  rw [Function.comp_apply]
  (repeat' split) <;> rfl

theorem State.endBlock_contWakes (s : State) (b : Nat) : (s.endBlock b).contWakes = s.contWakes := by
  unfold State.endBlock
  split
  · rfl
  next x _ =>
    extract_lets k s0 s1 s2
    have kept : s1.conts = s0.conts := by
      unfold s1
      dsimp only
      (repeat' split) <;> simp
    exact (State.contWakes_of_conts kept).trans (s.loseQueues_contWakes b)

theorem State.settleOne_contWakes (s : State) (b : Nat) : (s.settleOne b).contWakes = s.contWakes := by
  unfold State.settleOne
  (repeat' split)
  · rfl
  · rfl
  · rfl
  · exact s.loseQueues_contWakes b
  · exact s.endBlock_contWakes b

theorem State.settleBlock_contWakes (s : State) (b : Nat) : (s.settleBlock b).contWakes = s.contWakes := by
  unfold State.settleBlock
  (repeat' split)
  · rfl
  · exact (State.settleOne_contWakes ..).trans (s.settleOne_contWakes b)
  · exact s.settleOne_contWakes b

/-- An entry of a table is replaced by one that looks the same. -/
theorem map_tset {α β : Type} {g : Nat × α → β} {k : Nat} {x y : α} (same : g (k, y) = g (k, x)) (l : List (Nat × α))
    (here : tget k l = some x) : (tset k y l).map g = l.map g := by
  induction l with
  | nil => cases here
  | cons p l ih =>
    obtain ⟨j, z⟩ := p
    by_cases first : k = j
    · subst first
      have z_eq : z = x := by simpa [tget] using here
      subst z_eq
      simp [tset, same]
    · have later : tget k l = some x := by simpa [tget, first] using here
      simp [tset, first, ih later]

theorem State.onContn_contWakes (s : State) (c : Nat) (f : Contn → Contn) (same : ∀ k, wakeOf (c, f k) = wakeOf (c, k)) :
    (s.onContn c f).contWakes = s.contWakes := by
  unfold State.onContn
  split
  · next k here => exact map_tset (same k) _ here
  · rfl

@[simp] theorem State.accError_conts (s : State) (c sub : Nat) (addr : DWord) (pc : Word) (hnd : Bool) :
    (s.accError c sub addr pc hnd).conts = s.conts := by
  unfold State.accError State.pendError
  dsimp only
  (repeat' split) <;> simp

/-- The descriptor is read, or found lost; the wake object stays (R414). -/
theorem State.readDesc_contWakes (s : State) (c : Nat) (k : Contn) : (s.readDesc c k).contWakes = s.contWakes := by
  unfold State.readDesc
  dsimp only
  split
  · rfl
  have read := State.contWakes_of_conts (State.conts_of_work (s.dispRead_work (s.course c).info.ctx (s.course c).info.die
    (s.course c).info.lnch k.obj 16 .read (s.course c).fetch))
  generalize s.dispRead _ _ _ _ _ _ _ = r at read ⊢
  rw [← read]
  split
  · exact State.contWakes_of_conts (State.onCourse_conts _ _ _)
  · refine (State.contWakes_of_conts ?_).trans (State.onContn_contWakes r.2 c (fun k => { k with lost := true }) fun _ => rfl)
    exact (State.onCourse_conts _ _ _).trans (State.accError_conts ..)
  · next bs _ =>
    refine (State.contWakes_of_conts (State.onCourse_conts _ _ _)).trans
      ((State.onContn_contWakes _ c (fun k => { k with desc := some (descOf bs) }) fun _ => rfl).trans ?_)
    exact State.contWakes_of_conts (State.conts_of_work (State.putArea_work ..))

/-! ### The lanes of a course whose results land (R66, R421) -/

/-- A course that stands goes on standing, with its lanes and where it was. -/
def State.KeepsLanes (c : Nat) (s t : State) : Prop :=
  ∀ x, s.course? c = some x → ∃ y, t.course? c = some y ∧ y.info = x.info ∧ y.lanes = x.lanes ∧ y.pres = x.pres

theorem State.KeepsLanes.refl (c : Nat) (s : State) : State.KeepsLanes c s s := fun x h => ⟨x, h, rfl, rfl, rfl⟩

theorem State.KeepsLanes.trans {c : Nat} {s t u : State} (h : State.KeepsLanes c s t) (k : State.KeepsLanes c t u) :
    State.KeepsLanes c s u := fun x hx => by
  obtain ⟨y, hy, info, lanes, pres⟩ := h x hx
  obtain ⟨z, hz, info', lanes', pres'⟩ := k y hy
  exact ⟨z, hz, info'.trans info, lanes'.trans lanes, pres'.trans pres⟩

theorem State.KeepsLanes.onCourse (c : Nat) (s : State) (d : Nat) {g : Course → Course}
    (same : ∀ x, (g x).info = x.info ∧ (g x).lanes = x.lanes ∧ (g x).pres = x.pres) : State.KeepsLanes c s (s.onCourse d g) := fun x hx => by
  by_cases own : c = d
  · subst own
    exact ⟨g x, State.course?_onCourse_self hx g, same x⟩
  · exact ⟨x, (State.course?_onCourse_ne own g).trans hx, rfl, rfl, rfl⟩

theorem State.pushWindow_keepsLanes (c : Nat) (s : State) (d : Nat) (f : Flight) :
    State.KeepsLanes c s (s.pushWindow d f) := by
  unfold State.pushWindow
  split
  · exact State.KeepsLanes.refl c s
  · exact State.KeepsLanes.onCourse c s _ fun _ => ⟨rfl, rfl, rfl⟩

theorem State.switchReg_keepsLanes (c : Nat) (s : State) (d v n : Nat) : State.KeepsLanes c s (s.switchReg d v n) := by
  induction n generalizing s with
  | zero => exact State.KeepsLanes.refl c s
  | succ n ih =>
    rw [State.switchReg]
    dsimp only
    split
    · exact State.KeepsLanes.refl c s
    next f _ =>
      have taken := State.KeepsLanes.onCourse c s d (g := fun y =>
        ({ y with flights := y.flights.filter fun g => g.id != f.id } : Course).drain) fun _ => ⟨rfl, rfl, rfl⟩
      split
      · exact State.KeepsLanes.refl c s
      refine (taken.trans ?_).trans (ih _)
      split
      · exact State.pushWindow_keepsLanes c _ d f
      · exact State.KeepsLanes.onCourse c _ d fun _ => ⟨rfl, rfl, rfl⟩

theorem State.landFlight_keepsLanes (c : Nat) (s : State) (d id : Nat) : State.KeepsLanes c s (s.landFlight d id) := by
  unfold State.landFlight
  split
  · exact State.KeepsLanes.refl c s
  next f _ =>
    have raised := State.KeepsLanes.onCourse c s d (g := fun y =>
      { y.raise f.flags with flights := y.flights.map fun g => if g.id = id then { g with ready := true } else g })
      fun _ => ⟨rfl, rfl, rfl⟩
    dsimp only
    split
    · exact raised.trans (State.KeepsLanes.onCourse c _ d fun _ => ⟨rfl, rfl, rfl⟩)
    · exact raised.trans (State.switchReg_keepsLanes c _ d _ _)

theorem State.KeepsLanes.foldl {α : Type} {c : Nat} {f : State → α → State} (h : ∀ s a, State.KeepsLanes c s (f s a))
    (l : List α) (s : State) : State.KeepsLanes c s (l.foldl f s) := by
  induction l generalizing s with
  | nil => exact State.KeepsLanes.refl c s
  | cons a l ih => exact (h s a).trans (ih _)

theorem State.landAll_keepsLanes (c : Nat) (s : State) (d : Nat) : State.KeepsLanes c s (s.landAll d) :=
  State.KeepsLanes.foldl (fun t i => State.landFlight_keepsLanes c t d i) _ s

theorem Course.live_congr {x y : Course} (info : y.info = x.info) (lanes : y.lanes = x.lanes) : y.live = x.live := by
  unfold Course.live Course.maskOf Course.w Course.tower Course.lane
  rw [info, lanes]

/-! ### The course suspends itself -/

/-- A resident course none of whose lanes stay out leaves one continuation more. -/
theorem State.park_contWakes {s : State} {c kind sreg : Nat} {x : Course} {obj named : DWord} {m : Mask} {pc : Word}
    (present : s.course? c = some x) (all : x.live &&& ~~~m = 0) (resident : x.pres = .resident) :
    (s.park c kind sreg obj named m pc).contWakes = s.contWakes ++ [(c, kind, obj, m, pc, sreg)] := by
  obtain ⟨y, landed, info, lanes, pres⟩ := State.landAll_keepsLanes c s c x present
  have here : ((s.landAll c).release (s.course c).coreKey (s.course c).info.block 3).course? c = some y := by
    rw [State.course?, State.courses_of_work (State.release_work ..)]
    exact landed
  have none_out : y.live &&& ~~~m = 0 := by
    rw [Course.live_congr info lanes, all]
  unfold State.park
  dsimp only
  rw [State.course_of_some here, if_pos none_out, State.course_of_some here, if_neg (by simp [pres, resident])]
  rw [State.settleBlock_contWakes, State.readDesc_contWakes, State.contWakes]
  dsimp only
  rw [List.map_append, State.onCourse_conts, State.leave_conts, State.conts_of_work (State.putArea_work ..),
    State.conts_of_work (State.backRegs_work ..), State.release_conts, State.landAll_conts]
  rfl

/-- Settles O39: CONT is `finishIssue` and then `State.park`, which leaves one continuation (`State.park_contWakes`). -/
theorem continuationSuspends : Obligations.ContinuationSuspends := by
  refine ⟨fun s m a b k issuing bundle resident => ?_, fun s c kind sreg x obj named m pc present all resident empty => ?_⟩
  · rw [exec_cont, execCont, slot3_next issuing bundle]
    dsimp only
    rw [if_neg (by simp [resident])]
    rfl
  · refine (State.park_contWakes present all resident).trans ?_
    rw [State.contWakes, empty]
    rfl

end Sys2Proof.Machine

/-!
# Blocks: binding, admission, quanta, ageing and the watchdog

(R14, R34, R80, R241, R242, R252, R384, R386, R391)
-/

namespace Sys2Proof.Machine

/-! ### Binding (R384) -/

theorem State.pkts_onPkt {s : State} {p : Nat} {x : Packet} (present : tget p s.pkts = some x) (f : Packet → Packet) :
    tget p (s.onPkt p f).pkts = some (f x) := by
  simp [State.onPkt, present]

theorem State.block?_setBlock (s : State) (b : Nat) (x : Block) : (s.setBlock b x).block? b = some x :=
  tget_tset_self b x s.blocks

/-- A block that no task started, or that goes on with a continuation, joins the bound list and nothing else happens. -/
theorem State.bindNow_plain {s : State} {b : Nat} {x : Block} (present : s.block? b = some x)
    (plain : x.task = none ∨ x.cont.isSome = true) :
    s.bindNow b = s.setBlock b { x with state := .bound, bindTime := s.time, timer := s.time } := by
  unfold State.bindNow
  rw [present]
  dsimp only
  split
  · rfl
  · next fresh => rw [plain.resolve_right fresh]

/-- The block that `State.newBlock` makes. -/
def State.madeBlock (s : State) (ctx die core : Nat) (lnch blkid : Word) (attr : Attr) (cfirst ccnt : Nat)
    (slot : Option Nat) (prio : Nat) (pkt task : Option Nat) : Block :=
  { ctx := ctx, die := die, core := core, lnch := lnch, blkid := blkid, attr := attr, state := .unbound,
    courses := [], cfirst := cfirst, ccnt := ccnt, slot := slot, base := prio, level := prio,
    bindTime := s.time, timer := s.time, quant := s.quantum die prio, since := s.time, row := none, pkt := pkt,
    task := task, visible := false, faulted := false, born := s.uid,
    mem := { BlockMem.empty with n := slotsOf (Config.isTower die) attr.spk,
                                 chains := List.replicate 4 ⟨false, false⟩, tiles := List.replicate 4 [] },
    cont := none }

theorem State.newBlock_eq (s : State) (ctx die core : Nat) (lnch blkid : Word) (attr : Attr) (cfirst ccnt : Nat)
    (slot : Option Nat) (prio : Nat) (pkt task : Option Nat) :
    s.newBlock ctx die core lnch blkid attr cfirst ccnt slot prio pkt task =
      (s.uid, { s.fresh.2 with blocks := s.blocks ++
        [(s.uid, s.madeBlock ctx die core lnch blkid attr cfirst ccnt slot prio pkt task)] }) := rfl

section bind
variable {s : State} {die b : Nat}

theorem exec_blockBind_held (held : s.mayBind die b = false) : exec (.blockBind die b) s = .next s := by
  rw [exec_blockBind, execBlockBind, State.bind, held]
  rfl

theorem exec_blockBind_block {x : Block} (turn : s.mayBind die b = true) (block : tget b s.pkts = none)
    (present : s.block? b = some x) (own : x.die = die) (plain : x.task = none ∨ x.cont.isSome = true) :
    exec (.blockBind die b) s = .next (s.setBlock b { x with state := .bound, bindTime := s.time, timer := s.time }) := by
  subst own
  rw [exec_blockBind, execBlockBind, State.bind, turn, block]
  dsimp only
  rw [Bool.not_true, if_neg Bool.false_ne_true, State.tryBind, present]
  dsimp only
  rw [turn, if_pos rfl, State.bindNow_plain present plain]

/-- The next block of a LAUNCH is made and bound, and its packet counts it. -/
theorem exec_blockBind_launch {p : Packet} (turn : s.mayBind die b = true) (launch : tget b s.pkts = some p)
    (unused : s.block? s.uid = none) : ∃ t y, exec (.blockBind die b) s = .next t ∧
      tget b t.pkts = some { p with next := p.next + 1, alive := p.alive + 1 } ∧ t.block? s.uid = some y ∧
      y.state = .bound ∧ y.pkt = some b ∧ y.blkid = .ofNat 32 p.next ∧
      y.core = s.rotCore die p.cfirst p.ccnt (p.rot + p.next) := by
  rw [exec_blockBind, execBlockBind, State.bind, turn, launch]
  dsimp only
  rw [Bool.not_true, if_neg Bool.false_ne_true, State.newBlock_eq]
  generalize made : s.madeBlock _ _ _ _ _ _ _ _ _ _ _ _ = y
  dsimp only
  generalize joined : State.onPkt _ b _ = u
  have counted : tget b u.pkts = some { p with next := p.next + 1, alive := p.alive + 1 } := by
    rw [← joined]; exact State.pkts_onPkt (s := { s.fresh.2 with blocks := s.blocks ++ [(s.uid, y)] }) launch _
  have listed : u.block? s.uid = some y := by
    rw [← joined, State.block?, State.onPkt_blocks]
    exact tget_append_new unused
  subst made
  refine ⟨_, _, congrArg _ (State.bindNow_plain listed (.inl rfl)), counted, State.block?_setBlock .., rfl, rfl, rfl, rfl⟩

end bind

/-! ### Admission (R241, R242, R252) -/

section admission
variable {s : State} {die core : Nat}

theorem exec_blockAdmission_none (empty : s.listHead die core = none) :
    exec (.blockAdmission die core) s = .next (s.stopReclaim (die, core)) := by
  rw [exec_blockAdmission, execBlockAdmission, State.admission, empty]

variable {b : Nat} {x : Block} (head : s.listHead die core = some (b, x))
include head

theorem exec_blockAdmission_fenced (fenced : (s.core (die, core)).fenced = true) :
    exec (.blockAdmission die core) s = .next s := by
  rw [exec_blockAdmission, execBlockAdmission, State.admission, head]
  dsimp only
  rw [fenced, Bool.true_or, if_pos rfl]

section open_
variable (sound : (s.core (die, core)).fenced = false) (no_stream : (Config.isTower die && s.inStream die core) = false)
include sound no_stream

theorem exec_blockAdmission_enters (met : s.unmet b x = none) :
    exec (.blockAdmission die core) s = .next (s.admitBlock b x) := by
  rw [exec_blockAdmission, execBlockAdmission, State.admission, head]
  dsimp only
  rw [sound, no_stream, Bool.or_false, if_neg Bool.false_ne_true, met]

theorem exec_blockAdmission_reclaims (short : s.unmet b x = some 6) : exec (.blockAdmission die core) s =
    .next (s.reclaim (die, core) (x.ways - (s.core (die, core)).draining.length)) := by
  rw [exec_blockAdmission, execBlockAdmission, State.admission, head]
  dsimp only
  rw [sound, no_stream, Bool.or_false, if_neg Bool.false_ne_true, short]
  rfl

theorem exec_blockAdmission_waits {n : Nat} (unmet : s.unmet b x = some n) (other : n ≠ 6) :
    exec (.blockAdmission die core) s = .next (s.stopReclaim (die, core)) := by
  rw [exec_blockAdmission, execBlockAdmission, State.admission, head]
  dsimp only
  rw [sound, no_stream, Bool.or_false, if_neg Bool.false_ne_true, unmet]
  split
  · next eq => cases eq
  · next eq => exact absurd (Option.some.inj eq) other
  · rfl

end open_

end admission

/-! ### The first state of a course (R14, R34, R80) -/

theorem getD_take_append_replicate {l : List DWord} {k : Nat} (listed : k < 32) :
    ((l ++ List.replicate 32 0).take 32).getD k 0 = l.getD k 0 := by
  simp only [List.getD_eq_getElem?_getD, List.getElem?_take, if_pos listed, List.getElem?_append]
  split
  · rfl
  · next short =>
    rw [List.getElem?_eq_none (by omega : l.length ≤ k), List.getElem?_replicate]
    split <;> rfl

theorem State.firstCourse_sr (s : State) (b : Nat) (x : Block) (crsid : Nat) (sh : Bool) (area born : Nat)
    (partner : Option Nat) :
    (s.firstCourse b x crsid sh area born partner).sr = (x.attr.args ++ List.replicate 32 0).take 32 := rfl

/-- The lanes of a first course: READY at the entry, each with its own stochastic-rounding state. -/
theorem State.firstCourse_lane (s : State) (b : Nat) (x : Block) (crsid : Nat) (sh : Bool) (area born : Nat)
    (partner : Option Nat) {l : Nat} (listed : l < Config.lanes (Config.isTower x.die)) :
    (s.firstCourse b x crsid sh area born partner).lanes[l]? = some { Lane.start with
      lpc := if sh = true then x.attr.entry + .ofInt 32 (16 * x.attr.shd.toInt) else x.attr.entry,
      srs := srsStart x.lnch x.blkid crsid l } := by
  unfold State.firstCourse
  dsimp only
  rw [List.getElem?_map, List.getElem?_range listed]
  rfl

/-! ### Quanta (R386) -/

theorem State.reachTime_reaches (s : State) (t : Nat) : t ≤ (s.reachTime t).time := by
  rw [State.reachTime_time]
  omega

/-- Whether a block that waits for a core is let onto it by the end of a quantum of a lower level: it is of that level at
least, and room is what it waits for. -/
def State.wantsRoom (u : State) (x : Block) : Bool :=
  match u.listHead x.die x.core with
  | none => false
  | some (h, y) => x.level ≤ y.level && (match u.unmet h y with | some n => n != 1 && n != 6 | none => false)

section quantum
variable {s u : State} {b : Nat} {x : Block} (present : s.block? b = some x) (sliced : x.sliced = true)
  (ends : u = s.reachTime x.quantumEnd) (first : u.expiresFirst b x u.time = true)
include present sliced ends first

theorem exec_quantumExpiry_first : exec (.quantumExpiry b) s = .next (
    if u.wantsRoom x && !(u.blocks.any fun z => z.2.die == x.die && z.2.core == x.core && z.2.state == .preempting) then
      x.courses.foldl (fun s c => if (s.course c).info.block == b then s.raisePre c else s)
        (u.onBlock b fun y => { y with state := .preempting })
    else u.onBlock b fun y => { y with timer := u.time, quant := u.quantum y.die y.level }) := by
  subst ends
  rw [exec_quantumExpiry, execQuantumExpiry, State.quantumOver, present]
  dsimp only
  rw [sliced, Bool.not_true, if_neg Bool.false_ne_true, first, Bool.not_true, if_neg Bool.false_ne_true]
  rfl

end quantum

theorem State.wantsRoom_of_head {u : State} {x y : Block} {h n : Nat} (head : u.listHead x.die x.core = some (h, y))
    (waits : u.unmet h y = some n) : u.wantsRoom x = decide (x.level ≤ y.level ∧ n ≠ 1 ∧ n ≠ 6) := by
  unfold State.wantsRoom
  rw [head]
  dsimp only
  rw [waits]
  simp [bne, BEq.beq]

theorem State.wantsRoom_of_none {u : State} {x : Block} (idle : u.listHead x.die x.core = none ∨
    ∃ h y, u.listHead x.die x.core = some (h, y) ∧ u.unmet h y = none) : u.wantsRoom x = false := by
  unfold State.wantsRoom
  rcases idle with empty | ⟨h, y, head, met⟩
  · rw [empty]
  · rw [head]
    dsimp only
    rw [met, Bool.and_false]

/-! ### The watchdog (R391) -/

theorem exec_watchdogFire_due {s u : State} {die ctx : Nat} (courses : (s.resCourses die ctx).isEmpty = false)
    (starts : s.timerZero die ctx = false) (runs : s.timerHeld die ctx = false) (ends : u = s.reachTime (s.wdtEnd die ctx)) :
    exec (.watchdogFire die ctx) s = .next ((((u.endContext die ctx 4).errorQueues (some die) ctx).errEntry ctx die 0xFFFF 0
      0x07 (.ofNat 64 (u.resCourses die ctx).length) (.ofNat 64 (u.time - s.timerOf die ctx))).progress die ctx) := by
  subst ends
  rw [exec_watchdogFire, execWatchdogFire, State.watchdog]
  rw [courses, starts, runs, Bool.or_false, Bool.or_false, if_neg Bool.false_ne_true]

/-- Settles O50, one law for each outcome: `exec_blockBind_launch`, `exec_blockAdmission_open`, `State.firstCourse_lane`,
`exec_quantumExpiry_first` and `exec_watchdogFire_due`. -/
theorem blockEvents : Obligations.BlockEvents := by
  refine ⟨fun s die b => ⟨exec_blockBind_held, fun turn => ⟨fun x block present own plain =>
      exec_blockBind_block turn block present own plain, fun p launch unused => exec_blockBind_launch turn launch unused⟩⟩,
    fun s die core => ⟨exec_blockAdmission_none, fun b x head => ⟨exec_blockAdmission_fenced head,
      fun sound no_stream => ⟨exec_blockAdmission_enters head sound no_stream,
        exec_blockAdmission_reclaims head sound no_stream,
        fun n => exec_blockAdmission_waits head sound no_stream⟩⟩⟩, fun s b x crsid sh area born partner => ?_,
    fun s u b x present sliced ends first => ?_, fun s b x present waits low => ?_,
    fun s u die ctx courses starts runs ends => ?_⟩
  · refine ⟨_, rfl, rfl, ?_, fun k listed => ?_, fun l listed =>
      ⟨_, s.firstCourse_lane b x crsid sh area born partner listed, rfl, rfl, _, rfl, ?_⟩⟩
    · simp [Course.hnd, State.firstCourse, Course.start]
    · rw [State.firstCourse_sr]
      exact getD_take_append_replicate listed
    · rw [srsStart]
  · have taken := exec_quantumExpiry_first present sliced ends first
    refine ⟨ends ▸ s.reachTime_reaches _, fun idle => ?_, fun h y n head unmet free => ?_⟩
    · rw [taken, if_neg]
      rcases idle with empty | met | busy
      · simp [State.wantsRoom_of_none (.inl empty)]
      · simp [State.wantsRoom_of_none (.inr met)]
      · simp [busy]
    · rw [taken, free, State.wantsRoom_of_head head unmet]
      simp
  · refine ⟨(s.reachTime (s.ageEnd x)).onBlock b fun y => { y with level := min 23 (y.level + 1), timer := s.ageEnd x },
      ?_, ?_, ?_, ?_⟩
    · rw [exec_ageingStep, execAgeingStep, State.age, present]
      dsimp only
      rw [if_neg]
      rcases waits with waits | waits <;> simp [waits, low]
    · rw [State.onBlock_mem, State.reachTime_mem]
    · rw [State.onBlock_time]
      exact s.reachTime_reaches _
    · have raised : min 23 (x.level + 1) = x.level + 1 := by omega
      have aged := State.block?_onBlock_self (s := s.reachTime (s.ageEnd x)) (b := b) (x := x) present
        fun y => { y with level := min 23 (y.level + 1), timer := s.ageEnd x }
      rw [raised] at aged
      exact aged
  · exact ⟨ends ▸ s.reachTime_reaches _, rfl, exec_watchdogFire_due courses starts runs ends⟩

end Sys2Proof.Machine

/-!
# The dispatcher

Grants, decrements, releases, answers, graph blocks and continuations (R400 to R422).
-/

namespace Sys2Proof.Machine

/-! ### Tasks that other events leave alone -/

theorem State.tasks_onTask_self {s : State} {t : Nat} {x : Task} (present : tget t s.tasks = some x) (f : Task → Task) :
    tget t (s.onTask t f).tasks = some (f x) := by
  simp [State.onTask, present]

theorem State.tasks_onTask_ne {t u : Nat} (other : t ≠ u) (s : State) (f : Task → Task) :
    tget t (s.onTask u f).tasks = tget t s.tasks := by
  unfold State.onTask
  split
  · exact tget_tset_ne other _ _
  · rfl

@[simp] theorem State.tryBind_tasks (s : State) (b : Nat) : (s.tryBind b).tasks = s.tasks := by
  have acted : ∀ (t : State) tk core, (t.keyActions tk core).tasks = t.tasks :=
    fun t tk core => State.tasks_of_work (t.keyActions_work tk core)
  unfold State.tryBind State.bindNow
  dsimp only
  (repeat' split) <;> simp [acted]

/-! ### Grants (R404, R405) -/

section grant
variable {s u : State} {t : Nat} {tk : Task} {l : Word}

theorem State.grant_of_not (present : tget t s.tasks = some tk) (held : s.grantable t tk = false) : s.grant t = s := by
  unfold State.grant
  rw [present]
  dsimp only
  rw [held, Bool.not_false, if_pos rfl]

/-- A task that is granted is bound with its launch number and a block, and holds all its keys; no other task changes. -/
theorem State.grant_tasks (present : tget t s.tasks = some tk) (ready : s.grantable t tk = true)
    (named : s.newLnch tk.die = some (l, u)) : ∃ b, tget t (s.grant t).tasks = some
      { tk with state := .bound, lnch := l, block := some b, keys := tk.keys.map fun e => { e with held := true } } ∧
      ∀ j, j ≠ t → tget j (s.grant t).tasks = tget j s.tasks := by
  unfold State.grant
  rw [present]
  dsimp only
  rw [ready, Bool.not_true, if_neg Bool.false_ne_true, named]
  dsimp only
  rw [State.tryBind_tasks, State.newBlock_eq]
  dsimp only
  have kept : ((tk.keys.foldl (fun s e => s.onKey e.key fun k =>
      if e.shared then { k with fifo := k.fifo.tail, st := 2, nsh := k.nsh + 1 }
      else { k with fifo := k.fifo.tail, st := 1, holder := tk.handle }) u).taskCore tk).2.tasks = s.tasks :=
    State.tasks_of_work ((State.taskCore_work ..).trans
      ((State.foldl_keeps State.work (fun t e => State.onKey_work ..) _ _).trans (s.newLnch_work named)))
  generalize State.taskCore _ tk = c at kept ⊢
  exact ⟨_, State.tasks_onTask_self (kept ▸ present) _, fun j other =>
    (State.tasks_onTask_ne other _ _).trans (congrArg (tget j) kept)⟩

/-- A task that is bound is not granted again. -/
theorem State.grantable_of_bound (s : State) (t : Nat) (bound : tk.state = .bound) : s.grantable t tk = false := by
  simp [State.grantable, bound]

/-- A grant leaves a task that is bound as it is. -/
theorem State.grant_keeps (present : tget t s.tasks = some tk) (bound : tk.state = .bound) (j : Nat) :
    tget t (s.grant j).tasks = some tk := by
  by_cases own : t = j
  · subst own
    rw [State.grant_of_not present (s.grantable_of_bound t bound), present]
  cases found : tget j s.tasks with
  | none => rw [State.grant, found, present]
  | some tj =>
    cases ready : s.grantable j tj with
    | false => rw [State.grant_of_not found ready, present]
    | true =>
      cases named : s.newLnch tj.die with
      | none =>
        rw [State.grant, found]
        dsimp only
        rw [ready, Bool.not_true, if_neg Bool.false_ne_true, named, present]
      | some p =>
        obtain ⟨-, -, others⟩ := State.grant_tasks found ready named
        rw [others t own, present]

theorem State.grants_keeps (present : tget t s.tasks = some tk) (bound : tk.state = .bound) :
    tget t s.grants.tasks = some tk := by
  unfold State.grants
  generalize s.tasks.length = n
  induction n generalizing s with
  | zero => exact present
  | succ n ih =>
    rw [State.grantAll]
    split
    · exact present
    · exact ih (State.grant_keeps present bound _)

end grant

/-! ### Decrements and releases (R400, R407, R419, R422) -/

theorem exec_tdepDecrement_lands {s : State} {die : Nat} {w : OnWay} (alone : (s.die die).tdeps = [w])
    (performed : s.allPerformed w.after = true) : exec (.tdepDecrement die) s =
    .next ((((s.onDie die fun d => { d with tdeps := d.tdeps.filter fun x => x.id != w.id }).release w.core w.block 4).visible
      w.block).decrement w.ctx die w.lnch (w.arg.setWidth 32) (fld w.arg 32 32 != 0)) := by
  have found : (s.die die).tdeps.find? (fun w => s.allPerformed w.after) = some w := by simp [alone, performed]
  rw [exec_tdepDecrement, execTdepDecrement, State.landTdep, found]

theorem State.decrement_pending {s : State} {ctx die t : Nat} {lnch : Word} {h : BitVec 32} {tk : Task}
    (found : (s.tasks.find? fun t => t.2.ctx == ctx && t.2.handle == h && t.2.page.isSome && t.2.graph.isNone) = some (t, tk))
    (pending : tk.state = .pending) : s.decrement ctx die lnch h false =
      (if tk.dep ≤ 1 then (s.onTask t fun x => { x with state := .keywait, dep := 0 }).joinFifos t
      else s.onTask t fun x => { x with dep := x.dep - 1 }) := by
  have counted : s.countDown ctx die lnch h false =
      if tk.dep ≤ 1 then (some t, s.onTask t fun x => { x with state := .keywait, dep := 0 })
      else (none, s.onTask t fun x => { x with dep := x.dep - 1 }) := by
    unfold State.countDown
    rw [found]
    simp [pending]
  unfold State.decrement
  rw [counted]
  split <;> rfl

section keyrel
variable {s : State} {die k : Nat} {w : OnWay} (found : ((s.die die).keyrels.find? fun w => w.id == k) = some w)
include found

theorem exec_keyrelEffect_waits (outstanding : s.allPerformed w.after = false) :
    exec (.keyrelEffect die k) s = .next s := by
  rw [exec_keyrelEffect, execKeyrelEffect, State.landKeyrel, found]
  dsimp only
  rw [outstanding, Bool.not_false, if_pos rfl]

theorem exec_keyrelEffect_passes {u : State} (performed : s.allPerformed w.after = true)
    (taken : u = s.onDie die fun d => { d with keyrels := d.keyrels.filter fun x => x.id != k })
    {b : Block} {t e : Nat} {tk : Task} (block : u.block? w.block = some b) (task : b.task = some t)
    (present : tget t u.tasks = some tk) (held : (tk.keys.findIdx? fun e => e.held && e.key == w.arg.toNat) = some e) :
    exec (.keyrelEffect die k) s = .next (u.releaseKey t e w.block w.core.2).grants := by
  subst taken
  rw [exec_keyrelEffect, execKeyrelEffect, State.landKeyrel, found]
  dsimp only
  rw [performed, Bool.not_true, if_neg Bool.false_ne_true, block]
  dsimp only
  rw [task]
  dsimp only
  rw [present]
  dsimp only
  rw [held]

end keyrel

/-! ### Answers (R417) -/

/-- How the dispatcher acts on a request. -/
def State.act (u : State) (c : Nat) (pc : Word) : DReq → State
  | .tsub a => u.doTsub c pc a
  | .emit a i => u.doEmit c a i
  | .qsub a h d m => u.doQsub c pc a h d m

section answer
variable {s : State} {c : Nat} {x : Course} {pc : Word} {r : DReq} (present : s.course? c = some x)
  (request : x.req = some (pc, r))
include present request

theorem exec_dispatcherResultWritten_waits (outstanding : x.ops ≠ []) :
    exec (.dispatcherResultWritten c) s = .next s := by
  rw [exec_dispatcherResultWritten, execDispatcherResultWritten, State.dispatch, present]
  dsimp only
  rw [request]
  dsimp only
  rw [if_pos (by simpa using outstanding)]

theorem exec_dispatcherResultWritten_answers {u : State} (performed : x.ops = [])
    (released : u = (s.release x.coreKey x.info.block 4).visible x.info.block) :
    exec (.dispatcherResultWritten c) s = .next (u.act c pc r) := by
  subst released
  rw [exec_dispatcherResultWritten, execDispatcherResultWritten, State.dispatch, present]
  dsimp only
  rw [request]
  dsimp only
  rw [if_neg (by simp [performed])]
  cases r <;> rfl

end answer

/-! ### Graph blocks (R411, R412) -/

section ctxs
variable (s : State)

@[simp] theorem State.writeBack_ctxs (k : Nat × Nat) (l : L1Line) : (s.writeBack k l).ctxs = s.ctxs := by
  unfold State.writeBack
  dsimp only
  (repeat' split) <;> simp [State.storePa, State.lineReq]

@[simp] theorem State.backLines_ctxs (k : Nat × Nat) (lines : List Nat) : (s.backLines k lines).ctxs = s.ctxs := by
  unfold State.backLines
  exact State.foldl_keeps State.ctxs (fun t l => by split <;> simp) _ _

@[simp] theorem State.invRange_ctxs (k : Nat × Nat) (ctx : Nat) (base : DWord) (len : Nat) :
    (s.invRange k ctx base len).ctxs = s.ctxs := by
  unfold State.invRange
  exact State.foldl_keeps State.ctxs (fun t l => by dsimp only; split <;> simp [State.evict]) _ _

@[simp] theorem State.keyActions_ctxs (tk : Task) (core : Nat) : (s.keyActions tk core).ctxs = s.ctxs := by
  unfold State.keyActions
  exact State.foldl_keeps State.ctxs (fun t e => by dsimp only; split <;> simp [State.onKey]) _ _

@[simp] theorem State.tryBind_ctxs (b : Nat) : (s.tryBind b).ctxs = s.ctxs := by
  unfold State.tryBind State.bindNow
  dsimp only
  (repeat' split) <;> simp

@[simp] theorem State.taskCore_ctxs (tk : Task) : (s.taskCore tk).2.ctxs = s.ctxs := by
  unfold State.taskCore
  dsimp only
  (repeat' split) <;> simp

end ctxs

theorem State.ctx_congr {s t : State} (same : t.ctxs = s.ctxs) (c : Nat) : t.ctx c = s.ctx c := by
  unfold State.ctx
  rw [same]

section graph
variable {s : State} {die t : Nat} {tk : Task} {n : Node} (next : s.nextGraphBlock die = some (t, tk))
include next

theorem exec_graphBlockBind_waits (short : s.reserveFrom tk = none) : exec (.graphBlockBind die t) s = .next s := by
  rw [exec_graphBlockBind, execGraphBlockBind, State.bindGraphBlock, next]
  dsimp only
  rw [if_neg (fun differs => differs rfl), short]

/-- A graph block whose pages its context has free is bound with them reserved. -/
theorem exec_graphBlockBind_binds {x : Ctx} (node : s.nodeOf tk = some n) (present : tget t s.tasks = some tk)
    (context : s.ctx? tk.ctx = some x) (fits : s.reserveFrom tk = some false)
    (room : (s.boundList die (s.taskCore tk).1).length < 8) :
    ∃ v y, exec (.graphBlockBind die t) s = .next v ∧ tget t v.tasks = some y ∧ y.state = .bound ∧ y.block.isSome = true ∧
      y.resv = n.reservation ∧ (v.ctx tk.ctx).reserved = x.reserved + n.reservation := by
  rw [exec_graphBlockBind, execGraphBlockBind, State.bindGraphBlock, next]
  dsimp only
  rw [if_neg (fun differs => differs rfl), fits, node]
  dsimp only
  rw [if_neg (Nat.not_le.mpr room), State.newBlock_eq]
  dsimp only
  have tasks := State.tasks_of_work (s.taskCore_work tk)
  have ctxs := s.taskCore_ctxs tk
  generalize s.taskCore tk = c at tasks ctxs ⊢
  have reserved := State.onCtx_spec (s := c.2) (c := tk.ctx) (x := x) (by rw [State.ctx?, ctxs]; exact context)
    fun x => { x with reserved := x.reserved + n.reservation }
  have listed := (State.onCtx_tasks c.2 tk.ctx fun x => { x with reserved := x.reserved + n.reservation }).trans tasks
  generalize c.2.onCtx tk.ctx _ = r at reserved listed ⊢
  generalize State.madeBlock r _ _ _ _ _ _ _ _ _ _ _ _ = made
  have bound := State.tasks_onTask_self (s := { r.fresh.2 with blocks := r.blocks ++ [(r.uid, made)] }) (t := t) (x := tk)
    (listed ▸ present) fun y => { y with state := .bound, block := some r.uid, resv := n.reservation, share := false }
  refine ⟨_, _, rfl, (congrArg (tget t) (State.tryBind_tasks _ _)).trans bound, rfl, rfl, rfl, ?_⟩
  rw [State.ctx_congr ((State.tryBind_ctxs _ _).trans (State.onTask_ctxs _ _ _))]
  exact congrArg Ctx.reserved reserved.2

end graph

/-! ### Continuations (R413 to R415) -/

/-- A continuation returns to its block once its area is reached and its registers have room (R415). -/
def State.rejoin (u : State) (c n : Nat) (k : Contn) : State :=
  let r := u.areaReach c (u.course c).info.ctxa (u.course c).info.areaSize .read
  match r.1 with
  | some true =>
    let q := r.2.makeRoom [c]
    if q.1 then (q.2.release (u.course c).coreKey (u.course c).info.block 3).unpark c k n else q.2
  | some false => r.2
  | none => r.2.areaFault c

section wake
variable {s u : State} {c n : Nat} {k : Contn} (waits : tget c s.conts = some k) (read : s.readDesc c k = s)
include waits read

theorem exec_continuationWake_sleeps (asleep : k.woken = none) (quiet : s.wakeStatus c k = (none, u)) :
    exec (.continuationWake c) s = .next u := by
  rw [exec_continuationWake, execContinuationWake, State.contWake, waits]
  dsimp only
  rw [read, waits]
  dsimp only
  rw [asleep]
  dsimp only
  rw [quiet]

variable {b : Block} (woken : k.woken = some n) (marked : u = s.onContn c fun k => { k with woken := some n })
  (block : u.block? (u.course c).info.block = some b)
include woken marked block

/-- What a continuation that has woken comes to, by what has become of its block. -/
theorem State.contWake_woken : s.contWake c =
    if b.state == .ended then
      (u.release (u.course c).coreKey (u.course c).info.block 3).rehome c (u.course c).info.block b
    else if (b.state == .resident || b.state == .preempting) && u.roomFor (u.course c) &&
      u.blockLives (u.course c).info.block then u.rejoin c n k
    else u := by
  unfold State.contWake
  rw [waits]
  dsimp only
  rw [read, waits]
  dsimp only
  rw [woken]
  dsimp only
  rw [waits]
  dsimp only
  rw [← marked, block]
  rfl

theorem exec_continuationWake_rehomes (ended : b.state = .ended) : exec (.continuationWake c) s =
    .next ((u.release (u.course c).coreKey (u.course c).info.block 3).rehome c (u.course c).info.block b) := by
  rw [exec_continuationWake, execContinuationWake, State.contWake_woken waits read woken marked block, if_pos (by simp [ended])]

variable (on_core : b.state = .resident ∨ b.state = .preempting)
include on_core

theorem exec_continuationWake_held (full : u.roomFor (u.course c) = false ∨ u.blockLives (u.course c).info.block = false) :
    exec (.continuationWake c) s = .next u := by
  rw [exec_continuationWake, execContinuationWake, State.contWake_woken waits read woken marked block, if_neg, if_neg]
  · rcases full with full | full <;> simp [full]
  · rcases on_core with on | on <;> simp [on]

theorem exec_continuationWake_reached {v : State} (room : u.roomFor (u.course c) = true)
    (lives : u.blockLives (u.course c).info.block = true)
    (reached : u.areaReach c (u.course c).info.ctxa (u.course c).info.areaSize .read = (some true, v)) :
    exec (.continuationWake c) s = .next (if (v.makeRoom [c]).1 then
      ((v.makeRoom [c]).2.release (u.course c).coreKey (u.course c).info.block 3).unpark c k n else (v.makeRoom [c]).2) := by
  rw [exec_continuationWake, execContinuationWake, State.contWake_woken waits read woken marked block, if_neg, if_pos]
  · rw [State.rejoin, reached]
  · rcases on_core with on | on <;> simp [on, room, lives]
  · rcases on_core with on | on <;> simp [on]

end wake

/-- Settles O51, one law for each outcome of each event. -/
theorem dispatchEvents : Obligations.DispatchEvents := by
  refine ⟨fun s t tk present => ⟨fun l u ready named => ?_, fun held => ?_⟩, fun s die w => exec_tdepDecrement_lands,
    fun s ctx die t lnch h tk => State.decrement_pending,
    fun s die k w found => ⟨exec_keyrelEffect_waits found, fun performed => ⟨_, rfl, fun b t tk e block task listed held =>
      exec_keyrelEffect_passes found performed rfl block task listed held⟩⟩,
    fun s c x pc r present request => ⟨exec_dispatcherResultWritten_waits present request, fun performed => ⟨_, rfl, ?_⟩⟩,
    fun s die t tk n x next node present context => ⟨exec_graphBlockBind_waits next,
      exec_graphBlockBind_binds next node present context⟩,
    fun s c n k b waits read => ⟨fun asleep u => exec_continuationWake_sleeps waits read asleep,
      fun woken => ⟨_, rfl, fun block => ⟨exec_continuationWake_rehomes waits read woken rfl block, fun on_core =>
        ⟨exec_continuationWake_held waits read woken rfl block on_core, fun room lives v w reached => ?_⟩⟩⟩⟩⟩
  · obtain ⟨b, granted, -⟩ := State.grant_tasks present ready named
    refine ⟨_, _, rfl, State.grants_keeps granted rfl, rfl, rfl, rfl, fun e listed => ?_⟩
    obtain ⟨e', -, rfl⟩ := List.mem_map.mp listed
    rfl
  · rw [exec_taskGrant, execTaskGrant, State.grant_of_not present held]
  · rw [exec_dispatcherResultWritten_answers present request performed rfl]
    cases r <;> rfl
  · have taken := exec_continuationWake_reached waits read woken rfl block on_core room lives reached
    exact ⟨fun made => by rw [taken, made, if_pos rfl], fun full => by rw [taken, full, if_neg Bool.false_ne_true]⟩

end Sys2Proof.Machine

/-!
# TRACEC

The request is posted as by TRACE, and the lanes whose call is allowed go to their hit routine (R344, R349, R350).
-/

namespace Sys2Proof.Machine

/-- A result of fixed latency to a register of the renamed file is one more write on its way; one for no lane is none. -/
theorem State.writeReg_on_way {s : State} {c d : Nat} {x : Course} (present : s.course? c = some x) (file : d < 64) (m : Mask)
    (vals : Lanes) (tag : Tag) (fl : DWord) (due : Nat) :
    OnlyCourse s (s.writeReg c d m vals tag fl due) c ∧ ∃ y, (s.writeReg c d m vals tag fl due).course? c = some y ∧
      y = { x with flights := y.flights } ∧
      (m ≠ 0 → ∃ f ∈ y.flights, f.v = some d ∧ f.release = false ∧ f.tag = tag ∧ f.mask = m ∧ f.vals = vals) := by
  unfold State.writeReg
  split
  · next nobody => exact ⟨.refl s c, x, present, rfl, fun somebody => absurd nobody somebody⟩
  · rw [if_pos (by simp [file])]
    obtain ⟨-, -, -, opened⟩ := State.addFlight_spec present d m vals tag fl (some due) s.iss.src.coreKey
    exact ⟨(s.addWrite_keeps c d m vals tag fl (some due) none).1, _, opened, rfl, fun _ =>
      ⟨_, List.mem_append_right _ (List.mem_singleton_self _), rfl, rfl, rfl, rfl, rfl⟩⟩

/-- The lanes of a mask go to their hit routine. -/
theorem Course.lane_callHit {x : Course} {m : Mask} {pc ofs : Word} {j : Nat} (listed : j < x.lanes.length) :
    (x.onLanes m fun _ l => l.callHit pc ofs).lane j = if Mask.has m j = true then
      { x.lane j with rays := (pc + 16) :: (x.lane j).rays, depth := (x.lane j).depth + 1, lpc := ofs } else x.lane j :=
  Course.onLanes_lane x m _ listed

/-- The request of TRACEC: a query for each executing lane, with the status of the lanes that send none. -/
def tracecRequest (i : Issue) (ins : Instr) (fl : BitVec 3) (r : SReg) (h : BitVec 4) : MemOp :=
  i.request ins (.trace fl) r fun j => .ofNat 32 ((i.src.tracecStatus h j).getD 0)

/-- The executing lanes whose call is allowed (R349). -/
def Issue.callers (i : Issue) (h : BitVec 4) : Mask :=
  Mask.ofPred i.src.w fun j => Mask.has i.g2 j && (i.src.tracecStatus h j).isNone

theorem Issue.has_callers (i : Issue) (h : BitVec 4) {j : Nat} (listed : j < i.src.w) :
    Mask.has (i.callers h) j = (Mask.has i.g2 j && (i.src.tracecStatus h j).isNone) := by
  rw [Issue.callers, Mask.has_ofPred i.src.w_le, decide_eq_true listed, Bool.true_and]

theorem tracecRequest_lanes (i : Issue) (ins : Instr) (fl : BitVec 3) (r : SReg) (h : BitVec 4) :
    (tracecRequest i ins fl r h).lanes.map (fun l => (l.lane, l.cmp)) =
      (Mask.toList i.g2).map fun j => (j, .ofNat 32 ((i.src.tracecStatus h j).getD 0)) := by
  unfold tracecRequest Issue.request
  rw [List.map_map]
  rfl

theorem exec_tracec_next {s : State} (issuing : Issuing s) (tt : Code) (r : SReg) (o : Code) (fl : BitVec 3) (h : BitVec 4) :
    exec (.tracec tt r o fl h) s = .next (((s.memRow (.tracec tt r o fl h)
      (tracecRequest s.iss (.tracec tt r o fl h) fl r h)).writeReg s.iss.course 63 (s.iss.callers h)
        (List.replicate s.iss.src.w (s.iss.pc + 16)) .uw 0 (s.clkOf s.iss.course + 2)).onCourse s.iss.course fun x =>
      x.onLanes (s.iss.callers h) fun _ l => l.callHit s.iss.pc ((s.iss.src.s (16 + h.toNat)).setWidth 32)) := by
  rw [exec_tracec, execTracec, gated_next issuing]
  rfl

/-- Settles O32: a posted request (`State.memRow_spec`), one write to V63 (`State.writeReg_on_way`), and the lanes of
`Issue.callers` at their hit routine (`Course.lane_callHit`). -/
theorem hitRoutineCalls : Obligations.HitRoutineCalls := by
  intro s x tt r o fl h issuing running some_lane calls
  obtain ⟨present, width, lanes, -⟩ := running
  obtain ⟨y, posts⟩ := State.memRow_spec present (.tracec tt r o fl h)
    (tracecRequest s.iss (.tracec tt r o fl h) fl r h) some_lane
  obtain ⟨wrote, z, here, same, on_way⟩ := State.writeReg_on_way posts.at_ (by decide : 63 < 64) (s.iss.callers h)
    (List.replicate s.iss.src.w (s.iss.pc + 16)) .uw 0 (s.clkOf s.iss.course + 2)
  have caller : ∀ j, j < x.w → Mask.has (s.iss.callers h) j = calls j := fun j listed =>
    s.iss.has_callers h (width ▸ listed)
  have z_lanes : z.lanes = x.lanes := by rw [same, posts.posted]
  have only : OnlyPosted x z := by
    refine posts.posted.trans ?_
    rw [OnlyPosted, same]
  refine ⟨_, z.onLanes (s.iss.callers h) fun _ l => l.callHit s.iss.pc ((s.iss.src.s (16 + h.toNat)).setWidth 32),
    { tracecRequest s.iss (.tracec tt r o fl h) fl r h with id := s.uid }, exec_tracec_next issuing tt r o fl h,
    (posts.only.trans wrote).trans (.of_onCourse _ _ _), State.course?_onCourse_self here _, ?_, ?_, ?_, rfl,
    tracecRequest_lanes s.iss (.tracec tt r o fl h) fl r h, fun someone => ?_, fun j listed => ?_⟩
  · rw [only]
    rfl
  · have z_ops : z.ops = y.ops := by rw [same]
    exact z_ops.trans posts.ops
  · have z_outs : z.outs = y.outs := by rw [same]
    exact z_outs.trans posts.outs
  · obtain ⟨j, listed, called⟩ := someone
    have nonzero : s.iss.callers h ≠ 0 := fun none => by
      rw [← caller j listed, none, (Mask.eq_zero_iff 0).mp rfl j] at called
      cases called
    obtain ⟨f, listed, window, held, tag, mask, vals⟩ := on_way nonzero
    refine ⟨f, listed, window, held, tag, fun j below => ⟨mask ▸ caller j below, ?_⟩⟩
    rw [vals]
    exact List.getD_replicate _ (width ▸ below)
  · rw [Course.lane_callHit (by rw [z_lanes, lanes]; exact listed), caller j listed, Course.lane, z_lanes]
    rfl

end Sys2Proof.Machine

/-!
# Queues, the portal and the Spire

(R372 to R377, R382, R392)
-/

namespace Sys2Proof.Machine

/-! ### The portal (R373, R374, R491) -/

section enqueue
variable {s : State} {ctx q : Nat} {bs : List Byte} {c : Ctx} (present : s.ctx? ctx = some c)
include present

theorem State.enqueue_noQueue (none_ : tget q c.queues = none) : s.enqueue ctx q bs = (2, s) := by
  rw [State.enqueue, State.ctx_of_some present, none_]

variable {x : Queue} (queue : tget q c.queues = some x)
include queue

theorem State.enqueue_full (full : 2 ^ x.k ≤ x.wr - x.rd ∨ x.state = .draining ∨ x.state = .error) :
    s.enqueue ctx q bs = (1, s) := by
  rw [State.enqueue, State.ctx_of_some present, queue]
  dsimp only
  rw [if_pos]
  rcases full with full | full | full <;> simp [full]

theorem State.enqueue_put {u : State} (room : x.wr - x.rd < 2 ^ x.k) (draining : x.state ≠ .draining)
    (error : x.state ≠ .error) (written : s.hwWrite ctx (x.ring + .ofNat 64 (64 * (x.wr % 2 ^ x.k))) bs = (true, u)) :
    s.enqueue ctx q bs = (0, u.onQ ctx q fun y => { y with wr := y.wr + 1 }) := by
  rw [State.enqueue, State.ctx_of_some present, queue]
  dsimp only
  rw [if_neg (by simp [room, draining, error]), written]
  rfl

end enqueue

section portal
variable {s : State} {ctx off : Nat} {bs : List Byte}

theorem exec_portalWrite_nowhere (absent : s.ctx? ctx = none ∨ s.boot.stage = 15) :
    exec (.portalWrite ctx off bs) s = .next s := by
  rw [exec_portalWrite, execPortalWrite, if_pos]
  rcases absent with absent | recovery
  · rw [absent]; rfl
  · simp [recovery]

variable {c : Ctx} (present : s.ctx? ctx = some c) (up : s.boot.stage ≠ 15)
include present up

theorem portal_open : ((s.ctx? ctx).isNone || s.boot.stage == 15) = false := by simp [present, up]

theorem exec_portalWrite_noPacket (other : ¬ (bs.length = 64 ∧ off % 64 = 0 ∧ off < 4096)) :
    exec (.portalWrite ctx off bs) s = .next (s.errEntry ctx 4 0xFFFF 0 0x08 (.ofNat 64 off) (.ofNat 64 bs.length)) := by
  rw [exec_portalWrite, execPortalWrite, portal_open present up, if_neg Bool.false_ne_true, if_neg]
  simpa [and_assoc] using other

variable (whole : bs.length = 64) (aligned : off % 64 = 0) (portal : off < 4096)
include whole aligned portal

theorem exec_portalWrite_packet : exec (.portalWrite ctx off bs) s = .next (s.portalPush ctx off bs) := by
  rw [exec_portalWrite, execPortalWrite, portal_open present up, if_neg Bool.false_ne_true, if_pos]
  simp [whole, aligned, portal]

theorem exec_portalWrite_noQueue (none_ : tget (off / 64) c.queues = none) : exec (.portalWrite ctx off bs) s =
    .next { s with cpls := s.cpls ++ [⟨0, 0x2000000 + 4096 * ctx + off, 1, []⟩] } := by
  rw [exec_portalWrite_packet present up whole aligned portal, State.portalPush, State.enqueue_noQueue present none_]
  rfl

variable {x : Queue} (queue : tget (off / 64) c.queues = some x)
include queue

theorem exec_portalWrite_retry (full : 2 ^ x.k ≤ x.wr - x.rd ∨ x.state = .draining ∨ x.state = .error) :
    exec (.portalWrite ctx off bs) s =
      .next { s with cpls := s.cpls ++ [⟨0, 0x2000000 + 4096 * ctx + off, 1, []⟩] } := by
  rw [exec_portalWrite_packet present up whole aligned portal, State.portalPush, State.enqueue_full present queue full]
  rfl

theorem exec_portalWrite_put {u : State} (room : x.wr - x.rd < 2 ^ x.k) (draining : x.state ≠ .draining)
    (error : x.state ≠ .error) (written : s.hwWrite ctx (x.ring + .ofNat 64 (64 * (x.wr % 2 ^ x.k))) bs = (true, u)) :
    exec (.portalWrite ctx off bs) s =
      let v := u.onQ ctx (off / 64) fun y => { y with wr := y.wr + 1 }
      .next { v with cpls := v.cpls ++ [⟨0, 0x2000000 + 4096 * ctx + off, 0, []⟩] } := by
  rw [exec_portalWrite_packet present up whole aligned portal, State.portalPush,
    State.enqueue_put present queue room draining error written]
  rfl

end portal

/-! ### The life of a queue (R373, R377) -/

theorem exec_queueCreate_creates {s : State} {ctx q k : Nat} {ring : DWord} {c : Ctx} (present : s.ctx? ctx = some c)
    (index : q < 64) (least : 4 ≤ k) (most : k ≤ 16) (fresh : tget q c.queues = none) :
    exec (.queueCreate ctx q k ring) s = .next (s.onCtx ctx fun c =>
      { c with queues := tset q ⟨k, ring, 0, 0, .created, [], none, none, none⟩ c.queues }) := by
  rw [exec_queueCreate, execQueueCreate, State.ctx_of_some present, fresh, if_neg]
  simp [index, least, most]

theorem tget_eq_none {α : Type} {k : Nat} {l : List (Nat × α)} (absent : ∀ p ∈ l, p.1 ≠ k) : tget k l = none := by
  induction l with
  | nil => rfl
  | cons p l ih =>
    obtain ⟨j, x⟩ := p
    have other : ¬ k = j := fun same => absent (j, x) (.head _) same.symm
    simpa [tget, other] using ih fun p listed => absent p (.tail _ listed)

/-- Where each key stands once, the entry of a key that was set is the one that was put there. -/
theorem snd_of_mem_tset {α : Type} {k : Nat} {x : α} {l : List (Nat × α)} (once : (l.map (·.1)).Nodup) {p : Nat × α}
    (listed : p ∈ tset k x l) (key : p.1 = k) : p.2 = x := by
  induction l with
  | nil =>
    obtain rfl : p = (k, x) := by simpa [tset] using listed
    rfl
  | cons q l ih =>
    obtain ⟨j, y⟩ := q
    rw [List.map_cons, List.nodup_cons] at once
    by_cases first : k = j
    · subst first
      rw [tset, if_pos rfl, List.mem_cons] at listed
      rcases listed with rfl | later
      · rfl
      · exact absurd (List.mem_map.mpr ⟨p, later, key⟩) once.1
    · rw [tset, if_neg first, List.mem_cons] at listed
      rcases listed with rfl | later
      · exact absurd key.symm first
      · exact ih once.2 later

/-- A slot of a die that names a queue gives it up. -/
def clearSlot (ctx q : Nat) (w : DWord × DWord) : DWord × DWord :=
  if w.1.getLsbD 0 && fld w.1 16 16 == ctx && fld w.1 32 6 == q then (w.1 &&& ~~~1, w.2) else w

/-- A slot that still holds a record afterwards names another queue. -/
theorem clearSlot_names {ctx q : Nat} {w : DWord × DWord} (valid : (clearSlot ctx q w).1.getLsbD 0 = true) :
    ¬ (fld (clearSlot ctx q w).1 16 16 = ctx ∧ fld (clearSlot ctx q w).1 32 6 = q) := by
  unfold clearSlot at valid ⊢
  split at valid
  · simp at valid
  · next other =>
    rw [if_neg other]
    rintro ⟨context, queue⟩
    exact other (by simp [valid, context, queue])

theorem State.ctx?_onCtx {s : State} {c : Nat} {x : Ctx} (present : s.ctx? c = some x) (f : Ctx → Ctx) :
    (s.onCtx c f).ctx? c = some (f x) := by
  simp only [State.ctx?] at present
  simp [State.onCtx, State.ctx?, present]

theorem State.ctx_onQ {s : State} {ctx q : Nat} {c : Ctx} {x : Queue} (present : s.ctx? ctx = some c)
    (queue : tget q c.queues = some x) (f : Queue → Queue) :
    (s.onQ ctx q f).ctx? ctx = some { c with queues := tset q (f x) c.queues } := by
  rw [State.onQ, State.ctx?_onCtx present, queue]

/-- Every slot that names a queue gives it up. -/
def State.clearSlots (s : State) (ctx q : Nat) : State :=
  { s with dies := s.dies.map fun d => { d with slots := d.slots.map (clearSlot ctx q) } }

/-- An idle queue that is destroyed: its slots are cleared, and it goes with those that drain with nothing open. -/
theorem exec_queueDestroy_idle {s : State} {ctx q : Nat} {c : Ctx} {x : Queue} (present : s.ctx? ctx = some c)
    (queue : tget q c.queues = some x) (empty : x.wr ≤ x.rd) (idle : x.open_ = []) :
    exec (.queueDestroy ctx q) s = .next (((s.onQ ctx q fun y => { y with state := .draining }).clearSlots ctx q).onCtx ctx
      fun c => { c with queues := c.queues.filter fun y => !(y.2.state == .draining && y.2.open_.isEmpty) }) := by
  rw [exec_queueDestroy, execQueueDestroy, State.ctx_of_some present, queue]
  dsimp only
  rw [Nat.sub_eq_zero_of_le empty, idle]
  rfl

theorem queueDestroy_leaves {s : State} {ctx q : Nat} {c : Ctx} {x : Queue} (present : s.ctx? ctx = some c)
    (queue : tget q c.queues = some x) (once : (c.queues.map (·.1)).Nodup) (empty : x.wr ≤ x.rd) (idle : x.open_ = []) :
    ∃ t, exec (.queueDestroy ctx q) s = .next t ∧ tget q (t.ctx ctx).queues = none ∧
      ∀ d ∈ t.dies, ∀ w ∈ d.slots, w.1.getLsbD 0 = true → ¬ (fld w.1 16 16 = ctx ∧ fld w.1 32 6 = q) := by
  refine ⟨_, exec_queueDestroy_idle present queue empty idle, ?_, fun d listed w slot valid => ?_⟩
  · have drains := State.ctx_onQ present queue fun y => { y with state := .draining }
    rw [State.ctx_onCtx_self (s := (s.onQ ctx q _).clearSlots ctx q) drains]
    refine tget_eq_none fun p listed key => ?_
    obtain ⟨old, stays⟩ := List.mem_filter.mp listed
    rw [snd_of_mem_tset once old key] at stays
    simp [idle] at stays
  · rw [State.onCtx_dies] at listed
    obtain ⟨d, -, rfl⟩ := List.mem_map.mp listed
    obtain ⟨w, -, rfl⟩ := List.mem_map.mp slot
    exact clearSlot_names valid

theorem bindRecordWrite_waits {s : State} {die slot : Nat} (w0 w1 : DWord) (index : slot < 64) (listed : die < s.dies.length) :
    ∃ t, exec (.bindRecordWrite die slot w0 w1) s = .next t ∧ OnlyDie s t die ∧
      t.die die = { s.die die with binds := ((s.die die).binds.filter fun b => b.1 != slot) ++
        [(slot, w0 &&& 0x3FFFFF003F#64, w1 &&& 0xFFFF#64)] } := by
  have joined := State.onDie_spec listed fun d => { d with binds := (d.binds.filter fun b => b.1 != slot) ++
    [(slot, w0 &&& 0x3FFFFF003F#64, w1 &&& 0xFFFF#64)] }
  refine ⟨_, ?_, joined⟩
  rw [exec_bindRecordWrite, execBindRecordWrite, if_neg (by omega)]

/-! ### Windows (R372, R376, R382) -/

section window
variable {s u : State} {die n : Nat} {w : DWord × DWord} (slot : n = (s.die die).window)
  (bound : u = (s.onDie die fun d => { d with window := (n + 1) % 64 }).applyBind die n)
  (record : w = (u.die die).slots.getD n (0, 0))
include slot bound record

theorem exec_spireWindow_idle (idle : w.1.getLsbD 0 = false ∨ ((s.die die).failed.any (fun f => f.1 == 6)) = true) :
    exec (.spireWindow die) s = .next u := by
  subst slot bound record
  rw [exec_spireWindow, execSpireWindow, State.window]
  dsimp only
  rw [if_pos]
  rcases idle with idle | failed
  · rw [idle]; rfl
  · rw [failed, Bool.or_true]

variable (valid : w.1.getLsbD 0 = true) (sound : ((s.die die).failed.any (fun f => f.1 == 6)) = false)
  {q : Queue} (queue : tget (slotUse die n w).q (u.ctx (slotUse die n w).ctx).queues = some q)
include valid sound queue

theorem exec_spireWindow_held (held : q.state ≠ .bound ∨ q.wr ≤ q.rd) : exec (.spireWindow die) s = .next u := by
  subst slot bound record
  rw [exec_spireWindow, execSpireWindow, State.window]
  dsimp only
  rw [valid, sound, Bool.not_true, Bool.or_false, if_neg Bool.false_ne_true, queue]
  dsimp only
  rw [if_pos]
  rcases held with held | empty
  · simp [held]
  · simp [empty]

theorem exec_spireWindow_reads {v : State} {bs : List Byte} (bound_ : q.state = .bound) (some_ : q.rd < q.wr)
    (read : u.hwRead (slotUse die n w).ctx (q.ring + .ofNat 64 (64 * (q.rd % 2 ^ q.k))) 64 = (some bs, v)) :
    exec (.spireWindow die) s = .next (if v.mayStart q bs = true then v.decodeHead (slotUse die n w) q bs else v) := by
  subst slot bound record
  rw [exec_spireWindow, execSpireWindow, State.window]
  dsimp only
  rw [valid, sound, Bool.not_true, Bool.or_false, if_neg Bool.false_ne_true, queue]
  dsimp only
  rw [if_neg (by simp [bound_, some_]), read]

end window

/-! ### WAIT packets (R382, R392) -/

section wait
variable {s u : State} {p : Nat} {x : Packet} {w : WaitA} {v : Word} (present : tget p s.pkts = some x) (waits : x.wait = some w)
include present waits

theorem exec_waitPacketComplete_answered (got : w.got = some v) :
    exec (.waitPacketComplete p) s = .next (s.finishWait p x w v) := by
  rw [exec_waitPacketComplete, execWaitPacketComplete, State.tryWait, present]
  dsimp only
  rw [waits]
  dsimp only
  rw [got]

theorem exec_waitPacketComplete_reads (none_ : w.got = none) (here : w.sent = none) (read : s.peekPkt x w = (.word v, u)) :
    exec (.waitPacketComplete p) s = .next ((u.waitServed x).finishWait p x w v) := by
  rw [exec_waitPacketComplete, execWaitPacketComplete, State.tryWait, present]
  dsimp only
  rw [waits]
  dsimp only
  rw [none_]
  dsimp only
  rw [here, Option.isSome_none, if_neg Bool.false_ne_true, read]

end wait

theorem State.finishWait_met {s : State} {p : Nat} {x : Packet} {w : WaitA} {v : Word} (met : waitCond w.cond v w.t = true) :
    s.finishWait p x w v =
      ((s.acquireDie x.die (extScope w.ext w.scope)).onPkt p fun k => { k with wait := none }).settlePkt p := by
  rw [State.finishWait, if_pos met]

end Sys2Proof.Machine

/-!
# Streams start

Every column of the row gets a block with one course at the stream's entry; what stood before stays (R360, R361).
-/

namespace Sys2Proof.Machine

/-! ### The start of a stream -/

/-- The columns of a stream one after another: each brings one course. -/
theorem length_foldl_columns {α : Type} (g : State → α → Nat × State) (l : List α) (acc : List Nat × State) :
    (l.foldl (fun acc a => let k := g acc.2 a; (acc.1 ++ [k.1], k.2)) acc).1.length = acc.1.length + l.length := by
  induction l generalizing acc with
  | nil => rfl
  | cons a l ih =>
    simp only [List.foldl_cons, ih, List.length_append, List.length_cons, List.length_nil]
    omega

/-- The part of the preloaded bytes that a column takes. -/
def preloadPart (r : RowStream) (data : List Byte) (col : Nat) : List Byte :=
  (data.drop (col * if r.pla = 0 then 0 else r.pln)).take (if r.pla = 0 then 0 else r.pln)

/-- The columns of a stream that starts. -/
def State.startColumns (s : State) (r : RowStream) (die : Nat) (areas : List Nat) (data : List Byte) : List Nat × State :=
  (List.range 12).foldl (fun (acc : List Nat × State) col =>
    let k := acc.2.startColumn r die col (areas.getD col 0) (preloadPart r data col)
    (acc.1 ++ [k.1], k.2)) ([], s)

theorem State.startColumns_eq (s : State) (r : RowStream) (die : Nat) (areas : List Nat) (data : List Byte) :
    ((s.startColumns r die areas data).1, (s.startColumns r die areas data).2) =
      (List.range 12).foldl (fun (acc : List Nat × State) col =>
        let n := if r.pla = 0 then 0 else r.pln
        let k := acc.2.startColumn r die col (areas.getD col 0) ((data.drop (col * n)).take n)
        (acc.1 ++ [k.1], k.2)) ([], s) := by
  rw [State.startColumns, Prod.mk.eta]
  simp only [preloadPart]

theorem State.startColumns_length (s : State) (r : RowStream) (die : Nat) (areas : List Nat) (data : List Byte) :
    (s.startColumns r die areas data).1.length = 12 :=
  length_foldl_columns (fun s col => s.startColumn r die col (areas.getD col 0) (preloadPart r data col)) _ _

section stream
variable {s : State} {p row : Nat} {x : Packet} {r : RowStream} (present : tget p s.pkts = some x)
  (waiting : ((s.die x.die).rows.find? fun r => !r.started && r.row == row && r.pkt == p) = some r)
include present waiting

theorem exec_streamStart_waits (busy : s.rowFree x.die r.row (slotsOf true r.attr.spk) = false) :
    exec (.streamStart p row) s = .next s := by
  rw [exec_streamStart, execStreamStart, present]
  dsimp only
  rw [waiting]
  dsimp only
  rw [State.startStream, busy, Bool.not_false, if_pos rfl]

theorem exec_streamStart_starts {areas : List Nat} {data : List Byte} {v : State}
    (free : s.rowFree x.die r.row (slotsOf true r.attr.spk) = true)
    (fits : carve (s.ctx r.ctx).capsize (areaPages x.die 0 0) 12 (s.usedAreas r.ctx) = some areas)
    (read : ((rowCores r.row).foldl (fun s c => s.acquireL1 (x.die, c)) s).preloads r x.die = (.bytes data, v)) :
    exec (.streamStart p row) s =
      let c := ((v.startTimer x.die r.ctx).onDie x.die fun d =>
        { d with rowsFenced := d.rowsFenced.filter (· != (r.row, r.lnch)) }).startColumns r x.die areas data
      .next (c.2.onRow x.die r.id fun q =>
        { q with started := true, courses := c.1, flt := none, reads := [], visible := false }) := by
  rw [exec_streamStart, execStreamStart, present]
  dsimp only
  rw [waiting]
  dsimp only
  rw [State.startStream, free, Bool.not_true, if_neg Bool.false_ne_true, fits]
  dsimp only
  rw [read]
  rfl

end stream

/-! ### Identifiers that the caches give out: none -/

section uid
variable (s : State)

@[simp] theorem State.writeBack_uid (k : Nat × Nat) (l : L1Line) : (s.writeBack k l).uid = s.uid := by
  unfold State.writeBack
  dsimp only
  (repeat' split) <;> simp [State.storePa, State.lineReq]

@[simp] theorem State.evict_uid (k : Nat × Nat) (l : L1Line) : (s.evict k l).uid = s.uid := by
  simp [State.evict]

@[simp] theorem State.trim_uid (k : Nat × Nat) (n : Nat) : (s.trim k n).uid = s.uid := by
  induction n generalizing s with
  | zero => rfl
  | succ n ih =>
    rw [State.trim]
    dsimp only
    (repeat' split) <;> simp [ih]

@[simp] theorem State.reclaim_uid (k : Nat × Nat) (n : Nat) : (s.reclaim k n).uid = s.uid := by
  simp [State.reclaim]

@[simp] theorem State.acquire_uid (k : Nat × Nat) (blk scope : Nat) : (s.acquire k blk scope).uid = s.uid := by
  have refreshed : ∀ (t : State) l, (t.freshLine k l).uid = t.uid := fun t l => by
    unfold State.freshLine
    split <;> rfl
  unfold State.acquire State.acquireL1 State.inherit
  dsimp only
  split
  · exact State.foldl_keeps State.uid (fun t l => refreshed t l) _ _
  · rfl

@[simp] theorem State.trim_work (k : Nat × Nat) (n : Nat) : (s.trim k n).work = s.work := by
  induction n generalizing s with
  | zero => rfl
  | succ n ih =>
    rw [State.trim]
    dsimp only
    (repeat' split) <;> simp [ih]

@[simp] theorem State.reclaim_work (k : Nat × Nat) (n : Nat) : (s.reclaim k n).work = s.work := by
  simp [State.reclaim]

end uid

/-! ### One column (R360, R361) -/

/-- No course and no block stands under an identifier that is still to be given out. -/
def State.FreshIds (s : State) : Prop := ∀ k, s.uid ≤ k → s.course? k = none ∧ s.block? k = none

/-- A block takes its ways and its place on the core. -/
theorem State.takeWays_block? {s : State} {b : Nat} {x : Block} (present : s.block? b = some x) :
    ∃ y, (s.takeWays b x).block? b = some y ∧ y.state = .resident ∧ y.courses = x.courses ∧ y.row = x.row := by
  unfold State.takeWays
  exact ⟨_, State.block?_onBlock_self (State.block?_onBlock_self (s := s.onCore _ _) present _) _, rfl, rfl, rfl⟩

theorem State.takeWays_courses (s : State) (b : Nat) (x : Block) : (s.takeWays b x).courses = s.courses := by
  simp [State.takeWays]

theorem State.takeWays_uid (s : State) (b : Nat) (x : Block) : (s.takeWays b x).uid = s.uid := by
  simp [State.takeWays]

theorem State.takeWays_block?_ne {k b : Nat} (other : k ≠ b) (s : State) (x : Block) :
    (s.takeWays b x).block? k = s.block? k := by
  unfold State.takeWays
  rw [State.block?_onBlock_ne other, State.block?_onBlock_ne other]
  rfl

/-- The block of a column as it is made, with its preloaded bytes. -/
def State.columnBlock (s : State) (r : RowStream) (die col : Nat) (data : List Byte) : Block :=
  let b := s.madeBlock r.ctx die (12 * r.row + col) r.lnch (.ofNat 32 (12 * r.ridx + col)) r.attr 0 (Config.cores die)
    (some r.slot) r.prio none none
  { b with row := some r.row, mem := b.mem.write 0 data }

/-- The ways that a column needs are reclaimed. -/
def State.columnRoom (s : State) (r : RowStream) (die col : Nat) : State :=
  s.reclaim (die, 12 * r.row + col)
    ((slotsOf true r.attr.spk + 3) / 4 - (s.core (die, 12 * r.row + col)).draining.length)

/-- The state in which the block of a column has been made. -/
def State.columnMade (s : State) (r : RowStream) (die col : Nat) (data : List Byte) : State :=
  let b := (s.columnRoom r die col).newBlock r.ctx die (12 * r.row + col) r.lnch (.ofNat 32 (12 * r.ridx + col)) r.attr 0
    (Config.cores die) (some r.slot) r.prio none none
  b.2.onBlock b.1 fun x => { x with row := some r.row, mem := x.mem.write 0 data }

/-- The first state of the course of a column. -/
def State.columnCourse (s : State) (r : RowStream) (die col area b : Nat) (x : Block) : Course :=
  let c := s.firstCourse b x 0 false area s.uid none
  { c with info := { c.info with rank := r.rank die col } }

/-- The course of a column starts on the block that has taken its ways. -/
def State.columnGoes (s : State) (r : RowStream) (die col area b : Nat) (x : Block) : State :=
  (({ s with courses := s.courses ++ [(s.uid, s.columnCourse r die col area b x)], uid := s.uid + 1 } : State).onBlock b
    fun y => { y with courses := [s.uid] }).acquire (die, 12 * r.row + col) b 4

section column
variable {s : State} (fresh : s.FreshIds) (r : RowStream) (die col : Nat) (data : List Byte)

theorem State.columnRoom_work (s : State) (r : RowStream) (die col : Nat) : (s.columnRoom r die col).work = s.work := State.reclaim_work ..
theorem State.columnRoom_uid (s : State) (r : RowStream) (die col : Nat) : (s.columnRoom r die col).uid = s.uid := State.reclaim_uid ..

theorem State.columnMade_courses : (s.columnMade r die col data).courses = s.courses :=
  (State.onBlock_courses _ _ _).trans (State.courses_of_work (s := s) (t := s.columnRoom r die col)
    (s.columnRoom_work r die col))

theorem State.columnMade_uid : (s.columnMade r die col data).uid = s.uid + 1 :=
  (State.onBlock_uid _ _ _).trans (congrArg (· + 1) (s.columnRoom_uid r die col))

theorem State.columnMade_block?_ne {k : Nat} (other : k ≠ s.uid) :
    (s.columnMade r die col data).block? k = s.block? k := by
  unfold State.columnMade
  rw [State.newBlock_eq, State.columnRoom_uid]
  dsimp only
  rw [State.block?_onBlock_ne other]
  exact (tget_append_old other _).trans (congrArg (tget k) (State.blocks_of_work (s.columnRoom_work r die col)))

include fresh in
theorem State.columnMade_block? : (s.columnMade r die col data).block? s.uid =
    some ((s.columnRoom r die col).columnBlock r die col data) := by
  unfold State.columnMade
  rw [State.newBlock_eq, State.columnRoom_uid]
  have unused : tget s.uid (s.columnRoom r die col).blocks = none := by
    rw [State.blocks_of_work (s.columnRoom_work r die col)]
    exact (fresh s.uid (Nat.le_refl _)).2
  have listed : ({ (s.columnRoom r die col).fresh.2 with blocks := (s.columnRoom r die col).blocks ++ [(s.uid,
      (s.columnRoom r die col).madeBlock r.ctx die (12 * r.row + col) r.lnch (.ofNat 32 (12 * r.ridx + col)) r.attr 0
        (Config.cores die) (some r.slot) r.prio none none)] } : State).block? s.uid = _ := tget_append_new unused
  exact State.block?_onBlock_self listed _

include fresh in
/-- What one column brings, in three steps: its block, the place of that on its core, and its course. -/
theorem State.startColumn_eq (area : Nat) :
    let x := (s.columnRoom r die col).columnBlock r die col data
    let u := (s.columnMade r die col data).takeWays s.uid x
    s.startColumn r die col area data = (u.uid, u.columnGoes r die col area s.uid x) := by
  have made := State.columnMade_block? fresh r die col data
  intro x u
  have unfolded : s.startColumn r die col area data =
      match (s.columnMade r die col data).block? (s.columnRoom r die col).uid with
      | none => (0, s.columnMade r die col data)
      | some x =>
        let u := (s.columnMade r die col data).takeWays (s.columnRoom r die col).uid x
        (u.uid, u.columnGoes r die col area (s.columnRoom r die col).uid x) := rfl
  rw [unfolded, State.columnRoom_uid, made]

end column

/-- What stands when the course of a column goes: it under its identifier, its block with it alone, and the rest as before. -/
theorem State.columnGoes_spec {u : State} {b : Nat} {y : Block} (present : u.block? b = some y) (r : RowStream)
    (die col area : Nat) (x : Block) : let t := u.columnGoes r die col area b x
    t.courses = u.courses ++ [(u.uid, u.columnCourse r die col area b x)] ∧ t.uid = u.uid + 1 ∧
      t.block? b = some { y with courses := [u.uid] } ∧ ∀ k, k ≠ b → t.block? k = u.block? k := by
  unfold State.columnGoes
  generalize u.columnCourse r die col area b x = c
  have acquired : ∀ (v : State) k, (v.acquire (die, 12 * r.row + col) b 4).block? k = v.block? k := fun v k =>
    congrArg (tget k) (State.blocks_of_work (v.acquire_work ..))
  refine ⟨?_, ?_, ?_, fun k other => ?_⟩
  · exact (State.courses_of_work (State.acquire_work ..)).trans (State.onBlock_courses _ _ _)
  · exact (State.acquire_uid ..).trans (State.onBlock_uid _ _ _)
  · rw [acquired]
    exact State.block?_onBlock_self (s := { u with courses := u.courses ++ [(u.uid, c)], uid := u.uid + 1 }) present _
  · rw [acquired, State.block?_onBlock_ne other]
    rfl

/-- A column leaves every identifier above its own unused, and every course as it was. -/
theorem startColumn_keeps {s t : State} (fresh : s.FreshIds) {r : RowStream} {die col area id : Nat} {data : List Byte}
    (starts : (id, t) = s.startColumn r die col area data) :
    t.FreshIds ∧ (∀ k c, s.course? k = some c → t.course? k = some c) ∧
      ∃ (u : State) (x y : Block), t.course? id = some (u.columnCourse r die col area s.uid x) ∧
        t.block? s.uid = some y ∧ y.state = .resident ∧ y.courses = [id] ∧ y.row = some r.row ∧
        x = (s.columnRoom r die col).columnBlock r die col data := by
  have made := State.columnMade_block? fresh r die col data
  have split := State.startColumn_eq fresh r die col data area
  generalize room : (s.columnRoom r die col).columnBlock r die col data = x at made split
  obtain ⟨y, placed, state, -, row⟩ := State.takeWays_block? made
  have row_x : x.row = some r.row := by rw [← room]; rfl
  have courses := ((s.columnMade r die col data).takeWays_courses s.uid x).trans (State.columnMade_courses r die col data)
  have number := ((s.columnMade r die col data).takeWays_uid s.uid x).trans (State.columnMade_uid r die col data)
  have others : ∀ k, k ≠ s.uid → ((s.columnMade r die col data).takeWays s.uid x).block? k = s.block? k := fun k other =>
    (State.takeWays_block?_ne other _ x).trans (State.columnMade_block?_ne r die col data other)
  dsimp only at split
  generalize (s.columnMade r die col data).takeWays s.uid x = u at placed courses number others split
  obtain ⟨listed, bumped, block, rest⟩ := State.columnGoes_spec placed r die col area x
  rw [split] at starts
  obtain ⟨rfl, rfl⟩ := Prod.mk.inj starts
  have unused := (fresh (s.uid + 1) (Nat.le_succ _)).1
  refine ⟨fun k above => ⟨?_, ?_⟩, fun k c present => ?_, u, x, _, ?_, block, state, rfl, row.trans row_x, rfl⟩
  · rw [State.course?, listed, courses, number, tget_append_old (by omega)]
    exact (fresh k (by omega)).1
  · rw [rest k (by omega), others k (by omega)]
    exact (fresh k (by omega)).2
  · have other : k ≠ s.uid + 1 := fun same => by
      rw [same, unused] at present
      cases present
    rw [State.course?, listed, courses, number, tget_append_old other]
    exact present
  · rw [State.course?, listed, courses]
    exact tget_append_new (number ▸ unused)

/-- The course of a column is resident on its core of the row, every lane READY at the entry of the stream (R361, R362). -/
theorem startColumn_column {s t : State} (fresh : s.FreshIds) {r : RowStream} {die col area id : Nat} {data : List Byte}
    (starts : (id, t) = s.startColumn r die col area data) :
    ∃ c b, t.course? id = some c ∧ t.block? c.info.block = some b ∧ b.state = .resident ∧ b.courses = [id] ∧
      b.row = some r.row ∧ c.pres = .resident ∧ c.info.die = die ∧ c.info.core = 12 * r.row + col ∧
      c.info.row = some r.row ∧ c.info.rank = r.rank die col ∧ (∀ k, k < 32 → c.sr.getD k 0 = r.attr.args.getD k 0) ∧
      ∀ l, l < Config.lanes (Config.isTower die) → ∃ lane, c.lanes[l]? = some lane ∧ lane.st = .ready ∧
        lane.lpc = r.attr.entry := by
  obtain ⟨-, -, u, x, y, course, block, state, own, row, rfl⟩ := startColumn_keeps fresh starts
  refine ⟨_, y, course, block, state, own, row, rfl, rfl, rfl, rfl, rfl, fun k listed => ?_, fun l listed =>
    ⟨_, State.firstCourse_lane u s.uid _ 0 false area u.uid none listed, rfl, rfl⟩⟩
  exact getD_take_append_replicate listed

end Sys2Proof.Machine

/-!
# The sequencer of a row

(R360, R364 to R366, R368)
-/

namespace Sys2Proof.Machine

/-! ### A row that cannot run, and one that can -/

theorem exec_rowSequencerIssue_none {s u : State} {die row : Nat} (ticked : u = s.rowTick die row) (idle : u.running die row = []) :
    exec (.rowSequencerIssue die row) s = .next u := by
  subst ticked
  rw [exec_rowSequencerIssue, execRowSequencerIssue, State.rowIssue, idle]

theorem State.running_none {u : State} {die row : Nat} {r : RowStream} {c0 : Nat} {cs : List Nat}
    (started : ((u.die die).rows.find? fun r => r.started && r.row == row) = some r) (courses : r.courses = c0 :: cs)
    (held : (u.course c0).pres ≠ .resident ∨ (u.course c0).live = 0 ∨ (u.die die).health.stopped = true ∨ u.rowq ≠ []) :
    u.running die row = [] := by
  unfold State.running
  rw [started]
  dsimp only
  rw [courses, List.headD_cons, if_pos]
  rcases held with held | held | held | held <;> simp [held]

/-- Nothing is held back: no column has a bundle to issue first. -/
theorem State.heldBy_nil {v : State} (empty : v.rowbuf = []) (c : Nat) : v.heldBy c = none := by
  rw [State.heldBy, empty, List.find?_nil]

theorem State.rowDrain_nil {v : State} (empty : v.rowbuf = []) (cs : List Nat) : v.rowDrain cs = ([], v) := by
  unfold State.rowDrain
  induction cs with
  | nil => rfl
  | cons c cs ih =>
    rw [List.foldl_cons]
    dsimp only
    rw [State.heldBy_nil empty]
    exact ih

/-- The row comes to its next bundle when no column has an error to take and none holds a bundle back. -/
theorem exec_rowSequencerIssue_selects {s u v : State} {die row c0 : Nat} {cs : List Nat} {x : Course}
    (ticked : u = s.rowTick die row) (runs : u.running die row = c0 :: cs)
    (shared : v = ((c0 :: cs).foldl (fun s c => s.onCourse c fun x => x.share (u.course c0)) u).rowWake (c0 :: cs))
    (sound : v.rowError (c0 :: cs) = none) (empty : v.rowbuf = []) (lead : x = v.course c0) (ready : x.ready ≠ 0) :
    exec (.rowSequencerIssue die row) s = .next (v.rowSelect (c0 :: cs) [] c0 x.turn x.ready) := by
  subst ticked lead
  have none_held : ((c0 :: cs).filter fun c => (v.heldBy c).isSome) = [] :=
    List.filter_eq_nil_iff.mpr fun c _ => by simp [State.heldBy_nil empty c]
  have none_full : ((c0 :: cs).any fun c => decide (16 ≤ (v.rowbuf.filter fun i => i.course == c && i.valid).length)) = false := by
    simp [empty]
  rw [exec_rowSequencerIssue, execRowSequencerIssue, State.rowIssue, runs]
  dsimp only
  rw [← shared, sound]
  dsimp only
  rw [State.rowDrain_nil empty, none_held, none_full]
  dsimp only
  rw [if_neg (by simpa using ready)]
  rfl

/-! ### The bundle as each column latches it (R364) -/

theorem State.rowLatch_issues (s : State) (cs : List Nat) (pc : Word) (b : Bundle) :
    (s.rowLatch cs pc b).1.map (fun p => (p.1.course, p.1.pc, p.1.bundle)) = cs.map fun c => (c, pc, b) := by
  have folded : ∀ (cs : List Nat) (acc : List (Issue × Verdict) × State),
      (cs.foldl (fun (acc : List (Issue × Verdict) × State) c =>
        let x := acc.2.course c
        let s1 := acc.2.latch c pc b x.ready true
        (acc.1 ++ [(s1.iss, s1.verdict (bInstrs b))], s1)) acc).1.map (fun p => (p.1.course, p.1.pc, p.1.bundle)) =
      acc.1.map (fun p => (p.1.course, p.1.pc, p.1.bundle)) ++ cs.map fun c => (c, pc, b) := by
    intro cs
    induction cs with
    | nil => intro acc; rw [List.map_nil, List.append_nil]; rfl
    | cons c cs ih =>
      intro acc
      rw [List.foldl_cons, ih, List.map_append, List.append_assoc]
      rfl
  exact folded cs ([], s)

section select
variable {s f t : State} {cs : List Nat} {c0 : Nat} {pc : Word} {m : Mask} {bs : List Byte} {b : Bundle}
  {l : List (Issue × Verdict)} (fetched : s.fetchBytes c0 pc = (some bs, f)) (decoded : decodeBytes bs = .ok b)
  (legal_ : (f.course c0).ill (wordsOf bs) (.ok b) = none)
  (ready : (((bInstrs b).map scalarsOf).flatten.any (f.course c0).sBusy) = false) (latched : f.rowLatch cs pc b = (l, t))
  (untrapped : rowTrap (t.rowSlot0 l b ++ l) = none)
include fetched decoded legal_ ready latched untrapped

/-- With nothing held back the bundle goes to every column at once, or slot 0 goes alone as far as it can (R365, R366). -/
theorem State.rowSelect_eq : s.rowSelect cs [] c0 pc m =
    if rowSyncs b then t.rowTogether l (f.course c0) pc m
    else if !((t.rowSlot0 l b).all fun p => p.2.goes) then t.rowFill (t.rowSlot0 l b)
    else t.rowApart l [] (f.course c0) pc m := by
  have free : (l.filter fun p => !([] : List Nat).contains p.1.course) = l := List.filter_eq_self.mpr fun _ _ => rfl
  unfold State.rowSelect
  rw [fetched]
  dsimp only
  rw [decoded, legal_]
  dsimp only
  rw [ready, latched]
  dsimp only
  rw [free, untrapped]
  dsimp only
  simp

end select

/-! ### A bundle that every column issues or none (R366) -/

theorem State.rowTogether_goes {s v : State} {l : List (Issue × Verdict)} {lead : Course} {pc : Word} {m : Mask}
    (go : ∀ p ∈ l, p.2 = .go) (room : s.collFull (l.tail.map (·.1)) ((l.head?.map (·.1)).getD Issue.idle) = false)
    (allowed : s.rowAdmit l = (some true, v)) (stands : v.rowLost l = false) {p : Issue × Verdict} (listed : p ∈ l) :
    ({ p.1 with pass := true, lead := some lead } : Issue) ∈ (s.rowTogether l lead pc m).rowq := by
  have all : (l.all fun p => p.2.goes) = true := List.all_eq_true.mpr fun p listed => by rw [go p listed]; rfl
  unfold State.rowTogether
  split
  · next st found =>
    obtain ⟨q, inside, asleep⟩ := List.exists_of_findSome?_eq_some found
    rw [go q inside] at asleep
    cases asleep
  rw [all, room, Bool.not_true, Bool.or_false, if_neg Bool.false_ne_true, allowed]
  dsimp only
  rw [stands, if_neg Bool.false_ne_true]
  cases l with
  | nil => cases listed
  | cons q l =>
    dsimp only
    rcases List.mem_cons.mp listed with rfl | later
    · exact List.mem_append_right _ (List.mem_singleton_self _)
    · exact List.mem_append_left _ (List.mem_append_right _ (List.mem_map_of_mem later))

/-! ### A bundle that each column issues when it can (R364, R365) -/

@[simp] theorem State.spillOne_rowbuf (s : State) (c : Nat) (cap : Bool) (excl : List Loc) :
    (s.spillOne c cap excl).rowbuf = s.rowbuf := by
  unfold State.spillOne State.onLoc
  split <;> simp

@[simp] theorem State.spillMany_rowbuf (s : State) (c : Nat) (cap : Bool) (excl : List Loc) (n : Nat) :
    (s.spillMany c cap excl n).rowbuf = s.rowbuf := by
  induction n generalizing s with
  | zero => rfl
  | succ n ih => rw [State.spillMany, ih, State.spillOne_rowbuf]

@[simp] theorem State.drawFor_rowbuf (s : State) (l : List Instr) : (s.drawFor l).2.rowbuf = s.rowbuf := by
  unfold State.drawFor State.draw
  dsimp only
  (repeat' split) <;> simp

/-- Whether a column can issue the whole of a bundle now, its registers drawn. -/
def State.rowDraw (held : List Nat) (acc : List Issue × State) (p : Issue × Verdict) (i : Issue) : Bool × State :=
  if held.contains p.1.course || !p.2.goes || acc.2.collFull acc.1 i then (false, acc.2)
  else { acc.2 with iss := p.1 }.drawFor (bInstrs p.1.bundle)

theorem State.rowDraw_rowbuf (held : List Nat) (acc : List Issue × State) (p : Issue × Verdict) (i : Issue) :
    (State.rowDraw held acc p i).2.rowbuf = acc.2.rowbuf := by
  unfold State.rowDraw
  split
  · rfl
  · exact State.drawFor_rowbuf _ _

/-- One column of a bundle that goes apart: it issues the whole, or slot 0 alone with the rest held back. -/
def State.rowOne (held : List Nat) (lead : Course) (acc : List Issue × State) (p : Issue × Verdict) : List Issue × State :=
  let i : Issue := { p.1 with pass := true, lead := some lead }
  let d := State.rowDraw held acc p i
  let own := ownWrites i.bundle.i0
  if d.1 then (acc.1 ++ [i], d.2)
  else (acc.1 ++ [{ i with bundle := bSlot0 i.bundle, lone := true }],
        { d.2 with rowbuf := d.2.rowbuf ++ [{ i with
            pass := false, bundle := if own then i.bundle else bRest i.bundle, late := if own then some i.src else none }] })

theorem State.rowApart_eq (s : State) (l : List (Issue × Verdict)) (held : List Nat) (lead : Course) (pc : Word) (m : Mask) :
    s.rowApart l held lead pc m =
      let r := l.foldl (State.rowOne held lead) ([], s)
      let s1 := l.foldl (fun s p => s.onCourse p.1.course fun x => x.advance m pc true) r.2.drop
      { s1 with rowq := s1.rowq ++ r.1.tail ++ r.1.head?.toList } := rfl

/-- A column has its bundle among those that issue, whole or slot 0 alone with the rest among those held back. -/
def Sent (p : Issue × Verdict) (issues held : List Issue) : Prop :=
  ∃ i ∈ issues, i.course = p.1.course ∧ i.pc = p.1.pc ∧ i.pass = true ∧ i.bundle.i0 = p.1.bundle.i0 ∧
    (i.bundle = p.1.bundle ∨ (i.lone = true ∧ ∃ j ∈ held, j.course = p.1.course ∧ j.pc = p.1.pc ∧
      j.bundle.i1 = p.1.bundle.i1 ∧ j.bundle.i2 = p.1.bundle.i2 ∧ j.bundle.i3 = p.1.bundle.i3))

theorem Sent.mono {p : Issue × Verdict} {issues held issues' held' : List Issue} (sent : Sent p issues held)
    (more : issues ⊆ issues') (later : held ⊆ held') : Sent p issues' held' := by
  obtain ⟨i, listed, course, pc, pass, slot, whole | ⟨lone, j, waits, rest⟩⟩ := sent
  · exact ⟨i, more listed, course, pc, pass, slot, .inl whole⟩
  · exact ⟨i, more listed, course, pc, pass, slot, .inr ⟨lone, j, later waits, rest⟩⟩

/-- One column is sent on, and what the columns before have stays. -/
theorem State.rowOne_sent (held : List Nat) (lead : Course) (acc : List Issue × State) (p : Issue × Verdict) :
    Sent p (State.rowOne held lead acc p).1 (State.rowOne held lead acc p).2.rowbuf ∧
      acc.1 ⊆ (State.rowOne held lead acc p).1 ∧ acc.2.rowbuf ⊆ (State.rowOne held lead acc p).2.rowbuf := by
  unfold State.rowOne
  dsimp only
  have kept := State.rowDraw_rowbuf held acc p { p.1 with pass := true, lead := some lead }
  generalize State.rowDraw held acc p _ = d at kept ⊢
  split
  · exact ⟨⟨_, List.mem_append_right _ (List.mem_singleton_self _), rfl, rfl, rfl, rfl, .inl rfl⟩,
      List.subset_append_left _ _, kept ▸ List.Subset.refl _⟩
  · refine ⟨⟨_, List.mem_append_right _ (List.mem_singleton_self _), rfl, rfl, rfl, rfl, .inr ⟨rfl, _,
      List.mem_append_right _ (List.mem_singleton_self _), rfl, rfl, ?_⟩⟩,
      List.subset_append_left _ _, kept ▸ List.subset_append_left _ _⟩
    dsimp only
    split <;> exact ⟨rfl, rfl, rfl⟩

theorem State.rowOnes_sent (held : List Nat) (lead : Course) (l : List (Issue × Verdict)) (acc : List Issue × State) :
    let r := l.foldl (State.rowOne held lead) acc
    (∀ p ∈ l, Sent p r.1 r.2.rowbuf) ∧ acc.1 ⊆ r.1 ∧ acc.2.rowbuf ⊆ r.2.rowbuf := by
  induction l generalizing acc with
  | nil => exact ⟨fun p listed => absurd listed List.not_mem_nil, List.Subset.refl _, List.Subset.refl _⟩
  | cons p l ih =>
    obtain ⟨sent, more, later⟩ := State.rowOne_sent held lead acc p
    obtain ⟨rest, more', later'⟩ := ih (State.rowOne held lead acc p)
    refine ⟨fun q listed => ?_, List.Subset.trans more more', List.Subset.trans later later'⟩
    rcases List.mem_cons.mp listed with rfl | behind
    · exact sent.mono more' later'
    · exact rest q behind

theorem mem_of_tail_head {α : Type} {a : α} (l q : List α) (listed : a ∈ l) : a ∈ q ++ l.tail ++ l.head?.toList := by
  cases l with
  | nil => cases listed
  | cons b l =>
    rcases List.mem_cons.mp listed with rfl | later
    · exact List.mem_append_right _ (List.mem_singleton_self _)
    · exact List.mem_append_left _ (List.mem_append_right _ later)

theorem State.rowApart_sent (s : State) (l : List (Issue × Verdict)) (held : List Nat) (lead : Course) (pc : Word) (m : Mask)
    {p : Issue × Verdict} (listed : p ∈ l) :
    Sent p (s.rowApart l held lead pc m).rowq (s.rowApart l held lead pc m).rowbuf := by
  rw [State.rowApart_eq]
  obtain ⟨sent, -⟩ := State.rowOnes_sent held lead l ([], s)
  dsimp only at sent ⊢
  generalize l.foldl (State.rowOne held lead) ([], s) = r at sent ⊢
  have kept := State.foldl_keeps State.rowbuf (fun t (p : Issue × Verdict) =>
    State.onCourse_rowbuf t p.1.course fun x => x.advance m pc true) l r.2.drop
  refine (sent p listed).mono (fun i listed => mem_of_tail_head _ _ listed) ?_
  rw [kept]
  exact List.Subset.refl _

/-- Settles O52, one law for each outcome of each event; a column that starts is `startColumn_keeps` and
`startColumn_column`, and a bundle that goes to the columns apart is `State.rowApart_sent`. -/
theorem queueEvents : Obligations.QueueEvents := by
  refine ⟨fun s ctx off bs => ⟨exec_portalWrite_nowhere, fun c present up => ⟨exec_portalWrite_noPacket present up,
      fun whole aligned portal => ⟨exec_portalWrite_noQueue present up whole aligned portal, fun x queue =>
        ⟨exec_portalWrite_retry present up whole aligned portal queue, fun room draining error u =>
          exec_portalWrite_put present up whole aligned portal queue room draining error⟩⟩⟩⟩,
    fun s ctx q k ring c present index least most none_ => ⟨_, exec_queueCreate_creates present index least most none_,
      (State.onCtx_spec present _).1, ?_⟩,
    fun s ctx q c x => queueDestroy_leaves,
    fun s die slot w0 w1 => bindRecordWrite_waits w0 w1,
    fun s u die n w slot bound record => ⟨exec_spireWindow_idle slot bound record, fun valid sound q queue =>
      ⟨exec_spireWindow_held slot bound record valid sound queue, fun state some_ bs v =>
        exec_spireWindow_reads slot bound record valid sound queue state some_⟩⟩,
    fun s u p x w v present waits => ⟨exec_waitPacketComplete_answered present waits,
      exec_waitPacketComplete_reads present waits, State.finishWait_met⟩,
    fun s p row x r present waiting => ⟨exec_streamStart_waits present waiting, fun areas data v free fits read =>
      ⟨_, _, State.startColumns_length _ r x.die areas data, State.startColumns_eq _ r x.die areas data, exec_streamStart_starts present waiting free fits read⟩⟩,
    fun s t r die col area id data fresh starts => ?_,
    fun s u die row ticked => ⟨fun r c0 cs started courses held =>
      exec_rowSequencerIssue_none ticked (State.running_none started courses held),
      fun c0 cs v x runs shared sound empty lead ready =>
        exec_rowSequencerIssue_selects ticked runs shared sound empty lead ready⟩,
    fun s f t cs c0 pc m bs b l fetched decoded legal_ ready latched untrapped => ?_,
    fun s l lead pc m => ⟨fun v go room allowed stands p => State.rowTogether_goes go room allowed stands,
      fun held p => s.rowApart_sent l held lead pc m⟩⟩
  · rw [State.ctx_onCtx_self present]
    exact tget_tset_self _ _ _
  · obtain ⟨unused, courses, -⟩ := startColumn_keeps fresh starts
    exact ⟨unused, courses, startColumn_column fresh starts⟩
  · have chosen := State.rowSelect_eq (m := m) fetched decoded legal_ ready latched untrapped
    refine ⟨?_, fun syncs => by rw [chosen, if_pos syncs], fun apart goes => ?_⟩
    · have issues := f.rowLatch_issues cs pc b
      rwa [latched] at issues
    · rw [chosen, if_neg (by simp [apart]), if_neg (by simp [goes])]

end Sys2Proof.Machine

/-!
# Decoding and encoding

The round trip through the encoder (`Laws.Encodes.statement` collects the lemma of every constructor), what the decoder can
answer (`OfSlot`, once for each slot's map), and the sixteen bytes of a bundle of one instruction.
-/

namespace Sys2Proof.Laws.Encodes

open Sys2Proof Sys2Proof.Laws

/-- Every instruction decodes from its own encoding: the lemma of each constructor (R105 to R116). -/
theorem statement : ∀ i : Instr, Statement i
  | .bra disp => bra disp | .brp p disp => brp p disp | .brs s i => brs s i | .brx a ua => brx a ua
  | .call disp => call disp | .callx a ua => callx a ua | .loopi n => loopi n | .loop disp => loop disp
  | .jarm j => jarm j | .jwait j => jwait j | .trap c => trap c | .waitc n t => waitc n t | .mfs d i => mfs d i
  | .mts a i => mts a i | .save a b => save a b | .rest a b => rest a b | .govq d => govq d
  | .sadd d a b => sadd d a b | .ssub d a b => ssub d a b | .smul d a b => smul d a b
  | .smulh d a b u => smulh d a b u | .sand d a b => sand d a b | .sor d a b => sor d a b | .sxor d a b => sxor d a b
  | .sshl d a b => sshl d a b | .sshlImm d a k => sshlImm d a k | .sshr d a b => sshr d a b
  | .sshrImm d a k => sshrImm d a k | .ssra d a b => ssra d a b | .ssraImm d a k => ssraImm d a k
  | .smin d a b u => smin d a b u | .smax d a b u => smax d a b u | .scmp d a b c => scmp d a b c
  | .saddi d a i => saddi d a i | .sli d i => sli d i | .slih d i => slih d i | .ssel d a b c => ssel d a b c
  | .sld d a i => sld d a i | .sst a b i => sst a b i | .vtos d a ua lane => vtos d a ua lane
  | .vtosF d a ua => vtosF d a ua | .sclz d a => sclz d a | .spopc d a => spopc d a
  | .iadd d a b ua ub x => iadd d a b ua ub x | .isub d a b ua ub x => isub d a b ua ub x
  | .iaddc d a b ua ub x c uc => iaddc d a b ua ub x c uc | .imul d a b ua ub => imul d a b ua ub
  | .imulh d a b ua ub => imulh d a b ua ub | .imulhu d a b ua ub => imulhu d a b ua ub
  | .imad d a b ua ub c uc => imad d a b ua ub c uc | .imin d a b ua ub => imin d a b ua ub
  | .imax d a b ua ub => imax d a b ua ub | .iminu d a b ua ub => iminu d a b ua ub
  | .imaxu d a b ua ub => imaxu d a b ua ub | .iabs d a ua => iabs d a ua | .and d a b ua ub => and d a b ua ub
  | .or d a b ua ub => or d a b ua ub | .xor d a b ua ub => xor d a b ua ub | .andn d a b ua ub => andn d a b ua ub
  | .shl d a b ua ub => shl d a b ua ub | .shlImm d a n ua => shlImm d a n ua | .shr d a b ua ub => shr d a b ua ub
  | .shrImm d a n ua => shrImm d a n ua | .sra d a b ua ub => sra d a b ua ub | .sraImm d a n ua => sraImm d a n ua
  | .rol d a b ua ub => rol d a b ua ub | .rolImm d a n ua => rolImm d a n ua
  | .bfx d a b ua ub x => bfx d a b ua ub x | .bfi d a b ua ub c uc => bfi d a b ua ub c uc
  | .popc d a ua => popc d a ua | .clz d a ua => clz d a ua | .brev d a ua => brev d a ua
  | .icmp c p a b ua ub x => icmp c p a b ua ub x | .sel d a b ua ub p => sel d a b ua ub p
  | .mov d a ua => mov d a ua | .li d k => li d k | .lih d k => lih d k | .iaddi d a ua imm => iaddi d a ua imm
  | .tag d a t ua => tag d a t ua | .pset p a ua => pset p a ua | .pget d => pget d | .vfree a => vfree a
  | .fadd d a b ua ub => fadd d a b ua ub | .fsub d a b ua ub => fsub d a b ua ub
  | .fmul d a b ua ub => fmul d a b ua ub | .ffma d a b ua ub c uc => ffma d a b ua ub c uc
  | .fmin d a b ua ub => fmin d a b ua ub | .fmax d a b ua ub => fmax d a b ua ub
  | .fminn d a b ua ub => fminn d a b ua ub | .fmaxn d a b ua ub => fmaxn d a b ua ub | .fabs d a ua => fabs d a ua
  | .fneg d a ua => fneg d a ua | .fcmp c p a b ua ub x => fcmp c p a b ua ub x
  | .fclmp d a b ua ub c uc => fclmp d a b ua ub c uc | .frnd d a r ua => frnd d a r ua
  | .ffrac d a ua => ffrac d a ua | .frcp d a ua => frcp d a ua | .frsq d a ua => frsq d a ua
  | .fsqrt d a ua => fsqrt d a ua | .fex2 d a ua => fex2 d a ua | .flg2 d a ua => flg2 d a ua
  | .fsin d a ua => fsin d a ua | .fcos d a ua => fcos d a ua | .fcvt d a n r t ua => fcvt d a n r t ua
  | .icvtf d a r t ua => icvtf d a r t ua | .fcvti d a r t ua => fcvti d a r t ua
  | .hadd2 d a b ua ub => hadd2 d a b ua ub | .hmul2 d a b ua ub => hmul2 d a b ua ub
  | .hfma2 d a b ua ub c uc => hfma2 d a b ua ub c uc | .fdot4 d a b ua ub c uc => fdot4 d a b ua ub c uc
  | .fdot8 d a b ua ub c uc => fdot8 d a b ua ub c uc | .pack d a b ua ub x => pack d a b ua ub x
  | .unpk d a k ua => unpk d a k ua | .xshf d a b ua ub m => xshf d a b ua ub m
  | .xrot d a b ua ub m => xrot d a b ua ub m | .xbc d a b ua ub m => xbc d a b ua ub m
  | .xstep d a b ua ub m => xstep d a b ua ub m | .xred d a o ua m => xred d a o ua m
  | .xscn d a e o ua m => xscn d a e o ua m | .xbal d a h ua m => xbal d a h ua m | .xcnt d a ua m => xcnt d a ua m
  | .xfst d a ua m => xfst d a ua m | .rsvup d a b ua ub c uc => rsvup d a b ua ub c uc
  | .rsvmrg d a b ua ub => rsvmrg d a b ua ub | .rsvfin d a b ua ub => rsvfin d a b ua ub
  | .aadd d a b ua ub => aadd d a b ua ub | .ashl d a b ua ub => ashl d a b ua ub
  | .ashlImm d a n ua => ashlImm d a n ua | .aand d a b ua ub => aand d a b ua ub | .amov d a ua => amov d a ua
  | .ali d k => ali d k | .aform d a b ua ub x => aform d a b ua ub x
  | .ldB t s o ac uo nt off => ldB t s o ac uo nt off | .ldBs t s o ac uo nt off => ldBs t s o ac uo nt off
  | .ldH t s o ac uo nt off => ldH t s o ac uo nt off | .ldHs t s o ac uo nt off => ldHs t s o ac uo nt off
  | .ldW t s o ac uo nt off => ldW t s o ac uo nt off | .ldd t s o ac uo nt off => ldd t s o ac uo nt off
  | .ldq t s o ac uo nt off => ldq t s o ac uo nt off | .ldc t s ac nt off => ldc t s ac nt off
  | .ldu t s ac nt off => ldu t s ac nt off | .ldsB t s o ac uo off => ldsB t s o ac uo off
  | .ldsBs t s o ac uo off => ldsBs t s o ac uo off | .ldsH t s o ac uo off => ldsH t s o ac uo off
  | .ldsHs t s o ac uo off => ldsHs t s o ac uo off | .ldsW t s o ac uo off => ldsW t s o ac uo off
  | .ldsc t s ac off => ldsc t s ac off | .stB t s o ac ut uo nt off => stB t s o ac ut uo nt off
  | .stH t s o ac ut uo nt off => stH t s o ac ut uo nt off | .stW t s o ac ut uo nt off => stW t s o ac ut uo nt off
  | .std t s o ac ut uo nt off => std t s o ac ut uo nt off | .stq t s o ac ut uo nt off => stq t s o ac ut uo nt off
  | .stc t s ac ut nt off => stc t s ac ut nt off | .stsB t s o ac ut uo off => stsB t s o ac ut uo off
  | .stsH t s o ac ut uo off => stsH t s o ac ut uo off | .stsW t s o ac ut uo off => stsW t s o ac ut uo off
  | .stsc t s ac ut off => stsc t s ac ut off | .amo t s o ac ut uo rv op => amo t s o ac ut uo rv op
  | .cas t s o ac ut uo rv c uc => cas t s o ac ut uo rv c uc
  | .amos t s o ac ut uo rv op => amos t s o ac ut uo rv op
  | .cass t s o ac ut uo rv c uc => cass t s o ac ut uo rv c uc
  | .waita t s o ac ut uo to_ cond acq scope ext => waita t s o ac ut uo to_ cond acq scope ext
  | .sig t s o ac ut uo op rel scope ext => sig t s o ac ut uo op rel scope ext
  | .fence kind scope ext => fence kind scope ext | .lda t s o ac uo scope ext => lda t s o ac uo scope ext
  | .stl t s o ac ut uo scope ext => stl t s o ac ut uo scope ext | .pref dc s o ac uo off => pref dc s o ac uo off
  | .wbr s n => wbr s n | .invr s n => invr s n | .trace t s o flags => trace t s o flags
  | .tracec t s o flags h => tracec t s o flags h | .visq t s o uo n => visq t s o uo n
  | .tsamp t s o flt adr lod => tsamp t s o flt adr lod | .tsize t s l => tsize t s l | .mzero m k => mzero m k
  | .mchb m ord k => mchb m ord k | .mche m k => mche m k | .mma m a b c fmt k => mma m a b c fmt k
  | .macl m d g k => macl m d g k | .mdst m a b mem cvt op k => mdst m a b mem cvt op k
  | .mstg m a b c fmt k => mstg m a b c fmt k | .shp m a n => shp m a n | .cpy m n => cpy m n | .cpym m n => cpym m n
  | .owng m a => owng m a | .ownt m a => ownt m a | .qcfg m a b q => qcfg m a b q | .qpush m a q => qpush m a q
  | .qpop m d q => qpop m d q | .qtry m d q => qtry m d q | .tsub m a => tsub m a | .tdep m a => tdep m a
  | .emit m a i => emit m a i | .cont m a b k => cont m a b k | .keyrel m a => keyrel m a
  | .qsub m d a b => qsub m d a b | .cred m a b c o n => cred m a b c o n | .cbc m a b c n => cbc m a b c n
  | .cag m a b c n => cag m a b c n | .crs m a b c o n => crs m a b c o n
  | .coreIssueCycle die core => coreIssueCycle die core | .spillComplete course v => spillComplete course v
  | .fillComplete course v => fillComplete course v | .loadPerformed course op => loadPerformed course op
  | .storePerformed course op => storePerformed course op | .atomicPerformed course op => atomicPerformed course op
  | .faultRecordWrite ctx fid => faultRecordWrite ctx fid | .waitaWake course lane => waitaWake course lane
  | .waitaPoll course lane => waitaPoll course lane | .waitaTimeout course lane => waitaTimeout course lane
  | .preemptDeadlineExpiry course => preemptDeadlineExpiry course | .forcedSave course => forcedSave course
  | .courseResume course => courseResume course | .blockBind die block => blockBind die block
  | .blockAdmission die core => blockAdmission die core | .mmaComplete die core k => mmaComplete die core k
  | .mzeroComplete die core k => mzeroComplete die core k | .mcheComplete die core k => mcheComplete die core k
  | .mdstComplete die core k => mdstComplete die core k | .maclLanding die core k => maclLanding die core k
  | .copyStart die core k => copyStart die core k | .copyComplete die core k target => copyComplete die core k target
  | .stagingUnitArrival die core k => stagingUnitArrival die core k
  | .stagingUnitDrain dir u target => stagingUnitDrain dir u target | .collectiveStart k => collectiveStart k
  | .collectiveComplete k => collectiveComplete k | .taskGrant task => taskGrant task
  | .tdepDecrement die => tdepDecrement die | .keyrelEffect die k => keyrelEffect die k
  | .continuationWake course => continuationWake course | .graphBlockBind die block => graphBlockBind die block
  | .spireWindow die => spireWindow die | .waitPacketComplete pkt => waitPacketComplete pkt
  | .streamStart pkt row => streamStart pkt row | .quantumExpiry block => quantumExpiry block
  | .ageingStep block => ageingStep block | .watchdogFire die ctx => watchdogFire die ctx
  | .fixedFunctionRequestPerformed course op => fixedFunctionRequestPerformed course op
  | .scalarAccessPerformed course op => scalarAccessPerformed course op
  | .dispatcherResultWritten course => dispatcherResultWritten course
  | .rowSequencerIssue die row => rowSequencerIssue die row | .fairnessExpiry course => fairnessExpiry course
  | .resultLanding course k => resultLanding course k | .asyncTrapDelivery course => asyncTrapDelivery course
  | .portalWrite ctx off bytes => portalWrite ctx off bytes | .queueCreate ctx q k ring => queueCreate ctx q k ring
  | .queueDestroy ctx q => queueDestroy ctx q | .bindRecordWrite die slot w0 w1 => bindRecordWrite die slot w0 w1
  | .ctxpdlWrite die v => ctxpdlWrite die v | .ktrepWrite die v => ktrepWrite die v
  | .tlbinvnWrite v => tlbinvnWrite v | .tlbinvWrite v => tlbinvWrite v
  | .fltrespRetry ctx fid => fltrespRetry ctx fid | .fltrespFailUnmapped ctx fid => fltrespFailUnmapped ctx fid
  | .fltrespFailPermission ctx fid => fltrespFailPermission ctx fid | .govstepWrite ctx v => govstepWrite ctx v
  | .govdWrite ctx v => govdWrite ctx v | .registerWrite reg v => registerWrite reg v
  | .dieCacheWriteback pa wr => dieCacheWriteback pa wr
  | .hostBarAccess wr off n bytes => hostBarAccess wr off n bytes
  | .pcieCompletion req ok status data => pcieCompletion req ok status data
  | .pcieRequestTimeout req => pcieRequestTimeout req | .softErrorCorrected die src => softErrorCorrected die src
  | .uncorrectableError course src addr => uncorrectableError course src addr
  | .coreLoss die core => coreLoss die core | .mortarLaneFail link => mortarLaneFail link
  | .thermalStepUp die sensor reading => thermalStepUp die sensor reading
  | .thermalStepDown die reading => thermalStepDown die reading
  | .thermalStop die sensor reading => thermalStop die sensor reading
  | .thermalResume die reading => thermalResume die reading | .powerOn a b ilv => powerOn a b ilv
  | .negotiateAlgorithms offered => negotiateAlgorithms offered
  | .getCertificate slot off n => getCertificate slot off n | .challenge slot nonce => challenge slot nonce
  | .getMeasurements idx nonce sign => getMeasurements idx nonce sign
  | .contextCreate ctx cbase => contextCreate ctx cbase | .contextReset ctx => contextReset ctx
  | .flitRead f => flitRead f | .flitWrite f => flitWrite f | .flitAtomic f => flitAtomic f
  | .flitReduce f => flitReduce f | .flitMessage f => flitMessage f | .flitResponse f => flitResponse f
  | .flitReceive port bytes => flitReceive port bytes | .flitReplayTimeout port => flitReplayTimeout port
  | .linkTrainTimeout port => linkTrainTimeout port | .fabricRequestTimeout tag => fabricRequestTimeout tag
  | .responseRetentionExpiry src tag => responseRetentionExpiry src tag
  | .linkTrained port lanes => linkTrained port lanes | .unitFailure kind die u => unitFailure kind die u
  | .transportUnreachableTimeout k member => transportUnreachableTimeout k member | .nop => nop | .ret => ret
  | .yld => yld | .exit => exit | .eret => eret | .pdone => pdone | .tlbinvDone => tlbinvDone
  | .svnFuseRaise => svnFuseRaise | .getVersion => getVersion | .getCapabilities => getCapabilities
  | .getDigests => getDigests | .powerLoss => powerLoss

end Sys2Proof.Laws.Encodes

namespace Sys2Proof.Machine

/-- Settles O1: each word is decoded by evaluation. -/
theorem decodedWords : Obligations.DecodedWords :=
  ⟨rfl, rfl, rfl, rfl, rfl, rfl, rfl, rfl, rfl, rfl, rfl⟩

/-- Settles O2: the lemma of each constructor, collected in `Laws.Encodes.statement`. -/
theorem decodeEncode : Obligations.DecodeEncode :=
  fun i h => Laws.Encodes.statement i h.1 h.2


/-! ### What the decoder accepts (R112 to R116) -/

/-- What a decoder answers is an error, or a slot word that suits the slot, whose opcode is not that of a header, and in
slot 0 without a lend. -/
def OfSlot (k op x : Nat) (r : DecodeResult) : Prop :=
  ∀ i, r = .ok i → isEvent i = false ∧ (slotOf i = k ∨ i = .nop) ∧ op < 192 ∧ (k = 0 → x = 0)

theorem OfSlot.error {k op x : Nat} {e : DecodeError} : OfSlot k op x (.error e) := fun _ h => nomatch h

theorem OfSlot.ok {k op x : Nat} {i : Instr} (he : isEvent i = false) (hs : (slotOf i == k || i == .nop) = true)
    (ho : op < 192) (hx : k = 0 → x = 0) : OfSlot k op x (.ok i) := by
  rintro _ ⟨rfl⟩
  exact ⟨he, by simpa using hs, ho, hx⟩

theorem fieldsOfSlot0_ofSlot (op w x : Nat) : OfSlot 0 op x (fieldsOfSlot0 op w x) := by
  unfold fieldsOfSlot0
  split <;> (repeat' split) <;>
    first | exact .error | exact .ok rfl rfl (by decide) fun _ => ‹x = 0›

theorem fieldsOfSlot1_ofSlot (op w x : Nat) : OfSlot 1 op x (fieldsOfSlot1 op w x) := by
  unfold fieldsOfSlot1
  split <;> (repeat' split) <;>
    first | exact .error | exact .ok rfl rfl (by decide) fun h => nomatch h

theorem fieldsOfSlot2_ofSlot (op w x : Nat) : OfSlot 2 op x (fieldsOfSlot2 op w x) := by
  unfold fieldsOfSlot2
  split <;> (repeat' split) <;>
    first | exact .error | exact .ok rfl rfl (by decide) fun h => nomatch h

theorem fieldsOfSlot3_ofSlot (op w x : Nat) : OfSlot 3 op x (fieldsOfSlot3 op w x) := by
  unfold fieldsOfSlot3
  split <;> (repeat' split) <;>
    first | exact .error | exact .ok rfl rfl (by decide) fun h => nomatch h

/-- A decoded word has fields that its row allows, and suits its slot; every slot past the third reads as the third. -/
theorem decodeSlot_ok {k : Nat} {w : Word} {x : BitVec 7} {i : Instr} (h : decodeSlot k w x = .ok i) :
    legal i = true ∧ OfSlot (min k 3) (w.toNat / 2 ^ 24) x.toNat (.ok i) := by
  unfold decodeSlot at h
  split at h
  next j hf =>
    split at h
    next hl =>
      obtain rfl := Except.ok.inj h
      refine ⟨hl, hf ▸ ?_⟩
      match k with
      | 0 => exact fieldsOfSlot0_ofSlot _ _ _
      | 1 => exact fieldsOfSlot1_ofSlot _ _ _
      | 2 => exact fieldsOfSlot2_ofSlot _ _ _
      | n + 3 => rw [Nat.min_eq_right (by omega)]; exact fieldsOfSlot3_ofSlot _ _ _
    next => cases h
  next => cases h

/-- The slot of an instruction is one of the four. -/
theorem SlotIns.slot_lt {i : Instr} (h : SlotIns i) : slotOf i < 4 := by
  obtain ⟨-, suits⟩ := decodeSlot_ok (decodeEncode i h)
  obtain ⟨-, hs | rfl, -⟩ := suits i rfl
  · omega
  · decide

/-! ### The bundle of one instruction (R98, R102, R105) -/

theorem wordOfBytes_bytesOfWord (w : Word) (l : List Byte) : wordOfBytes (bytesOfWord w ++ l) = w := by
  refine BitVec.eq_of_toNat_eq ?_
  have := w.isLt
  simp [wordOfBytes, bytesOfWord]
  omega

/-- Sixteen bytes of four words decode as these words. -/
theorem decodeBytes_words (a b c d : Word) :
    decodeBytes (bytesOfWord a ++ bytesOfWord b ++ bytesOfWord c ++ bytesOfWord d) = decodeBundle a b c d := by
  have second : (bytesOfWord a ++ (bytesOfWord b ++ (bytesOfWord c ++ bytesOfWord d))).drop 4 =
    bytesOfWord b ++ (bytesOfWord c ++ bytesOfWord d) := rfl
  have third : (bytesOfWord a ++ (bytesOfWord b ++ (bytesOfWord c ++ bytesOfWord d))).drop 8 =
    bytesOfWord c ++ bytesOfWord d := rfl
  have fourth : (bytesOfWord a ++ (bytesOfWord b ++ (bytesOfWord c ++ bytesOfWord d))).drop 12 = bytesOfWord d ++ [] := rfl
  rw [decodeBytes, if_neg (by simp [bytesOfWord])]
  simp only [List.append_assoc]
  rw [second, third, fourth]
  simp only [wordOfBytes_bytesOfWord]

/-- The header that lends x to one slot. -/
def lendTo (k x : Nat) : Header :=
  ⟨.ofNat 3 0, .ofNat 3 0, .ofNat 3 0, .ofNat 7 (if k = 1 then x else 0), .ofNat 7 (if k = 2 then x else 0), .ofNat 7 (if k = 3 then x else 0)⟩

theorem bf_ofNat (n lo w : Nat) : bf (BitVec.ofNat 32 n).toNat lo w = n % 2 ^ 32 / 2 ^ lo % 2 ^ w := by
  rw [bf, BitVec.toNat_ofNat]

/-- A nonzero lend needs a header word. -/
theorem isHeader_headerFor {k x : Nat} (hk : k = 1 ∨ k = 2 ∨ k = 3) (hx : x < 128) (h0 : x ≠ 0) :
    isHeader (.ofNat 32 (headerFor k x)) = true := by
  rcases hk with rfl | rfl | rfl <;> simp only [isHeader, bf_ofNat, headerFor, if_neg h0, beq_iff_eq] <;> omega

theorem decodeHeader_headerFor {k x : Nat} (hk : k = 1 ∨ k = 2 ∨ k = 3) (hx : x < 128) (h0 : x ≠ 0) :
    decodeHeader (.ofNat 32 (headerFor k x)) = lendTo k x := by
  simp only [decodeHeader, lendTo, bf_ofNat, Header.mk.injEq]
  rcases hk with rfl | rfl | rfl <;> simp only [headerFor, if_neg h0] <;> refine ⟨?_, ?_, ?_, ?_, ?_, ?_⟩ <;>
    refine BitVec.eq_of_toNat_eq ?_ <;> simp only [BitVec.toNat_ofNat, Nat.reduceEqDiff, OfNat.ofNat_ne_one, OfNat.one_ne_ofNat, reduceIte] <;> omega

/-- The word of slot 0 that lends to another slot: a header that does, or the NOP where it lends nothing. -/
theorem decode_headerFor {k x : Nat} (hk : k = 1 ∨ k = 2 ∨ k = 3) (hx : x < 128) :
    let w : Word := .ofNat 32 (headerFor k x)
    (if isHeader w then decodeHeader w else Header.none) = lendTo k x ∧
      (if isHeader w then .ok .nop else decodeSlot 0 w 0 : DecodeResult) = .ok .nop := by
  by_cases h0 : x = 0
  · subst h0
    rcases hk with rfl | rfl | rfl <;> exact ⟨rfl, rfl⟩
  · exact ⟨(if_pos (isHeader_headerFor hk hx h0)).trans (decodeHeader_headerFor hk hx h0),
      if_pos (isHeader_headerFor hk hx h0)⟩

theorem encodeLend_lt (i : Instr) : encodeLend i < 128 := by
  unfold encodeLend
  split <;> first | exact Nat.two_pow_pos 7 | exact Laws.place_lt (t := 7) rfl

theorem decodeSlot_zero {k : Nat} (h : k < 4) : decodeSlot k 0 0 = .ok .nop := by
  match k, h with
  | 0, _ | 1, _ | 2, _ | 3, _ => rfl

/-- Four words that are instructions make a bundle. -/
theorem decodeBundle_ok {w0 w1 w2 w3 : Word} {hdr : Header} {i0 i1 i2 i3 : Instr}
    (hh : (if isHeader w0 then decodeHeader w0 else Header.none) = hdr)
    (h0 : (if isHeader w0 then .ok .nop else decodeSlot 0 w0 0 : DecodeResult) = .ok i0)
    (h1 : decodeSlot 1 w1 hdr.x1 = .ok i1) (h2 : decodeSlot 2 w2 hdr.x2 = .ok i2) (h3 : decodeSlot 3 w3 hdr.x3 = .ok i3) :
    decodeBundle w0 w1 w2 w3 = .ok ⟨hdr, i0, i1, i2, i3⟩ := by
  simp only [decodeBundle, hh, h0, h1, h2, h3]

/-- A word of slot 0 that decodes without a lend is no header. -/
theorem decodeSlot_zero_not_header {w : Word} {i : Instr} (h : decodeSlot 0 w 0 = .ok i) : isHeader w = false := by
  obtain ⟨-, suits⟩ := decodeSlot_ok h
  obtain ⟨-, -, opcode, -⟩ := suits i rfl
  simp only [isHeader, bf, beq_eq_false_iff_ne]
  omega

/-- The bundle of one instruction decodes to it in its slot, and to NOPs beside it. -/
theorem decodeBytes_bundleOf {k w x : Nat} {i : Instr} (hk : k < 4) (hx : x < 128)
    (h : decodeSlot k (.ofNat 32 w) (.ofNat 7 x) = .ok i) :
    ∃ b, decodeBytes (bundleOf k w x) = .ok b ∧ b.slot k = i ∧ ∀ j, j < 4 → j ≠ k → b.slot j = .nop := by
  have nop : ∀ j, j < 4 → decodeSlot j 0 0 = .ok .nop := fun j => decodeSlot_zero
  rw [bundleOf, decodeBytes_words]
  match k, hk with
  | 0, _ =>
    obtain ⟨-, suits⟩ := decodeSlot_ok h
    obtain ⟨-, -, -, lend⟩ := suits i rfl
    rw [show BitVec.ofNat 7 x = 0 from BitVec.eq_of_toNat_eq (lend rfl)] at h
    have plain := decodeSlot_zero_not_header h
    refine ⟨⟨Header.none, i, .nop, .nop, .nop⟩, decodeBundle_ok (if_neg (by simp [plain])) ?_ (nop 1 (by decide))
      (nop 2 (by decide)) (nop 3 (by decide)), rfl, fun j hj hne => ?_⟩
    · exact (if_neg (by simp [plain])).trans h
    · match j, hj with
      | 1, _ | 2, _ | 3, _ => rfl
  | 1, _ =>
    obtain ⟨hdr, first⟩ := decode_headerFor (k := 1) (by simp) hx
    refine ⟨_, decodeBundle_ok hdr first h (nop 2 (by decide)) (nop 3 (by decide)), rfl, fun j hj hne => ?_⟩
    match j, hj with
    | 0, _ | 2, _ | 3, _ => rfl
  | 2, _ =>
    obtain ⟨hdr, first⟩ := decode_headerFor (k := 2) (by simp) hx
    refine ⟨_, decodeBundle_ok hdr first (nop 1 (by decide)) h (nop 3 (by decide)), rfl, fun j hj hne => ?_⟩
    match j, hj with
    | 0, _ | 1, _ | 3, _ => rfl
  | 3, _ =>
    obtain ⟨hdr, first⟩ := decode_headerFor (k := 3) (by simp) hx
    refine ⟨_, decodeBundle_ok hdr first (nop 1 (by decide)) (nop 2 (by decide)) h, rfl, fun j hj hne => ?_⟩
    match j, hj with
    | 0, _ | 1, _ | 2, _ => rfl
    | 3, _ => exact absurd rfl hne

/-- Settles O3: `OfSlot` says what each slot's map answers, and `decodeBytes_bundleOf` reads the bundle word by word. -/
theorem decodedForms : Obligations.DecodedForms := by
  refine ⟨fun k w x i hk h => ?_, fun i h => ?_⟩
  · obtain ⟨allowed, suits⟩ := decodeSlot_ok h
    obtain ⟨word, slot, -⟩ := suits i rfl
    rw [Nat.min_eq_left (by omega)] at slot
    exact ⟨⟨word, allowed⟩, slot⟩
  · exact decodeBytes_bundleOf h.slot_lt (encodeLend_lt i) (decodeEncode i h)

end Sys2Proof.Machine

/-!
# The step and the landing of a write

One slot of a bundle in issue (R47, R100, R220, R421), and the merge rule of a write that lands (R54).
-/

namespace Sys2Proof.Machine

/-! ### The step (R47, R100, R220, R421) -/

/-- A slot that acts runs its instruction, unless that reads a register in which an error lies (R220). -/
theorem runSlot_eq {s : State} {k : Nat} (valid : s.iss.valid = true) (word : isEvent (s.iss.bundle.slot k) = false)
    (own : k = 0 → s.iss.follower = false ∨ rowOnce s.iss.bundle.i0 = false) :
    runSlot k s = match s.poolMet (s.iss.bundle.slot k) with
      | some a => .next (s.poolFails a)
      | none => exec (s.iss.bundle.slot k) s := by
  have acts : (s.iss.valid && !isEvent (s.iss.bundle.slot k) &&
      !(k == 0 && s.iss.follower && rowOnce (s.iss.bundle.slot k))) = true := by
    rw [valid, word]
    by_cases hk : k = 0
    · subst hk
      rcases own rfl with h | h
      · simp [h]
      · have : rowOnce (s.iss.bundle.slot 0) = false := h
        simp [this]
    · simp [hk]
  exact if_pos acts

theorem readsPool_iff (i : Instr) : readsPool i = true ↔ ∃ d, i = .mfs d 0x17 := by
  constructor
  · intro h
    cases i with
    | mfs d n => exact ⟨d, by rw [eq_of_beq h]; rfl⟩
    | _ => cases h
  · rintro ⟨d, rfl⟩
    rfl

/-- Settles O4: a slot is `runSlot_eq`; the rest is how the step is written. -/
theorem stepRunsTheDecodedInstruction : Obligations.StepRunsTheDecodedInstruction := by
  refine ⟨fun s => rfl, fun s n valid => ?_, fun s k valid word own => ⟨fun met => ?_, fun a met => ?_⟩, fun b => ⟨?_, ?_, ?_⟩⟩
  · rw [runAll, if_pos valid]
  · rw [runSlot_eq valid word own, met]
  · rw [runSlot_eq valid word own, met]
    rfl
  · intro pool
    rw [slotOrder, if_pos ((readsPool_iff _).2 pool)]
  · rintro other ⟨m, a, c, k, conts⟩
    rw [slotOrder, if_neg fun h => other ((readsPool_iff _).1 h), conts]
  · intro other noCont
    rw [slotOrder, if_neg fun h => other ((readsPool_iff _).1 h)]
    split
    next m a c k conts => exact absurd ⟨m, a, c, k, conts⟩ noCont
    next => rfl

/-! ### The merge rule (R54) -/

/-- A landing write that has a lane maps its register: the lanes that it executed and those that keep their value are live. -/
theorem VEntry.land_of_mask (e : VEntry) (w : Nat) {f : Flight} (stamp : Nat) (hf : f.whole = false) (hm : f.mask ≠ 0) :
    let keep : Mask := if e.tag = f.tag then e.live &&& ~~~f.mask else 0
    e.land w f stamp = { st := .mapped, xfer := .none, tag := f.tag, live := f.mask ||| keep, stamp := stamp,
                         vals := (List.range w).map fun i => if Mask.has f.mask i then f.vals.getD i 0
                           else if Mask.has keep i then e.vals.getD i 0 else 0 } := by
  have hm' : f.mask ≠ 0#64 := hm
  by_cases ht : e.tag = f.tag <;> simp [VEntry.land, hf, ht, hm']

/-- Settles O27. -/
theorem landingMerges : Obligations.LandingMerges := by
  intro e w f stamp j hf hm hw hj
  dsimp only
  rw [e.land_of_mask w stamp hf hm]
  have has_not : ∀ k : Mask, Mask.has (~~~k) j = !Mask.has k j := fun k => by simp [Mask.has, show j < 64 by omega]
  have has_zero : Mask.has 0 j = false := by simp [Mask.has]
  refine ⟨rfl, fun hj' => ?_, fun hj' ht hl => ?_, fun hj' ht => ?_, fun r m vals tag => ⟨rfl, ?_⟩⟩
  · simp only [getD_map_range hj, Mask.has_or, hj', Bool.true_or, if_true, and_self]
  · simp only [getD_map_range hj, Mask.has_or, Mask.has_and, has_not, hj', ht, hl, if_true, Bool.false_eq_true, if_false,
      Bool.not_false, Bool.and_self, Bool.or_true, and_self]
  · have dropped : Mask.has (if e.tag = f.tag then e.live &&& ~~~f.mask else 0) j = false := by
      split
      next same => rw [Mask.has_and, ht.resolve_left (not_not_intro same), Bool.false_and]
      next => exact has_zero
    simp only [getD_map_range hj, Mask.has_or, hj', dropped, Bool.false_eq_true, if_false, Bool.or_self, and_self]
  · simp only [VReg.merge, getD_map_range hj, beq_iff_eq]

end Sys2Proof.Machine

/-!
# Special registers and scalar results

The reads of MFS and GOVQ (R44, R47, R148), the scalar rows of slot 0, whose results are stated over the integers (R156,
R157), and VTOS (R159).
-/

namespace Sys2Proof.Machine

/-! ### Special registers (R44, R47, R146, R148, R155, R363) -/

/-- A scalar write leaves the value in its register, and takes the mark of a RANK from it (R363). -/
theorem State.writeS_ranked {s : State} {x : Course} (hx : s.course? s.iss.course = some x) (d : SReg) (v : DWord) :
    (s.writeS d v).course? s.iss.course =
      some { x with sr := setAt d.toNat v x.sr, ranked := x.ranked &&& ~~~(1#32 <<< d.toNat) } :=
  State.course?_onCourse_self hx _

theorem getLsbD_clear (m : BitVec 32) (d : SReg) {r : Nat} (hr : r < 32) :
    (m &&& ~~~(1#32 <<< d.toNat)).getLsbD r = if r = d.toNat then false else m.getLsbD r := by
  have := d.isLt
  by_cases h : r = d.toNat
  · simp [h]
  · rcases Nat.lt_or_gt_of_ne h with h' | h'
    · simp [h, hr, h']
    · have : ¬ r - d.toNat = 0 := by omega
      simp [h, hr, this]

theorem getLsbD_mark (m : BitVec 32) (d : SReg) {r : Nat} (hr : r < 32) :
    ((m &&& ~~~(1#32 <<< d.toNat)) ||| 1#32 <<< d.toNat).getLsbD r = if r = d.toNat then true else m.getLsbD r := by
  have := d.isLt
  rw [BitVec.getLsbD_or, getLsbD_clear m d hr]
  by_cases h : r = d.toNat
  · simp [h, this]
  · rcases Nat.lt_or_gt_of_ne h with h' | h'
    · simp [h, hr, h']
    · have : ¬ r - d.toNat = 0 := by omega
      simp [h, hr, this]

/-- The marks of scalars that hold a RANK, once an MFS or GOVQ has written S[d]. -/
def Course.markRank (x : Course) (d : SReg) (rank : Bool) : BitVec 32 :=
  if rank then (x.ranked &&& ~~~(1#32 <<< d.toNat)) ||| 1#32 <<< d.toNat else x.ranked &&& ~~~(1#32 <<< d.toNat)

theorem Course.markRank_getLsbD (x : Course) (d : SReg) (rank : Bool) {r : Nat} (hr : r < 32) :
    (x.markRank d rank).getLsbD r = if r = d.toNat then rank else x.ranked.getLsbD r := by
  cases rank with
  | false => exact getLsbD_clear _ _ hr
  | true => exact getLsbD_mark _ _ hr

/-- MFS writes the special register to its scalar, and marks it when it is RANK in a stream (R148, R363). -/
theorem exec_mfs_writes {s : State} {x : Course} (hs : Issuing s) (hx : s.course? s.iss.course = some x) (d : SReg)
    (i : BitVec 9) :
    ∃ t, exec (.mfs d i) s = .next t ∧ OnlyCourse s t s.iss.course ∧ t.course? s.iss.course = some
      { x with sr := setAt d.toNat (s.special i.toNat) x.sr
               ranked := x.markRank d (i == 0x14#9 && s.iss.src.info.row.isSome) } := by
  have only : OnlyCourse s (s.writeS d (s.special i.toNat)) s.iss.course := OnlyCourse.of_onCourse _ _ _
  have write := State.writeS_ranked hx d (s.special i.toNat)
  rw [exec_mfs, execMfs, gated_next hs]
  by_cases rank : (i == 0x14#9 && s.iss.src.info.row.isSome) = true
  · simp only [if_pos rank]
    exact ⟨_, rfl, only.trans (OnlyCourse.of_onCourse _ _ _), by rw [State.course?_onCourse_self write, rank]; rfl⟩
  · simp only [if_neg rank]
    exact ⟨_, rfl, only, by rw [write, Bool.eq_false_iff.2 rank]; rfl⟩

theorem exec_govq_next {s : State} (hs : Issuing s) (d : SReg) :
    exec (.govq d) s = .next (s.writeS d ((s.ctx s.iss.src.info.ctx).gov.query s.time)) := by
  rw [exec_govq, execGovq, gated_next hs]

/-- What S[r] holds once S[d] has been written. -/
theorem Course.s_setAt {x : Course} (hl : x.sr.length = 32) (d r : SReg) (v : DWord) :
    (setAt d.toNat v x.sr).getD r.toNat 0 = if r = d then v else x.s r.toNat := by
  by_cases h : r = d
  · subst h
    rw [if_pos rfl, getD_setAt_self (by omega)]
  · rw [if_neg h, getD_setAt_ne fun e => h (BitVec.eq_of_toNat_eq e)]
    rfl

/-- Each field of POOL stands in its own 16 bits. -/
theorem fld_pool (a b c : Nat) :
    let p : DWord := .ofNat 64 (a % 2 ^ 16 + b % 2 ^ 16 * 2 ^ 16 + c % 2 ^ 16 * 2 ^ 32)
    fld p 0 16 = a % 2 ^ 16 ∧ fld p 16 16 = b % 2 ^ 16 ∧ fld p 32 16 = c % 2 ^ 16 := by
  simp only [fld, BitVec.toNat_ofNat]
  omega

/-- Settles O18: MFS and GOVQ are scalar writes, NCNT and POOL are read field by field, and the other registers are as
`State.special` lists them. -/
theorem specialReads : Obligations.SpecialReads := by
  refine ⟨fun s x d i v hs hr hv => ?_, fun s x d v hs hr hv => ?_, fun s => ?_, fun s c => fld_pool _ _ _⟩
  · obtain ⟨hx, -, -, -, -, hl⟩ := hr
    obtain ⟨t, hexec, only, hy⟩ := exec_mfs_writes hs hx d i
    refine ⟨t, _, hexec, only, hy, rfl, ?_, fun r hne => ?_, fun r hlt => x.markRank_getLsbD d _ hlt⟩
    · exact (Course.s_setAt hl d d _).trans ((if_pos rfl).trans hv)
    · exact (Course.s_setAt hl d r _).trans (if_neg hne)
  · obtain ⟨hx, -, -, -, -, hl⟩ := hr
    refine ⟨_, _, exec_govq_next hs d, OnlyCourse.of_onCourse _ _ _, State.writeS_ranked hx d _, rfl, ?_, fun r hne => ?_,
      fun r hlt => getLsbD_clear _ d hlt⟩
    · exact (Course.s_setAt hl d d _).trans ((if_pos rfl).trans hv.symm)
    · exact (Course.s_setAt hl d r _).trans (if_neg hne)
  · exact ⟨rfl, rfl, rfl, rfl, rfl, rfl, rfl, rfl, rfl, rfl, rfl, rfl, rfl, rfl, rfl, rfl, rfl, rfl, rfl, rfl, rfl, rfl, rfl,
      rfl, rfl, rfl, rfl, fun k hk => Course.fld_ncnt _ hk⟩

/-! ### Words as numbers -/

section words
variable {w : Nat}

theorem add_eq_ofNat (a b : BitVec w) : a + b = .ofNat w (a.toNat + b.toNat) :=
  BitVec.eq_of_toNat_eq (by rw [BitVec.toNat_add, BitVec.toNat_ofNat])

theorem add_eq_ofInt (a b : BitVec w) : a + b = .ofInt w (a.toInt + b.toInt) :=
  BitVec.eq_of_toInt_eq (by rw [BitVec.toInt_add, BitVec.toInt_ofInt])

theorem sub_eq_ofInt (a b : BitVec w) : a - b = .ofInt w (a.toInt - b.toInt) :=
  BitVec.eq_of_toInt_eq (by rw [BitVec.toInt_sub, BitVec.toInt_ofInt])

theorem mul_eq_ofNat (a b : BitVec w) : a * b = .ofNat w (a.toNat * b.toNat) :=
  BitVec.eq_of_toNat_eq (by rw [BitVec.toNat_mul, BitVec.toNat_ofNat])

theorem shiftLeft_eq_ofNat (a : BitVec w) (n : Nat) : a <<< n = .ofNat w (a.toNat * 2 ^ n) :=
  BitVec.eq_of_toNat_eq (by rw [BitVec.toNat_shiftLeft, BitVec.toNat_ofNat, Nat.shiftLeft_eq])

theorem ushiftRight_eq_ofNat (a : BitVec w) (n : Nat) : a >>> n = .ofNat w (a.toNat / 2 ^ n) := by
  refine BitVec.eq_of_toNat_eq ?_
  rw [BitVec.toNat_ushiftRight, BitVec.toNat_ofNat, Nat.shiftRight_eq_div_pow,
    Nat.mod_eq_of_lt (Nat.lt_of_le_of_lt (Nat.div_le_self _ _) a.isLt)]

theorem sshiftRight_eq_ofInt (a : BitVec w) (n : Nat) : a.sshiftRight n = .ofInt w (a.toInt / 2 ^ n) := by
  rw [BitVec.sshiftRight, Int.shiftRight_eq_div_pow]
  norm_cast

theorem ite_ult_eq_min (a b : BitVec w) : (if b.ult a then b else a) = .ofNat w (min a.toNat b.toNat) := by
  simp only [BitVec.ult, decide_eq_true_eq]
  split
  · rw [Nat.min_eq_right (by omega), BitVec.ofNat_toNat, BitVec.setWidth_eq]
  · rw [Nat.min_eq_left (by omega), BitVec.ofNat_toNat, BitVec.setWidth_eq]

theorem ite_ult_eq_max (a b : BitVec w) : (if a.ult b then b else a) = .ofNat w (max a.toNat b.toNat) := by
  simp only [BitVec.ult, decide_eq_true_eq]
  split
  · rw [Nat.max_eq_right (by omega), BitVec.ofNat_toNat, BitVec.setWidth_eq]
  · rw [Nat.max_eq_left (by omega), BitVec.ofNat_toNat, BitVec.setWidth_eq]

theorem ite_slt_eq_min (a b : BitVec w) : (if b.slt a then b else a) = .ofInt w (min a.toInt b.toInt) := by
  simp only [BitVec.slt, decide_eq_true_eq]
  split
  · rw [Int.min_eq_right (by omega), BitVec.ofInt_toInt]
  · rw [Int.min_eq_left (by omega), BitVec.ofInt_toInt]

theorem ite_slt_eq_max (a b : BitVec w) : (if a.slt b then b else a) = .ofInt w (max a.toInt b.toInt) := by
  simp only [BitVec.slt, decide_eq_true_eq]
  split
  · rw [Int.max_eq_right (by omega), BitVec.ofInt_toInt]
  · rw [Int.max_eq_left (by omega), BitVec.ofInt_toInt]

/-- Bits placed below a shifted word are added to it. -/
theorem shiftLeft_or_eq_ofNat (a : BitVec w) {b : BitVec w} {n : Nat} (h : b.toNat < 2 ^ n) :
    (a <<< n) ||| b = .ofNat w (a.toNat * 2 ^ n + b.toNat) := by
  have apart : (a <<< n) &&& b = 0#w := by
    refine BitVec.eq_of_getLsbD_eq fun i hi => ?_
    rw [BitVec.getLsbD_and, BitVec.getLsbD_shiftLeft, BitVec.getLsbD_zero]
    by_cases hn : i < n
    · simp [hn]
    · have high : b.getLsbD i = false :=
        Nat.testBit_lt_two_pow (Nat.lt_of_lt_of_le h (Nat.pow_le_pow_right (by decide) (Nat.le_of_not_lt hn)))
      rw [high, Bool.and_false]
  refine BitVec.eq_of_toNat_eq ?_
  rw [← BitVec.add_eq_or_of_and_eq_zero _ _ apart, BitVec.toNat_add, BitVec.toNat_shiftLeft, BitVec.toNat_ofNat,
    Nat.shiftLeft_eq, Nat.mod_add_mod]

/-- A sum with an immediate that is extended by its sign. -/
theorem add_signExtend_eq_ofInt {n : Nat} (a : BitVec w) (k : BitVec n) :
    a + k.signExtend w = .ofInt w (a.toInt + k.toInt) := by
  rw [BitVec.ofInt_add, BitVec.ofInt_toInt]
  rfl

end words

/-! ### Scalar results (R156, R157) -/

/-- A scalar row writes the value that its function gives. -/
theorem scalarOp_writes {s : State} {i : Instr} {d d' : SReg} {v v' : DWord} {f : State → DWord} (hs : Issuing s)
    (he : exec i s = scalarOp i d' f s) (hv : some (d', v') = some (d, v)) (hf : f s = v') :
    exec i s = .next (s.writeS d v) := by
  cases hv
  rw [he, scalarOp, gated_next hs, hf]

/-- Each scalar row writes its result to its destination. -/
theorem exec_scalarResult {s : State} {i : Instr} {d : SReg} {v : DWord} (hs : Issuing s)
    (hv : scalarResult s i = some (d, v)) : exec i s = .next (s.writeS d v) := by
  unfold scalarResult at hv
  split at hv
  next d a b => exact scalarOp_writes hs (exec_sadd s) hv (add_eq_ofNat _ _)
  next d a b => exact scalarOp_writes hs (exec_ssub s) hv (sub_eq_ofInt _ _)
  next d a b => exact scalarOp_writes hs (exec_smul s) hv (mul_eq_ofNat _ _)
  next d a b u => exact scalarOp_writes hs (exec_smulh s) hv rfl
  next d a b => exact scalarOp_writes hs (exec_sand s) hv rfl
  next d a b => exact scalarOp_writes hs (exec_sor s) hv rfl
  next d a b => exact scalarOp_writes hs (exec_sxor s) hv rfl
  next d a b => exact scalarOp_writes hs (exec_sshl s) hv (shiftLeft_eq_ofNat _ _)
  next d a k => exact scalarOp_writes hs (exec_sshlImm s) hv (shiftLeft_eq_ofNat _ _)
  next d a b => exact scalarOp_writes hs (exec_sshr s) hv (ushiftRight_eq_ofNat _ _)
  next d a k => exact scalarOp_writes hs (exec_sshrImm s) hv (ushiftRight_eq_ofNat _ _)
  next d a b => exact scalarOp_writes hs (exec_ssra s) hv (sshiftRight_eq_ofInt _ _)
  next d a k => exact scalarOp_writes hs (exec_ssraImm s) hv (sshiftRight_eq_ofInt _ _)
  next d a b u =>
    cases u with
    | true => exact scalarOp_writes hs (exec_smin s) hv (ite_ult_eq_min _ _)
    | false => exact scalarOp_writes hs (exec_smin s) hv (ite_slt_eq_min _ _)
  next d a b u =>
    cases u with
    | true => exact scalarOp_writes hs (exec_smax s) hv (ite_ult_eq_max _ _)
    | false => exact scalarOp_writes hs (exec_smax s) hv (ite_slt_eq_max _ _)
  next d a b c => exact scalarOp_writes hs (exec_scmp s) hv rfl
  next d a k => exact scalarOp_writes hs (exec_saddi s) hv (add_signExtend_eq_ofInt _ _)
  next d k => exact scalarOp_writes hs (exec_sli s) hv rfl
  next d k =>
    refine scalarOp_writes hs (exec_slih s) hv ?_
    have low : (k.setWidth 64).toNat = k.toNat := BitVec.toNat_setWidth_of_le (by decide)
    rw [shiftLeft_or_eq_ofNat _ (low ▸ k.isLt), low]
    rfl
  next d a b c =>
    refine scalarOp_writes hs (exec_ssel s) hv ?_
    show (if s.sIn c != 0 then s.sIn a else s.sIn b) = if s.sIn c = 0 then s.sIn b else s.sIn a
    by_cases h : s.sIn c = 0 <;> simp [h]
  next d a => exact scalarOp_writes hs (exec_sclz s) hv rfl
  next d a => exact scalarOp_writes hs (exec_spopc s) hv rfl
  next => cases hv

/-! ### VTOS (R51, R159) -/

/-- The releases that end an instruction, once nothing but its course has changed: the vectors of the course move, no write
that is on its way is lost, and the registers whose last-use bit is set are released. -/
theorem State.releases_after {s t : State} {y : Course} (only : OnlyCourse s t s.iss.course)
    (hy : t.course? s.iss.course = some y) (i : Instr) :
    OnlyCourse s (t.releases i) s.iss.course ∧ KeepsWrites s.iss.course t (t.releases i) ∧
      ∃ z, (t.releases i).course? s.iss.course = some z ∧ OnlyVectors y z ∧ z.o = y.o ∧
        ∀ v ∈ lastUses i, Released s z v (s.iss.mask (profile i).slot) := by
  have keeps := t.releases_keeps i
  rw [only.iss_course] at keeps
  obtain ⟨z, hz, hv, ho, -⟩ := keeps.2.2 y hy
  have hy' : t.course? t.iss.course = some y := by rwa [only.iss_course]
  obtain ⟨z', hz', released⟩ := State.releases_released hy' i
  rw [only.iss_course, hz] at hz'
  obtain rfl := Option.some.inj hz'
  refine ⟨only.trans keeps.1, keeps, z, hz, hv, ho, fun v hv => ?_⟩
  rw [← only.iss_mask]
  exact (Released.of_iss only.iss_mark).1 (released v hv)

/-- The reads of slot 0 raise their flags at once. -/
theorem State.raiseNow_spec {s : State} {x : Course} (hx : s.course? s.iss.course = some x) (f : DWord) :
    OnlyCourse s (s.raiseNow f) s.iss.course ∧ (s.raiseNow f).course? s.iss.course = some (x.raise f) :=
  State.onCourse_spec hx _

/-- VTOS raises the flags of its read, writes the lane to its scalar, and releases its operand (R159). -/
theorem State.vtosLane_spec {s : State} {x : Course} (hr : Running s x) {i : Instr} (hslot : (profile i).slot = 0) (d : SReg)
    (lane : Nat) :
    ∃ y, OnlyCourse s (s.vtosLane i d lane) s.iss.course ∧ (s.vtosLane i d lane).course? s.iss.course = some y ∧
      y = { x with sr := y.sr, ranked := x.ranked &&& ~~~(1#32 <<< d.toNat), flags := y.flags, v := y.v, flights := y.flights } ∧
      y.flags = x.flags ||| ((s.iss.reads i).flags &&& flagsMask) ∧
      y.s d.toNat = ((s.iss.reads i).v 0 lane).setWidth 64 ∧ (∀ r : SReg, r ≠ d → y.s r.toNat = x.s r.toNat) ∧
      ∀ v ∈ lastUses i, Released s y v s.iss.exec := by
  obtain ⟨hx, -, -, -, -, hl⟩ := hr
  obtain ⟨raised, hraised⟩ := State.raiseNow_spec hx (s.iss.reads i).flags
  have hcourse : (s.raiseNow (s.iss.reads i).flags).iss.course = s.iss.course := raised.iss_course
  have written := State.writeS_ranked (by rwa [hcourse]) d (((s.iss.reads i).v 0 lane).setWidth 64)
  rw [hcourse] at written
  have only : OnlyCourse s ((s.raiseNow (s.iss.reads i).flags).writeS d (((s.iss.reads i).v 0 lane).setWidth 64)) s.iss.course :=
    raised.trans (hcourse ▸ OnlyCourse.of_onCourse _ _ _)
  obtain ⟨all, -, z, hz, hv, ho, released⟩ := State.releases_after only written i
  have scalar : ∀ r : SReg, z.s r.toNat = if r = d then ((s.iss.reads i).v 0 lane).setWidth 64 else x.s r.toNat := by
    intro r
    rw [hv]
    exact Course.s_setAt hl d r _
  refine ⟨z, all, hz, ?_, by rw [hv]; rfl, (scalar d).trans (if_pos rfl), fun r hne => (scalar r).trans (if_neg hne), ?_⟩
  · have hzo : z.o = x.o := ho
    rw [hv, hzo]
    rfl
  · rw [hslot] at released
    exact released

/-- Settles O21: a scalar row is one scalar write (`exec_scalarResult`), and both forms of VTOS are `State.vtosLane`. -/
theorem scalarResults : Obligations.ScalarResults := by
  refine ⟨fun s x i d v hs hr hv => ?_, fun s x i d lane hs hr hi => ?_⟩
  · obtain ⟨hx, -, -, -, -, hl⟩ := hr
    refine ⟨_, _, exec_scalarResult hs hv, OnlyCourse.of_onCourse _ _ _, State.writeS_ranked hx d v, rfl, ?_, fun r hne => ?_⟩
    · exact (Course.s_setAt hl d d _).trans (if_pos rfl)
    · exact (Course.s_setAt hl d r _).trans (if_neg hne)
  · rcases hi with ⟨a, ua, n, rfl, rfl⟩ | ⟨a, ua, rfl, rfl⟩
    · obtain ⟨y, only, spec⟩ := State.vtosLane_spec hr (i := .vtos d a ua n) rfl d n.toNat
      exact ⟨_, y, by rw [exec_vtos, execVtos, gated_next hs], only, spec⟩
    · obtain ⟨y, only, spec⟩ := State.vtosLane_spec hr (i := .vtosF d a ua) rfl d
        (if s.iss.src.info.row.isSome then 0 else Mask.first s.iss.exec)
      exact ⟨_, y, by rw [exec_vtosF, execVtosF, gated_next hs], only, spec⟩

end Sys2Proof.Machine

/-!
# Branches, calls and returns

A transfer with a displacement moves lanes (`BranchesTo`); a call or a transfer through a register is a chain of reads, link,
jump and releases (R108, R131 to R135, R350).
-/

namespace Sys2Proof.Machine

/-! ### Transfers with a displacement (R108, R131, R132) -/

/-- Lanes of the course of the bundle in issue go to a target: those that execute and take the branch. -/
def BranchesTo (s t : State) (x : Course) (taken : Nat → Bool) (target : Word) : Prop :=
  ∃ y, OnlyCourse s t s.iss.course ∧ t.course? s.iss.course = some y ∧ OnlyLanes x y ∧
    ∀ j, j < x.w → y.lane j = if Mask.has s.iss.exec j && taken j then { x.lane j with lpc := target } else x.lane j

theorem BranchesTo.jump {s : State} {x : Course} (hr : Running s x) {m : Mask} {taken : Nat → Bool} {target : Word}
    (hm : ∀ j, j < x.w → Mask.has m j = (Mask.has s.iss.exec j && taken j)) :
    BranchesTo s (s.jump m fun _ => target) x taken target := by
  obtain ⟨hx, -, hl, -⟩ := hr
  obtain ⟨only, y, hy, lanes, hj⟩ := State.jump_spec hx hl m fun _ => target
  exact ⟨y, only, hy, lanes, fun j h => by rw [hj j h, hm j h]⟩

/-- A branch that no lane takes changes nothing. -/
theorem BranchesTo.refl {s : State} {x : Course} (hr : Running s x) {taken : Nat → Bool} (target : Word)
    (ht : ∀ j, taken j = false) : BranchesTo s s x taken target :=
  ⟨x, OnlyCourse.refl s _, hr.1, rfl, fun j _ => by simp [ht j]⟩

theorem exec_branch {s : State} {x : Course} (hs : Issuing s) (hr : Running s x) {i : Instr} {taken : Nat → Bool}
    {target : Word} (hb : branchOf s i = some (taken, target)) : ∃ t, exec i s = .next t ∧ BranchesTo s t x taken target := by
  unfold branchOf at hb
  split at hb
  next d =>
    cases hb
    exact ⟨_, by rw [exec_bra, execBra, gated_next hs]; rfl, .jump hr fun j _ => (Bool.and_true _).symm⟩
  next p d =>
    cases hb
    refine ⟨_, by rw [exec_brp, execBrp, gated_next hs]; rfl, .jump hr fun j hj => ?_⟩
    rw [Mask.has_and, Course.has_maskOf, hr.2.1, decide_eq_true hj, Bool.true_and]
  next r d =>
    cases hb
    refine ⟨_, by rw [exec_brs, execBrs, gated_next hs], ?_⟩
    by_cases h : s.sIn r = 0
    · rw [if_pos h]
      exact .refl hr _ fun _ => bne_eq_false_iff_eq.2 h
    · rw [if_neg h]
      exact .jump hr fun j _ => by rw [show (s.iss.src.s r.toNat != 0) = true from bne_iff_ne.2 h, Bool.and_true]
  next => cases hb

/-! ### Calls and transfers through a register (R132 to R135, R350) -/

/-- The link of a call is on its way to V63, and nothing else of the course has changed but its vectors (R134). -/
theorem State.link_spec {s : State} {x : Course} (hx : s.course? s.iss.course = some x) (hw : s.iss.src.w = x.w)
    (ho : x.o.length = 8) (he : s.iss.exec ≠ 0) {i : Instr} (hslot : (profile i).slot = 0) (hd : (profile i).written = [63])
    (ht : (s.iss.resultTags i).getD 0 .und = .uw) :
    KeepsWrites s.iss.course s (s.link i) ∧ ∃ y, (s.link i).course? s.iss.course = some y ∧ OnlyVectors x y ∧ y.o = x.o ∧
      Written s y 63 s.iss.exec .uw 0 fun _ => s.iss.pc + 16 := by
  have hm : s.iss.mask (profile i).slot = s.iss.exec := by rw [hslot]; rfl
  obtain ⟨keeps, y, hy, hwritten⟩ := State.writeAll_written hx ho (i := i) (by rwa [hm]) (by simp [hd])
    [List.replicate s.iss.src.w (s.iss.pc + 16)] 0
  obtain ⟨y', hy', hv, hyo, -⟩ := keeps.2.2 x hx
  obtain rfl := Option.some.inj (hy.symm.trans hy')
  have first := hwritten 0 (by simp [hd])
  rw [hd, hm, ht] at first
  refine ⟨keeps, y, hy, hv, hyo, first.congr fun j hj => ?_⟩
  rw [hv.w, ← hw] at hj
  simp [hj]

/-- A transfer in steps: what is read has raised its flags, writes have been issued, the executing lanes move, and writes
are issued or registers released again. -/
theorem transfer_steps {s t u v : State} {c : Nat} {x z : Course} (hx : OnlyCourse s t c) (ht : t.course? c = some z)
    (hz : z = { x with flags := z.flags }) (hl : x.lanes.length = x.w) (hu : KeepsWrites c t u) (m : Mask)
    (move : Nat → Lane → Lane) (hv : KeepsWrites c (u.onCourse c fun y => y.onLanes m move) v) :
    ∃ y, OnlyCourse s v c ∧ v.course? c = some y ∧
      y = { x with lanes := y.lanes, flags := y.flags, v := y.v, flights := y.flights } ∧ y.flags = z.flags ∧
      (∀ r y' d k tag f val, u.course? c = some y' → Written r y' d k tag f val → Written r y d k tag f val) ∧
      ∀ j, j < x.w → y.lane j = if Mask.has m j then move j (x.lane j) else x.lane j := by
  obtain ⟨a, ha, hav, hao, -⟩ := hu.2.2 z ht
  have hb := State.course?_onCourse_self ha fun y => y.onLanes m move
  obtain ⟨y, hy, hyv, hyo, -⟩ := hv.2.2 _ hb
  have lanes : ∀ j, y.lane j = (x.onLanes m move).lane j := fun j => by rw [hyv, hav, hz]; rfl
  refine ⟨y, (hx.trans hu.1).trans ((OnlyCourse.of_onCourse _ _ _).trans hv.1), hy, ?_, ?_, ?_, fun j hj => ?_⟩
  · have ho : y.o = x.o := hyo.trans (hao.trans (by rw [hz]))
    rw [hyv, ho, hav, hz]
    rfl
  · rw [hyv, hav]
    rfl
  · intro r y' d k tag f val hy' written
    obtain rfl := Option.some.inj (ha.symm.trans hy')
    obtain ⟨y'', hy'', -, kept⟩ := Written.keep (y := a.onLanes m move) hv hb written
    obtain rfl := Option.some.inj (hy.symm.trans hy'')
    exact kept
  · rw [lanes, x.onLanes_lane m move (hl ▸ hj)]

/-- The releases that follow a move of the lanes. -/
theorem State.releases_keeps_of {s t : State} (only : OnlyCourse s t s.iss.course) (i : Instr) :
    KeepsWrites s.iss.course t (t.releases i) := by
  have keeps := t.releases_keeps i
  rwa [only.iss_course] at keeps

/-- How a lane goes to the target of a transfer: RET may pop its ray-return stack (R350). -/
def Lane.goTo (i : Instr) (l : Lane) (t : Word) : Lane :=
  match i with
  | .ret => l.ret t
  | _ => { l with lpc := t }

/-- A call or a transfer through a register has moved the executing lanes of its course, raised the flags of its reads, and a
call has its link on its way. -/
def TransfersTo (s t : State) (x : Course) (i : Instr) (target : Nat → Word) : Prop :=
  ∃ y, OnlyCourse s t s.iss.course ∧ t.course? s.iss.course = some y ∧
    y = { x with lanes := y.lanes, flags := y.flags, v := y.v, flights := y.flights } ∧
    ((∀ d, i ≠ .call d) → y.flags = x.flags ||| ((s.iss.reads i).flags &&& flagsMask)) ∧
    ((∃ d, i = .call d) → y.flags = x.flags) ∧
    (isCall i = true → Written s y 63 s.iss.exec .uw 0 fun _ => s.iss.pc + 16) ∧
    ∀ j, j < x.w → y.lane j = if Mask.has s.iss.exec j then (x.lane j).goTo i (target j) else x.lane j

/-- The target of each lane of a transfer through a register, in a stream that of lane 0 (R130, R135). -/
def State.targets (s : State) (i : Instr) (j : Nat) : Word := s.laneTarget (s.iss.reads i) j

theorem exec_call_transfers {s : State} {x : Course} (hs : Issuing s) (hr : Running s x) (he : s.iss.exec ≠ 0)
    (d : BitVec 21) :
    ∃ t, exec (.call d) s = .next t ∧ TransfersTo s t x (.call d) fun _ => relTarget s.iss.pc d.toInt := by
  obtain ⟨hx, hw, hl, -, ho, -⟩ := hr
  obtain ⟨keeps, a, ha, -, -, link⟩ := State.link_spec hx hw ho he (i := .call d) rfl rfl rfl
  obtain ⟨y, only, hy, moved, flags, written, lanes⟩ := transfer_steps (OnlyCourse.refl s _) hx rfl hl keeps s.iss.exec
    (fun _ l => l.goTo (.call d) (relTarget s.iss.pc d.toInt)) (KeepsWrites.refl _ _)
  refine ⟨_, ?_, y, only, hy, moved, fun h => absurd rfl (h d), fun _ => flags, fun _ => written _ _ _ _ _ _ _ ha link, lanes⟩
  rw [exec_call, execCall, gated_next hs, State.jump, keeps.1.iss_course]
  rfl

theorem exec_brx_transfers {s : State} {x : Course} (hs : Issuing s) (hr : Running s x) (a : Code) (ua : Bool) :
    ∃ t, exec (.brx a ua) s = .next t ∧ TransfersTo s t x (.brx a ua) (s.targets (.brx a ua)) := by
  obtain ⟨hx, -, hl, -⟩ := hr
  obtain ⟨raised, hraised⟩ := State.raiseNow_spec hx (s.iss.reads (.brx a ua)).flags
  have iss : (s.raiseNow (s.iss.reads (.brx a ua)).flags).iss = s.iss := State.onCourse_iss _ _ _
  obtain ⟨y, only, hy, moved, flags, -, lanes⟩ := transfer_steps raised hraised rfl hl (KeepsWrites.refl _ _) s.iss.exec
    (fun j l => l.goTo (.brx a ua) (s.targets (.brx a ua) j))
    (State.releases_keeps_of (raised.trans (OnlyCourse.of_onCourse _ _ _)) (.brx a ua))
  refine ⟨_, ?_, y, only, hy, moved, fun _ => flags, fun ⟨_, h⟩ => (by cases h), fun h => (nomatch h), lanes⟩
  rw [exec_brx, execBrx, gated_next hs]
  simp only [State.jump, iss]
  rfl

theorem exec_callx_transfers {s : State} {x : Course} (hs : Issuing s) (hr : Running s x) (he : s.iss.exec ≠ 0) (a : Code)
    (ua : Bool) : ∃ t, exec (.callx a ua) s = .next t ∧ TransfersTo s t x (.callx a ua) (s.targets (.callx a ua)) := by
  obtain ⟨hx, hw, hl, -, ho, -⟩ := hr
  obtain ⟨raised, hraised⟩ := State.raiseNow_spec hx (s.iss.reads (.callx a ua)).flags
  have iss : (s.raiseNow (s.iss.reads (.callx a ua)).flags).iss = s.iss := State.onCourse_iss _ _ _
  obtain ⟨keeps, b, hb, -, -, link⟩ := State.link_spec (s := s.raiseNow (s.iss.reads (.callx a ua)).flags)
    (x := x.raise (s.iss.reads (.callx a ua)).flags) (by rw [iss]; exact hraised) (by rw [iss]; exact hw) ho
    (by rwa [iss]) (i := .callx a ua) rfl rfl rfl
  rw [iss] at keeps hb link
  obtain ⟨y, only, hy, moved, flags, written, lanes⟩ := transfer_steps raised hraised rfl hl keeps s.iss.exec
    (fun j l => l.goTo (.callx a ua) (s.targets (.callx a ua) j))
    (State.releases_keeps_of ((raised.trans keeps.1).trans (OnlyCourse.of_onCourse _ _ _)) (.callx a ua))
  refine ⟨_, ?_, y, only, hy, moved, fun _ => flags, fun ⟨_, h⟩ => (by cases h),
    fun _ => (written _ _ _ _ _ _ _ hb link).of_uid_le (Nat.le_of_eq (State.onCourse_uid _ _ _).symm), lanes⟩
  have course : ((s.raiseNow (s.iss.reads (.callx a ua)).flags).link (.callx a ua)).iss.course = s.iss.course :=
    keeps.1.iss_course.trans (congrArg Issue.course iss)
  rw [exec_callx, execCallx, gated_next hs]
  simp only [State.jump, course]
  rfl

theorem exec_ret_transfers {s : State} {x : Course} (hs : Issuing s) (hr : Running s x) :
    ∃ t, exec .ret s = .next t ∧ TransfersTo s t x .ret (s.targets .ret) := by
  obtain ⟨hx, -, hl, -⟩ := hr
  obtain ⟨raised, hraised⟩ := State.raiseNow_spec hx (s.iss.reads .ret).flags
  obtain ⟨y, only, hy, moved, flags, -, lanes⟩ := transfer_steps raised hraised rfl hl (KeepsWrites.refl _ _) s.iss.exec
    (fun j l => l.goTo .ret (s.targets .ret j)) (KeepsWrites.refl _ _)
  refine ⟨_, ?_, y, only, hy, moved, fun _ => flags, fun ⟨_, h⟩ => (by cases h), fun h => (nomatch h), lanes⟩
  rw [exec_ret, execRet, gated_next hs]
  rfl

/-- The instructions that are no transfer of this kind have no target. -/
theorem transferOf_cases (s : State) (i : Instr) :
    transferOf s i = none ∨ (∃ d, i = .call d) ∨ (∃ a ua, i = .brx a ua) ∨ (∃ a ua, i = .callx a ua) ∨ i = .ret := by
  cases i
  case call => exact .inr (.inl ⟨_, rfl⟩)
  case brx => exact .inr (.inr (.inl ⟨_, _, rfl⟩))
  case callx => exact .inr (.inr (.inr (.inl ⟨_, _, rfl⟩)))
  case ret => exact .inr (.inr (.inr (.inr rfl)))
  all_goals exact .inl rfl

theorem exec_transfer {s : State} {x : Course} {i : Instr} {target : Nat → Word} (hs : Issuing s) (hr : Running s x)
    (he : s.iss.exec ≠ 0) (hi : transferOf s i = some target) : ∃ t, exec i s = .next t ∧ TransfersTo s t x i target := by
  rcases transferOf_cases s i with none | ⟨d, rfl⟩ | ⟨a, ua, rfl⟩ | ⟨a, ua, rfl⟩ | rfl
  · cases none.symm.trans hi
  · cases hi
    exact exec_call_transfers hs hr he d
  · cases hi
    exact exec_brx_transfers hs hr a ua
  · cases hi
    exact exec_callx_transfers hs hr he a ua
  · cases hi
    exact exec_ret_transfers hs hr

/-- Settles O10: `exec_branch` for the displacements, `exec_transfer` for the rest. -/
theorem transfers : Obligations.Transfers := by
  refine ⟨fun s x i taken target hs hr hb => ?_, fun s x i target hs hr he hi => ?_⟩
  · obtain ⟨t, next, y, only, hy, lanes, moved⟩ := exec_branch hs hr hb
    exact ⟨t, y, next, only, hy, lanes, moved⟩
  · obtain ⟨t, next, y, only, hy, moved, flags, kept, link, lanes⟩ := exec_transfer hs hr he hi
    refine ⟨t, y, next, only, hy, moved, ?_, link, lanes⟩
    split
    next call => exact kept call.2
    next other =>
      refine flags fun d hd => other ⟨?_, d, hd⟩
      subst hd
      rfl

end Sys2Proof.Machine

/-!
# Lane results and predicates of the vector instructions

Each row of `laneResult` is one vector operation (`VectorOp`), whose results, flags and releases `State.vector_spec` and
`State.vector_released` give (R161 to R206, R260); a compare writes one predicate of each executing lane (R165, R172).
-/

namespace Sys2Proof.Machine

/-! ### Words of a lane as numbers -/

theorem ofInt_add_toNat {w : Nat} (a b : BitVec w) : BitVec.ofInt w (a.toNat + b.toNat) = a + b :=
  (congrArg (BitVec.ofInt w) (Int.natCast_add _ _).symm).trans ((BitVec.ofInt_natCast _ _).trans (add_eq_ofNat a b).symm)

theorem ofInt_sub_toNat {w : Nat} (a b : BitVec w) : BitVec.ofInt w (a.toNat - b.toNat) = a - b := by
  refine BitVec.eq_of_toInt_eq ?_
  rw [BitVec.toInt_ofInt, BitVec.toInt_sub, BitVec.toInt_eq_toNat_bmod a, BitVec.toInt_eq_toNat_bmod b, Int.bmod_sub_bmod,
    Int.sub_bmod_bmod]

theorem mul_add_eq_ofNat {w : Nat} (a b c : BitVec w) : a * b + c = .ofNat w (a.toNat * b.toNat + c.toNat) := by
  refine BitVec.eq_of_toNat_eq ?_
  rw [BitVec.toNat_add, BitVec.toNat_mul, BitVec.toNat_ofNat, Nat.mod_add_mod]

theorem ite_neg_eq_natAbs {w : Nat} (a : BitVec w) : (if a.toInt < 0 then -a else a) = .ofNat w a.toInt.natAbs := by
  rw [← BitVec.ofInt_natCast]
  split
  next neg => rw [show (a.toInt.natAbs : Int) = -a.toInt by omega, BitVec.ofInt_neg, BitVec.ofInt_toInt]
  next pos => rw [show (a.toInt.natAbs : Int) = a.toInt by omega, BitVec.ofInt_toInt]

/-- The low bits that LIH keeps. -/
theorem and_low17_toNat (a : Word) : (a &&& 0x1FFFF#32).toNat = a.toNat % 2 ^ 17 := by
  rw [BitVec.toNat_and]
  exact Nat.and_two_pow_sub_one_eq_mod a.toNat 17

/-! ### One vector operation (R161) -/

/-- The instruction runs one vector operation with one destination, which gives each lane the results of f. -/
def VectorOp (s : State) (i : Instr) (f : Nat → Word × DWord) : Prop :=
  ∃ d g, (profile i).written = [d] ∧ exec i s = .next (s.vector i g) ∧ g (s.iss.reads i) = f

/-! ### Results whose row says them over the integers -/

theorem add_row (signed sat : Bool) (x y : Word) :
    (if sat then saturate signed ((if signed then x.toInt else x.toNat) + if signed then y.toInt else y.toNat)
      else (x + y, 0)) =
    if sat then saturate signed ((if signed then x.toInt else x.toNat) + if signed then y.toInt else y.toNat)
      else (.ofInt 32 ((if signed then x.toInt else x.toNat) + if signed then y.toInt else y.toNat), 0) := by
  cases signed with
  | true => simp only [if_true, add_eq_ofInt]
  | false => simp only [Bool.false_eq_true, if_false, ofInt_add_toNat]

theorem sub_row (signed sat : Bool) (x y : Word) :
    (if sat then saturate signed ((if signed then x.toInt else x.toNat) - if signed then y.toInt else y.toNat)
      else (x - y, 0)) =
    if sat then saturate signed ((if signed then x.toInt else x.toNat) - if signed then y.toInt else y.toNat)
      else (.ofInt 32 ((if signed then x.toInt else x.toNat) - if signed then y.toInt else y.toNat), 0) := by
  cases signed with
  | true => simp only [if_true, sub_eq_ofInt]
  | false => simp only [Bool.false_eq_true, if_false, ofInt_sub_toNat]

theorem addCarry_eq (co : Bool) (x y z : Word) : addCarry co x y z =
    .ofNat 32 (if co then (x.toNat + y.toNat + z.toNat % 2) / 2 ^ 32 else x.toNat + y.toNat + z.toNat % 2) := by
  cases co <;> rfl

/-- LIH places its constant above the 17 bits that it keeps (R175). -/
theorem lih_row (k : BitVec 15) (x : Word) :
    (k.setWidth 32 <<< 17) ||| (x &&& 0x1FFFF#32) = .ofNat 32 (k.toNat * 2 ^ 17 + x.toNat % 2 ^ 17) := by
  rw [shiftLeft_or_eq_ofNat _ (and_low17_toNat x ▸ Nat.mod_lt _ (by decide)), and_low17_toNat,
    BitVec.toNat_setWidth_of_le (by decide)]

/-- XSTEP reads the lane that a step within the width reaches, and its own otherwise (R198). -/
theorem step_row (a : Nat → Word) (w : Nat) (y : Word) (j : Nat) :
    a (let t : Int := (j : Int) + y.toInt; if 0 ≤ t ∧ t < w then t.toNat else j) =
      let t : Int := (j : Int) + y.toInt; if 0 ≤ t ∧ t < w then a t.toNat else a j := by
  dsimp only
  split <;> rfl

/-! ### The rows -/

/-- The row of an instruction in `laneResult` is the vector operation that it runs. -/
def LaneRow (s : State) (i : Instr) : Prop := ∃ f, laneResult s i = some f ∧ VectorOp s i f

theorem LaneRow.of_gated {s : State} {i : Instr} {d : Nat} {f : Nat → Word × DWord} {g : State → Reads → Nat → Word × DWord}
    (hs : Issuing s) (row : laneResult s i = some f) (run : exec i s = gated i s fun s => s.vector i (g s))
    (written : (profile i).written = [d]) (result : ∀ j, g s (s.iss.reads i) j = f j) : LaneRow s i :=
  ⟨f, row, d, g s, written, by rw [run, gated_next hs], funext result⟩

/-- A row whose lanes give a word and raise no flag. -/
theorem LaneRow.of_words {s : State} {i : Instr} {d : Nat} {f : Nat → Word} {g : Word → Word → Word → Word}
    (hs : Issuing s) (row : laneResult s i = some fun j => (f j, 0)) (run : exec i s = vecWord i g s)
    (written : (profile i).written = [d])
    (result : ∀ j, g ((s.iss.reads i).v 0 j) ((s.iss.reads i).v 1 j) ((s.iss.reads i).v 2 j) = f j) : LaneRow s i :=
  .of_gated hs row run written fun j => congrArg (·, 0) (result j)

theorem addSub_eq_gated (i : Instr) (sub sat : Bool) (s : State) :
    addSub i sub sat s = gated i s fun s => s.vector i fun r j =>
      let val (w : Word) : Int := if s.iss.signedT i then w.toInt else w.toNat
      if sat then saturate (s.iss.signedT i) (if sub then val (r.v 0 j) - val (r.v 1 j) else val (r.v 0 j) + val (r.v 1 j))
      else (if sub then r.v 0 j - r.v 1 j else r.v 0 j + r.v 1 j, 0) := rfl

theorem iadd_laneRow {s : State} (hs : Issuing s) (d a b : Code) (ua ub sat : Bool) : LaneRow s (.iadd d a b ua ub sat) :=
  .of_gated hs rfl ((exec_iadd s).trans (addSub_eq_gated ..)) rfl fun _ => add_row (s.iss.signedT _) sat _ _

theorem isub_laneRow {s : State} (hs : Issuing s) (d a b : Code) (ua ub sat : Bool) : LaneRow s (.isub d a b ua ub sat) :=
  .of_gated hs rfl ((exec_isub s).trans (addSub_eq_gated ..)) rfl fun _ => sub_row (s.iss.signedT _) sat _ _

/-! The shapes of a row: the function that the execution runs is the function of the row. -/

section shapes
variable {s : State} {i : Instr} {d : Nat}

theorem LaneRow.of_lanes {g : Lane → Word → Word → Word} (hs : Issuing s) (run : exec i s = vecLane i g s)
    (written : (profile i).written = [d])
    (row : laneResult s i = some fun j => (g (s.iss.src.lane j) ((s.iss.reads i).v 0 j) ((s.iss.reads i).v 1 j), 0)) :
    LaneRow s i :=
  .of_gated (g := fun s r j => (g (s.iss.src.lane j) (r.v 0 j) (r.v 1 j), 0)) hs row run written fun _ => rfl

theorem LaneRow.of_floats {g : RM → Bool → Nat → Nat → Nat → FR} (hs : Issuing s) (run : exec i s = vecFloat i g s)
    (written : (profile i).written = [d])
    (row : laneResult s i = some fun j =>
      let q := g (RM.decode s.iss.src.rm) s.iss.src.ftz ((s.iss.reads i).v 0 j).toNat ((s.iss.reads i).v 1 j).toNat
        ((s.iss.reads i).v 2 j).toNat
      (.ofNat 32 q.1, q.2)) : LaneRow s i :=
  .of_gated (g := fun s r j =>
    let q := g (RM.decode s.iss.src.rm) s.iss.src.ftz (r.v 0 j).toNat (r.v 1 j).toNat (r.v 2 j).toNat
    (.ofNat 32 q.1, q.2)) hs row run written fun _ => rfl

theorem LaneRow.of_conversions {g : RM → Bool → Option Tag → Nat → Word × DWord} (hs : Issuing s)
    (run : exec i s = vecConv i g s) (written : (profile i).written = [d])
    (row : laneResult s i = some fun j =>
      g (RM.decode s.iss.src.rm) s.iss.src.ftz (s.iss.usedTag i 0 j) ((s.iss.reads i).v 0 j).toNat) : LaneRow s i :=
  .of_gated (g := fun s r j => g (RM.decode s.iss.src.rm) s.iss.src.ftz (s.iss.usedTag i 0 j) (r.v 0 j).toNat) hs row run
    written fun _ => rfl

theorem LaneRow.of_halves {g : Fmt → RM → Nat → Nat → Nat → FR} (hs : Issuing s) (run : exec i s = vecHalf i g s)
    (written : (profile i).written = [d])
    (row : laneResult s i = some fun j =>
      let t := (s.iss.resultTags i).headD .hf2
      half2 t (g (halfFmt t) (RM.decode s.iss.src.rm)) ((s.iss.reads i).v 0 j).toNat ((s.iss.reads i).v 1 j).toNat
        ((s.iss.reads i).v 2 j).toNat) : LaneRow s i :=
  .of_gated (g := fun s r j =>
    let t := (s.iss.resultTags i).headD .hf2
    half2 t (g (halfFmt t) (RM.decode s.iss.src.rm)) (r.v 0 j).toNat (r.v 1 j).toNat (r.v 2 j).toNat) hs row run written
    fun _ => rfl

theorem LaneRow.of_dots {n : Nat} {tags : Option Tag → Tag} (hs : Issuing s) (run : exec i s = vecDot i n tags s)
    (written : (profile i).written = [d])
    (row : laneResult s i = some fun j =>
      let q := fdot (tags (s.iss.usedTag i 0 j)) (tags (s.iss.usedTag i 1 j)) n (RM.decode s.iss.src.rm) s.iss.src.ftz
        ((s.iss.reads i).v 0 j).toNat ((s.iss.reads i).v 1 j).toNat ((s.iss.reads i).v 2 j).toNat
      (.ofNat 32 q.1, q.2)) : LaneRow s i :=
  .of_gated (g := fun s r j =>
    let q := fdot (tags (s.iss.usedTag i 0 j)) (tags (s.iss.usedTag i 1 j)) n (RM.decode s.iss.src.rm) s.iss.src.ftz
      (r.v 0 j).toNat (r.v 1 j).toNat (r.v 2 j).toNat
    (.ofNat 32 q.1, q.2)) hs row run written fun _ => rfl

theorem LaneRow.of_shuffle {f : Nat → Word} (hs : Issuing s) (run : exec i s = shuffle i s)
    (written : (profile i).written = [d]) (row : laneResult s i = some fun j => (f j, 0))
    (source : ∀ j, (s.iss.reads i).v 0 (shuffleLane i s.iss.src.w ((s.iss.reads i).v 1 (Mask.first s.iss.g1))
      ((s.iss.reads i).v 1 j) j) = f j) : LaneRow s i :=
  .of_gated (g := fun s r j => (r.v 0 (shuffleLane i s.iss.src.w (r.v 1 (Mask.first s.iss.g1)) (r.v 1 j) j), 0)) hs row run
    written fun j => congrArg (·, 0) (source j)

theorem LaneRow.of_cross {g : State → Reads → Lanes × DWord} (hs : Issuing s)
    (run : exec i s = gated i s fun s => s.cross i (g s)) (written : (profile i).written = [d])
    (row : laneResult s i = some fun j =>
      ((g s (s.iss.reads i)).1.getD j 0, if j = Mask.first s.iss.g1 then (g s (s.iss.reads i)).2 else 0)) : LaneRow s i :=
  .of_gated (g := fun s _ j =>
    ((g s (s.iss.reads i)).1.getD j 0, if j = Mask.first s.iss.g1 then (g s (s.iss.reads i)).2 else 0)) hs row run written
    fun _ => rfl

end shapes

theorem pack_laneRow {s : State} (hs : Issuing s) (d a b : Code) (ua ub e : Bool) : LaneRow s (.pack d a b ua ub e) :=
  .of_gated (g := fun s r j =>
    (packLane ((s.iss.usedTag (.pack d a b ua ub e) 0 j).getD .und) e (r.v 0 j).toNat (r.v 1 j).toNat, 0))
    hs rfl (exec_pack s) rfl fun _ => rfl

theorem rsvfin_laneRow {s : State} (hs : Issuing s) (d a b : Code) (ua ub : Bool) : LaneRow s (.rsvfin d a b ua ub) :=
  .of_gated (g := fun _ r j =>
    (.ofNat 32 (rsvFin (r.record 0 j) (r.v 4 j).toNat).1, (rsvFin (r.record 0 j) (r.v 4 j).toNat).2))
    hs rfl (exec_rsvfin s) rfl fun _ => rfl

/-- Every row of `laneResult` is one vector operation; no other instruction has a row. -/
theorem laneRow_of_issuing {s : State} (hs : Issuing s) (i : Instr) : laneResult s i = none ∨ LaneRow s i := by
  cases i
  case iadd d a b ua ub sat => exact .inr (iadd_laneRow hs ..)
  case isub d a b ua ub sat => exact .inr (isub_laneRow hs ..)
  case iaddc d a b ua ub co c uc => exact .inr (.of_words hs rfl (exec_iaddc s) rfl fun _ => addCarry_eq co _ _ _)
  case imul => exact .inr (.of_words hs rfl (exec_imul s) rfl fun _ => mul_eq_ofNat _ _)
  case imulh => exact .inr (.of_words hs rfl (exec_imulh s) rfl fun _ => rfl)
  case imulhu => exact .inr (.of_words hs rfl (exec_imulhu s) rfl fun _ => rfl)
  case imad => exact .inr (.of_words hs rfl (exec_imad s) rfl fun _ => mul_add_eq_ofNat _ _ _)
  case imin => exact .inr (.of_words hs rfl (exec_imin s) rfl fun _ => ite_slt_eq_min _ _)
  case imax => exact .inr (.of_words hs rfl (exec_imax s) rfl fun _ => ite_slt_eq_max _ _)
  case iminu => exact .inr (.of_words hs rfl (exec_iminu s) rfl fun _ => ite_ult_eq_min _ _)
  case imaxu => exact .inr (.of_words hs rfl (exec_imaxu s) rfl fun _ => ite_ult_eq_max _ _)
  case iabs => exact .inr (.of_words hs rfl (exec_iabs s) rfl fun _ => ite_neg_eq_natAbs _)
  case and => exact .inr (.of_words hs rfl (exec_and s) rfl fun _ => rfl)
  case or => exact .inr (.of_words hs rfl (exec_or s) rfl fun _ => rfl)
  case xor => exact .inr (.of_words hs rfl (exec_xor s) rfl fun _ => rfl)
  case andn => exact .inr (.of_words hs rfl (exec_andn s) rfl fun _ => rfl)
  case shl => exact .inr (.of_words hs rfl (exec_shl s) rfl fun _ => shiftLeft_eq_ofNat _ _)
  case shlImm => exact .inr (.of_words hs rfl (exec_shlImm s) rfl fun _ => shiftLeft_eq_ofNat _ _)
  case shr => exact .inr (.of_words hs rfl (exec_shr s) rfl fun _ => ushiftRight_eq_ofNat _ _)
  case shrImm => exact .inr (.of_words hs rfl (exec_shrImm s) rfl fun _ => ushiftRight_eq_ofNat _ _)
  case sra => exact .inr (.of_words hs rfl (exec_sra s) rfl fun _ => sshiftRight_eq_ofInt _ _)
  case sraImm => exact .inr (.of_words hs rfl (exec_sraImm s) rfl fun _ => sshiftRight_eq_ofInt _ _)
  case rol => exact .inr (.of_words hs rfl (exec_rol s) rfl fun _ => rfl)
  case rolImm => exact .inr (.of_words hs rfl (exec_rolImm s) rfl fun _ => rfl)
  case bfx => exact .inr (.of_words hs rfl (exec_bfx s) rfl fun _ => rfl)
  case bfi => exact .inr (.of_words hs rfl (exec_bfi s) rfl fun _ => rfl)
  case popc => exact .inr (.of_words hs rfl (exec_popc s) rfl fun _ => rfl)
  case clz => exact .inr (.of_words hs rfl (exec_clz s) rfl fun _ => rfl)
  case brev => exact .inr (.of_words hs rfl (exec_brev s) rfl fun _ => rfl)
  case sel => exact .inr (.of_lanes hs (exec_sel s) rfl rfl)
  case mov => exact .inr (.of_words hs rfl (exec_mov s) rfl fun _ => rfl)
  case tag => exact .inr (.of_words hs rfl (exec_tag s) rfl fun _ => rfl)
  case li => exact .inr (.of_words hs rfl (exec_li s) rfl fun _ => rfl)
  case lih => exact .inr (.of_words hs rfl (exec_lih s) rfl fun _ => lih_row _ _)
  case iaddi => exact .inr (.of_words hs rfl (exec_iaddi s) rfl fun _ => add_signExtend_eq_ofInt _ _)
  case pget => exact .inr (.of_lanes hs (exec_pget s) rfl rfl)
  case fadd => exact .inr (.of_floats hs (exec_fadd s) rfl rfl)
  case fsub => exact .inr (.of_floats hs (exec_fsub s) rfl rfl)
  case fmul => exact .inr (.of_floats hs (exec_fmul s) rfl rfl)
  case ffma => exact .inr (.of_floats hs (exec_ffma s) rfl rfl)
  case fmin => exact .inr (.of_floats hs (exec_fmin s) rfl rfl)
  case fmax => exact .inr (.of_floats hs (exec_fmax s) rfl rfl)
  case fminn => exact .inr (.of_floats hs (exec_fminn s) rfl rfl)
  case fmaxn => exact .inr (.of_floats hs (exec_fmaxn s) rfl rfl)
  case fabs => exact .inr (.of_floats hs (exec_fabs s) rfl rfl)
  case fneg => exact .inr (.of_floats hs (exec_fneg s) rfl rfl)
  case fclmp => exact .inr (.of_floats hs (exec_fclmp s) rfl rfl)
  case frnd => exact .inr (.of_floats hs (exec_frnd s) rfl rfl)
  case ffrac => exact .inr (.of_floats hs (exec_ffrac s) rfl rfl)
  case frcp => exact .inr (.of_floats hs (exec_frcp s) rfl rfl)
  case frsq => exact .inr (.of_floats hs (exec_frsq s) rfl rfl)
  case fsqrt => exact .inr (.of_floats hs (exec_fsqrt s) rfl rfl)
  case fex2 => exact .inr (.of_floats hs (exec_fex2 s) rfl rfl)
  case flg2 => exact .inr (.of_floats hs (exec_flg2 s) rfl rfl)
  case fsin => exact .inr (.of_floats hs (exec_fsin s) rfl rfl)
  case fcos => exact .inr (.of_floats hs (exec_fcos s) rfl rfl)
  case icvtf => exact .inr (.of_conversions hs (exec_icvtf s) rfl rfl)
  case fcvti => exact .inr (.of_conversions hs (exec_fcvti s) rfl rfl)
  case pack => exact .inr (pack_laneRow hs ..)
  case unpk => exact .inr (.of_conversions hs (exec_unpk s) rfl rfl)
  case hadd2 => exact .inr (.of_halves hs (exec_hadd2 s) rfl rfl)
  case hmul2 => exact .inr (.of_halves hs (exec_hmul2 s) rfl rfl)
  case hfma2 => exact .inr (.of_halves hs (exec_hfma2 s) rfl rfl)
  case fdot4 => exact .inr (.of_dots hs (exec_fdot4 s) rfl rfl)
  case fdot8 => exact .inr (.of_dots hs (exec_fdot8 s) rfl rfl)
  case rsvfin => exact .inr (rsvfin_laneRow hs ..)
  case xshf => exact .inr (.of_shuffle hs (exec_xshf s) rfl rfl fun _ => rfl)
  case xrot => exact .inr (.of_shuffle hs (exec_xrot s) rfl rfl fun _ => rfl)
  case xbc => exact .inr (.of_shuffle hs (exec_xbc s) rfl rfl fun _ => rfl)
  case xstep => exact .inr (.of_shuffle hs (exec_xstep s) rfl rfl fun _ => step_row ..)
  case xred => exact .inr (.of_cross hs (exec_xred s) rfl rfl)
  case xscn => exact .inr (.of_cross hs (exec_xscn s) rfl rfl)
  case xbal => exact .inr (.of_cross hs (exec_xbal s) rfl rfl)
  case xcnt => exact .inr (.of_cross hs (exec_xcnt s) rfl rfl)
  case xfst => exact .inr (.of_cross hs (exec_xfst s) rfl rfl)
  case aadd => exact .inr (.of_words hs rfl (exec_aadd s) rfl fun _ => add_eq_ofNat _ _)
  case ashl => exact .inr (.of_words hs rfl (exec_ashl s) rfl fun _ => shiftLeft_eq_ofNat _ _)
  case ashlImm => exact .inr (.of_words hs rfl (exec_ashlImm s) rfl fun _ => shiftLeft_eq_ofNat _ _)
  case aand => exact .inr (.of_words hs rfl (exec_aand s) rfl fun _ => rfl)
  case amov => exact .inr (.of_words hs rfl (exec_amov s) rfl fun _ => rfl)
  case ali => exact .inr (.of_words hs rfl (exec_ali s) rfl fun _ => rfl)
  case aform => exact .inr (.of_words hs rfl (exec_aform s) rfl fun _ => rfl)
  all_goals exact .inl rfl

/-- A vector operation that no lane executes leaves the machine as it is (R103). -/
theorem State.vector_of_idle {s : State} {i : Instr} (h : s.iss.mask (profile i).slot = 0)
    (g : Reads → Nat → Word × DWord) : s.vector i g = s := by
  unfold State.vector State.writeAll State.latchL
  simp only [h, if_true]
  exact State.releases_of_idle h

/-- Settles O24: each row is one vector operation (`laneRow_of_issuing`), whose result `State.vector_spec` gives and whose
releases `State.vector_released` gives. -/
theorem vectorResults : Obligations.VectorResults := by
  intro s x i f hs hr hf
  rcases laneRow_of_issuing hs i with none | ⟨f', row, d, g, written, run, result⟩
  · cases none.symm.trans hf
  obtain rfl : f' = f := Option.some.inj (row.symm.trans hf)
  obtain ⟨hx, hw, -, -, ho, -⟩ := hr
  refine ⟨fun idle => run.trans (congrArg _ (State.vector_of_idle idle g)), fun hm => ?_⟩
  obtain ⟨only, y, hy, vectors, value⟩ := State.vector_spec hx ho hw written hm g
  obtain ⟨y', hy', released⟩ := State.vector_released hx ho written hm g
  obtain rfl : y' = y := Option.some.inj (hy'.symm.trans hy)
  rw [result, hw] at value
  exact ⟨d, _, y', written, run, only, hy, vectors, value, released⟩

/-! ### Predicates (R43, R165, R172) -/

theorem Lane.setPred_only (l : Lane) (p : Nat) (b : Bool) : l.setPred p b = { l with pw := (l.setPred p b).pw } := by
  unfold Lane.setPred
  split <;> rfl

/-- A predicate write moves its own bit and no other; P0 stays (R43). -/
theorem Lane.setPred_getLsbD (l : Lane) (p : Nat) (b : Bool) {q : Nat} (hq : q < 8) :
    (l.setPred p b).pw.getLsbD q = if q = p ∧ p ≠ 0 then b else l.pw.getLsbD q := by
  unfold Lane.setPred
  by_cases hp : p = 0
  · simp [hp]
  have bit : (1#8 <<< p).getLsbD q = decide (q = p) := by
    rw [BitVec.getLsbD_shiftLeft, decide_eq_true hq, BitVec.getLsbD_one, Bool.true_and, decide_eq_true (by decide : 0 < 8),
      Bool.true_and, Bool.eq_iff_iff]
    simp only [Bool.and_eq_true, Bool.not_eq_true', decide_eq_false_iff_not, decide_eq_true_eq]
    omega
  rw [if_neg hp]
  cases b with
  | true =>
    rw [if_pos rfl, BitVec.getLsbD_or, bit]
    by_cases hqp : q = p <;> simp [hp, hqp]
  | false =>
    rw [if_neg (by decide), BitVec.getLsbD_and, BitVec.getLsbD_not, bit, decide_eq_true hq]
    by_cases hqp : q = p <;> simp [hp, hqp]

/-- A predicate row gives the predicate of each executing lane its value, keeps the flags of its reads and its lanes on their
way, and releases its sources (R51, R165). -/
theorem State.predicate_spec {s : State} {x : Course} (hr : Running s x) {i : Instr} (hslot : (profile i).slot = 1) (p : Nat)
    (conj : Bool) (b : Nat → Bool) (fl : DWord) (due : Nat) :
    ∃ y, OnlyCourse s (((s.writePred s.iss.g1 p conj b).addFlags s.iss.course fl due).releases i) s.iss.course ∧
      (((s.writePred s.iss.g1 p conj b).addFlags s.iss.course fl due).releases i).course? s.iss.course = some y ∧
      y = { x with lanes := y.lanes, v := y.v, flights := y.flights } ∧
      (∀ j, j < x.w → y.lane j = if Mask.has s.iss.g1 j
        then (x.lane j).setPred p (b j && (!conj || (s.iss.src.lane j).pred p)) else x.lane j) ∧
      ∀ v ∈ lastUses i, Released s y v s.iss.g1 := by
  obtain ⟨hx, -, hl, -⟩ := hr
  let write (j : Nat) (l : Lane) : Lane := l.setPred p (b j && (!conj || (s.iss.src.lane j).pred p))
  obtain ⟨only, moved⟩ := State.onCourse_spec hx fun z => z.onLanes s.iss.g1 write
  have flags := (s.writePred s.iss.g1 p conj b).addFlags_keeps s.iss.course fl due
  obtain ⟨z, hz, hzv, hzo, -⟩ := flags.2.2 _ moved
  obtain ⟨all, -, y, hy, hyv, hyo, released⟩ := State.releases_after (only.trans flags.1) hz i
  rw [hslot] at released
  refine ⟨y, all, hy, ?_, fun j hj => ?_, released⟩
  · have ho : y.o = x.o := hyo.trans hzo
    rw [hyv, ho, hzv]
    rfl
  · refine Eq.trans ?_ (x.onLanes_lane s.iss.g1 write (hl ▸ hj))
    rw [hyv, hzv]
    rfl

theorem exec_predicate {s : State} {x : Course} (hs : Issuing s) (hr : Running s x) {i : Instr} (hslot : (profile i).slot = 1)
    {p : BitVec 3} {conj : Bool} {c : Course → Word → Word → Bool × DWord} (run : exec i s = vecPred i p conj c s) :
    ∃ t y, exec i s = .next t ∧ OnlyCourse s t s.iss.course ∧ t.course? s.iss.course = some y ∧
      y = { x with lanes := y.lanes, v := y.v, flights := y.flights } ∧
      (∀ j, j < x.w → y.lane j = { x.lane j with pw := (y.lane j).pw } ∧ ∀ q, q < 8 →
        (y.lane j).pw.getLsbD q = if q = p.toNat ∧ p ≠ 0 ∧ Mask.has s.iss.g1 j = true
          then (c s.iss.src ((s.iss.reads i).v 0 j) ((s.iss.reads i).v 1 j)).1 && (!conj || (s.iss.src.lane j).pred q)
          else (x.lane j).pw.getLsbD q) ∧
      ∀ v ∈ lastUses i, Released s y v s.iss.g1 := by
  have hw := hr.2.1
  obtain ⟨y, only, hy, moved, lanes, released⟩ := State.predicate_spec hr hslot p.toNat conj
    (fun j => (((List.range s.iss.src.w).map fun j =>
      c s.iss.src ((s.iss.reads i).v 0 j) ((s.iss.reads i).v 1 j)).getD j (false, 0)).1)
    (if s.iss.mask 1 = 0 then 0 else (s.iss.reads i).flags ||| orFlags (s.iss.mask 1) (((List.range s.iss.src.w).map fun j =>
      c s.iss.src ((s.iss.reads i).v 0 j) ((s.iss.reads i).v 1 j)).map (·.2)))
    (s.clkOf s.iss.course + boundOf i s.iss.src.tower)
  refine ⟨_, y, run.trans (gated_next hs _), only, hy, moved, fun j hj => ?_, released⟩
  rw [lanes j hj, getD_map_range (hw ▸ hj)]
  have zero : p ≠ 0 ↔ p.toNat ≠ 0 := not_congr BitVec.toNat_inj.symm
  cases hm : Mask.has s.iss.g1 j with
  | false => exact ⟨rfl, fun q _ => by simp⟩
  | true =>
    refine ⟨Lane.setPred_only _ _ _, fun q hq => ?_⟩
    rw [if_pos rfl, Lane.setPred_getLsbD _ _ _ hq]
    by_cases hqp : q = p.toNat
    · subst hqp
      simp only [zero, true_and, and_true]
    · simp only [hqp, false_and, if_false]

/-- Settles O25: ICMP, FCMP and PSET are predicate rows (`exec_predicate`). -/
theorem predicateResults : Obligations.PredicateResults := by
  refine ⟨fun s x i p conj f hs hr _ hi => ?_, fun l => rfl, fun l b => rfl⟩
  rcases hi with ⟨c, a, b, ua, ub, rfl, rfl⟩ | ⟨c, a, b, ua, ub, rfl, rfl⟩ | ⟨a, ua, rfl, rfl, rfl⟩
  · exact exec_predicate hs hr rfl (exec_icmp s)
  · exact exec_predicate hs hr rfl (exec_fcmp s)
  · exact exec_predicate hs hr rfl (exec_pset s)

end Sys2Proof.Machine

/-!
# Memory rows and requests to the cluster units are posted

An operation that is posted opens the writes of its destinations and releases its sources (`State.memRow_posts`); the rows of
slot 2 differ in the operation alone (R255, R258, R261 to R278, R332 to R356).
-/

namespace Sys2Proof.Machine

/-! ### What a posted row leaves behind (R51, R145, R258) -/

/-- A write of an operation is on its way to a register. -/
def OpensWrite (y : Course) (v : Nat) (m : Mask) (op : Nat) : Prop :=
  ∃ f ∈ y.flights, f.v = some v ∧ f.release = false ∧ f.mask = m ∧ f.op = some op

theorem OpensWrite.keep {s t : State} {c : Nat} {y z : Course} {v : Nat} {m : Mask} {op : Nat} (h : OpensWrite y v m op)
    (keeps : KeepsWrites c s t) (hy : s.course? c = some y) (hz : t.course? c = some z) : OpensWrite z v m op := by
  obtain ⟨f, hf, hv, hr, rest⟩ := h
  obtain ⟨z', hz', -, -, kept⟩ := keeps.2.2 y hy
  obtain rfl := Option.some.inj (hz.symm.trans hz')
  exact ⟨f, kept f hf hr, hv, hr, rest⟩

theorem State.addWrite_opens {s : State} {c : Nat} {y : Course} (hy : s.course? c = some y) (v : Nat) (m : Mask) (vals : Lanes)
    (tag : Tag) (fl : DWord) (due : Option Nat) (op : Nat) :
    ∃ z, (s.addWrite c v m vals tag fl due (some op)).2.course? c = some z ∧ OpensWrite z v m op :=
  ⟨_, State.course?_onCourse_self (s := s.fresh.2) hy _, _, List.mem_append_right _ (List.mem_singleton_self _), rfl, rfl, rfl,
    rfl⟩

theorem foldl_addWrite_opens {c : Nat} (m : Mask) (op : Nat) (tag : Nat → Tag) :
    ∀ (l : List (Nat × Nat)) (t : State) (y : Course), t.iss.course = c → t.course? c = some y →
      let u := l.foldl (fun s p => (s.addWrite s.iss.course p.1 m [] (tag p.2) 0 none (some op)).2) t
      KeepsWrites c t u ∧ ∃ z, u.course? c = some z ∧ ∀ p ∈ l, OpensWrite z p.1 m op := by
  intro l
  induction l with
  | nil => exact fun t y _ hy => ⟨KeepsWrites.refl c t, y, hy, fun p hp => nomatch hp⟩
  | cons p l ih =>
    intro t y hc hy
    subst hc
    have first := t.addWrite_keeps t.iss.course p.1 m [] (tag p.2) 0 none (some op)
    obtain ⟨a, ha, opened⟩ := State.addWrite_opens hy p.1 m [] (tag p.2) 0 none op
    obtain ⟨rest, z, hz, others⟩ := ih _ a (congrArg Issue.course (State.addWrite_iss ..)) ha
    exact ⟨first.trans rest, z, hz, List.forall_mem_cons.2 ⟨opened.keep rest ha hz, others⟩⟩

/-- The first four destinations of an operation that are registers of the renamed file have their writes on the way. -/
theorem State.openDests_opens {s : State} {y : Course} (hy : s.course? s.iss.course = some y) (i : Instr) (m : Mask) (op : Nat) :
    ∃ z, (s.openDests i m op).course? s.iss.course = some z ∧
      ∀ v ∈ (profile i).written.take 4, v < 64 → OpensWrite z v m op := by
  obtain ⟨-, z, hz, opened⟩ := foldl_addWrite_opens m op (fun k => (s.iss.resultTags i).getD k .und)
    ((profile i).written.zipIdx.filter fun p => p.1 < 64 && p.2 < 4) s y rfl hy
  refine ⟨z, hz, fun v hv file => ?_⟩
  obtain ⟨k, hk, rfl⟩ := List.mem_take_iff_getElem.1 hv
  refine opened (_, k) (List.mem_filter.2 ⟨List.mem_zipIdx_iff_getElem?.2 (List.getElem?_eq_getElem (by omega)), ?_⟩)
  simp only [Bool.and_eq_true, decide_eq_true_eq]
  exact ⟨file, by omega⟩

/-- A course takes in an operation, which its counter counts. -/
def MemOp.join (o : MemOp) (id : Nat) (x : Course) : Course :=
  { (match o.cnt with | some k => x.count id k | none => x) with ops := x.ops ++ [{ o with id := id }] }

theorem State.postOp_eq (s : State) (i : Instr) {o : MemOp} (ha : o.act ≠ 0) :
    s.postOp i o = (s.fresh.2.onCourse s.iss.course (o.join s.uid)).openDests i o.act s.uid :=
  if_neg ha

theorem State.postOp_opens {s : State} {x : Course} (hx : s.course? s.iss.course = some x) (i : Instr) {o : MemOp}
    (ha : o.act ≠ 0) :
    ∃ y, Posts s (s.postOp i o) s.iss.course x y o ∧
      ∀ v ∈ (profile i).written.take 4, v < 64 → OpensWrite y v o.act s.uid := by
  obtain ⟨y, posts⟩ := State.postOp_spec hx i o ha
  have joined := State.course?_onCourse_self (s := s.fresh.2) hx (o.join s.uid)
  have iss : (s.fresh.2.onCourse s.iss.course (o.join s.uid)).iss = s.iss := State.onCourse_iss _ _ _
  obtain ⟨z, hz, opened⟩ := State.openDests_opens (by rw [iss]; exact joined) i o.act s.uid
  rw [← State.postOp_eq s i ha, iss] at hz
  obtain rfl := Option.some.inj (hz.symm.trans posts.at_)
  exact ⟨z, posts, opened⟩

/-- A memory row posts its operation, opens the writes of its destinations, and releases its sources. -/
theorem State.memRow_posts {s : State} {x : Course} (hx : s.course? s.iss.course = some x) (i : Instr) {o : MemOp}
    (ha : o.act ≠ 0) :
    ∃ y, Posts s (s.memRow i o) s.iss.course x y o ∧
      (∀ v ∈ (profile i).written.take 4, v < 64 → OpensWrite y v o.act s.uid) ∧
      ∀ v ∈ lastUses i, Released s y v (s.iss.mask (profile i).slot) := by
  obtain ⟨y, posts, opened⟩ := State.postOp_opens hx i ha
  have flags := (s.postOp i o).addFlags_keeps s.iss.course (s.iss.reads i).flags ((s.postOp i o).clkOf s.iss.course + 2)
  obtain ⟨a, posted, -⟩ := posts.keep flags
  obtain ⟨-, keeps, z, hz, -, -, released⟩ := State.releases_after posted.only posted.at_ i
  obtain ⟨z', done, -⟩ := posted.keep keeps
  obtain rfl := Option.some.inj (hz.symm.trans done.at_)
  have same : s.memRow i o =
      ((s.postOp i o).addFlags s.iss.course (s.iss.reads i).flags ((s.postOp i o).clkOf s.iss.course + 2)).releases i := by
    rw [State.memRow, State.readFlags, posts.only.iss_course]
  rw [same]
  exact ⟨z, done, fun v hv file => ((opened v hv file).keep flags posts.at_ posted.at_).keep keeps posted.at_ hz, released⟩

/-! ### Memory rows (R261 to R278) -/

/-- The instruction posts an operation of this kind and class, for the lanes that execute it, with the words that they send. -/
structure PostsRow (s : State) (i : Instr) (k : OpKind) (cls : BitVec 2) (nt : Bool) (o : MemOp) : Prop where
  next : exec i s = .next (s.memRow i o)
  kind : o.kind = k
  cls : o.cls = cls
  nt : o.nt = nt
  cnt : o.cnt = counterOf i
  act : o.act = s.iss.mask (profile i).slot
  scratch : ∀ a, accessOf i = some a → o.scratch = a.scratch
  lanes : ∃ cmp, o.lanes = s.iss.lanesOf i (memoryData s i k) cmp ∧ ((∃ rv, k = .cas rv) → cmp = (s.iss.reads i).v 2)

section rows
variable {s : State} {i : Instr}

theorem Issue.newOp_scratch (x : Issue) (k : OpKind) (cls : BitVec 2) {a : Access} (h : accessOf i = some a) :
    (x.newOp i k cls).scratch = a.scratch := by
  rw [Issue.newOp, h]

theorem PostsRow.of_load {bytes words : Nat} {sx : Bool} {ac : BitVec 2} {nt : Bool} (hs : Issuing s)
    (run : exec i s = loadRow i bytes sx words ac nt s) : ∃ o, PostsRow s i (.load bytes sx words) ac nt o :=
  ⟨_, run.trans (gated_next hs _), rfl, rfl, rfl, rfl, rfl, fun _ h => s.iss.newOp_scratch (.load bytes sx words) ac h,
    fun _ => 0, rfl, fun ⟨_, h⟩ => (nomatch h)⟩

theorem PostsRow.of_store {bytes words : Nat} {ac : BitVec 2} {nt : Bool} (hs : Issuing s)
    (run : exec i s = storeRow i bytes words ac nt s) : ∃ o, PostsRow s i (.store bytes words) ac nt o :=
  ⟨_, run.trans (gated_next hs _), rfl, rfl, rfl, rfl, rfl, fun _ h => s.iss.newOp_scratch (.store bytes words) ac h,
    fun _ => 0, rfl, fun ⟨_, h⟩ => (nomatch h)⟩

theorem PostsRow.of_word {k : OpKind} {ac : BitVec 2} {scope : BitVec 3} {ext : Bool} (hs : Issuing s)
    (run : exec i s = wordRow i k ac scope ext s) (data : memoryData s i k = fun j => [(s.iss.reads i).v 0 j]) :
    ∃ o, PostsRow s i k ac false o :=
  ⟨_, run.trans (gated_next hs _), rfl, rfl, rfl, rfl, rfl, fun _ h => s.iss.newOp_scratch k ac h,
    fun j => (s.iss.reads i).v 2 j, by rw [data], fun _ => rfl⟩

theorem lda_postsRow (hs : Issuing s) (t : Code) (r : SReg) (o : Code) (ac : BitVec 2) (uo : Bool) (scope : BitVec 3)
    (ext : Bool) : ∃ p, PostsRow s (.lda t r o ac uo scope ext) .lda ac false p :=
  ⟨_, (exec_lda s).trans (gated_next hs _), rfl, rfl, rfl, rfl, rfl, fun _ h => s.iss.newOp_scratch .lda ac h,
    fun _ => 0, rfl, fun ⟨_, h⟩ => (nomatch h)⟩

/-- Each memory row posts one operation. -/
theorem memoryRow_posts (hs : Issuing s) {k : OpKind} {cls : BitVec 2} {nt : Bool} (h : memoryRow i = some (k, cls, nt)) :
    ∃ o, PostsRow s i k cls nt o := by
  cases i with
  | ldB | ldBs | ldH | ldHs | ldW | ldd | ldq | ldc | ldu | ldsB | ldsBs | ldsH | ldsHs | ldsW | ldsc =>
    cases h
    exact PostsRow.of_load hs rfl
  | stB | stH | stW | std | stq | stc | stsB | stsH | stsW | stsc =>
    cases h
    exact PostsRow.of_store hs rfl
  | amo | amos | cas | cass | sig | stl =>
    cases h
    exact PostsRow.of_word hs rfl rfl
  | lda =>
    cases h
    exact lda_postsRow hs ..
  | _ => exact nomatch h

/-- A memory row forms an address, counts on a counter, and names at most four destinations. -/
theorem memoryRow_shape {k : OpKind × BitVec 2 × Bool} (h : memoryRow i = some k) :
    (∃ a, accessOf i = some a) ∧ (∃ q, counterOf i = some q) ∧ (profile i).written.length ≤ 4 := by
  cases i with
  | ldB | ldBs | ldH | ldHs | ldW | ldd | ldq | ldc | ldu | ldsB | ldsBs | ldsH | ldsHs | ldsW | ldsc | stB | stH | stW
  | std | stq | stc | stsB | stsH | stsW | stsc | sig | stl | lda =>
    exact ⟨⟨_, rfl⟩, ⟨_, rfl⟩, Nat.le_of_ble_eq_true rfl⟩
  | amo t r o ac ut uo rv | amos t r o ac ut uo rv | cas t r o ac ut uo rv | cass t r o ac ut uo rv =>
    exact ⟨⟨_, rfl⟩, ⟨_, rfl⟩, by cases rv <;> exact Nat.le_of_ble_eq_true rfl⟩
  | _ => exact nomatch h

end rows

/-- The lanes of a memory row: one for a uniform access, and its lane, address and data in each. -/
theorem Issue.lanesOf_eq {x : Issue} {i : Instr} {a : Access} (h : accessOf i = some a) (data : Nat → List Word)
    (cmp : Nat → Word) :
    x.lanesOf i data cmp = (if a.mode = .uniform then (Mask.toList x.g2).take 1 else Mask.toList x.g2).map fun j =>
      ⟨j, x.addr a j, data j, cmp j, .pending, none⟩ := by
  rw [Issue.lanesOf, h]
  simp only [beq_iff_eq]

/-- Settles O28: the row posts its operation (`memoryRow_posts`), and `State.memRow_posts` says what that leaves behind. -/
theorem memoryRowsPost : Obligations.MemoryRowsPost := by
  intro s x i k cls nt hs hr hg hi
  obtain ⟨hslot, -⟩ := exec_memoryRow hi
  obtain ⟨⟨a, ha⟩, ⟨q, hq⟩, four⟩ := memoryRow_shape hi
  obtain ⟨o, row⟩ := memoryRow_posts hs hi
  obtain ⟨cmp, lanes, compare⟩ := row.lanes
  have act : o.act = s.iss.g2 := by
    rw [row.act, hslot]
    rfl
  obtain ⟨y, posts, opened, released⟩ := State.memRow_posts hr.1 i (act ▸ hg)
  rw [hslot] at released
  rw [List.take_of_length_le four, act] at opened
  have outs := posts.outs
  rw [row.cnt, hq] at outs
  rw [Issue.lanesOf_eq ha] at lanes
  refine ⟨_, y, { o with id := s.uid }, a, row.next, posts.only, posts.at_, posts.posted, ha, posts.ops, row.kind, row.cls,
    row.nt, row.scratch a ha, act, ⟨q, hq, outs⟩, ?_, fun hc l hl => ?_, fun l hl => ?_, opened, released⟩
  · rw [lanes, List.map_map]
    rfl
  · rw [lanes] at hl
    obtain ⟨j, -, rfl⟩ := List.mem_map.1 hl
    rw [compare hc]
  · rw [lanes] at hl
    obtain ⟨j, -, rfl⟩ := List.mem_map.1 hl
    rfl

/-! ### Requests to the cluster units (R332, R341, R348, R355, R356) -/

/-- A request is posted for the executing lanes, with its record or descriptor and the operands that it read. -/
theorem request_posts {s : State} {x : Course} (hr : Running s x) (hg : s.iss.g2 ≠ 0) {i : Instr} (k : OpKind) (r : SReg)
    (hslot : (profile i).slot = 2) (hc : counterOf i = some 0)
    (next : exec i s = .next (s.memRow i (s.iss.request i k r fun _ => 0))) :
    ∃ t y o, exec i s = .next t ∧ OnlyCourse s t s.iss.course ∧ t.course? s.iss.course = some y ∧ OnlyPosted x y ∧
      y.ops = x.ops ++ [o] ∧ y.outs = x.outs ++ [⟨o.id, 0, false⟩] ∧ o.kind = k ∧ o.base = s.iss.src.s r.toNat ∧
      o.opnds = (s.iss.reads i).vals ∧ o.lanes.map (fun l => l.lane) = Mask.toList s.iss.g2 ∧
      (∀ v ∈ ((profile i).written.take 4), v < 64 → ∃ f ∈ y.flights, f.v = some v ∧ f.release = false ∧ f.mask = s.iss.g2 ∧
        f.op = some o.id) ∧
      ∀ v ∈ lastUses i, Released s y v s.iss.g2 := by
  have act : (s.iss.request i k r fun _ => 0).act = s.iss.g2 := by
    show s.iss.mask (profile i).slot = s.iss.g2
    rw [hslot]
    rfl
  obtain ⟨y, posts, opened, released⟩ := State.memRow_posts hr.1 i (act ▸ hg)
  rw [hslot] at released
  rw [act] at opened
  have outs := posts.outs
  rw [show (s.iss.request i k r fun _ => 0).cnt = some 0 from hc] at outs
  refine ⟨_, y, { s.iss.request i k r (fun _ => 0) with id := s.uid }, next, posts.only, posts.at_, posts.posted, posts.ops,
    outs, rfl, rfl, rfl, ?_, opened, released⟩
  rw [Issue.request, List.map_map]
  exact List.map_id _

/-- Settles O31: all four are `request_posts`. -/
theorem clusterRequestsPost : Obligations.ClusterRequestsPost := by
  intro s x i k r hs hr hg hi
  rcases hi with ⟨t, o, fl, rfl, rfl⟩ | ⟨t, o, uo, n, rfl, rfl⟩ | ⟨t, o, flt, adr, lod, rfl, rfl⟩ | ⟨t, l, rfl, rfl⟩
  · exact request_posts hr hg _ r rfl rfl ((exec_trace s).trans (gated_next hs _))
  · exact request_posts hr hg _ r rfl rfl ((exec_visq s).trans (gated_next hs _))
  · exact request_posts hr hg _ r rfl rfl ((exec_tsamp s).trans (gated_next hs _))
  · exact request_posts hr hg _ r rfl rfl ((exec_tsize s).trans (gated_next hs _))

end Sys2Proof.Machine

/-!
# Commands of the matrix engine and collectives

What a command of slot 3 leaves behind when it joins its engine (R287, R297, R298, R300, R519).
-/

namespace Sys2Proof.Machine

/-! ### Matrix commands (R287, R290, R297, R298, R300) -/

/-- A command stands last in the queue of the engine of the core. -/
theorem State.pushCmd_mq (s : State) (m : MCmd) :
    ((s.pushCmd m).core s.iss.src.coreKey).mq = (s.core s.iss.src.coreKey).mq ++ [{ m with id := s.uid, seq := s.uid }] := by
  unfold State.pushCmd
  dsimp only
  split
  · rw [State.core_onCore_self]
    rfl
  · rw [State.core_onCourse, State.core_onCore_self]
    rfl

/-- The write of MACL to the register j of its four (R300). -/
def maclFlight (u d : Nat) (m : Mask) (j : Nat) : Flight := ⟨u + j, some (d + j), false, m, [], .f32, 0, none, false, false, none⟩

/-- The first n writes of MACL, with their identifiers. -/
def State.openMacl (s : State) (c d : Nat) (m : Mask) (n : Nat) : List Nat × State :=
  (List.range n).foldl (fun (acc : List Nat × State) j =>
    let f := acc.2.addFlight c (d + j) m [] .f32 0 none
    (acc.1 ++ [f.1], f.2)) ([], s)

theorem State.openMacl_succ (s : State) (c d : Nat) (m : Mask) (n : Nat) :
    s.openMacl c d m (n + 1) = ((s.openMacl c d m n).1 ++ [(s.openMacl c d m n).2.uid],
      ((s.openMacl c d m n).2.addFlight c (d + n) m [] .f32 0 none).2) := by
  unfold State.openMacl
  rw [List.range_succ, List.foldl_append]
  rfl

theorem State.openMacl_frame (s : State) (c d : Nat) (m : Mask) (n : Nat) :
    (s.openMacl c d m n).1 = (List.range n).map (s.uid + ·) ∧ (s.openMacl c d m n).2.uid = s.uid + n ∧
      (s.openMacl c d m n).2.iss = s.iss ∧ ∀ k, (s.openMacl c d m n).2.core k = s.core k := by
  induction n with
  | zero => exact ⟨rfl, rfl, rfl, fun _ => rfl⟩
  | succ n ih =>
    obtain ⟨ids, uid, iss, core⟩ := ih
    rw [State.openMacl_succ]
    refine ⟨?_, (State.onCourse_uid _ _ _).trans (congrArg (· + 1) uid), (State.addWrite_iss ..).trans iss, fun k => ?_⟩
    · rw [ids, uid, List.range_succ, List.map_append]
      rfl
    · exact (State.core_onCourse _ _ _ k).trans (core k)

theorem State.openMacl_spec {s : State} {c : Nat} {x : Course} (hx : s.course? c = some x) (d : Nat) (m : Mask)
    (k : Nat × Nat) (n : Nat) :
    OnlyCourseCore s (s.openMacl c d m n).2 c k ∧
      (s.openMacl c d m n).2.course? c = some { x with flights := x.flights ++ (List.range n).map (maclFlight s.uid d m) } := by
  induction n with
  | zero => exact ⟨.refl s c k, by rw [List.range_zero, List.map_nil, List.append_nil]; exact hx⟩
  | succ n ih =>
    obtain ⟨only, here⟩ := ih
    obtain ⟨-, uid, -⟩ := s.openMacl_frame c d m n
    obtain ⟨more, -, -, next⟩ := State.addFlight_spec here (d + n) m [] .f32 0 none k
    rw [State.openMacl_succ]
    refine ⟨only.trans more, next.trans ?_⟩
    rw [uid, List.range_succ, List.map_append, List.append_assoc]
    rfl

theorem exec_macl_next {s : State} (hs : Issuing s) (hg : s.iss.g3 ≠ 0) (m : Bool) (d : Code) (g : BitVec 4) (k : BitVec 2) :
    exec (.macl m d g k) s = .next ((s.openMacl s.iss.course d.toNat s.iss.g3 4).2.pushCmd
      { MCmd.new s.iss .macl k.toNat with row := g.toNat, dst := d, mask := s.iss.g3,
                                          flight := (s.openMacl s.iss.course d.toNat s.iss.g3 4).1 }) := by
  rw [exec_macl, execMacl, slot3_next hs hg]
  rfl

/-- A command of the matrix engine other than MACL has joined the queue and counts on N3. -/
theorem queued_command {s : State} {x : Course} (hx : s.course? s.iss.course = some x) {i : Instr} (c : MCmd)
    (next : exec i s = .next (s.pushCmd c)) (course : c.course = s.iss.course) (counted : c.kind ≠ .macl) :
    ∃ t y, exec i s = .next t ∧ OnlyCourseCore s t s.iss.course s.iss.src.coreKey ∧
      (t.core s.iss.src.coreKey).mq = (s.core s.iss.src.coreKey).mq ++ [{ c with id := s.uid, seq := s.uid }] ∧
      t.course? s.iss.course = some y ∧ y = { x with outs := y.outs, flights := y.flights } ∧
      y.outs = x.outs ++ [⟨s.uid, 3, false⟩] ∧ y.flights = x.flights := by
  obtain ⟨only, queue, here⟩ := State.pushCmd_spec c (by rw [course]; exact hx)
  rw [course] at only here
  rw [if_neg (by simpa using counted)] at here
  exact ⟨_, _, next, only, queue, here, rfl, rfl, rfl⟩

theorem exec_mzero_next {s : State} (hs : Issuing s) (hg : s.iss.g3 ≠ 0) (m : Bool) (k : BitVec 2) :
    exec (.mzero m k) s = .next (s.pushCmd (MCmd.new s.iss .mzero k.toNat)) := by
  rw [exec_mzero, execMzero, slot3_next hs hg]

theorem exec_mma_next {s : State} (hs : Issuing s) (hg : s.iss.g3 ≠ 0) (m : Bool) (a b c : SReg) (fmt : BitVec 4)
    (k : BitVec 2) : exec (.mma m a b c fmt k) s = .next (s.pushCmd (s.newMma (s.mmaArgs a b c fmt k) none)) := by
  rw [exec_mma, execMma, slot3_next hs hg]

theorem exec_mdst_next {s : State} (hs : Issuing s) (hg : s.iss.g3 ≠ 0) (m : Bool) (a b : SReg) (mem : Bool)
    (cvt op k : BitVec 2) :
    exec (.mdst m a b mem cvt op k) s = .next (s.pushCmd { MCmd.new s.iss .mdst k.toNat with
      args := ⟨k.toNat, s.sIn a, 0, 0, 0⟩, stride := s.sIn b, op := op.toNat, cvt := cvt.toNat, toMem := mem }) := by
  rw [exec_mdst, execMdst, slot3_next hs hg]

/-- The command of MACL has joined the queue, and its four writes are on their way. -/
theorem queued_macl {s : State} {x : Course} (hx : s.course? s.iss.course = some x) (d : Code) {c : MCmd}
    (kind : c.kind = .macl) (course : c.course = s.iss.course) :
    let u := (s.openMacl s.iss.course d.toNat s.iss.g3 4).2
    OnlyCourseCore s (u.pushCmd c) s.iss.course s.iss.src.coreKey ∧
      ((u.pushCmd c).core s.iss.src.coreKey).mq = (s.core s.iss.src.coreKey).mq ++ [{ c with id := u.uid, seq := u.uid }] ∧
      (u.pushCmd c).course? s.iss.course =
        some { x with flights := x.flights ++ (List.range 4).map (maclFlight s.uid d.toNat s.iss.g3) } := by
  obtain ⟨only, here⟩ := State.openMacl_spec hx d.toNat s.iss.g3 s.iss.src.coreKey 4
  obtain ⟨-, -, iss, core⟩ := s.openMacl_frame s.iss.course d.toNat s.iss.g3 4
  obtain ⟨pushed, queue, there⟩ := State.pushCmd_spec c (by rw [course]; exact here)
  rw [iss, course] at pushed
  rw [iss, core] at queue
  rw [course, if_pos (by rw [kind]; rfl)] at there
  exact ⟨only.trans pushed, queue, there⟩

/-- Settles O33: MZERO, MMA and MDST push one command (`queued_command`), MACL pushes its own behind its four writes
(`queued_macl`); what the command holds is what `State.pushCmd_mq` appends. -/
theorem matrixCommands : Obligations.MatrixCommands := by
  refine ⟨fun s x i kind tile hs hr hg hi => ?_, fun s m a b c fmt k hs hg => ?_, fun s m a b mem cvt op k hs hg => ?_,
    fun s m d g k hs hg => ?_⟩
  · obtain ⟨hx, -⟩ := hr
    rcases hi with ⟨m, k, rfl, rfl, rfl⟩ | ⟨m, a, b, c, fmt, k, rfl, rfl, rfl⟩ | ⟨m, a, b, mem, cvt, op, k, rfl, rfl, rfl⟩ |
      ⟨m, d, g, k, rfl, rfl, rfl⟩
    · obtain ⟨t, y, next, only, queue, here, same, outs, flights⟩ :=
        queued_command hx _ (exec_mzero_next hs hg m k) rfl (fun h => nomatch h)
      exact ⟨t, y, _, next, only, queue, rfl, rfl, rfl, rfl, rfl, rfl, here, same, fun _ => ⟨outs, flights⟩,
        fun h => nomatch h⟩
    · obtain ⟨t, y, next, only, queue, here, same, outs, flights⟩ :=
        queued_command hx _ (exec_mma_next hs hg m a b c fmt k) rfl (fun h => nomatch h)
      exact ⟨t, y, _, next, only, queue, rfl, rfl, rfl, rfl, rfl, rfl, here, same, fun _ => ⟨outs, flights⟩,
        fun h => nomatch h⟩
    · obtain ⟨t, y, next, only, queue, here, same, outs, flights⟩ :=
        queued_command hx _ (exec_mdst_next hs hg m a b mem cvt op k) rfl (fun h => nomatch h)
      exact ⟨t, y, _, next, only, queue, rfl, rfl, rfl, rfl, rfl, rfl, here, same, fun _ => ⟨outs, flights⟩,
        fun h => nomatch h⟩
    · obtain ⟨only, queue, here⟩ := queued_macl hx d (c := { MCmd.new s.iss .macl k.toNat with
        row := g.toNat, dst := d, mask := s.iss.g3, flight := (s.openMacl s.iss.course d.toNat s.iss.g3 4).1 }) rfl rfl
      obtain ⟨ids, -⟩ := s.openMacl_frame s.iss.course d.toNat s.iss.g3 4
      refine ⟨_, _, _, exec_macl_next hs hg m d g k, only, queue, rfl, rfl, rfl, rfl, rfl, rfl, here, rfl,
        fun h => absurd rfl h, fun _ => ⟨rfl, rfl, by rw [ids]; rfl, fun q hq => ?_⟩⟩
      refine ⟨maclFlight s.uid d.toNat s.iss.g3 q, List.mem_append_right _ (List.mem_map_of_mem (List.mem_range.2 hq)), ?_,
        rfl, rfl, rfl⟩
      rw [ids, getD_map_range hq]
      rfl
  · exact ⟨_, _, exec_mma_next hs hg m a b c fmt k, State.pushCmd_mq .., rfl, rfl⟩
  · exact ⟨_, _, exec_mdst_next hs hg m a b mem cvt op k, State.pushCmd_mq .., rfl, rfl, rfl, rfl, rfl⟩
  · obtain ⟨-, -, iss, core⟩ := s.openMacl_frame s.iss.course d.toNat s.iss.g3 4
    have queue := State.pushCmd_mq (s.openMacl s.iss.course d.toNat s.iss.g3 4).2 { MCmd.new s.iss .macl k.toNat with
      row := g.toNat, dst := d, mask := s.iss.g3, flight := (s.openMacl s.iss.course d.toNat s.iss.g3 4).1 }
    rw [iss, core] at queue
    exact ⟨_, _, exec_macl_next hs hg m d g k, queue, rfl, rfl⟩

/-! ### Collectives (R115, R519) -/

/-- The record of a collective that the bundle in issue starts. -/
def State.newColl (s : State) (op : Nat) (a b c : SReg) (cop n : BitVec 3) : Coll :=
  { id := s.uid, op := op, course := s.iss.course, block := s.iss.src.info.block, ctx := s.iss.src.info.ctx,
    die := s.iss.src.info.die, core := s.iss.src.info.core, dn := n.toNat, cop := cop.toNat, src := s.sIn a, dst := s.sIn b,
    n := s.sIn c, w := s.iss.src.d.getD n.toNat [], started := false, members := [], rank := 0, written := false,
    signalled := false, flt := none, reads := [], acks := [], counted := [], old := [] }

theorem State.pushColl_eq (s : State) (op : Nat) (a b c : SReg) (cop n : BitVec 3) :
    s.pushColl op a b c cop n = { s.fresh.2 with colls := s.colls ++ [(s.uid, s.newColl op a b c cop n)] }.onCourse
      s.iss.course fun x => x.count s.uid 2 := rfl

theorem State.pushColl_spec {s : State} {x : Course} (hx : s.course? s.iss.course = some x) (op : Nat) (a b c : SReg)
    (cop n : BitVec 3) :
    s.pushColl op a b c cop n = { s with courses := (s.pushColl op a b c cop n).courses,
                                         colls := (s.pushColl op a b c cop n).colls, uid := (s.pushColl op a b c cop n).uid } ∧
      (s.pushColl op a b c cop n).colls = s.colls ++ [(s.uid, s.newColl op a b c cop n)] ∧
      (s.pushColl op a b c cop n).course? s.iss.course = some { x with outs := x.outs ++ [⟨s.uid, 2, false⟩] } := by
  refine ⟨?_, ?_, State.course?_onCourse_self (by exact hx) fun x => x.count s.uid 2⟩
  · rw [State.pushColl_eq, State.onCourse_frame]
    rfl
  · rw [State.pushColl_eq, State.onCourse_frame]

/-- Settles O40: each collective is `State.pushColl`. -/
theorem collectivesJoin : Obligations.CollectivesJoin := by
  intro s x i op a b c cop n hs hr hg hi
  obtain ⟨frame, colls, here⟩ := State.pushColl_spec hr.1 op a b c cop n
  refine ⟨_, s.newColl op a b c cop n, ?_, frame, colls, rfl, rfl, rfl, rfl, rfl, rfl, rfl, here⟩
  rcases hi with ⟨m, rfl, rfl⟩ | ⟨m, rfl, rfl, rfl⟩ | ⟨m, rfl, rfl, rfl⟩ | ⟨m, rfl, rfl⟩
  · exact (exec_cred s).trans (slot3_next hs hg _)
  · exact (exec_cbc s).trans (slot3_next hs hg _)
  · exact (exec_cag s).trans (slot3_next hs hg _)
  · exact (exec_crs s).trans (slot3_next hs hg _)

end Sys2Proof.Machine

/-!
# The checks of a bundle in issue

The order of the checks (R39, R100, R129, R145, R207, R209) and the traps of misaligned accesses and targets (R132, R151, R158).
-/

namespace Sys2Proof.Machine

/-! ### The order of the checks -/

section order
variable {s : State} {l : List Instr}

theorem State.verdict_of_busy (h : l.any s.regBusy = true) : s.verdict l = .stall := by
  rw [State.verdict, if_pos h]

theorem State.verdict_of_trap (h : l.any s.regBusy = false) {t : Trap} (ht : firstTrap (l.map s.trapsOf).flatten = some t) :
    s.verdict l = .trap t := by
  simp only [State.verdict, h, ht, Bool.false_eq_true, if_false]

theorem State.verdict_of_sleep (h : l.any s.regBusy = false) (ht : (l.map s.trapsOf).flatten = []) {st : LSt} {k : Wake}
    (hs : l.findSome? s.sleepOf = some (st, k)) : s.verdict l = .sleep st k := by
  have none : firstTrap (l.map s.trapsOf).flatten = none := minBy_eq_none.2 ht
  simp only [State.verdict, h, none, hs, Bool.false_eq_true, if_false]

theorem State.verdict_of_stall (h : l.any s.regBusy = false) (ht : (l.map s.trapsOf).flatten = [])
    (hs : l.findSome? s.sleepOf = none) (hstall : l.any s.stallOf = true ∨ s.countFull l = true) : s.verdict l = .stall := by
  have none : firstTrap (l.map s.trapsOf).flatten = none := minBy_eq_none.2 ht
  simp only [State.verdict, h, none, hs, Bool.false_eq_true, if_false, Bool.or_eq_true, hstall, if_true]

theorem State.judge_of_stall (h : s.verdict (bInstrs s.iss.bundle) = .stall) : s.judge = s.meetPre.drop := by
  simp only [State.judge, h, State.obey]

theorem State.judge_of_trap {t : Trap} (h : s.verdict (bInstrs s.iss.bundle) = .trap t) :
    s.judge = (s.takeTrap s.iss.course t false).drop := by
  simp only [State.judge, h, State.obey]

theorem State.judge_of_sleep {st : LSt} {k : Wake} (h : s.verdict (bInstrs s.iss.bundle) = .sleep st k) :
    s.judge = ((s.meetPre.sleepLanes st k).drop).fairSleep s.iss.course s.iss.src s.iss.pc := by
  simp only [State.judge, h, State.obey]

end order

/-! ### Misaligned scalar accesses (R151, R158) -/

theorem Issue.algn_single {x : Issue} {a : DWord} {n : Nat} (h : a.toNat % n ≠ 0) :
    x.algn [a] n = [x.trap algnCode a 0] := by
  have bad : misaligned a n = true := bne_iff_ne.2 h
  simp only [Issue.algn, List.find?_cons, bad]

/-- The traps of its row are among those of an instruction that executes in some lane and waits for no queue entry. -/
theorem State.ownerTraps_subset {s : State} {i : Instr} (hm : s.iss.mask (profile i).slot ≠ 0) (hq : (s.qwWaits i).1 = false)
    {t : Trap} (h : t ∈ s.ownerTraps i) : t ∈ s.trapsOf i := by
  rw [State.trapsOf, if_neg hm, hq, if_neg (by decide)]
  exact List.mem_append_right _ h

/-- A scalar access whose address is not aligned raises ALGN with that address. -/
theorem State.algn_raised {s : State} {i : Instr} {a : DWord} {n : Nat} (hm : s.iss.mask (profile i).slot ≠ 0)
    (hq : (s.qwWaits i).1 = false) (row : s.ownerTraps i = s.iss.algn [a] n) (h : a.toNat % n ≠ 0) :
    ∃ t ∈ s.trapsOf i, t.code = 0x0B ∧ t.tsa = a ∧ t.tlpc = s.iss.pc :=
  ⟨s.iss.trap algnCode a 0, State.ownerTraps_subset hm hq (by rw [row, Issue.algn_single h]; exact List.mem_singleton_self _),
    rfl, rfl, rfl⟩

/-! ### Misaligned targets (R132) -/

/-- The bits of a register in a lane: 0 in a lane that is not live (R52). -/
def Issue.rawLane (x : Issue) (code j : Nat) : Word :=
  if Mask.has (x.operand code).live j then (x.operand code).vals.getD j 0 else 0

/-- A source that is read as bits is not converted (R55). -/
theorem Issue.readReg_bits (x : Issue) (i : Instr) (m : Mask) (code : Nat) (rrd : Bool) {j : Nat} (hj : j < x.src.w) :
    (x.readReg i m code .bits rrd).1.getD j 0 = x.rawLane code j := by
  have raw : ∀ t a, wants .bits a t = none := fun t a => by
    unfold wants
    split <;> rfl
  unfold Issue.readReg
  simp only [List.map_map, getD_map_range hj, Function.comp_apply, raw]
  split
  · rfl
  · split <;> rfl

/-- The one source of an instruction, read as bits. -/
theorem Issue.reads_bits {x : Issue} {i : Instr} {c : Code} {u r : Bool} (h : (profile i).srcs = [⟨c, u, 1, .bits, r⟩]) {j : Nat}
    (hj : j < x.src.w) : (x.reads i).v 0 j = x.rawLane c.toNat j := by
  have first : (x.reads i).vals.getD 0 [] = (x.readReg i (x.readMask i 0 (x.mask (profile i).slot)) c.toNat .bits r).1 := by
    simp [Issue.reads, Issue.regsRead, h]
  rw [Reads.v, first]
  exact x.readReg_bits i _ _ r hj

/-- The mask of a list of lanes. -/
def Mask.ofList (l : List Nat) : Mask := l.foldl (fun m k => m ||| Mask.one k) 0

theorem Mask.has_one_iff {j k : Nat} (hk : k < 64) : Mask.has (Mask.one k) j = true ↔ j = k := by
  simp only [Mask.has, Mask.one, BitVec.getLsbD_shiftLeft]
  by_cases h : j = k
  · simp [h, hk]
  · have : j < k ∨ ¬ j - k = 0 := by omega
    rcases this with hlt | hne
    · simp [h, hlt]
    · simp [h, hne]

theorem Mask.has_foldl_one (l : List Nat) (m : Mask) (hl : ∀ k ∈ l, k < 64) (j : Nat) :
    Mask.has (l.foldl (fun m k => m ||| Mask.one k) m) j = true ↔ Mask.has m j = true ∨ j ∈ l := by
  induction l generalizing m with
  | nil => simp
  | cons k l ih =>
    obtain ⟨hk, hl⟩ := List.forall_mem_cons.1 hl
    rw [List.foldl_cons, ih _ hl, Mask.has_or, Bool.or_eq_true, Mask.has_one_iff hk, List.mem_cons, or_assoc]

theorem Mask.has_ofList {l : List Nat} (hl : ∀ k ∈ l, k < 64) (j : Nat) : Mask.has (Mask.ofList l) j = true ↔ j ∈ l := by
  rw [Mask.ofList, Mask.has_foldl_one l 0 hl]
  simp [Mask.has]

theorem Mask.mem_toList_iff (m : Mask) (j : Nat) : j ∈ Mask.toList m ↔ Mask.has m j = true := by
  simp only [Mask.toList, List.mem_filter, List.mem_range, and_iff_right_iff_imp]
  intro h
  by_contra out
  rw [Mask.has, BitVec.getLsbD_of_ge _ _ (by omega)] at h
  cases h

theorem Mask.ne_zero_of_has {m : Mask} {j : Nat} (h : Mask.has m j = true) : m ≠ 0 := fun zero => by
  cases h.symm.trans ((Mask.eq_zero_iff m).1 zero j)

/-- The lanes of a mask that meet a test, as a mask: its list is the list that it was made of. -/
theorem Mask.toList_ofList_filter (m : Mask) (p : Nat → Bool) :
    Mask.toList (Mask.ofList ((Mask.toList m).filter p)) = (Mask.toList m).filter p := by
  have low : ∀ k ∈ (Mask.toList m).filter p, k < 64 := fun k hk =>
    List.mem_range.1 (List.mem_filter.1 (List.mem_filter.1 hk).1).1
  have same : ∀ k ∈ List.range 64, Mask.has (Mask.ofList ((Mask.toList m).filter p)) k = (p k && Mask.has m k) := fun k _ => by
    rw [Bool.eq_iff_iff, Mask.has_ofList low, List.mem_filter, Mask.mem_toList_iff, Bool.and_eq_true, and_comm]
  conv_lhs => rw [Mask.toList, List.filter_congr same]
  rw [Mask.toList, List.filter_filter]

/-- Outside a stream a transfer traps on the misaligned targets of its executing lanes. -/
theorem Issue.targetTraps_spec {x : Issue} {i : Instr} {code : Nat} (row : x.src.info.row = none) {j : Nat}
    (hj : Mask.has x.exec j = true) (bad : (x.rawLane code j).toNat % 16 ≠ 0) :
    ∃ t ∈ x.targetTraps i code, t.code = 0x0B ∧ t.tlpc = x.pc ∧
      t.tsa = (x.rawLane code (Mask.first t.tlanes)).setWidth 64 ∧
      ∀ k, Mask.has t.tlanes k = true ↔ Mask.has x.exec k = true ∧ (x.rawLane code k).toNat % 16 ≠ 0 := by
  have off : ∀ k, misaligned ((x.rawLane code k).setWidth 64) 16 = true ↔ (x.rawLane code k).toNat % 16 ≠ 0 := fun k => by
    rw [misaligned, bne_iff_ne, BitVec.toNat_setWidth_of_le (by decide)]
  have member : ∀ k, k ∈ (Mask.toList x.exec).filter (fun k => misaligned ((x.rawLane code k).setWidth 64) 16) ↔
      Mask.has x.exec k = true ∧ (x.rawLane code k).toNat % 16 ≠ 0 := fun k => by
    rw [List.mem_filter, Mask.mem_toList_iff, off]
  have mask := Mask.toList_ofList_filter x.exec fun k => misaligned ((x.rawLane code k).setWidth 64) 16
  have here := (member j).2 ⟨hj, bad⟩
  cases lanes : (Mask.toList x.exec).filter (fun k => misaligned ((x.rawLane code k).setWidth 64) 16) with
  | nil =>
    rw [lanes] at here
    cases here
  | cons k l =>
    rw [lanes] at mask
    have run : x.targetTraps i code =
        [{ x.trap algnCode ((x.rawLane code k).setWidth 64) 0 with tlanes := Mask.ofList (k :: l) }] := by
      simp only [Issue.rawLane] at lanes
      simp only [Issue.targetTraps, row, Option.isSome_none, Bool.false_eq_true, if_false, Bool.false_and, lanes]
      rfl
    have first : Mask.first (Mask.ofList (k :: l)) = k := by
      rw [Mask.first, mask]
      rfl
    refine ⟨_, run ▸ List.mem_singleton_self _, rfl, rfl, ?_, fun n => ?_⟩
    · dsimp only
      rw [first]
      rfl
    · dsimp only
      rw [← member n, lanes, ← Mask.mem_toList_iff, mask]

/-- The source of a transfer through a register is read as bits, and its traps are those of its target. -/
theorem transfer_source {s : State} {i : Instr} {target : Nat → Word} (hi : transferOf s i = some target)
    (hcall : ∀ d, i ≠ .call d) :
    ∃ c u, (profile i).slot = 0 ∧ (profile i).srcs = [⟨c, u, 1, .bits, true⟩] ∧
      s.ownerTraps i = s.iss.targetTraps i c.toNat ∧
      ∀ j, target j = (s.iss.reads i).v 0 (if s.iss.src.info.row.isSome then 0 else j) := by
  rcases transferOf_cases s i with none | ⟨d, rfl⟩ | ⟨a, ua, rfl⟩ | ⟨a, ua, rfl⟩ | rfl
  · cases none.symm.trans hi
  · exact absurd rfl (hcall d)
  · exact ⟨a, ua, rfl, rfl, rfl, congrFun (Option.some.inj hi).symm⟩
  · exact ⟨a, ua, rfl, rfl, rfl, congrFun (Option.some.inj hi).symm⟩
  · exact ⟨63, false, rfl, rfl, rfl, congrFun (Option.some.inj hi).symm⟩

/-- A misaligned target of an executing lane raises ALGN. -/
theorem State.target_trap {s : State} {i : Instr} {target : Nat → Word} {j : Nat} (row : s.iss.src.info.row = none)
    (low : ∀ k, Mask.has s.iss.exec k = true → k < s.iss.src.w) (hi : transferOf s i = some target)
    (hcall : ∀ d, i ≠ .call d) (hq : (s.qwWaits i).1 = false) (hj : Mask.has s.iss.exec j = true)
    (bad : (target j).toNat % 16 ≠ 0) :
    ∃ t ∈ s.trapsOf i, t.code = 0x0B ∧ t.tlpc = s.iss.pc ∧ t.tsa = (target (Mask.first t.tlanes)).setWidth 64 ∧
      ∀ k, Mask.has t.tlanes k = true ↔ Mask.has s.iss.exec k = true ∧ (target k).toNat % 16 ≠ 0 := by
  obtain ⟨c, u, hslot, hsrcs, owner, target_eq⟩ := transfer_source hi hcall
  have value : ∀ k, Mask.has s.iss.exec k = true → target k = s.iss.rawLane c.toNat k := fun k hk => by
    rw [target_eq, row]
    exact Issue.reads_bits hsrcs (low k hk)
  have executing : s.iss.mask (profile i).slot ≠ 0 := by
    rw [hslot]
    exact Mask.ne_zero_of_has hj
  rw [value j hj] at bad
  obtain ⟨t, ht, code, pc, tsa, lanes⟩ := Issue.targetTraps_spec (i := i) row hj bad
  have first := ((lanes _).1 (Mask.has_first (Mask.ne_zero_of_has ((lanes j).2 ⟨hj, bad⟩)))).1
  refine ⟨t, State.ownerTraps_subset executing hq (owner ▸ ht), code, pc, by rw [tsa, value _ first], fun k => ?_⟩
  rw [lanes]
  exact and_congr_right fun hk => by rw [value k hk]

/-- Settles O6: `State.verdict` case by case, `State.algn_raised` for the scalar accesses, `State.target_trap` for the
transfers. -/
theorem admissionTraps : Obligations.AdmissionTraps := by
  refine ⟨fun s l hl => ?_, fun s d a k hm h => State.algn_raised hm rfl rfl h, fun s a b k hm h => State.algn_raised hm rfl rfl h,
    fun s a b hm h => ⟨State.algn_raised hm rfl rfl h, State.algn_raised hm rfl rfl h⟩,
    fun s i target j row low hi hcall hq hj bad => State.target_trap row low hi hcall hq hj bad⟩
  subst hl
  refine ⟨fun busy => State.judge_of_stall (State.verdict_of_busy busy), fun free => ⟨fun t ht => ?_, fun none => ⟨?_, ?_⟩⟩⟩
  · exact ⟨State.judge_of_trap (State.verdict_of_trap free ht), minBy_spec ht⟩
  · exact fun st k hs => State.judge_of_sleep (State.verdict_of_sleep free none hs)
  · exact fun hs stall => State.judge_of_stall (State.verdict_of_stall free none hs stall)

end Sys2Proof.Machine

/-!
# Spills and fills

A spill writes the register to its backing copy and frees it, a fill brings the copy back, and each moves one count of SPILLS
(R48, R60 to R62).
-/

namespace Sys2Proof.Machine

/-! ### SPILLS (R48) -/

theorem fld_spillsUp_spill (v : DWord) :
    fld (spillsUp v false) 0 32 = (fld v 0 32 + 1) % 2 ^ 32 ∧ fld (spillsUp v false) 32 32 = fld v 32 32 := by
  have := v.isLt
  simp only [spillsUp, setFld, fld, Bool.false_eq_true, if_false, BitVec.toNat_ofNat]
  omega

theorem fld_spillsUp_fill (v : DWord) :
    fld (spillsUp v true) 32 32 = (fld v 32 32 + 1) % 2 ^ 32 ∧ fld (spillsUp v true) 0 32 = fld v 0 32 := by
  have := v.isLt
  simp only [spillsUp, setFld, fld, if_true, BitVec.toNat_ofNat]
  omega

/-! ### The backing copy is reached (R60, R533) -/

/-- Reaching the backing copy of a register leaves its course as it is, but for its open area fault. -/
theorem State.backReach_course? {s u : State} {l : Loc} {x : Course} {use : Use} (hx : s.course? l.1 = some x)
    (h : s.backReach l use = (some true, u)) : u.course? l.1 = some { x with area := none } := by
  unfold State.backReach at h
  dsimp only at h
  split at h
  next reached =>
    have first := State.areaReach_course? hx (Prod.ext reached rfl)
    have second := State.areaReach_course? first h
    exact second
  next failed => exact absurd (congrArg Prod.fst h) failed

theorem State.locEntry_of_lt {s : State} {c v : Nat} {x : Course} (hx : s.course? c = some x) (hv : v < 64) :
    s.locEntry (c, v) = x.ve v := by
  rw [State.locEntry, if_pos hv, State.course_of_some hx]

theorem State.onLoc_of_lt (s : State) {c v : Nat} (hv : v < 64) (f : VEntry → VEntry) :
    s.onLoc (c, v) f = s.onCourse c fun x => { x with v := modAt v f x.v } := by
  unfold State.onLoc
  simp only [hv, if_true]

/-- A register moves and SPILLS counts it. -/
theorem State.moved_course? {s : State} {c v : Nat} {x : Course} (hx : s.course? c = some x) (hv : v < 64)
    (f : VEntry → VEntry) (fill : Bool) :
    ((s.onLoc (c, v) f).onCourse c fun y => { y with spills := spillsUp y.spills fill }).course? c =
      some { x with v := modAt v f x.v, spills := spillsUp x.spills fill } := by
  rw [State.onLoc_of_lt s hv]
  exact State.course?_onCourse_self (State.course?_onCourse_self hx _) _

/-! ### The two events (R60 to R62) -/

/-- The register that a spill leaves behind. -/
def VEntry.afterSpill (e : VEntry) : VEntry := if e.live = 0 then VEntry.empty else { e with st := .spilled, xfer := .none }

section events
variable {s u : State} {c v : Nat} {x : Course} (hv : v < 64) (hx : s.course? c = some x) (here : x.pres = .resident)
include hv hx here

theorem State.spilled_eq (hst : (x.ve v).st = .mapped) (hxfer : (x.ve v).xfer = .spilling)
    (reached : s.backReach (c, v) .write = (some true, u)) :
    s.spilled (c, v) = ((u.putBacking (c, v) (x.ve v)).onLoc (c, v) VEntry.afterSpill).onCourse c fun y =>
      { y with spills := spillsUp y.spills false } := by
  unfold State.spilled
  rw [State.locEntry_of_lt hx hv]
  simp only [State.course_of_some hx, hst, hxfer, here, reached, State.spillOwner, hv, beq_self_eq_true, Bool.and_self,
    Bool.not_true, Bool.false_eq_true, if_false, if_true]
  rfl

theorem State.filled_eq (hst : (x.ve v).st = .spilled) (hxfer : (x.ve v).xfer = .filling)
    (reached : s.backReach (c, v) .read = (some true, u)) :
    s.filled (c, v) =
      let t := ((u.useBacking (c, v)).onLoc (c, v) (u.loaded (c, v))).onCourse c fun y =>
        { y with spills := spillsUp y.spills true }
      if u.areaBad x.info.ctx (u.backPlaces (c, v)) then t.hwError c 0 (u.backing (c, v)).1 else t := by
  unfold State.filled
  rw [State.locEntry_of_lt hx hv]
  simp only [State.course_of_some hx, hst, hxfer, here, reached, beq_self_eq_true, Bool.and_self, Bool.not_true,
    Bool.false_eq_true, if_false]

end events

/-- Settles O45: `State.spilled_eq` and `State.filled_eq` give the state, `State.moved_course?` the register and SPILLS. -/
theorem spillsAndFills : Obligations.SpillsAndFills := by
  refine ⟨fun s u c v x hv hx hlen hst hxfer here reached => ?_, fun s c v x e hv hx => ?_,
    fun s u c v x hv hx hlen hst hxfer here reached => ?_⟩
  · have stored : (u.putBacking (c, v) (x.ve v)).course? c = some { x with area := none } := by
      rw [State.course?, State.putBacking_courses]
      exact State.backReach_course? hx reached
    have moved := State.moved_course? stored hv VEntry.afterSpill false
    obtain ⟨spills, fills⟩ := fld_spillsUp_spill x.spills
    refine ⟨_, _, (exec_spillComplete s).trans (congrArg Host.Outcome.next (State.spilled_eq hv hx here hst hxfer reached)), moved, ?_,
      getD_modAt_self (hlen ▸ hv) _ _, spills, fills⟩
    rw [State.onCourse_mem, State.onLoc_mem]
  · refine ⟨s.areaReqs x.info.die x.info.ctx (s.backPlaces (c, v)), State.areaReqs_mem .., ?_⟩
    unfold State.putBacking
    rw [State.course_of_some hx]
  · have used : (u.useBacking (c, v)).course? c = some { x with area := none } := by
      rw [State.course?, State.useBacking_courses]
      exact State.backReach_course? hx reached
    have moved := State.moved_course? used hv (u.loaded (c, v)) true
    have entry : (modAt v (u.loaded (c, v)) x.v).getD v VEntry.empty = u.loaded (c, v) (x.ve v) :=
      getD_modAt_self (by omega) _ _
    obtain ⟨fills, spills⟩ := fld_spillsUp_fill x.spills
    have event := (exec_fillComplete s).trans (congrArg Host.Outcome.next (State.filled_eq hv hx here hst hxfer reached))
    refine ⟨_, _, moved, entry, (congrArg VEntry.st entry).trans rfl, (congrArg VEntry.xfer entry).trans rfl, fills, spills,
      fun sound => event.trans ?_, fun bad => event.trans ?_⟩
    · rw [sound]
      rfl
    · rw [bad]
      rfl

end Sys2Proof.Machine

/-!
# A core cycle, expiry, landing and asynchronous traps

`State.Lands` says what landing results may change: of the courses in which results land their flags, vectors, counts and
writes on their way, of every course its window, and nothing else (R32, R50, R64, R166). From it follow the writes that a
cycle leaves on their way, and the clock of the core.
-/

namespace Sys2Proof.Machine

/-! ### What landing results may change (R32, R50, R64, R166) -/

/-- Of a course in which results land (`own`) its flags, vectors, counts, writes and window may change, and a write that stays
outstanding was so before; of another course its window alone. -/
structure Course.Lands (own : Prop) (x y : Course) : Prop where
  only : y = { x with flags := y.flags, v := y.v, outs := y.outs, flights := y.flights, qin := y.qin }
  open_ : ∀ g ∈ y.flights, g.ready = false → g ∈ x.flights
  other : ¬ own → y = { x with qin := y.qin }

theorem Course.Lands.refl (own : Prop) (x : Course) : Course.Lands own x x := ⟨rfl, fun _ h _ => h, fun _ => rfl⟩

theorem Course.Lands.trans {own : Prop} {x y z : Course} (h : Course.Lands own x y) (k : Course.Lands own y z) :
    Course.Lands own x z where
  only := by rw [k.only, h.only]
  open_ g hg hr := h.open_ g (k.open_ g hg hr) hr
  other ho := by rw [k.other ho, h.other ho]

theorem Course.Lands.mono {own own' : Prop} (imp : own → own') {x y : Course} (h : Course.Lands own x y) :
    Course.Lands own' x y := ⟨h.only, h.open_, fun ho => h.other fun o => ho (imp o)⟩

/-- Results have landed in courses of P. -/
structure State.Lands (P : Nat → Prop) (s t : State) : Prop where
  cores : t.cores = s.cores
  uid : t.uid = s.uid
  courses : ∀ d, Option.Rel (Course.Lands (P d)) (s.course? d) (t.course? d)

section lands
variable {P : Nat → Prop}

theorem State.Lands.refl (s : State) : State.Lands P s s where
  cores := rfl
  uid := rfl
  courses d := by
    cases s.course? d with
    | none => exact .none
    | some x => exact .some (.refl _ x)

theorem State.Lands.trans {s t u : State} (h : State.Lands P s t) (k : State.Lands P t u) : State.Lands P s u where
  cores := k.cores.trans h.cores
  uid := k.uid.trans h.uid
  courses d := by
    have first := h.courses d
    have second := k.courses d
    revert first second
    generalize s.course? d = a, t.course? d = b, u.course? d = e
    rintro (first | _) (second | _)
    · exact .some (first.trans second)
    · exact .none

theorem State.Lands.mono {Q : Nat → Prop} (imp : ∀ d, P d → Q d) {s t : State} (h : State.Lands P s t) : State.Lands Q s t where
  cores := h.cores
  uid := h.uid
  courses d := by
    have one := h.courses d
    revert one
    generalize s.course? d = a, t.course? d = b
    rintro (one | _)
    · exact .some (one.mono (imp d))
    · exact .none

/-- A course that stands goes on standing, changed as landing may change it. -/
theorem State.Lands.after {s t : State} (h : State.Lands P s t) {c : Nat} {x : Course} (hx : s.course? c = some x) :
    ∃ y, t.course? c = some y ∧ Course.Lands (P c) x y := by
  have one := h.courses c
  rw [hx] at one
  generalize t.course? c = b at one ⊢
  cases one with
  | some one => exact ⟨_, rfl, one⟩

/-- A course that stands has stood before. -/
theorem State.Lands.before {s t : State} (h : State.Lands P s t) {c : Nat} {y : Course} (hy : t.course? c = some y) :
    ∃ x, s.course? c = some x ∧ Course.Lands (P c) x y := by
  have one := h.courses c
  rw [hy] at one
  generalize s.course? c = a at one ⊢
  cases one with
  | some one => exact ⟨_, rfl, one⟩

theorem State.course?_onCourse_none {s : State} {c : Nat} (h : s.course? c = none) (g : Course → Course) :
    (s.onCourse c g).course? c = none := by
  unfold State.onCourse
  rw [State.course?] at h
  simp only [h]
  exact h

theorem State.Lands.onCourse (s : State) (c : Nat) {g : Course → Course} (hg : ∀ x, Course.Lands (P c) x (g x)) :
    State.Lands P s (s.onCourse c g) where
  cores := State.onCourse_cores ..
  uid := State.onCourse_uid ..
  courses d := by
    by_cases hd : d = c
    · subst hd
      cases hx : s.course? d with
      | none => rw [State.course?_onCourse_none hx]; exact .none
      | some x => rw [State.course?_onCourse_self hx]; exact .some (hg x)
    · rw [State.course?_onCourse_ne hd]
      exact (State.Lands.refl s).courses d

theorem State.Lands.foldl {α : Type} {f : State → α → State} (l : List α) (h : ∀ s, ∀ a ∈ l, State.Lands P s (f s a))
    (s : State) : State.Lands P s (l.foldl f s) := by
  induction l generalizing s with
  | nil => exact .refl s
  | cons a l ih =>
    exact (h s a List.mem_cons_self).trans (ih (fun s b hb => h s b (List.mem_cons_of_mem a hb)) _)

/-! ### Results land -/

theorem State.pushWindow_lands (s : State) (c : Nat) (f : Flight) : State.Lands P s (s.pushWindow c f) := by
  unfold State.pushWindow
  split
  · exact .refl s
  · exact .onCourse s _ fun x => ⟨rfl, fun _ h _ => h, fun _ => rfl⟩

/-- A write that stays outstanding when another has come is the write that it was. -/
theorem Flight.mem_of_arrived {l : List Flight} {id : Nat} {g : Flight}
    (hg : g ∈ l.map fun f => if f.id = id then { f with ready := true } else f) (hr : g.ready = false) : g ∈ l ∧ g.id ≠ id := by
  obtain ⟨f, hf, rfl⟩ := List.mem_map.1 hg
  by_cases h : f.id = id
  · rw [if_pos h] at hr
    cases hr
  · rw [if_neg h]
    exact ⟨hf, h⟩

variable {c : Nat} (own : P c)
include own

theorem State.switchReg_lands (s : State) (v n : Nat) : State.Lands P s (s.switchReg c v n) := by
  induction n generalizing s with
  | zero => exact .refl s
  | succ n ih =>
    rw [State.switchReg]
    dsimp only
    split
    · exact .refl s
    next f _ =>
      have taken := State.Lands.onCourse (P := P) s c (g := fun y =>
        ({ y with flights := y.flights.filter fun g => g.id != f.id } : Course).drain)
        fun x => ⟨rfl, fun g hg _ => (List.mem_filter.1 hg).1, fun no => absurd own no⟩
      split
      · exact .refl s
      refine (taken.trans ?_).trans (ih _)
      split
      · exact State.pushWindow_lands _ c f
      · exact .onCourse _ c fun x => ⟨rfl, fun _ h _ => h, fun no => absurd own no⟩

theorem State.arrive_lands (s : State) (f : Flight) (id : Nat) : State.Lands P s (s.onCourse c fun y =>
    { y.raise f.flags with flights := y.flights.map fun g => if g.id = id then { g with ready := true } else g }) :=
  .onCourse s c fun _ => ⟨rfl, fun _ hg hr => (Flight.mem_of_arrived hg hr).1, fun no => absurd own no⟩

theorem State.landFlight_lands (s : State) (id : Nat) : State.Lands P s (s.landFlight c id) := by
  unfold State.landFlight
  split
  · exact .refl s
  next f _ =>
    have arrived := State.arrive_lands own s f id
    dsimp only
    split
    · exact arrived.trans (.onCourse _ c fun x => ⟨rfl, fun g hg _ => (List.mem_filter.1 hg).1, fun no => absurd own no⟩)
    · exact arrived.trans (State.switchReg_lands own _ _ _)

theorem State.landMany_lands (s : State) (ids : List Nat) : State.Lands P s (s.landMany c ids) :=
  .foldl ids (fun s id _ => State.landFlight_lands own s id) s

theorem State.landDue_lands (s : State) (clk : Nat) : State.Lands P s (s.landDue c clk) := State.landMany_lands own s _

end lands

/-- A result that has landed is not outstanding any more. -/
theorem State.landFlight_settles {s : State} {c id : Nat} {y : Course} (hy : (s.landFlight c id).course? c = some y) :
    ∀ g ∈ y.flights, g.ready = false → g.id ≠ id := by
  unfold State.landFlight at hy
  split at hy
  next none =>
    rw [State.course_of_some hy] at none
    exact fun g hg _ => by simpa using List.find?_eq_none.1 none g hg
  next f _ =>
    have own : (fun d => d = c) c := rfl
    dsimp only at hy
    split at hy
    · obtain ⟨a, ha, -⟩ := (State.Lands.onCourse (P := fun _ => True) _ c fun x =>
        ⟨rfl, fun g hg _ => (List.mem_filter.1 hg).1, fun no => absurd trivial no⟩).before hy
      rw [State.course?_onCourse_self ha] at hy
      cases hy
      exact fun g hg _ => by simpa using (List.mem_filter.1 hg).2
    · obtain ⟨a, ha, landed⟩ := (State.switchReg_lands own _ _ _).before hy
      obtain ⟨x, hx, -⟩ := (State.arrive_lands own s f id).before ha
      rw [State.course?_onCourse_self hx] at ha
      cases ha
      exact fun g hg hr => (Flight.mem_of_arrived (landed.open_ g hg hr) hr).2

/-- Once results have landed, what is outstanding was so before and is none of them. -/
theorem State.landMany_settles {c : Nat} (ids : List Nat) {s : State} {y : Course}
    (hy : (s.landMany c ids).course? c = some y) :
    ∀ g ∈ y.flights, g.ready = false → g ∈ (s.course c).flights ∧ g.id ∉ ids := by
  have own : (fun d => d = c) c := rfl
  induction ids generalizing s with
  | nil =>
    intro g hg _
    rw [State.course_of_some (s := s) hy]
    exact ⟨hg, List.not_mem_nil⟩
  | cons id ids ih =>
    intro g hg hr
    obtain ⟨a, ha, rest⟩ := (State.landMany_lands own (s.landFlight c id) ids).before hy
    obtain ⟨x, hx, first⟩ := (State.landFlight_lands own s id).before ha
    obtain ⟨here, later⟩ := ih hy g hg hr
    rw [State.course_of_some ha] at here
    rw [State.course_of_some hx]
    refine ⟨first.open_ g here hr, fun bad => ?_⟩
    rcases List.mem_cons.1 bad with now | after
    · exact State.landFlight_settles ha g here hr now
    · exact later after

/-- No result whose bound has come is left outstanding (R64). -/
theorem State.landDue_settles {s : State} {c clk : Nat} {y : Course} (hy : (s.landDue c clk).course? c = some y) :
    ∀ g ∈ y.flights, g.ready = false → ∀ d, g.due = some d → clk < d := by
  intro g hg hr d hd
  obtain ⟨here, later⟩ := State.landMany_settles _ hy g hg hr
  by_contra late
  refine later (List.mem_map_of_mem (List.mem_filter.2 ⟨here, ?_⟩))
  rw [hr, hd]
  simpa using late

/-! ### The results of a core (R64) -/

/-- The courses of a core, by number. -/
def State.onCore? (s : State) (k : Nat × Nat) : List Nat := (s.residents k).map (·.1)

theorem mem_of_tget {κ α : Type} [DecidableEq κ] {k : κ} {x : α} {l : List (κ × α)} (h : tget k l = some x) : (k, x) ∈ l := by
  induction l with
  | nil => cases h
  | cons p l ih =>
    rw [tget] at h
    split at h
    next same =>
      cases h
      exact same ▸ List.mem_cons_self
    next => exact List.mem_cons_of_mem p (ih h)

theorem State.mem_onCore? {s : State} {c : Nat} {x : Course} {k : Nat × Nat} (hx : s.course? c = some x)
    (core : x.coreKey = k) (here : x.pres = .resident) : c ∈ s.onCore? k :=
  List.mem_map_of_mem (f := Prod.fst) (List.mem_filter.2 ⟨mem_of_tget hx, by simp [core, here]⟩)

/-- The due results of courses land, one course after the other. -/
def State.landEach (s : State) (clk : Nat) (l : List Nat) : State := l.foldl (fun s c => s.landDue c clk) s

theorem State.landCore_eq (s : State) (k : Nat × Nat) :
    s.landCore k = (s.landMacls k).landEach (s.core k).clk ((s.landMacls k).onCore? k) := by
  rw [State.landEach, State.onCore?, List.foldl_map]
  rfl

theorem State.landMacls_of_empty {s : State} {k : Nat × Nat} (h : (s.core k).mq = []) : s.landMacls k = s := by
  rw [State.landMacls, h]
  rfl

theorem State.landEach_lands (s : State) (clk : Nat) (l : List Nat) : State.Lands (· ∈ l) s (s.landEach clk l) :=
  .foldl l (fun s _ hc => State.landDue_lands hc s clk) s

theorem State.landEach_append (s : State) (clk : Nat) (l m : List Nat) :
    s.landEach clk (l ++ m) = (s.landEach clk l).landEach clk m := List.foldl_append

theorem State.landEach_cons (s : State) (clk c : Nat) (l : List Nat) :
    s.landEach clk (c :: l) = (s.landDue c clk).landEach clk l := rfl

/-- A course whose results have landed has none outstanding whose bound has come. -/
theorem State.landEach_settles {s : State} {c clk : Nat} {l : List Nat} (hc : c ∈ l) {y : Course}
    (hy : (s.landEach clk l).course? c = some y) :
    ∀ g ∈ y.flights, g.ready = false → ∀ d, g.due = some d → clk < d := by
  obtain ⟨l₁, l₂, rfl⟩ := List.append_of_mem hc
  rw [State.landEach_append, State.landEach_cons] at hy
  obtain ⟨a, ha, rest⟩ := (State.landEach_lands _ clk l₂).before hy
  exact fun g hg hr => State.landDue_settles ha g (rest.open_ g hg hr) hr

/-- No result of a resident course whose bound has come is left outstanding (R64). -/
theorem State.landCore_settles {s : State} {k : Nat × Nat} {c : Nat} {y : Course} (hy : (s.landCore k).course? c = some y)
    (core : y.coreKey = k) (here : y.pres = .resident) :
    ∀ g ∈ y.flights, g.ready = false → ∀ d, g.due = some d → (s.core k).clk < d := by
  rw [State.landCore_eq] at hy
  obtain ⟨x, hx, landed⟩ := (State.landEach_lands _ _ _).before hy
  have same : x.coreKey = y.coreKey := by rw [landed.only]; rfl
  have resident : x.pres = .resident := by rw [landed.only] at here; exact here
  exact State.landEach_settles (State.mem_onCore? hx (same.trans core) resident) hy

/-! ### A result that lands alone on its register (R50, R54, R166) -/

/-- The course that a landing of its only outstanding write leaves. -/
theorem Course.landAlone_eq {x : Course} {f : Flight} (hf : x.flights = [f]) (v stamp : Nat) :
    x.landAlone f v stamp = { x with
      flags := x.flags ||| (f.flags &&& flagsMask)
      flights := []
      outs := (x.landAlone f v stamp).outs
      v := modAt v (fun e => e.land x.w { f with ready := true } stamp) x.v } := by
  have none := (Course.landAlone_spec hf v stamp).1
  rw [← none]
  rfl

theorem State.landDue_of_none {s : State} {c : Nat} {x : Course} (hx : s.course? c = some x) (hf : x.flights = []) (clk : Nat) :
    s.landDue c clk = s := by
  rw [State.landDue, State.course_of_some hx, hf]
  rfl

theorem State.landDue_alone {s : State} {c clk : Nat} {x : Course} {f : Flight} (hx : s.course? c = some x)
    (hf : x.flights = [f]) (hr : f.ready = false) {d : Nat} (hd : f.due = some d) (due : d ≤ clk) :
    s.landDue c clk = s.landFlight c f.id := by
  rw [State.landDue, State.course_of_some hx, hf]
  simp [hr, hd, due, State.landMany]

/-- A course without an outstanding write is left by the others' landings as it is, but for its window. -/
theorem State.landEach_rest {c clk : Nat} (l : List Nat) {s : State} {x : Course} (hx : s.course? c = some x)
    (hf : x.flights = []) : ∃ y, (s.landEach clk l).course? c = some y ∧ y = { x with qin := y.qin } := by
  induction l generalizing s x with
  | nil => exact ⟨x, hx, rfl⟩
  | cons e l ih =>
    rw [State.landEach_cons]
    by_cases he : c = e
    · subst he
      rw [State.landDue_of_none hx hf]
      exact ih hx hf
    · obtain ⟨a, ha, landed⟩ := (State.landDue_lands (P := (· = e)) rfl s clk).after hx
      have window := landed.other he
      obtain ⟨y, hy, same⟩ := ih ha (by rw [window]; exact hf)
      exact ⟨y, hy, same.trans (by rw [window])⟩

/-- A result of a resident course whose bound has come, alone on its way, has landed after the cycle. -/
theorem State.landEach_alone {s : State} {c clk v d : Nat} {l : List Nat} (hc : c ∈ l) {x : Course} {f : Flight}
    (hx : s.course? c = some x) (hf : x.flights = [f]) (hv : f.v = some v) (hlt : v < 64) (hrel : f.release = false)
    (hr : f.ready = false) (hd : f.due = some d) (due : d ≤ clk) (hu : 0 < s.uid) :
    ∃ y, (s.landEach clk l).course? c = some y ∧ y = { x with
      flags := x.flags ||| (f.flags &&& flagsMask)
      flights := []
      outs := y.outs
      qin := y.qin
      v := modAt v (fun e => e.land x.w { f with ready := true } (s.core x.coreKey).clk) x.v } := by
  obtain ⟨l₁, l₂, rfl, before⟩ := List.eq_append_cons_of_mem hc
  have early := s.landEach_lands clk l₁
  obtain ⟨a, ha, landed⟩ := early.after hx
  have window := landed.other before
  have flights : a.flights = [f] := by rw [window]; exact hf
  have now := State.landFlight_alone ha flights hv hrel (by unfold qwCode; omega) (early.uid ▸ hu)
  have clock : ((s.landEach clk l₁).core a.coreKey).clk = (s.core x.coreKey).clk := by
    have key : a.coreKey = x.coreKey := by rw [window]; rfl
    rw [key, State.core, early.cores]
    rfl
  rw [clock, ← State.landDue_alone ha flights hr hd due] at now
  obtain ⟨y, hy, rest⟩ := State.landEach_rest l₂ now (Course.landAlone_spec flights v _).1
  rw [State.landEach_append, State.landEach_cons]
  refine ⟨y, hy, ?_⟩
  rw [Course.landAlone_eq flights, window] at rest
  rw [rest]
  rfl

theorem State.switchReg_only (c : Nat) {v : Nat} (hq : v ≠ qwCode) (n : Nat) (s : State) : OnlyCourse s (s.switchReg c v n) c := by
  induction n generalizing s with
  | zero => exact .refl s c
  | succ n ih =>
    rw [State.switchReg]
    dsimp only
    split
    · exact .refl s c
    split
    · exact .refl s c
    exact ((OnlyCourse.of_onCourse s c _).trans (.of_onCourse _ c _)).trans (ih _)

/-- A result of a register of the renamed file moves its course alone. -/
theorem State.landFlight_only {s : State} {c v : Nat} {x : Course} {f : Flight} (hx : s.course? c = some x)
    (hf : x.flights = [f]) (hv : f.v = some v) (hq : v ≠ qwCode) : OnlyCourse s (s.landFlight c f.id) c := by
  unfold State.landFlight
  simp only [State.course_of_some hx, hf, List.find?_cons, beq_self_eq_true, hv]
  exact (OnlyCourse.of_onCourse s c _).trans (State.switchReg_only c hq _ _)

/-! ### The clock of a cycle (R64, R389) -/

theorem State.onLoc_lands (s : State) (l : Loc) (f : VEntry → VEntry) : State.Lands (fun _ => True) s (s.onLoc l f) := by
  refine .onCourse s l.1 fun x => ?_
  split
  · exact ⟨rfl, fun _ h _ => h, fun no => absurd trivial no⟩
  · exact ⟨rfl, fun _ h _ => h, fun no => absurd trivial no⟩

theorem State.spillMany_lands (c : Nat) (cap : Bool) (excl : List Loc) (n : Nat) (s : State) :
    State.Lands (fun _ => True) s (s.spillMany c cap excl n) := by
  induction n generalizing s with
  | zero => exact .refl s
  | succ n ih =>
    refine .trans ?_ (ih (s.spillOne c cap excl))
    unfold State.spillOne
    split
    · exact .refl s
    · exact State.onLoc_lands s _ _

theorem State.draw_lands (s : State) (c n : Nat) (excl : List Loc) : State.Lands (fun _ => True) s (s.draw c n excl).2 := by
  unfold State.draw
  extract_lets k capShort poolShort
  clear_value capShort
  split
  · exact .refl s
  split
  · exact State.spillMany_lands c true excl _ s
  · exact State.spillMany_lands c false excl _ s

theorem State.startFill_lands (s : State) (l : Loc) (excl : List Loc) :
    State.Lands (fun _ => True) s (s.startFill l excl) := by
  unfold State.startFill
  dsimp only
  have drawn := s.draw_lands l.1 1 (l :: excl)
  split
  · exact .refl s
  split
  · exact drawn.trans (State.onLoc_lands _ l _)
  · exact drawn

theorem State.startFills_lands (s : State) (c : Nat) : State.Lands (fun _ => True) s (s.startFills c) :=
  .foldl _ (fun s v _ => s.startFill_lands (c, v) []) s

/-- No course has a request to leave its core. -/
def State.NoPre (s : State) : Prop := ∀ c, (s.course c).pre = none

theorem State.Lands.noPre {P : Nat → Prop} {s t : State} (h : State.Lands P s t) (no : s.NoPre) : t.NoPre := by
  intro c
  cases ht : t.course? c with
  | none =>
    rw [State.course, ← State.course?, ht]
    rfl
  | some y =>
    obtain ⟨x, hx, landed⟩ := h.before ht
    have := no c
    rw [State.course_of_some hx] at this
    rw [State.course_of_some ht, landed.only]
    exact this

theorem State.leaveLeft_of_noPre {s : State} (no : s.NoPre) (c : Nat) : s.leaveLeft c = s := by
  rw [State.leaveLeft, no c]

/-- Without a request to leave, a cycle only lands results and starts fills. -/
theorem State.cycle_rest (l : List (Nat × Course)) {s : State} (no : s.NoPre) :
    State.Lands (fun _ => True) s (l.foldl (fun v c => (v.startFills c.1).leaveLeft c.1) s) := by
  induction l generalizing s with
  | nil => exact .refl s
  | cons p l ih =>
    have fills := State.startFills_lands s p.1
    rw [List.foldl_cons, State.leaveLeft_of_noPre (fills.noPre no)]
    exact fills.trans (ih (fills.noPre no))

theorem State.noPre_of_courses {s : State} (no : ∀ p ∈ s.courses, p.2.pre = none) : s.NoPre := by
  intro c
  cases hc : s.course? c with
  | none =>
    rw [State.course, ← State.course?, hc]
    rfl
  | some x =>
    rw [State.course_of_some hc]
    exact no _ (mem_of_tget hc)

/-- A cycle without matrix commands and without requests to leave changes no core beyond its count. -/
theorem State.cycle_cores {s : State} {k : Nat × Nat} (empty : (s.core k).mq = []) (no : s.NoPre) :
    (((s.landCore k).residents k).foldl (fun v c => (v.startFills c.1).leaveLeft c.1) (s.landCore k)).cores = s.cores := by
  have landed : State.Lands (fun _ => True) s (s.landCore k) := by
    rw [State.landCore_eq, State.landMacls_of_empty empty]
    exact (s.landEach_lands _ _).mono fun _ _ => trivial
  exact (landed.trans (State.cycle_rest _ (landed.noPre no))).cores

/-- The core as a cycle begins: one ac further (R389). -/
def State.counted (s : State) (k : Nat × Nat) : State :=
  ({ s with turn := s.nextTurn k } : State).onCore k fun c => { c with clk := c.clk + 1 }

theorem State.core_counted (s : State) (k : Nat × Nat) : (s.counted k).core k = { s.core k with clk := (s.core k).clk + 1 } :=
  State.core_onCore_self _ _

/-! ### Expiry and asynchronous traps (R19, R209, R214, R219, R221) -/

theorem Course.selectable_spec {x : Course} (h : x.selectable = true) :
    x.pres = .resident ∧ x.live ≠ 0 ∧ ∀ p, x.pre = some p → p.force = false ∧ p.left = false := by
  simp only [Course.selectable, Bool.and_eq_true, beq_iff_eq, bne_iff_ne, Bool.not_eq_true'] at h
  obtain ⟨⟨⟨⟨here, live⟩, -⟩, -⟩, stays⟩ := h
  refine ⟨here, live, fun p hp => ?_⟩
  rw [hp] at stays
  simpa using stays

theorem exec_asyncTrapDelivery_next {s : State} {c : Nat} {x : Course} (hx : s.course? c = some x) (hs : x.selectable = true)
    (row : x.info.row = none) : exec (.asyncTrapDelivery c) s = .next ((s.deliver c).getD s) := by
  rw [exec_asyncTrapDelivery, execAsyncTrapDelivery, State.course_of_some hx, row, hs]
  rfl

theorem State.onCourse_congr {s : State} {c : Nat} {x : Course} (hx : s.course? c = some x) {f g : Course → Course}
    (h : f x = g x) : s.onCourse c f = s.onCourse c g := by
  rw [State.onCourse_eq hx, State.onCourse_eq hx, h]

section deliver
variable {s : State} {c : Nat} {x : Course} (hx : s.course? c = some x) (here : x.pres = .resident) (live : x.live ≠ 0)
include hx here live

theorem State.deliver_goes : ((s.course c).pres != .resident || decide ((s.course c).live = 0)) = false := by
  rw [State.course_of_some hx, here]
  simpa using live

/-- The one error that a course has pending is taken. -/
theorem State.deliver_error {e : PendErr} (hp : x.pend = [e]) (hh : x.hnd = false) :
    s.deliver c = some
      (let u : State := s.onCourse c fun y => { y with pend := [] }
       let t : Trap := { code := e.code, sub := e.sub, tsa := e.tsa, tsb := e.tsb, tlpc := x.turn, tlanes := 0, wk := 0, dln := 0 }
       if e.shared = true then u.takeOne c t e.hnd else u.takeTrap c t e.hnd) := by
  have taken : s.onCourse c (fun y => { y with pend := y.pend.erase e }) = s.onCourse c fun y => { y with pend := [] } :=
    State.onCourse_congr hx (by rw [hp, List.erase_cons_head])
  have first : minBy errRank ((s.course c).pend.filter fun e => !(s.course c).hnd || e.hnd) = some e := by
    rw [State.course_of_some hx, hp, hh]
    rfl
  unfold State.deliver
  simp only [State.deliver_goes hx here live, first, Bool.false_eq_true, if_false]
  rw [taken, State.course_of_some hx]

/-- Errors that came before HND was set wait while it is. -/
theorem State.deliver_waits (hp : ∀ e ∈ x.pend, e.hnd = false) (hh : x.hnd = true) : s.deliver c = none := by
  have nothing : minBy errRank ((s.course c).pend.filter fun e => !(s.course c).hnd || e.hnd) = none := by
    rw [State.course_of_some hx, hh, minBy_eq_none, List.filter_eq_nil_iff]
    exact fun e he => by simp [hp e he]
  unfold State.deliver
  simp only [State.deliver_goes hx here live, nothing, Bool.false_eq_true, if_false]
  rw [State.course_of_some hx]
  split
  · rw [if_pos (by simp [hh])]
  · rfl

/-- A request to leave the core is taken when no error is left. -/
theorem State.deliver_pre {p : PreReq} (hp : x.pend = []) (hpre : x.pre = some p) (taken : p.taken = false)
    (force : p.force = false) (left : p.left = false) (hh : x.hnd = false) (handler : x.handler ≠ 0)
    (alone : x.info.partner = none) :
    s.deliver c = some ((s.onCourse c fun y => { y with pre := some { p with taken := true } }).takeTrap c
      { code := 0x10, sub := 0, tsa := 0, tsb := 0, tlpc := x.turn, tlanes := 0, wk := 0, dln := p.deadline - s.time } false) := by
  have nothing : minBy errRank ((s.course c).pend.filter fun e => !(s.course c).hnd || e.hnd) = none := by
    rw [State.course_of_some hx, hp]
    rfl
  have marked : s.onCourse c (fun y => if y.hnd then y else { y with pre := y.pre.map fun q => { q with taken := true } }) =
      s.onCourse c fun y => { y with pre := some { p with taken := true } } :=
    State.onCourse_congr hx (by rw [hh, if_neg (by decide), hpre]; rfl)
  have noErrors : (s.unit c).any (fun d => (s.course d).pres == .resident && !(s.course d).hnd && !(s.course d).pend.isEmpty) =
      false := by
    rw [State.unit_alone hx alone]
    simp [State.course_of_some hx, hp]
  unfold State.deliver
  simp only [State.deliver_goes hx here live, nothing, noErrors, Bool.false_eq_true, if_false]
  simp only [State.course_of_some hx, hpre, taken, force, left, hh, decide_eq_false handler, Bool.or_self, Bool.false_eq_true,
    if_false, State.unit_alone hx alone, List.foldl_cons, List.foldl_nil, marked]
  rfl

end deliver

theorem exec_fairnessExpiry_next {s : State} {c : Nat} {x : Course} (hx : s.course? c = some x) (hc : s.iss.course = c)
    (ppr : x.ppr = true) (src : s.iss.src.ppr = true) (row : x.info.row = none) (lim : fairCnt x.fairt = fairLim x.fairt) :
    exec (.fairnessExpiry c) s =
      .next (s.onCourse c fun y => { y with fairt := expireFair x.fairt s.iss.src s.iss.pc }) := by
  rw [exec_fairnessExpiry, execFairnessExpiry, if_neg (by simpa using hc)]
  refine congrArg _ (State.onCourse_congr hx ?_)
  simp only [ppr, src, row, lim, Option.isNone_none, Bool.and_self, decide_true, if_true]

/-- Settles O43: `State.cycle` step by step, `State.landCore_settles` and `State.landEach_alone` for what lands in it,
`State.landFlight_alone` for one landing, `State.deliver` case by case for the asynchronous traps. -/
theorem coreAndCourseEvents : Obligations.CoreAndCourseEvents := by
  refine ⟨fun s die core => ⟨fun runs => ?_, fun stands => ?_⟩, fun s k c x => ⟨fun hx core here f hf hr d hd => ?_, ?_⟩,
    fun s c x hx hc ppr src row lim => ?_, fun s c v x f hx hf hv hlt hrel hr hd hu => ?_,
    fun s c x hx hs row => ⟨fun e hp hh => ?_, fun hp hh => ?_, fun p hp hpre taken hh handler alone => ?_⟩⟩
  · refine ⟨_, _, _, rfl, rfl, ?_, rfl, fun empty no => ?_⟩
    · rw [exec_coreIssueCycle, execCoreIssueCycle, State.cycle]
      simp only [runs, Bool.not_true, Bool.false_eq_true, if_false]
      rfl
    · have empty' : ((s.counted (die, core)).core (die, core)).mq = [] := by
        rw [State.core_counted]
        exact empty
      have cores := State.cycle_cores empty' (State.noPre_of_courses no)
      exact (congrArg Core.clk (State.core_of_cores cores (die, core))).trans (congrArg Core.clk (s.core_counted (die, core)))
  · rw [exec_coreIssueCycle, execCoreIssueCycle, State.cycle]
    simp only [stands, Bool.not_false, if_true]
  · exact State.landCore_settles hx core here f hf hr d hd
  · intro hx core here empty hu f v d hf hv hlt hrel hr hd due
    obtain ⟨y, hy, same⟩ := State.landEach_alone (State.mem_onCore? hx core here) hx hf hv hlt hrel hr hd due hu
    refine ⟨y, ?_, core ▸ same⟩
    rw [State.landCore_eq, State.landMacls_of_empty empty]
    exact hy
  · refine ⟨_, exec_fairnessExpiry_next hx hc ppr src row lim, .of_onCourse s c _, State.course?_onCourse_self hx _⟩
  · have hq : v ≠ qwCode := by
      unfold qwCode
      omega
    refine ⟨s.landFlight c f.id, _, ?_, State.landFlight_only hx hf hv hq, State.landFlight_alone hx hf hv hrel hq hu,
      Course.landAlone_eq hf v _⟩
    rw [exec_resultLanding, execResultLanding, State.course_of_some hx, hf]
    simp [hr, hd]
  · obtain ⟨here, live, -⟩ := Course.selectable_spec hs
    rw [exec_asyncTrapDelivery_next hx hs row, State.deliver_error hx here live hp hh]
    rfl
  · obtain ⟨here, live, -⟩ := Course.selectable_spec hs
    rw [exec_asyncTrapDelivery_next hx hs row, State.deliver_waits hx here live hp hh]
    rfl
  · obtain ⟨here, live, stays⟩ := Course.selectable_spec hs
    obtain ⟨force, left⟩ := stays p hpre
    rw [exec_asyncTrapDelivery_next hx hs row, State.deliver_pre hx here live hp hpre taken force left hh handler alone]
    rfl

end Sys2Proof.Machine
